-- ==== Sys2Proof/Word.lean ====
section
/-!
DEFINITION. The word types of the Jawen 3X: bytes, 32-bit registers (00_scope.md, "Notation and units"), 64-bit counts, and
the bit rows over the 16,384 E-indices and the 4,096 routes (02_station_image.md R42).
-/
namespace Sys2Proof

/-- One byte of a frame, a section or a memory. -/
abbrev Byte := BitVec 8

/-- A frame, telegram, PDU or message as its bytes in the order sent. -/
abbrev Bytes := List (BitVec 8)

/-- A 32-bit register. -/
abbrev Word32 := BitVec 32

/-- A 64-bit count, digest block or seal. -/
abbrev Word64 := BitVec 64

/-- A row of one bit per E-index (R42). -/
abbrev ERow := BitVec 16384

/-- A row of one bit per route (R42). -/
abbrev RRow := BitVec 4096

/-- The three lanes (01_one_logic_cycle.md R12). -/
inductive Lane where
  | a
  | b
  | c
  deriving DecidableEq, Repr

/-- The two Opbex channels, and the ports of a pair A and B (07_opbex.md R187). -/
inductive Chan where
  | a
  | b
  deriving DecidableEq, Repr

/-- One value per lane. -/
structure PerLane (α : Type) where
  a : α
  b : α
  c : α
  deriving DecidableEq, Repr

/-- One value per channel. -/
structure PerChan (α : Type) where
  a : α
  b : α
  deriving DecidableEq, Repr

/-- Bit `n` of a lane mask stands for lane A (0), B (1), C (2) (06_lanes_and_voting.md R160). -/
def Lane.idx : Lane → Nat
  | .a => 0
  | .b => 1
  | .c => 2

def Chan.idx : Chan → Nat
  | .a => 0
  | .b => 1

def Chan.other : Chan → Chan
  | .a => .b
  | .b => .a

/-- The lanes in the order A, B, C. -/
def Lane.all : List Lane := [.a, .b, .c]

def PerLane.get {α : Type} (p : PerLane α) : Lane → α
  | .a => p.a
  | .b => p.b
  | .c => p.c

def PerLane.set {α : Type} (p : PerLane α) (l : Lane) (v : α) : PerLane α :=
  match l with
  | .a => { p with a := v }
  | .b => { p with b := v }
  | .c => { p with c := v }

def PerLane.map {α β : Type} (p : PerLane α) (f : α → β) : PerLane β := ⟨f p.a, f p.b, f p.c⟩

def PerLane.mapL {α β : Type} (p : PerLane α) (f : Lane → α → β) : PerLane β := ⟨f .a p.a, f .b p.b, f .c p.c⟩

/-- The same value in each lane. -/
def PerLane.const {α : Type} (v : α) : PerLane α := ⟨v, v, v⟩

def PerChan.get {α : Type} (p : PerChan α) : Chan → α
  | .a => p.a
  | .b => p.b

def PerChan.set {α : Type} (p : PerChan α) (ch : Chan) (v : α) : PerChan α :=
  match ch with
  | .a => { p with a := v }
  | .b => { p with b := v }

def PerChan.map {α β : Type} (p : PerChan α) (f : α → β) : PerChan β := ⟨f p.a, f p.b⟩

def PerChan.const {α : Type} (v : α) : PerChan α := ⟨v, v⟩

end Sys2Proof
end

