-- ==== Sys2Proof/Machine/Mem.lean ====
section
/-!
DEFINITION. Byte memory as a canonical list of cells, sparse maps, and little-endian fields of byte strings (00_scope.md R7).
An unlisted byte of memory reads 0 (DESIGN CHOICE, unsafe, assumption log 2).
-/
namespace Sys2Proof.Machine

/-- Byte memory: addresses strictly rising, no listed byte 0. -/
abbrev Mem := List Host.Cell

/-- The canonical form of a memory. -/
def Mem.wf (m : Mem) : Bool :=
  decide (m.Pairwise (fun x y => x.1 < y.1)) && m.all (fun c => c.2 != 0#8)

/-- One byte. -/
def Mem.getB : Mem → Nat → Byte
  | [], _ => 0#8
  | (k, v) :: r, a => if k = a then v else Mem.getB r a

/-- The `n` bytes from `a` as one little-endian number (R7). -/
def Mem.rd (m : Mem) (a n : Nat) : Nat :=
  m.foldl (fun acc c => if a ≤ c.1 ∧ c.1 < a + n then acc + c.2.toNat <<< (8 * (c.1 - a)) else acc) 0

/-- Byte `i` of a number. -/
def byteOf (v i : Nat) : Byte := BitVec.ofNat 8 (v >>> (8 * i))

/-- The cells that hold the low `n` bytes of `v` at `a`; zero bytes are not listed. -/
def Mem.cellsOf (a n v : Nat) : Mem :=
  (List.range n).filterMap fun i => if byteOf v i = 0#8 then none else some (a + i, byteOf v i)

/-- Write the low `n` bytes of `v` at `a`, little-endian (R7). -/
def Mem.wr (m : Mem) (a n v : Nat) : Mem :=
  m.filter (fun c => decide (c.1 < a)) ++ Mem.cellsOf a n v ++ m.filter (fun c => decide (a + n ≤ c.1))

/-- Set the `n` bytes from `a` to zero. -/
def Mem.clear (m : Mem) (a n : Nat) : Mem :=
  m.filter (fun c => decide (c.1 < a)) ++ m.filter (fun c => decide (a + n ≤ c.1))

/-- The cells of `[src, src + n)` moved to `dst`. -/
def Mem.moved (m : Mem) (src dst n : Nat) : Mem :=
  (m.filter (fun c => decide (src ≤ c.1) && decide (c.1 < src + n))).map fun c => (c.1 - src + dst, c.2)

/-- Put the cells of `[src, src + n)` of `f` at `dst` of `m`; what stood there is replaced. -/
def Mem.splice (m f : Mem) (src dst n : Nat) : Mem :=
  m.filter (fun c => decide (c.1 < dst)) ++ Mem.moved f src dst n ++ m.filter (fun c => decide (dst + n ≤ c.1))

/-- The `n` bytes from `a` as a byte string. -/
def Mem.bytes (m : Mem) (a n : Nat) : Bytes :=
  let v := m.rd a n
  (List.range n).map (byteOf v)

/-- The number a byte string spells, little-endian. -/
def Bytes.nat : Bytes → Nat
  | [] => 0
  | b :: r => b.toNat + 256 * Bytes.nat r

/-- The number a byte string spells, big-endian (network order). -/
def Bytes.natBE (bs : Bytes) : Nat := bs.foldl (fun a b => 256 * a + b.toNat) 0

/-- `n` little-endian bytes of a number. -/
def leBytes (n v : Nat) : Bytes := (List.range n).map (byteOf v)

/-- `n` big-endian bytes of a number. -/
def beBytes (n v : Nat) : Bytes := (leBytes n v).reverse

/-- Write a byte string. -/
def Mem.wrBytes (m : Mem) (a : Nat) (bs : Bytes) : Mem := m.wr a bs.length (Bytes.nat bs)

/-- Little-endian field of `n` bytes at offset `o` of a byte string; missing bytes read 0. -/
def Bytes.le (bs : Bytes) (o n : Nat) : Nat := Bytes.nat ((bs.drop o).take n)

/-- Big-endian field of `n` bytes at offset `o`. -/
def Bytes.be (bs : Bytes) (o n : Nat) : Nat := Bytes.natBE ((bs.drop o).take n)

/-- `n` bytes from offset `o`. -/
def Bytes.sub (bs : Bytes) (o n : Nat) : Bytes := (bs.drop o).take n

/-- A byte string brought to exactly `n` bytes: cut, or filled up with zeros. -/
def Bytes.pad (bs : Bytes) (n : Nat) : Bytes := bs.take n ++ List.replicate (n - bs.length) 0#8

/-- Bits `[hi:lo]` of a number. -/
def bits (v hi lo : Nat) : Nat := (v >>> lo) % 2 ^ (hi + 1 - lo)

/-- Bit `i` of a number. -/
def bit (v i : Nat) : Bool := v.testBit i

/-- A bit as a number. -/
def b2n (b : Bool) : Nat := if b then 1 else 0

/-- Sparse map from numbers: keys strictly rising, no entry equal to the default the reader names. -/
abbrev SMap (α : Type) := List (Nat × α)

/-- The value at a key, or the default. -/
def SMap.get {α : Type} (d : α) : SMap α → Nat → α
  | [], _ => d
  | (k, v) :: r, a => if k = a then v else SMap.get d r a

/-- Set the value at a key; a value equal to the default is not listed. -/
def SMap.set {α : Type} [DecidableEq α] (d : α) (m : SMap α) (a : Nat) (v : α) : SMap α :=
  m.filter (fun c => decide (c.1 < a)) ++ (if v = d then [] else [(a, v)]) ++ m.filter (fun c => decide (a < c.1))

/-- The value at a key where there is one. -/
def SMap.find {α : Type} : SMap α → Nat → Option α
  | [], _ => none
  | (k, v) :: r, a => if k = a then some v else SMap.find r a

/-- Set the value at a key (no default to leave out). -/
def SMap.put {α : Type} (m : SMap α) (a : Nat) (v : α) : SMap α :=
  m.filter (fun c => decide (c.1 < a)) ++ [(a, v)] ++ m.filter (fun c => decide (a < c.1))

/-- Remove a key. -/
def SMap.del {α : Type} (m : SMap α) (a : Nat) : SMap α := m.filter (fun c => decide (c.1 ≠ a))

/-- Replace the element at index `i` of a list. -/
def setAt {α : Type} (l : List α) (i : Nat) (v : α) : List α := l.set i v

/-- The lowest set bit of a number, where there is one. -/
def lowestBit (n : Nat) : Option Nat := if n = 0 then none else some (Nat.log2 (n ^^^ (n - 1)))

/-- The number of set bits among the low `w` bits. -/
def popCount (w n : Nat) : Nat := (List.range w).foldl (fun a i => if n.testBit i then a + 1 else a) 0

/-- The indices of the set bits among the low `w`, rising. -/
def bitList (w n : Nat) : List Nat := (List.range w).filter (fun i => n.testBit i)

end Sys2Proof.Machine
end

