-- ==== Sys2Proof/Machine/AmberState.lean ====
section
/-!
DEFINITION. Amber records and the recorder's state (17_amber_recorder.md).
-/
namespace Sys2Proof.Machine

/-- A record as its writer hands it over (R461): SEQ and CHK are Amber's. `src` is ORIGIN[3:0], `level` ORIGIN[7:4], `unitNo`
ORIGIN[15:8], `transport` ORIGIN[23:16]. -/
structure Rec where
  code : Nat
  flags : Nat
  time : Nat
  cycle : Nat
  src : Nat
  level : Nat
  unitNo : Nat
  transport : Nat
  sid : Nat
  param : Bytes
  deriving DecidableEq, Repr

/-- What a unit asks to have recorded; TIME, CYCLE and SID are filled in when it is offered. -/
structure Evt where
  code : Nat
  src : Nat
  level : Nat
  unitNo : Nat
  transport : Nat
  flags : Nat
  param : Bytes
  deriving DecidableEq, Repr

/-- A record in the store. -/
structure Stored where
  seq : Nat
  body : Rec
  chk : Nat
  deriving DecidableEq, Repr

/-- One intake buffer (R463). -/
structure Intake where
  buf : List Rec
  acc : Nat
  lost : Nat
  owed : Nat
  deriving DecidableEq, Repr

/-- The rate window of one pair (code, source) (R467). -/
structure RateWin where
  code : Nat
  src : Nat
  start : Nat
  count : Nat
  suppressed : Nat
  first : Nat
  last : Nat
  deriving DecidableEq, Repr

/-- One lane's Amber port view (R471). -/
structure AmbPort where
  ctrl : Word32
  irq : Word32
  irqEn : Word32
  ppage : Word32
  pbusy : Bool
  errcap : Word32
  errcapLr : Word32
  deriving DecidableEq, Repr

/-- A copy of the recorder control block (R465). -/
structure CtlBlock where
  newest : Nat
  count : Nat
  crc : Nat
  deriving DecidableEq, Repr

/-- The recorder. `store` is keyed by slot. -/
structure Amber where
  intake : List Intake
  rr : Nat
  store : SMap Stored
  newest : Nat
  count : Nat
  ctl0 : CtlBlock
  ctl1 : CtlBlock
  ready : Bool
  pfail : Bool
  rates : List RateWin
  suppr : Nat
  port : PerLane AmbPort
  deriving DecidableEq, Repr

def Intake.empty : Intake := ⟨[], 0, 0, 0⟩
def AmbPort.reset : AmbPort := ⟨0, 0, 0, 0, false, 0, 0⟩
/-- The recorder after reset: an erased store, NEWEST 0xFFFF_FFFF (R471), not yet ready (R465). -/
def Amber.reset : Amber :=
  { intake := List.replicate 10 Intake.empty, rr := 0, store := [], newest := 0xFFFFFFFF, count := 0, ctl0 := ⟨0, 0, 0⟩,
    ctl1 := ⟨0, 0, 0⟩, ready := false, pfail := false, rates := [], suppr := 0, port := PerLane.const AmbPort.reset }

end Sys2Proof.Machine
end

