-- ==== Sys2Proof/Machine/StationImage.lean ====
section
/-!
DEFINITION. Readers of the station region in lane DRAM (02_station_image.md R36 to R46): element table, route table, overlap
table, release sequence list, relation rows and their transposed forms.
-/
namespace Sys2Proof.Machine

/-- A lane's DRAM with the bases of the station region (R44) and of Beryl's work region (R61). -/
structure Stn where
  mem  : Mem
  base : Nat
  wrk  : Nat
  deriving DecidableEq, Repr

def numE : Nat := 16384
def numR : Nat := 4096
def numO : Nat := 2048
/-- "none" in the 16-bit index fields of the image. -/
def none16 : Nat := 0xFFFF

/-- Field `n` bytes at `o` of the element table entry of E-index `e` (R36). -/
def Stn.ent (d : Stn) (e o n : Nat) : Nat := d.mem.rd (d.base + 0x08800000 + 32 * e + o) n
def Stn.eType (d : Stn) (e : Nat) : Nat := d.ent e 0 1
def Stn.eSub (d : Stn) (e : Nat) : Nat := d.ent e 1 1
def Stn.eIfc (d : Stn) (e : Nat) : Nat := bits (d.ent e 0 4) 19 16
def Stn.eTrail (d : Stn) (e : Nat) : Bool := bit (d.ent e 0 4) 20
def Stn.eLprove (d : Stn) (e : Nat) : Bool := bit (d.ent e 0 4) 21
def Stn.ePhcmd (d : Stn) (e : Nat) : Bool := bit (d.ent e 0 4) 22
def Stn.eAddr (d : Stn) (e : Nat) : Nat := d.ent e 4 2
def Stn.eChan (d : Stn) (e : Nat) : Nat := d.ent e 6 1
def Stn.eArea (d : Stn) (e : Nat) : Nat := d.ent e 7 1
def Stn.ePartner (d : Stn) (e : Nat) : Nat := d.ent e 8 2
def Stn.eSect (d : Stn) (e : Nat) : Nat := d.ent e 10 2
/-- PARAM word `k` (R37). -/
def Stn.eParam (d : Stn) (e k : Nat) : Nat := d.ent e (0x0C + 4 * k) 4
/-- An E-index is used when its TYPE is not 0x00 (R34). -/
def Stn.eUsed (d : Stn) (e : Nat) : Bool := d.eType e != 0

/-- The element classes of R35. -/
def isSection (t : Nat) : Bool := t == 1
def isPoint (t : Nat) : Bool := t == 2
def isSignal (t : Nat) : Bool := t == 3
def isAux (t : Nat) : Bool := decide (4 ≤ t ∧ t ≤ 8)

/-- Field of the route table entry of route `r` (R39). -/
def Stn.rte (d : Stn) (r o n : Nat) : Nat := d.mem.rd (d.base + 0x08900000 + 64 * r + o) n
def Stn.rKind (d : Stn) (r : Nat) : Nat := d.rte r 0 1
def Stn.rQueueOk (d : Stn) (r : Nat) : Bool := bit (d.rte r 0 4) 8
def Stn.rArsOk (d : Stn) (r : Nat) : Bool := bit (d.rte r 0 4) 9
def Stn.rAutoOk (d : Stn) (r : Nat) : Bool := bit (d.rte r 0 4) 10
def Stn.rDir (d : Stn) (r : Nat) : Bool := bit (d.rte r 0 4) 11
def Stn.rOvl (d : Stn) (r : Nat) : Nat := d.rte r 2 2
def Stn.rEntry (d : Stn) (r : Nat) : Nat := d.rte r 4 2
def Stn.rExit (d : Stn) (r : Nat) : Nat := d.rte r 6 2
def Stn.rTrel (d : Stn) (r : Nat) : Nat := d.rte r 8 4
def Stn.rAppr (d : Stn) (r : Nat) : Nat := d.rte r 12 4
def Stn.rSeqOff (d : Stn) (r : Nat) : Nat := bits (d.rte r 0x10 4) 16 0
def Stn.rSeqLen (d : Stn) (r : Nat) : Nat := bits (d.rte r 0x10 4) 23 17
def Stn.rApprLen (d : Stn) (r : Nat) : Nat := bits (d.rte r 0x10 4) 31 24
def Stn.rArea (d : Stn) (r : Nat) : Nat := d.rte r 0x14 1
/-- A route exists when its KIND is not 0 (R39). -/
def Stn.rExists (d : Stn) (r : Nat) : Bool := d.rKind r != 0

/-- Field of the overlap table entry of overlap `o` (R40). -/
def Stn.ovl (d : Stn) (o a n : Nat) : Nat := d.mem.rd (d.base + 0x08940000 + 128 * o + a) n
def Stn.oExit (d : Stn) (o : Nat) : Nat := d.ovl o 0 2
def Stn.oCount (d : Stn) (o : Nat) : Nat := d.ovl o 2 1
def Stn.oTrel (d : Stn) (o : Nat) : Nat := d.ovl o 4 4
def Stn.oTrig (d : Stn) (o : Nat) : Nat := d.ovl o 8 2
def Stn.oElems (d : Stn) (o : Nat) : List Nat :=
  (List.range (min (d.oCount o) 56)).map fun k => d.ovl o (0x10 + 2 * k) 2

/-- Entry `i` of the release sequence list (R41). -/
def Stn.seq (d : Stn) (i : Nat) : Nat := d.mem.rd (d.base + 0x08980000 + 2 * i) 2

/-- A bit row with the bits of a list of indices. -/
def erowOf (l : List Nat) : ERow :=
  BitVec.ofNat 16384 (l.foldl (fun a k => if k < 16384 then a ||| (1 <<< k) else a) 0)

def rrowOf (l : List Nat) : RRow :=
  BitVec.ofNat 4096 (l.foldl (fun a k => if k < 4096 then a ||| (1 <<< k) else a) 0)

/-- The elements of overlap `o` as a row; empty for none. -/
def Stn.oRow (d : Stn) (o : Nat) : ERow := if o ≥ numO then 0 else erowOf (d.oElems o)

/-- The release entries of route `r` as E-indices with their GEND bits, in order (R41). -/
def Stn.release (d : Stn) (r : Nat) : List (Nat × Bool) :=
  (List.range (d.rSeqLen r)).map fun k =>
    let w := d.seq (d.rSeqOff r + k)
    (bits w 13 0, bit w 15)

/-- The approach entries of route `r` (R41). -/
def Stn.approach (d : Stn) (r : Nat) : List Nat :=
  (List.range (d.rApprLen r)).map fun k => bits (d.seq (d.rSeqOff r + d.rSeqLen r + k)) 13 0

/-- Element relation row `i` (0 CLR, 1 PN, 2 PR, 3 FN, 4 FR, 5 LCK, 6 SIG, 7 AUX) of route `r` (R45). -/
def Stn.rel (d : Stn) (r i : Nat) : ERow := BitVec.ofNat 16384 (d.mem.rd (d.base + 17408 * r + 2048 * i) 2048)
/-- The CNF row (R45). -/
def Stn.cnf (d : Stn) (r : Nat) : RRow := BitVec.ofNat 4096 (d.mem.rd (d.base + 17408 * r + 0x4000) 512)
/-- The OVL row (R45). -/
def Stn.ovlRow (d : Stn) (r : Nat) : RRow := BitVec.ofNat 4096 (d.mem.rd (d.base + 17408 * r + 0x4200) 512)
/-- Row `i` of E-index `e` in the transposed element form (R46). -/
def Stn.trow (d : Stn) (e i : Nat) : RRow :=
  BitVec.ofNat 4096 (d.mem.rd (d.base + 0x04400000 + 4096 * e + 512 * i) 512)
/-- The OVL column of route `r` in the transposed route form (R46). -/
def Stn.ovlCol (d : Stn) (r : Nat) : RRow :=
  BitVec.ofNat 4096 (d.mem.rd (d.base + 0x08400000 + 1024 * r + 0x200) 512)
/-- The CNF column of route `r` (R46). -/
def Stn.cnfCol (d : Stn) (r : Nat) : RRow := BitVec.ofNat 4096 (d.mem.rd (d.base + 0x08400000 + 1024 * r) 512)

/-- The footprint of E-index `e` in the work region (R61). -/
def Stn.footprint (d : Stn) (e : Nat) : ERow := BitVec.ofNat 16384 (d.mem.rd (d.wrk + 2048 * e) 2048)
/-- The area row of area `a` in the work region (R61). -/
def Stn.areaRow (d : Stn) (a : Nat) : ERow := BitVec.ofNat 16384 (d.mem.rd (d.wrk + 0x02000000 + 2048 * a) 2048)

/-- The E-indices in use, rising. -/
def Stn.usedList (d : Stn) : List Nat := (List.range numE).filter d.eUsed
/-- The row of the E-indices in use. -/
def Stn.usedRow (d : Stn) : ERow := erowOf d.usedList
/-- The row of the existing routes. -/
def Stn.routeRow (d : Stn) : RRow := rrowOf ((List.range numR).filter d.rExists)
/-- The row of the used E-indices of which `p` holds. -/
def Stn.rowWhere (d : Stn) (p : Nat → Bool) : ERow := erowOf (d.usedList.filter p)

/-- The footprint R61 gives E-index `e`: for a track section its own bit and the bit of every element whose SECT names it. -/
def Stn.footprintOf (d : Stn) (used : List Nat) (e : Nat) : ERow :=
  if isSection (d.eType e) then erowOf (e :: used.filter fun x => d.eSect x == e) else 0

/-- The area row R61 gives area `a`. -/
def Stn.areaRowOf (d : Stn) (used : List Nat) (a : Nat) : ERow := erowOf (used.filter fun x => d.eArea x == a)

/-- The work region built anew from the element table (R61): footprints at 0, area rows at 0x0200_0000. -/
def Stn.buildWork (d : Stn) : Mem :=
  let used := d.usedList
  let m0 := d.mem.clear d.wrk 0x02080000
  let m1 := (used.filter fun e => isSection (d.eType e)).foldl
    (fun m e => m.wr (d.wrk + 2048 * e) 2048 (d.footprintOf used e).toNat) m0
  (List.range 256).foldl
    (fun m a =>
      let row := d.areaRowOf used a
      if row = 0 then m else m.wr (d.wrk + 0x02000000 + 2048 * a) 2048 row.toNat) m1

/-- The transposed forms built from the normal form (R46, R47). -/
def Stn.buildTransposed (d : Stn) : Mem :=
  let rs := (List.range numR).filter d.rExists
  let m0 := d.mem.clear (d.base + 0x04400000) 0x04400000
  let m1 := d.usedList.foldl
    (fun m e => (List.range 8).foldl
      (fun m i =>
        let row := rrowOf (rs.filter fun r => (d.rel r i).getLsbD e)
        if row = 0 then m else m.wr (d.base + 0x04400000 + 4096 * e + 512 * i) 512 row.toNat) m) m0
  rs.foldl
    (fun m s =>
      let c := rrowOf (rs.filter fun r => (d.cnf r).getLsbD s)
      let o := rrowOf (rs.filter fun r => (d.ovlRow r).getLsbD s)
      (m.wr (d.base + 0x08400000 + 1024 * s) 512 c.toNat).wr (d.base + 0x08400000 + 1024 * s + 0x200) 512 o.toNat) m1

end Sys2Proof.Machine
end

