-- ==== Sys2Proof/Machine/BerylState.lean ====
section
/-!
DEFINITION. The state of one lane's Beryl (03_route_admission.md): the state planes of R49, the working store of R60, the
registers of the Beryl register list, the descriptors in flight and the sweeps under way.
-/
namespace Sys2Proof.Machine

/-- The 32 element state planes (02_station_image.md R49, table "Element state planes"). -/
structure EPlanes where
  occ : ERow
  dist : ERow
  locked : ERow
  ovlk : ERow
  flank : ERow
  detN : ERow
  detR : ERow
  cmdN : ERow
  cmdR : ERow
  moving : ERow
  sigStop : ERow
  sigProceed : ERow
  lampFail : ERow
  blocked : ERow
  failed : ERow
  auxOk : ERow
  auxReq : ERow
  keyOut : ERow
  relpend : ERow
  dirUp : ERow
  dirDn : ERow
  lockSafe : ERow
  poss : ERow
  speedOk : ERow
  usr0 : ERow
  usr1 : ERow
  usr2 : ERow
  usr3 : ERow
  usr4 : ERow
  usr5 : ERow
  usr6 : ERow
  usr7 : ERow
  deriving DecidableEq, Repr

/-- The 16 route state planes (R49, table "Route state planes"). -/
structure RPlanes where
  set : RRow
  locked : RRow
  approach : RRow
  pending : RRow
  proven : RRow
  sigClear : RRow
  trel : RRow
  cancel : RRow
  srel : RRow
  ovlSet : RRow
  ovlTrel : RRow
  auto : RRow
  ars : RRow
  settable : RRow
  barred : RRow
  lockSafe : RRow
  deriving DecidableEq, Repr

/-- The order key of a request (R65). -/
structure Key where
  amc : Nat
  cls : Nat
  num : Nat
  seq : Nat
  deriving DecidableEq, Repr

/-- A request descriptor (R63); `rsv` says that a reserved field is not zero. -/
structure Desc where
  op : Nat
  tag : Nat
  queue : Bool
  cls : Nat
  num : Nat
  route : Nat
  amc : Nat
  seq : Nat
  arg0 : Nat
  arg1 : Nat
  arg2 : Nat
  rsv : Bool
  deriving DecidableEq, Repr

/-- A response descriptor (R64). -/
structure Rsp where
  status : Nat
  tag : Nat
  op : Nat
  unsol : Bool
  route : Nat
  who : Nat
  splane : Nat
  rplane : Nat
  count : Nat
  ord : Nat
  count2 : Nat
  deriving DecidableEq, Repr

/-- An accepted descriptor not yet decided; `pre` is the status of R63 steps 1 to 4 where one of them failed. -/
structure Accepted where
  desc : Desc
  pre : Option Nat
  deriving DecidableEq, Repr

/-- A response not yet in the ring; `holds` says that it belongs to a descriptor in flight that holds its TAG. -/
structure Answer where
  rsp : Rsp
  inflight : Bool
  holds : Bool
  deriving DecidableEq, Repr

/-- A pending entry (R74). -/
structure PendEntry where
  desc : Desc
  deadline : Nat
  deriving DecidableEq, Repr

/-- The planes an admission reads (R69), live or as the snapshot of R83. -/
structure View where
  locked : ERow
  ovlk : ERow
  lockSafe : ERow
  blocked : ERow
  poss : ERow
  failed : ERow
  dist : ERow
  sigStop : ERow
  keyOut : ERow
  lkn : ERow
  lkr : ERow
  fln : ERow
  flr : ERow
  fnf : ERow
  frf : ERow
  set : RRow
  pending : RRow
  barred : RRow
  sigovl : SMap Nat
  ovown : SMap Nat
  deriving DecidableEq, Repr

/-- Beryl's working store (R60). SIGOVL and OVOWN list only entries that are not 0xFFFF. -/
structure BerylStore where
  lkn : ERow
  lkr : ERow
  fnc0 : ERow
  fnc1 : ERow
  fnc2 : ERow
  fnc3 : ERow
  frc0 : ERow
  frc1 : ERow
  frc2 : ERow
  frc3 : ERow
  stg0 : RRow
  stg1 : RRow
  arun : BitVec 256
  otpend : BitVec 2048
  sigovl : SMap Nat
  ovown : SMap Nat
  rdl : SMap Nat
  odl : SMap Nat
  adl : SMap Nat
  progress : SMap Nat
  pend : List PendEntry
  snap : View
  deriving DecidableEq, Repr

/-- The registers of the Beryl register list that hold state of their own. -/
structure BerylRegs where
  ctrl : Word32
  irq : Word32
  irqEn : Word32
  stnLo : Word32
  stnHi : Word32
  wrkLo : Word32
  wrkHi : Word32
  reqRing : Word32
  reqProd : Word32
  reqCons : Word32
  rspRing : Word32
  rspProd : Word32
  rspCons : Word32
  nowLo : Word32
  nowHi : Word32
  nset : Nat
  age : Nat
  adm : Nat
  ref : Nat
  winPage : Word32
  errcap : Word32
  errcapLr : Word32
  loaded : Bool
  stepBusy : Bool
  faulted : Bool
  deriving DecidableEq, Repr

/-- A settability sweep under way or finished: its staging plane and the STEPs since it was started (R84). -/
structure SweepRun where
  plane : Nat
  steps : Nat
  deriving DecidableEq, Repr

/-- One lane's Beryl. -/
structure Beryl where
  el : EPlanes
  rt : RPlanes
  ws : BerylStore
  regs : BerylRegs
  latched : Nat
  lastKey : Key
  ord : Nat
  accepted : List Accepted
  answers : List Answer
  tags : List Nat
  sweepRun : Option SweepRun
  sweepReady : List SweepRun
  published : Bool
  deriving DecidableEq, Repr

def EPlanes.zero : EPlanes :=
  ⟨0, 0, 0, 0, 0, 0, 0, 0, 0, 0, 0, 0, 0, 0, 0, 0, 0, 0, 0, 0, 0, 0, 0, 0, 0, 0, 0, 0, 0, 0, 0, 0⟩
def RPlanes.zero : RPlanes := ⟨0, 0, 0, 0, 0, 0, 0, 0, 0, 0, 0, 0, 0, 0, 0, 0⟩
def Key.zero : Key := ⟨0, 0, 0, 0⟩
def View.zero : View := ⟨0, 0, 0, 0, 0, 0, 0, 0, 0, 0, 0, 0, 0, 0, 0, 0, 0, 0, [], []⟩
/-- The cleared working store; SIGOVL and OVOWN cleared are "none" (DEDUCED, assumption log 19). -/
def BerylStore.zero : BerylStore :=
  ⟨0, 0, 0, 0, 0, 0, 0, 0, 0, 0, 0, 0, 0, 0, [], [], [], [], [], [], [], View.zero⟩
/-- The reset values of the Beryl register list. -/
def BerylRegs.reset : BerylRegs :=
  { ctrl := 0x00000002, irq := 0, irqEn := 0, stnLo := 0, stnHi := 0, wrkLo := 0, wrkHi := 0, reqRing := 0, reqProd := 0,
    reqCons := 0, rspRing := 0, rspProd := 0, rspCons := 0, nowLo := 0, nowHi := 0, nset := 0, age := 0, adm := 0, ref := 0,
    winPage := 0, errcap := 0, errcapLr := 0, loaded := false, stepBusy := false, faulted := false }
def Beryl.reset : Beryl :=
  { el := EPlanes.zero, rt := RPlanes.zero, ws := BerylStore.zero, regs := BerylRegs.reset, latched := 0, lastKey := Key.zero,
    ord := 0, accepted := [], answers := [], tags := [], sweepRun := none, sweepReady := [], published := false }

end Sys2Proof.Machine
end

