-- ==== Sys2Proof/Machine/DraipState.lean ====
section
/-!
DEFINITION. The state of the Draip bridge and its eight ports (10_older_interfaces_and_bridging.md R294 to R313, R327) and of
a lane's knowledge of its devices (R299, R303, R306).
-/
namespace Sys2Proof.Machine

/-- One exchange of a visit (R296, R302). -/
inductive DrStep where
  | command (tnum : Nat)
  | poll (tnum : Nat)
  | status
  | event
  deriving DecidableEq, Repr

/-- A side-band event held for its telegram (R302). -/
structure DrEvent where
  ecode : Nat
  tnum : Nat
  tseq : Nat
  since : Nat
  deriving DecidableEq, Repr

/-- One device as the bridge knows it. `agenda`'s head is the exchange under way; `awaitSeq` its TSEQ. -/
structure DrDev where
  txSeq : Nat
  mode : Nat
  fcode : Nat
  evcnt : Nat
  msgForm : Bool
  age : Nat
  valid : Bool
  nerr : Nat
  agenda : List DrStep
  awaitSeq : Nat
  evPolls : Nat
  events : List DrEvent
  delivered : SMap Nat
  images : SMap Bytes
  posted : List Nat
  sentNow : List Nat
  failed : List Nat
  deriving DecidableEq, Repr

/-- One port: state 0 off, 1 running, 2 fault. -/
structure DrPort where
  state : Nat
  drivers : Bool
  cycleMs : Nat
  lastVisit : Nat
  deriving DecidableEq, Repr

/-- One entry of the bridge error log (R312). -/
structure DrErr where
  port : Nat
  dev : Nat
  tnum : Nat
  tseq : Nat
  reason : Nat
  deriving DecidableEq, Repr

/-- One lane's bridge view (R327). -/
structure BrgLane where
  ctrl : Word32
  irq : Word32
  irqEn : Word32
  mapLo : Word32
  mapHi : Word32
  unpSrc : Word32
  unpCtl : Word32
  portsel : Word32
  devsel : Word32
  errcap : Word32
  errcapLr : Word32
  deriving DecidableEq, Repr

/-- The bridge. -/
structure Drp where
  tables : Mem
  mapOk : Bool
  active : Bool
  safeImg : Bool
  ctlflt : Bool
  ports : List DrPort
  devs : SMap DrDev
  log : List DrErr
  ovf : Nat
  itemCnt : SMap Nat
  lanes : PerLane BrgLane
  deriving DecidableEq, Repr

/-- A telegram a lane has accepted and holds back (R303). -/
structure HeldTel where
  tnum : Nat
  tseq : Nat
  amc : Nat
  seq : Nat
  since : Nat
  data : Bytes
  deriving DecidableEq, Repr

/-- One device as a lane knows it by agreed items: last TSEQ, agreed MODE, whether the next TSEQ restarts the count, whether
its error log entry stands, orphans to be discarded. -/
structure LaneDev where
  last : Option Nat
  mode : Nat
  fcode : Nat
  restart : Option (Nat × Nat)
  err : Bool
  held : List HeldTel
  discard : List (Nat × Nat)
  deriving DecidableEq, Repr

/-- An accepted telegram of the cut, waiting for the unpack of R305. -/
structure AccTel where
  num : Nat
  tnum : Nat
  amc : Nat
  seq : Nat
  data : Bytes
  deriving DecidableEq, Repr

/-- A lane runtime's Draip tables; `reqno` is keyed by the index of the panel request entry in the map table. -/
structure LaneDrp where
  devs : SMap LaneDev
  reqno : SMap Nat
  accepted : List AccTel
  deriving DecidableEq, Repr

def DrDev.reset : DrDev :=
  { txSeq := 0, mode := 0, fcode := 0, evcnt := 0, msgForm := false, age := 0, valid := false, nerr := 0, agenda := [],
    awaitSeq := 0, evPolls := 0, events := [], delivered := [], images := [], posted := [], sentNow := [], failed := [] }
def DrPort.reset : DrPort := ⟨0, false, 0, 0⟩
/-- The reset values of the BRG register list (R327). -/
def BrgLane.reset : BrgLane := ⟨0, 0, 0, 0, 0, 0, 0, 0, 0, 0, 0⟩
def Drp.reset : Drp :=
  { tables := [], mapOk := false, active := false, safeImg := false, ctlflt := false, ports := List.replicate 8 DrPort.reset,
    devs := [], log := [], ovf := 0, itemCnt := [], lanes := PerLane.const BrgLane.reset }
def LaneDev.reset : LaneDev := ⟨none, 0, 0, none, false, [], []⟩
def LaneDrp.reset : LaneDrp := ⟨[], [], []⟩

end Sys2Proof.Machine
end

