-- ==== Sys2Proof/Config.lean ====
section
/-!
DEFINITION. What the manual leaves to a unit or to a standard outside it: functions and constants without a body, of which no
proof can see a value (assumption log 7, 8, 17, 18).
-/
namespace Sys2Proof.Config

/-- The `n` bytes of a digest, least significant first. -/
def digestBytes {w : Nat} (d : BitVec w) (n : Nat) : Bytes := (List.range n).map fun i => d.extractLsb' (8 * i) 8

/-- KMAC256(K, X, 256, S) of NIST SP 800-185: key, data, customisation string (00_scope.md, "Standards"; 06_lanes_and_voting.md R172). -/
opaque kmac256Of : Bytes → Bytes → Bytes → BitVec 256
/-- Its 32 bytes. -/
def kmac256 (k x s : Bytes) : Bytes := digestBytes (kmac256Of k x s) 32

/-- SHA3-384 of FIPS 202 (00_scope.md, "Standards"). -/
opaque sha3Of : Bytes → BitVec 384
/-- Its 48 bytes. -/
def sha3 (b : Bytes) : Bytes := digestBytes (sha3Of b) 48

/-- Whether an ML-DSA-87 signature of FIPS 204 verifies: public key, message, signature. -/
opaque mldsaVerify : Bytes → Bytes → Bytes → Bool

/-- The ML-DSA-87 signature of the module's identity key over a message. -/
opaque identitySign : Bytes → Bytes

/-- ML-KEM-1024 decapsulation of a ciphertext into a shared secret with the private transport key of a recipient: 0 Jade, 1 to 3 lanes A
to C. -/
opaque kemDecapsulate : Nat → Bytes → Bytes

/-- AES-256-GCM decryption: key, ciphertext with tag; none where the tag does not verify. -/
opaque gcmOpen : Bytes → Bytes → Option Bytes

/-- The keys inside a decrypted key package content, whose layout the manual does not give (15_lifecycle_identity_update.md
R432): content, kind (0 lane command key, 1 partner lane verification key, 2 node reply key, 3 KST sending key, 4 KST peer
verification key, 5 link key), index. -/
opaque keyOf : Bytes → Nat → Nat → Bytes

/-- The association records inside a decrypted key package content, each in the field order of R316. -/
opaque keyAssocs : Bytes → List Bytes

/-- Unit serial number, 64 bits and never 0 (14_jade_mailboxes.md R409): the number is this constant reduced below 2^64 − 1, plus one. -/
opaque serialLess1 : Nat
/-- Board revisions, three bytes (R409). -/
opaque boardRevisions : Nat
/-- Day of manufacture (R409). -/
opaque mfgDay : Nat
/-- The module's ML-DSA-87 identity public key, 2,592 bytes (R423). -/
opaque identityKey : Bytes
/-- The four ML-KEM-1024 transport public keys: Jade, lane A, lane B, lane C (R423, R424). -/
opaque transportKey : Nat → Bytes
/-- An update session identifier or report identifier for the n-th session or report (R403, group 0x01). -/
opaque identifier : Nat → Nat
/-- The default KST_MAC, "from the module serial" (R411), whose derivation the manual does not give. -/
opaque defaultMac : Nat → Nat

/-- The command verification key a node holds for a SID, lane and key generation, where it holds one (07_opbex.md R205). -/
opaque nodeCmdKey : Nat → Nat → Nat → Option Bytes
/-- The reply key of a node (R205), held at the node. -/
opaque nodeReplyKey : Nat → Bytes
/-- The link key of a far end by its frame address (R205). -/
opaque farLinkKey : Nat → Bytes
/-- The highest protocol version a node supports (R201). -/
opaque nodeVmax : Nat → Nat

/-- The severity (FLAGS [10:8], 17_amber_recorder.md R461) of a record code, which the manual does not list. -/
opaque severity : Nat → Nat
/-- The code of a record that the manual asks for without listing a code (R470): class and occasion. -/
opaque otherCode : Nat → Nat → Nat

/-- The cause byte of a LANE_EXIT record for an exit whose code the manual does not list (17_amber_recorder.md R470): the model's own
cause number. -/
opaque exitCause : Nat → Nat

/-- Whether the lane runtime supports an interface version (04_interlocking_programs.md R93, check 0x10). -/
opaque abiOk : Nat → Bool
/-- A PRP supervision frame of a module (IEC 62439-3; 10_older_interfaces_and_bridging.md R315). -/
opaque prpSupervision : Nat → List (BitVec 8)
/-- The installed system library version (R93, check 0x10). -/
opaque libVersion : Nat
/-- The type signature of a system block of the installed library (R93, check 0x14). -/
opaque libTsig : Nat → Nat

/-- Whether the running JADE image accepts a body format of a type (15_lifecycle_identity_update.md R427, check 8): type, IFMT. -/
opaque fmtOk : Nat → Nat → Bool
/-- The content of the test key set held in a LANE image (R429), by the image's digest and the lane. -/
opaque testKeys : Bytes → Nat → Bytes

/-- A value the manual states no rule for, one per use; the argument is the state's counter of free values. -/
opaque freeValue : Nat → Nat

end Sys2Proof.Config
end

