-- ==== Sys2Proof/Machine/Codes.lean ====
section
/-!
DEFINITION. The check codes: CRC-64 of 16_movers_checks_crossings.md R449, and the CRC-32C of 00_scope.md "Standards" with the
usual parameters of that code (PRESUMED, assumption log 9).
-/
namespace Sys2Proof.Machine

/-- The ECMA-182 polynomial (R449). -/
def poly64 : Word64 := 0x42F0E1EBA9EA3693

/-- One bit of the CRC-64 register: the top bit against the message bit. -/
def crc64Bit (r : Word64) (m : Bool) : Word64 :=
  if (r.msb != m) then (r <<< 1) ^^^ poly64 else r <<< 1

/-- One byte, most significant bit first (R449). -/
def crc64Byte (r : Word64) (b : Byte) : Word64 :=
  [7, 6, 5, 4, 3, 2, 1, 0].foldl (fun acc i => crc64Bit acc (b.getLsbD i)) r

/-- CRC-64 with a fold (R449): the 8 bytes of the fold, least significant first, then the bytes. -/
def crc64 (fold : Nat) (bs : Bytes) : Nat := ((leBytes 8 fold ++ bs).foldl crc64Byte 0).toNat

/-- The CRC-64 of one block of a memory. -/
def Mem.crc64 (m : Mem) (fold a n : Nat) : Nat := Machine.crc64 fold (m.bytes a n)

/-- One bit of the reflected CRC-32C register. -/
def crc32cBit (r : Word32) : Word32 := if r.getLsbD 0 then (r >>> 1) ^^^ 0x82F63B78 else r >>> 1

def crc32cByte (r : Word32) (b : Byte) : Word32 :=
  [0, 1, 2, 3, 4, 5, 6, 7].foldl (fun acc _ => crc32cBit acc) (r ^^^ b.setWidth 32)

/-- CRC-32C (Castagnoli): reflected, initial value and final inversion all ones. -/
def crc32c (bs : Bytes) : Nat := (~~~ (bs.foldl crc32cByte 0xFFFFFFFF)).toNat

end Sys2Proof.Machine
end

