-- ==== Sys2Proof/Machine/JadeState.lean ====
section
/-!
DEFINITION. Jade: mailbox transports, settings, life cycle, trust anchors, images, update sessions and key stores
(14_jade_mailboxes.md, 15_lifecycle_identity_update.md).
-/
namespace Sys2Proof.Machine

/-- The life-cycle states (R414). -/
inductive LcState where
  | manufacture | lab | commission | operate | maintain | retired
  deriving DecidableEq, Repr

/-- LCS (R399). -/
def LcState.code : LcState → Nat
  | .manufacture => 1
  | .lab => 2
  | .commission => 3
  | .operate => 4
  | .maintain => 5
  | .retired => 6

def lcOf (n : Nat) : Option LcState :=
  match n with
  | 1 => some .manufacture
  | 2 => some .lab
  | 3 => some .commission
  | 4 => some .operate
  | 5 => some .maintain
  | 6 => some .retired
  | _ => none

/-- One of the two stored copies of the life-cycle state (R414). -/
structure LcCopy where
  state : LcState
  count : Nat
  crc : Nat
  deriving DecidableEq, Repr

def lcCrc (s : LcState) (n : Nat) : Nat := crc32c (leBytes 1 s.code ++ leBytes 4 n)
def LcCopy.of (s : LcState) (n : Nat) : LcCopy := ⟨s, n, lcCrc s n⟩
def LcCopy.valid (c : LcCopy) : Bool := c.crc == lcCrc c.state c.count

/-- A byte string of some length held sparsely (an image). -/
structure Blob where
  len : Nat
  mem : Mem
  deriving DecidableEq, Repr

def Blob.le (b : Blob) (o n : Nat) : Nat := b.mem.rd o n
def Blob.bytes (b : Blob) (o n : Nat) : Bytes := b.mem.bytes o n

/-- What the partner's Jade answers to what is forwarded or mirrored to it (R408, group 0x03, R411). -/
structure PeerAns where
  status : Nat
  detail : Nat
  payload : Bytes
  deriving DecidableEq, Repr

/-- A mailbox request with its framing checked (R398). `tr` is the transport, 1 to 3; `rsv` says that a reserved field of the descriptor
is not zero; `peer` is the partner's answer where the command asks the partner and an answer comes. -/
structure MbReq where
  tr : Nat
  tag : Nat
  fence : Bool
  partner : Bool
  rsv : Bool
  peer : Option PeerAns
  rspcons : Nat
  session : Nat
  payload : Bytes
  deriving DecidableEq, Repr

/-- A completed command's answer (R399). -/
structure MbResp where
  cmd : Nat
  tag : Nat
  status : Nat
  detail : Nat
  holder : Nat
  payload : Bytes
  deriving DecidableEq, Repr

/-- A command in execution or waiting for its turn (R401): `arg` is what a command that takes time keeps, `svc` that the module was in
service when it started, `lost` that its connection is gone (R396). -/
structure MbJob where
  cmd : Nat
  req : MbReq
  started : Bool
  since : Nat
  forwarded : Bool
  arg : Nat
  svc : Bool
  lost : Bool
  deriving DecidableEq, Repr

/-- One transport (R395 to R401). -/
structure MbConn where
  isOpen : Bool
  consumed : Nat
  written : Nat
  rspcons : Nat
  ready : List MbResp
  jobs : List MbJob
  errors : Nat
  deriving DecidableEq, Repr

/-- An image received in a session. -/
structure UpdImage where
  data : Blob
  verified : Bool
  deriving DecidableEq, Repr

/-- The update session (R403, R435). -/
structure Session where
  holder : Nat
  id : Nat
  prop : Bool
  lastAt : Nat
  images : SMap UpdImage
  deriving DecidableEq, Repr

/-- A held token (R431). -/
structure Token where
  digest : Bytes
  body : Bytes
  rootsel : Nat
  signer : Bytes
  at' : Nat
  deriving DecidableEq, Repr

/-- A formed attestation report (R424). -/
structure Report where
  rid : Nat
  at' : Nat
  body : Bytes
  deriving DecidableEq, Repr

/-- The copies of one image type (R430) and its rollback counter (R428). -/
structure ImgSlot where
  running : Option Blob
  pending : Option Blob
  fallback : Option Blob
  rollback : Nat
  deriving DecidableEq, Repr

/-- One fuse position of a Strelone slot (R420). -/
structure FusePos where
  digest : Bytes
  revoked : Bool
  deriving DecidableEq, Repr

structure RootSlot where
  fuses : List FusePos
  key : Bytes
  deriving DecidableEq, Repr

/-- What Jade is doing (R374). -/
inductive JadeMode where
  | off | running | romService
  deriving DecidableEq, Repr

/-- An accepted restart (R410, R417): kind 1 warm if possible, 2 cold; `sentAt` once its response has gone; the transition it
completes and whether it erases (R418). -/
structure RestartReq where
  kind : Nat
  tr : Nat
  tag : Nat
  sentAt : Option Nat
  deriving DecidableEq, Repr

/-- One generation of a key store: KGEN and the decrypted content (R432, R433). -/
structure KeyGen where
  kgen : Nat
  content : Bytes
  deriving DecidableEq, Repr

/-- A lane key store (R421, R433): the generation in use, the newest loaded, the operator root's digest. -/
structure KeyStore where
  used : Option KeyGen
  newest : Option KeyGen
  oproot : Bytes
  deriving DecidableEq, Repr

structure Jade where
  mode : JadeMode
  restarts : List Nat
  conn1 : MbConn
  conn2 : MbConn
  conn3 : MbConn
  session : Option Session
  sessions : Nat
  reports : SMap Report
  reportCnt : Nat
  tokens : List Token
  imgs : SMap ImgSlot
  marker : Bool
  staged : SMap Blob
  lc0 : LcCopy
  lc1 : LcCopy
  lcPending : Option (LcState × Bytes)
  root1 : RootSlot
  root2 : RootSlot
  oproot : Option Bytes
  keys : Option KeyGen
  settings : SMap Bytes
  inForce : SMap Bytes
  hints : SMap Nat
  restart : Option RestartReq
  ledUntil : Option Nat
  deriving DecidableEq, Repr

def MbConn.reset : MbConn := ⟨false, 0, 0, 0, [], [], 0⟩
def ImgSlot.empty : ImgSlot := ⟨none, none, none, 0⟩
def KeyStore.empty : KeyStore := ⟨none, none, []⟩
def RootSlot.empty : RootSlot := ⟨[], []⟩

def Jade.reset : Jade :=
  { mode := .off, restarts := [], conn1 := MbConn.reset, conn2 := MbConn.reset, conn3 := MbConn.reset, session := none,
    sessions := 0, reports := [], reportCnt := 0, tokens := [], imgs := [], marker := false, staged := [],
    lc0 := .of .manufacture 0, lc1 := .of .manufacture 0, lcPending := none, root1 := RootSlot.empty, root2 := RootSlot.empty,
    oproot := none, keys := none, settings := [], inForce := [], hints := [], restart := none, ledUntil := none }

/-- The state in force: the valid copy with the higher LCCOUNT, RETIRED where neither is valid (R414). -/
def Jade.lcCopy (j : Jade) : LcCopy :=
  if j.lc0.valid ∧ (!j.lc1.valid || decide (j.lc1.count ≤ j.lc0.count)) = true then j.lc0
  else if j.lc1.valid then j.lc1
  else .of .retired 0
def Jade.lc (j : Jade) : LcState := j.lcCopy.state
def Jade.lcCount (j : Jade) : Nat := j.lcCopy.count
/-- A completed transition: both copies, LCCOUNT one higher (R417). -/
def Jade.setLc (j : Jade) (s : LcState) : Jade :=
  { j with lc0 := .of s (j.lcCount + 1), lc1 := .of s (j.lcCount + 1) }

def Jade.conn (j : Jade) (tr : Nat) : MbConn := if tr = 1 then j.conn1 else if tr = 2 then j.conn2 else j.conn3
def Jade.setConn (j : Jade) (tr : Nat) (c : MbConn) : Jade :=
  if tr = 1 then { j with conn1 := c } else if tr = 2 then { j with conn2 := c } else { j with conn3 := c }
def Jade.img (j : Jade) (t : Nat) : ImgSlot := SMap.get ImgSlot.empty j.imgs t
def Jade.setImg (j : Jade) (t : Nat) (s : ImgSlot) : Jade := { j with imgs := SMap.set ImgSlot.empty j.imgs t s }
/-- The unit serial number: 64 bits, never 0 (R409). -/
def serialNo : Nat := Config.serialLess1 % 0xFFFFFFFFFFFFFFFF + 1

/-! ### Trust anchors (R420 to R422) -/

/-- A slot is valid when its latest used position is not revoked and holds the digest of its key (R420). -/
def RootSlot.valid (r : RootSlot) : Bool :=
  match r.fuses.getLast? with
  | none => false
  | some f => !f.revoked && f.digest == Config.sha3 r.key

/-- The key of a root by ROOTSEL, where it is valid. -/
def Jade.rootKey (j : Jade) (sel : Nat) : Option Bytes :=
  if sel = 1 then (if j.root1.valid then some j.root1.key else none)
  else if sel = 2 then (if j.root2.valid then some j.root2.key else none)
  else if sel = 3 then j.oproot
  else none

/-- ROOTS (R409). -/
def Jade.roots (j : Jade) : Nat := b2n j.root1.valid + 2 * b2n j.root2.valid + 4 * b2n j.oproot.isSome

/-! ### Images (R425 to R429) -/

def hdrLen : Nat := 12288
def Blob.type (b : Blob) : Nat := b.le 6 1
def Blob.rootsel (b : Blob) : Nat := b.le 7 1
def Blob.hwtype (b : Blob) : Nat := b.le 8 2
def Blob.ifmt (b : Blob) : Nat := b.le 0xA 2
def Blob.version (b : Blob) : Nat := b.le 0xC 4
def Blob.serial (b : Blob) : Nat := b.le 0x10 8
def Blob.rbidx (b : Blob) : Nat := b.le 0x18 1
def Blob.pcc (b : Blob) : Nat := b.le 0x1C 4
def Blob.bodyLen (b : Blob) : Nat := b.le 0x20 8
def Blob.bdigest (b : Blob) : Bytes := b.bytes 0x28 48
def Blob.stfmt (b : Blob) : Nat := b.le 0x58 2
def Blob.spfmt (b : Blob) : Nat := b.le 0x5A 2
def Blob.kgen (b : Blob) : Nat := b.le 0x5C 1
def Blob.skey (b : Blob) : Bytes := b.bytes 0x80 2592
def Blob.keyuse (b : Blob) : Nat := b.le 0xAA0 4
def Blob.body (b : Blob) : Bytes := b.bytes hdrLen b.bodyLen
/-- The image digest (R426). -/
def Blob.digest (b : Blob) : Bytes := Config.sha3 (b.bytes 0 hdrLen ++ b.body)

/-- The contexts "JW3X-CERT" and "JW3X-IMG" (R422, R425). -/
def ctxCert : Bytes := [0x4A, 0x57, 0x33, 0x58, 0x2D, 0x43, 0x45, 0x52, 0x54]
def ctxImg : Bytes := [0x4A, 0x57, 0x33, 0x58, 0x2D, 0x49, 0x4D, 0x47]

/-- Check 1 of R427: MAGIC, HFMT, TYPE, reserved bytes, length. -/
def Blob.shape (b : Blob) (t : Nat) : Bool :=
  b.le 0 4 == 0x49_33_57_4A && b.le 4 2 == 2 && b.type == t && decide (1 ≤ t ∧ t ≤ 8) && b.le 0x19 3 == 0 && b.le 0x5D 35 == 0
    && b.le 0xAA4 28 == 0 && b.le 0x1CD3 13 == 0 && b.le 0x2EF3 269 == 0 && decide (hdrLen + b.bodyLen ≤ b.len)

/-- Which ROOTSEL an image type allows (table "Image type codes"); tokens as their kind requires (R416). -/
def rootAllowed (lc : LcState) (t sel : Nat) : Bool :=
  if t ≤ 4 then sel == 1 || sel == 2
  else if t ≤ 7 then sel == 3 || (lc == .lab && (sel == 1 || sel == 2))
  else sel == 1 || sel == 2 || sel == 3

/-- One entry of the station directory (02_station_image.md R54): section type, offset in the image, length, digest. -/
structure Section where
  sid : Nat
  off : Nat
  len : Nat
  digest : Bytes
  deriving DecidableEq, Repr

/-- The directory of a STATION image (R54). -/
def Blob.sections (b : Blob) : List Section :=
  (List.range (min (b.le hdrLen 2) 13)).map fun k =>
    let o := hdrLen + 16 + 80 * k
    ⟨b.le o 2, hdrLen + b.le (o + 8) 8, b.le (o + 0x10) 8, b.bytes (o + 0x18) 48⟩
def Blob.section' (b : Blob) (sid : Nat) : Option Section := b.sections.find? fun s => s.sid == sid

/-- Check 6 of R427: BDIGEST, and for STATION every section digest (R426). -/
def Blob.digests (b : Blob) : Bool :=
  Config.sha3 b.body == b.bdigest
    && (b.type != 5 || b.sections.all fun s => Config.sha3 (b.bytes s.off s.len) == s.digest)

/-- The checks of R427 in order: 0, or the status and detail of the first that fails. `fmtOk` is check 8, `genOk` check 9. -/
def Jade.verify (j : Jade) (hw : Nat) (b : Blob) (t : Nat) (fmtOk genOk : Bool) : Nat × Nat :=
  if b.shape t = false then (0x0D, 0)
  else if b.hwtype ≠ hw ∨ (b.serial ≠ 0 ∧ b.serial ≠ serialNo) ∨ (t = 7 ∧ b.serial = 0) then (0x0B, 0)
  else
    match j.rootKey b.rootsel with
    | none => (0x0A, 0)
    | some rk =>
      if rootAllowed j.lc t b.rootsel = false then (0x0A, 0)
      else if Config.mldsaVerify rk (ctxCert ++ b.bytes 0x80 2596) (b.bytes 0xAC0 4627) = false ∨ b.keyuse.testBit t = false then
        (0x0A, 0)
      else if Config.mldsaVerify b.skey (ctxImg ++ b.bytes 0 0x1CE0) (b.bytes 0x1CE0 4627) = false then (0x0A, 0)
      else if b.digests = false then (0x0A, 0)
      else if t ≤ 7 ∧ b.rbidx < (j.img t).rollback then (0x0C, (j.img t).rollback)
      else if fmtOk = false then (0x0D, 0)
      else if genOk = false then (0x03, 0)
      else (0, 0)

end Sys2Proof.Machine
end

