-- ==== Sys2Proof/Machine/KstState.lean ====
section
/-!
DEFINITION. The state of Keaber Safe Transport: association records, each lane's association state, and the KST ports
(10_older_interfaces_and_bridging.md R315 to R325, R502).
-/
namespace Sys2Proof.Machine

/-- An association record (R316) without its keys. -/
structure AssocRec where
  anum : Nat
  cls : Nat
  roles : Nat
  localId : Nat
  peerId : Nat
  pseals : Nat
  init : Bool
  vmin : Nat
  vmax : Nat
  tidle : Nat
  tmax : Nat
  links : List Nat
  deriving DecidableEq, Repr

/-- The states of an association (R320). -/
inductive AssocSt where
  | closed | connecting | open'
  deriving DecidableEq, Repr

/-- One association in a lane. Times are module time in ns; `sentLink` holds per link entry the record last sent and its
instant. -/
structure Assoc where
  st : AssocSt
  ver : Nat
  seqOut : Nat
  lastSeq : Nat
  lastTs : Nat
  lastEcho : Nat
  acceptedAt : Nat
  sentTs : Nat
  connectAt : Option Nat
  lost : Nat
  discarded : Nat
  dropped : Nat
  sentState : SMap (Bytes × Nat)
  sentCmd : SMap (Bytes × Nat)
  deriving DecidableEq, Repr

/-- A PDU that waits for an outbox slot: what is known before SEQ, TS and ECHO are filled in. `echo` is set for a refusal. -/
structure KstMsg where
  anum : Nat
  ptype : Nat
  ver : Nat
  mtype : Nat
  refusal : Option Nat
  payload : Bytes
  deriving DecidableEq, Repr

/-- A message of the KST inbox (R324). -/
structure InMsg where
  anum : Nat
  cls : Nat
  roles : Nat
  mtype : Nat
  seq : Nat
  amc : Nat
  payload : Bytes
  deriving DecidableEq, Repr

/-- A lane's KST state. -/
structure LaneKst where
  recs : List AssocRec
  assocs : SMap Assoc
  out : List KstMsg
  inbox : List InMsg
  deriving DecidableEq, Repr

/-- The KST ports: the non-secret records, whether each port is up, the PRP frames already seen (source, sequence), the PRP
sequence number, the last supervision frame. -/
structure KstPorts where
  recs : List AssocRec
  up : PerChan Bool
  seen : List (Nat × Nat)
  prpSeq : Nat
  superAt : Option Nat
  deriving DecidableEq, Repr

def Assoc.reset : Assoc :=
  { st := .closed, ver := 0, seqOut := 0, lastSeq := 0, lastTs := 0, lastEcho := 0, acceptedAt := 0, sentTs := 0,
    connectAt := none, lost := 0, discarded := 0, dropped := 0, sentState := [], sentCmd := [] }
def LaneKst.reset : LaneKst := ⟨[], [], [], []⟩
def KstPorts.reset : KstPorts := ⟨[], PerChan.const false, [], 0, none⟩

end Sys2Proof.Machine
end

