-- ==== Sys2Proof/Machine/MoverState.lean ====
section
/-!
DEFINITION. The transposer DMA, the scan and check unit and lane control of one lane (16_movers_checks_crossings.md R438 to
R460).
-/
namespace Sys2Proof.Machine

/-- One copy of a channel's descriptor registers (R459). -/
structure TdmDesc where
  op : Word32
  count : Word32
  src : Nat
  dst : Nat
  geom : Word32
  mask : Word32
  deriving DecidableEq, Repr

/-- The states of a channel (TDM_CHn_STAT). -/
inductive TdmSt where
  | idle | running | pausing | paused | aborted | error
  deriving DecidableEq, Repr

def TdmSt.code : TdmSt → Nat
  | .idle => 0
  | .running => 1
  | .pausing => 2
  | .paused => 3
  | .aborted => 4
  | .error => 5

/-- One channel. `done` counts the units of the active block that are complete; for RING and DRAIN, bytes. -/
structure TdmChan where
  shadow : TdmDesc
  active : TdmDesc
  pause : Bool
  commit : Bool
  st : TdmSt
  hover : Nat
  err : Nat
  done : Nat
  deriving DecidableEq, Repr

structure Tdm where
  ctrl : Word32
  irq : Word32
  irqEn : Word32
  ch : List TdmChan
  errcap : Word32
  errcapLr : Word32
  deriving DecidableEq, Repr

structure Scu where
  ctrl : Word32
  irq : Word32
  irqEn : Word32
  start : Nat
  len : Word32
  cfg : Word32
  seq : Nat
  exp : Nat
  out : Nat
  mis : Word32
  miscnt : Word32
  bgTab : Word32
  bgRate : Word32
  bgPos : Word32
  bgMis : Word32
  bgPass : Nat
  errcap : Word32
  errcapLr : Word32
  deriving DecidableEq, Repr

/-- The lane control registers; `read` is the Jade port read under way: answers RETRY so far and the instant of the last issue (R314). -/
structure Lct where
  ctrl : Word32
  irq : Word32
  irqEn : Word32
  fault : Word32
  inj : Word32
  injres : Word32
  clkDev : Nat
  stops : Nat
  xto : Word32
  inReset : Word32
  retry : Nat
  rderr : Nat
  read : Option (Nat × Nat)
  pgTrip : Bool
  clkTrip : Bool
  errcap : Word32
  errcapLr : Word32
  deriving DecidableEq, Repr

def TdmDesc.zero : TdmDesc := ⟨0, 0, 0, 0, 0, 0⟩
def TdmChan.reset : TdmChan := ⟨TdmDesc.zero, TdmDesc.zero, false, false, .idle, 0, 0, 0⟩
def Tdm.reset : Tdm := ⟨0, 0, 0, List.replicate 8 TdmChan.reset, 0, 0⟩
/-- The SCU register list's reset values: SCU_FG_CFG 0x10, every other 0. -/
def Scu.reset : Scu := ⟨0, 0, 0, 0, 0, 0x10, 0, 0, 0, 0, 0, 0, 0, 0, 0, 0, 0, 0⟩
def Lct.reset : Lct := ⟨0, 0, 0, 0, 0, 0, 0, 0, 0, 0, 0, 0, none, false, false, 0, 0⟩

end Sys2Proof.Machine
end

