-- ==== Sys2Proof/Machine/OpalState.lean ====
section
/-!
DEFINITION. The state of one lane's Opal share (08_phase_and_time.md R243 to R257), the phase configuration (R242) and the
time sources (R237 to R241).
-/
namespace Sys2Proof.Machine

/-- The phase configuration PHCFG (R242). -/
structure PhCfg where
  freq : Nat
  inmask : Nat
  ph2off : Nat
  cadv : Nat
  guardUs : Nat
  deriving DecidableEq, Repr

/-- One sense input (R243). -/
structure SenseIn where
  valid : Bool
  good : Nat
  bad : Nat
  amp : Nat
  mhz : Nat
  dev : Int
  deriving DecidableEq, Repr

/-- The phase count as an anchor: `base` ticks at clock `at`, then `num` ticks every `den` ns (R244, R245). -/
structure Phi where
  base : Nat
  instant : Nat
  num : Nat
  den : Nat
  deriving DecidableEq, Repr

/-- The four sampling windows and the commit window (R254, R255). -/
structure OpalWin where
  cwin : Word32
  s0 : Word32
  s1 : Word32
  s2 : Word32
  s3 : Word32
  deriving DecidableEq, Repr

/-- One lane's Opal share. -/
structure Opal where
  ctrl : Word32
  irq : Word32
  irqEn : Word32
  cfg : Word32
  phi : Phi
  mode : Nat
  ref : Nat
  in1 : SenseIn
  in2 : SenseIn
  freqMhz : Nat
  disagree : Nat
  jumpRun : Nat
  flyCycles : Nat
  flyStable : Nat
  flyLast : Nat
  steps : Nat
  snapT : Nat
  snapPhc : Nat
  snapSt : Nat
  loHeld : Option Nat
  active : OpalWin
  shadow : OpalWin
  shTgt : Nat
  shArmed : Bool
  shLate : Bool
  late : Bool
  errcap : Word32
  errcapLr : Word32
  offset : Int
  deriving DecidableEq, Repr

/-- Time sources and their checks (R238 to R241). `partnerOff` is the verified time that the partner last reported, less the clock. -/
structure TimeKeep where
  source : Nat
  verified : Bool
  rtc : Nat
  rtcAt : Nat
  rtcSaved : Nat
  ptpValid : Bool
  ptpDelta : Int
  ptpGood : Nat
  ptpBad : Nat
  ptpInconsistent : Bool
  ptpDomain : Nat
  ptpPort : Nat
  partnerTimeVerified : Bool
  partnerOff : Option Int
  deriving DecidableEq, Repr

def PhCfg.default : PhCfg := { freq := 2, inmask := 0, ph2off := 0, cadv := 0, guardUs := 200 }
def SenseIn.reset : SenseIn := ⟨false, 0, 0, 0, 0, 0⟩
def OpalWin.reset : OpalWin := { cwin := 0x0000C800, s0 := 0, s1 := 0, s2 := 0, s3 := 0 }
/-- The reset values of the Opal register list. -/
def Opal.reset : Opal :=
  { ctrl := 0, irq := 0, irqEn := 0, cfg := 0x00000002, phi := ⟨0, 0, 0, 1⟩, mode := 1, ref := 0, in1 := SenseIn.reset,
    in2 := SenseIn.reset, freqMhz := 0, disagree := 0, jumpRun := 0, flyCycles := 0, flyStable := 0, flyLast := 0, steps := 0,
    snapT := 0, snapPhc := 0, snapSt := 0, loHeld := none, active := OpalWin.reset, shadow := OpalWin.reset, shTgt := 0,
    shArmed := false, shLate := false, late := false, errcap := 0, errcapLr := 0, offset := 0 }
def TimeKeep.reset : TimeKeep :=
  { source := 0, verified := false, rtc := 0, rtcAt := 0, rtcSaved := 0, ptpValid := false, ptpDelta := 0, ptpGood := 0,
    ptpBad := 0, ptpInconsistent := false, ptpDomain := 0, ptpPort := 0, partnerTimeVerified := false, partnerOff := none }

end Sys2Proof.Machine
end

