-- ==== Sys2Proof/Machine/Item.lean ====
section
/-!
DEFINITION. The items that interface controllers deliver to the lanes and a lane's receive rings (01_one_logic_cycle.md R18 to
R20), and the log of what leaves the module.
-/
namespace Sys2Proof.Machine

/-- What an item of one source class holds. -/
inductive ItemKind where
  | reply | marker | pdu | telegram | status | event | errorLog | localInput | follow
  deriving DecidableEq, Repr

/-- One stamped item (R18, R19). `kind` tells what its body holds. -/
structure Item where
  amc : Nat
  cls : Nat
  num : Nat
  seq : Nat
  kind : ItemKind
  body : Bytes
  deriving DecidableEq, Repr

/-- The six delivery paths of a lane (R18). -/
inductive Path where
  | obxA | obxB | draip | kst | lio | pair
  deriving DecidableEq, Repr

/-- One receive ring with the path's delivery count: items received so far, of which the waiting ones are held. -/
structure Ring where
  count : Nat
  items : List Item
  deriving DecidableEq, Repr

/-- The six rings of a lane. -/
structure Rings where
  obxA : Ring
  obxB : Ring
  draip : Ring
  kst : Ring
  lio : Ring
  pair : Ring
  deriving DecidableEq, Repr

def Ring.empty : Ring := ⟨0, []⟩
def Rings.empty : Rings := ⟨Ring.empty, Ring.empty, Ring.empty, Ring.empty, Ring.empty, Ring.empty⟩

def Rings.get (r : Rings) : Path → Ring
  | .obxA => r.obxA
  | .obxB => r.obxB
  | .draip => r.draip
  | .kst => r.kst
  | .lio => r.lio
  | .pair => r.pair

def Rings.set (r : Rings) (p : Path) (v : Ring) : Rings :=
  match p with
  | .obxA => { r with obxA := v }
  | .obxB => { r with obxB := v }
  | .draip => { r with draip := v }
  | .kst => { r with kst := v }
  | .lio => { r with lio := v }
  | .pair => { r with pair := v }

def Path.all : List Path := [.obxA, .obxB, .draip, .kst, .lio, .pair]

/-- The source classes of a path (R19). -/
def Path.classes : Path → List Nat
  | .obxA | .obxB => [7]
  | .draip => [4]
  | .kst => [1, 2, 3]
  | .lio => [8]
  | .pair => [9]
/-- What the items of a path can hold. -/
def Path.kinds : Path → List ItemKind
  | .obxA | .obxB => [.reply, .marker]
  | .draip => [.telegram, .status, .event, .errorLog]
  | .kst => [.pdu]
  | .lio => [.localInput]
  | .pair => [.follow]

/-- An item joins a ring and the count of its path advances by one (R18). -/
def Rings.push (r : Rings) (p : Path) (i : Item) : Rings :=
  r.set p { count := (r.get p).count + 1, items := (r.get p).items ++ [i] }

/-- Where something leaves the module; what an object controller or a star sends has the two last forms. -/
inductive Dest where
  | opbex (ch : Chan)
  | draip (port : Nat)
  | ethernet
  | pair
  | mailbox (conn : Nat)
  | jade (lane : Lane)
  | panel
  | nodeTx (node : Nat) (ch : Chan)
  | starTx (ch : Chan)
  deriving DecidableEq, Repr

/-- One thing that left the module (assumption log 12). -/
structure Sent where
  at' : Nat
  dest : Dest
  body : Bytes
  deriving DecidableEq, Repr

end Sys2Proof.Machine
end

