-- ==== Sys2Proof/Machine/PairState.lean ====
section
/-!
DEFINITION. What a module knows of its partner, follow records, swap and takeover (11_module_pair.md R329 to R353).
-/
namespace Sys2Proof.Machine

/-- A claim number EPOCH, ROLE, SID (07_opbex.md R203). -/
structure Claim where
  epoch : Nat
  role : Nat
  sid : Nat
  deriving DecidableEq, Repr

def Claim.num (c : Claim) : Nat := c.epoch * 65536 + c.role * 256 + c.sid
def claimOf (n : Nat) : Claim := ⟨n / 65536, n / 256 % 256, n % 256⟩
def roleACTIVE : Nat := 4
def roleHOT : Nat := 3
def roleCOLD : Nat := 2

/-- What a CTRL frame reports (R331, R338; 12_faults_and_guarantees.md R360; 07_opbex.md R238). `health` bits: 0 both KST ports
lost, 1 local I/O controller stopped, 2 bridge stopped, 3 a used Draip port failed. -/
structure PairStatus where
  claim : Nat
  service : Nat
  transmitting : Bool
  pcc : Nat
  station : Bytes
  sps : Bytes
  confirmed : Bool
  lcState : Nat
  health : Nat
  carrier : Nat
  rotating : Bool
  time : Option Nat
  lastChange : Nat
  deriving DecidableEq, Repr

/-- A reply reference of a follow record (R332). -/
structure ReplyRef where
  node : Nat
  mcn : Nat
  nseq : Nat
  crc : Nat
  deriving DecidableEq, Repr

/-- A follow record (R332): cycle header, agreed measured values with their validity, references, other items, seal slots. -/
structure FollowRec where
  cycle : Nat
  cycleTime : Nat
  header : Bytes
  measured : List Nat
  valid : List Bool
  refs : List ReplyRef
  items : List Item
  lane1 : Nat
  lane2 : Nat
  seal1 : Bytes
  seal2 : Bytes
  deriving DecidableEq, Repr

/-- The stages of a swap (R349). -/
inductive SwapStage where
  | offered | accepted | cutStopped | committed
  deriving DecidableEq, Repr

structure Swap where
  m : Nat
  stage : SwapStage
  newClaim : Nat
  fault : Bool
  byMailbox : Bool
  deriving DecidableEq, Repr

/-- A stored epoch copy with its check (R329). -/
structure EpochCopy where
  epoch : Nat
  crc : Nat
  deriving DecidableEq, Repr

structure Pair where
  present : Bool
  linkUp : Bool
  retrainAt : Option Nat
  epoch0 : EpochCopy
  epoch1 : EpochCopy
  epochSeen : Nat
  partner : Option PairStatus
  partnerHot : Bool
  hotCycles : Nat
  fackFor : Option Nat
  recordSentAt : Nat
  facked : Option Nat
  keptItems : List Item
  following : Option Nat
  waitFetch : Option FollowRec
  ackedFollow : Nat
  ownSum : Option (Nat × Option Nat)
  peerSum : Option (Nat × Option Nat)
  matches' : Nat
  divergences : List Nat
  heldCold : Bool
  seenA : Option Nat
  seenB : Option Nat
  activeAt : Option Nat
  swap : Option Swap
  relinquishAt : Option Nat
  relinquished : Bool
  lastChange : Nat
  changeKind : Nat
  overdueAt : Option Nat
  autoTriedAt : Option Nat
  ctrlLc : Option Nat
  deriving DecidableEq, Repr

def epochCrc (e : Nat) : Nat := crc32c (leBytes 6 e)
def EpochCopy.of (e : Nat) : EpochCopy := ⟨e, epochCrc e⟩
def EpochCopy.valid (c : EpochCopy) : Bool := c.crc == epochCrc c.epoch

def Pair.reset : Pair :=
  { present := false, linkUp := false, retrainAt := none, epoch0 := .of 0, epoch1 := .of 0, epochSeen := 0, partner := none,
    partnerHot := false, hotCycles := 0, fackFor := none, recordSentAt := 0, facked := none, keptItems := [], following := none,
    waitFetch := none, ackedFollow := 0, ownSum := none, peerSum := none, matches' := 0, divergences := [], heldCold := false,
    seenA := none, seenB := none, activeAt := none, swap := none, relinquishAt := none, relinquished := false, lastChange := 0,
    changeKind := 0, overdueAt := none, autoTriedAt := none, ctrlLc := none }

/-- The higher valid stored EPOCH (R329); 0 where neither copy is valid. -/
def Pair.epoch (p : Pair) : Nat :=
  max (if p.epoch0.valid then p.epoch0.epoch else 0) (if p.epoch1.valid then p.epoch1.epoch else 0)
/-- The next EPOCH: one above the stored one and above every one seen (R329). -/
def Pair.nextEpoch (p : Pair) : Nat := (max p.epoch p.epochSeen + 1) % 2 ^ 48
/-- Both copies written (R329). -/
def Pair.store (p : Pair) (e : Nat) : Pair := { p with epoch0 := .of e, epoch1 := .of e }
/-- A valid claim received (R329). -/
def Pair.see (p : Pair) (claim : Nat) : Pair := { p with epochSeen := max p.epochSeen (claim / 65536) }

/-! ### Follow records -/

def ReplyRef.bytes (r : ReplyRef) : Bytes := leBytes 2 r.node ++ leBytes 2 0 ++ leBytes 4 r.mcn ++ leBytes 4 r.nseq ++ leBytes 8 r.crc
def Item.bytes (i : Item) : Bytes :=
  leBytes 8 i.amc ++ leBytes 1 i.cls ++ leBytes 2 i.num ++ leBytes 4 i.seq ++ leBytes 2 i.body.length ++ i.body
/-- Everything a follow record's seals cover, in the manual's order (R332; the packing is the model's, assumption log 26). -/
def FollowRec.bytes (f : FollowRec) : Bytes :=
  f.header ++ f.measured.flatMap (leBytes 8) ++ f.refs.flatMap ReplyRef.bytes ++ f.items.flatMap Item.bytes

/-- The CRC-64 of an item's bytes, by which a reference is matched (R332, R334). -/
def itemCrc (i : Item) : Nat := crc64 0 i.body
def ReplyRef.ok (r : ReplyRef) (i : Item) : Bool :=
  i.cls == 7 && i.num == r.node && i.amc % 4294967296 == r.mcn && i.seq == r.nseq && itemCrc i == r.crc
def refOf (i : Item) : ReplyRef := ⟨i.num, i.amc % 4294967296, i.seq, itemCrc i⟩

/-- The items of a follow record, each reference resolved among the replies held; the first that is missing otherwise. -/
def resolve (refs : List ReplyRef) (held : List Item) : Except ReplyRef (List Item) :=
  refs.foldr (fun r acc =>
    match acc with
    | .error e => .error e
    | .ok l =>
      match held.find? r.ok with
      | some i => .ok (i :: l)
      | none => .error r) (.ok [])

/-- A divergence at an instant (R335): the third within 24 h holds the standby cold. -/
def Pair.diverge (p : Pair) (t : Nat) : Pair :=
  let ds := (p.divergences.filter fun d => decide (t < d + 86400000000000)) ++ [t]
  { p with divergences := ds, heldCold := p.heldCold || decide (3 ≤ ds.length), matches' := 0, following := none,
           waitFetch := none }

/-- What is left of following when the standby becomes STANDBY-COLD (R337). -/
def Pair.cold (p : Pair) : Pair := { p with matches' := 0, following := none, waitFetch := none, ownSum := none, peerSum := none }

/-- As ACTIVE: the partner is no longer hot. -/
def Pair.loseHot (p : Pair) : Pair := { p with partnerHot := false, hotCycles := 0, fackFor := none, following := none }

/-- Whether the last claim of the partner is a live ACTIVE claim above `own` (R330). -/
def higherActive (claim own : Nat) : Bool := (claimOf claim).role == roleACTIVE && decide (own < claim)

/-- The conditions of R340 at a grant: CLAIM names the standby's claim and ARG0 ≥ 2; ARG1 is the low half of the active epoch;
nothing heard from the active module since MCS k on either channel; no CTRL reported it transmitting since. -/
def Pair.grantOk (p : Pair) (own claim mcn arg0 arg1 t0 : Nat) : Bool :=
  let k := mcn + 1 - arg0
  let quiet := fun o : Option Nat => match o with
    | none => true
    | some n => decide (n < k)
  let act := match p.partner with
    | some s => (claimOf s.claim).epoch
    | none => p.epochSeen
  let silent := p.relinquished || (match p.activeAt with
    | none => true
    | some at' => decide (at' < t0 + 4000000 * k))
  claim == own && decide (2 ≤ arg0) && arg1 == act % 4294967296 && quiet p.seenA && quiet p.seenB && silent

end Sys2Proof.Machine
end

