-- ==== Sys2Proof/Machine/ObxState.lean ====
section
/-!
DEFINITION. The state of the Opbex network (07_opbex.md): the two channel controllers with their arbiter, the network time
base, each lane's view registers, and the far ends (object controllers and star couplers).
-/
namespace Sys2Proof.Machine

/-- A schedule bank: an OSCH section (R216). -/
structure ObxBank where
  len : Nat
  mem : Mem
  deriving DecidableEq, Repr

/-- Who takes part in clock synchronisation (R224). -/
inductive Who where
  | mod
  | node (n : Nat)
  | star (ch : Chan)
  deriving DecidableEq, Repr

/-- A participant's synchronisation (R224 to R226): D of each source of this minor cycle with the channel it came from, last C,
total rate correction in ppb, sum of C over the major cycle, minor cycles without a correction, valid values of the last
averaging, per source the minor cycles in a row with a value far from the average, and the sum of all offset steps. -/
structure Sync where
  ds : SMap (Int × Chan)
  c : Int
  rate : Int
  csum : Int
  loss : Nat
  nval : Nat
  streak : SMap Nat
  total : Int
  ok : Bool
  deriving DecidableEq, Repr

/-- What a channel controller knows of a node (R196, R197, R221): dk, trim, delay deviation, edge replies of this major cycle
and of the last, instant since which its port is disabled, instants of re-enables, enable order under way. -/
structure NodeCh where
  dk : Int
  known : Bool
  tau : Int
  dev : Bool
  edge : Nat
  edgeLast : Nat
  portOff : Option Nat
  reenabled : List Nat
  ordered : Bool
  deriving DecidableEq, Repr

/-- One channel controller (state 0 down, 1 listening, 2 up, 3 failed). `polls` holds the assembled polls, `echoes` per echo
window the target (0: the star) and the send instant. -/
structure ObxCh where
  state : Nat
  dm : Int
  dmKnown : Bool
  nodes : SMap NodeCh
  srpt : Bool
  echo0 : Bool
  expected : List Nat
  replied : List Nat
  miss : Nat
  polls : SMap Bytes
  echoes : SMap (Nat × Nat)
  echoNext : Nat
  enables : List Nat
  deriving DecidableEq, Repr

/-- A cold start under way (R228). -/
structure Cold where
  since : Nat
  sent : Nat
  lastAt : Nat
  deriving DecidableEq, Repr

/-- The module's Opbex controllers as far as they are shared by both channels. `running` says that the network time base has
been set and MCN counts; `master` that this module sends CYC. `passed` is the arbiter's record of the minor cycle (R211);
`ages` the minor cycles since the last passed reply. `sealed` holds per node the newest sealed frame (R27), `nulled` the nodes whose
frame the last set did not have (R25), `setCycle` the cycle of the newest set. -/
structure Obx where
  chA : ObxCh
  chB : ObxCh
  claim : Nat
  listenSince : Option Nat
  cold : Option Cold
  yielded : Bool
  running : Bool
  started : Bool
  first : Bool
  master : Bool
  t0 : Nat
  mcn : Nat
  majL8 : Bool
  bank0 : ObxBank
  bank1 : ObxBank
  bank : Bool
  swAt : Option Nat
  hpoll : Bool
  passed : List Nat
  ages : SMap Nat
  frames : SMap Bytes
  nulled : List Nat
  setCycle : Option Nat
  sync : Sync
  handover : Option Nat
  acks : PerChan Bool
  acycFor : Option (Nat × Nat)
  deriving DecidableEq, Repr

/-- One lane's view registers (R234, R235). `cps` are the cycle points in effect, `cpNext` those of the next minor cycle. -/
structure ObxLane where
  ctrl : Word32
  irq : Word32
  irqEn : Word32
  req : Bool
  nodesel : Word32
  cps : List Nat
  cpNext : List Nat
  cpcnt : Word32
  violA : Nat
  violB : Nat
  errcap : Word32
  errcapLr : Word32
  deriving DecidableEq, Repr

/-! ### Far ends -/

/-- One channel of a node: last accepted command byte, what is applied, a command waiting for its commit index. -/
structure NodeChan where
  last : Option Nat
  applied : Nat
  pend : Option (Nat × Nat)
  acked : Bool
  deriving DecidableEq, Repr

/-- An object controller. `mcs` is the clock instant of minor cycle `mcn`, present once a CYC was received. `freshAt` is the
minor cycle up to which `missed` counts. `body` is the latched reply of minor cycle `latMcn` without its seal. -/
structure Node where
  base : Option Nat
  mcn : Nat
  l8 : Bool
  cycAt : Nat
  hclaim : Nat
  lastCyc : Option Nat
  chans : List NodeChan
  missed : Nat
  freshAt : Nat
  fout : Bool
  hsafe : Bool
  sfail : Bool
  passA : Bool
  passB : Bool
  latMcn : Option Nat
  nseq : Nat
  body : Bytes
  nulled : Bool
  ver : Nat
  dlyA : Nat
  dlyB : Nat
  nevt : List Nat
  psi : Phi
  sense : Bool
  badRefs : Nat
  aligned : Bool
  noAlignTold : Bool
  sync : Sync
  deriving DecidableEq, Repr

/-- What a node's inputs give at a latch (R201): channel records, an event code, whether the data are ready, the diagnostic
block. -/
structure NodeIn where
  recs : List Bytes
  nevt : Nat
  ready : Bool
  diag : Option Bytes
  deriving DecidableEq, Repr

/-- A frame as it arrives on a channel: its bytes and the FCS that followed them (R188). -/
structure Frame where
  body : Bytes
  fcs : Nat
  deriving DecidableEq, Repr

/-- What an SRPT carries (R198, R221, R349): the ports disabled now, violations since the last report, acknowledged handover. -/
structure Srpt where
  disabled : List Nat
  viols : Nat
  ack : Bool
  deriving DecidableEq, Repr

/-- What an SMGT carries (R198): ports to enable, handover of the master port to the other module. -/
structure Smgt where
  enables : List Nat
  handover : Bool
  deriving DecidableEq, Repr

/-- A port of a star. -/
inductive SPort where
  | modPort (p : Nat)
  | nodePort (k : Nat)
  deriving DecidableEq, Repr

/-- One port of a star (R221). -/
structure StarPort where
  viol : Nat
  disabled : Bool
  deriving DecidableEq, Repr

/-- What a star did with the last frame offered to it (R219, R220). -/
inductive StarVerdict where
  | none | forwarded | blocked | truncated
  deriving DecidableEq, Repr

/-- A star coupler. Module ports are 0 and 1. `polled`, `echoed`, `acyced` are the nodes to which it forwarded such a frame in
minor cycle `mcn`; `echoed` holds (node, window). `lastCyc` is the last minor cycle in whose cycle window a valid CYC carrying
HCLAIM passed. `receiving` is the COLD or CYC it is forwarding before the first CYC: port, claim, end instant, start instant. -/
structure Star where
  hclaim : Nat
  first : Bool
  owner : Nat
  mcn : Nat
  base : Option Nat
  lastCyc : Option Nat
  polled : List Nat
  echoed : List (Nat × Nat)
  acyced : List Nat
  ports : SMap StarPort
  stby : Option (Nat × Nat)
  granted : Bool
  verdict : StarVerdict
  receiving : Option (Nat × Nat × Nat × Nat)
  reports : List Nat
  viols : Nat
  answer : Bool
  sync : Sync
  deriving DecidableEq, Repr

def ObxBank.empty : ObxBank := ⟨0, []⟩
def Sync.reset : Sync := ⟨[], 0, 0, 0, 0, 0, [], 0, false⟩
def NodeCh.reset : NodeCh := ⟨0, false, 0, false, 0, 0, none, [], false⟩
def ObxCh.reset : ObxCh := ⟨0, 0, false, [], false, false, [], [], 0, [], [], 0, []⟩
def Obx.reset : Obx :=
  { chA := ObxCh.reset, chB := ObxCh.reset, claim := 0, listenSince := none, cold := none, yielded := false, running := false,
    started := false, first := false, master := false, t0 := 0, mcn := 0, majL8 := false, bank0 := ObxBank.empty,
    bank1 := ObxBank.empty, bank := false, swAt := none, hpoll := false, passed := [], ages := [], frames := [], nulled := [],
    setCycle := none, sync := Sync.reset, handover := none, acks := PerChan.const false, acycFor := none }
/-- The reset values of the Opbex lane view register list (R234). -/
def ObxLane.reset : ObxLane :=
  { ctrl := 0, irq := 0, irqEn := 0, req := false, nodesel := 1, cps := List.replicate 8 0, cpNext := List.replicate 8 0,
    cpcnt := 0, violA := 0, violB := 0, errcap := 0, errcapLr := 0 }
def NodeChan.reset : NodeChan := ⟨none, 0x70, none, false⟩
def Node.reset : Node :=
  { base := none, mcn := 0, l8 := false, cycAt := 0, hclaim := 0, lastCyc := none, chans := List.replicate 16 NodeChan.reset,
    missed := 0, freshAt := 0, fout := false, hsafe := false, sfail := false, passA := false, passB := false, latMcn := none,
    nseq := 0, body := [], nulled := false, ver := 0, dlyA := 0, dlyB := 0, nevt := [], psi := ⟨0, 0, 0, 1⟩, sense := false,
    badRefs := 0, aligned := false, noAlignTold := false, sync := Sync.reset }
def StarPort.reset : StarPort := ⟨0, false⟩
def Star.reset : Star :=
  { hclaim := 0, first := false, owner := 0, mcn := 0, base := none, lastCyc := none, polled := [], echoed := [], acyced := [],
    ports := [], stby := none, granted := false, verdict := .none, receiving := none, reports := [], viols := 0, answer := false,
    sync := Sync.reset }

def Obx.ch (o : Obx) : Chan → ObxCh
  | .a => o.chA
  | .b => o.chB
def Obx.setCh (o : Obx) (ch : Chan) (c : ObxCh) : Obx :=
  match ch with
  | .a => { o with chA := c }
  | .b => { o with chB := c }

end Sys2Proof.Machine
end

