-- ==== Sys2Proof/Machine/StartState.lean ====
section
/-!
DEFINITION. Start-up, self-test, in-service slices and repair (13_startup_and_self_test.md R370 to R394).
-/
namespace Sys2Proof.Machine

/-- A processor Jade loads (R375). -/
inductive Proc where
  | laneA | laneB | laneC | lio | bridge | obxA | obxB
  deriving DecidableEq, Repr

/-- How far a processor has come (R375, R376). -/
inductive ProcSt where
  | inReset | mismatch | running | tested | failed
  deriving DecidableEq, Repr

structure Procs where
  laneA : ProcSt
  laneB : ProcSt
  laneC : ProcSt
  lio : ProcSt
  bridge : ProcSt
  obxA : ProcSt
  obxB : ProcSt
  deriving DecidableEq, Repr

def Procs.reset : Procs := ⟨.inReset, .inReset, .inReset, .inReset, .inReset, .inReset, .inReset⟩
def Procs.get (p : Procs) : Proc → ProcSt
  | .laneA => p.laneA
  | .laneB => p.laneB
  | .laneC => p.laneC
  | .lio => p.lio
  | .bridge => p.bridge
  | .obxA => p.obxA
  | .obxB => p.obxB
def Procs.set (p : Procs) (x : Proc) (s : ProcSt) : Procs :=
  match x with
  | .laneA => { p with laneA := s }
  | .laneB => { p with laneB := s }
  | .laneC => { p with laneC := s }
  | .lio => { p with lio := s }
  | .bridge => { p with bridge := s }
  | .obxA => { p with obxA := s }
  | .obxB => { p with obxB := s }
def procOf : Lane → Proc
  | .a => .laneA
  | .b => .laneB
  | .c => .laneC

/-- A slice result (R386): verdict 0 pass, 1 fail, 2 incomplete. -/
structure SliceRec where
  form : Nat
  verdict : Nat
  items : Nat
  checked : Nat
  failed : Nat
  durUs : Nat
  cycle : Nat
  sig : Nat
  deriving DecidableEq, Repr

/-- What a lane's slice measured: a band code per item, and the duration (R383, R385). -/
structure SliceIn where
  codes : List Nat
  durUs : Nat
  deriving DecidableEq, Repr

/-- A failing row or column that memory BIST found (R390). -/
structure Finding where
  target : Nat
  kind : Nat
  faddr : Nat
  deriving DecidableEq, Repr

/-- A repair record entry (R389). -/
structure RepairEnt where
  target : Nat
  kind : Nat
  spare : Nat
  origin : Nat
  faddr : Nat
  stamp : Nat
  deriving DecidableEq, Repr

/-- The BIST state of a lane for group 0x07. -/
inductive BistSt where
  | idle | running | passed | failed | overrun
  deriving DecidableEq, Repr

/-- One lane's start-up and test state: the self-test of this run passed (step 4), station image loaded and checked (step 5),
slice results, incomplete rounds in a row, slices whose last round lacked a reading, fuse bank, ECC corrections of the last 24 h as (target, address, instant),
the BIST state and the first target that failed. -/
structure LaneTest where
  selfOk : Bool
  stationOk : Bool
  slices : List SliceRec
  incomplete : List Nat
  missing : List Nat
  fuses : List RepairEnt
  ecc : List (Nat × Nat × Nat)
  bist : BistSt
  failTgt : Nat
  tempWarn : Bool
  deriving DecidableEq, Repr

def SliceRec.zero : SliceRec := ⟨0, 0, 0, 0, 0, 0, 0, 0⟩
def LaneTest.reset : LaneTest :=
  ⟨false, false, List.replicate 32 SliceRec.zero, List.replicate 32 0, [], [], [], .idle, 0, false⟩

/-! ### Slices (R384, R385) -/

/-- The items each slice checks: 4 supply rails in slices 0 to 3 (one each), reference points, channels and groups. Slices 10 to 31
define no items on JW3X-C. -/
def sliceItems (full : Bool) (s : Nat) : Nat :=
  if s < 4 then 1
  else if s < 8 then 1
  else if s < 10 then 4
  else if full = false then 0
  else if s < 22 then 4
  else if s < 30 then 12
  else if s = 30 then 8
  else 4

def sliceSig (s : Nat) (codes : List Nat) : Nat := crc64 s (codes.map (BitVec.ofNat 8))

/-- The result record of a slice (R385 to R387). -/
def sliceResult (full : Bool) (s cycle : Nat) (i : SliceIn) : SliceRec :=
  let n := sliceItems full s
  let codes := i.codes.take n
  let bad := (codes.filter (· != 1)).length + (n - codes.length)
  if 100 < i.durUs then
    ⟨if full then 2 else 1, 2, if full then 0 else n, if full then 0 else codes.length, 0, 100, cycle % 2 ^ 32, 0⟩
  else if full then
    let sig := sliceSig s codes
    ⟨2, if sig = sliceSig s (List.replicate n 1) then 0 else 1, 0, 0, bad, i.durUs, cycle % 2 ^ 32, sig⟩
  else
    let f := (codes.filter (· != 1)).length
    ⟨1, if codes.length = n ∧ f = 0 then 0 else 1, n, codes.length, f, i.durUs, cycle % 2 ^ 32, 0⟩

def SliceRec.bytes (r : SliceRec) (s : Nat) : Bytes :=
  leBytes 1 s ++ leBytes 1 r.form ++ leBytes 1 r.verdict ++ leBytes 1 0 ++ leBytes 2 r.items ++ leBytes 2 r.checked
    ++ leBytes 2 r.failed ++ leBytes 2 r.durUs ++ leBytes 4 r.cycle ++ leBytes 8 r.sig ++ leBytes 8 0

/-! ### The repair record (R389) in a lane's private MRAM (17_amber_recorder.md R466) -/

def repairAt (k : Nat) : Nat := 0x410000 + 0x2000 * k
def repairCrc (m : Mem) (k n : Nat) : Nat := crc32c (m.bytes (repairAt k) 0x3C ++ m.bytes (repairAt k + 64) (16 * n))
/-- Whether copy `k` is valid. -/
def repairValid (m : Mem) (k : Nat) : Bool :=
  let n := m.rd (repairAt k) 2
  decide (n ≤ 256) && m.rd (repairAt k + 0x3C) 4 == repairCrc m k n
/-- The valid copy with the higher GEN; none where neither is valid. -/
def repairCopy (m : Mem) : Option Nat :=
  let v0 := repairValid m 0
  let v1 := repairValid m 1
  if v0 && (!v1 || decide (m.rd (repairAt 1 + 2) 4 ≤ m.rd (repairAt 0 + 2) 4)) then some 0 else if v1 then some 1 else none
def repairEnt (m : Mem) (k i : Nat) : RepairEnt :=
  let a := repairAt k + 64 + 16 * i
  ⟨m.rd a 4, m.rd (a + 4) 1, m.rd (a + 5) 1, m.rd (a + 6) 1, m.rd (a + 8) 4, m.rd (a + 12) 4⟩
/-- The entries of the repair record. -/
def repairEnts (m : Mem) : List RepairEnt :=
  match repairCopy m with
  | none => []
  | some k => (List.range (m.rd (repairAt k) 2)).map (repairEnt m k)
def RepairEnt.bytes (e : RepairEnt) : Bytes :=
  leBytes 4 e.target ++ leBytes 1 e.kind ++ leBytes 1 e.spare ++ leBytes 1 e.origin ++ leBytes 1 0 ++ leBytes 4 e.faddr
    ++ leBytes 4 e.stamp
/-- Write the record: the other copy, GEN one higher. -/
def repairWrite (m : Mem) (es : List RepairEnt) : Mem :=
  let cur := repairCopy m
  let k := if cur = some 0 then 1 else 0
  let gen := match cur with
    | some c => m.rd (repairAt c + 2) 4 + 1
    | none => 1
  let m1 := m.clear (repairAt k) 0x1040
  let m2 := (m1.wr (repairAt k) 2 es.length).wr (repairAt k + 2) 4 gen
  let m3 := m2.wrBytes (repairAt k + 64) (es.flatMap RepairEnt.bytes)
  m3.wr (repairAt k + 0x3C) 4 (repairCrc m3 k es.length)

/-- Assign a spare to a finding (R390): a free spare of its kind, and room in the record; none where there is none. A candidate
for the same place is replaced. -/
def repairAssign (fuses es : List RepairEnt) (f : Finding) (origin stamp : Nat) : Option (List RepairEnt) :=
  let used := (fuses ++ es).filter fun e => e.target == f.target && e.kind == f.kind && e.spare != 0xFF
  let rest := es.filter fun e => !(e.origin == 5 && e.target == f.target && e.faddr == f.faddr)
  if f.kind = 3 then
    (if rest.length < 256 then some (rest ++ [⟨f.target, 3, 0, origin, f.faddr, stamp⟩]) else none)
  else
    match [0, 1].find? fun s => used.all fun e => e.spare != s with
    | none => none
    | some s => if rest.length < 256 then some (rest ++ [⟨f.target, f.kind, s, origin, f.faddr, stamp⟩]) else none

end Sys2Proof.Machine
end

