-- ==== Sys2Proof/Machine/LaneState.lean ====
section
/-!
DEFINITION. The state of one lane: its memories, units, runtime tables and standing in the vote (01_one_logic_cycle.md,
04_interlocking_programs.md R89 to R119, 05_change_while_running.md R121 to R148, 06_lanes_and_voting.md R150 to R186).
-/
namespace Sys2Proof.Machine

/-- A program exception seen in one lane (R99): program, kind, the IID of the instance being called, code offset. -/
structure ProgExc where
  prog : Nat
  kind : Nat
  iid : Option Nat
  off : Nat
  deriving DecidableEq, Repr

/-- A force (R144): kind 1 by VID, kind 2 by output word. -/
structure Force where
  kind : Nat
  key : Nat
  value : Nat
  mask : Nat
  deriving DecidableEq, Repr

/-- A request of class 6 queued in the cycle (R108). -/
structure ArsReq where
  inst : Nat
  desc : Desc
  deriving DecidableEq, Repr

/-- An external request on its way into the request list (R306, R323): the descriptor, and whom to answer. -/
structure ExtReq where
  desc : Desc
  panel : Option (Nat × Nat)
  deriving DecidableEq, Repr

/-- A LINK_STATE record accepted for an IN entry (10_older_interfaces_and_bridging.md R325): E-index, arrival minor cycle, channel
record. -/
structure LinkIn where
  e : Nat
  amc : Nat
  body : Bytes
  deriving DecidableEq, Repr

/-- A committed online change waiting for its boundary (R137, R138). -/
structure ChangeWait where
  chid : Nat
  way : Nat
  until' : Nat
  digest : Bytes
  anum : Nat
  deriving DecidableEq, Repr

/-- A change result (R148): header fields and the entries as (EKIND, KEY). -/
structure ChangeResult where
  chid : Nat
  result : Nat
  way : Nat
  check : Nat
  boundary : Nat
  matched : Nat
  mapped : Nat
  new' : Nat
  dropped : Nat
  coldinit : Nat
  fkept : Nat
  fremoved : Nat
  entries : List (Nat × Nat)
  deriving DecidableEq, Repr

/-- A retain hand-over whose MRAM write is still to come (R119, R124): cycle, its time, the lines, the lock store body. -/
structure Hand where
  cycle : Nat
  ctime : Nat
  lines : List Nat
  lock : Nat
  deriving DecidableEq, Repr

/-- The tables of a lane runtime. `dirty` are the lines of the retain segment changed in the running cycle, `pend0` and `pend1` those that
copy 0 and copy 1 have yet to take. `answers` holds per instance the (STATUS, WHO) to present at its next call, `waiting` the UNSOL
answer as STATUS + 65,536 × WHO, `unsol` per route the instance that received QUEUED, `kstReq` per route the (association, REQSEQ) of a queued ROUTE_OP, `seqs` per E-index the command SEQ
of the previous cycle, `changed` the E-indices whose SEQ changed in the cycle, `brgLast` the last value written to each bridged output signal, `restate` that the next list starts with them (11_module_pair.md R342), `markA` and `markB` one more than the minor cycle of the last marker item of a channel. -/
structure Rt where
  cycle : Nat
  ctime : Nat
  amc : Nat
  phc : Nat
  phstat : Nat
  settle : Bool
  forces : List Force
  lastNseq : SMap Nat
  ver : SMap Nat
  verNext : SMap Nat
  nevt : List (Nat × Nat)
  nevtFrom : Nat
  tag : Nat
  waiting : SMap Nat
  answers : SMap (Nat × Nat)
  unsol : SMap Nat
  kstReq : SMap (Nat × Nat)
  ars : List ArsReq
  pseq : Nat
  arith : List Nat
  recs : List Evt
  seqs : SMap Nat
  changed : List Nat
  bridgeWait : List Nat
  brgLast : SMap Nat
  restate : Bool
  brgCount : Nat
  requests : List ExtReq
  links : List LinkIn
  lioAmc : Nat
  dirty : List Nat
  pend0 : List Nat
  pend1 : List Nat
  hand : Option Hand
  change : Option ChangeWait
  result : Option ChangeResult
  exc : Option (Nat × Nat)
  markA : Nat
  markB : Nat
  deriving DecidableEq, Repr

/-- What a lane offers and receives as measured values (R162, R164, R166): entry number to value, valid entries only. -/
abbrev Meas := SMap Nat

/-- The Garnet registers that hold state of their own (R185). -/
structure Grn where
  ctrl : Word32
  irq : Word32
  irqEn : Word32
  win : Word32
  vres : Word32
  cons : Word32
  dpos : Word32
  key : Nat
  retry : Nat
  errcap : Word32
  errcapLr : Word32
  deriving DecidableEq, Repr

/-- One lane. `staged`, `stagedSps` and `stageFail` are the image of an online change and its failed check, `pcc` the pair compatibility
class of the LANE image, `recPcc0` and `recPcc1` that of the writer of each retain and lock store copy (R436). `portWait` are the items that ingress ports hold back while
their RING channel is paused (R445). `rejoin` is set for a lane that is to come back through the steps of a rotation. `leaving` is set for a lane that leaves the vote at the next boundary: the LANE_EXIT cause, 0 where the exit is not for
cause. -/
structure LaneSt where
  powered : Bool
  released : Bool
  stopped : Bool
  comparator : Bool
  split : Bool
  splitNext : Bool
  halted : Bool
  voting : Bool
  shadow : Bool
  silent : Bool
  heldOut : Bool
  leaving : Option Nat
  rejoin : Bool
  exits : List Nat
  faultRec : Nat
  tOff : Int
  slew : Int
  readData : Nat
  lc : LcState
  latch : LcState
  keys : KeyStore
  tcm : Mem
  dram : Mem
  mram : Mem
  region : Bool
  img : Option Blob
  staged : Option Blob
  stagedSps : Option Bytes
  stageFail : Option (Nat × Nat)
  sps : Bytes
  pcc : Nat
  recPcc0 : Nat
  recPcc1 : Nat
  warmMax : Nat
  beryl : Beryl
  opal : Opal
  obx : ObxLane
  grn : Grn
  tdm : Tdm
  scu : Scu
  lct : Lct
  test : LaneTest
  kst : LaneKst
  drp : LaneDrp
  rt : Rt
  rings : Rings
  portWait : List (Path × Item)
  cut : Option (List Nat)
  items : List Item
  reading : Nat
  meas : Meas
  agreed : Meas
  offer : Option (List Nat)
  offerAt : Nat
  sdg : List (Nat × Nat)
  cand : List (Nat × Nat)
  deriving DecidableEq, Repr

def Rt.reset : Rt :=
  { cycle := 0, ctime := 0, amc := 0, phc := 0, phstat := 1, settle := false, forces := [], lastNseq := [],
    ver := [], verNext := [], nevt := [], nevtFrom := 0, tag := 0, waiting := [], answers := [], unsol := [], kstReq := [],
    ars := [], pseq := 0, arith := [], recs := [], seqs := [], changed := [], bridgeWait := [], brgLast := [], restate := false, brgCount := 0, requests := [], links := [],
    lioAmc := 0, dirty := [], pend0 := [], pend1 := [], hand := none, change := none, result := none, exc := none, markA := 0, markB := 0 }
/-- The reset values of the Garnet register list. -/
def Grn.reset : Grn := ⟨0, 0, 0, 0, 0, 0, 0, 0, 0, 0, 0⟩
def LaneSt.reset : LaneSt :=
  { powered := false, released := false, stopped := true, comparator := false, split := false, splitNext := false,
    halted := false, voting := false, shadow := false, silent := false, heldOut := false, leaving := none, rejoin := false, exits := [],
    faultRec := 0, tOff := 0, slew := 0, readData := 0, lc := .manufacture, latch := .manufacture, keys := KeyStore.empty, tcm := [], dram := [], mram := [],
    region := false, img := none, staged := none, stagedSps := none, stageFail := none, sps := [], pcc := 0, recPcc0 := 0, recPcc1 := 0, warmMax := 60, beryl := Beryl.reset, opal := Opal.reset,
    obx := ObxLane.reset, grn := Grn.reset, tdm := Tdm.reset, scu := Scu.reset, lct := Lct.reset, test := LaneTest.reset,
    kst := LaneKst.reset, drp := LaneDrp.reset, rt := Rt.reset, rings := Rings.empty, portWait := [], cut := none, items := [], reading := 0,
    meas := [], agreed := [], offer := none, offerAt := 0, sdg := [], cand := [] }

end Sys2Proof.Machine
end

