-- ==== Sys2Proof/Machine/LioState.lean ====
section
/-!
DEFINITION. The state of the local safety I/O (09_local_safety_io.md): input channels, test-pulse supplies, safety functions,
outputs, banks, gate inputs and each lane's view.
-/
namespace Sys2Proof.Machine

/-- One input channel (R259 to R265, R279). Bands: 0 BREAK, 1 INVALID, 2 OFF, 3 ON. -/
structure InChan where
  state : Nat
  fcode : Nat
  cur : Nat
  band : Nat
  since : Nat
  cand : Nat
  candRun : Nat
  prev1 : Nat
  prev2 : Nat
  prev1Dark : Bool
  wrongLv : Nat
  rightRun : Nat
  resetReq : Bool
  cleanChecks : Nat
  fresh : Bool
  freshChecked : Bool
  deriving DecidableEq, Repr

/-- One test-pulse supply (R260 to R264): state 0 dark, 1 pulsing, 2 steady, 3 fault. -/
structure TpSup where
  state : Nat
  ovl : Bool
  level : Nat
  deriving DecidableEq, Repr

/-- One safety function in one lane bank (R282 to R285). -/
structure SfState where
  openA : Option Nat
  openB : Option Nat
  unpA : Nat
  unpB : Nat
  speed : Nat
  fault : Bool
  goodRun : Nat
  recent : Bool
  lastPair : Nat
  axles : Int
  dir : Nat
  endN : Bool
  endR : Bool
  inWindow : Bool
  timeout : Bool
  winStart : Nat
  nSince : Option Nat
  rSince : Option Nat
  bothOn : Option Nat
  deriving DecidableEq, Repr

/-- One lane bank: edge counters of DI000 to DI007 and the safety functions (R268, R282). -/
structure LioBank where
  counts : List Nat
  fns : List SfState
  deriving DecidableEq, Repr

/-- One output channel (R274 to R276). -/
structure OutChan where
  state : Nat
  fcode : Nat
  cur : Nat
  inhibited : Bool
  testWait : Bool
  resetReq : Bool
  passed : Nat
  offSeen : Bool
  deriving DecidableEq, Repr

/-- One output bank (R274): state 0 off, 1 normal, 2 feed undervoltage, 3 bank trip. -/
structure FeedBank where
  state : Nat
  cur : Nat
  deriving DecidableEq, Repr

/-- One lane's view of the local I/O (R277, R291). -/
structure LioLane where
  ctrl : Word32
  irq : Word32
  irqEn : Word32
  snapCnt : Nat
  chsel : Word32
  outsel : Word32
  do0 : Word32
  do1 : Word32
  do2 : Word32
  fstart : Word32
  hs : Nat
  ls : Nat
  lastRefresh : Nat
  refreshed : Bool
  window : SMap Nat
  errcap : Word32
  errcapLr : Word32
  deriving DecidableEq, Repr

/-- The local I/O controller with the output drive logic. -/
structure Lio where
  sps : Bytes
  spsOk : Bool
  active : Bool
  ctlflt : Bool
  frameStart : Nat
  ins : List InChan
  pairOut : SMap Nat
  pairSafe : SMap Nat
  tp : List TpSup
  banks : PerLane LioBank
  itemCnt : Nat
  outs : List OutChan
  feed : List FeedBank
  lanes : PerLane LioLane
  lsafe : Bool
  belowSince : Option Nat
  submask : Nat
  startSeen : Nat
  deriving DecidableEq, Repr

def InChan.reset : InChan :=
  { state := 7, fcode := 0, cur := 0, band := 0, since := 0, cand := 0, candRun := 0, prev1 := 0, prev2 := 0,
    prev1Dark := false, wrongLv := 0, rightRun := 0, resetReq := false, cleanChecks := 0, fresh := false,
    freshChecked := false }
def TpSup.reset : TpSup := ⟨0, false, 0⟩
def SfState.reset : SfState :=
  { openA := none, openB := none, unpA := 0, unpB := 0, speed := 0, fault := false, goodRun := 0, recent := false,
    lastPair := 0, axles := 0, dir := 0, endN := false, endR := false, inWindow := false, timeout := false, winStart := 0,
    nSince := none, rSince := none, bothOn := none }
def LioBank.reset : LioBank := ⟨List.replicate 8 0, List.replicate 16 SfState.reset⟩
def OutChan.reset : OutChan := ⟨7, 0, 0, false, false, false, 0, false⟩
def FeedBank.reset : FeedBank := ⟨0, 0⟩
/-- The reset values of the LIO register list that are writable or captured. -/
def LioLane.reset : LioLane :=
  { ctrl := 0, irq := 0, irqEn := 0, snapCnt := 0, chsel := 0, outsel := 0, do0 := 0, do1 := 0, do2 := 0, fstart := 0,
    hs := 0, ls := 0, lastRefresh := 0, refreshed := false, window := [], errcap := 0, errcapLr := 0 }
def Lio.reset : Lio :=
  { sps := [], spsOk := false, active := false, ctlflt := false, frameStart := 0, ins := List.replicate 96 InChan.reset,
    pairOut := [], pairSafe := [], tp := List.replicate 8 TpSup.reset, banks := PerLane.const LioBank.reset, itemCnt := 0,
    outs := List.replicate 48 OutChan.reset, feed := List.replicate 4 FeedBank.reset, lanes := PerLane.const LioLane.reset,
    lsafe := false, belowSince := none, submask := 0, startSeen := 0 }

end Sys2Proof.Machine
end

