-- ==== Sys2Proof/Machine/PowerState.lean ====
section
/-!
DEFINITION. The power manager: supply inputs, domains, sections, drains, slot coding (18_power_domains.md R473 to R485;
19_connectors_and_ratings.md R492).
-/
namespace Sys2Proof.Machine

/-- Whose transfer is in flight toward a domain that goes down: a transposer DMA channel, a mailbox command by transport and tag, a Jade
port read, or a posted write that a unit's buffer holds. -/
inductive Xfer where
  | dma (x : Lane) (ch : Nat)
  | mailbox (tr tag : Nat)
  | jadePort
  | posted (source : Nat)
  deriving DecidableEq, Repr

/-- The state of a section (R477, R482). -/
inductive SectSt where
  | running | gated | off
  deriving DecidableEq, Repr

/-- One mains input (R474): status 0 absent, 1 AC, 2 DC, 3 out of range. -/
structure Supply where
  status : Nat
  inRange : Bool
  deriving DecidableEq, Repr

/-- A drain under way (R484, R485). A target below 12 is a domain; a target of 0x100 or more is 0x100 plus the group of a
section. -/
structure Drain where
  target : Nat
  since : Nat
  deriving DecidableEq, Repr

structure Power where
  x1 : Supply
  x2 : Supply
  pfail : Bool
  shutdown : Bool
  good : Bool
  goodAt : Nat
  domains : List Bool
  ethm : SectSt
  host : SectSt
  ports : List SectSt
  banks : List SectSt
  drains : List Drain
  sidRead : Nat
  carrier : Nat
  slotBad : Bool
  dupSid : Bool
  deriving DecidableEq, Repr

def Power.reset : Power :=
  { x1 := ⟨0, false⟩, x2 := ⟨0, false⟩, pfail := false, shutdown := false, good := false, goodAt := 0,
    domains := true :: List.replicate 11 false, ethm := .off, host := .off, ports := List.replicate 8 .off,
    banks := List.replicate 4 .off, drains := [], sidRead := 0, carrier := 0, slotBad := false, dupSid := false }

/-- The section of a group of R481: 1 ETH-M, 2 host port, 0x10 + p, 0x20 + b. -/
def Power.sect (p : Power) (g : Nat) : SectSt :=
  if g = 1 then p.ethm
  else if g = 2 then p.host
  else if 0x10 ≤ g ∧ g < 0x18 then p.ports.getD (g - 0x10) .off
  else if 0x20 ≤ g ∧ g < 0x24 then p.banks.getD (g - 0x20) .off
  else .off
def Power.setSect (p : Power) (g : Nat) (s : SectSt) : Power :=
  if g = 1 then { p with ethm := s }
  else if g = 2 then { p with host := s }
  else if 0x10 ≤ g ∧ g < 0x18 then { p with ports := p.ports.set (g - 0x10) s }
  else if 0x20 ≤ g ∧ g < 0x24 then { p with banks := p.banks.set (g - 0x20) s }
  else p
def Power.isOn (p : Power) (d : Nat) : Bool := p.domains.getD d false
def Power.setOn (p : Power) (d : Nat) (v : Bool) : Power := { p with domains := p.domains.set d v }

/-- PWR_STATUS.DOM of a domain (R479); PD10 and PD11 of JW3X-C read 0. A lane's own domain has no section. -/
def Power.dom (p : Power) (fullVariant : Bool) (d : Nat) : Nat :=
  if (d = 10 ∨ d = 11) ∧ fullVariant = false then 0
  else if d = 9 then
    (if p.isOn 9 = false then 0 else if p.ethm = .running ∨ p.host = .running then 1
     else if p.ethm = .gated ∨ p.host = .gated then 2 else 0)
  else if d = 11 then
    (if p.isOn 11 = false then 0 else if p.ports.any (· == .running) then 1 else if p.ports.any (· == .gated) then 2 else 0)
  else if p.isOn d then 1 else 0

/-- The sleep state a hint allows (R481). -/
def allowedBy (lat : Nat) : SectSt := if lat < 100 then .running else if lat < 5000 then .gated else .off

/-- A slot coding that keeps the module in STARTING (R492). -/
def badSid (sid : Nat) : Bool := sid == 0 || sid == 1 || sid == 30 || sid == 31

/-- The partner's SID (R492). -/
def partnerSid (sid : Nat) : Nat := sid ^^^ 1

end Sys2Proof.Machine
end

