-- ==== Sys2Proof/Machine/ModState.lean ====
section
/-!
DEFINITION. The state of the module as a whole: its service state and role, the three lanes, Garnet, rotations, state copies, and
every unit outside the lanes; with the far ends of the Opbex network (01_one_logic_cycle.md R12, R31; 06_lanes_and_voting.md
R159 to R184; assumption log 5).
-/
namespace Sys2Proof.Machine

/-- The service states (R31). -/
inductive Service where
  | starting | held | reduced | full
  deriving DecidableEq, Repr

/-- One Garnet link (R159, R161, R185): 0 down, 1 training, 2 up, 3 failed; `retrainAt` is the next retrain of a failed link. -/
structure GLink where
  st : Nat
  retrainAt : Option Nat
  deriving DecidableEq, Repr

/-- The three links AB, BC and CA (R159). -/
structure GLinks where
  ab : GLink
  bc : GLink
  ca : GLink
  deriving DecidableEq, Repr

/-- A link of Garnet by name. -/
inductive LinkName where
  | ab | bc | ca
  deriving DecidableEq, Repr

/-- Where the running cycle stands (R16). -/
inductive CyclePh where
  | idle | cut | run | window
  deriving DecidableEq, Repr

/-- What a lane rotates for (R136, R176, R183, R394, R155). -/
inductive RotKind where
  | schedule | staging | commanded | rejoin
  deriving DecidableEq, Repr

/-- How far a rotation has come (R177). -/
inductive RotStep where
  | split | solo | powered | loaded | tested | copying | shadow
  deriving DecidableEq, Repr

/-- A rotation under way (R176, R177): its lane, step and withdrawing boundary. -/
structure Rotation where
  lane : Lane
  kind : RotKind
  step : RotStep
  since : Nat
  deriving DecidableEq, Repr

/-- A state copy to a joining lane (R178, R179, R183): source, target, start, whether it is extended to the station region and
code, whether the target's copy set equals the source's, how often the copy was made, shadow cycles passed in a row, and whether
the shadow cycle under way is clean so far. -/
structure Copy where
  src : Lane
  dst : Lane
  since : Nat
  extended : Bool
  equal : Bool
  tries : Nat
  passes : Nat
  clean : Bool
  deriving DecidableEq, Repr

/-- A lane's rotation books (R176): instant of its last rotation, instant at which its 24-hour count was restarted, due since when,
last attempt, reported overdue. -/
structure RotBook where
  last : Nat
  restart : Option Nat
  due : Option Nat
  tried : Option Nat
  overdue : Bool
  deriving DecidableEq, Repr

/-- The restart of this run (R121, R125, R126): the agreed record with the lanes that hold it, how the last start went (0 none, 1
warm, 2 cold), the cold option of a restart command, whether the images were activated since. -/
structure RestartSt where
  record : Option (Nat × Nat)
  holders : List Lane
  exchanged : Bool
  kind : Nat
  cold : Bool
  fresh : Bool
  deriving DecidableEq, Repr

/-- An image of a local setting or a hand-over the module makes at a cycle boundary: a life-cycle state waiting for it (R417,
R419). -/
structure LcWait where
  state : LcState
  cycle : Nat
  signer : Bytes
  deriving DecidableEq, Repr

/-- The SPS confirmation (R290): the refusals counted and the lock-out; the value being confirmed. -/
structure Confirm where
  refusals : Nat
  lockUntil : Nat
  deriving DecidableEq, Repr

/-- The outputs of a voted cycle: node frames, nodes to be sent a null poll, KST PDUs, bridge commands, and per lane its local output
words (R25, R27, R28, R318, R309). -/
structure OutSet where
  cycle : Nat
  frames : SMap Bytes
  nulled : List Nat
  pdus : List (Nat × Bytes)
  bridge : List (Nat × Nat × Nat)
  locals : List (Lane × List Nat)
  deriving DecidableEq, Repr

/-- The module with the far ends of its Opbex network. Times are clock instants in ns. -/
structure Mod where
  clock : Nat
  free : Nat
  full : Bool
  sid : Nat
  service : Service
  role : Nat
  heldCause : Nat
  heldAt : Nat
  everActive : Bool
  bootAt : Nat
  cycle : Nat
  cycleTime : Nat
  cutAt : Nat
  stopCut : Bool
  ph : CyclePh
  handed : Bool
  outWait : Option OutSet
  overruns : List Nat
  winAt : Option Nat
  winLast : Nat
  runAt : Nat
  sealedAt : Nat
  lanes : PerLane LaneSt
  links : GLinks
  minority : PerLane Nat
  minNow : List Lane
  devStreak : PerLane (SMap Nat)
  diffStreak : Nat
  gateStreak : PerLane Nat
  rotation : Option Rotation
  bistWait : Option (Lane × Nat)
  copy : Option Copy
  books : PerLane RotBook
  digAgain : List Nat
  restart : RestartSt
  lcWait : Option LcWait
  confirm : Confirm
  procs : Procs
  obx : Obx
  kst : KstPorts
  drp : Drp
  lio : Lio
  jade : Jade
  amber : Amber
  power : Power
  time : TimeKeep
  phcfg : PhCfg
  pair : Pair
  nodes : SMap Node
  stars : PerChan Star
  sent : List Sent
  deriving DecidableEq, Repr

def GLink.reset : GLink := ⟨0, none⟩
def RotBook.reset : RotBook := ⟨0, none, none, none, false⟩
def RestartSt.reset : RestartSt := ⟨none, [], false, 0, false, false⟩

/-- The module just before power good (13_startup_and_self_test.md R370): STARTING, no role, every processor in reset. -/
def Mod.reset : Mod :=
  { clock := 0, free := 0, full := true, sid := 0, service := .starting, role := 0, heldCause := 0, heldAt := 0,
    everActive := false, bootAt := 0, cycle := 0, cycleTime := 0, cutAt := 0, stopCut := false, ph := .idle, handed := true,
    outWait := none, overruns := [], winAt := none, winLast := 0, runAt := 0, sealedAt := 0, lanes := PerLane.const LaneSt.reset,
    links := ⟨.reset, .reset, .reset⟩, minority := PerLane.const 0, minNow := [], devStreak := PerLane.const [], diffStreak := 0,
    gateStreak := PerLane.const 0, rotation := none, bistWait := none, copy := none, books := PerLane.const RotBook.reset, digAgain := [],
    restart := RestartSt.reset, lcWait := none, confirm := ⟨0, 0⟩, procs := Procs.reset, obx := Obx.reset,
    kst := KstPorts.reset, drp := Drp.reset, lio := Lio.reset, jade := Jade.reset, amber := Amber.reset, power := Power.reset,
    time := TimeKeep.reset, phcfg := PhCfg.default, pair := Pair.reset, nodes := [], stars := PerChan.const Star.reset, sent := [] }

end Sys2Proof.Machine
end

