-- ==== Sys2Proof/Machine/Units.lean ====
section
/-!
DEFINITION. The register regions of a lane (16_movers_checks_crossings.md R438).
-/
namespace Sys2Proof.Machine

/-- A register region: Beryl, Garnet, Opal, transposer DMA, scan and check unit, Amber port, local I/O view, Opbex view, bridge view, lane
control. -/
inductive RegUnit where
  | brl | grn | opl | tdm | scu | amb | lio | obx | brg | lct
  deriving DecidableEq, Repr

end Sys2Proof.Machine
end

