-- ==== Sys2Proof/Syntax.lean ====
section
/-!
DEFINITION. The commands of the block, one constructor per row of the command table, with what each command carries. `t` is the
instant at which the command happens, in ns of the model's clock (assumption log 4).
-/
namespace Sys2Proof
open Machine

/-- A command. -/
inductive Instr where
  /-- ITEM_RECEIVE (R18). An interface controller receives an item, stamps it and writes it once into the receive ring of each of the three
  lanes. -/
  | itemReceive (p : Path) (cls num seq : Nat) (kind : ItemKind) (body : Bytes) (t : Nat)
  /-- INPUT_CUT (R20). A voting lane that has finished its tail starts the next cycle's cut and sends its per-path item counts to the other
  voting lanes. -/
  | inputCut (x : Lane) (t : Nat)
  /-- CUT_WAIT_TIMEOUT (R20). Items missing below a path's cut count have not arrived within 20 µs of the cut, so the lane is silent for the
  cycle. -/
  | cutWaitTimeout (x : Lane) (t : Nat)
  /-- INPUT_CONSENSUS (R163). Once the CUT, IDG and MEAS frames of the peer lanes have arrived, the lane agrees exact blocks and measured values
  and forms the agreed input image. -/
  | inputConsensus (excs : PerLane (Option ProgExc)) (t : Nat)
  /-- WCET_OVERRUN (R99). A program runs longer than three times its WCET_NS, and the runtime stops it as a program exception. -/
  | wcetOverrun (x : Lane) (e : ProgExc) (t : Nat)
  /-- OUTPUT_OFFER (R170). A voting lane completes its output image, offers its vote summary and starts speculative sealing; the first offer
  opens the vote window. -/
  | outputOffer (x : Lane) (sealOk : Bool) (t : Nat)
  /-- VOTE_WINDOW_CLOSE (R24). The vote window closes when all summaries are complete, or 20 µs after opening, and the slices vote every unit.
  -/
  | voteWindowClose (ins : PerLane SliceIn) (t : Nat)
  /-- PHASE_OVERRUN (R17). A cycle phase exceeds its bound, and each voting lane writes an OVERRUN record. -/
  | phaseOverrun (phase len : Nat) (t : Nat)
  /-- CYCLE_HANDOVER_TIMEOUT (R17). No sealed set has been handed over within 10 ms of the cut in FULL, or 20 ms in REDUCED, and the module
  enters HELD. -/
  | cycleHandoverTimeout (t : Nat)
  /-- LOCKSTEP_MISMATCH (R152). The lane comparator finds a mismatch, and the lane is silenced within two core cycles. -/
  | lockstepMismatch (x : Lane) (unitNo : Nat) (t : Nat)
  /-- COMPARATOR_DISAGREE (R153). The two comparator copies disagree, and the lane is silenced as for a mismatch. -/
  | comparatorDisagree (x : Lane) (t : Nat)
  /-- LANE_MONITOR_TRIP (R154). A lane's power-good monitor or clock monitor trips, and the lane is silenced. -/
  | laneMonitorTrip (x : Lane) (onClock : Bool) (dev : Nat) (t : Nat)
  /-- GARNET_CRC_FAIL (R160). A Garnet frame fails its CRC and is sent again once within 2 µs. -/
  | garnetCrcFail (x : Lane) (n : LinkName) (again : Bool) (t : Nat)
  /-- GARNET_LINK_FAULT (R161). A Garnet link fails, and the module continues REDUCED with the prescribed lanes, or enters HELD on a second
  fault. -/
  | garnetLinkFault (n : LinkName) (t : Nat)
  /-- GARNET_LINK_RETRAIN (R161). Garnet retrains a failed link every 10 s, and a lane rejoins once the link passes its test. -/
  | garnetLinkRetrain (n : LinkName) (ok : Bool) (t : Nat)
  /-- ROTATION_DUE (R176). A lane's rotation falls due, or its 60 s retry comes round, and the rotation starts if the start conditions hold. -/
  | rotationDue (x : Lane) (t : Nat)
  /-- ROTATION_OVERDUE (R176). A rotation has not started within 4 h of falling due and is reported overdue. -/
  | rotationOverdue (x : Lane) (t : Nat)
  /-- CORE_SOLO_SELFTEST_DONE (R157). The cores' solo logic self-tests complete, and their signatures are compared with the reference. -/
  | coreSoloSelftestDone (x : Lane) (ok : Bool) (t : Nat)
  /-- LANE_POWER_CYCLE (R177). The lane domain is switched off for 100 ms, then on, with a synchronised reset. -/
  | lanePowerCycle (x : Lane) (t : Nat)
  /-- STATE_COPY_START (R178). The copy source starts the bulk walk and mirroring of the copy set to a joining lane. -/
  | stateCopyStart (x : Lane) (t : Nat)
  /-- STATE_COPY_EQUAL (R178). At the first boundary after the bulk walk, the joining lane's copy set equals the source's state. -/
  | stateCopyEqual (t : Nat)
  /-- ROTATION_ABANDON (R180). A rotation not ended within 45 s is abandoned, and the lane is held out. -/
  | rotationAbandon (t : Nat)
  /-- DIGEST_SLICE_COMPARE (R183). Cross-lane digest slices are compared, and a divergent lane leaves and is resynchronised, or the module
  enters HELD. -/
  | digestSliceCompare (t : Nat)
  /-- GRN_KEY_WRITE (R185). A write to GRN_KEY0 to GRN_KEY7 loads the lane command key while KEYLOCK is 0. -/
  | grnKeyWrite (x : Lane) (w : Nat) (v : Word32) (t : Nat)
  /-- GRN_KEYLOCK_SET (R185). Setting GRN_CTRL.KEYLOCK locks the key registers until lane reset. -/
  | grnKeylockSet (x : Lane) (t : Nat)
  /-- GRN_ERRCAP_READ (R186). A read of GRN_ERRCAP returns and clears it and copies it into GRN_ERRCAP_LR. -/
  | grnErrcapRead (x : Lane) (t : Nat)
  /-- GATE_READBACK (R174). The local I/O controller reads back every majority gate each cycle and flags gate faults and lane minorities. -/
  | gateReadback (bad : List Nat) (t : Nat)
  /-- BRL_REQ_PROD_WRITE (R63). The runtime advances BRL_REQ_PROD, making new descriptors available to Beryl. -/
  | brlReqProdWrite (x : Lane) (v : Nat) (t : Nat)
  /-- DESCRIPTOR_ACCEPT (R63). Beryl accepts the next descriptor once fewer than 256 are in flight and applies the NOTREADY, TAGDUP, ORDER and
  BADOP checks. -/
  | descriptorAccept (x : Lane) (t : Nat)
  /-- SET (R69). Beryl decides a route admission by the thirteen conditions and commits it or tries to queue it. -/
  | set (x : Lane) (t : Nat)
  /-- PROBE (R69). Beryl tests an admission without committing it. -/
  | probe (x : Lane) (t : Nat)
  /-- CANCEL (R77). Beryl cancels a route, releasing it or starting approach locking. -/
  | cancel (x : Lane) (t : Nat)
  /-- TREL (R78). Beryl releases a route at once or starts its timed release. -/
  | trel (x : Lane) (t : Nat)
  /-- DEQUEUE (R87). Beryl withdraws the pending entry of a route and answers it DEQUEUED. -/
  | dequeue (x : Lane) (t : Nat)
  /-- AREL (R82). Beryl starts or replaces the area release timer of an area. -/
  | arel (x : Lane) (t : Nat)
  /-- AFFECT (R85). Beryl writes the OR of an element's transposed rows and counts the related and SET routes. -/
  | affect (x : Lane) (t : Nat)
  /-- PLANE_WRITE (R76). Beryl writes program-owned plane bits, with the NOTPROVEN, LOCKED and LOCK-SAFE refusals. -/
  | planeWrite (x : Lane) (t : Nat)
  /-- RESPONSE_WRITE (R64). Beryl writes a response into the response ring once space is free and advances BRL_RSP_PROD. -/
  | responseWrite (x : Lane) (t : Nat)
  /-- BRL_RSP_CONS_WRITE (R64). The runtime advances BRL_RSP_CONS, freeing response ring space. -/
  | brlRspConsWrite (x : Lane) (v : Nat) (t : Nat)
  /-- BRL_CTRL_WRITE (R86). A write to BRL_CTRL sets EN and HOLD; with HOLD set, the transposer DMA gains SRAM access once the pipeline is
  empty. -/
  | brlCtrlWrite (x : Lane) (v : Word32) (t : Nat)
  /-- LOAD (R61). BRL_CMD LOAD builds the work region, clears the working store and applies the restart record. -/
  | load (x : Lane) (t : Nat)
  /-- CLEAR (R60). BRL_CMD CLEAR clears every state plane and the working store. -/
  | clear (x : Lane) (t : Nat)
  /-- STEP (R79). BRL_CMD STEP latches the time, publishes a due sweep and visits every SET or OVL-SET route for proving and release. -/
  | step (x : Lane) (t : Nat)
  /-- PENDING_EXPIRE (R74). A pending entry's lifetime has passed, and it is answered EXPIRED. -/
  | pendingExpire (x : Lane) (r : Nat) (t : Nat)
  /-- AREA_TIMER_DUE (R79). An area's release timer is due, and LOCK-SAFE is cleared over the area. -/
  | areaTimerDue (x : Lane) (a : Nat) (t : Nat)
  /-- ROUTE_TREL_DUE (R80). A route's timed release or approach locking deadline is due, and the route and its overlap are released together. -/
  | routeTrelDue (x : Lane) (r : Nat) (t : Nat)
  /-- OVERLAP_TREL_DUE (R80). An overlap's timed release deadline is due, and the overlap is released. -/
  | overlapTrelDue (x : Lane) (r : Nat) (t : Nat)
  /-- SWEEP (R83). BRL_CMD SWEEP snapshots the planes and starts a settability sweep, or is ignored with CMDERR while one runs. -/
  | sweep (x : Lane) (t : Nat)
  /-- SWEEP_COMPLETE (R84). A settability sweep finishes and its result awaits publication. -/
  | sweepComplete (x : Lane) (t : Nat)
  /-- FETCH_TIMEOUT (R88). A Beryl row fetch has not completed within 2 µs. -/
  | fetchTimeout (x : Lane) (t : Nat)
  /-- BRL_ERRCAP_READ (R62). A read of BRL_ERRCAP returns and clears it and copies it into BRL_ERRCAP_LR. -/
  | brlErrcapRead (x : Lane) (t : Nat)
  /-- RETAIN_MRAM_WRITE (R119). After the tail, block checks are recomputed and changed lines, lock store copy and header are written to MRAM.
  -/
  | retainMramWrite (x : Lane) (t : Nat)
  /-- RESTART_RECORD_EXCHANGE (R125). The lanes exchange restart record candidates and fingerprints and pick the agreed record. -/
  | restartRecordExchange (t : Nat)
  /-- FIRST_VOTING_CYCLE (R121). The first voting cycle after STARTING chooses a warm or cold restart and runs as a settle cycle. -/
  | firstVotingCycle (t : Nat)
  /-- CHANGE_COMMIT (R137). A CHANGE_COMMIT message from a commissioning association starts the search for a change-over boundary, or is
  refused. -/
  | changeCommit (anum : Nat) (body : Bytes) (t : Nat)
  /-- CHANGE_WAIT_EXPIRE (R138). No boundary was found within WAIT_S, and the change ends with result ROUTES. -/
  | changeWaitExpire (t : Nat)
  /-- FORCE (R145). A FORCE message sets, clears or clears all forces and is answered by FORCE_RESULT. -/
  | force (anum : Nat) (body : Bytes) (t : Nat)
  /-- MINOR_CYCLE_START (R202). At MCSn the active master sends CYC on both channels with MCN, claim, L, bank and flags. -/
  | minorCycleStart (t : Nat)
  /-- POLL_ASSEMBLE (R27). The channel controller builds a node's poll from the newest sealed set 5 µs before the poll window opens. -/
  | pollAssemble (ch : Chan) (k : Nat) (t : Nat)
  /-- POLL_SEND (R194). The master sends a POLL, NPOLL or HPOLL to a node at its computed poll instant. -/
  | pollSend (ch : Chan) (k : Nat) (t : Nat)
  /-- REPLY_RECEIVE (R211). A channel controller checks a reply, and the arbiter passes the first valid copy to the lanes. -/
  | replyReceive (ch : Chan) (f : Frame) (second : Option Frame) (t : Nat)
  /-- ECHO_SEND (R197). The master sends an ECHO to its star or to a node in an echo window. -/
  | echoSend (ch : Chan) (w : Nat) (t : Nat)
  /-- ECHOR_RECEIVE (R197). The master measures the round trip from an ECHOR and updates dm or dk. -/
  | echorReceive (ch : Chan) (f : Frame) (t : Nat)
  /-- MARKER_ITEM (R211). Each channel controller delivers a minor-cycle marker item at MCSn + 3,880 µs. -/
  | markerItem (ch : Chan) (t : Nat)
  /-- SMGT_SEND (R198). The master sends an SMGT to each star in every minor cycle. -/
  | smgtSend (ch : Chan) (t : Nat)
  /-- SRPT_RECEIVE (R198). The master receives a star's SRPT with port reports and acknowledgements. -/
  | srptReceive (ch : Chan) (f : Frame) (rep : Srpt) (t : Nat)
  /-- SYNC_SEND (R223). A sync source sends its SYNC on both channels in its sync window. -/
  | syncSend (who : Who) (t : Nat)
  /-- SYNC_RECEIVE (R224). A participant measures the deviation of a received SYNC. -/
  | syncReceive (who : Who) (ch : Chan) (f : Frame) (t : Nat)
  /-- OFFSET_CORRECTION (R225). At MCSn + 3,940 µs a participant applies the fault-tolerant average as an offset step. -/
  | offsetCorrection (who : Who) (t : Nat)
  /-- RATE_CORRECTION (R226). At each major-cycle boundary a participant updates its rate correction. -/
  | rateCorrection (who : Who) (t : Nat)
  /-- CHANNEL_FAIL (R214). At the end of a minor cycle a channel controller declares its channel failed or re-admits it. -/
  | channelFail (ch : Chan) (light : Bool) (t : Nat)
  /-- OBX_BANKSW_WRITE (R218). A lane sets or withdraws its request to switch to the inactive schedule bank. -/
  | obxBankswWrite (x : Lane) (v : Word32) (t : Nat)
  /-- BANK_SWITCH (R218). A schedule bank switch requested by two lanes takes effect at a major-cycle boundary. -/
  | bankSwitch (t : Nat)
  /-- NODE_VERSION_MOVE (R232). A node moves to a higher protocol version from the next major cycle. -/
  | nodeVersionMove (k : Nat) (t : Nat)
  /-- AGGREGATE_REPORT (R233). At the end of a major cycle the lanes write aggregate or per-node NEVT records. -/
  | aggregateReport (t : Nat)
  /-- CYCLE_POINT (R235). A cycle point fires at its offset and is counted in OBX_CPCNT. -/
  | cyclePoint (x : Lane) (k : Nat) (t : Nat)
  /-- OBX_CP_WRITE (R235). A write to OBX_CPk defines a cycle point that takes effect from the next minor cycle. -/
  | obxCpWrite (x : Lane) (k : Nat) (v : Word32) (t : Nat)
  /-- OBX_ERRCAP_READ (R236). A read of OBX_ERRCAP returns and clears it and copies it into OBX_ERRCAP_LR. -/
  | obxErrcapRead (x : Lane) (t : Nat)
  /-- LISTEN_TIMEOUT (R227). After 40 ms of Opbex listening without a valid CYC, the module sets its time and begins a cold start. -/
  | listenTimeout (t : Nat)
  /-- COLD_SEND (R228). A module in cold start sends a COLD on both channels every 1,000 + 50 × (SID mod 16) µs. -/
  | coldSend (t : Nat)
  /-- COLD_RECEIVE (R228). A module in cold start receives a COLD and yields to a higher claim or continues. -/
  | coldReceive (f : Frame) (t : Nat)
  /-- BECOME_MASTER (R229). After 20 ms and 16 COLD frames unopposed, the module stores its EPOCH, fixes T0 and becomes master. -/
  | becomeMaster (t : Nat)
  /-- NODE_POLL_ACCEPT (R206). An object controller checks a POLL and accepts it, updating HCLAIM and its commands. -/
  | nodePollAccept (k : Nat) (ch : Chan) (f : Frame) (inp : NodeIn) (t : Nat)
  /-- NODE_FRESHNESS_EXPIRE (R208). A node's missed-poll count reaches FTO, and every channel goes to its CODE 7 state. -/
  | nodeFreshnessExpire (k : Nat) (t : Nat)
  /-- NODE_NPOLL (R209). A node answers an NPOLL without changing a command. -/
  | nodeNpoll (k : Nat) (ch : Chan) (f : Frame) (inp : NodeIn) (t : Nat)
  /-- NODE_HPOLL (R209). A node answers an HPOLL and puts every channel in its CODE 7 state. -/
  | nodeHpoll (k : Nat) (ch : Chan) (f : Frame) (inp : NodeIn) (t : Nat)
  /-- NODE_CYC_RECEIVE (R230). A node receives a CYC and sets or follows its time base. -/
  | nodeCycReceive (k : Nat) (ch : Chan) (f : Frame) (t : Nat)
  /-- NODE_HCLAIM_CLEAR (R230). A node clears HCLAIM after 1 s without a valid CYC. -/
  | nodeHclaimClear (k : Nat) (t : Nat)
  /-- NODE_COMMIT_REACHED (R253). A node's Ψ reaches a pending command's commit index, and the command is applied. -/
  | nodeCommitReached (k : Nat) (t : Nat)
  /-- STAR_FRAME_FILTER (R219). A star forwards a frame that starts within an open window and blocks or truncates the rest. -/
  | starFrameFilter (ch : Chan) (p : SPort) (f : Frame) (t : Nat)
  /-- PORT_REENABLE (R221). The master re-enables a disabled node port by SMGT 10 s after it was disabled. -/
  | portReenable (ch : Chan) (k : Nat) (t : Nat)
  /-- STAR_GRANT (R222). After two missed minor cycles, a star sends GRANT in its grant window. -/
  | starGrant (ch : Chan) (t : Nat)
  /-- STAR_COLD_ARBITRATE (R220). Before its first CYC, a star forwards the first of two overlapping COLD or CYC frames, or the higher claim on
  a tie. -/
  | starColdArbitrate (ch : Chan) (p1 t1 : Nat) (f1 : Frame) (t2 : Nat) (f2 : Frame) (t : Nat)
  /-- LANE_TIME_CORRECT (R237). Each minor cycle the lane time counter is slewed towards the network time base. -/
  | laneTimeCorrect (x : Lane) (t : Nat)
  /-- RTC_SAVE (R239). The real-time clock saves its count to MRAM once per second. -/
  | rtcSave (t : Nat)
  /-- PTP_MEASURE (R241). Once per major cycle, Jade measures Δ against PTP and steers, or declares PTP inconsistent. -/
  | ptpMeasure (valid : Bool) (delta : Int) (port : Nat) (t : Nat)
  /-- OPAL_ZERO_CROSSING (R247). At each expected zero crossing, Opal evaluates input validity and the phase events and corrects or steps Φ. -/
  | opalZeroCrossing (x : Lane) (amp1 mhz1 ph1 amp2 mhz2 ph2 : Nat) (t : Nat)
  /-- OPAL_ENABLE (R245). Setting OPL_CTRL.EN starts Φ in synthetic mode from module time. -/
  | opalEnable (x : Lane) (t : Nat)
  /-- OPL_SNAP_WRITE (R256). A write to OPL_SNAP latches time, Φ and PHSTAT in the same Opal clock. -/
  | oplSnapWrite (x : Lane) (t : Nat)
  /-- OPL_SHCOMMIT_WRITE (R255). Writing GO arms a hand-over of the commit and sampling window shadows at a target supply cycle. -/
  | oplShcommitWrite (x : Lane) (tgt : Nat) (go : Bool) (t : Nat)
  /-- OPAL_HANDOVER (R255). At tick 0 of the target supply cycle, all five shadows become active together. -/
  | opalHandover (x : Lane) (t : Nat)
  /-- OPL_PHC_HI_READ (R256). A read of OPL_PHC_HI holds the low word of Φ until it is read. -/
  | oplPhcHiRead (x : Lane) (t : Nat)
  /-- OPL_ERRCAP_READ (R257). A read of OPL_ERRCAP returns and clears it and copies it into OPL_ERRCAP_LR. -/
  | oplErrcapRead (x : Lane) (t : Nat)
  /-- INPUT_SAMPLE (R259). Every 100 µs the controller samples and classifies each input channel into a band. -/
  | inputSample (ua : List Nat) (t : Nat)
  /-- INPUT_DEBOUNCE_EXPIRE (R265). A band has been held for DEB_ON, DEB_OFF, 5 ms or 100 ms, and the channel changes state. -/
  | inputDebounceExpire (c : Nat) (t : Nat)
  /-- CROSS_CHECK_SAMPLE (R261). At 350 µs into its own dark slot, the controller takes check samples and marks channels CROSS. -/
  | crossCheckSample (g : Nat) (ua : List Nat) (t : Nat)
  /-- THRESHOLD_INJECTION (R262). In each own dark slot, a test current is injected, and repeated wrong bands put the channel in TFAIL. -/
  | thresholdInjection (g : Nat) (bands : List Nat) (t : Nat)
  /-- TP_SUPPLY_FAULT (R264). A test-pulse supply out of range or at its limit for 5 ms is switched off, and its group enters BREAK. -/
  | tpSupplyFault (g : Nat) (t : Nat)
  /-- TP_SUPPLY_RETRY (R264). The controller retries a faulty test-pulse supply every 10 s. -/
  | tpSupplyRetry (g : Nat) (good : Bool) (t : Nat)
  /-- PAIR_DISCREPANCY (R266). A two-channel input pair leaves its mode for longer than DISC, and both channels enter DISC. -/
  | pairDiscrepancy (c : Nat) (t : Nat)
  /-- COUNT_EDGE (R267). A counting input sees a rising edge, which is counted and time-stamped. -/
  | countEdge (ch : Nat) (t : Nat)
  /-- PAIR_TIMEOUT (R282). An edge left open for longer than PAIRTO counts as unpaired for its head. -/
  | pairTimeout (f : Nat) (onA : Bool) (t : Nat)
  /-- SF_HOLD_EXPIRE (R283). HOLD ms have passed since the last pair, so VALID or DIR of the function drops. -/
  | sfHoldExpire (f : Nat) (t : Nat)
  /-- SLP_START (R285). A rising edge of the majority START bits opens the SLP window and starts its timer. -/
  | slpStart (f : Nat) (t : Nat)
  /-- SLP_WINDOW_EXPIRE (R285). TWIN elapses before an end position is reached, so IN_WINDOW clears and TIMEOUT is set. -/
  | slpWindowExpire (f : Nat) (t : Nat)
  /-- SLP_SETTLE_EXPIRE (R285). An end position has held for TSETTLE, so END_N or END_R is set. -/
  | slpSettleExpire (f : Nat) (t : Nat)
  /-- LIO_SNAP_WRITE (R268). A lane's write to LIO_SNAP latches that lane's bank within 1 µs into its measured value window. -/
  | lioSnapWrite (x : Lane) (t : Nat)
  /-- LIO_INPUT_ITEM (R269). Every 1 ms the controller delivers an input item with all channel states. -/
  | lioInputItem (t : Nat)
  /-- OUTPUT_CURRENT_TRIP (R274). A channel has limited for 10 ms or shut down thermally and enters TRIP. -/
  | outputCurrentTrip (o : Nat) (thermal : Bool) (t : Nat)
  /-- BANK_TRIP (R274). A bank's summed current exceeds 4.0 A for 500 ms, and its ON outputs trip. -/
  | bankTrip (b ma : Nat) (t : Nat)
  /-- FEED_UNDERVOLTAGE (R274). A bank feed below 18 V for 5 ms puts the bank's outputs in NOFEED. -/
  | feedUndervoltage (b : Nat) (t : Nat)
  /-- FEED_RETURN (R274). A feed above 19.2 V for 100 ms ends NOFEED. -/
  | feedReturn (b : Nat) (t : Nat)
  /-- SWITCH_TEST (R275). In its test slot, an output switch is opened or closed alone and checked. -/
  | switchTest (slot verdict : Nat) (t : Nat)
  /-- LIO_DO2_WRITE (R277). A lane's write of LIO_DO2 presents its 96 commands to the gates and refreshes its liveness. -/
  | lioDo2Write (x : Lane) (w : Word32) (t : Nat)
  /-- LIO_FSTART_WRITE (R277). A lane writes the START levels of the SLP functions. -/
  | lioFstartWrite (x : Lane) (v : Word32) (t : Nat)
  /-- LANE_REFRESH_TIMEOUT (R277). A lane has not written LIO_DO2 within TSIL, and its gate inputs stop being live. -/
  | laneRefreshTimeout (x : Lane) (t : Nat)
  /-- LIO_ENERGISE (R279). When the module becomes ACTIVE, the controller lights the supplies and runs a start sweep. -/
  | lioEnergise (t : Nat)
  /-- LIO_DEENERGISE (R279). A module that is not ACTIVE, or has seen a higher claim, darkens its supplies and opens its outputs. -/
  | lioDeenergise (t : Nat)
  /-- LIO_CONTROLLER_FAULT (R280). The local I/O controller's comparator finds a mismatch, so the controller stops and CTLFLT is set. -/
  | lioControllerFault (t : Nat)
  /-- LIO_ERRCAP_READ (R292). A read of LIO_ERRCAP returns and clears it and copies it into LIO_ERRCAP_LR. -/
  | lioErrcapRead (x : Lane) (t : Nat)
  /-- DRAIP_VISIT (R296). In each Draip cycle, the bridge visits each used device with its command, polls and side-band exchange. -/
  | draipVisit (d : Nat) (t : Nat)
  /-- DRAIP_ANSWER_RECEIVE (R298). The bridge receives a device answer and delivers telegram, status or log items. -/
  | draipAnswerReceive (d : Nat) (tel : Bytes) (t : Nat)
  /-- DRAIP_ANSWER_TIMEOUT (R296). No answer has started after TRESP plus two character times, so the answer is missing. -/
  | draipAnswerTimeout (d : Nat) (t : Nat)
  /-- DRAIP_ORPHAN (R302). An announced telegram has not arrived within 2 Draip cycles, so the event is delivered as an orphan. -/
  | draipOrphan (d : Nat) (t : Nat)
  /-- DRAIP_HOLDBACK_EXPIRE (R303). A lane discards held-back telegrams of a non-NORMAL device after 2 Draip cycles. -/
  | draipHoldbackExpire (d : Nat) (t : Nat)
  /-- BRG_UNP_GO (R305). Setting BRG_UNP_CTL.GO starts the unpack of the cut's accepted telegrams through the map. -/
  | brgUnpGo (x : Lane) (n : Nat) (t : Nat)
  /-- BRIDGE_LOCKSTEP_FAULT (R309). The bridge comparator finds a mismatch, so the bridge stops and CTLFLT is set. -/
  | bridgeLockstepFault (t : Nat)
  /-- BRG_ERRCAP_READ (R328). A read of BRG_ERRCAP returns and clears it and copies it into BRG_ERRCAP_LR. -/
  | brgErrcapRead (x : Lane) (t : Nat)
  /-- JADE_PORT_READ (R314). A lane reads across its Jade port and is answered, or answered RETRY. -/
  | jadePortRead (x : Lane) (ans : Option Nat) (t : Nat)
  /-- JADE_READ_RETRY (R314). A RETRY answer arrives 2 µs after the read, and the reader repeats the read or ends it with an error after 64. -/
  | jadeReadRetry (x : Lane) (ans : Option Nat) (t : Nat)
  /-- KST_FRAME_RECEIVE (R315). The KST ports receive a PRP frame, discard duplicates and deliver the PDU as an item. -/
  | kstFrameReceive (port : Chan) (src seq : Nat) (body : Bytes) (t : Nat)
  /-- PRP_SUPERVISION (R315). The module sends PRP supervision frames every 2 s. -/
  | prpSupervision (t : Nat)
  /-- CONNECT_SEND (R320). The INIT end of a CLOSED association sends a CONNECT every 1 s. -/
  | connectSend (a : Nat) (t : Nat)
  /-- CONNECT (R320). An accepted CONNECT is answered by ACCEPT or CLOSE, or re-opens an OPEN association. -/
  | connect (a : Nat) (body : Bytes) (t : Nat)
  /-- ACCEPT (R502). An accepted ACCEPT makes the INIT end's association OPEN. -/
  | accept (a : Nat) (body : Bytes) (t : Nat)
  /-- CLOSE (R502). An accepted CLOSE closes the association. -/
  | close (a : Nat) (body : Bytes) (t : Nat)
  /-- HEARTBEAT (R322). An accepted HEARTBEAT serves supervision only, or opens a CONNECTING association. -/
  | heartbeat (a : Nat) (body : Bytes) (t : Nat)
  /-- ROUTE_OP (R323). An accepted ROUTE_OP becomes a request list descriptor, or is answered ROLE or LISTFULL. -/
  | routeOp (a : Nat) (body : Bytes) (t : Nat)
  /-- AREA_REL (R322). An accepted AREA_REL goes to the inbox for the application. -/
  | areaRel (a : Nat) (body : Bytes) (t : Nat)
  /-- LINK_STATE (R325). A LINK_STATE record is written into the input record of an IN link element. -/
  | linkState (a : Nat) (body : Bytes) (t : Nat)
  /-- LINK_CMD (R325). A LINK_CMD message goes to the inbox. -/
  | linkCmd (a : Nat) (body : Bytes) (t : Nat)
  /-- APPLICATION_MESSAGE (R324). An application DATA message goes to a KST inbox slot, or waits for the next cycle when slots run out. -/
  | applicationMessage (a : Nat) (body : Bytes) (t : Nat)
  /-- KST_TMAX_EXPIRE (R321). No PDU has been accepted for TMAX, so the association closes with CLOSE REASON 3. -/
  | kstTmaxExpire (a : Nat) (t : Nat)
  /-- FOLLOW (R334). A standby lane verifies a FOLLOW record, resolves its references and runs the followed cycle. -/
  | follow (f : FollowRec) (excs : PerLane (Option ProgExc)) (ins : PerLane SliceIn) (t : Nat)
  /-- FACK (R333). The active module receives the FACK of a cycle and hands over that cycle's sealed set. -/
  | fack (c : Nat) (t : Nat)
  /-- FACK_TIMEOUT (R333). No FACK has arrived within 500 µs, so the set is handed over and the partner made STANDBY-COLD. -/
  | fackTimeout (t : Nat)
  /-- SUM (R335). The standby compares its voted summary with the SUM and counts matches or diverges. -/
  | sum (c : Nat) (value : Option Nat) (t : Nat)
  /-- FETCH (R334). The active module receives a FETCH and answers it with the item in full. -/
  | fetch (ref : ReplyRef) (t : Nat)
  /-- ITEM (R334). The standby receives an ITEM that resolves a reference it lacked. -/
  | item (it : Item) (excs : PerLane (Option ProgExc)) (ins : PerLane SliceIn) (t : Nat)
  /-- DELAY (R336). The standby takes every node's dk and τ from a DELAY frame. -/
  | delay (es : List (Chan × Nat × Int × Int)) (t : Nat)
  /-- STBY_SEND (R336). The standby sends STBY in the pair window of every minor cycle. -/
  | stbySend (ch : Chan) (t : Nat)
  /-- STBY (R336). A star receives STBY and answers it with an ECHOR to that module port. -/
  | stby (ch : Chan) (p : Nat) (f : Frame) (t : Nat)
  /-- SWAP_OFFER (R349). The standby receives a CTRL swap offer naming minor cycle m and answers with swap accept and its raised claim. -/
  | swapOffer (n : Nat) (t : Nat)
  /-- SWAP_ACCEPT (R349). The active module receives swap accept and prepares the swap sequence. -/
  | swapAccept (n : Nat) (t : Nat)
  /-- SWAP_ABORT (R349). A CTRL abort before the swap commit ends the swap, and the active module resumes its cuts. -/
  | swapAbort (t : Nat)
  /-- SWAP_CUT_STOP (R349). At MCS(m − 2) the active module takes no further cut and completes its running cycle. -/
  | swapCutStop (t : Nat)
  /-- SWAP_STAR_HANDOVER (R349). At MCS(m − 1) + 3,000 µs the active module sends the SMGT handover, and the swap commits on the stars'
  acknowledgements. -/
  | swapStarHandover (t : Nat)
  /-- SWAP_ROLE_CHANGE (R349). At MCS(m) the former active module becomes STANDBY-HOT and the new one sends CYC and polls. -/
  | swapRoleChange (t : Nat)
  /-- RELINQUISH_ACK (R346). The active module receives the partner's acknowledgement of relinquish and stops sending on Opbex. -/
  | relinquishAck (t : Nat)
  /-- RELINQUISH_ACK_TIMEOUT (R346). No acknowledgement has arrived within 1 ms, so the module stays ACTIVE in HELD. -/
  | relinquishAckTimeout (t : Nat)
  /-- STANDBY_DEMOTE (R333). A CTRL frame from the active module makes the partner STANDBY-COLD. -/
  | standbyDemote (t : Nat)
  /-- LC_STATE_PASS (R419). A CTRL frame passes a new life-cycle state to the partner, and both apply it at the same cycle. -/
  | lcStatePass (st : LcState) (cycle : Nat) (signer : Bytes) (t : Nat)
  /-- PAIR_CTRL_STATUS (R338). A CTRL frame reports claim, role, PCC, digests, SPS check value, interface health or verified time. -/
  | pairCtrlStatus (p : PairStatus) (t : Nat)
  /-- PAIR_LINK_FAULT (R337). A pair link fault makes the standby STANDBY-COLD at once. -/
  | pairLinkFault (t : Nat)
  /-- PAIR_LINK_RETRAIN (R337). The pair link retrains every 10 s. -/
  | pairLinkRetrain (ok : Bool) (t : Nat)
  /-- STANDBY_STATE_COPY (R339). When the conditions hold, the active module copies its state to the standby and then sends FOLLOW. -/
  | standbyStateCopy (src : LaneSt) (t : Nat)
  /-- HIGHER_CLAIM_RECEIVED (R330). An active module receives a higher ACTIVE claim, stops transmitting and enters HELD. -/
  | higherClaimReceived (claim : Nat) (t : Nat)
  /-- GRANT (R340). A standby receives a GRANT and takes over if conditions 1 to 4 hold. -/
  | grant (ch : Chan) (f : Frame) (t : Nat)
  /-- AUTOSWAP_START (R351). At ROT_BASE + 4 h after 6 days without a change of roles, the ACTIVE module starts a swap, retrying every 60 s. -/
  | autoswapStart (t : Nat)
  /-- SWAP_OVERDUE (R351). After 7 days without a change of roles, the swap is flagged overdue and recorded every 24 h. -/
  | swapOverdue (t : Nat)
  /-- FAULT_SWAP (R360). Loss of both KST ports, the local I/O controller, the bridge or a used Draip port starts a swap to a healthy
  STANDBY-HOT partner. -/
  | faultSwap (t : Nat)
  /-- POWER_GOOD (R370). The power manager finds power good and switches on the domains. -/
  | powerGood (sid x1 x2 : Nat) (storeOk regsOk : Bool) (t : Nat)
  /-- SLOT_CODING_REREAD (R492). Every second, the slot coding is reread, and a change is recorded without being applied. -/
  | slotCodingReread (sid : Nat) (t : Nat)
  /-- DUP_SID_DETECT (R492). A listening module receives a CYC or COLD carrying its own SID and stays in STARTING. -/
  | dupSidDetect (claim ftype : Nat) (t : Nat)
  /-- JADE_BOOT (R374). Jade's ROM verifies the JADE image and runs it, or a fallback, or stays in ROM service. -/
  | jadeBoot (running : Bool) (old : List Nat) (t : Nat)
  /-- JADE_WATCHDOG (R356). The power manager's watchdog finds Jade not running and restarts PD1. -/
  | jadeWatchdog (t : Nat)
  /-- FIRMWARE_LOAD (R375). Jade loads each processor's firmware, whose boot ROM checks the digest before start. -/
  | firmwareLoad (p : Proc) (digestOk : Bool) (t : Nat)
  /-- CONTROLLER_START_TEST (R376). A loaded controller runs its own start test. -/
  | controllerStartTest (p : Proc) (test : Nat) (pass : Bool) (t : Nat)
  /-- LANE_SELF_TEST (R377). A lane released from reset runs its START or ROTATION profile. -/
  | laneSelfTest (x : Lane) (fail : Option (Nat × Nat)) (findings : List Finding) (t : Nat)
  /-- ECC_CANDIDATE (R391). A word corrected three times in 24 h becomes a repair candidate. -/
  | eccCandidate (x : Lane) (target kind faddr addr : Nat) (t : Nat)
  /-- SLICE_INCOMPLETE (R387). A slice reaches 100 µs, is stopped and is reported incomplete. -/
  | sliceIncomplete (x : Lane) (t : Nat)
  /-- START_FAILURE (R382). A failure during start-up leads to ROM service, HELD or a degraded start. -/
  | startFailure (noLight : Bool) (t : Nat)
  /-- LCT_INJ_GO (R378). Setting LCT_INJ.GO forces a compared bit and reports the comparator result in LCT_INJRES. -/
  | lctInjGo (x : Lane) (w : Word32) (both sil : Bool) (lat : Nat) (t : Nat)
  /-- LCT_SILCLR (R458). Writing SILCLR with TEST = 1 clears the lane's silence. -/
  | lctSilclr (x : Lane) (t : Nat)
  /-- LCT_ERRCAP_READ (R441). A read of LCT_ERRCAP returns and clears it and keeps the value in LCT_ERRCAP_LR. -/
  | lctErrcapRead (x : Lane) (t : Nat)
  /-- NP_READ_DISCARD (R441). An NP read whose data was discarded after issue is counted in LCT_ERRCAP. -/
  | npReadDiscard (x : Lane) (t : Nat)
  /-- CONNECTION_OPEN (R396). A mailbox connection opens on transport 1 or 2 and starts both rings at sequence 0. -/
  | connectionOpen (tr : Nat) (t : Nat)
  /-- CONNECTION_LOST (R396). A mailbox connection is lost, and running requests complete with their responses discarded. -/
  | connectionLost (tr : Nat) (t : Nat)
  /-- MAILBOX_RESPONSE_SEND (R397). A completed command's response is written when the response ring has room. -/
  | mailboxResponseSend (tr : Nat) (t : Nat)
  /-- PARTNER_FORWARD_TIMEOUT (R408). A forwarded request gets no partner answer within 2 s and is answered PARTNER. -/
  | partnerForwardTimeout (tr tag : Nat) (t : Nat)
  /-- UPDATE_LOCK_IDLE (R403). An update lock ends after 10 minutes without a session command. -/
  | updateLockIdle (t : Nat)
  /-- ATTEST_REPORT_EXPIRE (R408). Jade discards an attestation report 10 minutes after it was formed. -/
  | attestReportExpire (tr : Nat) (t : Nat)
  /-- TOKEN_EXPIRE (R431). Jade discards a committed token after 10 minutes. -/
  | tokenExpire (t : Nat)
  /-- ID_READ (R409). Returns the identity record. -/
  | idRead (req : MbReq) (t : Nat)
  /-- ID_KEY (R409). Returns the identity public key. -/
  | idKey (req : MbReq) (t : Nat)
  /-- ATTEST (R424). Forms and signs an attestation report over the nonce. -/
  | attest (req : MbReq) (t : Nat)
  /-- ATTEST_READ (R424). Returns a piece of an attestation report. -/
  | attestRead (req : MbReq) (t : Nat)
  /-- IMG_LIST (R426). Returns one entry per image type with version, rollback counter and digest. -/
  | imgList (req : MbReq) (t : Nat)
  /-- LC_READ (R501). Returns life-cycle state, service state, role, last restart kind, HELD cause and uptime. -/
  | lcRead (req : MbReq) (t : Nat)
  /-- LC_SET (R416). Applies a signed token as a life-cycle transition or a root change. -/
  | lcSet (req : MbReq) (t : Nat)
  /-- RESTART (R410). Accepts a restart command, which follows 100 ms after the response. -/
  | restart (req : MbReq) (t : Nat)
  /-- RESTART_DELAY_EXPIRE (R410). 100 ms after the response to RESTART or a restart transition, the module restarts. -/
  | restartDelayExpire (t : Nat)
  /-- UPD_OPEN (R403). Opens an update session and takes the update lock. -/
  | updOpen (req : MbReq) (t : Nat)
  /-- UPD_WRITE (R435). Writes image data at the expected offset. -/
  | updWrite (req : MbReq) (t : Nat)
  /-- UPD_VERIFY (R427). Verifies an image by the nine checks. -/
  | updVerify (req : MbReq) (t : Nat)
  /-- UPD_COMMIT (R435). Makes every image of the session pending together, or stages it for online change. -/
  | updCommit (req : MbReq) (t : Nat)
  /-- UPD_ABORT (R403). Ends the update session and discards its data. -/
  | updAbort (req : MbReq) (t : Nat)
  /-- UPD_STATUS (R403). Returns the update lock holder and session state. -/
  | updStatus (req : MbReq) (t : Nat)
  /-- IMG_INFO (R425). Returns the common header of a running or received image. -/
  | imgInfo (req : MbReq) (t : Nat)
  /-- CHG_READ (R148). Returns part of the change result. -/
  | chgRead (req : MbReq) (t : Nat)
  /-- SET_READ (R411). Returns the value of a local setting. -/
  | setRead (req : MbReq) (t : Nat)
  /-- SET_WRITE (R411). Writes a local setting, into both modules for pair settings. -/
  | setWrite (req : MbReq) (t : Nat)
  /-- SPS_LIST (R290). Returns the decoded SPS body and LIO_SPSCV. -/
  | spsList (req : MbReq) (t : Nat)
  /-- SPS_CONFIRM (R412). The lanes and the controller compare the entered check value, and the lanes write confirmation records or count a
  refusal. -/
  | spsConfirm (req : MbReq) (t : Nat)
  /-- SPS_LOCKOUT_END (R290). The 10-minute confirmation lockout ends, and the refusal count is reset. -/
  | spsLockoutEnd (t : Nat)
  /-- PWR_HINT (R481). Sets the wake latency of an interface group. -/
  | pwrHint (req : MbReq) (t : Nat)
  /-- PWR_STATUS (R479). Returns domain states, input states and measured power. -/
  | pwrStatus (req : MbReq) (t : Nat)
  /-- REC_INFO (R413). Returns the recorder's oldest, newest, count, capacity and suppressed totals. -/
  | recInfo (req : MbReq) (t : Nat)
  /-- REC_READ (R413). Returns records under the snapshot rule. -/
  | recRead (req : MbReq) (t : Nat)
  /-- REC_MARK (R469). Writes a MARK record with the given text. -/
  | recMark (req : MbReq) (t : Nat)
  /-- LANE_STATUS (R386). Returns the status of each lane. -/
  | laneStatus (req : MbReq) (t : Nat)
  /-- SLICE_READ (R386). Returns a slice result record. -/
  | sliceRead (req : MbReq) (t : Nat)
  /-- BIST_RUN (R394). Runs a commanded BIST, in MAINTAIN as a rotation of the lane. -/
  | bistRun (req : MbReq) (fail : Option Nat) (t : Nat)
  /-- REPAIR_READ (R389). Returns the valid repair record copy. -/
  | repairRead (req : MbReq) (t : Nat)
  /-- REPAIR_FUSE (R392). Copies soft repair entries into the lane's fuse bank. -/
  | repairFuse (req : MbReq) (t : Nat)
  /-- LANE_READMIT (R155). Re-admits a held-out lane through a rejoin. -/
  | laneReadmit (req : MbReq) (t : Nat)
  /-- LANE_SPLIT (R158). Sets the split option for the lane's next start. -/
  | laneSplit (req : MbReq) (t : Nat)
  /-- LIO_RESET (R265). Gives a fault reset to local input or output channels. -/
  | lioReset (req : MbReq) (t : Nat)
  /-- PORT_ENABLE (R221). Re-enables a star node port that stays disabled. -/
  | portEnable (req : MbReq) (t : Nat)
  /-- NODE_DIAG (R198). Reads node diagnostics by ACYC and ACYR. -/
  | nodeDiag (req : MbReq) (t : Nat)
  /-- OBX_STATUS (R234). Returns channel states and node status words. -/
  | obxStatus (req : MbReq) (t : Nat)
  /-- LIO_STATUS (R291). Returns input, output, supply and bank status words. -/
  | lioStatus (req : MbReq) (t : Nat)
  /-- FORCE_LIST (R145). Returns the force table from the earliest voting lane. -/
  | forceList (req : MbReq) (t : Nat)
  /-- VAR_READ (R91). Returns variable values by VID. -/
  | varRead (req : MbReq) (t : Nat)
  /-- PLANE_READ (R50). Returns one state plane. -/
  | planeRead (req : MbReq) (t : Nat)
  /-- LED_TEST (R488). Lights every front LED for 5 s. -/
  | ledTest (req : MbReq) (t : Nat)
  /-- TIME_READ (R238). Returns module time, its source, PTP state and sync status. -/
  | timeRead (req : MbReq) (t : Nat)
  /-- PTP_DOMAIN (R240). Sets the PTP domain number. -/
  | ptpDomain (req : MbReq) (t : Nat)
  /-- PAIR_STATUS (R353). Returns claims, PCCs, last change of roles, flags and reason. -/
  | pairStatus (req : MbReq) (t : Nat)
  /-- SWAP (R349). Starts a planned role swap and answers when it completes. -/
  | swap (req : MbReq) (t : Nat)
  /-- PAIR_READMIT (R335). Re-admits a standby held STANDBY-COLD after repeated divergence. -/
  | pairReadmit (req : MbReq) (t : Nat)
  /-- TDM_COMMIT (R444). Setting COMMIT arms a channel to copy its shadow registers at the next hand-over. -/
  | tdmCommit (x : Lane) (k : Nat) (t : Nat)
  /-- TDM_HANDOVER (R444). A channel finishes its block, copies the shadow to the active copy and starts the next descriptor. -/
  | tdmHandover (x : Lane) (k : Nat) (t : Nat)
  /-- TDM_PAUSE (R445). Setting PAUSE stops new reads, and the channel reads paused within 2 µs. -/
  | tdmPause (x : Lane) (k n : Nat) (t : Nat)
  /-- TDM_RESUME (R445). Clearing PAUSE resumes the block exactly where it stopped. -/
  | tdmResume (x : Lane) (k : Nat) (t : Nat)
  /-- TDM_ABORT (R446). Writing ABORT stops the channel, discards unwritten data and clears COMMIT. -/
  | tdmAbort (x : Lane) (k n : Nat) (powerDown : Bool) (t : Nat)
  /-- TDM_ERROR (R447). A channel meets an error, stops in state error and raises TDM_IRQ.ERR. -/
  | tdmError (x : Lane) (k n code : Nat) (t : Nat)
  /-- TDM_CTRL_WRITE (R459). Writing TDM_CTRL.EN = 0 aborts every channel. -/
  | tdmCtrlWrite (x : Lane) (v : Word32) (t : Nat)
  /-- TDM_ERRCAP_READ (R460). A read of TDM_ERRCAP returns and clears it and keeps the value in TDM_ERRCAP_LR. -/
  | tdmErrcapRead (x : Lane) (t : Nat)
  /-- SCU_FG_GO (R450). Setting SCU_FG_CFG.GO starts a foreground CRC-64 job. -/
  | scuFgGo (x : Lane) (t : Nat)
  /-- SCU_FG_DONE (R450). A foreground job ends, with mismatches recorded and FGDONE raised. -/
  | scuFgDone (x : Lane) (ecc : List Nat) (t : Nat)
  /-- SCU_BG_ENABLE (R451). Setting SCU_CTRL.BGEN starts the continuous background scan. -/
  | scuBgEnable (x : Lane) (t : Nat)
  /-- SCU_BG_PASS (R451). A background pass ends, and the scan restarts at entry 0. -/
  | scuBgPass (x : Lane) (ecc : List Nat) (t : Nat)
  /-- SCU_ERRCAP_READ (R460). A read of SCU_ERRCAP returns and clears it and keeps the value in SCU_ERRCAP_LR. -/
  | scuErrcapRead (x : Lane) (t : Nat)
  /-- CROSSING_TIMEOUT (R456). The far clock of a crossing makes no cycle within 64 cycles, so the crossing holds its outputs and records a
  timeout. -/
  | crossingTimeout (x : Lane) (k : Nat) (laneStopped : Bool) (t : Nat)
  /-- CROSSING_RESET (R457). Both halves of a crossing are reset together and leave reset once both clocks run. -/
  | crossingReset (x : Lane) (k : Nat) (held : Bool) (t : Nat)
  /-- AMBER_RECORD_WRITE (R463). Amber takes a record from an intake buffer, numbers it, seals it and writes it to MRAM. -/
  | amberRecordWrite (t : Nat)
  /-- AMBER_INTAKE_REFUSE (R463). A record offered to a full intake buffer is refused and counted, and a LOST record follows. -/
  | amberIntakeRefuse (e : Evt) (t : Nat)
  /-- RATE_WINDOW_CLOSE (R467). A 1 s rate window with suppression closes, and a SUMMARY record is written. -/
  | rateWindowClose (code src : Nat) (t : Nat)
  /-- AMBER_RECOVERY (R465). At start Amber takes the control block and scans forward to find NEWEST. -/
  | amberRecovery (t : Nat)
  /-- AMBER_WINDOW_WRITE (R466). A lane writes its private MRAM region through the Amber port window in issue order. -/
  | amberWindowWrite (x : Lane) (off : Nat) (v : Word32) (t : Nat)
  /-- AMB_ERRCAP_READ (R472). A read of AMB_ERRCAP returns and clears it and copies it into AMB_ERRCAP_LR. -/
  | ambErrcapRead (x : Lane) (t : Nat)
  /-- SUPPLY_INPUT_LOSS (R474). A supply input is declared lost and recorded. -/
  | supplyInputLoss (input status : Nat) (t : Nat)
  /-- SUPPLY_INPUT_RETURN (R474). A supply input has been in range for 100 ms and is declared returned. -/
  | supplyInputReturn (input status : Nat) (t : Nat)
  /-- PFAIL (R476). The hold-up store reaches the PFAIL level, so the lanes are silenced, the module enters HELD and Amber drains. -/
  | pfail (t : Nat)
  /-- SHUTDOWN_LEVEL (R476). At the shutdown level, the power manager switches the domains off in order, PD0 last. -/
  | shutdownLevel (t : Nat)
  /-- DOMAIN_SLEEP (R482). A group's sleep condition has held for 10 s, so it is gated or switched off by its hint. -/
  | domainSleep (g : Nat) (t : Nat)
  /-- WAKE_EVENT (R482). A wake event wakes a sleeping section, or cancels a power-down still draining. -/
  | wakeEvent (g : Nat) (t : Nat)
  /-- POWER_DOWN_DRAIN (R484). Before a domain goes down, its crossings close to new transfers while transfers in flight drain. -/
  | powerDownDrain (target : Nat) (t : Nat)
  /-- DRAIN_TIMEOUT (R484). After 200 µs, transfers still in flight are aborted and recorded, and the domain is switched off. -/
  | drainTimeout (target : Nat) (left : List (Xfer × Nat)) (t : Nat)
  /-- DIE_TEMP_WARNING (R497). A lane junction reaches 110 °C, and a warning record is written. -/
  | dieTempWarning (x : Lane) (t : Nat)
  /-- DIE_TEMP_TRIP (R497). A lane junction reaches 125 °C, so its power-good monitor trips and the lane is silent. -/
  | dieTempTrip (x : Lane) (t : Nat)
  /-- REGISTER_WRITE (R8). A write to a register without a row of its own updates its fields by their access types. -/
  | registerWrite (x : Lane) (u : RegUnit) (off : Nat) (v : Word32) (t : Nat)
  /-- CYC_RECEIVE (R227). A module that is listening, in cold start or standby receives a valid CYC: it yields, takes the STANDBY-COLD role,
  sets its time base once, or notes the active module's frame for takeover condition 3. -/
  | cycReceive (ch : Chan) (f : Frame) (t : Nat)
  /-- ECHO (R197). A node or star receives an ECHO, answers with an ECHOR 300 ns after its end delimiter, and a node takes the DLY_A and DLY_B
  values for time synchronisation. -/
  | echo (who : Who) (ch : Chan) (f : Frame) (t : Nat)
  /-- SMGT (R198). A star receives an SMGT with window programming, port enables or a swap handover, acts on it and answers with an SRPT in its
  next management window. -/
  | smgt (ch : Chan) (f : Frame) (g : Smgt) (t : Nat)
  /-- ACYC (R198). A node receives an ACYC in an acyclic window and answers with an ACYR carrying its identity, versions or counters. -/
  | acyc (k : Nat) (ch : Chan) (f : Frame) (content : Bytes) (t : Nat)
  /-- ACYR_RECEIVE (R198). The master receives a node's ACYR and completes the NODE_DIAG command with its payload. -/
  | acyrReceive (k : Nat) (body : Bytes) (t : Nat)
  /-- RELINQUISH_RECEIVED (R346). A STANDBY-HOT module receives a CTRL relinquish over the pair link and acknowledges it, which meets takeover
  condition 4. -/
  | relinquishReceived (t : Nat)
  /-- NODE_SENSE_INPUT_CHANGE (R252). A node's own supply sense input becomes valid or invalid: Ψ locks with a forward step, or runs at nominal
  rate with NEVT 0x0303. -/
  | nodeSenseInputChange (k : Nat) (valid : Bool) (tick mhz : Nat) (t : Nat)
  /-- NODE_RESET (R230). An object controller resets, clearing HCLAIM, its time base and its phase alignment until a new valid CYC arrives. -/
  | nodeReset (k : Nat) (t : Nat)
  /-- STAR_POWER_UP (R220). A star powers up and, until it forwards its first CYC, accepts COLD and CYC from both module ports and keeps its
  node ports closed. -/
  | starPowerUp (ch : Chan) (t : Nat)
  /-- MAILBOX_REQUEST_ERROR (R400). A mailbox request with a failing CHK, a wrong SEQ or a PLEN above 4,064 is counted, receives no response,
  and the connection is closed. -/
  | mailboxRequestError (tr : Nat) (t : Nat)
  /-- UNKNOWN_COMMAND_CODE (R404). A mailbox request with an unknown command code is answered BADCMD. -/
  | unknownCommandCode (code : Nat) (req : MbReq) (t : Nat)
  /-- DEBUG_HALT (R156). In LAB or MANUFACTURE, a debug halt request stops both cores of a pair at the same instruction boundary, and the lane
  is silent. -/
  | debugHalt (x : Lane) (t : Nat)
  deriving DecidableEq, Repr

end Sys2Proof
end

