-- ==== Sys2Proof/Machine/BerylOps.lean ====
section
/-!
DEFINITION. What Beryl does (03_route_admission.md): planes by number, the thirteen admission conditions, the commit, release,
the pending set, STEP, the sweep, PLANE_WRITE, the restart record, and the rings.
-/
namespace Sys2Proof.Machine

/-- Element state plane by its number (R49). -/
def EPlanes.get (p : EPlanes) : Nat → ERow
  | 0 => p.occ | 1 => p.dist | 2 => p.locked | 3 => p.ovlk | 4 => p.flank | 5 => p.detN | 6 => p.detR | 7 => p.cmdN
  | 8 => p.cmdR | 9 => p.moving | 10 => p.sigStop | 11 => p.sigProceed | 12 => p.lampFail | 13 => p.blocked
  | 14 => p.failed | 15 => p.auxOk | 16 => p.auxReq | 17 => p.keyOut | 18 => p.relpend | 19 => p.dirUp | 20 => p.dirDn
  | 21 => p.lockSafe | 22 => p.poss | 23 => p.speedOk | 24 => p.usr0 | 25 => p.usr1 | 26 => p.usr2 | 27 => p.usr3
  | 28 => p.usr4 | 29 => p.usr5 | 30 => p.usr6 | 31 => p.usr7 | _ => 0

def EPlanes.put (p : EPlanes) (n : Nat) (v : ERow) : EPlanes :=
  match n with
  | 0 => { p with occ := v } | 1 => { p with dist := v } | 2 => { p with locked := v } | 3 => { p with ovlk := v }
  | 4 => { p with flank := v } | 5 => { p with detN := v } | 6 => { p with detR := v } | 7 => { p with cmdN := v }
  | 8 => { p with cmdR := v } | 9 => { p with moving := v } | 10 => { p with sigStop := v }
  | 11 => { p with sigProceed := v } | 12 => { p with lampFail := v } | 13 => { p with blocked := v }
  | 14 => { p with failed := v } | 15 => { p with auxOk := v } | 16 => { p with auxReq := v }
  | 17 => { p with keyOut := v } | 18 => { p with relpend := v } | 19 => { p with dirUp := v }
  | 20 => { p with dirDn := v } | 21 => { p with lockSafe := v } | 22 => { p with poss := v }
  | 23 => { p with speedOk := v } | 24 => { p with usr0 := v } | 25 => { p with usr1 := v } | 26 => { p with usr2 := v }
  | 27 => { p with usr3 := v } | 28 => { p with usr4 := v } | 29 => { p with usr5 := v } | 30 => { p with usr6 := v }
  | 31 => { p with usr7 := v } | _ => p

/-- Route state plane by its number (R49). -/
def RPlanes.get (p : RPlanes) : Nat → RRow
  | 0 => p.set | 1 => p.locked | 2 => p.approach | 3 => p.pending | 4 => p.proven | 5 => p.sigClear | 6 => p.trel
  | 7 => p.cancel | 8 => p.srel | 9 => p.ovlSet | 10 => p.ovlTrel | 11 => p.auto | 12 => p.ars | 13 => p.settable
  | 14 => p.barred | 15 => p.lockSafe | _ => 0

def RPlanes.put (p : RPlanes) (n : Nat) (v : RRow) : RPlanes :=
  match n with
  | 0 => { p with set := v } | 1 => { p with locked := v } | 2 => { p with approach := v }
  | 3 => { p with pending := v } | 4 => { p with proven := v } | 5 => { p with sigClear := v }
  | 6 => { p with trel := v } | 7 => { p with cancel := v } | 8 => { p with srel := v } | 9 => { p with ovlSet := v }
  | 10 => { p with ovlTrel := v } | 11 => { p with auto := v } | 12 => { p with ars := v }
  | 13 => { p with settable := v } | 14 => { p with barred := v } | 15 => { p with lockSafe := v } | _ => p

/-- One bit of a row. -/
def bitE (k : Nat) : ERow := BitVec.ofNat 16384 (if k < 16384 then 1 <<< k else 0)
def bitR (r : Nat) : RRow := BitVec.ofNat 4096 (if r < 4096 then 1 <<< r else 0)

/-! ### Words and status codes -/

/-- Status codes (R87). -/
def stOK : Nat := 0x00
def stQUEUED : Nat := 0x01
def stCONFLICT : Nat := 0x02
def stCONFLICTPENDING : Nat := 0x03
def stLOCKED : Nat := 0x04
def stFLANK : Nat := 0x05
def stFLANKFULL : Nat := 0x06
def stFAILED : Nat := 0x07
def stSIGNAL : Nat := 0x08
def stAUX : Nat := 0x09
def stBARRED : Nat := 0x0A
def stNOROUTE : Nat := 0x0B
def stOVERLAP : Nat := 0x0C
def stNOTSET : Nat := 0x0D
def stSIGCLEAR : Nat := 0x0E
def stNOTPROVEN : Nat := 0x0F
def stQUEUEFULL : Nat := 0x10
def stARSREFUSED : Nat := 0x11
def stPLANE : Nat := 0x12
def stORDER : Nat := 0x13
def stBADOP : Nat := 0x14
def stRANGE : Nat := 0x15
def stNOTREADY : Nat := 0x16
def stDEQUEUED : Nat := 0x17
def stEXPIRED : Nat := 0x18
def stAPPRLOCKED : Nat := 0x19
def stTIMING : Nat := 0x1A
def stLOCKSAFE : Nat := 0x1B
def stTAGDUP : Nat := 0x1C

/-- Operation codes (R63). -/
def opSET : Nat := 0x01
def opCANCEL : Nat := 0x02
def opTREL : Nat := 0x03
def opDEQUEUE : Nat := 0x04
def opAREL : Nat := 0x05
def opAFFECT : Nat := 0x06
def opPROBE : Nat := 0x07
def opPLANEWRITE : Nat := 0x10

/-- The request descriptor whose 32 bytes stand at `a` (R63). -/
def descAt (m : Mem) (a : Nat) : Desc :=
  let w0 := m.rd a 4
  let w1 := m.rd (a + 4) 4
  { op := bits w0 7 0, tag := bits w0 15 8, queue := bit w0 16, cls := bits w0 31 24, num := bits w1 15 0,
    route := bits w1 27 16, amc := m.rd (a + 8) 8, seq := m.rd (a + 16) 4, arg0 := m.rd (a + 20) 4,
    arg1 := m.rd (a + 24) 4, arg2 := m.rd (a + 28) 4, rsv := bits w0 23 17 != 0 || bits w1 31 28 != 0 }

/-- The 32 bytes of a descriptor as a number (R63). -/
def Desc.word (d : Desc) : Nat :=
  (d.op % 256) + (d.tag % 256) <<< 8 + (b2n d.queue) <<< 16 + (d.cls % 256) <<< 24
    + ((d.num % 65536) + (d.route % 4096) <<< 16) <<< 32 + (d.amc % 2 ^ 64) <<< 64 + (d.seq % 2 ^ 32) <<< 128
    + (d.arg0 % 2 ^ 32) <<< 160 + (d.arg1 % 2 ^ 32) <<< 192 + (d.arg2 % 2 ^ 32) <<< 224

/-- The 16 bytes of a response as a number (R64). -/
def Rsp.word (r : Rsp) : Nat :=
  (r.status % 256) + (r.tag % 256) <<< 8 + (r.op % 256) <<< 16 + (b2n r.unsol) <<< 24
    + ((r.route % 4096) + (r.who % 65536) <<< 16) <<< 32
    + ((r.splane % 256) + (r.rplane % 256) <<< 8 + (r.count % 65536) <<< 16) <<< 64
    + ((r.ord % 65536) + (r.count2 % 65536) <<< 16) <<< 96

/-- The response whose 16 bytes stand at `a` (R64). -/
def rspAt (m : Mem) (a : Nat) : Rsp :=
  let w0 := m.rd a 4
  let w1 := m.rd (a + 4) 4
  let w2 := m.rd (a + 8) 4
  let w3 := m.rd (a + 12) 4
  { status := bits w0 7 0, tag := bits w0 15 8, op := bits w0 23 16, unsol := bit w0 24, route := bits w1 11 0,
    who := bits w1 31 16, splane := bits w2 7 0, rplane := bits w2 15 8, count := bits w2 31 16, ord := bits w3 15 0,
    count2 := bits w3 31 16 }

def Desc.key (d : Desc) : Key := ⟨d.amc, d.cls, d.num, d.seq⟩

/-- Keys are compared field by field as unsigned numbers (R65). -/
def Key.lt (a b : Key) : Bool :=
  decide (a.amc < b.amc) ||
    (a.amc == b.amc && (decide (a.cls < b.cls) ||
      (a.cls == b.cls && (decide (a.num < b.num) || (a.num == b.num && decide (a.seq < b.seq))))))

/-! ### Registers -/

def BerylRegs.en (r : BerylRegs) : Bool := r.ctrl.getLsbD 0
def BerylRegs.hold (r : BerylRegs) : Bool := r.ctrl.getLsbD 1
/-- BRL_STN_BASE as an address. -/
def BerylRegs.stnBase (r : BerylRegs) : Nat := bits r.stnHi.toNat 1 0 * 2 ^ 32 + bits r.stnLo.toNat 31 24 * 2 ^ 24
/-- BRL_WRK_BASE as an address. -/
def BerylRegs.wrkBase (r : BerylRegs) : Nat := bits r.wrkHi.toNat 1 0 * 2 ^ 32 + bits r.wrkLo.toNat 31 24 * 2 ^ 24
/-- The station a Beryl reads: lane DRAM under its two bases. -/
def Beryl.stn (b : Beryl) (dram : Mem) : Stn := ⟨dram, b.regs.stnBase, b.regs.wrkBase⟩
/-- Descriptors in flight (R63). -/
def Beryl.inflight (b : Beryl) : Nat := b.accepted.length + (b.answers.filter (·.inflight)).length
/-- BRL_STAT.IDLE. -/
def Beryl.idle (b : Beryl) : Bool := b.inflight == 0 && !b.regs.stepBusy
/-- BRL_STAT. -/
def Beryl.stat (b : Beryl) : Word32 :=
  BitVec.ofNat 32 (b2n b.regs.loaded + 2 * b2n b.idle + 4 * b2n b.regs.stepBusy + 8 * b2n b.sweepRun.isSome
    + 16 * b2n (!b.sweepReady.isEmpty) + 32 * b2n b.regs.faulted)
/-- BRL_PEND. -/
def Beryl.pendReg (b : Beryl) : Word32 :=
  BitVec.ofNat 32 (b.ws.pend.length % 512 +
    ((match b.ws.pend with | [] => 0xFFF | p :: _ => p.desc.route % 4096) <<< 16))
/-- BRL_SWEEP_STAT. -/
def Beryl.sweepStat (b : Beryl) : Word32 := BitVec.ofNat 32 (b.regs.nset % 8192 + (b.regs.age % 4) <<< 16)
/-- BRL_CNT. -/
def Beryl.cnt (b : Beryl) : Word32 := BitVec.ofNat 32 (b.regs.adm % 65536 + (b.regs.ref % 65536) <<< 16)
/-- Raise bits of BRL_IRQ. -/
def Beryl.raise (b : Beryl) (m : Word32) : Beryl := { b with regs := { b.regs with irq := b.regs.irq ||| m } }
def irqRSP : Word32 := 1
def irqSTEP : Word32 := 2
def irqSWEEP : Word32 := 4
def irqLOAD : Word32 := 8
def irqCMDERR : Word32 := 16
def irqFAULT : Word32 := 32
def irqORDER : Word32 := 64

/-- An error-capture register takes a code: the first since the last read stays, COUNT saturates at 0xFFFF. -/
def captureErr (r : Word32) (code level : Nat) : Word32 :=
  let v := r.toNat
  let c := min 0xFFFF (bits v 31 16 + 1)
  if bits v 7 0 = 0 then BitVec.ofNat 32 (code % 256 + (level % 16) <<< 8 + c <<< 16)
  else BitVec.ofNat 32 (bits v 15 0 + c <<< 16)

/-- An error code of BRL_ERRCAP: corrected ones (0x01, 0x07) are only counted, every other stops Beryl (R88). -/
def Beryl.error (b : Beryl) (code level : Nat) : Beryl :=
  let r := { b.regs with errcap := captureErr b.regs.errcap code level }
  if code = 0x01 ∨ code = 0x07 then { b with regs := r }
  else { b with regs := { r with faulted := true, irq := r.irq ||| irqFAULT } }

/-! ### Bit-sliced flank counts (R60) -/

/-- Four bit slices of a count, counted up by the rows of `x`. -/
def countUp (c : ERow × ERow × ERow × ERow) (x : ERow) : ERow × ERow × ERow × ERow :=
  let (c0, c1, c2, c3) := c
  let k1 := c0 &&& x
  let k2 := c1 &&& k1
  let k3 := c2 &&& k2
  (c0 ^^^ x, c1 ^^^ k1, c2 ^^^ k2, c3 ^^^ k3)

/-- The same, counted down. -/
def countDown (c : ERow × ERow × ERow × ERow) (x : ERow) : ERow × ERow × ERow × ERow :=
  let (c0, c1, c2, c3) := c
  let k1 := ~~~c0 &&& x
  let k2 := ~~~c1 &&& k1
  let k3 := ~~~c2 &&& k2
  (c0 ^^^ x, c1 ^^^ k1, c2 ^^^ k2, c3 ^^^ k3)

def BerylStore.fln (w : BerylStore) : ERow := w.fnc0 ||| w.fnc1 ||| w.fnc2 ||| w.fnc3
def BerylStore.flr (w : BerylStore) : ERow := w.frc0 ||| w.frc1 ||| w.frc2 ||| w.frc3
def BerylStore.fnf (w : BerylStore) : ERow := w.fnc0 &&& w.fnc1 &&& w.fnc2 &&& w.fnc3
def BerylStore.frf (w : BerylStore) : ERow := w.frc0 &&& w.frc1 &&& w.frc2 &&& w.frc3

/-- FNC and FRC counted up by two rows (R70). -/
def BerylStore.flankUp (w : BerylStore) (fn fr : ERow) : BerylStore :=
  let (a0, a1, a2, a3) := countUp (w.fnc0, w.fnc1, w.fnc2, w.fnc3) fn
  let (b0, b1, b2, b3) := countUp (w.frc0, w.frc1, w.frc2, w.frc3) fr
  { w with fnc0 := a0, fnc1 := a1, fnc2 := a2, fnc3 := a3, frc0 := b0, frc1 := b1, frc2 := b2, frc3 := b3 }

/-- FNC and FRC counted down by two rows. -/
def BerylStore.flankDown (w : BerylStore) (fn fr : ERow) : BerylStore :=
  let (a0, a1, a2, a3) := countDown (w.fnc0, w.fnc1, w.fnc2, w.fnc3) fn
  let (b0, b1, b2, b3) := countDown (w.frc0, w.frc1, w.frc2, w.frc3) fr
  { w with fnc0 := a0, fnc1 := a1, fnc2 := a2, fnc3 := a3, frc0 := b0, frc1 := b1, frc2 := b2, frc3 := b3 }

/-- FLANK is FLN OR FLR and is rewritten by every commit that changes a count (R60). -/
def Beryl.rewriteFlank (b : Beryl) : Beryl := { b with el := { b.el with flank := b.ws.fln ||| b.ws.flr } }

/-! ### Working store entries -/

def BerylStore.sigov (w : BerylStore) (e : Nat) : Nat := SMap.get none16 w.sigovl e
def BerylStore.owner (w : BerylStore) (o : Nat) : Nat := SMap.get none16 w.ovown o
def BerylStore.prog (w : BerylStore) (r : Nat) : Nat := SMap.get 0 w.progress r

/-- The live planes an admission reads. -/
def Beryl.view (b : Beryl) : View :=
  { locked := b.el.locked, ovlk := b.el.ovlk, lockSafe := b.el.lockSafe, blocked := b.el.blocked, poss := b.el.poss,
    failed := b.el.failed, dist := b.el.dist, sigStop := b.el.sigStop, keyOut := b.el.keyOut, lkn := b.ws.lkn,
    lkr := b.ws.lkr, fln := b.ws.fln, flr := b.ws.flr, fnf := b.ws.fnf, frf := b.ws.frf, set := b.rt.set,
    pending := b.rt.pending, barred := b.rt.barred, sigovl := b.ws.sigovl, ovown := b.ws.ovown }

/-! ### The admission conditions (R69) -/

/-- One term of a condition: relation planes and state planes, each with its code, in the order written. -/
structure Term (n : Nat) where
  rels : List (Nat × BitVec n)
  sts : List (Nat × BitVec n)

/-- The intersection a term stands for. -/
def Term.hit {n : Nat} (t : Term n) : BitVec n :=
  (t.rels.foldl (fun a p => a ||| p.2) 0) &&& (t.sts.foldl (fun a p => a ||| p.2) 0)

/-- The code of the first plane that contains `w`. -/
def firstPlane {n : Nat} (l : List (Nat × BitVec n)) (w : Nat) : Nat :=
  match l.find? (fun p => p.2.getLsbD w) with
  | some p => p.1
  | none => 0xFF

/-- What an operation answers beside TAG and OP. -/
structure Verdict where
  status : Nat
  who : Nat
  splane : Nat
  rplane : Nat
  deriving DecidableEq, Repr

def verdictOK : Verdict := ⟨stOK, none16, 0xFF, 0xFF⟩
def Verdict.plain (st who : Nat) : Verdict := ⟨st, who, 0xFF, 0xFF⟩

/-- The verdict of a condition over its terms: WHO, SPLANE and RPLANE by R69; none where every intersection is empty. -/
def judge {n : Nat} (st : Nat) (ts : List (Term n)) : Option Verdict :=
  match lowestBit (ts.foldl (fun a (t : Term n) => a ||| t.hit) 0).toNat with
  | none => none
  | some w =>
    match ts.find? (fun (t : Term n) => t.hit.getLsbD w) with
    | none => some ⟨st, w, 0xFF, 0xFF⟩
    | some t => some ⟨st, w, firstPlane t.sts w, firstPlane t.rels w⟩

/-- The overlap elements route `r` may take over (R69, TAKE), with the overlap they belong to. -/
def takeOf (d : Stn) (v : View) (r : Nat) : ERow :=
  let o := SMap.get none16 v.sigovl (d.rEntry r)
  if o ≠ none16 ∧ (d.ovlCol r).getLsbD (SMap.get none16 v.ovown o) then d.oRow o else 0

/-- The thirteen conditions in table order (R69); `pa` is the set PA of condition 6. -/
def conditions (d : Stn) (v : View) (cls r : Nat) (pa : RRow) : List (Option Verdict) :=
  let clr := d.rel r 0
  let pn := d.rel r 1
  let pr := d.rel r 2
  let fn := d.rel r 3
  let fr := d.rel r 4
  let lck := d.rel r 5
  let sig := d.rel r 6
  let aux := d.rel r 7
  let cnf := d.cnf r
  let ov := d.rOvl r
  let so := SMap.get none16 v.sigovl (d.rExit r)
  [ if r > 4095 then some (.plain stRANGE none16) else none,
    if d.rKind r = 0 then some (.plain stNOROUTE r) else none,
    if v.barred.getLsbD r then some ⟨stBARRED, r, 0x8E, 0xFF⟩ else none,
    if cls = 6 ∧ d.rArsOk r = false then some (.plain stARSREFUSED r) else none,
    judge stCONFLICT [⟨[(8, cnf)], [(0x80, v.set)]⟩],
    judge stCONFLICTPENDING [⟨[(8, cnf)], [(0x83, pa)]⟩],
    if ov ≠ none16 ∧ so ≠ none16 then some ⟨stOVERLAP, SMap.get none16 v.ovown so, 0x96, 0xFF⟩ else none,
    judge stLOCKED [⟨[(5, lck)],
      [(2, v.locked), (21, v.lockSafe), (13, v.blocked), (22, v.poss), (3, v.ovlk &&& ~~~takeOf d v r)]⟩],
    judge stFLANK [⟨[(2, pr)], [(0x92, v.fln)]⟩, ⟨[(1, pn)], [(0x93, v.flr)]⟩, ⟨[(3, fn)], [(0x91, v.lkr)]⟩,
      ⟨[(4, fr)], [(0x90, v.lkn)]⟩],
    judge stFLANKFULL [⟨[(3, fn)], [(0x94, v.fnf)]⟩, ⟨[(4, fr)], [(0x95, v.frf)]⟩],
    judge stFAILED [⟨[(5, lck), (3, fn), (4, fr), (7, aux)], [(14, v.failed)]⟩, ⟨[(0, clr)], [(1, v.dist)]⟩],
    judge stSIGNAL [⟨[(6, sig)], [(10, ~~~v.sigStop)]⟩],
    judge stAUX [⟨[(7, aux)], [(17, v.keyOut)]⟩] ]

/-- The first condition that holds, else OK. -/
def routeVerdict (d : Stn) (v : View) (cls r : Nat) (pa : RRow) : Verdict :=
  match (conditions d v cls r pa).find? Option.isSome with
  | some (some x) => x
  | _ => verdictOK

/-! ### Commit and release -/

/-- Overlap release of overlap `o` held by route `q`, without its retries (R81). -/
def Beryl.dropOverlap (b : Beryl) (d : Stn) (o q : Nat) : Beryl :=
  { b with
    el := { b.el with ovlk := b.el.ovlk &&& ~~~(d.oRow o &&& ~~~b.el.locked) }
    rt := { b.rt with ovlSet := b.rt.ovlSet &&& ~~~bitR q, ovlTrel := b.rt.ovlTrel &&& ~~~bitR q }
    ws := { b.ws with sigovl := SMap.set none16 b.ws.sigovl (d.oExit o) none16
                      ovown := SMap.set none16 b.ws.ovown o none16 } }

/-- The commit of an admitted SET (R70), without the retries a take-over triggers. -/
def Beryl.commit (b : Beryl) (d : Stn) (cls r : Nat) : Beryl :=
  let v := b.view
  let o := d.rOvl r
  let own := d.oRow o
  let take := takeOf d v r
  let vo := b.ws.sigov (d.rEntry r)
  let clr := d.rel r 0
  let b1 : Beryl :=
    { b with
      el := { b.el with
        locked := b.el.locked ||| (d.rel r 5 &&& ~~~own)
        dirUp := if d.rDir r then b.el.dirUp ||| (clr &&& ~~~own) else b.el.dirUp
        dirDn := if d.rDir r then b.el.dirDn else b.el.dirDn ||| (clr &&& ~~~own)
        ovlk := b.el.ovlk &&& ~~~take }
      ws := { (b.ws.flankUp (d.rel r 3) (d.rel r 4)) with lkn := b.ws.lkn ||| d.rel r 1, lkr := b.ws.lkr ||| d.rel r 2 } }
  let b2 := b1.rewriteFlank
  let b3 := if take = 0 then b2 else b2.dropOverlap d vo (b.ws.owner vo)
  let b4 : Beryl := if o = none16 then b3 else
    { b3 with
      el := { b3.el with ovlk := b3.el.ovlk ||| own }
      rt := { b3.rt with ovlSet := b3.rt.ovlSet ||| bitR r }
      ws := { b3.ws with sigovl := SMap.set none16 b3.ws.sigovl (d.rExit r) o, ovown := SMap.set none16 b3.ws.ovown o r } }
  { b4 with
    rt := { b4.rt with set := b4.rt.set ||| bitR r, ars := if cls = 6 then b4.rt.ars ||| bitR r else b4.rt.ars }
    ws := { b4.ws with progress := SMap.set 0 b4.ws.progress r 0 } }

/-- The route whose overlap an admission of `r` takes over, if any (its CNF partners are retried, R70, R81). -/
def Beryl.takenFrom (b : Beryl) (d : Stn) (r : Nat) : RRow :=
  if takeOf d b.view r = 0 then 0 else bitR (b.ws.owner (b.ws.sigov (d.rEntry r)))

/-- HELD(r): LCK less the overlap, less the footprints of the release entries passed. -/
def Beryl.held (b : Beryl) (d : Stn) (r : Nat) : ERow :=
  let passed := (d.release r).take (b.ws.prog r)
  (d.rel r 5 &&& ~~~d.oRow (d.rOvl r)) &&& ~~~(passed.foldl (fun a s => a ||| d.footprint s.1) 0)

/-- The planes that lose the elements `m` at a release. -/
def Beryl.unlock (b : Beryl) (m : ERow) : Beryl :=
  { b with
    el := { b.el with locked := b.el.locked &&& ~~~m, dirUp := b.el.dirUp &&& ~~~m, dirDn := b.el.dirDn &&& ~~~m,
                      relpend := b.el.relpend &&& ~~~m }
    ws := { b.ws with lkn := b.ws.lkn &&& ~~~m, lkr := b.ws.lkr &&& ~~~m } }

/-- release_route without its retries. -/
def Beryl.dropRoute (b : Beryl) (d : Stn) (r : Nat) : Beryl :=
  let n := ~~~bitR r
  let b1 := b.unlock (b.held d r)
  let b2 : Beryl := { b1 with ws := b1.ws.flankDown (d.rel r 3) (d.rel r 4) }
  let b3 := b2.rewriteFlank
  { b3 with
    rt := { b3.rt with set := b3.rt.set &&& n, locked := b3.rt.locked &&& n, approach := b3.rt.approach &&& n,
                       trel := b3.rt.trel &&& n, srel := b3.rt.srel &&& n, proven := b3.rt.proven &&& n,
                       ars := b3.rt.ars &&& n, lockSafe := b3.rt.lockSafe &&& n }
    ws := { b3.ws with progress := SMap.set 0 b3.ws.progress r 0 } }

/-! ### Time -/

/-- "now" in ms (R79). -/
def Beryl.nowMs (b : Beryl) : Nat := b.latched / 1000000 % 2 ^ 32

/-- A deadline is due when (now − deadline) mod 2^32 < 2^31 (R79). -/
def isDue (now dl : Nat) : Bool := decide ((now + 2 ^ 32 - dl % 2 ^ 32) % 2 ^ 32 < 2 ^ 31)

/-! ### Answers -/

/-- Put the response of a decision into the answer stage with the next decision number (R64, ORD). -/
def Beryl.answer (b : Beryl) (r : Rsp) (inflight holds : Bool) : Beryl :=
  { b with answers := b.answers ++ [⟨{ r with ord := (b.ord + 1) % 65536 }, inflight, holds⟩], ord := b.ord + 1 }

/-- The response to a descriptor. -/
def mkRsp (x : Desc) (v : Verdict) (unsol : Bool) : Rsp :=
  { status := v.status, tag := x.tag, op := x.op, unsol := unsol, route := x.route, who := v.who, splane := v.splane,
    rplane := v.rplane, count := 0, ord := 0, count2 := 0 }

/-- The UNSOL response of a pending entry that leaves the pending set (R74). -/
def Beryl.unsol (b : Beryl) (x : Desc) (v : Verdict) : Beryl := b.answer (mkRsp x v true) false false

/-- The UNSOL response of an entry that leaves without a decision of its own carries the number of the decision before it (R64, R74). -/
def Beryl.tell (b : Beryl) (x : Desc) (v : Verdict) : Beryl :=
  { b with answers := b.answers ++ [⟨{ mkRsp x v true with ord := b.ord % 65536 }, false, false⟩] }

/-- A retry that leaves its entry in place still takes a decision number (R64, ORD counts retries). -/
def Beryl.tickOrd (b : Beryl) : Beryl := { b with ord := b.ord + 1 }

/-! ### The pending set (R74) -/

def Beryl.pendRoutes (b : Beryl) : List Nat := b.ws.pend.map (·.desc.route)

/-- The pending entries whose CNF row meets `trig`, in pending order. -/
def Beryl.candidates (b : Beryl) (d : Stn) (trig : RRow) : List PendEntry :=
  b.ws.pend.filter fun e => !(d.cnf e.desc.route &&& trig == 0)

/-- The entries behind entry `e` whose CNF row holds its route. -/
def Beryl.behind (b : Beryl) (d : Stn) (e : PendEntry) : List PendEntry :=
  ((b.ws.pend.dropWhile (· != e)).drop 1).filter fun x => (d.cnf x.desc.route).getLsbD e.desc.route

/-- Take an entry out of the pending set and clear PENDING of its route. -/
def Beryl.removePend (b : Beryl) (e : PendEntry) : Beryl :=
  { b with ws := { b.ws with pend := b.ws.pend.erase e }
           rt := { b.rt with pending := b.rt.pending &&& ~~~bitR e.desc.route } }

/-- The routes of the entries ahead of an entry (PA of a retry). -/
def Beryl.ahead (b : Beryl) (e : PendEntry) : RRow := rrowOf ((b.ws.pend.takeWhile (· != e)).map (·.desc.route))

/-- One retry (R74): an admission with PA the entries ahead. `k` retries the entries that its own releases and removal concern. -/
def Beryl.retryOne (d : Stn) (k : List PendEntry → Beryl → Beryl) (b : Beryl) (e : PendEntry) : Beryl :=
  if !b.ws.pend.contains e then b
  else
    let r := e.desc.route
    let v := routeVerdict d b.view e.desc.cls r (b.ahead e)
    if v.status = stCONFLICT ∨ v.status = stCONFLICTPENDING then b.tickOrd
    else
      let after := b.behind d e
      if v.status = stOK then
        let trig := b.takenFrom d r
        let b1 := ((b.commit d e.desc.cls r).removePend e).unsol e.desc verdictOK
        k (b1.ws.pend.filter fun x => after.contains x || !(d.cnf x.desc.route &&& trig == 0)) b1
      else k after ((b.removePend e).unsol e.desc v)

/-- Retry the listed entries in pending order, each with what its own outcome triggers; `n` bounds the nesting, and a nesting
always follows the removal of an entry. -/
def Beryl.retryAll (d : Stn) : Nat → List PendEntry → Beryl → Beryl
  | 0, _, b => b
  | n + 1, l, b => l.foldl (fun b e => Beryl.retryOne d (Beryl.retryAll d n) b e) b

/-- Retry the entries whose CNF row meets `trig` (R74); a nesting bound of one more than the entries there are never acts. -/
def Beryl.retry (b : Beryl) (d : Stn) (trig : RRow) : Beryl :=
  Beryl.retryAll d (b.ws.pend.length + 1) (b.candidates d trig) b

/-- Remove an entry with an outcome and retry what its removal concerns (R74). -/
def Beryl.leavePend (b : Beryl) (d : Stn) (e : PendEntry) (v : Verdict) : Beryl :=
  let l := b.behind d e
  let b1 := (b.removePend e).tell e.desc v
  Beryl.retryAll d (b1.ws.pend.length + 1) l b1

/-- Route and overlap released in one step, each entry retried once (R77, R81). -/
def Beryl.releaseBoth (b : Beryl) (d : Stn) (r : Nat) : Beryl :=
  let b1 := b.dropRoute d r
  let b2 := if b1.rt.ovlSet.getLsbD r then b1.dropOverlap d (d.rOvl r) r else b1
  b2.retry d (bitR r)

/-- Full release of the path of a route, its overlap kept (R80, R81). -/
def Beryl.releaseRoute (b : Beryl) (d : Stn) (r : Nat) : Beryl := (b.dropRoute d r).retry d (bitR r)

/-- Release of an overlap with its retries (R81). -/
def Beryl.releaseOverlap (b : Beryl) (d : Stn) (o q : Nat) : Beryl := (b.dropOverlap d o q).retry d (bitR q)

/-! ### The operations -/

/-- SET (R69, R70, R73, R74). -/
def Beryl.opSet (b : Beryl) (d : Stn) (x : Desc) : Beryl × Verdict :=
  if x.arg0 > 3600 then (b, .plain stRANGE none16)
  else
    let v := routeVerdict d b.view x.cls x.route b.rt.pending
    if v.status = stOK then
      let trig := b.takenFrom d x.route
      ((b.commit d x.cls x.route).retry d trig, v)
    else if (v.status = stCONFLICT ∨ v.status = stCONFLICTPENDING) ∧ x.queue = true ∧ d.rQueueOk x.route = true
        ∧ v.who ≠ x.route then
      if b.ws.pend.length < 256 then
        let life := if x.arg0 = 0 then 600 else x.arg0
        ({ b with ws := { b.ws with pend := b.ws.pend ++ [⟨x, (b.nowMs + 1000 * life) % 2 ^ 32⟩] }
                  rt := { b.rt with pending := b.rt.pending ||| bitR x.route } }, { v with status := stQUEUED })
      else (b, { v with status := stQUEUEFULL })
    else (b, v)

/-- PROBE (R69): no change. -/
def Beryl.opProbe (b : Beryl) (d : Stn) (x : Desc) : Beryl × Verdict :=
  (b, routeVerdict d b.view x.cls x.route b.rt.pending)

/-- The sections of a route's approach entries as a row. -/
def Stn.approachRow (d : Stn) (r : Nat) : ERow := erowOf (d.approach r)

/-- CANCEL (R77, R129). -/
def Beryl.opCancel (b : Beryl) (d : Stn) (x : Desc) : Beryl × Verdict :=
  let r := x.route
  if r > 4095 then (b, .plain stRANGE none16)
  else if d.rKind r = 0 then (b, .plain stNOROUTE r)
  else if !b.rt.set.getLsbD r then (b, .plain stNOTSET r)
  else if b.rt.sigClear.getLsbD r then (b, .plain stSIGCLEAR r)
  else if b.rt.lockSafe.getLsbD r then (b, .plain stLOCKSAFE r)
  else if !b.rt.locked.getLsbD r || d.approachRow r &&& b.el.occ == 0 then (b.releaseBoth d r, verdictOK)
  else
    ({ b with rt := { b.rt with approach := b.rt.approach ||| bitR r, trel := b.rt.trel ||| bitR r }
              ws := { b.ws with rdl := SMap.set 0 b.ws.rdl r ((b.nowMs + d.rAppr r) % 2 ^ 32) } }, .plain stAPPRLOCKED r)

/-- TREL (R78, R129). -/
def Beryl.opTrel (b : Beryl) (d : Stn) (x : Desc) : Beryl × Verdict :=
  let r := x.route
  if r > 4095 then (b, .plain stRANGE none16)
  else if d.rKind r = 0 then (b, .plain stNOROUTE r)
  else if !b.rt.set.getLsbD r then (b, .plain stNOTSET r)
  else if b.rt.sigClear.getLsbD r then (b, .plain stSIGCLEAR r)
  else if !b.rt.locked.getLsbD r && !b.rt.lockSafe.getLsbD r then (b.releaseBoth d r, verdictOK)
  else
    ({ b with rt := { b.rt with trel := b.rt.trel ||| bitR r }
              ws := { b.ws with rdl := SMap.set 0 b.ws.rdl r ((b.nowMs + d.rTrel r) % 2 ^ 32) } }, .plain stTIMING r)

/-- DEQUEUE (R74, R87). The entry's UNSOL DEQUEUED is the second answer, so the caller answers the DEQUEUE first. -/
def Beryl.opDequeue (b : Beryl) (d : Stn) (x : Desc) : Option PendEntry × Verdict :=
  let r := x.route
  if r > 4095 then (none, .plain stRANGE none16)
  else if d.rKind r = 0 then (none, .plain stNOROUTE r)
  else match b.ws.pend.find? (fun e => e.desc.route == r) with
    | none => (none, .plain stNOTSET r)
    | some e => (some e, .plain stDEQUEUED r)

/-- AREL (R82, R131). -/
def Beryl.opArel (b : Beryl) (x : Desc) : Beryl × Verdict :=
  if x.arg0 > 255 ∨ x.arg1 < 60000 ∨ 3600000 < x.arg1 then (b, .plain stRANGE none16)
  else
    ({ b with ws := { b.ws with arun := b.ws.arun ||| (1#256 <<< x.arg0)
                                adl := SMap.set 0 b.ws.adl x.arg0 ((b.nowMs + x.arg1) % 2 ^ 32) } },
     .plain stTIMING none16)

/-- The routes related to an element: the OR of its eight transposed rows (R85). -/
def affectRow (d : Stn) (e : Nat) : RRow := (List.range 8).foldl (fun a i => a ||| d.trow e i) 0

/-- The element planes PLANE_WRITE accepts (R76). -/
def planeWriteE (p : Nat) : Bool := [7, 8, 11, 13, 16, 22, 23, 24, 25, 26, 27, 28, 29, 30, 31].contains p
/-- The route planes PLANE_WRITE accepts (R76). -/
def planeWriteR (q : Nat) : Bool := [5, 7, 11, 14].contains q

/-- Word `w` of a row changed under a mask. -/
def rowWrite {n : Nat} (row : BitVec n) (w mask value : Nat) : BitVec n :=
  let m := BitVec.ofNat n ((mask % 2 ^ 32) <<< (32 * w))
  (row &&& ~~~m) ||| (BitVec.ofNat n ((value % 2 ^ 32) <<< (32 * w)) &&& m)

/-- PLANE_WRITE (R76, R132). -/
def Beryl.opPlaneWrite (b : Beryl) (d : Stn) (x : Desc) : Beryl × Verdict :=
  let p := bits x.arg0 7 0
  let w := bits x.arg0 23 8
  let setNat := ((x.arg1 &&& x.arg2) % 2 ^ 32) <<< (32 * w)
  if p ≥ 0x80 then
    let q := p - 0x80
    if !planeWriteR q || decide (w ≥ 128) then (b, .plain stPLANE none16)
    else
      let exist := rrowOf (((List.range 32).map (· + 32 * w)).filter d.rExists)
      let other := ~~~BitVec.ofNat 4096 (0xFFFFFFFF <<< (32 * w))
      let new := rowWrite (b.rt.get q) w x.arg1 x.arg2 &&& (exist ||| other)
      if q = 5 then
        match lowestBit (BitVec.ofNat 4096 setNat &&& ~~~b.rt.proven).toNat with
        | some r => (b, ⟨stNOTPROVEN, r, 0x85, 0xFF⟩)
        | none =>
          ({ b with rt := { b.rt with sigClear := new, locked := b.rt.locked ||| (new &&& ~~~b.rt.sigClear) } }, verdictOK)
      else ({ b with rt := b.rt.put q new }, verdictOK)
  else
    if !planeWriteE p || decide (w ≥ 512) then (b, .plain stPLANE none16)
    else
      let idx := (List.range 32).map (· + 32 * w)
      let other := ~~~BitVec.ofNat 16384 (0xFFFFFFFF <<< (32 * w))
      let new := rowWrite (b.el.get p) w x.arg1 x.arg2 &&& (erowOf (idx.filter d.eUsed) ||| other)
      let bad : Option Verdict :=
        if p = 7 ∨ p = 8 then
          let pts := erowOf (idx.filter fun e => isPoint (d.eType e))
          judge stLOCKED [⟨[(0xFF, BitVec.ofNat 16384 setNat)],
            (if p = 7 then [(0x91, b.ws.lkr), (0x93, b.ws.flr)] else [(0x90, b.ws.lkn), (0x92, b.ws.fln)])
              ++ [(21, b.el.lockSafe &&& pts)]⟩]
        else none
      match bad with
      | some v => (b, v)
      | none => ({ b with el := b.el.put p new }, verdictOK)

/-- Count an answered descriptor in BRL_CNT; ORDER raises its interrupt. -/
def Beryl.countAnswer (b : Beryl) (st : Nat) : Beryl :=
  { b with regs := { b.regs with
      adm := if st = stOK then b.regs.adm + 1 else b.regs.adm
      ref := if st = stOK then b.regs.ref else b.regs.ref + 1
      irq := if st = stORDER then b.regs.irq ||| irqORDER else b.regs.irq } }

/-- A decision with its outcome is answered: its response precedes the UNSOL responses of the retries it brought about. -/
def Beryl.conclude (b : Beryl) (x : Desc) (st : Beryl × Verdict) : Beryl :=
  let new := st.1.answers.drop b.answers.length
  let a := (Beryl.answer { st.1 with answers := b.answers, ord := b.ord } (mkRsp x st.2 false) true true)
  let shift := new.map fun n => { n with rsp := { n.rsp with ord := (n.rsp.ord + 1) % 65536 } }
  { a with answers := a.answers ++ shift, ord := st.1.ord + 1 }.countAnswer st.2.status

/-- Decide one descriptor that passed R63's steps 1 to 4, and answer it. -/
def Beryl.decideOne (b : Beryl) (d : Stn) (tcm : Mem) (x : Desc) : Beryl × Mem :=
  if x.op = opSET then (b.conclude x (b.opSet d x), tcm)
  else if x.op = opPROBE then (b.conclude x (b.opProbe d x), tcm)
  else if x.op = opCANCEL then (b.conclude x (b.opCancel d x), tcm)
  else if x.op = opTREL then (b.conclude x (b.opTrel d x), tcm)
  else if x.op = opDEQUEUE then
    match b.opDequeue d x with
    | (some e, v) => (b.conclude x (b.leavePend d e (.plain stDEQUEUED x.route), v), tcm)
    | (none, v) => (b.conclude x (b, v), tcm)
  else if x.op = opAREL then (b.conclude x (b.opArel x), tcm)
  else if x.op = opPLANEWRITE then (b.conclude x (b.opPlaneWrite d x), tcm)
  else
    -- AFFECT (R85)
    if x.arg0 > 16383 then (b.conclude x (b, .plain stRANGE none16), tcm)
    else
      let row := affectRow d x.arg0
      let rsp := { mkRsp x verdictOK false with count := popCount 4096 row.toNat
                                                count2 := popCount 4096 (row &&& b.rt.set).toNat }
      ((b.answer rsp true true).countAnswer stOK, tcm.wr (x.arg2 % 0x800000) 512 row.toNat)

/-- The known operations. -/
def knownOp (op : Nat) : Bool :=
  [opSET, opCANCEL, opTREL, opDEQUEUE, opAREL, opAFFECT, opPROBE, opPLANEWRITE].contains op

/-- R63 steps 1 to 4. -/
def Beryl.preStatus (b : Beryl) (x : Desc) : Option Nat :=
  if !b.regs.en || !b.regs.loaded then some stNOTREADY
  else if b.tags.contains x.tag then some stTAGDUP
  else if !(b.lastKey.lt x.key) then some stORDER
  else if !knownOp x.op || x.rsv then some stBADOP
  else none

/-- Acceptance of a descriptor (R63, R67): the last key and the TAG held. -/
def Beryl.accept (b : Beryl) (x : Desc) : Beryl :=
  let st := b.preStatus x
  let holds := st != some stNOTREADY && st != some stTAGDUP
  { b with accepted := b.accepted ++ [⟨x, st⟩]
           tags := if holds then x.tag :: b.tags else b.tags
           lastKey := if holds && st != some stORDER then x.key else b.lastKey }

/-- Answer the leading descriptors that failed R63's steps 1 to 4. -/
def Beryl.flushPre (b : Beryl) : Beryl :=
  let pre := b.accepted.takeWhile (·.pre.isSome)
  let b1 : Beryl := { b with accepted := b.accepted.dropWhile (·.pre.isSome) }
  pre.foldl (fun b a =>
    let st := a.pre.getD stBADOP
    (b.answer (mkRsp a.desc (.plain st none16) false) true (st != stNOTREADY && st != stTAGDUP)).countAnswer st) b1

/-- Decide the descriptor at the head of the pipeline, then answer what stands behind it already judged. -/
def Beryl.decideHead (b : Beryl) (d : Stn) (tcm : Mem) : Beryl × Mem :=
  match b.accepted with
  | [] => (b, tcm)
  | a :: rest =>
    let r := Beryl.decideOne { b with accepted := rest } d tcm a.desc
    (r.1.flushPre, r.2)

/-! ### Rings (R63, R64) -/

def ringSize (reg : Word32) (hi : Nat) : Option Nat :=
  let s := bits reg.toNat 3 0
  if 4 ≤ s ∧ s ≤ hi then some (2 ^ s) else none
def ringBase (reg : Word32) : Nat := bits reg.toNat 31 12 * 4096
def idx10 (r : Word32) : Nat := r.toNat % 1024

/-- Space in the response ring. -/
def Beryl.rspFree (b : Beryl) : Bool :=
  match ringSize b.regs.rspRing 9 with
  | none => false
  | some n => decide ((idx10 b.regs.rspProd + 1024 - idx10 b.regs.rspCons) % 1024 < n)

/-- Accept the next descriptor of the request ring, where Beryl may (R63, R64). -/
def Beryl.acceptNext (b : Beryl) (tcm : Mem) : Beryl :=
  match ringSize b.regs.reqRing 8 with
  | none => b
  | some n =>
    if b.regs.faulted || b.regs.hold || idx10 b.regs.reqProd == idx10 b.regs.reqCons || decide (b.inflight ≥ 256)
        || !b.rspFree then b
    else
      let a := ringBase b.regs.reqRing + 32 * (idx10 b.regs.reqCons % n)
      if a + 32 > 0x800000 then b.error 0x06 3
      else
        let b1 : Beryl := { b with regs := { b.regs with reqCons := BitVec.ofNat 32 ((idx10 b.regs.reqCons + 1) % 1024) } }
        (b1.accept (descAt tcm a)).flushPre

/-- Write the next response into the response ring, where there is room (R64). -/
def Beryl.writeResponse (b : Beryl) (tcm : Mem) : Beryl × Mem :=
  match b.answers, ringSize b.regs.rspRing 9 with
  | a :: rest, some n =>
    if b.regs.faulted || !b.rspFree then (b, tcm)
    else
      let addr := ringBase b.regs.rspRing + 16 * (idx10 b.regs.rspProd % n)
      if addr + 16 > 0x800000 then (b.error 0x06 3, tcm)
      else
        ({ b with answers := rest
                  tags := if a.holds then b.tags.erase a.rsp.tag else b.tags
                  regs := { b.regs with rspProd := BitVec.ofNat 32 ((idx10 b.regs.rspProd + 1) % 1024)
                                        irq := b.regs.irq ||| irqRSP } },
         tcm.wr addr 16 a.rsp.word)
  | _, _ => (b, tcm)

/-! ### The sweep (R83, R84) -/

/-- Settability of every route against a snapshot (R83). -/
def sweepResult (d : Stn) (v : View) : RRow :=
  rrowOf ((List.range 4096).filter fun r =>
    d.rExists r && !v.set.getLsbD r && (routeVerdict d v 0 r v.pending).status == stOK)

/-- The staging plane that holds no result and no running sweep. -/
def Beryl.freeStage (b : Beryl) : Option Nat :=
  let used := b.sweepReady.map (·.plane)
  if !used.contains 0 then some 0 else if !used.contains 1 then some 1 else none

/-- BRL_CMD SWEEP (R83, R84). -/
def Beryl.startSweep (b : Beryl) : Beryl :=
  if b.regs.faulted then b
  else match b.sweepRun, b.freeStage with
    | none, some p => { b with sweepRun := some ⟨p, 0⟩, ws := { b.ws with snap := b.view } }
    | _, _ => b.raise irqCMDERR

/-- The running sweep finishes: its result stands in its staging plane (R83). -/
def Beryl.finishSweep (b : Beryl) (d : Stn) : Beryl :=
  match b.sweepRun with
  | none => b
  | some s =>
    if b.regs.faulted then b else
    let res := sweepResult d b.ws.snap
    Beryl.raise
      { b with sweepRun := none
               sweepReady := b.sweepReady ++ [s]
               ws := if s.plane = 0 then { b.ws with stg0 := res } else { b.ws with stg1 := res } } irqSWEEP

/-- Publication at a STEP (R84): the sweep started two STEPs ago, finished first where it still runs. -/
def Beryl.publish (b : Beryl) (d : Stn) : Beryl :=
  let b1 : Beryl := { b with sweepRun := b.sweepRun.map fun s => { s with steps := s.steps + 1 }
                             sweepReady := b.sweepReady.map fun s => { s with steps := s.steps + 1 } }
  let b2 := match b1.sweepReady, b1.sweepRun with
    | [], some s => if s.steps ≥ 2 then b1.finishSweep d else b1
    | _, _ => b1
  match b2.sweepReady with
  | s :: rest =>
    if s.steps ≥ 2 then
      let res := if s.plane = 0 then b2.ws.stg0 else b2.ws.stg1
      { b2 with sweepReady := rest, published := true, rt := { b2.rt with settable := res }
                regs := { b2.regs with nset := popCount 4096 res.toNat, age := 2 } }
    else { b2 with regs := { b2.regs with age := if b2.published then min 3 (b2.regs.age + 1) else 0 } }
  | [] => { b2 with regs := { b2.regs with age := if b2.published then min 3 (b2.regs.age + 1) else 0 } }

/-! ### STEP (R75, R79, R80, R81) -/

/-- The conditions of PROVEN for a SET route not in sectional release (R75). -/
def Beryl.provenNow (b : Beryl) (d : Stn) (r : Nat) : Bool :=
  let clr := d.rel r 0
  let sub (x y : ERow) : Bool := x &&& ~~~y == 0
  (if d.rKind r = 1 then clr &&& b.el.occ == 0 else clr &&& (b.el.dist ||| b.el.failed) == 0)
    && sub (d.rel r 1 ||| d.rel r 3) b.el.detN && sub (d.rel r 2 ||| d.rel r 4) b.el.detR
    && sub (d.rel r 6) b.el.sigStop && sub (d.rel r 7) b.el.auxOk && d.rel r 5 &&& b.el.failed == 0

/-- The release group that starts at entry `p`: entries up to the first GEND (R41). -/
def groupFrom (l : List (Nat × Bool)) (p : Nat) : List Nat :=
  let t := l.drop p
  let n := (t.takeWhile fun e => !e.2).length + 1
  (t.take n).map (·.1)

/-- Release of one group (R80, release_group). -/
def Beryl.releaseGroup (b : Beryl) (d : Stn) (r : Nat) (g : List Nat) : Beryl :=
  let own := d.oRow (d.rOvl r)
  let m := (g.foldl (fun a s => a ||| d.footprint s) 0) &&& d.rel r 5 &&& ~~~own
  let p := b.ws.prog r + g.length
  let b1 := b.unlock m
  let b2 : Beryl := { b1 with rt := { b1.rt with srel := b1.rt.srel ||| bitR r }
                              ws := { b1.ws with progress := SMap.set 0 b1.ws.progress r p } }
  if p ≥ d.rSeqLen r then b2.releaseRoute d r else b2

/-- R80 steps 1 to 4 of a SET route. -/
def Beryl.visitSet (b : Beryl) (d : Stn) (r : Nat) : Beryl :=
  let proven := !b.rt.srel.getLsbD r && b.provenNow d r
  let b1 : Beryl := { b with rt := { b.rt with
    proven := if proven then b.rt.proven ||| bitR r else b.rt.proven &&& ~~~bitR r } }
  let rel := d.release r
  let prog := b1.ws.prog r
  let rest := erowOf ((rel.drop prog).map (·.1))
  let locked := b1.rt.locked.getLsbD r
  let b2 : Beryl := if locked then { b1 with el := { b1.el with relpend := b1.el.relpend ||| (rest &&& b1.el.occ) } } else b1
  let g := groupFrom rel prog
  let ready := locked && !b2.rt.sigClear.getLsbD r && !g.isEmpty
    && g.all (fun s => b2.el.relpend.getLsbD s && !b2.el.occ.getLsbD s)
    && (prog != 0 || b2.el.sigStop.getLsbD (d.rEntry r))
  let b3 := if ready then b2.releaseGroup d r g else b2
  -- step 5
  let first := groupFrom rel 0
  if b3.rt.approach.getLsbD r && !first.isEmpty && first.all (fun s => b3.el.relpend.getLsbD s) then
    { b3 with rt := { b3.rt with approach := b3.rt.approach &&& ~~~bitR r, trel := b3.rt.trel &&& ~~~bitR r }
              ws := { b3.ws with rdl := SMap.set 0 b3.ws.rdl r 0 } }
  else if b3.rt.trel.getLsbD r && isDue b3.nowMs (SMap.get 0 b3.ws.rdl r) then b3.releaseBoth d r
  else b3

/-- R80 for a route with OVL-SET. -/
def Beryl.visitOvl (b : Beryl) (d : Stn) (r : Nat) : Beryl :=
  let o := d.rOvl r
  let b1 : Beryl := if !b.rt.ovlTrel.getLsbD r && b.el.occ.getLsbD (d.oTrig o) then
      { b with rt := { b.rt with ovlTrel := b.rt.ovlTrel ||| bitR r }
               ws := { b.ws with odl := SMap.set 0 b.ws.odl o ((b.nowMs + d.oTrel o) % 2 ^ 32) } }
    else b
  if b1.rt.ovlTrel.getLsbD r && isDue b1.nowMs (SMap.get 0 b1.ws.odl o) then b1.releaseOverlap d o r else b1

/-- One visit of STEP (R80). -/
def Beryl.visit (b : Beryl) (d : Stn) (r : Nat) : Beryl :=
  let b1 := if b.rt.set.getLsbD r then b.visitSet d r else b
  if b1.rt.ovlSet.getLsbD r then b1.visitOvl d r else b1

/-- Step 1 of R79: overlaps awaiting their deadline. -/
def Beryl.armOverlaps (b : Beryl) (d : Stn) : Beryl :=
  (bitList 2048 b.ws.otpend.toNat).foldl (fun b o =>
    { b with ws := { b.ws with odl := SMap.set 0 b.ws.odl o ((b.nowMs + d.oTrel o) % 2 ^ 32)
                               otpend := b.ws.otpend &&& ~~~(1#2048 <<< o) } }) b

/-- A pending entry whose deadline has passed is answered EXPIRED (R74, R79 step 3). -/
def Beryl.expire (b : Beryl) (d : Stn) (e : PendEntry) : Beryl :=
  if b.ws.pend.contains e && isDue b.nowMs e.deadline then b.leavePend d e (.plain stEXPIRED e.desc.route) else b

/-- The first expired entry of a route. -/
def Beryl.expireOne (b : Beryl) (d : Stn) (r : Nat) : Beryl :=
  match b.ws.pend.find? (fun e => e.desc.route == r && isDue b.nowMs e.deadline) with
  | none => b
  | some e => b.expire d e

/-- One area whose timer is due (R79 step 4). -/
def Beryl.areaDue (b : Beryl) (d : Stn) (a : Nat) : Beryl :=
  if b.ws.arun.getLsbD a && isDue b.nowMs (SMap.get 0 b.ws.adl a) then
    { b with el := { b.el with lockSafe := b.el.lockSafe &&& ~~~d.areaRow a }
             ws := { b.ws with arun := b.ws.arun &&& ~~~(1#256 <<< a) } }
  else b

/-- BRL_CMD STEP (R79). -/
def Beryl.step (b : Beryl) (d : Stn) : Beryl :=
  if b.regs.faulted then b
  else
    let now := b.regs.nowLo.toNat + b.regs.nowHi.toNat * 2 ^ 32
    let b0 : Beryl := { b with latched := now, ord := 0 }
    let b1 := b0.armOverlaps d
    let b2 := b1.publish d
    let b3 := b2.ws.pend.foldl (fun b e => b.expire d e) b2
    let b4 := (List.range 256).foldl (fun b a => b.areaDue d a) b3
    let b5 := (bitList 4096 (b4.rt.set ||| b4.rt.ovlSet).toNat).foldl (fun b r => b.visit d r) b4
    Beryl.raise { b5 with regs := { b5.regs with adm := 0, ref := 0 }, lastKey := Key.zero } irqSTEP

/-! ### LOAD and CLEAR (R60, R61, R128) -/

/-- The warm branch of apply_restart for one locked route (R128). -/
def Beryl.restoreRoute (b : Beryl) (d : Stn) (prog r : Nat) : Beryl :=
  let b0 : Beryl := { b with ws := { b.ws with progress := SMap.set 0 b.ws.progress r prog } }
  let m := b0.held d r
  let clr := d.rel r 0
  let b1 : Beryl :=
    { b0 with
      el := { b0.el with
        locked := b0.el.locked ||| m
        dirUp := if d.rDir r then b0.el.dirUp ||| (clr &&& m) else b0.el.dirUp
        dirDn := if d.rDir r then b0.el.dirDn else b0.el.dirDn ||| (clr &&& m) }
      ws := { (b0.ws.flankUp (d.rel r 3) (d.rel r 4)) with lkn := b0.ws.lkn ||| (d.rel r 1 &&& m)
                                                           lkr := b0.ws.lkr ||| (d.rel r 2 &&& m) } }
  { b1 with rt := { b1.rt with set := b1.rt.set ||| bitR r, locked := b1.rt.locked ||| bitR r
                               lockSafe := b1.rt.lockSafe ||| bitR r
                               srel := if prog > 0 then b1.rt.srel ||| bitR r else b1.rt.srel } }

/-- The warm branch of apply_restart for one held overlap (R128). -/
def Beryl.restoreOverlap (b : Beryl) (d : Stn) (r : Nat) : Beryl :=
  let o := d.rOvl r
  let b1 : Beryl :=
    { b with el := { b.el with ovlk := b.el.ovlk ||| (d.oRow o &&& ~~~b.el.locked) }
             rt := { b.rt with ovlSet := b.rt.ovlSet ||| bitR r }
             ws := { b.ws with sigovl := SMap.set none16 b.ws.sigovl (d.oExit o) o
                               ovown := SMap.set none16 b.ws.ovown o r } }
  if b1.rt.set.getLsbD r then b1
  else { b1 with rt := { b1.rt with ovlTrel := b1.rt.ovlTrel ||| bitR r }
                 ws := { b1.ws with otpend := b1.ws.otpend ||| (1#2048 <<< o) } }

/-- apply_restart of the record in the work region (R128). -/
def Beryl.applyRestart (b : Beryl) (d : Stn) : Beryl :=
  let rec0 := d.wrk + 0x03000040
  let mode := d.mem.rd (d.wrk + 0x03000000) 4
  if mode = 2 then { b with el := { b.el with lockSafe := d.usedRow } }
  else if mode = 1 then
    let rlock := d.mem.rd rec0 512
    let rovl := d.mem.rd (rec0 + 0x200) 512
    let b0 : Beryl := { b with el := { b.el with lockSafe := BitVec.ofNat 16384 (d.mem.rd (rec0 + 0x400) 2048) } }
    let b1 := ((bitList 4096 rlock).filter d.rExists).foldl
      (fun b r => b.restoreRoute d (d.mem.rd (rec0 + 0xC00 + r) 1) r) b0
    let b2 := ((bitList 4096 rovl).filter fun r => d.rOvl r != none16).foldl (fun b r => b.restoreOverlap d r) b1
    b2.rewriteFlank
  else b

/-- BRL_CMD LOAD (R61, R128): Beryl and lane DRAM after it. -/
def Beryl.load (b : Beryl) (dram : Mem) : Beryl × Mem :=
  if b.regs.faulted then (b, dram)
  else if !b.regs.hold || !b.idle then (b.raise irqCMDERR, dram)
  else
    let m := (b.stn dram).buildWork
    let b1 : Beryl := { b with ws := BerylStore.zero, sweepRun := none, sweepReady := []
                               regs := { b.regs with loaded := true } }
    let b2 := b1.applyRestart (b1.stn m)
    (b2.raise irqLOAD, m.clear (b.regs.wrkBase + 0x03000000) 4)

/-- BRL_CMD CLEAR. -/
def Beryl.clear (b : Beryl) : Beryl :=
  if b.regs.faulted then b
  else if !b.regs.hold || !b.idle then b.raise irqCMDERR
  else { b with el := EPlanes.zero, rt := RPlanes.zero, ws := BerylStore.zero, sweepRun := none, sweepReady := [] }

end Sys2Proof.Machine
end

