-- ==== Sys2Proof/Machine/AmberOps.lean ====
section
/-!
DEFINITION. What Amber does with records, and the Amber port (17_amber_recorder.md R461 to R472).
-/
namespace Sys2Proof.Machine

/-- An event without transport and without special flags. -/
def mkEvt (code src level unitNo : Nat) (param : Bytes) : Evt := ⟨code, src, level, unitNo, 0, 0, param⟩

/-- The record of an event: TIME, low 32 bits of CYCLE, SID, UNVERIFIED and the severity filled in (R461). -/
def Evt.toRec (e : Evt) (time cycle sid : Nat) (verified : Bool) : Rec :=
  { code := e.code, flags := e.flags + (if verified then 0 else 4) + Config.severity e.code % 4 * 256, time := time,
    cycle := cycle % 4294967296, src := e.src, level := e.level, unitNo := e.unitNo, transport := e.transport, sid := sid,
    param := Bytes.pad e.param 36 }

/-- Bytes 0x00 to 0x3B of a record with its SEQ (R461). -/
def Rec.bytes (r : Rec) (seq : Nat) : Bytes :=
  leBytes 2 r.code ++ leBytes 2 r.flags ++ leBytes 4 seq ++ leBytes 8 r.time ++ leBytes 4 r.cycle
    ++ leBytes 4 (r.src % 16 + 16 * (r.level % 16) + 256 * (r.unitNo % 256) + 65536 * (r.transport % 256) + 16777216 * (r.sid % 256))
    ++ Bytes.pad r.param 36

def Rec.chk (r : Rec) (seq : Nat) : Nat := crc32c (r.bytes seq)
/-- The 64 stored bytes. -/
def Stored.bytes (x : Stored) : Bytes := x.body.bytes x.seq ++ leBytes 4 x.chk

/-- LIM of a code (R470, table "Main record codes"); none for the unlimited codes. -/
def recLim (code : Nat) : Option Nat :=
  if [0x0001, 0x0002, 0x0003, 0x1001, 0x1002, 0x1003, 0x1004, 0x1006, 0x2001, 0x3001, 0x3002, 0x3004, 0x4001, 0x6002, 0x6003, 0x8001,
      0x8002, 0x8004, 0x8005, 0x9001, 0x9002, 0x9003, 0xA001, 0xB001, 0xB002, 0xC001, 0xD001, 0xD002, 0xD003].contains code then none
  else if [0x0010, 0x1005, 0x8003].contains code then some 1
  else if code = 0x5002 then some 4
  else if 0x3800 ≤ code ∧ code ≤ 0x3FFF then some 64
  else some 16

def amberSlots : Nat := 8388608
def seqNext (s : Nat) : Nat := (s + 1) % 4294967296
/-- OLDEST (R464); 0 while nothing was written. -/
def Amber.oldest (a : Amber) : Nat :=
  if a.count < amberSlots then (a.newest + 4294967297 - a.count) % 4294967296
  else (a.newest + 4294967296 - (amberSlots - 1)) % 4294967296
def Amber.wrapped (a : Amber) : Bool := decide (amberSlots ≤ a.count)
/-- Sequence comparison modulo 2^32 (R464). -/
def seqLater (a b : Nat) : Bool :=
  let d := (a + 4294967296 - b % 4294967296) % 4294967296
  decide (1 ≤ d ∧ d ≤ 2147483647)

/-! ### Writing (R463 to R465) -/

def ctlOf (newest count : Nat) : CtlBlock := ⟨newest, count, crc32c (leBytes 4 newest ++ leBytes 4 count)⟩
def CtlBlock.valid (c : CtlBlock) : Bool := c.crc == crc32c (leBytes 4 c.newest ++ leBytes 4 c.count)
/-- Both copies of the control block written (R465). -/
def Amber.writeCtl (a : Amber) : Amber := { a with ctl0 := ctlOf a.newest a.count, ctl1 := ctlOf a.newest a.count }

/-- The four steps of R463 on one record, and the control block after every 256th. -/
def Amber.append (a : Amber) (r : Rec) : Amber :=
  let s := seqNext a.newest
  let b : Amber := { a with store := a.store.put (s % amberSlots) ⟨s, r, r.chk s⟩, newest := s, count := a.count + 1 }
  if b.count % 256 = 0 then b.writeCtl else b

/-- A record of the recorder itself (source 9). -/
def Amber.own (a : Amber) (code t sid : Nat) (flags : Nat) (param : Bytes) : Amber :=
  a.append ⟨code, flags + Config.severity code % 4 * 256, t, 0, 9, 3, 0, 0, sid, Bytes.pad param 36⟩

/-- A window closes (R467): a SUMMARY where something was suppressed. -/
def Amber.closeWin (a : Amber) (w : RateWin) (t sid : Nat) : Amber :=
  let b : Amber := { a with rates := a.rates.filter fun x => !(x.code == w.code && x.src == w.src) }
  if w.suppressed = 0 then b
  else b.own 0xD001 t sid 8 (leBytes 2 w.code ++ leBytes 1 w.src ++ leBytes 1 0 ++ leBytes 4 w.suppressed ++ leBytes 8 w.first
    ++ leBytes 8 w.last)

def Amber.win (a : Amber) (code src : Nat) : Option RateWin := a.rates.find? fun x => x.code == code && x.src == src
def Amber.putWin (a : Amber) (w : RateWin) : Amber :=
  { a with rates := (a.rates.filter fun x => !(x.code == w.code && x.src == w.src)) ++ [w] }

/-- A record taken from an intake buffer at instant `t`: written, or suppressed by R467. -/
def Amber.limited (a : Amber) (r : Rec) (t sid : Nat) : Amber :=
  match recLim r.code with
  | none => a.append r
  | some lim =>
    let a1 := match a.win r.code r.src with
      | some w => if w.start + 1000000000 ≤ t then a.closeWin w t sid else a
      | none => a
    match a1.win r.code r.src with
    | some w =>
      if w.count < lim then (a1.putWin { w with count := w.count + 1 }).append r
      else
        { a1.putWin { w with suppressed := w.suppressed + 1, first := if w.suppressed = 0 then r.time else w.first, last := r.time }
          with suppr := a1.suppr + 1 }
    | none =>
      if a1.rates.length < 4096 then (a1.putWin ⟨r.code, r.src, t, 1, 0, 0, 0⟩).append r else a1.append r

/-- The next non-empty intake buffer, round-robin from `rr` (R453, R463). -/
def Amber.nextSource (a : Amber) : Option Nat :=
  ((List.range 10).map fun k => (a.rr + k) % 10).find? fun i =>
    match (a.intake.getD i Intake.empty).buf with
    | [] => false
    | _ => true

/-- One record taken and written; the LOST record of that source follows at the slot it frees. -/
def Amber.takeOne (a : Amber) (t sid : Nat) : Amber :=
  match a.nextSource with
  | none => a
  | some i =>
    let k := a.intake.getD i Intake.empty
    match k.buf with
    | [] => a
    | r :: rest =>
      let b := ({ a with intake := a.intake.set i { k with buf := rest, owed := 0 }, rr := (i + 1) % 10 } : Amber).limited r t sid
      if k.owed = 0 then b else b.own 0xD002 t sid 0 (leBytes 1 i ++ leBytes 4 k.owed)

/-- Every record waiting in the intake buffers is written (R465, power fail). -/
def Amber.drain : Nat → Amber → Nat → Nat → Amber
  | 0, a, _, _ => a
  | n + 1, a, t, sid => match a.nextSource with
    | none => a
    | some _ => Amber.drain n (a.takeOne t sid) t sid

/-- Recovery (R465): forward from NEWEST while each slot holds the next SEQ with a valid CHK. -/
def Amber.scan : Nat → Amber → Amber
  | 0, a => a
  | n + 1, a =>
    let s := seqNext a.newest
    match a.store.find (s % amberSlots) with
    | some x => if x.seq = s ∧ x.chk = x.body.chk s then Amber.scan n { a with newest := s, count := a.count + 1 } else a
    | none => a

def Amber.recover (a : Amber) (t sid : Nat) : Amber :=
  let from' := if a.ctl0.valid && (!a.ctl1.valid || !(seqLater a.ctl1.newest a.ctl0.newest)) then some a.ctl0
    else if a.ctl1.valid then some a.ctl1 else none
  let a0 : Amber := match from' with
    | some c => { a with newest := c.newest, count := c.count }
    | none => { a with newest := 0xFFFFFFFF, count := 0 }
  let a1 := Amber.scan (a.store.length + 1) a0
  let a2 : Amber := { a1 with ready := true }
  if a1.newest = a0.newest then a2 else a2.own 0xD003 t sid 0 (leBytes 4 a0.newest ++ leBytes 4 a1.newest)

/-! ### Offering a record (R463, R472) -/

def laneOfSrc (i : Nat) : Option Lane :=
  match i with
  | 0 => some .a
  | 1 => some .b
  | 2 => some .c
  | _ => none

def ambERR : Word32 := 4
def AmbPort.raise (p : AmbPort) (m : Word32) : AmbPort := { p with irq := p.irq ||| m }
def AmbPort.error (p : AmbPort) (code level : Nat) : AmbPort :=
  { p with errcap := captureErr p.errcap code level, irq := p.irq ||| ambERR }

/-- A record refused: counted as lost for its source; a lane sees AMB_IRQ.LOST and AMB_ERRCAP. -/
def Amber.refuse (a : Amber) (i code : Nat) : Amber :=
  let k := a.intake.getD i Intake.empty
  let b : Amber := { a with intake := a.intake.set i { k with lost := min 0xFFFF (k.lost + 1), owed := k.owed + 1 } }
  match laneOfSrc i with
  | some x => { b with port := b.port.set x (((b.port.get x).raise 1).error code 3) }
  | none => b

/-- Whether Amber takes a record of source `i` now. -/
def Amber.takes (a : Amber) (i : Nat) : Bool :=
  decide ((a.intake.getD i Intake.empty).buf.length < 256)
    && (match laneOfSrc i with
        | some x => a.ready && (a.port.get x).ctrl.getLsbD 0
        | none => true)

/-- A record offered to the intake buffer of its source. -/
def Amber.offer (a : Amber) (r : Rec) : Amber :=
  let i := min r.src 9
  if a.takes i then
    let k := a.intake.getD i Intake.empty
    { a with intake := a.intake.set i { k with buf := k.buf ++ [r], acc := (k.acc + 1) % 65536 } }
  else a.refuse i (if a.ready then 3 else 5)

/-- AMB_STAT of a lane. -/
def Amber.stat (a : Amber) (x : Lane) : Word32 :=
  BitVec.ofNat 32 (b2n a.ready + 2 * b2n a.wrapped + 4 * b2n (a.port.get x).pbusy + 8 * b2n a.pfail)
/-- AMB_INTAKE of a lane. -/
def Amber.intakeReg (a : Amber) (x : Lane) : Word32 :=
  let k := a.intake.getD x.idx Intake.empty
  BitVec.ofNat 32 (k.acc + 65536 * k.lost)

end Sys2Proof.Machine
end

