-- ==== Sys2Proof/Machine/DraipOps.lean ====
section
/-!
DEFINITION. What the Draip bridge does (10_older_interfaces_and_bridging.md R294 to R313), and the lanes' checks and unpacking
of its items (R299 to R306).
-/
namespace Sys2Proof.Machine

/-! ### The BRDG section (R304) -/

/-- A BRDG section inside a memory. -/
structure Brt where
  mem : Mem
  base : Nat
  deriving DecidableEq, Repr

def Brt.f (b : Brt) (o n : Nat) : Nat := b.mem.rd (b.base + o) n
def Brt.ntel (b : Brt) : Nat := b.f 2 2
def Brt.nmap (b : Brt) : Nat := b.f 4 4
def Brt.off (b : Brt) (k : Nat) : Nat := b.f (8 + 4 * k) 4
def Brt.portF (b : Brt) (p o n : Nat) : Nat := b.f (b.off 0 + 16 * p + o) n
def Brt.portUsed (b : Brt) (p : Nat) : Bool := b.portF p 0 1 == 1
def Brt.rate (b : Brt) (p : Nat) : Nat := b.portF p 1 1
def Brt.dcyc (b : Brt) (p : Nat) : Nat := b.portF p 4 2
def Brt.devF (b : Brt) (d o n : Nat) : Nat := b.f (b.off 1 + 16 * d + o) n
def Brt.devUsed (b : Brt) (d : Nat) : Bool := b.devF d 0 1 == 1 && b.portUsed (d / 32)
def Brt.fto (b : Brt) (d : Nat) : Nat := b.devF d 1 1
def Brt.seed (b : Brt) (d : Nat) : Nat := b.devF d 4 4
/-- The telegrams of a device as (TNUM, TLEN, SAFEOFF), in TNUM order. -/
def Brt.tels (b : Brt) (d : Nat) : List (Nat × Nat × Nat) :=
  (List.range (min (b.devF d 0xA 1) 64)).map fun k =>
    let o := b.off 2 + 8 * (b.devF d 8 2 + k)
    (b.f o 1, b.f (o + 1) 1, b.f (o + 4) 4)
def Brt.tlen (b : Brt) (d tnum : Nat) : Option Nat :=
  ((b.tels d).find? fun x => x.1 == tnum).map fun x => x.2.1
def isInputTel (n : Nat) : Bool := decide (1 ≤ n ∧ n ≤ 0x3F)
def isCommandTel (n : Nat) : Bool := decide (0x40 ≤ n ∧ n ≤ 0x7F)
def Brt.inputTels (b : Brt) (d : Nat) : List Nat := ((b.tels d).map (·.1)).filter isInputTel
def Brt.commandTels (b : Brt) (d : Nat) : List Nat := ((b.tels d).map (·.1)).filter isCommandTel
/-- The safe image of a command telegram. -/
def Brt.safeImage (b : Brt) (d tnum : Nat) : Bytes :=
  match (b.tels d).find? fun x => x.1 == tnum with
  | some (_, len, so) => b.mem.bytes (b.base + b.off 4 + so) len
  | none => []

/-- One map entry (R304). -/
structure MapEnt where
  idx : Nat
  dev : Nat
  tnum : Nat
  kind : Nat
  bitoff : Nat
  width : Nat
  flags : Nat
  mul : Int
  div : Nat
  off : Int
  target : Nat
  tsel : Nat
  deriving DecidableEq, Repr

/-- A two's-complement reading of `w` bits. -/
def signed (w v : Nat) : Int := if v % 2 ^ w < 2 ^ (w - 1) then (v % 2 ^ w : Int) else (v % 2 ^ w : Int) - 2 ^ w

def Brt.mapEnt (b : Brt) (i : Nat) : MapEnt :=
  let o := b.off 3 + 24 * i
  { idx := i, dev := 32 * b.f o 1 + b.f (o + 1) 1, tnum := b.f (o + 2) 1, kind := b.f (o + 3) 1, bitoff := b.f (o + 4) 2,
    width := b.f (o + 6) 1, flags := b.f (o + 7) 1, mul := signed 16 (b.f (o + 8) 2), div := b.f (o + 0xA) 2,
    off := signed 32 (b.f (o + 0xC) 4), target := b.f (o + 0x10) 2, tsel := b.f (o + 0x12) 1 }
def Brt.maps (b : Brt) : List MapEnt := (List.range (min b.nmap 16384)).map b.mapEnt

/-- The field bits of a map entry in telegram data: field bit k is bit k mod 8 of data byte k / 8. -/
def MapEnt.raw (m : MapEnt) (data : Bytes) : Nat := bits (Bytes.nat data) (m.bitoff + m.width - 1) m.bitoff
/-- The scaled value: trunc(raw × MUL / DIV) + OFF, truncated towards zero (R305). -/
def MapEnt.scale (m : MapEnt) (raw : Int) : Int := Int.tdiv (raw * m.mul) m.div + m.off

/-! ### Telegrams (R295) -/

def tchk (seed : Nat) (bs : Bytes) : Nat := crc32c (leBytes 4 seed ++ bs)

/-- A telegram from the bridge to a device. -/
def telegram (b : Brt) (d tnum tseq : Nat) (data : Bytes) : Bytes :=
  let h := [BitVec.ofNat 8 (d % 32), BitVec.ofNat 8 tnum, BitVec.ofNat 8 tseq, BitVec.ofNat 8 data.length] ++ data
  h ++ leBytes 4 (tchk (b.seed d) h)

def telNum (tel : Bytes) : Nat := Bytes.le tel 1 1
def telSeq (tel : Bytes) : Nat := Bytes.le tel 2 1
def telLen (tel : Bytes) : Nat := Bytes.le tel 3 1
def telData (tel : Bytes) : Bytes := Bytes.sub tel 4 (telLen tel)

/-- A device's telegram that passes its check: length, TCHK, DIR 1, the device, a TNUM that is not reserved. -/
def telValid (b : Brt) (d : Nat) (tel : Bytes) : Bool :=
  decide (telLen tel ≤ 48) && tel.length == 8 + telLen tel
    && Bytes.le tel (4 + telLen tel) 4 == tchk (b.seed d) (tel.take (4 + telLen tel))
    && Bytes.le tel 0 1 / 128 == 1 && Bytes.le tel 0 1 % 32 == d % 32
    && (isInputTel (telNum tel) || telNum tel == 0x80 || telNum tel == 0x81 || telNum tel == 0xF0 || telNum tel == 0xF1)

/-! ### The bridge -/

/-- What the bridge hands out: an item for the lanes, a telegram on a port, a record. -/
inductive DrOut where
  | item (num seq : Nat) (kind : ItemKind) (body : Bytes)
  | line (port : Nat) (body : Bytes)
  | record (e : Evt)
  deriving DecidableEq, Repr

/-- The DRAIP_FERR record (17_amber_recorder.md R470), written by the bridge (source 6); the cause is outside the module. -/
def draipEvt (port dev tnum tseq reason : Nat) : Evt :=
  ⟨0x7001, 6, 7, 0, 0, 0, leBytes 1 port ++ leBytes 1 dev ++ leBytes 1 tnum ++ leBytes 1 tseq ++ leBytes 1 reason⟩

def brgFERR : Word32 := 1
def brgMODE : Word32 := 2
def brgPORT : Word32 := 4
def brgUNP : Word32 := 8
def brgCTL : Word32 := 16
def brgORPH : Word32 := 32

def Drp.brt (b : Drp) : Brt := ⟨b.tables, 0⟩
def Drp.dev (b : Drp) (d : Nat) : DrDev := SMap.get DrDev.reset b.devs d
def Drp.setDev (b : Drp) (d : Nat) (x : DrDev) : Drp := { b with devs := SMap.set DrDev.reset b.devs d x }
def Drp.modDev (b : Drp) (d : Nat) (f : DrDev → DrDev) : Drp := b.setDev d (f (b.dev d))
def Drp.raise (b : Drp) (m : Word32) : Drp := { b with lanes := b.lanes.map fun v => { v with irq := v.irq ||| m } }
def Drp.error (b : Drp) (code level : Nat) : Drp :=
  { b with lanes := b.lanes.map fun v => { v with errcap := captureErr v.errcap code level } }

/-- An item of source `num`, numbered by that source's item count (R19, R298). -/
def Drp.item (b : Drp) (num : Nat) (kind : ItemKind) (body : Bytes) : Drp × List DrOut :=
  let n := SMap.get 0 b.itemCnt num + 1
  ({ b with itemCnt := SMap.set 0 b.itemCnt num n }, [.item num n kind body])

def DrErr.word (e : DrErr) : Nat := e.port + 8 * e.dev + 256 * e.tnum + 65536 * e.tseq + 0x1000000 * e.reason + 0x80000000

/-- The log item: every entry of the log (R298). -/
def Drp.logItem (b : Drp) : Drp × List DrOut := b.item 256 .errorLog (b.log.flatMap fun e => leBytes 4 e.word)

/-- Enter an error (R312): at most one entry per device, at most 8. -/
def Drp.logError (b : Drp) (e : DrErr) : Drp × List DrOut :=
  let same := fun x : DrErr => x.port == e.port && x.dev == e.dev
  if b.log.any same then ({ b with log := b.log.map fun x => if same x then e else x }).logItem
  else if b.log.length < 8 then ({ b with log := b.log ++ [e] }).logItem
  else ({ b with ovf := min (b.ovf + 1) 255 }, [])

/-- Remove a device's entry (R312). -/
def Drp.clearError (b : Drp) (d : Nat) : Drp × List DrOut :=
  let keep := b.log.filter fun x => !(x.port == d / 32 && x.dev == d % 32)
  if keep.length = b.log.length then (b, []) else ({ b with log := keep }).logItem

/-- The image of a command telegram: it starts from the safe image (R309). -/
def Drp.image (b : Drp) (d tnum : Nat) : Bytes :=
  match SMap.find (b.dev d).images tnum with
  | some i => i
  | none => b.brt.safeImage d tnum

/-- A failed send of a posted write (R311): once more in the next visit, then a far-side error. -/
def Drp.writeFailed (b : Drp) (d tnum tseq reason : Nat) : Drp × List DrOut :=
  let x := b.dev d
  if tnum ∈ x.sentNow then
    let y := { x with sentNow := x.sentNow.filter (· != tnum),
                      posted := if tnum ∈ x.posted then x.posted else x.posted ++ [tnum] }
    if tnum ∈ x.failed then
      let b1 := (b.setDev d { y with nerr := min (x.nerr + 1) 255 }).raise brgFERR
      let r := b1.logError ⟨d / 32, d % 32, tnum, tseq, reason⟩
      (r.1, r.2 ++ [.record (draipEvt (d / 32) (d % 32) tnum tseq reason)])
    else (b.setDev d { y with failed := x.failed ++ [tnum] }, [])
  else (b, [])

/-- A completed posted write (R311, R312). -/
def Drp.writeDone (b : Drp) (d tnum : Nat) : Drp × List DrOut :=
  let x := b.dev d
  if tnum ∈ x.sentNow then
    (b.setDev d { x with sentNow := x.sentNow.filter (· != tnum), failed := x.failed.filter (· != tnum) }).clearError d
  else (b, [])

/-- Send the telegram of the exchange at the head of a device's agenda, with the next TSEQ. -/
def Drp.sendHead (b : Drp) (d : Nat) : Drp × List DrOut :=
  let x := b.dev d
  let seq := (x.txSeq + 1) % 256
  let out (tnum : Nat) (data : Bytes) : List DrOut := [.line (d / 32) (telegram b.brt d tnum seq data)]
  match x.agenda with
  | [] => (b, [])
  | .command n :: _ =>
    let data := if b.safeImg then b.brt.safeImage d n else b.image d n
    let y := { x with txSeq := seq, awaitSeq := seq }
    if n ∈ x.posted ∧ b.safeImg = false then
      (b.setDev d { y with posted := x.posted.filter (· != n), sentNow := x.sentNow ++ [n] }, out n data)
    else (b.setDev d y, out n data)
  | .poll n :: _ => (b.setDev d { x with txSeq := seq, awaitSeq := seq }, out 0 [BitVec.ofNat 8 n])
  | .status :: _ => (b.setDev d { x with txSeq := seq, awaitSeq := seq }, out 0xF0 [])
  | .event :: _ => (b.setDev d { x with txSeq := seq, awaitSeq := seq, evPolls := x.evPolls + 1 }, out 0xF1 [])

/-- The exchange under way has ended: go on to the next of the visit. -/
def Drp.advance (b : Drp) (d : Nat) : Drp × List DrOut :=
  (b.modDev d fun x => { x with agenda := x.agenda.drop 1 }).sendHead d

/-- One visit (R296, R297, R302): commands, polls in TNUM order, the side-band exchange. -/
def Drp.visit (b : Drp) (d t : Nat) : Drp × List DrOut :=
  if b.active = true ∧ b.ctlflt = false ∧ b.mapOk = true ∧ b.brt.devUsed d = true then
    let x := b.dev d
    let cmds := if b.safeImg then b.brt.commandTels d else (b.brt.commandTels d).filter (· ∈ x.posted)
    let side := if x.msgForm then (if x.evcnt = 0 then [] else [DrStep.event]) else [DrStep.status]
    let p := d / 32
    let port := b.ports.getD p DrPort.reset
    let first := (List.range 32).find? fun k => b.brt.devUsed (32 * p + k)
    let port' := if first = some (d % 32) then { port with cycleMs := (t - port.lastVisit) / 1000000, lastVisit := t } else port
    (({ b with ports := b.ports.set p port' }).setDev d
      { x with agenda := cmds.map DrStep.command ++ (b.brt.inputTels d).map DrStep.poll ++ side, evPolls := 0,
               age := min (x.age + 1) 255 }).sendHead d
  else (b, [])

/-- The body of a side-band item. -/
def sideBody (ecode tnum tseq : Nat) : Bytes :=
  [BitVec.ofNat 8 ecode, BitVec.ofNat 8 tnum, BitVec.ofNat 8 tseq, 0]

/-- Queue an event item and act on it in the bridge (R302, R312). -/
def Drp.deliverEvent (b : Drp) (d : Nat) (e : DrEvent) : Drp × List DrOut :=
  let r := b.item d .event (sideBody e.ecode e.tnum e.tseq)
  if e.ecode = 3 then
    let b1 := r.1.modDev d fun x => { x with msgForm := false, mode := 0 }
    let b2 := if (b.dev d).mode = 0 then b1 else b1.raise brgMODE
    let c := b2.clearError d
    (c.1, r.2 ++ c.2)
  else if e.ecode = 4 then
    (r.1.modDev d fun x => { x with posted := b.brt.commandTels d }, r.2)
  else r

/-- An event from a device: delivered at once if its telegram has been, else held (R302). -/
def Drp.event (b : Drp) (d t : Nat) (data : Bytes) : Drp × List DrOut :=
  let e : DrEvent := ⟨Bytes.le data 0 1, Bytes.le data 1 1, Bytes.le data 2 1, t⟩
  let b1 := b.modDev d fun x => { x with evcnt := x.evcnt - 1 }
  if SMap.get 0 (b1.dev d).delivered e.tnum = e.tseq + 1 then b1.deliverEvent d e
  else (b1.modDev d fun x => { x with events := x.events ++ [e] }, [])

/-- A telegram delivered unchanged (R298), with the events that waited for it directly behind. -/
def Drp.deliverTel (b : Drp) (d : Nat) (tel : Bytes) : Drp × List DrOut :=
  let r := b.item d .telegram tel
  let x := r.1.dev d
  let due := x.events.filter fun e => e.tnum == telNum tel && e.tseq == telSeq tel
  let b1 := r.1.setDev d { x with delivered := SMap.set 0 x.delivered (telNum tel) (telSeq tel + 1), age := 0,
                                  events := x.events.filter fun e => !(e.tnum == telNum tel && e.tseq == telSeq tel) }
  due.foldl (fun (acc : Drp × List DrOut) e => let q := acc.1.deliverEvent d e; (q.1, acc.2 ++ q.2)) (b1, r.2)

/-- A status (R301, R302): delivered as an item; MODE 1, 2 or 3 switches the device to message form. -/
def Drp.status (b : Drp) (d : Nat) (data : Bytes) : Drp × List DrOut :=
  let r := b.item d .status (Bytes.pad data 4)
  let m := Bytes.le data 0 1
  let old := (b.dev d).mode
  let b1 := r.1.modDev d fun x => { x with mode := m % 8, fcode := Bytes.le data 2 1, evcnt := Bytes.le data 3 1,
                                           msgForm := x.msgForm || decide (1 ≤ m ∧ m ≤ 3) }
  (if old = m % 8 then b1 else b1.raise brgMODE, r.2)

/-- In message form the device is polled for events while EVCNT is not zero, up to four times a visit (R302). -/
def Drp.moreEvents (b : Drp) (d : Nat) : Drp :=
  let x := b.dev d
  if x.msgForm = true ∧ x.evcnt ≠ 0 ∧ x.evPolls < 4 then b.setDev d { x with agenda := x.agenda ++ [.event] } else b

/-- A check error, a missing answer or a NAK of the exchange under way. -/
def Drp.exchangeFailed (b : Drp) (d code reason : Nat) : Drp × List DrOut :=
  let b1 := b.error code 7
  let x := b1.dev d
  match x.agenda with
  | .command n :: _ =>
    let r := b1.writeFailed d n x.awaitSeq reason
    let a := r.1.advance d
    (a.1, r.2 ++ a.2)
  | [] => (b1, [])
  | _ => b1.advance d

/-- An answer of a device (R296, R298, R301, R302, R311). -/
def Drp.answer (b : Drp) (d t : Nat) (tel : Bytes) : Drp × List DrOut :=
  let x := b.dev d
  if b.active = false ∨ b.ctlflt = true then (b, [])
  else if telValid b.brt d tel = false then b.exchangeFailed d 1 3
  else
    let go (r : Drp × List DrOut) : Drp × List DrOut :=
      let a := (r.1.moreEvents d).advance d
      (a.1, r.2 ++ a.2)
    match x.agenda with
    | [] => (b, [])
    | .command n :: _ =>
      let named := Bytes.le (telData tel) 0 1 == n && Bytes.le (telData tel) 1 1 == x.awaitSeq
      if telNum tel = 0x80 ∧ named = true then
        let r := b.writeDone d n
        let a := r.1.advance d
        (a.1, r.2 ++ a.2)
      else if telNum tel = 0x81 ∧ named = true then b.exchangeFailed d 3 1
      else b.exchangeFailed d 1 3
    | .poll n :: _ =>
      if telNum tel = n then
        let r := b.deliverTel d tel
        let a := r.1.advance d
        (a.1, r.2 ++ a.2)
      else b.exchangeFailed d 1 3
    | .status :: _ => if telNum tel = 0xF0 then go (b.status d (telData tel)) else b.exchangeFailed d 1 3
    | .event :: _ => if telNum tel = 0xF1 then go (b.event d t (telData tel)) else b.exchangeFailed d 1 3

/-- No answer within TRESP plus two character times (R296). -/
def Drp.missing (b : Drp) (d : Nat) : Drp × List DrOut :=
  if b.active = false ∨ b.ctlflt = true then (b, []) else b.exchangeFailed d 2 2

/-- Orphans of a device: events whose telegram has not arrived within 2 Draip cycles (R302). -/
def Drp.orphans (b : Drp) (d t : Nat) : Drp × List DrOut :=
  let x := b.dev d
  let late := fun e : DrEvent => decide (e.since + 2 * b.brt.dcyc (d / 32) * 1000000 ≤ t)
  let due := x.events.filter late
  if due = [] then (b, [])
  else
    let b1 := (b.setDev d { x with events := x.events.filter fun e => !late e }).raise brgORPH
    due.foldl (fun (acc : Drp × List DrOut) e =>
      let q := (acc.1.error 5 7).item d .event (sideBody (e.ecode ||| 0x80) e.tnum e.tseq)
      (q.1, acc.2 ++ q.2)) (b1, [])

/-! ### Repacking the command list (R309, R310) -/

/-- The source of an element command map entry: the command byte, CODE, ARG or TOG (R304, R200). -/
def tselOf (tsel v : Nat) : Nat :=
  if tsel = 1 then bits v 6 4 else if tsel = 2 then bits v 3 0 else if tsel = 3 then bits v 7 7 else v % 256

/-- Write the field of a map entry into an image. -/
def MapEnt.write (m : MapEnt) (img : Bytes) (raw : Nat) : Bytes :=
  let v := Bytes.nat img
  let mask := (2 ^ m.width - 1) <<< m.bitoff
  leBytes img.length ((v ^^^ (v &&& mask)) ||| ((raw % 2 ^ m.width) <<< m.bitoff))

/-- Whether a raw value lies in the field's range (R309). -/
def MapEnt.inRange (m : MapEnt) (raw : Int) : Bool :=
  if m.flags.testBit 0 then decide (-(2 ^ (m.width - 1) : Int) ≤ raw ∧ raw < 2 ^ (m.width - 1))
  else decide (0 ≤ raw ∧ raw < 2 ^ m.width)

/-- One map entry applied to one command list entry. -/
def Drp.repackEnt (b : Drp) (m : MapEnt) (value : Nat) : Drp × List DrOut :=
  let src : Int := if m.kind = 0x82 then (tselOf m.tsel value : Int) else signed 32 value
  let raw := m.scale src
  if m.inRange raw then
    let old := b.image m.dev m.tnum
    let new := m.write old (raw % 2 ^ m.width).toNat
    if new = old then (b, [])
    else
      (b.modDev m.dev fun x => { x with images := SMap.put x.images m.tnum new,
                                        posted := if m.tnum ∈ x.posted then x.posted else x.posted ++ [m.tnum] }, [])
  else (b.error 4 3).logError ⟨m.dev / 32, m.dev % 32, m.tnum, (b.dev m.dev).txSeq, 4⟩

/-- One command list entry (R308): INDEX, KIND, VALUE. -/
def Drp.repack (b : Drp) (index kind value : Nat) : Drp × List DrOut :=
  (b.brt.maps.filter fun m => m.target == index && m.kind == (if kind = 0 then 0x81 else 0x82)).foldl
    (fun (acc : Drp × List DrOut) m => let q := acc.1.repackEnt m value; (q.1, acc.2 ++ q.2)) (b, [])

/-- The entries of a voted command list (R309); nothing is taken by a stopped bridge or one without tables. -/
def Drp.takeList (b : Drp) (l : List (Nat × Nat × Nat)) : Drp × List DrOut :=
  if b.ctlflt = true ∨ b.mapOk = false then (b, [])
  else l.foldl (fun (acc : Drp × List DrOut) e => let q := acc.1.repack e.1 e.2.1 e.2.2; (q.1, acc.2 ++ q.2)) (b, [])

/-- The lock-step fault of the bridge (R309): it stops, CTLFLT is set. -/
def Drp.stop (b : Drp) : Drp :=
  let off := b.ports.map fun p => { p with drivers := false, state := 2 }
  (({ b with ctlflt := true, active := false, ports := off }).error 6 3).raise (brgCTL ||| brgPORT)

/-- The bridge of an ACTIVE module drives its lines; in every other role its drivers are off. In HELD it sends safe images
(R297). -/
def Drp.setRole (b : Drp) (isActive held : Bool) : Drp :=
  if b.ctlflt = true ∨ b.mapOk = false then { b with active := false, safeImg := false }
  else
    let port (p : Nat) (x : DrPort) : DrPort :=
      if isActive = true ∧ b.brt.portUsed p = true then { x with drivers := true, state := 1 }
      else { x with drivers := false, state := 0 }
    let ports := b.ports.mapIdx port
    let b1 := { b with active := isActive, safeImg := isActive && held, ports := ports }
    if ports.map (·.state) = b.ports.map (·.state) then b1 else b1.raise brgPORT

/-! ### A lane's checks and its hold-back (R299, R303) -/

def LaneDrp.dev (l : LaneDrp) (d : Nat) : LaneDev := SMap.get LaneDev.reset l.devs d
def LaneDrp.setDev (l : LaneDrp) (d : Nat) (x : LaneDev) : LaneDrp := { l with devs := SMap.set LaneDev.reset l.devs d x }

/-- The telegram checks of R299, TSEQ apart. -/
def telAccept (b : Brt) (d : Nat) (tel : Bytes) : Bool :=
  telValid b d tel && isInputTel (telNum tel) && b.tlen d (telNum tel) == some (telLen tel)

/-- The TSEQ window of R299; where there is no last TSEQ the first one stands. -/
def tseqOk (last : Option Nat) (s : Nat) : Bool :=
  match last with
  | none => true
  | some p => decide (1 ≤ (s + 256 - p % 256) % 256 ∧ (s + 256 - p % 256) % 256 ≤ 16)

/-- A telegram item in the cut: discarded, held back, or queued for the unpack. -/
def LaneDrp.telegram (l : LaneDrp) (b : Brt) (i : Item) (now : Nat) : LaneDrp :=
  let x := l.dev i.num
  let n := telNum i.body
  let s := telSeq i.body
  if telAccept b i.num i.body = true ∧ tseqOk x.last s = true then
    if (n, s) ∈ x.discard then
      l.setDev i.num { x with last := some s, discard := x.discard.filter (· != (n, s)) }
    else if x.mode = 0 then
      { l.setDev i.num { x with last := some s } with
        accepted := l.accepted ++ [⟨i.num, n, i.amc, i.seq, telData i.body⟩] }
    else
      l.setDev i.num { x with last := some s, held := x.held ++ [⟨n, s, i.amc, i.seq, now, telData i.body⟩] }
  else l

/-- A side-band event in the cut (table "Side-band events"). -/
def LaneDrp.event (l : LaneDrp) (i : Item) : LaneDrp :=
  let e := Bytes.le i.body 0 1
  let n := Bytes.le i.body 1 1
  let s := Bytes.le i.body 2 1
  let x := l.dev i.num
  let mine := fun h : HeldTel => h.tnum == n && h.tseq == s
  let rest := x.held.filter fun h => !mine h
  let moved := (x.held.filter mine).map fun h => (⟨i.num, h.tnum, h.amc, h.seq, h.data⟩ : AccTel)
  if e = 1 then { l.setDev i.num { x with held := rest } with accepted := l.accepted ++ moved }
  else if e = 2 then l.setDev i.num { x with held := rest }
  else if e = 3 then { l.setDev i.num { x with held := rest, mode := 0 } with accepted := l.accepted ++ moved }
  else if e = 4 then l.setDev i.num { x with last := none }
  else if 0x81 ≤ e ∧ e ≤ 0x84 then
    l.setDev i.num { x with held := rest, discard := if moved = [] then x.discard ++ [(n, s)] else x.discard }
  else l

/-- A status item: the agreed MODE and FCODE of the device (R303). -/
def LaneDrp.status (l : LaneDrp) (i : Item) : LaneDrp :=
  l.setDev i.num { l.dev i.num with mode := Bytes.le i.body 0 1 % 8, fcode := Bytes.le i.body 2 1 }

/-- A log item: a device has ERR while the log holds an entry for it (R312). -/
def LaneDrp.log (l : LaneDrp) (i : Item) : LaneDrp :=
  let ws := (List.range (i.body.length / 4)).map fun k => Bytes.le i.body (4 * k) 4
  let ds := ws.map fun w => 32 * bits w 2 0 + bits w 7 3
  let l1 := { l with devs := (l.devs.map fun e => (e.1, { e.2 with err := false })).filter fun e => e.2 != LaneDev.reset }
  ds.foldl (fun acc d => acc.setDev d { acc.dev d with err := true }) l1

def LaneDrp.item (l : LaneDrp) (b : Brt) (i : Item) (now : Nat) : LaneDrp :=
  match i.kind with
  | .telegram => l.telegram b i now
  | .event => l.event i
  | .status => l.status i
  | .errorLog => l.log i
  | _ => l

/-- Telegrams held back for 2 Draip cycles are discarded (R303). -/
def LaneDrp.expire (l : LaneDrp) (b : Brt) (d now : Nat) : LaneDrp :=
  l.setDev d { l.dev d with held := (l.dev d).held.filter fun h => decide (now < h.since + 2 * b.dcyc (d / 32) * 1000000) }

/-! ### Unpacking (R305, R306) -/

/-- Where the agreed input image, the element records and the bridged signals lie in tightly coupled SRAM (R94, R100). -/
def inImg : Nat := 0x100000
def inRec (e : Nat) : Nat := inImg + 0x4000 + 16 * e
def bridged (s : Nat) : Nat := inImg + 0x8C800 + 8 * s

/-- A panel request made by the unpack: the map entry, its field, and the item's key. -/
structure PanelReq where
  ent : Nat
  target : Nat
  field : Nat
  amc : Nat
  seq : Nat
  deriving DecidableEq, Repr

def satI32 (v : Int) : Int := max (-2147483648) (min 2147483647 v)

/-- Bits `[hi:lo]` of a number replaced. -/
def putBits (w hi lo v : Nat) : Nat :=
  let mask := (2 ^ (hi + 1 - lo) - 1) <<< lo
  (w ^^^ (w &&& mask)) ||| ((v % 2 ^ (hi + 1 - lo)) <<< lo)

def i32 (v : Int) : Nat := (v % 4294967296).toNat

/-- An element record written by an entry: VALID and FRESH set, AGE 0, FCODE 0x21 where the value saturates. -/
def recWrite (m : Mem) (e : Nat) (w0 : Nat → Nat) (word : Nat) (v : Option Nat) (sat : Bool) : Mem :=
  let a := inRec e
  let w := w0 (m.rd a 4)
  let w := putBits w 1 0 3
  let w := if sat then putBits w 23 16 0x21 else w
  let m1 := (m.wr a 4 w).wr (a + 12) 2 0
  match v with
  | some x => m1.wr (a + 4 * word) 4 x
  | none => m1

/-- A bridged signal written by an entry (R305). -/
def sigWrite (m : Mem) (s : Nat) (v : Int) (mode : Nat) (err : Bool) : Mem :=
  let sat := satI32 v
  let w := b2n (sat == v) + 2 + 4 * b2n err + 8 * (mode % 8)
  (m.wr (bridged s) 4 (i32 sat)).wr (bridged s + 4) 4 w

/-- One map entry of the unpack of R305. -/
def unpackEnt (m : Mem) (e : MapEnt) (data : Bytes) (mode : Nat) (err : Bool) : Mem :=
  let u := e.raw data
  let ones := e.flags.testBit 2 && u == 2 ^ e.width - 1
  let raw : Int := if e.flags.testBit 0 then signed e.width u else (u : Int)
  let raw := if e.flags.testBit 1 then 1 - raw else raw
  let v := e.scale raw
  if ones then
    if e.kind = 1 then m.wr (bridged e.target + 4) 1 (putBits (m.rd (bridged e.target + 4) 1) 0 0 0)
    else if e.kind = 6 then m
    else m.wr (inRec e.target) 1 (putBits (m.rd (inRec e.target) 1) 0 0 0)
  else if e.kind = 1 then sigWrite m e.target v mode err
  else if e.kind = 2 then
    recWrite m e.target (fun w => putBits w (8 + e.tsel) (8 + e.tsel) (b2n (v != 0))) 0 none false
  else if e.kind = 3 then
    let s := max 0 (min 255 v)
    recWrite m e.target (fun w => putBits w 23 16 s.toNat) 0 none (s != v)
  else if e.kind = 4 then
    let s := max 0 (min 65535 v)
    recWrite m e.target id 1 (some s.toNat) (s != v)
  else if e.kind = 5 then
    let s := satI32 v
    recWrite m e.target id 2 (some (i32 s)) (s != v)
  else m

/-- One accepted telegram: its input entries in map order; the panel request fields are handed back. A saturation's FCODE 0x21 falls
away with the next telegram that writes the element (DEDUCED, assumption log 30). -/
def unpackTel (b : Brt) (l : LaneDrp) (m : Mem) (t : AccTel) : Mem × List PanelReq :=
  let ents := b.maps.filter fun e => e.dev == t.num && e.tnum == t.tnum && decide (e.kind < 0x80)
  let x := l.dev t.num
  let m0 := (ents.filter fun e => decide (2 ≤ e.kind ∧ e.kind ≤ 5)).foldl
    (fun a e => if a.rd (inRec e.target + 2) 1 = 0x21 then a.wr (inRec e.target + 2) 1 0 else a) m
  (ents.foldl (fun acc e => unpackEnt acc e t.data x.mode x.err) m0,
   (ents.filter fun e => e.kind == 6).map fun e => ⟨e.idx, e.target, e.raw t.data, t.amc, t.seq⟩)

/-- The unpack of a list of telegrams in order. -/
def unpackAll (b : Brt) (l : LaneDrp) (m : Mem) (ts : List AccTel) : Mem × List PanelReq :=
  ts.foldl (fun (acc : Mem × List PanelReq) t => let q := unpackTel b l acc.1 t; (q.1, acc.2 ++ q.2)) (m, [])

end Sys2Proof.Machine
end

