-- ==== Sys2Proof/Machine/KstOps.lean ====
section
/-!
DEFINITION. What a lane does with KST PDUs (10_older_interfaces_and_bridging.md R317 to R325, R502), and the PRP ports (R315).
-/
namespace Sys2Proof.Machine

/-- An association record from its fields in the order of R316. -/
def assocRec (b : Bytes) : AssocRec :=
  { anum := Bytes.le b 0 2, cls := Bytes.le b 2 1, roles := Bytes.le b 3 1, localId := Bytes.le b 4 4, peerId := Bytes.le b 8 4,
    pseals := Bytes.le b 12 1, init := Bytes.le b 13 1 == 1, vmin := Bytes.le b 14 1, vmax := Bytes.le b 15 1,
    tidle := Bytes.le b 16 2, tmax := Bytes.le b 18 2,
    links := (List.range (min (Bytes.le b 20 2) 256)).map fun k => Bytes.le b (22 + 4 * k) 4 }

def AssocRec.canRoute (r : AssocRec) : Bool := r.roles.testBit 0
def AssocRec.canArel (r : AssocRec) : Bool := r.roles.testBit 1
def AssocRec.canCommission (r : AssocRec) : Bool := r.roles.testBit 2
def AssocRec.linkE (r : AssocRec) (k : Nat) : Nat := bits (r.links.getD k 0) 13 0
def AssocRec.linkOut (r : AssocRec) (k : Nat) : Bool := (r.links.getD k 0).testBit 15

/-- LSIG (R320): the CRC-32C over NLINK and the bitmap of directions; `inv` inverts every direction. -/
def AssocRec.lsig (r : AssocRec) (inv : Bool) : Nat :=
  let map := (List.range r.links.length).foldl (fun a k => if r.linkOut k != inv then a ||| 1 <<< k else a) 0
  crc32c (leBytes 2 r.links.length ++ leBytes 32 map)

def LaneKst.assoc (l : LaneKst) (a : Nat) : Assoc := SMap.get Assoc.reset l.assocs a
def LaneKst.setAssoc (l : LaneKst) (a : Nat) (x : Assoc) : LaneKst := { l with assocs := SMap.set Assoc.reset l.assocs a x }
def LaneKst.modAssoc (l : LaneKst) (a : Nat) (f : Assoc → Assoc) : LaneKst := l.setAssoc a (f (l.assoc a))
def LaneKst.recOf (l : LaneKst) (a : Nat) : Option AssocRec := l.recs.find? fun r => r.anum == a
def LaneKst.isOpen (l : LaneKst) (a : Nat) : Bool := (l.assoc a).st == .open'
def LaneKst.queue (l : LaneKst) (m : KstMsg) : LaneKst := { l with out := l.out ++ [m] }
/-- A DATA message to an association. -/
def LaneKst.data (l : LaneKst) (a mtype : Nat) (payload : Bytes) : LaneKst := l.queue ⟨a, 3, (l.assoc a).ver, mtype, none, payload⟩

/-! ### PDU fields (R317) -/

def pduVer (b : Bytes) : Nat := Bytes.le b 0 1
def pduType (b : Bytes) : Nat := Bytes.le b 1 1
def pduSrc (b : Bytes) : Nat := Bytes.le b 4 4
def pduDst (b : Bytes) : Nat := Bytes.le b 8 4
def pduSeq (b : Bytes) : Nat := Bytes.le b 0xC 4
def pduMtype (b : Bytes) : Nat := Bytes.le b 0x10 2
def pduMlen (b : Bytes) : Nat := Bytes.le b 0x12 2
def pduTs (b : Bytes) : Nat := Bytes.le b 0x14 8
def pduEcho (b : Bytes) : Nat := Bytes.le b 0x1C 8
def pduPayload (b : Bytes) : Bytes := Bytes.sub b 0x24 (pduMlen b)

/-- Bytes 0x00 to 0x23 + MLEN of a PDU. -/
def pduHead (r : AssocRec) (ver ptype seq mtype ts echo : Nat) (payload : Bytes) : Bytes :=
  leBytes 1 ver ++ leBytes 1 ptype ++ leBytes 2 r.anum ++ leBytes 4 r.localId ++ leBytes 4 r.peerId ++ leBytes 4 seq
    ++ leBytes 2 mtype ++ leBytes 2 payload.length ++ leBytes 8 ts ++ leBytes 8 echo ++ payload

/-- "JW3X-KST" (R318). -/
def kstCustom : Bytes := [0x4A, 0x57, 0x33, 0x58, 0x2D, 0x4B, 0x53, 0x54]
/-- The first 64 bits of a KMAC256 seal (R172, R318). -/
def keySeal (key x custom : Bytes) : Bytes := (Config.kmac256 key x custom).take 8

/-- Whether the seals verify (R318): `vk lane` is the peer's verification key of that lane. -/
def pduSealed (r : AssocRec) (vk : Nat → Bytes) (b : Bytes) : Bool :=
  let n := 0x24 + pduMlen b
  let x := b.take n
  let l1 := Bytes.le b n 1 % 4
  let l2 := Bytes.le b (n + 1) 1
  let ok1 := Bytes.sub b (n + 4) 8 == keySeal (vk l1) x kstCustom
  if r.pseals = 1 then ok1
  else ok1 && l2 != 0xFF && l2 % 4 != l1 && Bytes.sub b (n + 12) 8 == keySeal (vk (l2 % 4)) x kstCustom

/-- Check 1: PTYPE, length, MLEN and VER (R319). -/
def pduShape (x : Assoc) (b : Bytes) : Bool :=
  let n := pduMlen b
  let p := pduType b
  decide (1 ≤ p ∧ p ≤ 4) && b.length == 0x38 + n && decide (n ≤ (if x.ver = 1 ∧ x.st ≠ .closed then 480 else 960))
    && pduVer b == (if p = 1 then 0 else if p = 2 then Bytes.le (pduPayload b) 0 1
                    else if x.st = .closed then 0 else x.ver)

/-- The highest version in both ranges and in {1, 2}; CLASS 2 requires version 2 (R320). -/
def version (r : AssocRec) (vmin vmax : Nat) : Option Nat :=
  [2, 1].find? fun v => decide (r.vmin ≤ v ∧ v ≤ r.vmax ∧ vmin ≤ v ∧ v ≤ vmax) && !(r.cls == 2 && v == 1)

/-- The payload lengths that fit the PTYPEs other than DATA: CONNECT holds VMIN and VMAX, for CLASS 2 also LSIG; ACCEPT and CLOSE
one byte, the VSEL of an ACCEPT a version that both ends may choose (R320). -/
def pduCtlLen (r : AssocRec) (b : Bytes) : Bool :=
  if pduType b = 1 then pduMlen b == (if r.cls = 2 then 6 else 2)
  else if pduType b = 3 then true
  else if pduType b = 2 then pduMlen b == 1 && (version r (Bytes.le (pduPayload b) 0 1) (Bytes.le (pduPayload b) 0 1)).isSome
  else pduMlen b == 1

/-- Whether the state accepts the PTYPE (R502). -/
def ptypeAccepted (init : Bool) (st : AssocSt) (p : Nat) : Bool :=
  match init, st with
  | true, .closed => p == 2 || p == 4
  | true, .connecting => false
  | true, .open' => p == 3 || p == 4
  | false, .closed => p == 1
  | false, .connecting => p == 1 || p == 3 || p == 4
  | false, .open' => p == 1 || p == 3 || p == 4

/-- Checks 1 to 6 of R319 and the table of R502. `now` is MCS(a + 1). Check 4 does not bear on a CLOSE that refuses a CONNECT,
whose SEQ R502 fixes at 0 (DEDUCED, assumption log 25). -/
def pduOk (r : AssocRec) (x : Assoc) (cls now : Nat) (vk : Nat → Bytes) (b : Bytes) : Bool :=
  let p := pduType b
  pduShape x b && pduCtlLen r b && pduSrc b == r.peerId && pduDst b == r.localId && cls == r.cls && pduSealed r vk b
    && (!(p == 3 || (p == 4 && x.st != .closed))
        || decide (1 ≤ (pduSeq b + 4294967296 - x.lastSeq) % 4294967296 ∧ (pduSeq b + 4294967296 - x.lastSeq) % 4294967296 ≤ 256))
    && decide ((if x.st = .closed then 0 else x.lastTs) < pduTs b)
    && (p == 1 || decide (pduEcho b ≤ now ∧ x.lastEcho ≤ pduEcho b ∧ now - pduEcho b ≤ r.tmax * 1000000))
    && ptypeAccepted r.init x.st p

/-- The payload length a message type defines (R322); none for an unknown type; any for an application message. -/
def mtypeLen (mt : Nat) (payload : Bytes) : Option (Option Nat) :=
  if mt = 0 then some (some 0)
  else if mt = 1 ∨ mt = 2 then some (some 8)
  else if mt = 0x10 then some (some (4 + 12 * Bytes.le payload 0 2))
  else if mt = 0x11 then some (some (4 + 4 * Bytes.le payload 0 2))
  else if mt = 0x41 then some (some 24)
  else if mt = 0x42 then some (some 64)
  else if 0x100 ≤ mt ∧ mt ≤ 0x7FFF then some none
  else none

/-- Whether the table of R322 names a message type in the version of the association: version 1 has no LINK messages (R320). -/
def mtypeKnown (x : Assoc) (b : Bytes) : Bool :=
  (mtypeLen (pduMtype b) (pduPayload b)).isSome && !(x.ver == 1 && (pduMtype b == 0x10 || pduMtype b == 0x11))

/-- Whether the MLEN of such a message is the one its type defines (R322). -/
def mtypeOk (x : Assoc) (b : Bytes) : Bool :=
  mtypeKnown x b && (match mtypeLen (pduMtype b) (pduPayload b) with
    | some (some n) => pduMlen b == n
    | some none => true
    | none => false)

/-- A LINK_STATE record to be written: E-index and channel record (R325). -/
structure LinkRec where
  e : Nat
  rec' : Bytes
  deriving DecidableEq, Repr

/-- What an accepted PDU asks of the rest of the lane. -/
inductive KstEff where
  | request (anum cls amc seq : Nat) (op route : Nat) (queue : Bool) (life : Nat)
  | link (l : LinkRec)
  | note (e : Evt)
  deriving DecidableEq, Repr

/-- The KST_ROLE record (17_amber_recorder.md R470); the writer's source is filled in by the lane. -/
def kstRoleEvt (a mt : Nat) : Evt := ⟨0x7002, 0, 7, 0, 0, 0, leBytes 2 a ++ leBytes 2 mt⟩

/-- Whether the association has the role or class a message type needs (R322). -/
def roleOk (r : AssocRec) (mt : Nat) : Bool :=
  if mt = 1 then r.canRoute
  else if mt = 2 then r.canArel
  else if mt = 0x10 ∨ mt = 0x11 then r.cls == 2
  else if mt = 0x41 ∨ mt = 0x42 then r.canCommission
  else true

/-- Whether an accepted DATA PDU needs an inbox slot (R322, R324). -/
def needsSlot (r : AssocRec) (b : Bytes) : Bool :=
  let mt := pduMtype b
  pduType b == 3 && roleOk r mt && (mt == 2 || mt == 0x11 || mt == 0x41 || mt == 0x42 || decide (0x100 ≤ mt ∧ mt ≤ 0x7FFF))

/-- ROUTE_ANSWER (R322): REQSEQ and a 16-byte response. -/
def routeAnswer (reqseq : Nat) (rsp : Bytes) : Bytes := leBytes 4 reqseq ++ rsp

/-- A ROUTE_ANSWER with one of the two statuses that only it carries (R323); the response descriptor has its STATUS in
word 0 [7:0] of R64 and the route as given. -/
def refusedAnswer (status : Nat) (op route : Nat) : Bytes := 
  leBytes 4 (status + op % 256 * 65536) ++ leBytes 4 (route % 4096 + 0xFFFF0000) ++ leBytes 4 0xFFFF ++ leBytes 4 0

/-- FORCE_RESULT: the status in byte 0 and the payload echoed from byte 4 (05_change_while_running.md R145). -/
def forceResult (status : Nat) (payload : Bytes) : Bytes := leBytes 4 status ++ payload

/-- An association closes (R321, R502): the last TS stays for the ECHO of a CLOSE still to be sent; the checks take it as 0 from now on. -/
def Assoc.close (x : Assoc) : Assoc := { x with st := .closed, ver := 0, connectAt := none }

/-- An accepted CONNECT (R320): ACCEPT, or CLOSE with REASON 1 or 2. -/
def LaneKst.connect (l : LaneKst) (r : AssocRec) (ct : Nat) (b : Bytes) : LaneKst :=
  let pl := pduPayload b
  let x := (l.assoc r.anum).close
  let refuse (reason : Nat) : LaneKst :=
    (l.setAssoc r.anum x).queue ⟨r.anum, 4, 0, 0, some (pduTs b), leBytes 1 reason⟩
  match version r (Bytes.le pl 0 1) (Bytes.le pl 1 1) with
  | none => refuse 1
  | some v =>
    if r.cls = 2 ∧ Bytes.le pl 2 4 ≠ r.lsig true then refuse 2
    else
      (l.setAssoc r.anum { x with st := .connecting, ver := v, seqOut := 0, lastSeq := 0, lastTs := pduTs b, acceptedAt := ct }).queue
        ⟨r.anum, 2, v, 0, none, leBytes 1 v⟩

/-- An accepted ACCEPT opens the INIT end (R320, R502). -/
def LaneKst.acceptAns (l : LaneKst) (r : AssocRec) (ct : Nat) (b : Bytes) : LaneKst :=
  l.modAssoc r.anum fun x =>
    { x with st := .open', ver := Bytes.le (pduPayload b) 0 1, seqOut := 0, lastSeq := 0, lastTs := pduTs b,
             lastEcho := pduEcho b, acceptedAt := ct, connectAt := none }

/-- The supervision part of an accepted DATA PDU: SEQ, TS and ECHO kept, lost PDUs counted, a CONNECTING association opens. -/
def LaneKst.dataHead (l : LaneKst) (r : AssocRec) (ct : Nat) (b : Bytes) : LaneKst :=
  l.modAssoc r.anum fun x =>
    { x with st := .open', lost := x.lost + ((pduSeq b + 4294967296 - x.lastSeq) % 4294967296 - 1), lastSeq := pduSeq b,
             lastTs := pduTs b, lastEcho := pduEcho b, acceptedAt := ct }

/-- The records of a LINK_STATE for IN entries (R325). -/
def linkRecs (r : AssocRec) (payload : Bytes) : List LinkRec :=
  (List.range (Bytes.le payload 0 2)).filterMap fun n =>
    let k := Bytes.le payload (4 + 12 * n) 2
    if k < r.links.length ∧ r.linkOut k = false then some ⟨r.linkE k, Bytes.sub payload (8 + 12 * n) 8⟩ else none

/-- What the table of R322 does with an accepted DATA PDU. -/
def LaneKst.route (l : LaneKst) (r : AssocRec) (amc : Nat) (b : Bytes) : LaneKst × List KstEff :=
  let mt := pduMtype b
  let pl := pduPayload b
  if mt = 0 then (l, [])
  else if roleOk r mt = false then
    let note := KstEff.note (kstRoleEvt r.anum mt)
    if mt = 1 then (l.data r.anum 0x81 (routeAnswer (pduSeq b) (refusedAnswer 0xE0 (Bytes.le pl 0 1) (Bytes.le pl 2 2))), [note])
    else if mt = 0x41 then
      (l.data r.anum 0xC1 (forceResult 7 pl), [note])
    else (l, [note])
  else if mt = 1 then
    (l, [.request r.anum r.cls amc (pduSeq b) (Bytes.le pl 0 1) (Bytes.le pl 2 2) ((Bytes.le pl 1 1).testBit 0) (Bytes.le pl 4 4)])
  else if mt = 0x10 then (l, (linkRecs r pl).map KstEff.link)
  else ({ l with inbox := l.inbox ++ [⟨r.anum, r.cls, r.roles, mt, pduSeq b, amc, pl⟩] }, [])

/-- One PDU item: checks, then its effect; a PDU that fails is discarded and counted. -/
def LaneKst.pdu (l : LaneKst) (vk : Nat → Nat → Bytes) (now ct : Nat) (i : Item) : LaneKst × List KstEff :=
  match l.recOf i.num with
  | none => (l, [])
  | some r =>
    let x := l.assoc r.anum
    let discard := l.setAssoc r.anum { x with discarded := x.discarded + 1 }
    let p := pduType i.body
    if pduOk r x i.cls now (vk r.anum) i.body = false then (discard, [])
    else if p = 1 then (l.connect r ct i.body, [])
    else if p = 2 then (l.acceptAns r ct i.body, [])
    else if p = 4 then (if x.st = .closed then l else l.setAssoc r.anum x.close, [])
    else if mtypeKnown x i.body = false then
      ((l.dataHead r ct i.body).modAssoc r.anum fun y => { y with discarded := y.discarded + 1 }, [])
    else if mtypeOk x i.body = false then (discard, [])
    else (l.dataHead r ct i.body).route r i.amc i.body

/-- Whether an item needs an inbox slot where none of the 256 is free (R324). -/
def LaneKst.noSlot (l : LaneKst) (vk : Nat → Nat → Bytes) (now : Nat) (i : Item) : Bool :=
  match l.recOf i.num with
  | none => false
  | some r =>
    decide (256 ≤ l.inbox.length) && pduOk r (l.assoc r.anum) i.cls now (vk r.anum) i.body
      && mtypeOk (l.assoc r.anum) i.body && needsSlot r i.body

/-! ### Sending -/

/-- CONNECT of the INIT end of a CLOSED association, every 1 s (R320). -/
def LaneKst.connectSend (l : LaneKst) (a now : Nat) : LaneKst :=
  match l.recOf a with
  | none => l
  | some r =>
    let x := l.assoc a
    let due := match x.connectAt with
      | none => true
      | some t => decide (t + 1000000000 ≤ now)
    if r.init = true ∧ x.st = .closed ∧ due = true then
      let pl := leBytes 1 r.vmin ++ leBytes 1 r.vmax ++ (if r.cls = 2 then leBytes 4 (r.lsig false) else [])
      (l.setAssoc a { x with connectAt := some now }).queue ⟨a, 1, 0, 0, none, pl⟩
    else l

/-- No PDU accepted for TMAX: CLOSE with REASON 3 and the association closes (R321). -/
def LaneKst.expire (l : LaneKst) (a now : Nat) : LaneKst :=
  match l.recOf a with
  | none => l
  | some r =>
    let x := l.assoc a
    if x.st = .open' ∧ x.acceptedAt + r.tmax * 1000000 ≤ now then
      (l.queue ⟨a, 4, x.ver, 0, none, leBytes 1 3⟩).setAssoc a x.close
    else l

/-- Fill in the header of a waiting PDU for the cycle of cycle time `ct` (R317, R502). -/
def LaneKst.build (l : LaneKst) (m : KstMsg) (ct : Nat) : LaneKst × Bytes :=
  match l.recOf m.anum with
  | none => (l, [])
  | some r =>
    let x := l.assoc m.anum
    let zero := decide (m.ptype = 1 ∨ m.ptype = 2) || m.refusal.isSome
    let seq := if zero then 0 else (x.seqOut + 1) % 4294967296
    let echo := match m.refusal with
      | some e => e
      | none => if m.ptype = 1 then 0 else x.lastTs
    (l.setAssoc m.anum { x with seqOut := if zero then x.seqOut else seq, sentTs := ct },
     pduHead r m.ver m.ptype seq m.mtype ct echo m.payload)

/-- HEARTBEATs due in a cycle (R321): `b` is the whole-cycle bound of R16. -/
def LaneKst.heartbeats (l : LaneKst) (ct b : Nat) : LaneKst :=
  l.recs.foldl (fun acc r =>
    let x := acc.assoc r.anum
    if x.st = .open' ∧ (acc.out.all fun m => m.anum != r.anum) = true ∧ r.tidle * 1000000 ≤ ct + b - x.sentTs then
      acc.data r.anum 0 []
    else acc) l

/-! ### The ports (R315) -/

/-- A PRP frame: source and sequence number tell duplicates, which are discarded. -/
def KstPorts.fresh (k : KstPorts) (src seq : Nat) : Bool := !(k.seen.contains (src, seq))
def KstPorts.take (k : KstPorts) (src seq : Nat) : KstPorts := { k with seen := (k.seen ++ [(src, seq)]).drop (k.seen.length + 1 - 65536) }

/-- The record whose PEERID a PDU names (R316). -/
def KstPorts.stamp (k : KstPorts) (b : Bytes) : Option AssocRec := k.recs.find? fun r => r.peerId == pduSrc b

/-- A supervision frame is due every 2 s (R315). -/
def KstPorts.superDue (k : KstPorts) (t : Nat) : Bool :=
  match k.superAt with
  | none => true
  | some s => decide (s + 2000000000 ≤ t)

end Sys2Proof.Machine
end

