-- ==== Sys2Proof/Machine/ObxOps.lean ====
section
/-!
DEFINITION. The module's side of the Opbex network: schedule banks, minor cycles, polls, replies, echoes, synchronisation, cold
start, stars' reports (07_opbex.md R187 to R236).
-/
namespace Sys2Proof.Machine

/-! ### The schedule table (R216) -/

def ObxBank.vset (b : ObxBank) : Nat := b.mem.rd 4 4
def ObxBank.dmNom (b : ObxBank) (ch : Chan) : Nat := b.mem.rd (8 + 2 * ch.idx) 2
def ObxBank.syncSrc (b : ObxBank) (j : Nat) : Nat := b.mem.rd (0x10 + 2 * j) 2
/-- Field of the entry of node `k`, 1 to 1,024. -/
def ObxBank.ent (b : ObxBank) (k o n : Nat) : Nat := if k = 0 ∨ 1024 < k then 0 else b.mem.rd (0x40 + 32 * (k - 1) + o) n
def ObxBank.cls (b : ObxBank) (k : Nat) : Nat := b.ent k 0 1
def ObxBank.phase (b : ObxBank) (k : Nat) : Nat := b.ent k 1 1
def ObxBank.win (b : ObxBank) (k : Nat) : Nat := b.ent k 2 2
def ObxBank.nch (b : ObxBank) (k : Nat) : Nat := b.ent k 4 1
def ObxBank.fto (b : ObxBank) (k : Nat) : Nat := b.ent k 5 1
def ObxBank.pver (b : ObxBank) (k : Nat) : Nat := b.ent k 6 1
def ObxBank.nflags (b : ObxBank) (k : Nat) : Nat := b.ent k 7 1
def ObxBank.dkNom (b : ObxBank) (k : Nat) (ch : Chan) : Nat := b.ent k (8 + 2 * ch.idx) 2
def ObxBank.nkeyid (b : ObxBank) (k : Nat) : Nat := b.ent k 0xC 4
def ObxBank.phaseNode (b : ObxBank) (k : Nat) : Bool := (b.nflags k).testBit 1
def ObxBank.used (b : ObxBank) : List Nat := ((List.range 1024).map (· + 1)).filter fun k => b.cls k != 0
/-- OBX_BDIG of a bank (R218). -/
def ObxBank.digest (b : ObxBank) : Nat := b.mem.crc64 0 0 b.len

def Obx.bk (o : Obx) : ObxBank := if o.bank then o.bank1 else o.bank0
def Obx.inactive (o : Obx) : ObxBank := if o.bank then o.bank0 else o.bank1
def Obx.setInactive (o : Obx) (b : ObxBank) : Obx := if o.bank then { o with bank0 := b } else { o with bank1 := b }

/-! ### Time (R190, R191) -/

/-- The network time base at clock `t`. -/
def Obx.net (o : Obx) (t : Nat) : Nat := ((t : Int) + o.sync.total).toNat
def Obx.mcs (o : Obx) (n : Nat) : Nat := o.t0 + 4000000 * n
def Obx.majL (o : Obx) : Nat := if o.majL8 then 8 else 4
/-- Offset of a clock instant into the present minor cycle. -/
def Obx.off (o : Obx) (t : Nat) : Int := (o.net t : Int) - (o.mcs o.mcn : Int)
/-- Whether node `k` is polled in minor cycle `n` (R191). -/
def polledIn (b : ObxBank) (l k n : Nat) : Bool := b.cls k == 1 || (b.cls k == 2 && n % l == b.phase k)
/-- Opening of the node's reply window after MCS (R192). -/
def ObxBank.open' (b : ObxBank) (k : Nat) : Nat := 100000 + 2500 * b.win k

/-! ### Frames (R188, R189, R198, R205) -/

def modAddr (sid : Nat) : Nat := 0xF000 + sid
def starAddr (ch : Chan) : Nat := 0xF100 + ch.idx
def customOBC : Bytes := [0x4A, 0x57, 0x33, 0x58, 0x2D, 0x4F, 0x42, 0x43]
def customOBN : Bytes := [0x4A, 0x57, 0x33, 0x58, 0x2D, 0x4F, 0x42, 0x4E]
def customOBX : Bytes := [0x4A, 0x57, 0x33, 0x58, 0x2D, 0x4F, 0x42, 0x58]

def Frame.ok (f : Frame) : Bool := crc32c f.body == f.fcs
def ftype (b : Bytes) : Nat := Bytes.le b 0 1
def fver (b : Bytes) : Nat := Bytes.le b 1 1
def faddr (b : Bytes) : Nat := Bytes.le b 2 2
/-- Whether the length fits the type (R189, table "Opbex frame types"). -/
def flenOk (b : Bytes) : Bool :=
  let n := b.length
  match ftype b with
  | 0x01 => n == 32
  | 0x02 => n == 64
  | 0x03 => n == 64
  | 0x04 => n == 64
  | 0x10 => decide (48 ≤ n ∧ n ≤ 192)
  | 0x11 => n == 32
  | 0x20 => n == 40
  | 0x30 => n == 32
  | 0x31 => n == 32
  | 0x32 => n == 32
  | 0x40 => n == 32
  | 0x41 => n == 32
  | 0x50 => n == 64
  | 0x51 => decide (n ≤ 192)
  | 0x60 => decide (n ≤ 192)
  | 0x61 => decide (n ≤ 192)
  | _ => false
/-- The versions the module speaks (R231). -/
def fverOk (b : Bytes) : Bool := fver b == 2 || fver b == 3
/-- A frame that a receiver does not discard as an FCS error (R189), of type `ty`. -/
def Frame.good (f : Frame) (ty : Nat) : Bool := f.ok && ftype f.body == ty && flenOk f.body && fverOk f.body

def fhead (ty ver addr : Nat) : Bytes := leBytes 1 ty ++ leBytes 1 ver ++ leBytes 2 addr
/-- A frame body with its link seal appended (R205). -/
def linkSealed (key b : Bytes) : Bytes := b ++ keySeal key b customOBC
/-- Whether the seal in the last 8 bytes verifies (R205). -/
def sealedBy (key : Bytes) (custom b : Bytes) : Bool :=
  let n := b.length - 8
  decide (8 ≤ b.length) && b.drop n == keySeal key (b.take n) custom
def linkOk (key b : Bytes) : Bool := sealedBy key customOBC b

/-- CYC (R202). -/
def cycFrame (sid mcn claim l bank flags inst : Nat) : Bytes :=
  fhead 0x01 3 (modAddr sid) ++ leBytes 8 mcn ++ leBytes 8 claim ++ leBytes 1 l ++ leBytes 1 bank ++ leBytes 2 flags
    ++ leBytes 8 inst
def cycMcn (b : Bytes) : Nat := Bytes.le b 4 8
def cycClaim (b : Bytes) : Nat := Bytes.le b 0xC 8
def cycL (b : Bytes) : Nat := Bytes.le b 0x14 1
def cycBank (b : Bytes) : Nat := Bytes.le b 0x15 1
def cycFlags (b : Bytes) : Nat := Bytes.le b 0x16 2
def cycInst (b : Bytes) : Nat := Bytes.le b 0x18 8
/-- STBY, GRANT and COLD (R203). -/
def claimFrame (ty addr claim mcn arg0 arg1 : Nat) (key : Bytes) : Bytes :=
  linkSealed key (fhead ty 3 addr ++ leBytes 8 claim ++ leBytes 4 mcn ++ leBytes 4 arg0 ++ leBytes 4 arg1)
def cfClaim (b : Bytes) : Nat := Bytes.le b 4 8
def cfMcn (b : Bytes) : Nat := Bytes.le b 0xC 4
def cfArg0 (b : Bytes) : Nat := Bytes.le b 0x10 4
def cfArg1 (b : Bytes) : Nat := Bytes.le b 0x14 4
/-- NPOLL and HPOLL (R199, R200). -/
def nullPoll (ty ver k claim mcn : Nat) : Bytes := fhead ty ver k ++ leBytes 8 claim ++ leBytes 4 mcn ++ leBytes 48 0
/-- ECHO and ECHOR (R204). -/
def echoFrame (ty addr mcn dlyA dlyB win : Nat) (key : Bytes) : Bytes :=
  linkSealed key (fhead ty 3 addr ++ leBytes 4 mcn ++ leBytes 4 dlyA ++ leBytes 4 dlyB ++ leBytes 2 win ++ leBytes 6 0)
def echoWin (b : Bytes) : Nat := Bytes.le b 0x10 2
/-- SYNC (R204); the signed fields in 32-bit two's complement. -/
def i32b (v : Int) : Bytes := leBytes 4 (v % 4294967296).toNat
def syncFrame (addr mcn idx : Nat) (sendoff corr rate : Int) (key : Bytes) : Bytes :=
  linkSealed key (fhead 0x20 3 addr ++ leBytes 4 mcn ++ leBytes 1 idx ++ leBytes 3 0 ++ i32b sendoff ++ i32b corr ++ i32b rate
    ++ leBytes 8 0)

/-- What a controller's action has for effects outside the controllers. -/
inductive ObxOut where
  | send (d : Dest) (b : Bytes)
  | item (ch : Chan) (i : Item)
  | evt (e : Evt)
  | irq (m : Word32)
  | err (code level : Nat)
  | viol (ch : Chan) (n : Nat)
  deriving DecidableEq, Repr

def obxSrc (ch : Chan) : Nat := 7 + ch.idx
def irqCP : Word32 := 1
def irqSWITCH : Word32 := 2
def irqCHAN : Word32 := 4
def irqPORT : Word32 := 8
def irqSYNC : Word32 := 16
def irqVER : Word32 := 32

/-- A frame sent on both channels. -/
def bothCh (b : Bytes) : List ObxOut := [.send (.opbex .a) b, .send (.opbex .b) b]

/-! ### What the master knows of delays (R196, R197) -/

def ObxCh.node (c : ObxCh) (k : Nat) : NodeCh := SMap.get NodeCh.reset c.nodes k
def ObxCh.setNode (c : ObxCh) (k : Nat) (n : NodeCh) : ObxCh := { c with nodes := SMap.set NodeCh.reset c.nodes k n }
/-- dm: the measured delay, or the nominal one before a measurement. -/
def Obx.dm (o : Obx) (ch : Chan) : Int := if (o.ch ch).dmKnown then (o.ch ch).dm else (o.bk.dmNom ch : Int)
def Obx.dk (o : Obx) (ch : Chan) (k : Nat) : Int :=
  let n := (o.ch ch).node k
  if n.known then n.dk else (o.bk.dkNom k ch : Int)
/-- The poll instant after MCS (R194). -/
def Obx.pollOff (o : Obx) (ch : Chan) (k : Nat) : Int :=
  (o.bk.open' k : Int) - o.dm ch - 2 * o.dk ch k - 508 + ((o.ch ch).node k).tau
/-- Whether the master polls the node on this channel in this minor cycle (R191, R196, R221). -/
def Obx.polls (o : Obx) (ch : Chan) (k : Nat) : Bool :=
  let n := (o.ch ch).node k
  o.master && o.started && (o.ch ch).state != 0 && polledIn o.bk o.majL k o.mcn && n.portOff.isNone && !n.dev

/-! ### Minor cycles (R190, R191, R202, R218) -/

/-- The number of the next minor cycle to start. -/
def Obx.nextN (o : Obx) : Nat := if o.started then o.mcn + 1 else o.mcn

/-- A bank switch whose boundary is minor cycle `n` or earlier takes effect (R218): every trim is kept. -/
def Obx.doSwitch (o : Obx) (n : Nat) : Obx × Bool :=
  match o.swAt with
  | some b => if b ≤ n then ({ o with bank := !o.bank, swAt := none }, true) else (o, false)
  | none => (o, false)

/-- The channel's books of a minor cycle begin anew; those of a major cycle where `major`. -/
def ObxCh.newCycle (c : ObxCh) (major : Bool) : ObxCh :=
  { c with srpt := false, echo0 := false, expected := [], replied := [], polls := [], echoes := [],
           nodes := if major then (c.nodes.map fun p => (p.1, { p.2 with edgeLast := p.2.edge, edge := 0 })).filter
                                  fun p => p.2 != NodeCh.reset
                    else c.nodes }

/-- The ages of R234 (OBX_NODEST.AGE), one minor cycle older, saturating at 15. -/
def Obx.agedNodes (o : Obx) : SMap Nat := o.bk.used.map fun k => (k, min 15 (SMap.get 0 o.ages k + 1))

/-- MCSn (R190, R202). `full` says that the service state is FULL. -/
def Obx.minorStart (o : Obx) (t sid : Nat) (full : Bool) : Obx × List ObxOut :=
  let n := o.nextN
  if o.running = false ∨ o.net t < o.mcs n then (o, [])
  else
    let (o1, sw) := o.doSwitch n
    let l8 := if n % 8 = 0 ∧ o1.master = true then !full else o1.majL8
    let major := n % (if l8 then 8 else 4) == 0
    let o2 : Obx := { o1 with mcn := n, started := true, majL8 := l8, passed := [], ages := o1.agedNodes,
                              chA := o1.chA.newCycle major, chB := o1.chB.newCycle major, sync := { o1.sync with ds := [] } }
    let flags := b2n o2.hpoll + 2 * b2n (o2.first && n == 0)
    let cyc := if o2.master then
        bothCh (cycFrame sid n o2.claim o2.majL (b2n o2.bank) flags (o2.mcs n))
      else []
    (o2, cyc ++ (if sw then [.irq irqSWITCH] else []))

/-- The boundary at which a switch requested at clock `t` takes effect (R218). -/
def Obx.switchAt (o : Obx) (t : Nat) : Nat :=
  let b := (o.mcn / o.majL + 1) * o.majL
  if o.net t + 4000000 ≤ o.mcs b then b else b + o.majL

/-! ### Polls (R27, R195, R215) -/

/-- The poll of a node: HPOLL in HELD and before the first sealed set, NPOLL where the newest set has no frame for it (R25),
else the newest sealed frame. -/
def Obx.pollFrame (o : Obx) (k ver : Nat) : Bytes :=
  let m := o.mcn % 4294967296
  if o.hpoll then nullPoll 0x04 ver k o.claim m
  else
    match o.frames.find k with
    | some f => if o.nulled.contains k then nullPoll 0x03 ver k o.claim m else f
    | none => nullPoll 0x03 ver k o.claim m

/-- The channel controller builds the poll, 5 µs before its window (R195). -/
def Obx.assemble (o : Obx) (ch : Chan) (k t ver : Nat) : Obx :=
  if o.polls ch k = true ∧ o.pollOff ch k - 5000 ≤ o.off t then
    let c := o.ch ch
    o.setCh ch { c with polls := c.polls.put k (o.pollFrame k ver) }
  else o

/-- The assembled poll goes out at its instant (R194); its reply is expected from then on. -/
def Obx.sendPoll (o : Obx) (ch : Chan) (k t : Nat) : Obx × List ObxOut :=
  let c := o.ch ch
  match c.polls.find k with
  | some f =>
    if o.master = true ∧ o.pollOff ch k ≤ o.off t then
      (o.setCh ch { c with polls := c.polls.del k, expected := c.expected ++ [k] }, [.send (.opbex ch) f])
    else (o, [])
  | none => (o, [])

/-! ### Replies (R196, R211) -/

def replyNch (b : Bytes) : Nat := Bytes.le b 0x16 1
def replyDiag (b : Bytes) : Bool := (Bytes.le b 0x14 2).testBit 4
def replyMcn (b : Bytes) : Nat := Bytes.le b 4 4
def replyNseq (b : Bytes) : Nat := Bytes.le b 8 4
/-- The checks of R211 besides FCS: NODE, MCN, length. -/
def Obx.replyOk (o : Obx) (b : Bytes) : Bool :=
  o.bk.cls (faddr b) != 0 && replyMcn b == o.mcn % 4294967296
    && (if ftype b = 0x11 then b.length == 32
        else ftype b == 0x10 && b.length == 40 + 8 * replyNch b + (if replyDiag b && fver b != 2 then 24 else 0))

/-- The trim rules of R196 on a reply that started at clock `t`. -/
def Obx.trim (o : Obx) (ch : Chan) (k t : Nat) : Obx × List ObxOut :=
  let c := o.ch ch
  let n := c.node k
  let pos := o.off t - o.dm ch - (o.bk.open' k : Int)
  let e := pos - 400
  let edge := decide (pos < 150 ∨ 718 < pos)
  let n1 : NodeCh := if edge then { n with edge := n.edge + 1 } else n
  let out1 : List ObxOut :=
    if edge && n.edge == 0 then
      [.err 3 7, .evt (mkEvt 0x4003 (obxSrc ch) 7 0 (leBytes 2 k ++ leBytes 1 ch.idx ++ i32b pos))]
    else []
  let tau := n1.tau - e
  if e.natAbs ≤ 100 then (o.setCh ch (c.setNode k n1), out1)
  else if tau.natAbs ≤ 900 then (o.setCh ch (c.setNode k { n1 with tau := tau }), out1)
  else
    (o.setCh ch (c.setNode k { n1 with dev := true }),
     out1 ++ [.err 4 7, .evt (mkEvt 0x4002 (obxSrc ch) 7 0 (leBytes 2 k ++ leBytes 1 ch.idx ++ i32b n1.tau))])

/-- A reply on one channel: checks, trim, and the arbiter's pass of the first good copy (R211). -/
def Obx.reply (o : Obx) (ch : Chan) (t : Nat) (f : Frame) : Obx × List ObxOut :=
  let b := f.body
  let k := faddr b
  if (f.good 0x10 || f.good 0x11) = false then (o, [.err 1 7])
  else if o.replyOk b = false then (o, [.err 2 7])
  else
    let c := o.ch ch
    let o1 := o.setCh ch { c with replied := if c.expected.contains k && !(c.replied.contains k) then c.replied ++ [k] else c.replied }
    let (o2, out) := if o1.master then o1.trim ch k t else (o1, [])
    if o2.passed.contains k then (o2, out)
    else
      ({ o2 with passed := o2.passed ++ [k], ages := SMap.put o2.ages k 0 },
       out ++ [.item ch ⟨o2.mcn, 7, k, replyNseq b, .reply, b⟩])

/-- The minor-cycle marker item at MCSn + 3,880 µs (R211): the MCN and the count of missed replies. -/
def Obx.marker (o : Obx) (ch : Chan) (t : Nat) : List ObxOut :=
  if o.started = false ∨ o.off t < 3880000 then []
  else
    let c := o.ch ch
    [.item ch ⟨o.mcn, 7, 0, o.mcn % 4294967296, .marker,
      leBytes 8 o.mcn ++ leBytes 2 ((c.expected.filter fun k => !(c.replied.contains k)).length)⟩]

/-- The end of a minor cycle on a channel (R214); `light` says that light or lock was lost for more than 100 µs. -/
def Obx.judge (o : Obx) (ch : Chan) (light : Bool) : Obx × Option Nat :=
  let c := o.ch ch
  let d := o.ch ch.other
  let missing := c.expected.filter fun k => !(c.replied.contains k)
  let oneSided := missing.filter fun k => d.replied.contains k
  let c1 : ObxCh := { c with miss := missing.length }
  if o.master = false then (o, none)
  else if c.state = 2 then
    (if (!c.srpt && !c.echo0) || light || decide (c.expected.length < 2 * oneSided.length) then
       (o.setCh ch { c1 with state := 3 }, some 3)
     else (o.setCh ch c1, none))
  else if c.state = 3 then
    (if c.srpt && decide (9 * c.expected.length ≤ 10 * c.replied.length) then (o.setCh ch { c1 with state := 2 }, some 2)
     else (o.setCh ch c1, none))
  else (o.setCh ch c1, none)

/-! ### Echoes (R197) -/

/-- The target of an echo window (R197): 0 is the star, none where no node is to be measured. -/
def Obx.echoTarget (o : Obx) (ch : Chan) (w : Nat) : Option Nat :=
  let c := o.ch ch
  let devs := (o.bk.used.filter fun k => (c.node k).dev).take 14
  if w = 0 then some 0
  else if 15 < w then none
  else if w ≤ devs.length then devs[w - 1]?
  else
    let others := o.bk.used.filter fun k => !(devs.contains k)
    match others.find? (fun k => decide (c.echoNext < k)) with
    | some k => some k
    | none => others.head?

/-- The master sends the ECHO of a window. -/
def Obx.sendEcho (o : Obx) (ch : Chan) (w t sid : Nat) (key : Bytes) : Obx × List ObxOut :=
  if o.master = false ∨ o.started = false then (o, [])
  else
    match o.echoTarget ch w with
    | none => (o, [])
    | some k =>
      let c := o.ch ch
      let devs := ((o.bk.used.filter fun x => (c.node x).dev).take 14).length
      let d (x : Chan) : Nat := if k = 0 then (o.dm x).toNat else (o.dk x k).toNat
      (o.setCh ch { c with echoes := c.echoes.put w (k, t), echoNext := if k = 0 ∨ w ≤ devs then c.echoNext else k },
       [.send (.opbex ch) (echoFrame 0x40 (if k = 0 then modAddr sid else k) (o.mcn % 4294967296) (d .a) (d .b) w key)])

/-- An ECHOR arrives (R197); `key` is the answering end's link key. -/
def Obx.echor (o : Obx) (ch : Chan) (t : Nat) (f : Frame) (key : Bytes) : Obx × List ObxOut :=
  let b := f.body
  let c := o.ch ch
  if (f.good 0x41) = false then (o, [.err 1 7])
  else if linkOk key b = false then (o, [])
  else
    match c.echoes.find (echoWin b) with
    | none => (o, [])
    | some (k, sent) =>
      let half : Int := ((t : Int) - (sent : Int) - 652) / 2
      if k = 0 then
        (if faddr b = starAddr ch then
           (o.setCh ch { c with dm := half, dmKnown := true, echo0 := c.echo0 || echoWin b == 0,
                                echoes := c.echoes.del (echoWin b) }, [])
         else (o, []))
      else if faddr b = k then
        let n := c.node k
        let dk := half - o.dm ch
        let back := n.dev && decide ((dk - (o.bk.dkNom k ch : Int)).natAbs ≤ 450)
        (o.setCh ch ({ c with echoes := c.echoes.del (echoWin b) }.setNode k
           { n with dk := dk, known := true, dev := if back then false else n.dev }), [])
      else (o, [])

/-! ### Star management (R198, R221, R349) -/

/-- The content of an SMGT as bytes (the model's layout, assumption log 40). -/
def smgtFrame (sid mcn : Nat) (m : Smgt) (key : Bytes) : Bytes :=
  let body := fhead 0x50 3 (modAddr sid) ++ leBytes 4 mcn ++ leBytes 1 (b2n m.handover) ++ leBytes 1 m.enables.length
    ++ (m.enables.take 20).flatMap (leBytes 2)
  linkSealed key (Bytes.pad body 56)

/-- The master sends the SMGT of the minor cycle, with the enables and the handover it has to give. -/
def Obx.sendSmgt (o : Obx) (ch : Chan) (sid : Nat) (key : Bytes) : Obx × List ObxOut :=
  if o.master = false ∨ o.started = false then (o, [])
  else
    let c := o.ch ch
    (o.setCh ch { c with enables := c.enables.drop 20 },
     [.send (.opbex ch) (smgtFrame sid (o.mcn % 4294967296) ⟨c.enables.take 20, o.handover.isSome⟩ key)])

/-- A node port as its star reports it (R221). -/
def ObxCh.report (c : ObxCh) (t : Nat) (r : Srpt) : ObxCh :=
  let ks := (c.nodes.map (·.1)) ++ r.disabled.filter fun k => !((c.nodes.map (·.1)).contains k)
  ks.foldl (fun (a : ObxCh) k =>
    let n := a.node k
    if r.disabled.contains k then (if n.portOff.isNone then a.setNode k { n with portOff := some t, ordered := false } else a)
    else if n.portOff.isSome then a.setNode k { n with portOff := none, ordered := false }
    else a) c

/-- A valid SRPT arrives: evidence of the channel, port reports, violations, acknowledgement (R198, R214, R221, R349). -/
def Obx.srpt (o : Obx) (ch : Chan) (t : Nat) (f : Frame) (r : Srpt) (key : Bytes) : Obx × List ObxOut :=
  if f.good 0x51 = false then (o, [.err 1 7])
  else if (linkOk key f.body && faddr f.body == starAddr ch) = false then (o, [])
  else
    let c := o.ch ch
    let fresh := r.disabled.filter fun k => (c.node k).portOff.isNone
    let o1 := o.setCh ch { c.report t r with srpt := true }
    ({ o1 with acks := if r.ack then o1.acks.set ch true else o1.acks },
     (if fresh = [] then [] else [.irq irqPORT])
       ++ fresh.map (fun k => .evt (mkEvt 0x4005 (obxSrc ch) 7 0 (leBytes 1 ch.idx ++ leBytes 2 k)))
       ++ (if r.viols = 0 then [] else [.err 5 7, .viol ch r.viols]))

/-- The re-enable of a disabled port (R221): 10 s after it was disabled, at most three times per hour. -/
def Obx.reenable (o : Obx) (ch : Chan) (k t : Nat) : Obx :=
  let c := o.ch ch
  let n := c.node k
  let recent := n.reenabled.filter fun x => decide (t < x + 3600000000000)
  match n.portOff with
  | none => o
  | some s =>
    if o.master = true ∧ n.ordered = false ∧ s + 10000000000 ≤ t ∧ recent.length < 3 then
      o.setCh ch ({ c with enables := c.enables ++ [k] }.setNode k { n with ordered := true, reenabled := recent ++ [t] })
    else o

/-- The port enable command of mailbox group 0x07 (R221). -/
def Obx.enablePort (o : Obx) (ch : Chan) (k : Nat) : Obx :=
  let c := o.ch ch
  let n := c.node k
  if n.portOff.isNone then o
  else o.setCh ch ({ c with enables := c.enables ++ [k] }.setNode k { n with ordered := true, reenabled := [] })

/-! ### Clock synchronisation (R223 to R226), for every participant -/

/-- The nominal start of sync window `j` after MCS. -/
def syncOff (j : Nat) : Nat := 2702000 + 10000 * j

/-- A measured deviation (R224): the channel A copy counts, the B copy where there is no valid A copy. -/
def Sync.take (s : Sync) (j : Nat) (ch : Chan) (d : Int) : Sync :=
  if 20000 < d.natAbs then s
  else
    match s.ds.find j with
    | some (_, .a) => s
    | _ => if ch = .a ∨ (s.ds.find j).isNone then { s with ds := s.ds.put j (d, ch) } else s

/-- Insert into a rising list. -/
def insertInt (x : Int) : List Int → List Int
  | [] => [x]
  | y :: r => if x ≤ y then x :: y :: r else y :: insertInt x r
def sortInt (l : List Int) : List Int := l.foldr insertInt []

/-- The fault-tolerant average (R225): none with fewer than three values. -/
def ftAverage (l : List Int) : Option Int :=
  if l.length < 3 then none
  else
    let m := ((sortInt l).drop 1).dropLast
    some ((m.foldl (· + ·) 0).tdiv (m.length : Int))

def clampI (lim v : Int) : Int := if v < -lim then -lim else if lim < v then lim else v

/-- The values of a minor cycle by source index, the own value 0 included where the participant is source `own`. -/
def Sync.values (s : Sync) (own : Option Nat) : List (Nat × Int) :=
  let l := s.ds.map fun p => (p.1, p.2.1)
  match own with
  | some j => l.filter (fun p => p.1 != j) ++ [(j, 0)]
  | none => l

/-- The offset correction at MCSn + 3,940 µs (R225): the new state, and the sources to be recorded with their deviation. -/
def Sync.correct (s : Sync) (own : Option Nat) : Sync × List (Nat × Int) :=
  let vs := s.values own
  match ftAverage (vs.map (·.2)) with
  | none =>
    let n := min 15 (s.loss + 1)
    ({ s with loss := n, nval := vs.length, ok := s.ok && decide (n < 8) }, [])
  | some avg =>
    let c := clampI 5000 (-avg)
    let far := vs.filter fun p => decide (1000 < (p.2 - avg).natAbs)
    let streak : SMap Nat := far.foldl (fun m p => SMap.put m p.1 (SMap.get 0 s.streak p.1 + 1)) []
    ({ s with c := c, csum := s.csum + c, loss := 0, nval := vs.length, streak := streak, total := s.total + c, ok := true },
     (far.filter fun p => SMap.get 0 streak p.1 == 3).map fun p => (p.1, p.2 - avg))

/-- The rate correction at a major-cycle boundary (R226), in ppb. -/
def Sync.rateUp (s : Sync) (l : Nat) : Sync :=
  { s with rate := clampI 100000 (s.rate + (s.csum * 1000).tdiv ((4 * l : Nat) : Int)), csum := 0 }

/-- The sync index of an address in the schedule's list (R216). -/
def ObxBank.syncIdx (b : ObxBank) (addr : Nat) : Option Nat := (List.range 8).find? fun j => b.syncSrc j == addr

/-! ### Cold start (R227 to R229) -/

/-- The sending period of COLD in µs (R228). -/
def coldPeriod (sid : Nat) : Nat := 1000 + 50 * (sid % 16)

/-- The start of listening (R227). -/
def Obx.listen (o : Obx) (t : Nat) : Obx :=
  let up (c : ObxCh) : ObxCh := { c with state := if c.state = 0 then c.state else 1 }
  { o with listenSince := some t, chA := up o.chA, chB := up o.chB }

/-- A valid CYC sets the network time base (R229, R238): the instant it names, one delay after it was sent. -/
def Obx.adopt (o : Obx) (ch : Chan) (t : Nat) (b : Bytes) : Obx :=
  let up (c : ObxCh) : ObxCh := { c with state := if c.state = 1 then 2 else c.state }
  { o with t0 := cycInst b - 4000000 * cycMcn b, mcn := cycMcn b, started := true, running := true, first := false,
           majL8 := cycL b == 8, sync := { o.sync with total := (cycInst b : Int) + o.dm ch - (t : Int) },
           listenSince := none, cold := none, chA := up o.chA, chB := up o.chB }

/-- The first multiple of 4 ms of network time at least 4 ms ahead (R229). -/
def firstT0 (now : Nat) : Nat := (now + 4000000 + 3999999) / 4000000 * 4000000

/-- The module becomes master from a cold start (R229). -/
def Obx.lead (o : Obx) (claim t : Nat) : Obx :=
  let up (c : ObxCh) : ObxCh := { c with state := if c.state = 1 then 2 else c.state }
  { o with claim := claim, master := true, running := true, started := false, first := true, hpoll := true, mcn := 0,
           t0 := firstT0 (o.net t), cold := none, listenSince := none, majL8 := true, chA := up o.chA, chB := up o.chB }

/-! ### Lane view (R234, R235) -/

/-- The cycle points of a lane take their new definitions with the minor cycle (R235). -/
def ObxLane.newCycle (l : ObxLane) : ObxLane := { l with cps := l.cpNext }
/-- Whether point `k` fires at offset `us` in minor cycle `n` of majors of length `maj` (R235). -/
def ObxLane.fires (l : ObxLane) (k n maj us : Nat) : Bool :=
  let w := l.cps.getD k 0
  l.ctrl.getLsbD 1 && w.testBit 31 && bits w 11 0 == us && decide (us ≤ 3999)
    && (!(w.testBit 15) || (decide (bits w 14 12 < maj) && n % maj == bits w 14 12))
/-- A firing counts modulo 16 and raises OBX_IRQ.CP (R235). -/
def ObxLane.fire (l : ObxLane) (k : Nat) : ObxLane :=
  let c := bits l.cpcnt.toNat (4 * k + 3) (4 * k)
  { l with cpcnt := BitVec.ofNat 32 (l.cpcnt.toNat - c * 2 ^ (4 * k) + (c + 1) % 16 * 2 ^ (4 * k)), irq := l.irq ||| irqCP }
def ObxLane.error (l : ObxLane) (code level : Nat) : ObxLane := { l with errcap := captureErr l.errcap code level }

/-- OBX_STAT (R234). -/
def Obx.stat (o : Obx) : Word32 :=
  BitVec.ofNat 32 ((claimOf o.claim).role % 8 + 16 * (o.chA.state % 4) + 64 * (o.chB.state % 4) + 256 * b2n o.majL8
    + 512 * b2n o.bank + 1024 * b2n o.swAt.isSome + 2048 * b2n o.sync.ok + 4096 * b2n o.hpoll)
/-- OBX_SYNC (R234). -/
def Obx.syncReg (o : Obx) : Word32 :=
  BitVec.ofNat 32 (o.sync.nval % 16 + 16 * o.sync.loss + 65536 * ((o.sync.c % 65536).toNat))
def Obx.rateReg (o : Obx) : Word32 := BitVec.ofInt 32 o.sync.rate
/-- OBX_NODEST of node `k` at present version `ver` (R234). -/
def Obx.nodest (o : Obx) (k ver : Nat) : Word32 :=
  let a := o.chA.node k
  let b := o.chB.node k
  let np (n : NodeCh) : Nat := b2n (n.portOff.isSome || n.dev)
  let tr (n : NodeCh) : Nat := ((n.tau.tdiv 8) % 256).toNat
  BitVec.ofNat 32 (o.bk.cls k % 4 + 4 * np a + 8 * np b + 16 * (ver % 16) + 256 * tr a + 65536 * tr b
    + 16777216 * min 15 (a.edgeLast + b.edgeLast) + 268435456 * min 15 (SMap.get 0 o.ages k))

end Sys2Proof.Machine
end

