-- ==== Sys2Proof/Machine/OpalOps.lean ====
section
/-!
DEFINITION. What an Opal share does: the phase count, its events at a zero crossing, the snapshot and the hand-over of the
window shadows (08_phase_and_time.md R243 to R257).
-/
namespace Sys2Proof.Machine

/-- Nominal supply frequency as N / D Hz, for FREQ 1 to 4 (R245). -/
def freqND (freq : Nat) : Nat × Nat :=
  match freq with
  | 1 => (50, 3)
  | 2 => (50, 1)
  | 3 => (60, 1)
  | 4 => (250, 3)
  | _ => (50, 1)

/-- The phase count of R245: ⌊t × 1,024 × N / (D × 10^9)⌋. -/
def nominalTicks (freq t : Nat) : Nat := t * 1024 * (freqND freq).1 / ((freqND freq).2 * 1000000000)

/-- The phase count at clock `t`; it never decreases. -/
def Phi.at (p : Phi) (t : Nat) : Nat := p.base + (t - p.instant) * p.num / p.den

/-- The nominal period of a supply cycle in ns, rounded down. -/
def periodNs (freq : Nat) : Nat := 1000000000 * (freqND freq).2 / (freqND freq).1

/-- The anchor from which Φ advances at exactly 1,024 × f_n ticks per second (R244, synthetic). -/
def Phi.synthetic (freq base t : Nat) : Phi :=
  { base := base, instant := t, num := 1024 * (freqND freq).1, den := (freqND freq).2 * 1000000000 }

/-- The anchor from which Φ advances at a measured frequency in mHz, `corr` ticks more or fewer over the next cycle. -/
def Phi.measured (mhz base t : Nat) (corr : Int) : Phi :=
  { base := base, instant := t, num := (1024 + corr).toNat * mhz, den := 1000000000000 }

def Opal.freqSel (o : Opal) : Nat := bits o.cfg.toNat 2 0
def Opal.inmask (o : Opal) : Nat := bits o.cfg.toNat 5 4
def Opal.ph2off (o : Opal) : Nat := bits o.cfg.toNat 25 16
def Opal.en (o : Opal) : Bool := o.ctrl.getLsbD 0
/-- Φ at clock `t`. -/
def Opal.phiAt (o : Opal) (t : Nat) : Nat := o.phi.at t
/-- OPL_STAT. -/
def Opal.stat (o : Opal) : Word32 :=
  BitVec.ofNat 32 (o.mode % 4 + 4 * (o.ref % 4) + 16 * b2n o.shArmed + 32 * b2n o.late + (min o.steps 255) <<< 8)
def Opal.raise (o : Opal) (m : Word32) : Opal := { o with irq := o.irq ||| m }
def oplMODE : Word32 := 1
def oplSTEP : Word32 := 2
def oplHAND : Word32 := 4
def oplINPUT : Word32 := 8
def oplERR : Word32 := 16
def Opal.error (o : Opal) (code level : Nat) : Opal :=
  { o with errcap := captureErr o.errcap code level, irq := o.irq ||| oplERR }

/-- The signed difference of two ticks, −512 to 511. -/
def tickDiff (a b : Nat) : Int :=
  let d := (a + 1024 - b % 1024) % 1024
  if d < 512 then (d : Int) else (d : Int) - 1024

/-- Whether a measured frequency lies within ±4 % of nominal (R243). -/
def freqOk (freq mhz : Nat) : Bool :=
  let n := (freqND freq).1
  let d := (freqND freq).2
  decide (96 * 1000 * n ≤ 100 * mhz * d ∧ 100 * mhz * d ≤ 104 * 1000 * n)

/-- Validity of one input over one supply cycle (R243): 8 consecutive good cycles make it valid, 2 consecutive cycles that
fail the first or the second condition make it invalid. -/
def SenseIn.cycle (s : SenseIn) (used cond12 cond3 : Bool) (amp mhz : Nat) (dev : Int) : SenseIn :=
  let s1 : SenseIn := { s with amp := amp, mhz := mhz, dev := dev }
  if !used then { s1 with valid := false, good := 0, bad := 0 }
  else
    let good := if cond12 && cond3 then s.good + 1 else 0
    let bad := if cond12 then 0 else s.bad + 1
    { s1 with good := good, bad := bad, valid := if s.valid then decide (bad < 2) else decide (good ≥ 8) }

/-- What an Opal zero-crossing evaluation reports: mode changes and steps, with the step size (R247). -/
structure PhaseEvent where
  changed : Bool
  stepped : Option Nat
  deriving DecidableEq, Repr

/-- The forward step of a first lock or re-lock (R247). -/
def Opal.stepForward (o : Opal) (t tick mhz : Nat) : Opal × Nat :=
  let p := o.phiAt t
  let n := (tick % 1024 + 1024 - p % 1024) % 1024
  ({ o with phi := Phi.measured mhz (p + n) t 0, mode := 0, steps := min 255 (o.steps + 1), jumpRun := 0, flyCycles := 0,
            flyStable := 0, disagree := 0 }, n)

/-- Synthetic mode from the present Φ (R244, R247). -/
def Opal.toSynthetic (o : Opal) (t : Nat) : Opal :=
  { o with phi := Phi.synthetic o.freqSel (o.phiAt t) t, mode := 1, ref := 0, freqMhz := 0, jumpRun := 0, flyCycles := 0,
           flyStable := 0, disagree := 0 }

/-- One evaluation at an expected zero crossing of the reference input (R243, R244, R247). `amp`, `mhz` and `ph` are what the
converters measured on each input: the fundamental in % of rated, its frequency, and its phase tick at `t`. -/
def Opal.crossing (o : Opal) (t amp1 mhz1 ph1 amp2 mhz2 ph2 : Nat) : Opal × PhaseEvent :=
  let f := o.freqSel
  let p0 := o.phiAt t
  let ph2a := (ph2 + 1024 - o.ph2off % 1024) % 1024
  let use1 := o.inmask.testBit 0
  let use2 := o.inmask.testBit 1
  let in1 := o.in1.cycle use1 (decide (amp1 ≥ 30) && freqOk f mhz1) true amp1 mhz1 (tickDiff ph1 p0)
  let near := !in1.valid || decide ((tickDiff ph2a ph1).natAbs ≤ 16)
  let in2 := o.in2.cycle use2 (decide (amp2 ≥ 30) && freqOk f mhz2) near amp2 mhz2 (tickDiff ph2a p0)
  let o1 : Opal := { o with in1 := in1, in2 := in2 }
  let o2 := if in1.valid != o.in1.valid || in2.valid != o.in2.valid then o1.raise oplINPUT else o1
  let o3 := if o.in1.valid && !in1.valid then o2.error 0x01 7 else o2
  let o4 := if o.in2.valid && !in2.valid then o3.error 0x02 7 else o3
  -- inputs disagree: both valid, more than 16 ticks apart, 4 consecutive cycles
  let apart := in1.valid && in2.valid && decide ((tickDiff ph2a ph1).natAbs > 16)
  let dis := if apart then o.disagree + 1 else 0
  let o5 : Opal := { o4 with disagree := dis }
  let near1 := decide ((tickDiff ph1 p0).natAbs ≤ 8)
  let near2 := decide ((tickDiff ph2a p0).natAbs ≤ 8)
  let o6 : Opal × Bool :=
    if dis ≥ 4 then
      let oe := ({ o5 with disagree := 0 } : Opal).error 0x03 7
      let drop1 (x : Opal) : Opal := { x with in1 := { x.in1 with valid := false, good := 0 }, ref := 2 }
      let drop2 (x : Opal) : Opal := { x with in2 := { x.in2 with valid := false, good := 0 }, ref := 1 }
      if near1 && near2 then ((if oe.ref = 2 then drop1 oe else drop2 oe), false)
      else if near1 then (drop2 oe, false)
      else if near2 then (drop1 oe, false)
      else ((oe.toSynthetic t).error 0x05 7, true)
    else (o5, false)
  let forcedSyn := o6.2
  let o7 := o6.1
  -- the reference input: PHS1, or PHS2 where PHS1 is not in use or not valid (R244); it changes without a step
  let refValid := (o7.ref = 1 ∧ o7.in1.valid) ∨ (o7.ref = 2 ∧ o7.in2.valid)
  let ref := if o7.in1.valid then 1 else if o7.in2.valid then 2 else 0
  let kept := ref == o7.ref
  let tick := if ref = 2 then ph2a else ph1
  let mhz := if ref = 2 then mhz2 else mhz1
  let res : Opal × Option Nat :=
    if forcedSyn then (o7, none)
    else if ref = 0 then
      if o7.mode = 1 then ({ o7 with ref := 0, freqMhz := 0 }, none) else ((o7.toSynthetic t).error 0x05 7, none)
    else
      let oA : Opal := { o7 with ref := ref, freqMhz := mhz }
      if o7.mode = 1 then
        let r := oA.stepForward t tick mhz
        (r.1, some r.2)
      else if o7.mode = 2 then
        if !refValid then
          -- the reference was lost in the flywheel: the other input becomes the reference, no step
          ({ oA with mode := 0, jumpRun := 0, flyCycles := 0, flyStable := 0,
                     phi := Phi.measured mhz p0 t (max (-4) (min 4 (tickDiff tick p0))) }, none)
        else
          let still := kept && decide ((tickDiff tick o7.flyLast).natAbs ≤ 8)
          let stable := if still then o7.flyStable + 1 else 0
          let cyc := o7.flyCycles + 1
          if stable ≥ 4 then
            let r := oA.stepForward t tick mhz
            (r.1, some r.2)
          else if cyc ≥ 16 then ((oA.toSynthetic t).error 0x05 7, none)
          else ({ oA with flyCycles := cyc, flyStable := stable, flyLast := tick }, none)
      else
        let d := tickDiff tick p0
        let far := decide (d.natAbs > 32)
        let run := if far then (if kept then o7.jumpRun + 1 else 1) else 0
        if decide (run ≥ 2) then
          -- jump: flywheel at the last measured frequency
          ((({ oA with mode := 2, jumpRun := 0, flyCycles := 0, flyStable := 0, flyLast := tick, freqMhz := o7.freqMhz,
                       phi := Phi.measured o7.freqMhz p0 t 0 } : Opal)).error 0x04 7, none)
        else ({ oA with jumpRun := run, phi := Phi.measured mhz p0 t (max (-4) (min 4 d)) }, none)
  let o8 := res.1
  let o9 := if o8.mode != o.mode then o8.raise oplMODE else o8
  let o10 := match res.2 with
    | some _ => o9.raise oplSTEP
    | none => o9
  (o10, ⟨o8.mode != o.mode, res.2⟩)

/-- OPL_CTRL.EN set at clock `t`: Φ starts in synthetic mode from module time `mt` (R245). -/
def Opal.enable (o : Opal) (t mt : Nat) : Opal :=
  { o with ctrl := o.ctrl ||| 1, mode := 1, ref := 0, phi := Phi.synthetic o.freqSel (nominalTicks o.freqSel mt) t }

/-- OPL_CWIN of a phase configuration (R255). -/
def PhCfg.cwin (c : PhCfg) : Word32 := BitVec.ofNat 32 (c.cadv % 256 + (c.guardUs % 4096) <<< 8)
/-- OPL_CFG of a phase configuration (R242, R256). -/
def PhCfg.word (c : PhCfg) : Word32 := BitVec.ofNat 32 (c.freq % 8 + (c.inmask % 4) <<< 4 + (c.ph2off % 1024) <<< 16)

/-- The lane runtime brings its Opal share into use where it does not run yet: PHCFG written, EN set, the windows handed over (R242,
R255). -/
def Opal.bringUp (o : Opal) (c : PhCfg) (t mt : Nat) : Opal :=
  if o.en then o
  else
    let w := { o.shadow with cwin := c.cwin }
    (({ o with cfg := c.word, shadow := w, active := w, shArmed := false } : Opal).enable t mt).raise oplHAND

/-- The supply-cycle count of Φ at `t`. -/
def Opal.cycleAt (o : Opal) (t : Nat) : Nat := o.phiAt t / 1024

/-- Tick 0 of the target supply cycle: the five shadows become active together (R255). -/
def Opal.handover (o : Opal) : Opal :=
  if o.shArmed then
    ({ o with active := o.shadow, shArmed := false, late := o.shLate, shLate := false } : Opal).raise oplHAND
  else o

/-- OPL_SHCOMMIT written with GO (R255): armed for TGT; a GO at or after the target instant takes effect at the next tick 0. -/
def Opal.armShadow (o : Opal) (t tgt : Nat) : Opal :=
  let c := o.cycleAt t
  -- the target is past when TGT lies in the half of the 16-bit counts that ends at the present one
  let past := decide ((c + 65536 - tgt % 65536) % 65536 < 32768)
  { o with shTgt := if past then (c + 1) % 65536 else tgt % 65536, shArmed := true, shLate := past }

/-- OPL_SNAP (R256). -/
def Opal.snapshot (o : Opal) (t : Nat) (laneTime : Nat) : Opal :=
  { o with snapT := laneTime, snapPhc := o.phiAt t, snapSt := o.mode }

/-- The reading a lane offers as measured value entry 1 (R246). -/
def Opal.reading (o : Opal) : Nat := ((o.snapPhc : Int) + 1024 * o.offset).toNat

/-- The supply-cycle offset that brings this share's reading within ±512 ticks of the ACTIVE reading (R246), and the
remaining difference. -/
def Opal.offsetTo (o : Opal) (active : Nat) : Int × Nat :=
  let d : Int := (active : Int) - (o.snapPhc : Int)
  let k := (d + 512) / 1024
  (k, (d - 1024 * k).natAbs)

/-- The agreed phase count where entry 1 is not validly agreed (R246). -/
def phaseAdvance (freq prev prevTime now : Nat) : Nat :=
  prev + (now - prevTime) * 1024 * (freqND freq).1 / ((freqND freq).2 * 1000000000)

/-- The shortest tick in units of 1/1000 ns, as in the table "Phase ticks": nominal / 1.04, to 0.1 ns. -/
def tickMinTenthNs (freq : Nat) (synthetic : Bool) : Nat × Nat :=
  -- as a fraction of ns: (numerator, denominator)
  match freq, synthetic with
  | 1, false => (563401, 10)
  | 2, false => (187800, 10)
  | 3, false => (156500, 10)
  | 4, false => (112680, 10)
  | 1, true => (5859375, 100)
  | 3, true => (1627604, 100)
  | 4, true => (1171875, 100)
  | _, true => (1953125, 100)
  | _, false => (187800, 10)

/-- The commit index of R249 from R (the latest bound of the polls' ends), CTIME and the agreed phase count. -/
def commitIndex (c : PhCfg) (synthetic : Bool) (ctime phase r : Nat) : Nat :=
  let tm := tickMinTenthNs c.freq synthetic
  let span := (r + 1000 * c.guardUs - ctime) * tm.2
  let e := phase + (span + tm.1 - 1) / tm.1 + 8
  let x := (e + c.cadv) % 512
  if x = 0 then e else e + (512 - x)

end Sys2Proof.Machine
end

