-- ==== Sys2Proof/Program.lean ====
section
/-!
DEFINITION. What a station program may ask of the lane runtime (04_interlocking_programs.md R89, R95, R104). The lane machine code
itself is not in the manual, so a program is a function, without a body, from its code and the answers received so far to the
next thing it asks for (assumption log 7).
-/
namespace Sys2Proof

/-- The integer operations of R104. -/
inductive AluOp where
  | add | sub | mul | div | rem | and | or | xor | shl | shr | sar
  deriving DecidableEq, Repr

/-- One thing a program does. `readInst` and `writeInst` take offsets in the instance data space, `readIn` offsets in the agreed
input image, `readOut` and `writeOut` offsets in the output image; `block` calls a system block on an instance of the instance
table; `enter` and `leave` bracket the call of an application block on its instance (R117); `exception` is an exception of R99 by
kind and code offset. -/
inductive ProgOp where
  | alu (op : AluOp) (width : Nat) (signed : Bool) (a b : Nat)
  | readIn (off n : Nat)
  | readInst (off n : Nat)
  | writeInst (off n v : Nat)
  | readOut (off n : Nat)
  | writeOut (off n v : Nat)
  | block (inst : Nat) (args : List Nat)
  | enter (inst : Nat)
  | leave
  | beryl (op route : Nat) (queue : Bool) (arg0 arg1 arg2 : Nat)
  | planeWr (arg0 mask value : Nat)
  | planeRd (which word : Nat)
  | now
  | phase
  | record (code : Nat) (param : Bytes)
  | exception (kind off : Nat)
  | halt
  deriving DecidableEq, Repr, Inhabited

/-- What the code of a program does next: code, entry point, answers so far (newest first). -/
opaque Config.progNext : Bytes → Nat → List (List Nat) → ProgOp

/-- Two's-complement reading of the low `w` bits. -/
def toSigned (w v : Nat) : Int := if v % 2 ^ w < 2 ^ (w - 1) then ((v % 2 ^ w : Nat) : Int) else ((v % 2 ^ w : Nat) : Int) - ((2 ^ w : Nat) : Int)

/-- The result of an integer operation, and whether ARITH is set (R104): overflow wraps, a shift by the width or more gives 0,
division or remainder by zero gives 0 and sets ARITH. -/
def aluRes (op : AluOp) (w : Nat) (sgn : Bool) (a b : Nat) : Nat × Bool :=
  let wrap (v : Int) : Nat := (v % ((2 ^ w : Nat) : Int)).toNat
  let x : Int := if sgn then toSigned w a else ((a % 2 ^ w : Nat) : Int)
  let y : Int := if sgn then toSigned w b else ((b % 2 ^ w : Nat) : Int)
  let u := a % 2 ^ w
  let v := b % 2 ^ w
  match op with
  | .add => (wrap (x + y), false)
  | .sub => (wrap (x - y), false)
  | .mul => (wrap (x * y), false)
  | .div => if y = 0 then (0, true) else (wrap (x.tdiv y), false)
  | .rem => if y = 0 then (0, true) else (wrap (x.tmod y), false)
  | .and => (u &&& v, false)
  | .or => (u ||| v, false)
  | .xor => (u ^^^ v, false)
  | .shl => (if w ≤ v then 0 else u * 2 ^ v % 2 ^ w, false)
  | .shr => (if w ≤ v then 0 else u / 2 ^ v, false)
  | .sar => (if w ≤ v then 0 else wrap (toSigned w a / ((2 ^ v : Nat) : Int)), false)

end Sys2Proof
end

