-- ==== Sys2Proof/Machine/LaneOps.lean ====
section
/-!
DEFINITION. A lane's memories by their layouts: station and work regions, input and output image, PROG and INST sections, instance
data with its force check and changed-line marks (02_station_image.md R44, 04_interlocking_programs.md R90 to R96, R100, R101,
05_change_while_running.md R146).
-/
namespace Sys2Proof.Machine

/-! ### Places in lane DRAM (the manual gives their sizes, R94; the addresses are the model's, assumption log 28) -/

def b2k (r : Bool) (k : Nat) : Nat := if r then k else 0
def stnBase (r : Bool) : Nat := 0x10000000 + b2k r 0x10000000
def wrkBase (r : Bool) : Nat := 0x19000000 + b2k r 0x10000000
def codeBase (r : Bool) : Nat := 0xE0000000 + b2k r 0x08000000
def instBase (r : Bool) : Nat := 0xE4000000 + b2k r 0x08000000
def shadowBase (k : Nat) : Nat := 0xF0000000 + k % 2 * 0x200000

/-- The station the lane runtime reads. -/
def LaneSt.stn (l : LaneSt) : Stn := ⟨l.dram, stnBase l.region, wrkBase l.region⟩
/-- The bridge tables of the running image, in lane DRAM behind the station region's tables: read from the image itself. -/
def LaneSt.brt (l : LaneSt) : Brt :=
  match l.img with
  | some b => match b.section' 0xA with
    | some s => ⟨b.mem, s.off⟩
    | none => ⟨[], 0⟩
  | none => ⟨[], 0⟩

/-! ### Output image (R101) -/

def outImg : Nat := 0x200000
def outRec (e : Nat) : Nat := outImg + 16 * e
def outLocal (k : Nat) : Nat := outImg + 0x40000 + 4 * k
def outRsp (k : Nat) : Nat := outImg + 0x44000 + 16 * k
def outKst (s : Nat) : Nat := outImg + 0x48000 + 1024 * s
def outBrg (k : Nat) : Nat := outImg + 0x88000 + 8 * k
/-- Local input area (R269). -/
def inLio (c : Nat) : Nat := inImg + 0x8C000 + 16 * c
def inLioOut (o : Nat) : Nat := inImg + 0x8C600 + 8 * o
def inLioFn (f : Nat) : Nat := inImg + 0x8C780 + 8 * f
def inReq (k : Nat) : Nat := inImg + 0x44000 + 32 * k
def inBox (k : Nat) : Nat := inImg + 0x4C000 + 1024 * k

/-! ### PROG and INST (R90, R91) -/

/-- Field of a section of an image; 0 where the section is absent. -/
def Blob.secF (b : Blob) (sid o n : Nat) : Nat :=
  match b.section' sid with
  | some s => b.le (s.off + o) n
  | none => 0
def Blob.secBytes (b : Blob) (sid o n : Nat) : Bytes :=
  match b.section' sid with
  | some s => b.bytes (s.off + o) n
  | none => []
def Blob.instF (b : Blob) (o n : Nat) : Nat := b.secF 9 o n
def Blob.iCount (b : Blob) : Nat := b.instF 0 4
def Blob.vCount (b : Blob) : Nat := b.instF 4 4
def Blob.idataLen (b : Blob) : Nat := b.instF 8 4
def Blob.tcmLen (b : Blob) : Nat := b.instF 0xC 4
def Blob.rsegOff (b : Blob) : Nat := b.instF 0x10 4
def Blob.rsegLen (b : Blob) : Nat := b.instF 0x14 4
def Blob.initLen (b : Blob) : Nat := b.instF 0x18 4
/-- Field of instance `i`. -/
def Blob.inst (b : Blob) (i o n : Nat) : Nat := b.instF (0x40 + 32 * i + o) n
def Blob.iIid (b : Blob) (i : Nat) : Nat := b.inst i 0 8
def Blob.iTsig (b : Blob) (i : Nat) : Nat := b.inst i 8 4
def Blob.iType (b : Blob) (i : Nat) : Nat := b.inst i 0xC 2
def Blob.iRet (b : Blob) (i : Nat) : Bool := (b.inst i 0xE 2).testBit 0
def Blob.iOff (b : Blob) (i : Nat) : Nat := b.inst i 0x10 4
def Blob.iSize (b : Blob) (i : Nat) : Nat := b.inst i 0x14 4
def Blob.iInit (b : Blob) (i : Nat) : Nat := b.inst i 0x18 4
def Blob.iPnum (b : Blob) (i : Nat) : Nat := b.inst i 0x1C 2
/-- Field of variable directory entry `j`. -/
def Blob.var (b : Blob) (j o n : Nat) : Nat := b.instF (0x40 + 32 * b.iCount + 16 * j + o) n
def Blob.vVid (b : Blob) (j : Nat) : Nat := b.var j 0 4
def Blob.vOff (b : Blob) (j : Nat) : Nat := b.var j 4 4
def Blob.vType (b : Blob) (j : Nat) : Nat := b.var j 8 1
def Blob.vRetain (b : Blob) (j : Nat) : Bool := (b.var j 9 1).testBit 0
def Blob.vForceable (b : Blob) (j : Nat) : Bool := (b.var j 9 1).testBit 1
def Blob.vSize (b : Blob) (j : Nat) : Nat := b.var j 0xA 2
def Blob.vInst (b : Blob) (j : Nat) : Nat := b.var j 0xC 4
def Blob.vars (b : Blob) : List Nat := List.range (min b.vCount 262144)
def Blob.insts (b : Blob) : List Nat := List.range (min b.iCount 65536)
def Blob.varOf (b : Blob) (vid : Nat) : Option Nat := b.vars.find? fun j => b.vVid j == vid
/-- The initial value of instance `i` (R91). -/
def Blob.initOf (b : Blob) (i : Nat) : Bytes :=
  b.secBytes 9 (0x40 + 32 * b.iCount + 16 * b.vCount + b.iInit i) (b.iSize i)
def Blob.pCount (b : Blob) : Nat := b.secF 8 0 2
/-- Field of program entry `k`. -/
def Blob.prog (b : Blob) (k o n : Nat) : Nat := b.secF 8 (0x40 + 64 * k + o) n
def Blob.pNum (b : Blob) (k : Nat) : Nat := b.prog k 0 2
def Blob.pArs (b : Blob) (k : Nat) : Bool := (b.prog k 2 2).testBit 0
def Blob.pEntry (b : Blob) (k : Nat) : Nat := b.prog k 4 4
def Blob.pWcet (b : Blob) (k : Nat) : Nat := b.prog k 0x14 4
def Blob.pCode (b : Blob) (k : Nat) : Bytes := b.secBytes 8 (b.prog k 8 8) (b.prog k 0x10 4)
/-- The program entry of program `p`. -/
def Blob.progOf (b : Blob) (p : Nat) : Option Nat := (List.range (min b.pCount 64)).find? fun k => b.pNum k == p

/-- The running image, or an empty one. -/
def LaneSt.image (l : LaneSt) : Blob := l.img.getD ⟨0, []⟩

/-! ### Instance data (R94, R119, R146) -/

/-- Instance data below TCM_LEN lies in tightly coupled SRAM, the rest in DRAM (R94). -/
def LaneSt.rdInst (l : LaneSt) (o n : Nat) : Nat :=
  if o < l.image.tcmLen then l.tcm.rd (0x400000 + o) n else l.dram.rd (instBase l.region + (o - l.image.tcmLen)) n

/-- The 256-byte lines of the retain segment that `[o, o + n)` touches (R119). -/
def retainLines (b : Blob) (o n : Nat) : List Nat :=
  if n = 0 ∨ o + n ≤ b.rsegOff ∨ b.rsegOff + b.rsegLen ≤ o then []
  else (List.range ((o + n - 1 - b.rsegOff) / 256 + 1)).filter fun k => decide ((o - b.rsegOff) / 256 ≤ k)

def addLines (ls ns : List Nat) : List Nat := ls ++ ns.filter fun k => !(ls.contains k)

/-- A write to instance data as it stands in memory; a line that changes is marked. -/
def LaneSt.wrInstRaw (l : LaneSt) (o n v : Nat) : LaneSt :=
  let b := l.image
  let ls := if l.rdInst o n = v % 2 ^ (8 * n) then [] else retainLines b o n
  let rt := { l.rt with dirty := addLines l.rt.dirty ls }
  if o < b.tcmLen then { l with tcm := l.tcm.wr (0x400000 + o) n v, rt := rt }
  else { l with dram := l.dram.wr (instBase l.region + (o - b.tcmLen)) n v, rt := rt }

/-- Every forced variable takes its forced value (R146): a write to it is dropped while it is forced. -/
def LaneSt.holdForces (l : LaneSt) : LaneSt :=
  (l.rt.forces.filter fun f => f.kind == 1).foldl (fun (l : LaneSt) f =>
    match l.image.varOf f.key with
    | some j => l.wrInstRaw (l.image.vOff j) (l.image.vSize j) f.value
    | none => l) l

/-- A write by a program, a system block or the runtime's force check. -/
def LaneSt.wrInst (l : LaneSt) (o n v : Nat) : LaneSt := (l.wrInstRaw o n v).holdForces

/-- The instances a byte range of the instance data space lies in. -/
def Blob.instAt (b : Blob) (o n : Nat) : Option Nat := b.insts.find? fun i => decide (b.iOff i ≤ o ∧ o + n ≤ b.iOff i + b.iSize i)

/-- One byte, or a field, of an instance body. -/
def LaneSt.bodyRd (l : LaneSt) (i o n : Nat) : Nat := l.rdInst (l.image.iOff i + o) n
def LaneSt.bodyWr (l : LaneSt) (i o n v : Nat) : LaneSt := l.wrInst (l.image.iOff i + o) n v
/-- ISTATE.FIRST (R92). -/
def LaneSt.first (l : LaneSt) (i : Nat) : Bool := (l.bodyRd i 0xC 4).testBit 0
def LaneSt.clearFirst (l : LaneSt) (i : Nat) : LaneSt := l.bodyWr i 0xC 4 (l.bodyRd i 0xC 4 - b2n (l.first i))

/-! ### Images and planes -/

def LaneSt.rdOut (l : LaneSt) (o n : Nat) : Nat := l.tcm.rd (outImg + o) n
def LaneSt.wrOut (l : LaneSt) (o n v : Nat) : LaneSt := { l with tcm := l.tcm.wr (outImg + o) n v }
def LaneSt.rdIn (l : LaneSt) (o n : Nat) : Nat := l.tcm.rd (inImg + o) n
def LaneSt.wrIn (l : LaneSt) (o n v : Nat) : LaneSt := { l with tcm := l.tcm.wr (inImg + o) n v }
/-- An element command record: CMD, SEQ, ARG (R101). -/
def LaneSt.cmd (l : LaneSt) (e : Nat) : Nat := l.tcm.rd (outRec e) 2
def LaneSt.cmdSeq (l : LaneSt) (e : Nat) : Nat := l.tcm.rd (outRec e + 2) 2
def LaneSt.cmdArg (l : LaneSt) (e : Nat) : Nat := l.tcm.rd (outRec e + 4) 4
/-- A new command: CMD, ARG, a new SEQ, no commit index yet (R102). -/
def LaneSt.command (l : LaneSt) (e cmd arg : Nat) : LaneSt :=
  { l with tcm := (((l.tcm.wr (outRec e) 2 cmd).wr (outRec e + 2) 2 (l.cmdSeq e + 1)).wr (outRec e + 4) 4 arg).clear (outRec e + 8) 8 }
def LaneSt.eBit (l : LaneSt) (p e : Nat) : Bool := (l.beryl.el.get p).getLsbD e
def LaneSt.rBit (l : LaneSt) (q r : Nat) : Bool := (l.beryl.rt.get q).getLsbD r

/-- An Amber record of the lane, staged in the cycle (R30). -/
def LaneSt.stage (l : LaneSt) (e : Evt) : LaneSt := { l with rt := { l.rt with recs := l.rt.recs ++ [e] } }
def LaneSt.stageAll (l : LaneSt) (es : List Evt) : LaneSt := { l with rt := { l.rt with recs := l.rt.recs ++ es } }

/-! ### Beryl through the runtime (R63, R95, R109) -/

/-- Issue a descriptor and take every answer it brings: its own first, then the UNSOL ones. The tag is the next one (R109). -/
def LaneSt.issue (l : LaneSt) (d : Desc) : LaneSt × Option Rsp × List Rsp :=
  let b0 := (l.beryl.accept { d with tag := l.rt.tag % 256 }).flushPre
  let r := if b0.accepted = [] ∨ b0.regs.faulted = true then (b0, l.tcm) else b0.decideHead (b0.stn l.dram) l.tcm
  let rsps := r.1.answers.map (·.rsp)
  let b1 : Beryl := { r.1 with answers := [], tags := r.1.tags.filter (· != l.rt.tag % 256) }
  ({ l with beryl := b1, tcm := r.2, rt := { l.rt with tag := (l.rt.tag + 1) % 256 } },
   rsps.find? fun x => !x.unsol, rsps.filter (·.unsol))

/-- The STATUS and WHO of an answer; a Beryl that gives none counts as not ready. -/
def rspOf (r : Option Rsp) : Nat × Nat :=
  match r with
  | some x => (x.status, x.who)
  | none => (stNOTREADY, none16)

/-- A descriptor of class 5 with the next SEQ of the program (R66, R108). -/
def LaneSt.desc5 (l : LaneSt) (p op route : Nat) (queue : Bool) (a0 a1 a2 : Nat) : Desc :=
  { op := op, tag := 0, queue := queue, cls := 5, num := p, route := route, amc := l.rt.amc, seq := l.rt.pseq, arg0 := a0, arg1 := a1,
    arg2 := a2, rsv := false }

/-- An UNSOL answer is routed to the instance that received QUEUED for its route, or to the association of its ROUTE_OP (R109,
R323). -/
def LaneSt.unsolOne (l : LaneSt) (r : Rsp) : LaneSt :=
  let l1 : LaneSt := match l.rt.unsol.find r.route with
    | some i => { l with rt := { l.rt with unsol := l.rt.unsol.del r.route, waiting := l.rt.waiting.put i (65536 * r.who + r.status) } }
    | none => l
  match l1.rt.kstReq.find r.route with
  | some (a, seq) =>
    let l2 : LaneSt := { l1 with rt := { l1.rt with kstReq := l1.rt.kstReq.del r.route } }
    if l2.kst.isOpen a then { l2 with kst := l2.kst.data a 0x81 (routeAnswer seq (leBytes 16 r.word)) }
    else { l2 with kst := l2.kst.modAssoc a fun x => { x with dropped := x.dropped + 1 } }
  | none => l1
def LaneSt.unsolAll (l : LaneSt) (rs : List Rsp) : LaneSt := rs.foldl LaneSt.unsolOne l

/-- A class 5 descriptor issued, its UNSOL answers routed. -/
def LaneSt.beryl5 (l : LaneSt) (p op route : Nat) (queue : Bool) (a0 a1 a2 : Nat) : LaneSt × Nat × Nat :=
  let r := l.issue (l.desc5 p op route queue a0 a1 a2)
  let l1 : LaneSt := { r.1 with rt := { r.1.rt with pseq := l.rt.pseq + 1 } }
  let a := rspOf r.2.1
  (l1.unsolAll r.2.2, a.1, a.2)

/-- One bit of an element plane (or, from 0x80, a route plane) through PLANE_WR; the status (R76, R95). -/
def LaneSt.planeBit (l : LaneSt) (p plane idx : Nat) (v : Bool) : LaneSt × Nat :=
  let m := 2 ^ (idx % 32)
  let r := l.beryl5 p opPLANEWRITE 0 false (plane + idx / 32 * 256) m (if v then m else 0)
  (r.1, r.2.1)

/-- PLANE_RD: planes 0 to 31 and 0x80 to 0x8F, and LKN, LKR, FLN, FLR as 0x90 to 0x93 (R69, R95). -/
def LaneSt.planeWord (l : LaneSt) (which word : Nat) : Nat :=
  if which < 32 then ((l.beryl.el.get which).toNat >>> (32 * word)) % 2 ^ 32
  else if 0x80 ≤ which ∧ which < 0x90 then ((l.beryl.rt.get (which - 0x80)).toNat >>> (32 * word)) % 2 ^ 32
  else
    let row : ERow := if which = 0x90 then l.beryl.ws.lkn else if which = 0x91 then l.beryl.ws.lkr
      else if which = 0x92 then l.beryl.ws.fln else if which = 0x93 then l.beryl.ws.flr else 0
    (row.toNat >>> (32 * word)) % 2 ^ 32

/-- NOW (R105): the cycle time in µs. -/
def LaneSt.now (l : LaneSt) : Nat := l.rt.ctime / 1000

end Sys2Proof.Machine
end

