-- ==== Sys2Proof/Machine/LioOps.lean ====
section
/-!
DEFINITION. What the local I/O controller and the output drive logic do (09_local_safety_io.md R258 to R292): bands and
channel states, supplies, counting, safety functions, gates, LOCAL-SAFE, switch tests and the measured value window.
-/
namespace Sys2Proof.Machine

/-! ### The SPS body (R286) -/

def Lio.inF (l : Lio) (c o n : Nat) : Nat := Bytes.le l.sps (0x40 + 8 * c + o) n
def Lio.outF (l : Lio) (k o n : Nat) : Nat := Bytes.le l.sps (0x340 + 8 * k + o) n
def Lio.fnF (l : Lio) (f o n : Nat) : Nat := Bytes.le l.sps (0x4C0 + 32 * f + o) n
def Lio.tsilMs (l : Lio) : Nat := Bytes.le l.sps 2 2
def Lio.steady (l : Lio) : Bool := (Bytes.le l.sps 4 1).testBit 0
def Lio.inUse (l : Lio) (c : Nat) : Nat := l.inF c 0 1
def Lio.outUsed (l : Lio) (o : Nat) : Bool := l.outF o 0 1 == 1
def Lio.outSafety (l : Lio) (o : Nat) : Bool := l.outF o 1 1 == 1
def Lio.fnKind (l : Lio) (f : Nat) : Nat := l.fnF f 0 1

def Lio.inCh (l : Lio) (c : Nat) : InChan := l.ins.getD c InChan.reset
def Lio.outCh (l : Lio) (o : Nat) : OutChan := l.outs.getD o OutChan.reset
def Lio.tpSup (l : Lio) (g : Nat) : TpSup := l.tp.getD g TpSup.reset
def Lio.modIn (l : Lio) (c : Nat) (f : InChan → InChan) : Lio := { l with ins := l.ins.modify c f }
def Lio.modOut (l : Lio) (o : Nat) (f : OutChan → OutChan) : Lio := { l with outs := l.outs.modify o f }
def Lio.modTp (l : Lio) (g : Nat) (f : TpSup → TpSup) : Lio := { l with tp := l.tp.modify g f }
def Lio.modFeed (l : Lio) (b : Nat) (f : FeedBank → FeedBank) : Lio := { l with feed := l.feed.modify b f }

/-- Raise interrupt bits in every lane's view. -/
def Lio.raise (l : Lio) (m : Word32) : Lio := { l with lanes := l.lanes.map fun v => { v with irq := v.irq ||| m } }
/-- An error code in every lane's LIO_ERRCAP. -/
def Lio.error (l : Lio) (code level : Nat) : Lio :=
  { l with lanes := l.lanes.map fun v => { v with errcap := captureErr v.errcap code level } }
def lioINCH : Word32 := 1
def lioOUTCH : Word32 := 2
def lioGATE : Word32 := 4
def lioBANK : Word32 := 8
def lioTP : Word32 := 16
def lioLSAFE : Word32 := 32
def lioCTL : Word32 := 64

/-! ### Bands and dark pulses (R259, R260, R263) -/

def bandBREAK : Nat := 0
def bandINVALID : Nat := 1
def bandOFF : Nat := 2
def bandON : Nat := 3
def bandNone : Nat := 9

/-- The band of a current in µA (R259); the edges 1.8 and 3.2 mA count as INVALID (DESIGN CHOICE, assumption log 20). -/
def bandOf (ua : Nat) : Nat :=
  if ua < 1000 then bandBREAK
  else if ua ≤ 1800 then bandINVALID
  else if ua < 3200 then bandOFF
  else if ua ≤ 6000 then bandINVALID
  else bandON

/-- Whether slot-time `t` lies in a dark slot of supply `g`, and the time into that slot in ns. -/
def Lio.darkSlot (l : Lio) (g t : Nat) : Option Nat :=
  if t < l.frameStart then none
  else
    let u := t - l.frameStart
    let frame := u / 40000000
    let slot := u % 40000000 / 500000
    let off := u % 500000
    if g = 0 ∧ l.steady = true then (if slot = 2 ∧ frame % 25 = 0 then some off else none)
    else if slot = 10 * g + 2 ∨ slot = 10 * g + 7 then some off else none

/-- Whether `t` lies in a dark pulse of supply `g` (100 to 400 µs into its slot). -/
def Lio.inPulse (l : Lio) (g t : Nat) : Bool :=
  match l.darkSlot g t with
  | some o => decide (100000 ≤ o ∧ o < 400000)
  | none => false

/-- Whether a dark pulse of TP0 lay between two instants. -/
def Lio.darkBetween (l : Lio) (t0 t1 : Nat) : Bool :=
  (List.range ((t1 - t0) / 500000 + 2)).any fun k =>
    let u := t0 + 500000 * k
    match l.darkSlot 0 (min u t1) with
    | some o => decide (t0 ≤ min u t1 - o + 400000 ∧ min u t1 - o + 100000 ≤ t1)
    | none => false

/-! ### Input states (R265, R266, R279) -/

def stOFF : Nat := 0
def stON : Nat := 1
def stBREAK : Nat := 2
def stINVALID : Nat := 3
def stCROSS : Nat := 4
def stDISC : Nat := 5
def stTFAIL : Nat := 6
def stUNUSED : Nat := 7

def InChan.enter (c : InChan) (st fc : Nat) : InChan := { c with state := st, fcode := fc, fresh := false }

/-- The state and fault code a band leads to. -/
def stateOfBand (b : Nat) : Nat × Nat :=
  if b = bandOFF then (stOFF, 0) else if b = bandON then (stON, 0) else if b = bandINVALID then (stINVALID, 2)
  else (stBREAK, 1)

/-- The state a channel takes from how long its band has been held (R265). -/
def Lio.settled (l : Lio) (c t : Nat) (x : InChan) : InChan :=
  let heldMs := (t - x.since) / 1000000
  let st := (stateOfBand x.band).1
  let fc := (stateOfBand x.band).2
  if l.inUse c = 0 ∨ x.state = stUNUSED ∨ x.band = bandNone then x
  else if x.fresh then
    if x.freshChecked ∧ (st = stOFF ∨ st = stON) then x.enter st fc
    else if x.freshChecked ∧ heldMs ≥ 5 then x.enter st fc
    else x
  else if x.state = stOFF ∨ x.state = stON then
    let need := if st = stOFF then l.inF c 2 1 else if st = stON then l.inF c 1 1 else 5
    if heldMs ≥ need then x.enter st fc else x
  else if x.state = stBREAK ∨ x.state = stINVALID then
    if (st = stOFF ∨ st = stON) ∧ heldMs ≥ 100 then x.enter st fc else x
  else if x.state = stCROSS then
    if x.resetReq ∧ x.cleanChecks ≥ 2 then { x.enter st fc with resetReq := false } else x
  else if x.state = stTFAIL then
    if x.resetReq ∧ x.rightRun ≥ 8 then { x.enter st fc with resetReq := false } else x
  else x

def Lio.settle (l : Lio) (c t : Nat) : Lio := l.modIn c (l.settled c t)

/-- A fault state entered unless a state of higher code stands. -/
def InChan.fault (x : InChan) (st fc : Nat) : InChan :=
  if x.state = stUNUSED ∨ x.state > st then x
  else { x.enter st fc with resetReq := false, cleanChecks := 0, rightRun := if st = stTFAIL then 0 else x.rightRun }

/-- Whether two partners are in their mode (R266). -/
def pairInMode (mode a b : Nat) : Bool :=
  if mode = 2 then (a == stON && b == stOFF) || (a == stOFF && b == stON)
  else (a == stON && b == stON) || (a == stOFF && b == stOFF)

/-- The pairs (lower channel, partner). -/
def Lio.pairs (l : Lio) : List (Nat × Nat) :=
  (List.range 96).filterMap fun c =>
    let p := l.inF c 3 1
    if l.inUse c ≠ 0 ∧ p ≠ 0xFF ∧ p < 96 ∧ c < p then some (c, p) else none

/-- Bring the pair timers up to date, and end DISC where the safe combination has stood for 100 ms (R265, R266). -/
def Lio.watchPairs (l : Lio) (t : Nat) : Lio :=
  l.pairs.foldl (fun l p =>
    let x := l.inCh p.1
    let y := l.inCh p.2
    let mode := l.inF p.1 4 1
    let safe := x.band == bandOFF && (if mode = 2 then y.band == bandON else y.band == bandOFF)
    let out :=
      if pairInMode mode x.state y.state then l.pairOut.del p.1
      else if (l.pairOut.find p.1).isSome then l.pairOut else l.pairOut.put p.1 t
    let sf := if safe then (if (l.pairSafe.find p.1).isSome then l.pairSafe else l.pairSafe.put p.1 t)
              else l.pairSafe.del p.1
    let l1 : Lio := { l with pairOut := out, pairSafe := sf }
    match sf.find p.1 with
    | some s0 =>
      if t - s0 ≥ 100000000 then
        let leave (z : InChan) : InChan :=
          if z.state = stDISC then z.enter (stateOfBand z.band).1 (stateOfBand z.band).2 else z
        (l1.modIn p.1 leave).modIn p.2 leave
      else l1
    | none => l1) l

/-- Bring the end-position timers of SLP functions up to date (R285). -/
def Lio.watchSlp (l : Lio) (t : Nat) : Lio :=
  let upd (f : Nat) (s : SfState) : SfState :=
    if l.fnKind f ≠ 2 then s
    else
      let a := (l.inCh (l.fnF f 1 1)).state
      let b := (l.inCh (l.fnF f 2 1)).state
      let hold (c : Bool) (o : Option Nat) : Option Nat := if c then (match o with | some v => some v | none => some t) else none
      let n := a == stON && b == stOFF
      let r := a == stOFF && b == stON
      { s with nSince := hold n s.nSince, rSince := hold r s.rSince, bothOn := hold (a == stON && b == stON) s.bothOn,
               endN := s.endN && n, endR := s.endR && r }
  { l with banks := l.banks.map fun k => { k with fns := k.fns.mapIdx upd } }

/-- The records and interrupts that follow from channel state changes (R265, R274; record 0x6001). -/
def Lio.changes (old new : Lio) : Lio × List Evt :=
  let ev (dir c st fc : Nat) : Evt :=
    { code := 0x6001, src := 5, level := 3, unitNo := 0, transport := 0, flags := 0,
      param := [BitVec.ofNat 8 dir, BitVec.ofNat 8 c, BitVec.ofNat 8 st, BitVec.ofNat 8 fc] }
  let ins := (List.range 96).filterMap fun c =>
    let x := new.inCh c
    if x.state ≠ (old.inCh c).state ∧ 2 ≤ x.state ∧ x.state ≤ 6 then some (ev 0 c x.state x.fcode) else none
  let outs := (List.range 48).filterMap fun o =>
    let x := new.outCh o
    if x.state ≠ (old.outCh o).state ∧ (x.state = 2 ∨ x.state = 3 ∨ x.state = 5) then some (ev 1 o x.state x.fcode) else none
  let l1 := if ins.isEmpty then new else new.raise lioINCH
  let l2 := if outs.isEmpty then l1 else l1.raise lioOUTCH
  (l2, ins ++ outs)

/-- Finish an operation of the controller: pair and SLP timers, then records and interrupts. -/
def Lio.done (old new : Lio) (t : Nat) : Lio × List Evt := Lio.changes old ((new.watchPairs t).watchSlp t)

/-- Whether the controller works and the local I/O is energised (R279, R280). -/
def Lio.running (l : Lio) : Bool := l.active && !l.ctlflt

/-! ### Input commands -/

/-- One sample of every channel (R259, R261, R265). -/
def Lio.sample (l : Lio) (t : Nat) (ua : List Nat) : Lio × List Evt :=
  if !l.running then (l, [])
  else
    let one (c : Nat) (x : InChan) : InChan :=
      let v := ua.getD c 0
      if l.inUse c = 0 then x
      else if (l.darkSlot (c / 12) t).isSome then x
      else
        let b := bandOf v
        let run := if x.cand = b then x.candRun + 1 else 1
        let accept := decide (run ≥ 3) && x.band != b
        let other := (List.range 8).any fun g => g != c / 12 && l.inPulse g t
        let cross := x.prev1Dark && decide (x.prev1 < 1000) && decide (x.prev2 > 1000) && decide (v > 1000)
        let y : InChan := { x with cur := v, cand := b, candRun := run, band := if accept then b else x.band
                                   since := if accept then t else x.since, prev2 := x.prev1, prev1 := v, prev1Dark := other }
        let z := if cross then y.fault stCROSS 3 else y
        l.settled c t z
    let l1 : Lio := { l with ins := l.ins.mapIdx one }
    let found := (List.range 96).any fun c => (l1.inCh c).state == stCROSS && (l.inCh c).state != stCROSS
    Lio.done l (if found then l1.error 0x01 7 else l1) t

/-- A channel's band has been held for its time (R265). -/
def Lio.debounce (l : Lio) (c t : Nat) : Lio × List Evt :=
  if l.running then Lio.done l (l.settle c t) t else (l, [])

/-- Check samples of a group in its own dark slot, or in the start sweep (R261, R279). -/
def Lio.crossCheck (l : Lio) (g t : Nat) (ua : List Nat) : Lio × List Evt :=
  if !l.running then (l, [])
  else
    let one (c : Nat) (x : InChan) : InChan :=
      if c / 12 ≠ g ∨ l.inUse c = 0 then x
      else if ua.getD (c % 12) 0 ≥ 1000 then { x.fault stCROSS 3 with cleanChecks := 0 }
      else l.settled c t { x with cleanChecks := x.cleanChecks + 1, freshChecked := true }
    let l1 : Lio := { l with ins := l.ins.mapIdx one }
    let found := (List.range 12).any fun k => decide (ua.getD k 0 ≥ 1000) && l.inUse (12 * g + k) != 0
    Lio.done l (if found then l1.error 0x01 7 else l1) t

/-- The band each injection level has to show (R262). -/
def injectBand (level : Nat) : Nat :=
  [bandBREAK, bandINVALID, bandINVALID, bandOFF, bandOFF, bandINVALID, bandINVALID, bandON].getD level bandBREAK

/-- A test current of the group's next level, and the bands the comparators reported (R262). -/
def Lio.inject (l : Lio) (g t : Nat) (bands : List Nat) : Lio × List Evt :=
  if !l.running || (l.tpSup g).state == 0 || (l.tpSup g).state == 3 then (l, [])
  else
    let lv := (l.tpSup g).level
    let one (c : Nat) (x : InChan) : InChan :=
      if c / 12 ≠ g ∨ l.inUse c = 0 then x
      else if bands.getD (c % 12) bandBREAK = injectBand lv then
        l.settled c t { x with wrongLv := x.wrongLv &&& (255 - 1 <<< lv), rightRun := x.rightRun + 1 }
      else if x.wrongLv.testBit lv then { x.fault stTFAIL 5 with rightRun := 0 }
      else { x with wrongLv := x.wrongLv ||| 1 <<< lv, rightRun := 0 }
    let l1 : Lio := { l with ins := l.ins.mapIdx one }
    let l2 := l1.modTp g fun s => { s with level := (s.level + 1) % 8 }
    let found := (List.range 96).any fun c => (l2.inCh c).state == stTFAIL && (l.inCh c).state != stTFAIL
    Lio.done l (if found then l2.error 0x02 3 else l2) t

/-- A supply out of range or at its limit (R264). -/
def Lio.tpFault (l : Lio) (g t : Nat) : Lio × List Evt :=
  if !l.running || decide (g ≥ 8) then (l, [])
  else
    let l1 := l.modTp g fun s => { s with state := 3, ovl := true }
    let f (c : Nat) (x : InChan) : InChan := if c / 12 = g ∧ l.inUse c ≠ 0 then x.fault stBREAK 6 else x
    let l2 : Lio := { l1 with ins := l1.ins.mapIdx f }
    Lio.done l ((l2.raise lioTP).error 0x03 3) t

/-- The retry of a faulty supply every 10 s (R264). -/
def Lio.tpRetry (l : Lio) (g t : Nat) (good : Bool) : Lio × List Evt :=
  if !l.running || (l.tpSup g).state != 3 || !good then (l, [])
  else
    Lio.done l ((l.modTp g fun s => { s with state := if g = 0 ∧ l.steady = true then 2 else 1, ovl := false }).raise lioTP) t

/-- A pair out of its mode for longer than DISC (R266). -/
def Lio.discrepancy (l : Lio) (c t : Nat) : Lio × List Evt :=
  match l.pairOut.find c with
  | none => (l, [])
  | some s0 =>
    if !l.running || decide (t - s0 ≤ l.inF c 6 2 * 1000000) then (l, [])
    else
      let f (x : InChan) : InChan := x.fault stDISC 4
      Lio.done l ((l.modIn c f).modIn (l.inF c 3 1) f) t

/-! ### Counting and safety functions (R267, R282 to R285) -/

/-- Both inputs of a function are OFF or ON. -/
def Lio.inputsOk (l : Lio) (f : Nat) : Bool :=
  (l.inCh (l.fnF f 1 1)).state ≤ 1 && (l.inCh (l.fnF f 2 1)).state ≤ 1

def SfState.faulted (s : SfState) : SfState := { s with fault := true, goodRun := 0 }

/-- A completed pair (R283, R284): `firstA` says that its first edge was on head A. -/
def Lio.sfPair (l : Lio) (f : Nat) (s : SfState) (firstA : Bool) (dt t : Nat) : SfState :=
  let good (x : SfState) : SfState :=
    if !l.inputsOk f then { x with goodRun := 0 }
    else
      let n := x.goodRun + 1
      { x with goodRun := n, fault := x.fault && decide (n < 4) }
  let s1 : SfState := { s with recent := true, lastPair := t }
  if l.fnKind f = 1 then
    let sp := (l.fnF f 4 2 * 1000000 + dt - 1) / dt
    let s2 : SfState := { s1 with speed := sp }
    if sp > l.fnF f 0x0C 4 then s2.faulted else good s2
  else
    let up := firstA == (l.fnF f 3 1).testBit 0
    let ax := if up then s1.axles + 1 else s1.axles - 1
    good { s1 with axles := (BitVec.ofInt 32 ax).toInt, dir := if up then 1 else 2 }

/-- One edge on a head of a function (R282). -/
def Lio.sfEdge (l : Lio) (f : Nat) (onA : Bool) (t : Nat) (s : SfState) : SfState :=
  let us := t / 1000
  let op := if onA then s.openB else s.openA
  let own := if onA then s.openA else s.openB
  let pairto := l.fnF f 6 2 * 1000
  let openHere (x : SfState) : SfState := if onA then { x with openA := some us } else { x with openB := some us }
  let lone : SfState :=
    match own with
    | none => openHere s
    | some _ =>
      let s1 : SfState := if onA then { s with unpA := s.unpA + 1 } else { s with unpB := s.unpB + 1 }
      openHere (if (if onA then s1.unpA else s1.unpB) = 3 then s1.faulted else s1)
  match op with
  | none => lone
  | some o =>
    if us - o ≤ pairto then
      let dt := us - o
      let s1 : SfState := if onA then { s with openB := none } else { s with openA := none }
      if l.darkBetween (o * 1000) t then s1
      else if dt < l.fnF f 0x14 2 then s1.faulted
      else l.sfPair f { s1 with unpA := 0, unpB := 0 } (!onA) dt t
    else lone

/-- A rising edge on a counting input (R267, R282). -/
def Lio.countEdge (l : Lio) (ch t : Nat) : Lio :=
  if !l.running || decide (ch ≥ 8) || l.inUse ch != 2 || l.inPulse 0 t then l
  else
    { l with banks := l.banks.map fun k =>
      { counts := k.counts.modify ch fun n => (n + 1) % 2 ^ 32
        fns := k.fns.mapIdx fun f s =>
          if l.fnKind f = 1 ∨ l.fnKind f = 3 then
            if l.fnF f 1 1 = ch then l.sfEdge f true t s else if l.fnF f 2 1 = ch then l.sfEdge f false t s else s
          else s } }

def Lio.modFn (l : Lio) (f : Nat) (g : SfState → SfState) : Lio :=
  { l with banks := l.banks.map fun k => { k with fns := k.fns.modify f g } }

/-- An edge left open for longer than PAIRTO counts as unpaired for its head (R282). -/
def Lio.pairTimeout (l : Lio) (f : Nat) (onA : Bool) (t : Nat) : Lio :=
  l.modFn f fun s =>
    match (if onA then s.openA else s.openB) with
    | none => s
    | some o =>
      if t / 1000 - o ≤ l.fnF f 6 2 * 1000 then s
      else
        let s1 : SfState := if onA then { s with openA := none, unpA := s.unpA + 1 } else { s with openB := none, unpB := s.unpB + 1 }
        if (if onA then s1.unpA else s1.unpB) = 3 then s1.faulted else s1

/-- HOLD ms since the last pair (R283, R284). -/
def Lio.holdExpire (l : Lio) (f t : Nat) : Lio :=
  l.modFn f fun s => if s.recent && decide (t - s.lastPair > l.fnF f 0x10 4 * 1000000) then { s with recent := false, dir := 0 } else s

/-- The majority of the lanes' START bits of a function (R285). -/
def Lio.startMaj (l : Lio) (f : Nat) : Bool :=
  decide ((Lane.all.filter fun x => (l.lanes.get x).fstart.getLsbD f).length ≥ 2)

/-- A rising edge of the START majority (R285). -/
def Lio.slpStart (l : Lio) (f t : Nat) : Lio :=
  if l.fnKind f = 2 ∧ f < 16 ∧ l.startMaj f = true ∧ l.startSeen.testBit f = false then
    let l1 : Lio := { l with startSeen := l.startSeen ||| 1 <<< f }
    l1.modFn f fun s => { s with inWindow := true, timeout := false, winStart := t }
  else l

def Lio.slpWindow (l : Lio) (f t : Nat) : Lio :=
  l.modFn f fun s =>
    if s.inWindow && decide (t - s.winStart ≥ l.fnF f 8 4 * 1000000) then { s with inWindow := false, timeout := true } else s

def Lio.slpSettle (l : Lio) (f t : Nat) : Lio :=
  let set := l.fnF f 0x0C 4 * 1000000
  let heldFor (o : Option Nat) : Bool := match o with | some v => decide (t - v ≥ set) | none => false
  l.modFn f fun s =>
    let n := s.endN || heldFor s.nSince
    let r := s.endR || heldFor s.rSince
    { s with endN := n, endR := r, inWindow := s.inWindow && !(n && !s.endN) && !(r && !s.endR) }

/-- A lane's START levels (R277); a majority that has fallen lets the next rise be seen. -/
def Lio.fstartWrite (l : Lio) (x : Lane) (v : Word32) : Lio :=
  let l1 : Lio := { l with lanes := l.lanes.set x { l.lanes.get x with fstart := v &&& 0x0000FFFF } }
  { l1 with startSeen := l1.startSeen &&& (List.range 16).foldl (fun a f => if l1.startMaj f then a ||| 1 <<< f else a) 0 }

/-! ### The measured value window (R268, R270, R292) -/

/-- VALID of a function in one bank at `t` (R283 to R285). -/
def Lio.fnValid (l : Lio) (f t : Nat) (s : SfState) : Bool :=
  if l.fnKind f = 2 then
    l.inputsOk f && !(match s.bothOn with | some v => decide (t - v > l.fnF f 0x0C 4 * 1000000) | none => false)
  else s.recent && !s.fault && l.inputsOk f

/-- An entry of the list: value, VALID [32], SIGNED [33]. -/
def mvEntry (v : Nat) (signed : Bool) : Nat := v % 2 ^ 32 + 2 ^ 32 + (if signed then 2 ^ 33 else 0)

/-- The eight entries of a function (R270); those that do not apply to its kind are not valid. -/
def Lio.fnEntries (l : Lio) (f t : Nat) (s : SfState) : List Nat :=
  let valid := l.fnValid f t s
  let k := l.fnKind f
  if k = 1 then
    [mvEntry s.speed false, mvEntry (b2n valid) false, mvEntry (b2n (valid && decide (s.speed ≤ l.fnF f 8 4))) false,
      mvEntry (b2n s.fault) false, 0, 0, 0, 0]
  else if k = 2 then
    [mvEntry 0 false, mvEntry (b2n valid) false, mvEntry (b2n s.inWindow) false, mvEntry (b2n s.endN) false,
      mvEntry (b2n s.endR) false, mvEntry (b2n s.timeout) false, 0, 0]
  else if k = 3 then
    [mvEntry (BitVec.ofInt 32 s.axles).toNat true, mvEntry (b2n valid) false, 0, mvEntry (b2n s.fault) false, 0, 0,
      mvEntry s.dir false, 0]
  else [0, 0, 0, 0, 0, 0, 0, 0]

/-- LIO_SNAP of a lane: its bank into its window (R268). -/
def Lio.snap (l : Lio) (x : Lane) (t : Nat) : Lio :=
  let k := l.banks.get x
  let fns := (List.range 16).flatMap fun f =>
    (l.fnEntries f t (k.fns.getD f SfState.reset)).mapIdx fun i v => (3 + 8 * f + i, v)
  let ins := (List.range 96).map fun c => (131 + c, if l.inUse c = 0 then 0 else mvEntry (l.inCh c).cur false)
  let outs := (List.range 48).map fun o => (227 + o, if l.outUsed o then mvEntry (l.outCh o).cur false else 0)
  let cnt := (List.range 8).map fun c => (275 + c, if l.inUse c = 2 then mvEntry (k.counts.getD c 0) false else 0)
  let v := l.lanes.get x
  { l with lanes := l.lanes.set x { v with window := (fns ++ ins ++ outs ++ cnt).filter (fun p => p.2 != 0)
                                           snapCnt := (v.snapCnt + 1) % 65536 } }

/-- The input item of R269: STATE and FCODE of every input and output, supply and bank states. -/
def Lio.itemBody (l : Lio) : Bytes :=
  (l.ins.flatMap fun x => [BitVec.ofNat 8 x.state, BitVec.ofNat 8 x.fcode])
    ++ (l.outs.flatMap fun x => [BitVec.ofNat 8 x.state, BitVec.ofNat 8 x.fcode])
    ++ (l.tp.map fun x => BitVec.ofNat 8 x.state) ++ (l.feed.map fun x => BitVec.ofNat 8 x.state)

/-! ### Gates, outputs and LOCAL-SAFE (R273 to R278) -/

/-- A lane's gate inputs are live (R277); `can` says that its domain is on and that it is neither in reset nor silent. -/
def Lio.live (l : Lio) (can : PerLane Bool) (x : Lane) : Bool :=
  can.get x && (l.lanes.get x).ctrl.getLsbD 1 && (l.lanes.get x).refreshed

/-- The gate input of a lane: its presented command while live, else off. -/
def Lio.gateIn (l : Lio) (can : PerLane Bool) (x : Lane) (hs : Bool) : Nat :=
  if l.live can x then (if hs then (l.lanes.get x).hs else (l.lanes.get x).ls) else 0

/-- The 2-out-of-3 majority gates of the 48 HS or LS switches (R28). -/
def Lio.gateOut (l : Lio) (can : PerLane Bool) (hs : Bool) : Nat :=
  let a := l.gateIn can .a hs
  let b := l.gateIn can .b hs
  let c := l.gateIn can .c hs
  (a &&& b) ||| (b &&& c) ||| (a &&& c)

/-- Number of live lanes. -/
def Lio.liveCount (l : Lio) (can : PerLane Bool) : Nat := (Lane.all.filter (l.live can)).length

/-- The state of an output that follows its gates or LOCAL-SAFE (R276, R278). -/
def Lio.outFollow (l : Lio) (can : PerLane Bool) (o : Nat) (x : OutChan) : OutChan :=
  if !l.outUsed o then { x with state := 7, fcode := 0 }
  else if x.state = 2 ∨ x.state = 3 ∨ x.state = 5 then x
  else if !l.active then { x with state := 0, fcode := 0 }
  else if l.lsafe then { x with state := if l.submask.testBit o then 4 else 0, fcode := 0 }
  else
    let on := (l.gateOut can true).testBit o && (l.gateOut can false).testBit o && !x.inhibited
    let low := on && l.outF o 4 2 != 0 && decide (x.cur < l.outF o 4 2)
    { x with state := if on then 1 else 0, fcode := if low then 0x18 else 0 }

/-- Bring every output to its gates. -/
def Lio.follow (l : Lio) (can : PerLane Bool) : Lio := { l with outs := l.outs.mapIdx (l.outFollow can) }

/-- Keep the instant since which fewer than two lanes are live. -/
def Lio.watchLive (l : Lio) (can : PerLane Bool) (t : Nat) : Lio :=
  if l.liveCount can ≥ 2 then { l with belowSince := none }
  else match l.belowSince with
    | some _ => l
    | none => { l with belowSince := some t }

/-- The presented commands from LIO_DO0 to LIO_DO2: HS halves and LS halves (R291). -/
def LioLane.present (v : LioLane) : LioLane :=
  let lo (w : Word32) : Nat := w.toNat % 65536
  let hi (w : Word32) : Nat := w.toNat / 65536
  { v with hs := lo v.do0 + lo v.do1 <<< 16 + lo v.do2 <<< 32, ls := hi v.do0 + hi v.do1 <<< 16 + hi v.do2 <<< 32 }

/-- A lane's write of LIO_DO2 (R277, R278). -/
def Lio.do2Write (l : Lio) (can : PerLane Bool) (x : Lane) (t : Nat) (w : Word32) : Lio × List Evt :=
  let v : LioLane := { l.lanes.get x with do2 := w }
  let l1 : Lio := { l with lanes := l.lanes.set x { v.present with lastRefresh := t, refreshed := true } }
  let l2 := l1.watchLive can t
  let l3 : Lio := if l2.lsafe && decide (l2.liveCount can ≥ 2) then ({ l2 with lsafe := false } : Lio).raise lioLSAFE else l2
  Lio.changes l (l3.follow can)

/-- A lane that has not refreshed within TSIL; LOCAL-SAFE when fewer than two lanes have been live for TSIL (R277, R278). -/
def Lio.refreshTimeout (l : Lio) (can : PerLane Bool) (x : Lane) (t : Nat) : Lio × List Evt :=
  let tsil := l.tsilMs * 1000000
  let v := l.lanes.get x
  let l1 : Lio := if v.refreshed && decide (t - v.lastRefresh < tsil) then l
    else { l with lanes := l.lanes.set x { v with refreshed := false } }
  let l2 := l1.watchLive can t
  let enter := match l2.belowSince with
    | some s0 => !l2.lsafe && decide (t - s0 ≥ tsil)
    | none => false
  let l3 : Lio := if enter then ({ l2 with lsafe := true } : Lio).raise lioLSAFE else l2
  Lio.changes l (l3.follow can)

/-- An output fault state entered unless a state of higher code stands (R276, end). -/
def OutChan.fault (x : OutChan) (st fc : Nat) : OutChan :=
  if x.state = 7 ∨ x.state > st then x else { x with state := st, fcode := fc, inhibited := x.inhibited || st == 3 }

def Lio.outTrip (l : Lio) (o t : Nat) (thermal : Bool) : Lio × List Evt :=
  Lio.done l (l.modOut o fun x => { x.fault 2 (if thermal then 0x12 else 0x11) with offSeen := false }) t

def Lio.bankTrip (l : Lio) (b t ma : Nat) : Lio × List Evt :=
  let l1 : Lio := { l with outs := l.outs.mapIdx fun o x =>
    if o / 12 = b ∧ x.state = 1 then { x with state := 2, fcode := 0x16, offSeen := false } else x }
  Lio.done l (((l1.modFeed b fun _ => ⟨3, ma⟩).raise lioBANK).error 0x06 7) t

def Lio.feedLow (l : Lio) (b t : Nat) : Lio × List Evt :=
  let l1 : Lio := { l with outs := l.outs.mapIdx fun o x => if o / 12 = b then x.fault 5 0x17 else x }
  Lio.done l ((l1.modFeed b fun f => { f with state := 2 }).raise lioBANK) t

def Lio.feedBack (l : Lio) (can : PerLane Bool) (b t : Nat) : Lio × List Evt :=
  if (l.feed.getD b FeedBank.reset).state ≠ 2 then (l, [])
  else
    let l1 := (l.modFeed b fun f => { f with state := 1 }).raise lioBANK
    let l2 : Lio := { l1 with outs := l1.outs.mapIdx fun o x => if o / 12 = b ∧ x.state = 5 then { x with state := 0, fcode := 0 } else x }
    Lio.done l (l2.follow can) t

/-- A switch test in slot `slot` (R275, R276). `verdict`: 0 passed, 1 failed, 2 ended without a verdict. -/
def Lio.switchTest (l : Lio) (can : PerLane Bool) (slot t verdict : Nat) : Lio × List Evt :=
  let o := slot / 2
  if l.ctlflt || !l.outUsed o || l.outF o 3 1 != 1 || decide (o ≥ 48) then (l, [])
  else if verdict = 0 then
    let l1 := l.modOut o fun x =>
      let p := if x.resetReq then x.passed + 1 else 0
      if x.state = 3 ∧ p ≥ 2 then { x with state := 0, fcode := 0, inhibited := false, resetReq := false, passed := 0, testWait := false }
      else { x with testWait := false, passed := p }
    Lio.done l (l1.follow can) t
  else if verdict = 1 then
    if (l.outCh o).testWait then
      Lio.done l ((l.modOut o fun x => { x.fault 3 (if slot % 2 = 0 then 0x13 else 0x14) with
        testWait := false, inhibited := true, resetReq := false, passed := 0 }).error 0x04 3) t
    else (l.modOut o fun x => { x with testWait := true }, [])
  else (l, [])

/-- Gate read-back of one cycle (R174, R274, R276): `bad` lists the gates (0 to 47 HS, 48 to 95 LS) whose output differs from
the majority of its inputs. A TRIP whose commands have been off since the last read-back ends here. -/
def Lio.readback (l : Lio) (can : PerLane Bool) (t : Nat) (bad : List Nat) : Lio × List Evt :=
  if l.ctlflt then (l, [])
  else
    let onNow (o : Nat) : Bool := (l.gateOut can true).testBit o || (l.gateOut can false).testBit o
    let f (o : Nat) (x : OutChan) : OutChan :=
      let off := !onNow o
      let y : OutChan := { x with offSeen := off }
      if bad.contains o || bad.contains (o + 48) then y.fault 3 0x15
      else if x.state = 2 ∧ off ∧ x.offSeen ∧ x.fcode ≠ 0x16 then { y with state := 0, fcode := 0 }
      else y
    let l1 : Lio := { l with outs := l.outs.mapIdx f }
    -- a bank trip ends once every output of the bank has been off for one cycle
    let l2 := (List.range 4).foldl (fun (m : Lio) b =>
      let all := (List.range 12).all fun k => !onNow (12 * b + k) && (l.outCh (12 * b + k)).offSeen
      if (m.feed.getD b FeedBank.reset).state = 3 ∧ all then
        let m1 := (m.modFeed b fun f => { f with state := 1 }).raise lioBANK
        { m1 with outs := m1.outs.mapIdx fun o x =>
          if o / 12 = b ∧ x.state = 2 ∧ x.fcode = 0x16 then { x with state := 0, fcode := 0 } else x }
      else m) l1
    let l3 := if bad.isEmpty then l2 else (l2.raise lioGATE).error 0x05 3
    Lio.done l (l3.follow can) t

/-- The lanes whose gate inputs differ from the other two (R174). -/
def Lio.gateMinority (l : Lio) (can : PerLane Bool) (x : Lane) : Bool :=
  let d (hs : Bool) : Bool := l.gateIn can x hs != l.gateOut can hs
  d true || d false

/-- Local I/O energised: every used channel starts afresh (R279). -/
def Lio.energise (l : Lio) (can : PerLane Bool) (t : Nat) : Lio × List Evt :=
  if l.active || l.ctlflt then (l, [])
  else
    let join := (t + 4500000) / 40000000 * 40000000 + 40000000
    let l1 : Lio :=
      { l with active := true, frameStart := join
               tp := l.tp.mapIdx fun g _ => ⟨if g = 0 ∧ l.steady = true then 2 else 1, false, 0⟩
               feed := l.feed.map fun f => { f with state := if f.state = 0 then 1 else f.state }
               ins := l.ins.mapIdx fun c x =>
                 if l.inUse c = 0 then { x with state := stUNUSED, fcode := 0 }
                 else { InChan.reset with state := stBREAK, fcode := 0, band := bandNone, since := t, cand := bandNone, fresh := true }
               pairOut := [], pairSafe := [] }
    Lio.done l (l1.follow can) t

/-- Local I/O de-energised: supplies dark, switches open, substitution off, inputs BREAK (R279). -/
def Lio.deenergise (l : Lio) (can : PerLane Bool) (t : Nat) : Lio × List Evt :=
  if !l.active then (l, [])
  else
    let l1 : Lio :=
      { l with active := false, lsafe := false
               tp := l.tp.map fun s => { s with state := 0 }
               ins := l.ins.mapIdx fun c x => if l.inUse c = 0 then x else { x with state := stBREAK, fcode := 0, band := bandNone } }
    Lio.done l (l1.follow can) t

/-- The controller stops (R280). -/
def Lio.stop (l : Lio) : Lio × List Evt :=
  if l.ctlflt then (l, [])
  else
    let l1 := (({ l with ctlflt := true, tp := l.tp.map fun s => { s with state := 0 } } : Lio).raise lioCTL).error 0x07 3
    (l1, [{ code := 0x6003, src := 5, level := 3, unitNo := 0, transport := 0, flags := 0,
            param := leBytes 4 (l1.lanes.a.errcap).toNat }])

/-- A fault reset of an input (`dir` 0) or output channel (R265, R276). -/
def Lio.faultReset (l : Lio) (dir c : Nat) : Lio :=
  if dir = 0 then l.modIn c fun x => { x with resetReq := true, cleanChecks := 0, rightRun := 0 }
  else l.modOut c fun x => { x with resetReq := true, passed := 0 }

/-- The check value of an SPS is given to the controller with the body (R287, R288): its channels take their USE. -/
def Lio.loadSps (l : Lio) (body : Bytes) (ok : Bool) : Lio :=
  let l1 : Lio := { l with sps := body, spsOk := ok }
  { l1 with
    ins := l1.ins.mapIdx fun c x => if l1.inUse c = 0 then { InChan.reset with state := 7 } else { x with state := if x.state = 7 then stBREAK else x.state }
    outs := l1.outs.mapIdx fun o x => if l1.outUsed o then { x with state := if x.state = 7 then 0 else x.state } else OutChan.reset
    submask := (List.range 48).foldl (fun a o =>
      if l1.outUsed o && !l1.outSafety o && l1.outF o 2 1 == 1 then a ||| 1 <<< o else a) 0 }

end Sys2Proof.Machine
end

