-- ==== Sys2Proof/Machine/MoverOps.lean ====
section
/-!
DEFINITION. What the transposer DMA and the scan and check unit do (16_movers_checks_crossings.md R438 to R452).
-/
namespace Sys2Proof.Machine

/-! ### Beryl's SRAM as bytes (03_route_admission.md R60) -/

/-- Cells of a list of equal fields from `a`. -/
def fieldCells (a w : Nat) (l : List Nat) : Mem := (l.mapIdx fun i v => Mem.cellsOf (a + w * i) w v).flatten

/-- Beryl's SRAM by the table of R60; the inside of a pending entry and of the snapshot follow the order of the text (DEDUCED,
assumption log 27). -/
def Beryl.sram (b : Beryl) : Mem :=
  let w := b.ws
  let s := w.snap
  let tab (d n : Nat) (m : SMap Nat) : List Nat := (List.range n).map (SMap.get d m)
  fieldCells 0 2048 ((List.range 32).map fun p => (b.el.get p).toNat)
    ++ fieldCells 0x10000 512 ((List.range 16).map fun q => (b.rt.get q).toNat)
    ++ fieldCells 0x12000 2048 ([w.lkn, w.lkr, w.fnc0, w.fnc1, w.fnc2, w.fnc3, w.frc0, w.frc1, w.frc2, w.frc3].map (·.toNat))
    ++ fieldCells 0x17000 512 [w.stg0.toNat] ++ fieldCells 0x17200 32 [w.arun.toNat] ++ fieldCells 0x17220 256 [w.otpend.toNat]
    ++ fieldCells 0x17400 512 [w.stg1.toNat]
    ++ fieldCells 0x18000 2 (tab none16 16384 w.sigovl) ++ fieldCells 0x20000 2 (tab none16 2048 w.ovown)
    ++ fieldCells 0x21000 4 (tab 0 4096 w.rdl) ++ fieldCells 0x25000 4 (tab 0 2048 w.odl)
    ++ fieldCells 0x27000 4 (tab 0 256 w.adl) ++ fieldCells 0x27400 1 (tab 0 4096 w.progress)
    ++ fieldCells 0x28400 64 (w.pend.map fun p => p.desc.word + (p.deadline % 2 ^ 32) <<< 256)
    ++ fieldCells 0x2C400 2048
      ([s.locked, s.ovlk, s.lockSafe, s.blocked, s.poss, s.failed, s.dist, s.sigStop, s.keyOut, s.lkn, s.lkr, s.fln, s.flr,
        s.fnf, s.frf].map (·.toNat))
    ++ fieldCells 0x33C00 512 [s.set.toNat, s.pending.toNat, s.barred.toNat]
    ++ fieldCells 0x34200 2 (tab none16 16384 s.sigovl) ++ fieldCells 0x3C200 2 (tab none16 2048 s.ovown)

/-- The element planes the transposer DMA may write (R86): the input class, and the program class without CMD-N and CMD-R. -/
def dmaPlaneE (p : Nat) : Bool :=
  [0, 1, 5, 6, 9, 10, 12, 14, 15, 17].contains p || (planeWriteE p && p != 7 && p != 8)
/-- The route planes it may write: the program class without SIG-CLEAR. -/
def dmaPlaneR (q : Nat) : Bool := planeWriteR q && q != 5

/-- Bytes of a row replaced. -/
def rowBytes (row o n v : Nat) : Nat :=
  let mask := (2 ^ (8 * n) - 1) <<< (8 * o)
  (row ^^^ (row &&& mask)) ||| ((v % 2 ^ (8 * n)) <<< (8 * o))

/-- A write of the transposer DMA to Beryl's SRAM (R86): none where Beryl refuses it. -/
def Beryl.dmaWrite (b : Beryl) (o n v : Nat) : Option Beryl :=
  if b.regs.hold = true ∧ b.idle = true then
    if o + n ≤ 0x10000 ∧ o / 0x800 = (o + n - 1) / 0x800 ∧ dmaPlaneE (o / 0x800) = true then
      some { b with el := b.el.put (o / 0x800) (BitVec.ofNat 16384 (rowBytes (b.el.get (o / 0x800)).toNat (o % 0x800) n v)) }
    else if 0x10000 ≤ o ∧ o + n ≤ 0x12000 ∧ (o - 0x10000) / 512 = (o + n - 1 - 0x10000) / 512
        ∧ dmaPlaneR ((o - 0x10000) / 512) = true then
      let q := (o - 0x10000) / 512
      some { b with rt := b.rt.put q (BitVec.ofNat 4096 (rowBytes (b.rt.get q).toNat ((o - 0x10000) % 512) n v)) }
    else none
  else none

/-! ### The lane address space (R438) -/

/-- The memories a mover addresses. -/
structure LaneSpace where
  tcm : Mem
  dram : Mem
  brl : Beryl
  deriving DecidableEq, Repr

inductive Area where
  | tcm | sram | dram
  deriving DecidableEq, Repr

/-- The area of a range of lane addresses and the offset in it; none outside the map or in a register region. -/
def areaOf (a n : Nat) : Option (Area × Nat) :=
  if 0x20000000 ≤ a ∧ a + n ≤ 0x20800000 then some (.tcm, a - 0x20000000)
  else if 0x30000000 ≤ a ∧ a + n ≤ 0x30040000 then some (.sram, a - 0x30000000)
  else if 0x100000000 ≤ a ∧ a + n ≤ 0x200000000 then some (.dram, a - 0x100000000)
  else none

/-- A read by a mover; error code 0x02 outside the map. -/
def LaneSpace.read (s : LaneSpace) (a n : Nat) : Except Nat Nat :=
  match areaOf a n with
  | some (.tcm, o) => .ok (s.tcm.rd o n)
  | some (.dram, o) => .ok (s.dram.rd o n)
  | some (.sram, o) => .ok (s.brl.sram.rd o n)
  | none => .error 2

/-- A write by the transposer DMA; error code 0x02 outside the map, 0x03 refused by Beryl. -/
def LaneSpace.write (s : LaneSpace) (a n v : Nat) : Except Nat LaneSpace :=
  match areaOf a n with
  | some (.tcm, o) => .ok { s with tcm := s.tcm.wr o n v }
  | some (.dram, o) => .ok { s with dram := s.dram.wr o n v }
  | some (.sram, o) =>
    match s.brl.dmaWrite o n v with
    | some b => .ok { s with brl := b }
    | none => .error 3
  | none => .error 2

/-! ### Descriptors -/

def TdmDesc.opc (d : TdmDesc) : Nat := bits d.op.toNat 3 0
def TdmDesc.swrap (d : TdmDesc) : Nat := bits d.op.toNat 12 8
def TdmDesc.dwrap (d : TdmDesc) : Nat := bits d.op.toNat 20 16
def TdmDesc.irq (d : TdmDesc) : Bool := bit d.op.toNat 24
def TdmDesc.cnt (d : TdmDesc) : Nat := bits d.count.toNat 23 0
def TdmDesc.a (d : TdmDesc) : Nat := bits d.geom.toNat 15 0
def TdmDesc.b (d : TdmDesc) : Nat := bits d.geom.toNat 31 16
def TdmDesc.esize (d : TdmDesc) : Nat := bits d.mask.toNat 12 0
def TdmDesc.sstride (d : TdmDesc) : Nat := if d.a = 0 then d.esize else d.a
def TdmDesc.dstride (d : TdmDesc) : Nat := if d.b = 0 then d.esize else d.b
def TdmDesc.stride (d : TdmDesc) : Nat := bits d.geom.toNat 7 0
def TdmDesc.word (d : TdmDesc) : Nat := bits d.geom.toNat 11 8
def TdmDesc.words (d : TdmDesc) : Nat := bits d.mask.toNat 15 0

/-- An address with circular wrap of 2^w bytes (R443). -/
def wrapAddr (start off w : Nat) : Nat :=
  if w = 0 then start + off else start / 2 ^ w * 2 ^ w + (start + off) % 2 ^ w

/-- Units of a block: elements, words, records, tiles or entries. -/
def TdmDesc.total (d : TdmDesc) : Nat :=
  if d.opc = 5 then d.cnt / 32 * d.words else if d.opc = 7 ∨ d.opc = 8 then 0 else d.cnt

/-- The bytes the source and the destination span, for the overlap rule of R442. -/
def TdmDesc.srcSpan (d : TdmDesc) : Nat :=
  match d.opc with
  | 1 => (d.cnt - 1) * d.sstride + d.esize
  | 3 => d.cnt * d.stride
  | 4 => 31 * d.b + d.cnt / 8
  | 5 => (d.cnt - 1) * d.a + 4 * d.words
  | 6 => 4 * d.cnt
  | _ => 0
def TdmDesc.dstSpan (d : TdmDesc) : Nat :=
  match d.opc with
  | 1 => (d.cnt - 1) * d.dstride + d.esize
  | 2 => 4 * d.cnt
  | 3 => 31 * d.b + d.cnt / 8
  | 4 => d.cnt * d.stride
  | 5 => (32 * d.words - 1) * d.b + d.cnt / 8
  | _ => 0

def wrapOk (w start : Nat) : Bool := w == 0 || (decide (6 ≤ w ∧ w ≤ 24) && start / 2 ^ w * 2 ^ w == start)

/-- A descriptor the table of R442 and R443 admits. -/
def TdmDesc.valid (d : TdmDesc) : Bool :=
  wrapOk d.swrap d.src && wrapOk d.dwrap d.dst
    && (match d.opc with
        | 1 => decide (1 ≤ d.cnt ∧ 4 ≤ d.esize ∧ d.esize ≤ 4096 ∧ d.esize % 4 = 0)
        | 2 => true
        | 3 | 4 => decide (d.cnt % 32 = 0 ∧ 4 ≤ d.stride ∧ d.stride ≤ 252 ∧ d.stride % 4 = 0 ∧ d.b % 4 = 0 ∧ d.cnt ≤ 8 * d.b)
        | 5 => decide (d.cnt % 32 = 0)
        | 6 => true
        | 7 => decide (d.cnt = 0 ∧ d.b ≤ 5)
        | 8 => decide (d.cnt = 0 ∧ d.b ≤ 1)
        | _ => false)
    && (d.swrap != 0 || d.dwrap != 0 || d.srcSpan == 0 || d.dstSpan == 0
        || decide (d.src + d.srcSpan ≤ d.dst ∨ d.dst + d.dstSpan ≤ d.src))

/-! ### One unit of work -/

/-- Set or clear one bit of a plane at `a`. -/
def LaneSpace.putBit (s : LaneSpace) (a k : Nat) (v : Bool) : Except Nat LaneSpace := do
  let w ← s.read (a + k / 32 * 4) 4
  s.write (a + k / 32 * 4) 4 (if v then w ||| 1 <<< (k % 32) else w ^^^ (w &&& 1 <<< (k % 32)))

/-- COPY of element `i` (R442). -/
def LaneSpace.copyEl (s : LaneSpace) (d : TdmDesc) (i : Nat) : Except Nat LaneSpace := do
  let v ← s.read (wrapAddr d.src (i * d.sstride) d.swrap) d.esize
  s.write (wrapAddr d.dst (i * d.dstride) d.dwrap) d.esize v

/-- FILL of word `i`. -/
def LaneSpace.fillWord (s : LaneSpace) (d : TdmDesc) (i : Nat) : Except Nat LaneSpace :=
  s.write (wrapAddr d.dst (4 * i) d.dwrap) 4 d.mask.toNat

/-- T2P of record `i`: bit p of word w goes to bit i of plane p, for every p in MASK. -/
def LaneSpace.toPlanes (s : LaneSpace) (d : TdmDesc) (i : Nat) : Except Nat LaneSpace := do
  let v ← s.read (wrapAddr d.src (i * d.stride + 4 * d.word) d.swrap) 4
  (bitList 32 d.mask.toNat).foldlM (fun acc p => acc.putBit (d.dst + p * d.b) i (v.testBit p)) s

/-- P2T of record `i`: bit p of word w takes bit i of plane p; the record is written as a whole. -/
def LaneSpace.fromPlanes (s : LaneSpace) (d : TdmDesc) (i : Nat) : Except Nat LaneSpace := do
  let a := wrapAddr d.dst (i * d.stride + 4 * d.word) d.dwrap
  let v ← s.read a 4
  let v' ← (bitList 32 d.mask.toNat).foldlM (fun (acc : Nat) p => do
    let w ← s.read (d.src + p * d.b + i / 32 * 4) 4
    return if w.testBit (i % 32) then acc ||| 1 <<< p else acc ^^^ (acc &&& 1 <<< p)) v
  s.write a 4 v'

/-- XPOSE of tile `k`: 32 source rows by one word (R445, R448). -/
def LaneSpace.tile (s : LaneSpace) (d : TdmDesc) (k : Nat) : Except Nat LaneSpace := do
  let r0 := 32 * (k / d.words)
  let c := k % d.words
  let rows ← (List.range 32).mapM fun r => s.read (d.src + (r0 + r) * d.a + 4 * c) 4
  (List.range 32).foldlM (fun acc j =>
    acc.write (d.dst + (32 * c + j) * d.b + r0 / 8) 4
      ((rows.mapIdx fun r w => if w.testBit j then 1 <<< r else 0).foldl (· ||| ·) 0)) s

/-- SETBIT of entry `i`. -/
def LaneSpace.setBit (s : LaneSpace) (d : TdmDesc) (i : Nat) : Except Nat LaneSpace := do
  let e ← s.read (wrapAddr d.src (4 * i) d.swrap) 4
  s.putBit (d.dst + bits e 29 16 * d.b) (bits e 13 0) true

/-- Unit `i` of a block. -/
def LaneSpace.unit (s : LaneSpace) (d : TdmDesc) (i : Nat) : Except Nat LaneSpace :=
  match d.opc with
  | 1 => s.copyEl d i
  | 2 => s.fillWord d i
  | 3 => s.toPlanes d i
  | 4 => s.fromPlanes d i
  | 5 => s.tile d i
  | 6 => s.setBit d i
  | _ => .ok s

/-- Units `i`, `i + 1`, … of a block, `n` of them: the space reached, the units done, and the error that stopped it. -/
def LaneSpace.units (s : LaneSpace) (d : TdmDesc) (i : Nat) : Nat → LaneSpace × Nat × Option Nat
  | 0 => (s, i, none)
  | n + 1 =>
    match s.unit d i with
    | .ok s' => s'.units d (i + 1) n
    | .error e => (s, i, some e)

/-! ### Channels -/

def Tdm.chan (t : Tdm) (n : Nat) : TdmChan := t.ch.getD n TdmChan.reset
def Tdm.setChan (t : Tdm) (n : Nat) (c : TdmChan) : Tdm := { t with ch := t.ch.set n c }
def Tdm.en (t : Tdm) : Bool := t.ctrl.getLsbD 0

/-- TDM_ERRCAP: as other captures, with CHAN of the first error. -/
def captureChan (r : Word32) (code level chan : Nat) : Word32 :=
  if bits r.toNat 7 0 = 0 then captureErr r code level ||| BitVec.ofNat 32 ((chan % 8) <<< 12) else captureErr r code level

/-- A channel stops with an error (R447). -/
def Tdm.fail (t : Tdm) (n code : Nat) : Tdm :=
  let c := t.chan n
  let t1 := t.setChan n { c with st := .error, err := code }
  { t1 with irq := t1.irq ||| BitVec.ofNat 32 (1 <<< (8 + n)), errcap := captureChan t1.errcap code (if code = 1 then 2 else 3) n }

/-- The next source and destination address of the active block, and what is left (TDM_CHn_CSRC, CDST, REMAIN). -/
def TdmChan.csrc (c : TdmChan) : Nat :=
  let d := c.active
  match d.opc with
  | 1 => wrapAddr d.src (c.done * d.sstride) d.swrap
  | 3 => wrapAddr d.src (c.done * d.stride) d.swrap
  | 4 => d.src + c.done / 32 * 4
  | 5 => if d.words = 0 then d.src else d.src + 32 * (c.done / d.words) * d.a + 4 * (c.done % d.words)
  | 6 => wrapAddr d.src (4 * c.done) d.swrap
  | 8 => wrapAddr d.src c.done d.swrap
  | _ => d.src
def TdmChan.cdst (c : TdmChan) : Nat :=
  let d := c.active
  match d.opc with
  | 1 => wrapAddr d.dst (c.done * d.dstride) d.dwrap
  | 2 => wrapAddr d.dst (4 * c.done) d.dwrap
  | 3 => d.dst + c.done / 32 * 4
  | 4 => wrapAddr d.dst (c.done * d.stride) d.dwrap
  | 5 => if d.words = 0 then d.dst else d.dst + 32 * (c.done % d.words) * d.b + c.done / d.words * 4
  | 7 => wrapAddr d.dst c.done d.dwrap
  | _ => d.dst
def TdmChan.remain (c : TdmChan) : Nat := c.active.total - c.done

/-- The active block goes on by `n` units, as far as it lasts. -/
def Tdm.run (t : Tdm) (s : LaneSpace) (k n : Nat) : Tdm × LaneSpace :=
  let c := t.chan k
  if c.st = .running then
    let (s', i, e) := s.units c.active c.done (min n c.remain)
    let t1 := t.setChan k { c with done := i }
    match e with
    | none => (t1, s')
    | some code => (t1.fail k code, s')
  else (t, s)

/-- Take the shadow copy (R444): COMMIT cleared, HOVER one up, the new block starts. -/
def Tdm.takeShadow (t : Tdm) (k : Nat) : Tdm :=
  let c := t.chan k
  let t1 := t.setChan k { c with active := c.shadow, commit := false, hover := (c.hover + 1) % 256, done := 0, err := 0,
                                 st := if c.pause then .paused else .running }
  if c.shadow.valid then t1 else t1.fail k 4

/-- The hand-over of a channel (R444): the block is brought to its end; an armed COMMIT takes the shadow; a RING or DRAIN goes on
at its wrap. -/
def Tdm.handover (t : Tdm) (s : LaneSpace) (k : Nat) : Tdm × LaneSpace :=
  let c := t.chan k
  if t.en = false then (t, s)
  else
    match c.st with
    | .running =>
      let (t1, s1) := t.run s k c.remain
      let c1 := t1.chan k
      if c1.st = .error then (t1, s1)
      else
        let t2 := if c.active.irq then { t1 with irq := t1.irq ||| BitVec.ofNat 32 (1 <<< k) } else t1
        if c.commit then (t2.takeShadow k, s1)
        else if c.active.opc = 7 ∨ c.active.opc = 8 then (t2.setChan k { c1 with hover := (c1.hover + 1) % 256 }, s1)
        else (t2.setChan k { c1 with st := .idle, hover := (c1.hover + 1) % 256 }, s1)
    | .idle => if c.commit then (t.takeShadow k, s) else (t, s)
    | .aborted => if c.commit then (t.takeShadow k, s) else (t, s)
    | _ => (t, s)

/-- PAUSE (R445): `n` more units finish before the channel reads paused. -/
def Tdm.pause (t : Tdm) (s : LaneSpace) (k n : Nat) : Tdm × LaneSpace :=
  let (t1, s1) := t.run s k n
  let c := t1.chan k
  (t1.setChan k { c with pause := true, st := if c.st = .running then .paused else c.st }, s1)

/-- Clearing PAUSE (R445): a block that drained during the pause has its hand-over here. -/
def Tdm.resume (t : Tdm) (s : LaneSpace) (k : Nat) : Tdm × LaneSpace :=
  let c := t.chan k
  let t1 := t.setChan k { c with pause := false, st := if c.st = .paused then .running else c.st }
  if c.st = .paused ∧ c.remain = 0 ∧ c.active.opc ≠ 7 ∧ c.active.opc ≠ 8 then t1.handover s k else (t1, s)

/-- ABORT (R446, R447): `n` more units complete; COMMIT is cleared, the shadow kept. A channel in error is written idle. -/
def Tdm.abort (t : Tdm) (s : LaneSpace) (k n code : Nat) : Tdm × LaneSpace :=
  let (t1, s1) := t.run s k n
  let c := t1.chan k
  match c.st with
  | .error => (t1.setChan k { c with st := .idle, commit := false }, s1)
  | .idle => (t1.setChan k { c with commit := false }, s1)
  | _ =>
    ({ t1.setChan k { c with st := .aborted, commit := false, err := code } with
       errcap := captureChan t1.errcap code 3 k }, s1)

/-- A write of TDM_CTRL: EN = 0 aborts every channel. -/
def Tdm.ctrlWrite (t : Tdm) (s : LaneSpace) (v : Word32) : Tdm × LaneSpace :=
  let t1 := { t with ctrl := v &&& 1 }
  if v.getLsbD 0 then (t1, s) else (List.range 8).foldl (fun acc k => acc.1.abort acc.2 k 0 8) (t1, s)

/-- TDM_STAT. -/
def Tdm.stat (t : Tdm) : Word32 :=
  let m (f : TdmChan → Bool) : Nat := (t.ch.mapIdx fun i c => if f c then 1 <<< i else 0).foldl (· + ·) 0
  BitVec.ofNat 32 (m (fun c => c.st == .running || c.st == .pausing) + (m fun c => c.st == .paused) <<< 8
    + (m fun c => c.st == .error) <<< 16)
/-- TDM_CHn_STAT. -/
def TdmChan.stat (c : TdmChan) : Word32 :=
  BitVec.ofNat 32 (c.st.code + 8 * b2n c.commit + c.hover <<< 8 + c.err <<< 16)

/-- Items written by a running RING channel from its ingress port (R442, R443). -/
def Tdm.ringWrite (t : Tdm) (s : LaneSpace) (port : Nat) (bs : Bytes) : Tdm × LaneSpace :=
  match (List.range 8).find? fun k => (t.chan k).st == .running && (t.chan k).active.opc == 7 && (t.chan k).active.b == port with
  | none => (t, s)
  | some k =>
    let c := t.chan k
    let r := (bs.mapIdx fun i x => (i, x)).foldl
      (fun (acc : LaneSpace × Option Nat) p =>
        match acc.2 with
        | some e => (acc.1, some e)
        | none =>
          match acc.1.write (wrapAddr c.active.dst (c.done + p.1) c.active.dwrap) 1 p.2.toNat with
          | .ok s' => (s', none)
          | .error e => (acc.1, some e)) (s, none)
    let t1 := t.setChan k { c with done := c.done + bs.length }
    match r.2 with
    | none => (t1, r.1)
    | some e => (t1.fail k e, r.1)

/-- Whether the ingress port's RING channel is paused, so that the port holds its items back (R445). -/
def Tdm.portHeld (t : Tdm) (port : Nat) : Bool :=
  t.ch.any fun c => c.st == .paused && c.active.opc == 7 && c.active.b == port

/-! ### The scan and check unit -/

/-- The bytes of a block for a check; error 0x05 outside the map. -/
def LaneSpace.block (s : LaneSpace) (a n : Nat) : Except Nat Bytes :=
  match areaOf a n with
  | some (.tcm, o) => .ok (s.tcm.bytes o n)
  | some (.dram, o) => .ok (s.dram.bytes o n)
  | some (.sram, o) => .ok (s.brl.sram.bytes o n)
  | none => .error 5

def scuFGDONE : Word32 := 1
def scuMISMATCH : Word32 := 2
def scuBGPASS : Word32 := 4
def scuERR : Word32 := 8
def Scu.fgBusy (u : Scu) : Bool := u.cfg.getLsbD 31
def Scu.bgen (u : Scu) : Bool := u.ctrl.getLsbD 0
def Scu.raise (u : Scu) (m : Word32) : Scu := { u with irq := u.irq ||| m }
/-- SCU_ERRCAP takes a code. -/
def Scu.error (u : Scu) (code level : Nat) : Scu := { u with errcap := captureErr u.errcap code level, irq := u.irq ||| scuERR }
def Scu.stat (u : Scu) : Word32 := BitVec.ofNat 32 (b2n u.fgBusy + 2 * b2n (u.bgen && !u.fgBusy) + u.bgPass <<< 16)

/-- The value of block `i` of a job: start, block size, sequence folding or not, base (R449, R450). -/
def LaneSpace.blockValue (s : LaneSpace) (start size : Nat) (seqFold : Bool) (base i : Nat) : Except Nat Nat := do
  let a := start + i * size
  let bs ← s.block a size
  return crc64 (if seqFold then base + i else a) bs

/-- One block of a foreground job: value out, comparison. -/
def Scu.fgBlock (u : Scu) (s : LaneSpace) (i : Nat) : Except Nat (Scu × LaneSpace) := do
  let size := 2 ^ bits u.cfg.toNat 4 0
  let v ← s.blockValue u.start size (bit u.cfg.toNat 8) u.seq i
  let s1 ← if bit u.cfg.toNat 10 then
      match areaOf (u.out + 8 * i) 8 with
      | some (.tcm, o) => pure { s with tcm := s.tcm.wr o 8 v }
      | some (.dram, o) => pure { s with dram := s.dram.wr o 8 v }
      | _ => .error 5
    else pure s
  if bit u.cfg.toNat 9 then
    let e ← s.block (u.exp + 8 * i) 8
    if Bytes.nat e = v then pure (u, s1)
    else
      let first := u.mis.getLsbD 31
      let u1 := { u with miscnt := BitVec.ofNat 32 (min 0xFFFFFF (u.miscnt.toNat + 1)),
                         mis := if first then u.mis else BitVec.ofNat 32 (i % 0x1000000 + 0x80000000) }
      pure ((if first then u1 else u1.raise scuMISMATCH).error 4 2, s1)
  else pure (u, s1)

/-- A foreground job from block `i` on. -/
def Scu.fgRun (u : Scu) (s : LaneSpace) (i : Nat) : Nat → Scu × LaneSpace
  | 0 => (u, s)
  | n + 1 =>
    match u.fgBlock s i with
    | .ok r => Scu.fgRun r.1 r.2 (i + 1) n
    | .error e => (u.error e 2, s)

/-- SCU_FG_CFG.GO (R450, R460): the job starts, its results cleared. -/
def Scu.fgGo (u : Scu) : Scu :=
  if u.fgBusy then u else { u with cfg := u.cfg ||| 0x80000000, mis := 0, miscnt := 0 }

/-- The end of a foreground job: every block in order, FGDONE. -/
def Scu.fgDone (u : Scu) (s : LaneSpace) : Scu × LaneSpace :=
  if u.fgBusy then
    let r := u.fgRun s 0 (bits u.len.toNat 23 0)
    ({ (r.1.raise scuFGDONE) with cfg := r.1.cfg &&& 0x7FFFFFFF }, r.2)
  else (u, s)

/-- One region of the background scan (R451). -/
def Scu.bgEntry (u : Scu) (s : LaneSpace) (k : Nat) : Scu :=
  let o := bits u.bgTab.toNat 23 0 + 32 * k
  let cfg := s.tcm.rd (o + 12) 4
  let size := 2 ^ bits cfg 4 0
  if bits cfg 4 0 < 6 ∨ 20 < bits cfg 4 0 then u.error 6 2
  else if bit cfg 9 then
    (List.range (s.tcm.rd (o + 8) 4)).foldl (fun acc i =>
      match s.blockValue (s.tcm.rd o 8) size (bit cfg 8) (s.tcm.rd (o + 16) 8) i, s.block (s.tcm.rd (o + 24) 8 + 8 * i) 8 with
      | .ok v, .ok e =>
        if Bytes.nat e = v then acc
        else
          let acc1 := if acc.bgMis.getLsbD 31 then acc
            else { acc with bgMis := BitVec.ofNat 32 (i % 0x1000000 + k <<< 24 + 0x80000000) }
          (acc1.raise scuMISMATCH).error 4 2
      | _, _ => acc.error 5 2) u
  else u

/-- The end of a background pass (R451). -/
def Scu.bgDone (u : Scu) (s : LaneSpace) : Scu :=
  if u.bgen then
    let r := (List.range (min 16 (bits u.bgTab.toNat 28 24))).foldl (fun acc k => acc.bgEntry s k) { u with bgMis := 0 }
    { r.raise scuBGPASS with bgPass := (r.bgPass + 1) % 65536, bgPos := 0 }
  else u

/-- A word that ECC corrected during a scan (R452): written back (code 1) or skipped (code 2). -/
def Scu.ecc (u : Scu) (codes : List Nat) : Scu :=
  codes.foldl (fun acc c => if c = 1 ∨ c = 2 then acc.error c 1 else if c = 3 then acc.error 3 1 else acc) u

end Sys2Proof.Machine
end

