-- ==== Sys2Proof/Machine/ModOps.lean ====
section
/-!
DEFINITION. The operations on the whole module that many commands share: records, deliveries, silence of a lane (06_lanes_and_voting.md
R154), entry into HELD (12_faults_and_guarantees.md R363, R501), service state, role, and the frames of the pair link
(11_module_pair.md R331).
-/
namespace Sys2Proof.Machine

/-- The service state's code in cycle headers, mailboxes and records (14_jade_mailboxes.md, "Mailbox response descriptor"). -/
def Service.code : Service → Nat
  | .starting => 0
  | .held => 1
  | .reduced => 2
  | .full => 3

def Mod.lane (m : Mod) (x : Lane) : LaneSt := m.lanes.get x
def Mod.setLane (m : Mod) (x : Lane) (l : LaneSt) : Mod := { m with lanes := m.lanes.set x l }
def Mod.modLane (m : Mod) (x : Lane) (f : LaneSt → LaneSt) : Mod := m.setLane x (f (m.lane x))

/-- The clock never runs back: a command that names an instant brings it there (assumption log 4). -/
def Mod.advance (m : Mod) (t : Nat) : Mod := { m with clock := max m.clock t }

/-- Module time: the network time base of the channel controllers (08_phase_and_time.md R237, R238). -/
def Mod.now (m : Mod) : Nat := m.obx.net m.clock

/-- A lane's own module time (08_phase_and_time.md R237). -/
def Mod.laneTime (m : Mod) (x : Lane) : Nat := ((m.clock : Int) + (m.lane x).tOff).toNat

/-- A record is offered to Amber with its time, cycle and SID (17_amber_recorder.md R461). -/
def Mod.put (m : Mod) (e : Evt) : Mod := { m with amber := m.amber.offer (e.toRec m.now m.cycle m.sid m.time.verified) }
def Mod.puts (m : Mod) (es : List Evt) : Mod := es.foldl Mod.put m

/-- Something leaves the module. -/
def Mod.send (m : Mod) (d : Dest) (b : Bytes) : Mod := { m with sent := m.sent ++ [⟨m.clock, d, b⟩] }

def Mod.inService (m : Mod) : Bool := m.service == .reduced || m.service == .full
/-- The lanes that count (R185, GRN_VOTERS.VOTE). -/
def Mod.voters (m : Mod) : List Lane := Lane.all.filter fun x => (m.lane x).voting
/-- The lane's slice takes part in the cycle: GRN_CTRL.EN is set and the lane is not silent (R185). -/
def LaneSt.partakes (l : LaneSt) : Bool := l.grn.ctrl.getLsbD 0 && !l.silent
/-- The lanes that count and take part in the present cycle. -/
def Mod.present (m : Mod) : List Lane := Lane.all.filter fun x => (m.lane x).voting && (m.lane x).partakes
/-- The lanes that run a cycle: voting or in shadow, and taking part (R179). -/
def Mod.running (m : Mod) : List Lane := Lane.all.filter fun x => ((m.lane x).voting || (m.lane x).shadow) && (m.lane x).partakes
/-- The source number of a record that one lane writes for the module: the earliest voting lane, else Jade. -/
def Mod.src (m : Mod) : Nat :=
  match m.voters.head? with
  | some x => x.idx
  | none => 3

/-- Whether a lane's gate inputs can be live (R174): its domain on, out of reset, voting and not silent. -/
def Mod.can (m : Mod) : PerLane Bool :=
  m.lanes.map fun l => l.powered && l.released && !l.stopped && l.voting && !l.silent && m.inService

/-- The output gates follow a change of what the lanes can drive. -/
def Mod.gates (m : Mod) : Mod :=
  let l1 := (m.lio.watchLive m.can m.clock).follow m.can
  let (l2, es) := Lio.changes m.lio l1
  ({ m with lio := l2 } : Mod).puts es

/-- Whether lane `x` takes items of a path into its ring: the unit's EN bit of its view, where the unit has one (07_opbex.md R234,
09_local_safety_io.md R291, 10_older_interfaces_and_bridging.md R327). -/
def Mod.takes (m : Mod) (p : Path) (x : Lane) : Bool :=
  (m.lane x).powered &&
    match p with
    | .obxA | .obxB => (m.lane x).obx.ctrl.getLsbD 0
    | .lio => (m.lio.lanes.get x).ctrl.getLsbD 0
    | .draip => (m.drp.lanes.get x).ctrl.getLsbD 0
    | .kst | .pair => true

/-- The memories a lane's movers address. -/
def LaneSt.space (l : LaneSt) : LaneSpace := ⟨l.tcm, l.dram, l.beryl⟩
/-- What a mover leaves behind. -/
def LaneSt.setSpace (l : LaneSt) (s : LaneSpace) : LaneSt := { l with tcm := s.tcm, dram := s.dram, beryl := s.brl }

/-- The ingress port of a path (16_movers_checks_crossings.md R442). -/
def Path.port : Path → Nat
  | .obxA => 0
  | .obxB => 1
  | .kst => 2
  | .lio => 3
  | .draip => 4
  | .pair => 5

/-- An item as a RING channel writes it (the layout is the model's, assumption log 55). -/
def Item.ringBytes (i : Item) (count : Nat) : Bytes :=
  leBytes 8 i.amc ++ leBytes 1 i.cls ++ leBytes 3 0 ++ leBytes 4 i.num ++ leBytes 4 i.seq ++ leBytes 4 count ++ leBytes 4 i.body.length ++ leBytes 4 0
    ++ i.body

/-- An item reaches a lane: the port of a paused RING channel holds it back (R445); else it joins the ring, and a running RING channel of
the port writes it to memory (R442). -/
def LaneSt.take (l : LaneSt) (p : Path) (i : Item) : LaneSt :=
  if l.tdm.portHeld p.port then { l with portWait := l.portWait ++ [(p, i)] }
  else
    let r := l.rings.push p i
    let w := l.tdm.ringWrite l.space p.port (i.ringBytes (r.get p).count)
    ({ l with rings := r, tdm := w.1 } : LaneSt).setSpace w.2

/-- One item reaches the receive ring of one lane. -/
def Mod.ringPut (p : Path) (i : Item) (m : Mod) (x : Lane) : Mod :=
  if m.takes p x then m.modLane x fun l => l.take p i else m

/-- One item reaches the receive rings of the lanes (01_one_logic_cycle.md R18). -/
def Mod.deliver (m : Mod) (p : Path) (i : Item) : Mod := Lane.all.foldl (Mod.ringPut p i) m

/-- The arrival minor cycle of an item received now (07_opbex.md R190). -/
def Mod.amc (m : Mod) : Nat := m.obx.mcn

def irqGrnVOTE : Word32 := 1
def irqGrnMINOR : Word32 := 2
def irqGrnLINK : Word32 := 4
def irqGrnCOPYDONE : Word32 := 8
def irqGrnSHADOW : Word32 := 16
def irqGrnHELD : Word32 := 32
def LaneSt.grnRaise (l : LaneSt) (w : Word32) : LaneSt := { l with grn := { l.grn with irq := l.grn.irq ||| w } }
def LaneSt.grnError (l : LaneSt) (code level : Nat) : LaneSt := { l with grn := { l.grn with errcap := captureErr l.grn.errcap code level } }
/-- An interrupt of every lane's Garnet slice. -/
def Mod.grnAll (m : Mod) (w : Word32) : Mod := { m with lanes := m.lanes.map fun l => l.grnRaise w }

/-! ### Outputs of the channel controllers -/

def chPath : Chan → Path
  | .a => .obxA
  | .b => .obxB

/-- One outcome of a channel controller's action. -/
def Mod.obxOut (m : Mod) (o : ObxOut) : Mod :=
  match o with
  | .send d b => m.send d b
  | .item ch i => m.deliver (chPath ch) i
  | .evt e => m.put e
  | .irq w => { m with lanes := m.lanes.map fun l => { l with obx := { l.obx with irq := l.obx.irq ||| w } } }
  | .err code level => { m with lanes := m.lanes.map fun l => { l with obx := l.obx.error code level } }
  | .viol ch n =>
    let up (v : ObxLane) : ObxLane :=
      match ch with
      | .a => { v with violA := min 0xFFFF (v.violA + n) }
      | .b => { v with violB := min 0xFFFF (v.violB + n) }
    { m with lanes := m.lanes.map fun l => { l with obx := up l.obx } }
def Mod.obxOuts (m : Mod) (os : List ObxOut) : Mod := os.foldl Mod.obxOut m

/-- One outcome of the bridge's action. -/
def Mod.drOut (m : Mod) (o : DrOut) : Mod :=
  match o with
  | .item num seq kind body => m.deliver .draip ⟨m.amc, 4, num, seq, kind, body⟩
  | .line port body => m.send (.draip port) body
  | .record e => m.put e
def Mod.drOuts (m : Mod) (os : List DrOut) : Mod := os.foldl Mod.drOut m

/-! ### The pair link's frames (R331) -/

/-- A frame on the pair link: the header of R160 with SRC the SID, the payload and its CRC-32C. -/
def Mod.pairFrame (m : Mod) (ty : Nat) (payload : Bytes) : Bytes :=
  let seq := (m.sent.filter fun s => s.dest == .pair).length
  let b := leBytes 1 ty ++ leBytes 1 m.sid ++ leBytes 2 seq ++ leBytes 2 payload.length ++ leBytes 8 m.cycle ++ leBytes 2 0 ++ payload
  b ++ leBytes 4 (crc32c b)

/-- A frame leaves on the pair link while the link is up. -/
def Mod.pairSend (m : Mod) (ty : Nat) (payload : Bytes) : Mod :=
  if m.pair.linkUp then m.send .pair (m.pairFrame ty payload) else m

/-- The CTRL messages of the pair link; their packing is the model's (assumption log 32): kind, then an argument of 8 bytes. -/
def ctrlSTATUS : Nat := 0
def ctrlOFFER : Nat := 1
def ctrlACCEPT : Nat := 2
def ctrlABORT : Nat := 3
def ctrlRELINQUISH : Nat := 4
def ctrlRELACK : Nat := 5
def ctrlDEMOTE : Nat := 6
def ctrlLC : Nat := 7
def Mod.ctrl (m : Mod) (kind arg : Nat) : Mod := m.pairSend 0x18 (leBytes 1 kind ++ leBytes 8 arg)

/-- The claim number the module sends with a role (R329, R203). -/
def Mod.claimNum (m : Mod) (role : Nat) : Nat := (⟨m.pair.epoch, role, m.sid⟩ : Claim).num

/-! ### Service state (R175) -/

/-- The SSTATE record of a change. -/
def Mod.setService (m : Mod) (s : Service) : Mod :=
  if m.service = s then m
  else ({ m with service := s } : Mod).put (mkEvt 0x0003 m.src 7 0 (leBytes 1 m.service.code ++ leBytes 1 s.code))

/-- The service state that the number of counting lanes gives a module in service. -/
def Mod.countService (m : Mod) : Mod :=
  if m.inService = false then m
  else if 3 ≤ m.voters.length then m.setService .full
  else m.setService .reduced

/-- The PARAM of a HELD record (R501). -/
def heldParam (cause cycle : Nat) : Bytes := leBytes 2 cause ++ leBytes 8 cycle

/-- A lower cause within the same 1 ms is the one recorded (R501): the record waiting in its intake buffer takes it. -/
def Mod.lowerCause (m : Mod) (cause : Nat) : Mod :=
  if m.heldCause ≤ cause ∨ m.heldAt + 1000000 ≤ m.now then m
  else
    let fix (r : Rec) : Rec :=
      if r.code = 0x0001 ∧ r.time = m.heldAt then { r with param := Bytes.pad (heldParam cause m.cycle) 36 } else r
    { m with heldCause := cause
             amber := { m.amber with intake := m.amber.intake.map fun k => { k with buf := k.buf.map fix } } }

/-- A change under way ends ABORTED (05_change_while_running.md R148). -/
def abortedOf (w : ChangeWait) : ChangeResult :=
  ⟨w.chid, 5, w.way, 0, 0, 0, 0, 0, 0, 0, 0, 0, []⟩
def LaneSt.abortChange (l : LaneSt) : LaneSt :=
  match l.rt.change with
  | some w => { l with rt := { l.rt with change := none, result := some (abortedOf w) } }
  | none => l

/-- A lane of a module that enters HELD: it neither votes nor seals and keeps its state (R363). -/
def LaneSt.hold (l : LaneSt) : LaneSt :=
  (({ l with voting := false, shadow := false, silent := false, leaving := none, offer := none, cut := none } : LaneSt).abortChange).grnRaise
    irqGrnHELD

/-- What HELD does to the role: an active module relinquishes to a hot partner (R346), a hot standby becomes cold (R333). -/
def Mod.heldRole (m : Mod) : Mod :=
  if m.role = roleACTIVE ∧ m.pair.partnerHot = true ∧ m.pair.linkUp = true then
    let m1 := m.ctrl ctrlRELINQUISH (m.claimNum roleACTIVE)
    { m1 with pair := { m1.pair with relinquishAt := some m1.clock } }
  else if m.role = roleHOT then
    { m with role := roleCOLD, pair := m.pair.cold }
  else m

/-- Entry into HELD (R363, R501, R346). -/
def Mod.enterHeld (m : Mod) (cause : Nat) : Mod :=
  if m.service = .held then m.lowerCause cause
  else
    let rec1 := mkEvt 0x0001 m.src 7 0 (heldParam cause m.cycle)
    let m1 : Mod := (m.setService .held).put rec1
    let drp := m1.drp.setRole (m1.role == roleACTIVE && m1.everActive) true
    let m2 : Mod :=
      { m1 with heldCause := cause, heldAt := m.now, ph := .idle, handed := true, outWait := none, winAt := none, rotation := none, copy := none,
                lanes := m1.lanes.map LaneSt.hold, obx := { m1.obx with hpoll := true }, drp := drp, minNow := [],
                kst := { m1.kst with superAt := m1.kst.superAt } }
    m2.gates.heldRole

/-! ### Silence and exits (R154, R155) -/

/-- Causes of leaving beyond those of LCT_FAULT (16_movers_checks_crossings.md): the model's own numbers. -/
def exMINORITY : Nat := 0x10
def exDEVIATION : Nat := 0x11
def exDIVERGENT : Nat := 0x12
def exROTATION : Nat := 0x13
def exLINK : Nat := 0x14
def exGATE : Nat := 0x15
def exSHADOW : Nat := 0x16
def exSCAN : Nat := 0x17
def exCHANGE : Nat := 0x18
def exHALT : Nat := 0x19

/-- Whether an exit counts as for cause (R155, R183, R179, R356). -/
def forCause (c : Nat) : Bool := decide (1 ≤ c ∧ c ≤ 0x0C) || c == exDIVERGENT || c == exSHADOW || c == exSCAN
/-- The cause byte of a LANE_EXIT record. -/
def exitByte (c : Nat) : Nat := if c ≤ 0x0C then c else Config.exitCause c % 256

/-- The LANE_EXIT and ROTATION records (17_amber_recorder.md R470); result 0 is a rotation that ended with the lane counting (assumption log 42). -/
def exitEvt (src : Nat) (x : Lane) (c n : Nat) : Evt := mkEvt 0x1002 src 5 0 (leBytes 1 x.idx ++ leBytes 1 (exitByte c) ++ leBytes 1 n)
def rotEvt (src : Nat) (x : Lane) (res ms : Nat) : Evt := mkEvt 0x1004 src 5 0 (leBytes 1 x.idx ++ leBytes 1 res ++ leBytes 4 ms)

/-- A lane is to leave the vote at the next boundary; the first cause stands. -/
def LaneSt.leave (l : LaneSt) (c : Nat) : LaneSt := if l.leaving.isSome then l else { l with leaving := some c }

/-- The first silence cause since lane reset with its level and unit (LCT_FAULT, R458). -/
def LaneSt.noteFault (l : LaneSt) (c level unitNo : Nat) : LaneSt :=
  if l.lct.fault = 0 then
    { l with lct := { l.lct with fault := BitVec.ofNat 32 (c + level <<< 8 + unitNo <<< 16) }, faultRec := level }
  else l

/-- What silence does inside the lane (R152, R154): nothing offered, gate commands off, LCT_IRQ.SIL raised (R458). -/
def LaneSt.quiet (l : LaneSt) : LaneSt :=
  { l with silent := true, offer := none, cut := none
           lct := { l.lct with irq := if l.silent then l.lct.irq else l.lct.irq ||| 1#32 } }

/-- The HELD that follows when fewer than two counting lanes are left (R175, R180). -/
def Mod.tooFew (m : Mod) : Mod :=
  if m.inService = true ∧ m.present.length < 2 then
    m.enterHeld (if m.power.pfail then 0x0B else if m.rotation.isSome then 8 else 3)
  else m

/-- One result of a shadow cycle is a failure (R179): the copy is made once more, a second failure holds the lane out and counts as
an exit for cause. -/
def Mod.shadowFail (m : Mod) (x : Lane) : Mod :=
  match m.copy with
  | none => m
  | some c =>
    if c.dst ≠ x then m
    else
      let m1 := m.modLane x fun l => ({ l with shadow := false, silent := false } : LaneSt).grnRaise irqGrnSHADOW
      if c.tries < 2 then { m1 with copy := some { c with equal := false, passes := 0, tries := c.tries + 1, since := m.clock } }
      else
        let day := 86400000000000
        let l := m1.lane x
        let exits := (l.exits.filter fun e => decide (m1.clock < e + day)) ++ [m1.clock]
        let m2 := (m1.setLane x { l with exits := exits, heldOut := true, released := false, stopped := true }).put
          (exitEvt m1.src x exSHADOW exits.length)
        match m2.rotation with
        | some r => if r.lane = x then { m2.put (rotEvt m2.src x 1 ((m2.clock - r.since) / 1000000)) with copy := none, rotation := none }
          else { m2 with copy := none }
        | none => { m2 with copy := none }

/-- A lane falls silent (R154). -/
def Mod.silence (m : Mod) (x : Lane) (c level unitNo : Nat) : Mod :=
  let l := m.lane x
  let m1 := m.setLane x (l.noteFault c level unitNo).quiet
  if l.silent then m1.gates
  else if l.voting then ((m1.modLane x fun y => y.leave c).gates).tooFew
  else if l.shadow then (m1.gates).shadowFail x
  else m1.gates

/-- A lane stopped by a lock-step or comparator fault (R152): its core pair stops. -/
def Mod.stopLane (m : Mod) (x : Lane) (c unitNo : Nat) : Mod :=
  let m1 := m.modLane x fun l => { l with stopped := true }
  let m2 := m1.silence x c 4 unitNo
  let w := (m2.lane x).lct.fault.toNat
  m2.puts ((m.present.filter (· ≠ x)).map fun y => mkEvt 0x1001 y.idx 4 unitNo (leBytes 4 w))

/-- GRN_STAT of a lane (R185). -/
def Mod.grnStat (m : Mod) (x : Lane) : Word32 :=
  let l := m.lane x
  let ss := if m.inService then m.service.code else 0
  BitVec.ofNat 32 (ss + 4 * b2n l.voting + 8 * b2n l.silent + 16 * b2n m.winAt.isSome
    + 32 * b2n (l.offer.isSome && decide (m.clock < l.offerAt + 26000))
    + 64 * b2n (match m.copy with
                | some c => c.src == x || c.dst == x
                | none => false)
    + 128 * b2n m.rotation.isSome)
/-- GRN_VOTERS (R185). -/
def Mod.grnVoters (m : Mod) : Word32 :=
  let mask (f : LaneSt → Bool) : Nat := b2n (f m.lanes.a) + 2 * b2n (f m.lanes.b) + 4 * b2n (f m.lanes.c)
  BitVec.ofNat 32 (mask (·.voting) + 16 * mask (·.shadow) + 256 * mask (·.heldOut) + 4096 * mask (·.silent))
/-- GRN_LINK of a lane (R185). -/
def Mod.grnLink (m : Mod) (x : Lane) : Word32 :=
  BitVec.ofNat 32 (m.links.ab.st + 16 * m.links.bc.st + 256 * m.links.ca.st + min 0xFFF (m.lane x).grn.retry <<< 16)
/-- GRN_EXITS: exits for cause of each lane in the last 24 h (R185). -/
def Mod.grnExits (m : Mod) : Word32 :=
  let n (l : LaneSt) : Nat := (l.exits.filter fun e => decide (m.clock < e + 86400000000000)).length
  BitVec.ofNat 32 (min 255 (n m.lanes.a) + min 255 (n m.lanes.b) <<< 8 + min 255 (n m.lanes.c) <<< 16)

def GLinks.get (g : GLinks) : LinkName → GLink
  | .ab => g.ab
  | .bc => g.bc
  | .ca => g.ca
def GLinks.set (g : GLinks) (n : LinkName) (v : GLink) : GLinks :=
  match n with
  | .ab => { g with ab := v }
  | .bc => { g with bc := v }
  | .ca => { g with ca := v }
/-- The two ends of a link and the lane opposite: the earlier end, the later end, the opposite lane (R161). -/
def LinkName.ends : LinkName → Lane × Lane × Lane
  | .ab => (.a, .b, .c)
  | .bc => (.b, .c, .a)
  | .ca => (.a, .c, .b)
def LinkName.idx : LinkName → Nat
  | .ab => 0
  | .bc => 1
  | .ca => 2

/-! ### Life-cycle transitions (15_lifecycle_identity_update.md R417) -/

/-- The LC_TRANSITION record: old and new state, the first bytes of the signer's key digest. -/
def lcEvt (old new : LcState) (signer : Bytes) : Evt := mkEvt 0x9001 3 7 0 (leBytes 1 old.code ++ leBytes 1 new.code ++ signer.take 16)

/-- A transition takes effect: LCCOUNT advances, the split option is cleared, the record is written; the lanes learn of it. -/
def Mod.setLc (m : Mod) (s : LcState) (signer : Bytes) : Mod :=
  ({ m with jade := m.jade.setLc s, lanes := m.lanes.map fun l => { l with lc := s, splitNext := false } } : Mod).put
    (lcEvt m.jade.lc s signer)

/-! ### Role -/

/-- The module takes a role: ACTIVE drives the bridge, every other role leaves its drivers off (R297, R334). -/
def Mod.setRole (m : Mod) (r : Nat) : Mod :=
  { m with role := r, everActive := m.everActive || r == roleACTIVE,
           drp := m.drp.setRole (r == roleACTIVE) (m.service == .held) }

end Sys2Proof.Machine
end

