-- ==== Sys2Proof/Machine/BerylMod.lean ====
section
/-!
DEFINITION. Beryl's commands on a lane, with the silence that follows a fault (03_route_admission.md R62 to R88).
-/
namespace Sys2Proof.Machine

/-- An action of a powered lane's Beryl. A fault it sets silences the lane and is recorded by the other voting lanes, else by the lane itself
(R88, R154). -/
def Mod.berylDo (m : Mod) (x : Lane) (f : LaneSt → LaneSt) : Mod :=
  let l := m.lane x
  let l1 := f l
  if l.powered = false then m
  else if l1.beryl.regs.faulted = true ∧ l.beryl.regs.faulted = false then
    ((m.setLane x l1).put (mkEvt 0x2001 x.idx (bits l1.beryl.regs.errcap.toNat 11 8) 3 (leBytes 4 l1.beryl.regs.errcap.toNat))).silence x 3
      (bits l1.beryl.regs.errcap.toNat 11 8) 3
  else m.setLane x l1

/-- The Beryl of a lane acts on its own. -/
def LaneSt.onBeryl (l : LaneSt) (f : Beryl → Beryl) : LaneSt := { l with beryl := f l.beryl }

/-- BRL_REQ_PROD written (R63). -/
def LaneSt.reqProd (l : LaneSt) (v : Nat) : LaneSt :=
  l.onBeryl fun b => { b with regs := { b.regs with reqProd := BitVec.ofNat 32 (v % 1024) } }
/-- BRL_RSP_CONS written (R64). -/
def LaneSt.rspCons (l : LaneSt) (v : Nat) : LaneSt :=
  l.onBeryl fun b => { b with regs := { b.regs with rspCons := BitVec.ofNat 32 (v % 1024) } }
/-- The next descriptor accepted (R63). -/
def LaneSt.acceptNext (l : LaneSt) : LaneSt := l.onBeryl fun b => b.acceptNext l.tcm

/-- The descriptor at the head of Beryl's pipeline, of operation `op`, decided. -/
def LaneSt.decideOp (l : LaneSt) (op : Nat) : LaneSt :=
  match l.beryl.accepted with
  | a :: _ =>
    if a.pre.isSome ∨ a.desc.op ≠ op ∨ l.beryl.regs.faulted = true then l
    else
      let r := l.beryl.decideHead (l.beryl.stn l.dram) l.tcm
      { l with beryl := r.1, tcm := r.2 }
  | [] => l

/-- A response written into the ring (R64). -/
def LaneSt.writeResponse (l : LaneSt) : LaneSt :=
  let r := l.beryl.writeResponse l.tcm
  { l with beryl := r.1, tcm := r.2 }

/-- BRL_CTRL: EN and HOLD (R86). -/
def LaneSt.brlCtrl (l : LaneSt) (v : Word32) : LaneSt :=
  l.onBeryl fun b => { b with regs := { b.regs with ctrl := v &&& 3#32 } }

/-- BRL_CMD LOAD (R61). -/
def LaneSt.brlLoad (l : LaneSt) : LaneSt :=
  let r := l.beryl.load l.dram
  { l with beryl := r.1, dram := r.2 }
def LaneSt.brlClear (l : LaneSt) : LaneSt := l.onBeryl Beryl.clear
def LaneSt.brlStep (l : LaneSt) : LaneSt := l.onBeryl fun b => b.step (b.stn l.dram)
def LaneSt.brlSweep (l : LaneSt) : LaneSt := l.onBeryl Beryl.startSweep
def LaneSt.sweepDone (l : LaneSt) : LaneSt := l.onBeryl fun b => b.finishSweep (b.stn l.dram)

/-- One due thing within STEP, of a Beryl that runs. -/
def LaneSt.due (l : LaneSt) (f : Beryl → Stn → Beryl) : LaneSt :=
  if l.beryl.regs.faulted then l else l.onBeryl fun b => f b (b.stn l.dram)
/-- A pending entry's lifetime has passed (R74). -/
def LaneSt.pendingExpire (l : LaneSt) (r : Nat) : LaneSt := l.due fun b d => b.expireOne d r
/-- An area's release timer is due (R79). -/
def LaneSt.areaTimer (l : LaneSt) (a : Nat) : LaneSt := l.due fun b d => b.areaDue d a
/-- A SET route's timed release is due (R80): the route and its overlap go together. -/
def LaneSt.routeTrel (l : LaneSt) (r : Nat) : LaneSt :=
  l.due fun b d => if b.rt.set.getLsbD r && b.rt.trel.getLsbD r && isDue b.nowMs (SMap.get 0 b.ws.rdl r) then b.releaseBoth d r else b
/-- An overlap's timed release is due (R80). -/
def LaneSt.overlapTrel (l : LaneSt) (r : Nat) : LaneSt :=
  l.due fun b d =>
    if b.rt.ovlSet.getLsbD r && b.rt.ovlTrel.getLsbD r && isDue b.nowMs (SMap.get 0 b.ws.odl (d.rOvl r)) then b.releaseOverlap d (d.rOvl r) r
    else b

/-- A row fetch not done within 2 µs (R88). -/
def LaneSt.fetchTimeout (l : LaneSt) : LaneSt := if l.beryl.regs.faulted then l else l.onBeryl fun b => b.error 4 2

/-- A read of BRL_ERRCAP (R62). -/
def LaneSt.readBrlErr (l : LaneSt) : LaneSt :=
  { l with readData := l.beryl.regs.errcap.toNat
           beryl := { l.beryl with regs := { l.beryl.regs with errcapLr := l.beryl.regs.errcap, errcap := 0 } } }

end Sys2Proof.Machine
end

