-- ==== Sys2Proof/Machine/BlockOps.lean ====
section
/-!
DEFINITION. The system function-block library (04_interlocking_programs.md R105 to R116): each block works on its instance in lane
memory, takes its inputs in the order of R107 and answers its outputs in that order.
-/
namespace Sys2Proof.Machine

def arg (as : List Nat) (k : Nat) : Nat := as.getD k 0
def argB (as : List Nat) (k : Nat) : Bool := as.getD k 0 != 0

/-- Whether `rising` edge of `v` against the sample at body offset `o`; at the first call of an instance there is none (R106). -/
def LaneSt.edge (l : LaneSt) (i o : Nat) (v : Bool) : LaneSt × Bool :=
  let prev := if l.first i then v else l.bodyRd i o 1 != 0
  ((l.clearFirst i).bodyWr i o 1 (b2n v), v && !prev)

/-! ### ROUTE_REQ and ROUTE_REL (R108 to R110) -/

/-- The answer of a request block's descriptor: DONE, STATUS, WHO, BUSY cleared; QUEUED sets QD. -/
def LaneSt.presentAnswer (l : LaneSt) (i st who : Nat) (req : Bool) : LaneSt :=
  let l1 := (((l.bodyWr i 0x11 1 0).bodyWr i 0x12 1 1).bodyWr i 0x13 1 st).bodyWr i 0x14 2 who
  if req && st == stQUEUED then l1.bodyWr i 0x17 1 1 else l1

/-- What waits for the instance is presented at its call: first its descriptor's answer, then the UNSOL answer (R108). -/
def LaneSt.presentWaiting (l : LaneSt) (i : Nat) (req : Bool) : LaneSt :=
  let l1 := match l.rt.answers.find i with
    | some (st, who) => { l with rt := { l.rt with answers := l.rt.answers.del i } }.presentAnswer i st who req
    | none => l
  match l1.rt.waiting.find i with
  | some w =>
    let l2 : LaneSt := { l1 with rt := { l1.rt with waiting := l1.rt.waiting.del i } }
    ((l2.bodyWr i 0x17 1 0).bodyWr i 0x13 1 (w % 65536)).bodyWr i 0x14 2 (w / 65536)
  | none => l1

/-- A descriptor of class 5 issued for a request block; the answer is presented at once, or kept for the next call where ASYNC. -/
def LaneSt.requestBlock (l : LaneSt) (p i op route : Nat) (queue : Bool) (a0 a1 : Nat) (async req : Bool) : LaneSt :=
  let l1 := ((l.bodyWr i 0x11 1 1).bodyWr i 0x12 1 0).bodyWr i 0x16 1 l.rt.tag
  let r := l1.issue (l1.desc5 p op route queue a0 a1 0)
  let a := rspOf r.2.1
  let rt := { r.1.rt with pseq := l.rt.pseq + 1, unsol := if req && a.1 == stQUEUED then r.1.rt.unsol.put route i else r.1.rt.unsol }
  let l2 := ({ r.1 with rt := rt } : LaneSt).unsolAll r.2.2
  if async then { l2 with rt := { l2.rt with answers := l2.rt.answers.put i a } }
  else l2.presentAnswer i a.1 a.2 req

/-- ROUTE_REQ (R108). -/
def LaneSt.fbRouteReq (l : LaneSt) (p : Nat) (arsProg : Bool) (i : Nat) (as : List Nat) : LaneSt × List Nat :=
  let route := arg as 0
  let l0 := l.presentWaiting i true
  let e := l0.edge i 0x10 (argB as 1)
  let l1 := e.1
  let busy := l1.bodyRd i 0x11 1 != 0 || l1.bodyRd i 0x17 1 != 0
  let op := if argB as 3 then opPROBE else opSET
  let l2 :=
    if e.2 = false ∨ busy = true then l1
    else if argB as 4 then
      if arsProg then
        let d : Desc := { op := op, tag := 0, queue := argB as 2, cls := 6, num := 0, route := route, amc := l1.rt.amc, seq := 0,
                          arg0 := arg as 6, arg1 := 0, arg2 := 0, rsv := false }
        let l2 := (l1.bodyWr i 0x11 1 1).bodyWr i 0x12 1 0
        { l2 with rt := { l2.rt with ars := l2.rt.ars ++ [⟨i, d⟩] } }
      else l1.presentAnswer i stARSREFUSED route true
    else l1.requestBlock p i op route (argB as 2) (arg as 6) 0 (argB as 5) true
  (l2, [l2.bodyRd i 0x11 1, l2.bodyRd i 0x12 1, l2.bodyRd i 0x17 1, l2.bodyRd i 0x13 1, l2.bodyRd i 0x14 2])

/-- ROUTE_REL (R110). -/
def LaneSt.fbRouteRel (l : LaneSt) (p i : Nat) (as : List Nat) : LaneSt × List Nat :=
  let l0 := l.presentWaiting i false
  let e := l0.edge i 0x10 (argB as 1)
  let l1 := e.1
  let o := arg as 2
  let l2 :=
    if e.2 = false ∨ (l1.bodyRd i 0x11 1 != 0) = true then l1
    else if o = 0 ∨ 4 < o then l1.presentAnswer i stRANGE none16 false
    else
      let op := if o = 1 then opCANCEL else if o = 2 then opTREL else if o = 3 then opDEQUEUE else opAREL
      l1.requestBlock p i op (arg as 0) false (if o = 4 then arg as 3 else 0) (if o = 4 then arg as 4 else 0) (argB as 5) false
  (l2, [l2.bodyRd i 0x11 1, l2.bodyRd i 0x12 1, l2.bodyRd i 0x13 1, l2.bodyRd i 0x14 2])

/-! ### POINT, SIGNAL, SECTION (R111, R112, R114) -/

/-- LKN, LKR, FLN, FLR of an element. -/
def LaneSt.pointLocked (l : LaneSt) (e : Nat) : Bool :=
  l.beryl.ws.lkn.getLsbD e || l.beryl.ws.lkr.getLsbD e || l.beryl.ws.fln.getLsbD e || l.beryl.ws.flr.getLsbD e

/-- A change of a point's command (R111): the other plane cleared, then the own one set. -/
def LaneSt.throwPoint (l : LaneSt) (p i e cmd : Nat) : LaneSt :=
  let a := l.planeBit p (if cmd = 1 then 8 else 7) e false
  let b := a.1.planeBit p (if cmd = 1 then 7 else 8) e true
  if b.2 = stLOCKED then b.1.bodyWr i 0x11 1 1
  else if b.2 = stOK then
    (((((b.1.bodyWr i 0x10 1 cmd).command e cmd 0).bodyWr i 0x18 8 l.now).bodyWr i 0x12 1 0).bodyWr i 0x13 1 0).bodyWr i 0x11 1 0
  else b.1

/-- Supervision of a throw; TSTART 0 says that none runs (DESIGN CHOICE, assumption log 29). -/
def LaneSt.superviseThrow (l : LaneSt) (i e : Nat) : LaneSt :=
  let st := l.bodyRd i 0x18 8
  let cmd := l.bodyRd i 0x10 1
  if st = 0 ∨ cmd = 0 then l
  else if l.eBit (if cmd = 1 then 5 else 6) e then (l.bodyWr i 0x12 1 0).bodyWr i 0x18 8 0
  else
    let w := l.stn.eParam e 0
    let l1 := if bits w 15 0 * 1000 ≤ l.now - st then l.bodyWr i 0x12 1 1 else l
    if bits w 31 16 * 1000 ≤ l.now - st ∧ l.bodyRd i 0x13 1 = 0 then (l1.command e 3 0).bodyWr i 0x13 1 1 else l1

/-- POINT (R111). -/
def LaneSt.fbPoint (l : LaneSt) (p i : Nat) (as : List Nat) : LaneSt × List Nat :=
  let e := arg as 0
  let n := argB as 1
  let r := argB as 2
  let l0 := l.clearFirst i
  let cmd := l0.bodyRd i 0x10 1
  let l1 := if n && !r && cmd != 1 then l0.throwPoint p i e 1 else if r && !n && cmd != 2 then l0.throwPoint p i e 2 else l0
  let l2 := l1.superviseThrow i e
  (l2, [b2n (l.eBit 5 e), b2n (l.eBit 6 e), b2n (l.eBit 9 e), b2n (l.eBit 14 e), b2n (l.pointLocked e), l2.bodyRd i 0x11 1,
        l2.bodyRd i 0x12 1, l2.bodyRd i 0x10 1])

/-- SIGNAL (R112). -/
def LaneSt.fbSignal (l : LaneSt) (p i : Nat) (as : List Nat) : LaneSt × List Nat :=
  let e := arg as 0
  let r := arg as 1
  let req := argB as 2
  let aspect := arg as 3 % 256
  let l0 := l.clearFirst i
  let clear := l0.rBit 5 r
  let proven := l0.rBit 4 r
  let lamp := l0.stn.eLprove e && l0.eBit 12 e
  let l1 :=
    if clear && (!proven || !req || lamp) then
      let a := l0.planeBit p 0x85 r false
      let b := a.1.planeBit p 11 e false
      (b.1.command e 1 0).bodyWr i 0x10 1 0
    else if !clear && req && proven && !lamp then
      let a := l0.planeBit p 0x85 r true
      if a.2 = stNOTPROVEN then a.1.bodyWr i 0x11 1 1
      else if a.2 = stOK then
        let b := a.1.planeBit p 11 e true
        (((b.1.command e 2 aspect).bodyWr i 0x10 1 1).bodyWr i 0x11 1 0).bodyWr i 0x12 1 aspect
      else a.1
    else if clear && l0.bodyRd i 0x12 1 != aspect then (l0.command e 2 aspect).bodyWr i 0x12 1 aspect
    else l0
  (l1, [l1.bodyRd i 0x10 1, b2n (l1.eBit 10 e), b2n (l1.eBit 12 e), l1.bodyRd i 0x11 1])

/-- SECTION (R114). -/
def LaneSt.fbSection (l : LaneSt) (i : Nat) (as : List Nat) : LaneSt × List Nat :=
  let e := arg as 0
  let occ := l.eBit 0 e
  let dist := l.eBit 1 e
  let locked := l.eBit 2 e || l.eBit 3 e
  let ed := l.edge i 0x10 (argB as 1)
  let l0 := if dist then ed.1 else ed.1.bodyWr i 0x11 1 0
  let ax := bits (l.stn.eParam e 1) 15 0
  let l1 :=
    if ed.2 && dist && ax != none16 then
      if locked then l0.bodyWr i 0x12 1 1
      else
        ((l0.command ax (if bits (l.stn.eParam ax 0) 15 8 = 0 then 1 else 2) 0).bodyWr i 0x11 1 1).bodyWr i 0x12 1 0
    else l0
  (l1, [b2n (!occ), b2n occ, b2n dist, b2n (l.eBit 14 e), b2n locked, b2n (l.eBit 19 e), b2n (l.eBit 20 e), b2n (l.eBit 18 e),
        l1.bodyRd i 0x11 1, l1.bodyRd i 0x12 1])

/-! ### Timers and edges (R105, R106) -/

/-- The elapsed time of a running timer. -/
def elapsed (now et start pt : Nat) : Nat := min (max et (now - start)) pt

def LaneSt.putTimer (l : LaneSt) (i start et : Nat) (run q : Bool) : LaneSt :=
  (((l.bodyWr i 0x10 8 start).bodyWr i 0x18 4 et).bodyWr i 0x1C 1 (b2n run)).bodyWr i 0x1D 1 (b2n q)

/-- TIMER_ON (R105). -/
def LaneSt.fbTimerOn (l : LaneSt) (i : Nat) (as : List Nat) : LaneSt × List Nat :=
  let inp := argB as 0
  let pt := arg as 1 % 2 ^ 32
  let fst := l.first i
  let run0 := !fst && l.bodyRd i 0x1C 1 != 0
  let et0 := if fst then 0 else l.bodyRd i 0x18 4
  let start0 := l.bodyRd i 0x10 8
  let (run, start, et) : Bool × Nat × Nat :=
    if !inp then (false, start0, 0)
    else if !run0 then (true, l.now, 0)
    else (true, start0, elapsed l.now et0 start0 pt)
  let q := inp && run && decide (pt ≤ et)
  ((l.clearFirst i).putTimer i start et run q, [b2n q, et])

/-- TIMER_OFF (R105). -/
def LaneSt.fbTimerOff (l : LaneSt) (i : Nat) (as : List Nat) : LaneSt × List Nat :=
  let inp := argB as 0
  let pt := arg as 1 % 2 ^ 32
  let fst := l.first i
  let run0 := !fst && l.bodyRd i 0x1C 1 != 0
  let et0 := if fst then 0 else l.bodyRd i 0x18 4
  let q0 := if fst then inp else l.bodyRd i 0x1D 1 != 0
  let start0 := l.bodyRd i 0x10 8
  let (run, start, et, q) : Bool × Nat × Nat × Bool :=
    if inp then (false, start0, 0, true)
    else if q0 && !run0 then (true, l.now, 0, q0)
    else if run0 then
      let et := elapsed l.now et0 start0 pt
      if pt ≤ et then (false, start0, et, false) else (true, start0, et, q0)
    else (false, start0, et0, q0)
  ((l.clearFirst i).putTimer i start et run q, [b2n q, et])

/-- EDGE_R and EDGE_F (R106). -/
def LaneSt.fbEdge (l : LaneSt) (falling : Bool) (i : Nat) (as : List Nat) : LaneSt × List Nat :=
  let inp := argB as 0
  let prev := if l.first i then inp else l.bodyRd i 0x10 1 != 0
  let q := if falling then !inp && prev else inp && !prev
  (((l.clearFirst i).bodyWr i 0x10 1 (b2n inp)).bodyWr i 0x11 1 (b2n q), [b2n q])

/-! ### Local safety functions and bridged signals (R115, R116) -/

/-- FN names a function of kind `k` of the running SPS (R115). -/
def LaneSt.fnOk (l : LaneSt) (fn k : Nat) : Bool := decide (fn ≤ 15) && Bytes.le l.sps (0x4C0 + 32 * fn) 1 == k

/-- The record of an FN that fails its check, once per instance and cycle (R115). -/
def LaneSt.fnRecord (l : LaneSt) (me : Nat) (i fn : Nat) : LaneSt :=
  let e := mkEvt (Config.otherCode 3 1) me 5 0 (leBytes 4 0 ++ leBytes 8 (l.image.iIid i) ++ leBytes 1 fn)
  if l.rt.recs.contains e then l else l.stage e

/-- SPEED_PROVE (R115). -/
def LaneSt.fbSpeed (l : LaneSt) (me i : Nat) (as : List Nat) : LaneSt × List Nat :=
  let fn := arg as 0
  let ok := l.fnOk fn 1
  let f := l.tcm.rd (inLioFn fn + 4) 4
  let (sp, pr, va, fa) : Nat × Bool × Bool × Bool :=
    if ok then (l.tcm.rd (inLioFn fn) 4, bit f 1, bit f 0, bit f 2) else (0, false, false, true)
  let l0 := if ok then l else l.fnRecord me i fn
  (((((l0.clearFirst i).bodyWr i 0x10 4 sp).bodyWr i 0x14 1 (b2n pr)).bodyWr i 0x15 1 (b2n va)).bodyWr i 0x16 1 (b2n fa),
   [sp, b2n pr, b2n va, b2n fa])

/-- THROW_SUP (R115): the level of START goes tmo bit FN of output word 3 (R101). -/
def LaneSt.fbThrow (l : LaneSt) (me i : Nat) (as : List Nat) : LaneSt × List Nat :=
  let fn := arg as 0
  let start := argB as 1
  let ok := l.fnOk fn 2
  let f := l.tcm.rd (inLioFn fn + 4) 4
  let (iw, en, er, tmo, va) : Bool × Bool × Bool × Bool × Bool :=
    if ok then (bit f 3, bit f 4, bit f 5, bit f 6, bit f 0) else (false, false, false, true, false)
  let w := l.rdOut 0x4000C 4
  let l0 := if ok then l.wrOut 0x4000C 4 (putBits w fn fn (b2n start)) else l.fnRecord me i fn
  ((((l0.clearFirst i).bodyWr i 0x10 1 (b2n start)).bodyWr i 0x11 1 (b2n iw)).bodyWr i 0x12 1 (b2n tmo),
   [b2n iw, b2n en, b2n er, b2n tmo, b2n va])

/-- DIR_SUP (R115). -/
def LaneSt.fbDir (l : LaneSt) (me i : Nat) (as : List Nat) : LaneSt × List Nat :=
  let fn := arg as 0
  let ok := l.fnOk fn 3
  let f := l.tcm.rd (inLioFn fn + 4) 4
  let (ax, dir, va, fa) : Nat × Nat × Bool × Bool :=
    if ok then (l.tcm.rd (inLioFn fn) 4, bits f 9 8, bit f 0, bit f 2) else (0, 0, false, true)
  let l0 := if ok then l else l.fnRecord me i fn
  (((((l0.clearFirst i).bodyWr i 0x10 4 ax).bodyWr i 0x14 1 dir).bodyWr i 0x15 1 (b2n va)).bodyWr i 0x16 1 (b2n fa),
   [dir, ax, b2n va, b2n fa])

/-- Append to the bridge command list (R308); none beyond 4,096. -/
def LaneSt.pushBridge (l : LaneSt) (index kind value : Nat) : LaneSt × Bool :=
  let n := l.rt.brgCount
  if 4096 ≤ n then (l, false)
  else
    ({ l with tcm := (l.tcm.wr (outBrg n) 4 (index % 16384 + kind % 4 * 16384)).wr (outBrg n + 4) 4 value,
              rt := { l.rt with brgCount := n + 1, brgLast := if kind = 0 then l.rt.brgLast.put index value else l.rt.brgLast } }, true)

/-- Whether the bridge error log holds an entry for the device of a signal (R116). -/
def LaneSt.sigErr (l : LaneSt) (sig : Nat) : Bool :=
  match l.brt.maps.find? fun m => m.target == sig && (m.kind == 1 || m.kind == 0x81) with
  | some m => (l.drp.dev m.dev).err
  | none => false

/-- BRIDGE_IO (R116); a write beyond the list's room is dropped and recorded (R308). -/
def LaneSt.fbBridge (l : LaneSt) (me i : Nat) (as : List Nat) : LaneSt × List Nat :=
  let sig := arg as 0
  let v := l.tcm.rd (bridged sig) 4
  let valid := bit (l.tcm.rd (bridged sig + 4) 4) 0
  let err := l.sigErr sig
  let e := l.edge i 0x16 (argB as 1)
  let l1 :=
    if e.2 then
      let q := e.1.pushBridge sig 0 (arg as 2)
      if q.2 then q.1 else q.1.stage (mkEvt (Config.otherCode 7 1) me 5 0 (leBytes 4 0 ++ leBytes 2 sig))
    else e.1
  (((l1.bodyWr i 0x10 4 v).bodyWr i 0x14 1 (b2n valid)).bodyWr i 0x15 1 (b2n err), [v, b2n valid, b2n err])

/-- A call of a system block by its TYPE (R107). -/
def LaneSt.callBlock (l : LaneSt) (me p : Nat) (arsProg : Bool) (i : Nat) (as : List Nat) : LaneSt × List Nat :=
  match l.image.iType i with
  | 0x0001 => l.fbRouteReq p arsProg i as
  | 0x0002 => l.fbRouteRel p i as
  | 0x0003 => l.fbPoint p i as
  | 0x0004 => l.fbSignal p i as
  | 0x0005 => l.fbSection i as
  | 0x0006 => l.fbTimerOn i as
  | 0x0007 => l.fbTimerOff i as
  | 0x0008 => l.fbEdge false i as
  | 0x0009 => l.fbEdge true i as
  | 0x000A => l.fbSpeed me i as
  | 0x000B => l.fbThrow me i as
  | 0x000C => l.fbDir me i as
  | 0x000D => l.fbBridge me i as
  | _ => (l, [])

end Sys2Proof.Machine
end

