-- ==== Sys2Proof/Machine/InputOps.lean ====
section
/-!
DEFINITION. How a lane decodes the items of a cut into its input image, and the input step (01_one_logic_cycle.md R19 to R22,
02_station_image.md R50 to R52, 04_interlocking_programs.md R100, 07_opbex.md R212, R213, R232, R233, 09_local_safety_io.md R269 to
R271, 10_older_interfaces_and_bridging.md R299, R300, R305, R306, R323 to R325).
-/
namespace Sys2Proof.Machine

/-- What a lane needs of the module for a cycle: cycle number, agreed cycle time, service state code, role code, variant, schedule
bank, major cycle length, instant of minor cycle 0, life-cycle state, phase configuration, whether the lane is the earliest voting
lane, and the whole-cycle bound of R16. -/
structure CycleIn where
  cycle : Nat
  ctime : Nat
  sstate : Nat
  role : Nat
  full : Bool
  bk : ObxBank
  majL : Nat
  t0 : Nat
  lc : LcState
  ph : PhCfg
  settle : Bool
  ctlflt : Bool
  deriving DecidableEq, Repr

def CycleIn.bound (c : CycleIn) : Nat := if c.sstate = 3 then 2500000 else 5000000

/-- A key of the lane's store: kind and index (15_lifecycle_identity_update.md R432, R433). -/
def LaneSt.keyOf (l : LaneSt) (kind idx : Nat) : Bytes :=
  match l.keys.used with
  | some g => Config.keyOf g.content kind idx
  | none => []

/-! ### Element input records (R100) -/

/-- A channel record written into an element's record (R212). -/
def recPut (m : Mem) (e st fc v0 v1 age : Nat) : Mem :=
  (((m.wr (inRec e) 4 (3 + st % 256 * 256 + fc % 256 * 65536)).wr (inRec e + 4) 4 v0).wr (inRec e + 8) 4 v1).wr (inRec e + 12) 4
    (min 65535 age)

/-- A channel record of 8 bytes (R201). -/
def recFrom (m : Mem) (e age : Nat) (b : Bytes) : Mem :=
  recPut m e (Bytes.le b 0 1) (Bytes.le b 1 1) (Bytes.le b 2 2) (Bytes.le b 4 4) age

def recValid (m : Mem) (e : Nat) : Bool := bit (m.rd (inRec e) 1) 0
def recSt (m : Mem) (e : Nat) : Nat := m.rd (inRec e + 1) 1
def recFcode (m : Mem) (e : Nat) : Nat := m.rd (inRec e + 2) 1
def recAge (m : Mem) (e : Nat) : Nat := m.rd (inRec e + 12) 2

/-- FRESH cleared and AGE advanced by the minor cycles since the last cut. -/
def ageRec (m : Mem) (d e : Nat) : Mem :=
  (m.wr (inRec e) 1 (putBits (m.rd (inRec e) 1) 1 1 0)).wr (inRec e + 12) 2 (min 65535 (recAge m e + d))

/-! ### Opbex replies (R212, R232, R233) -/

def LaneSt.nodeVer (l : LaneSt) (bk : ObxBank) (k : Nat) : Nat := SMap.get (bk.pver k) l.rt.ver k

/-- A delivered reply is a valid report (R212). -/
def LaneSt.replyValid (l : LaneSt) (bk : ObxBank) (i : Item) : Bool :=
  let b := i.body
  let k := i.num
  ftype b == 0x10 && sealedBy (l.keyOf 2 (bk.nkeyid k)) customOBN b && fver b == l.nodeVer bk k && replyNch b == bk.nch k
    && replyMcn b == i.amc % 4294967296
    && (match l.rt.lastNseq.find k with
        | none => true
        | some n => decide (1 ≤ (i.seq + 4294967296 - n) % 4294967296 ∧ (i.seq + 4294967296 - n) % 4294967296 < 2147483648))

/-- The records of a closed major cycle (R233, R468): one aggregate for a code of at least 16 nodes, else one per node. -/
def neventRecords (me from' : Nat) (l : List (Nat × Nat)) : List Evt :=
  let codes := (l.map (·.2)).foldl (fun a c => if a.contains c then a else a ++ [c]) []
  codes.flatMap fun c =>
    let ns := ((l.filter fun p => p.2 == c).map (·.1)).foldl (fun a k => if a.contains k then a else a ++ [k]) []
    if 16 ≤ ns.length then
      let hi := c / 256
      [{ mkEvt 0x4F00 me 7 0 (leBytes 2 c ++ leBytes 2 ns.length ++ leBytes 2 (ns.foldl min 65535) ++ leBytes 2 (ns.foldl max 0)
           ++ leBytes 8 from' ++ leBytes 1 (if 1 ≤ hi ∧ hi ≤ 4 then hi else 0)) with flags := 17 }]
    else ns.map fun k => { mkEvt 0x4100 me 7 0 (leBytes 2 k ++ leBytes 2 c ++ leBytes 8 from') with flags := 1 }

/-- The major cycle of minor cycle `amc` begins: the reports of the last one are recorded (R233), versions move (R232). -/
def LaneSt.majorTo (l : LaneSt) (c : CycleIn) (me amc : Nat) : LaneSt :=
  let s := amc - amc % c.majL
  if s ≤ l.rt.nevtFrom then l
  else
    let recs := if c.role = 1 then neventRecords me l.rt.nevtFrom l.rt.nevt else []
    let moved := l.rt.verNext.filter fun p => l.nodeVer c.bk p.1 != p.2
    { l with rt := { l.rt with nevt := [], nevtFrom := s, recs := l.rt.recs ++ recs, verNext := [],
                               ver := l.rt.verNext.foldl (fun m p => m.put p.1 p.2) l.rt.ver },
             obx := if moved.isEmpty then l.obx else { l.obx with irq := l.obx.irq ||| irqVER } }

/-- The higher version a node may move to (R232): in VSET, above the present one and not above NVMAX. -/
def nextVer (bk : ObxBank) (cur nvmax : Nat) : Option Nat :=
  ((List.range 16).filter fun v => bk.vset.testBit v && decide (cur < v ∧ v ≤ nvmax)).getLast?

/-- One reply item of the cut. -/
def LaneSt.reply (l : LaneSt) (c : CycleIn) (me amc : Nat) (i : Item) : LaneSt :=
  let l0 := l.majorTo c me i.amc
  if l0.replyValid c.bk i = false then l0
  else
    let k := i.num
    let b := i.body
    let els := l0.stn.usedList.filter fun e => l0.stn.eIfc e == 1 && l0.stn.eAddr e == k && decide (l0.stn.eChan e < replyNch b)
    let m := els.foldl (fun m e => recFrom m e (amc - i.amc) (Bytes.sub b (0x20 + 8 * l0.stn.eChan e) 8)) l0.tcm
    let nevt := Bytes.le b 0x18 2
    let vn := if fver b = 2 then none else nextVer c.bk (l0.nodeVer c.bk k) (Bytes.le b 0x17 1)
    { l0 with tcm := m,
              rt := { l0.rt with lastNseq := l0.rt.lastNseq.put k i.seq,
                                 nevt := if nevt = 0 then l0.rt.nevt else l0.rt.nevt ++ [(k, nevt)],
                                 verNext := match vn with
                                   | some v => l0.rt.verNext.put k v
                                   | none => l0.rt.verNext } }

/-! ### Local input items (R269, R271) -/

/-- Word 0 of an input record after the items of a cut; `vs` are its (STATE, FCODE) in order. -/
def lioWord (w : Nat) (vs : List (Nat × Nat)) : Nat :=
  let r := vs.foldl (fun (acc : Nat × Nat × Bool) v =>
      if v.1 = acc.1 then (acc.1, min 65535 (acc.2.1 + 1), acc.2.2) else (v.1, 0, true)) (bits w 2 0, bits w 31 16, false)
  match vs.getLast? with
  | none => bits w 2 0 + bits w 15 8 * 256 + bits w 31 16 * 65536
  | some (_, fc) =>
    r.1 + 8 * b2n r.2.2 + 16 * b2n (vs.any fun v => v.1 == stON) + 32 * b2n (vs.any fun v => v.1 == stOFF) + 64 + fc % 256 * 256
      + r.2.1 * 65536

/-- The local input area from the items of the cut. -/
def LaneSt.localItems (l : LaneSt) (its : List Item) : LaneSt :=
  let st (k : Nat) (i : Item) : Nat × Nat := (Bytes.le i.body (2 * k) 1, Bytes.le i.body (2 * k + 1) 1)
  let m1 := (List.range 96).foldl (fun m c => m.wr (inLio c) 4 (lioWord (m.rd (inLio c) 4) (its.map (st c)))) l.tcm
  let m2 := match its.getLast? with
    | none => m1
    | some i => (List.range 48).foldl (fun m o => m.wr (inLioOut o) 4 ((st (96 + o) i).1 % 8 + (st (96 + o) i).2 % 256 * 256)) m1
  { l with tcm := m2, rt := { l.rt with lioAmc := match its.getLast? with
                                          | some i => i.amc
                                          | none => l.rt.lioAmc } }

/-- The record of an element with IFC 2 (R271). -/
def LaneSt.localElem (l : LaneSt) (amc : Nat) (fresh : Bool) (e : Nat) : Mem :=
  let d := l.stn
  let a := d.eAddr e
  if a = none16 then
    let ch := d.eChan e
    recPut l.tcm e 0 (if ch = 0xFF then 0 else l.tcm.rd (inLioOut ch + 1) 1) 0 0 0
  else
    let w := l.tcm.rd (inLio a) 4
    let st := bits w 2 0
    let t := d.eType e
    let s := if isSection t then b2n (st == stOFF)
      else if isSignal t then b2n (st == stON)
      else if isAux t then b2n (st == stON) + (if t = 6 then 2 * b2n (st == stOFF) else 0)
      else 0
    let age := if fresh then 0 else min 65535 (amc - l.rt.lioAmc)
    let w0 := b2n (st == stOFF || st == stON) + 2 * b2n (bit w 6) + s * 256 + bits w 15 8 * 65536
    ((l.tcm.wr (inRec e) 4 w0).clear (inRec e + 4) 8).wr (inRec e + 12) 4 age

/-! ### Draip (R299, R300, R303, R305, R306) -/

/-- ⌈FTO × DCYC / 4⌉ minor cycles (R300). -/
def drpLimit (b : Brt) (d : Nat) : Nat := (b.fto d * b.dcyc (d / 32) + 3) / 4

/-- The 32 × port + device of an element with IFC 3. -/
def Stn.eDev (d : Stn) (e : Nat) : Nat := 32 * (d.eAddr e / 256) + d.eAddr e % 256

/-- The bridged input signals age, lose VALID at their limit, and show ERR and MODE of their device (R300, R305). -/
def LaneSt.ageSignals (l : LaneSt) (d : Nat) : LaneSt :=
  let b := l.brt
  let m := (b.maps.filter fun x => x.kind == 1).foldl (fun m x =>
    let w := m.rd (bridged x.target + 4) 4
    let age := min 65535 (bits w 31 16 + d)
    let v := bit w 0 && decide (age < drpLimit b x.dev)
    let dev := l.drp.dev x.dev
    m.wr (bridged x.target + 4) 4 (b2n v + 4 * b2n dev.err + 8 * (dev.mode % 8) + age * 65536)) l.tcm
  { l with tcm := m }

/-- An agreed MODE of FAULT (4) sets FCODE 0x22 in the records of the device's elements (R303); the code falls away with that MODE
(DEDUCED, assumption log 30). -/
def LaneSt.deviceFaults (l : LaneSt) : LaneSt :=
  let els := l.stn.usedList.filter fun e => l.stn.eIfc e == 3
  { l with tcm := els.foldl (fun m e =>
      if (l.drp.dev (l.stn.eDev e)).mode = 4 then m.wr (inRec e + 2) 1 0x22
      else if recFcode m e = 0x22 then m.wr (inRec e + 2) 1 0 else m) l.tcm }

/-- The panel requests that a changed REQNO makes (R306), with the entry whose REQNO they set. The first telegram after STARTING, and the
first after the device has been FAILED, only set REQNO: then the entry holds none. -/
def panelDesc (q : PanelReq) : Desc :=
  { op := bits q.field 14 12, tag := 0, queue := bit q.field 15, cls := 4, num := q.target, route := bits q.field 11 0, amc := q.amc,
    seq := q.seq, arg0 := 0, arg1 := 0, arg2 := 0, rsv := false }

/-- The device of a map entry has an element that was FAILED at the last input step. -/
def LaneSt.panelLost (l : LaneSt) (ent : Nat) : Bool :=
  let dev := (l.brt.mapEnt ent).dev
  l.stn.usedList.any fun e => l.stn.eIfc e == 3 && l.stn.eDev e == dev && l.eBit 14 e

def LaneSt.panel (l : LaneSt) (qs : List PanelReq) : LaneSt × List ExtReq :=
  qs.foldl (fun (acc : LaneSt × List ExtReq) q =>
    let n := bits q.field 23 16
    let set : LaneSt := { acc.1 with drp := { acc.1.drp with reqno := acc.1.drp.reqno.put q.ent n } }
    match (if acc.1.panelLost q.ent then none else acc.1.drp.reqno.find q.ent) with
    | none => (set, acc.2)
    | some o =>
      if bits q.field 14 12 = 0 ∨ n = o then (if bits q.field 14 12 = 0 then acc else (set, acc.2))
      else (set, acc.2 ++ [⟨panelDesc q, some (q.ent, o)⟩])) (l, [])

/-! ### KST (R319 to R325) -/

/-- Insert by key. -/
def insertKey {α : Type} (k : α → Key) (x : α) : List α → List α
  | [] => [x]
  | y :: r => if (k x).lt (k y) then x :: y :: r else y :: insertKey k x r
def sortKey {α : Type} (k : α → Key) (l : List α) : List α := l.foldl (fun a x => insertKey k x a) []

def Item.key (i : Item) : Key := ⟨i.amc, i.cls, i.num, i.seq⟩

/-- A request of a ROUTE_OP (R323). -/
def kstDesc (anum cls amc seq op route : Nat) (queue : Bool) (life : Nat) : Desc :=
  { op := op, tag := 0, queue := queue, cls := cls, num := anum, route := route, amc := amc, seq := seq,
    arg0 := if op = opSET then life else 0, arg1 := 0, arg2 := 0, rsv := false }

/-- One PDU, its requests, links and records kept (R322). `now` is the end of its arrival minor cycle (R319). -/
def LaneSt.kstPdu (l : LaneSt) (me t0 ct : Nat) (i : Item) : LaneSt :=
  let r := l.kst.pdu (fun a x => l.keyOf 4 (4 * a + x)) (t0 + 4000000 * (i.amc + 1)) ct i
  r.2.foldl (fun (l : LaneSt) e =>
    match e with
    | .request a cls amc seq op route q life =>
      { l with rt := { l.rt with requests := l.rt.requests ++ [⟨kstDesc a cls amc seq op route q life, none⟩] } }
    | .link x => { l with rt := { l.rt with links := l.rt.links ++ [⟨x.e, i.amc, x.rec'⟩] } }
    | .note ev => l.stage { ev with src := me }) { l with kst := r.1 }

/-- The KST items of the cut in key order; those that find no inbox slot are handed back (R324). -/
def LaneSt.kstItems (l : LaneSt) (me t0 ct : Nat) (its : List Item) : LaneSt × List Item :=
  (sortKey Item.key its).foldl (fun (acc : LaneSt × List Item) i =>
    if acc.1.kst.noSlot (fun a x => acc.1.keyOf 4 (4 * a + x)) (t0 + 4000000 * (i.amc + 1)) i then (acc.1, acc.2 ++ [i])
    else (acc.1.kstPdu me t0 ct i, acc.2)) (l, [])

/-- An inbox slot (R324). -/
def InMsg.bytes (m : InMsg) : Bytes :=
  leBytes 2 m.anum ++ leBytes 1 m.cls ++ leBytes 1 m.roles ++ leBytes 2 m.mtype ++ leBytes 2 m.payload.length ++ leBytes 4 m.seq
    ++ leBytes 4 0 ++ m.payload
def InMsg.key (m : InMsg) : Key := ⟨m.amc, m.cls, m.anum, m.seq⟩

/-- A request list entry as a number: the descriptor of R63 with its ROUTE as received (16 bits, R322). -/
def reqWord (d : Desc) : Nat := { d with route := 0 }.word + (d.route % 65536) <<< 48
/-- The entry whose 32 bytes stand at `a`. -/
def reqAt (m : Mem) (a : Nat) : Desc :=
  let d := descAt m a
  { d with route := m.rd (a + 6) 2, rsv := bits (m.rd a 4) 23 17 != 0 }

/-- The request list in key order, at most 1,024 entries (R323); what is beyond is answered LISTFULL or keeps its REQNO. -/
def LaneSt.fillRequests (l : LaneSt) (rs : List ExtReq) : LaneSt :=
  let all := sortKey (fun r : ExtReq => r.desc.key) rs
  let m := (all.take 1024).mapIdx (fun k r => (k, r)) |>.foldl (fun m p => m.wr (inReq p.1) 32 (reqWord p.2.desc)) l.tcm
  (all.drop 1024).foldl (fun (l : LaneSt) r =>
    match r.panel with
    | some (ent, o) => { l with drp := { l.drp with reqno := l.drp.reqno.put ent o } }
    | none =>
      if l.kst.isOpen r.desc.num then
        { l with kst := l.kst.data r.desc.num 0x81 (routeAnswer r.desc.seq (refusedAnswer 0xE1 r.desc.op r.desc.route)) }
      else { l with kst := l.kst.modAssoc r.desc.num fun x => { x with dropped := x.dropped + 1 } })
    { l with tcm := m.wr (inImg + 0x22) 2 (min 1024 all.length), rt := { l.rt with requests := [] } }

/-- The inbox in key order (R324). -/
def LaneSt.fillInbox (l : LaneSt) : LaneSt :=
  let ms := (sortKey InMsg.key l.kst.inbox).take 256
  let m := (ms.mapIdx fun k x => (k, x)).foldl (fun m p => m.wrBytes (inBox p.1) p.2.bytes) l.tcm
  { l with tcm := m.wr (inImg + 0x24) 2 ms.length }

/-! ### The decode of a cut -/

/-- The largest arrival minor cycle of the cut, or the previous one (R66). -/
def cutAmc (prev : Nat) (its : List Item) : Nat := match its with
  | [] => prev
  | _ => its.foldl (fun a i => max a i.amc) 0

/-- Before the items: records and signals age, lists and measured fields start empty. -/
def LaneSt.prepare (l : LaneSt) (d : Nat) : LaneSt :=
  let els := l.stn.usedList.filter fun e => l.stn.eIfc e == 1 || l.stn.eIfc e == 3 || l.stn.eIfc e == 4
  let m0 := els.foldl (fun m e => ageRec m d e) l.tcm
  let m1 := ((m0.clear inImg 0x100).clear (inReq 0) 0x8000).clear (inBox 0) 0x40000
  let m2 := (List.range 96).foldl (fun m c => m.clear (inLio c + 4) 8) m1
  let m3 := ((List.range 48).foldl (fun m o => m.clear (inLioOut o + 4) 4) m2).clear (inLioFn 0) 128
  ({ l with tcm := m3 } : LaneSt).ageSignals d

/-- The items of the cut decoded into the lane's own input image; the KST items that found no slot (R20, R21, R324). -/
def LaneSt.decode (l : LaneSt) (c : CycleIn) (me : Nat) (its : List Item) : LaneSt × List Item :=
  let amc := cutAmc l.rt.amc its
  let l0 := l.prepare (amc - l.rt.amc)
  let l1 := (its.filter fun i => i.kind == .reply).foldl (fun l i => l.reply c me amc i) l0
  let l2 := l1.majorTo c me amc
  let lio := its.filter fun i => i.kind == .localInput
  let l3 := if c.full then l2.localItems lio else l2
  let drp := its.filter fun i => i.cls == 4
  let l4 : LaneSt := drp.foldl (fun l i => { l with drp := l.drp.item l.brt i c.ctime }) l3
  let up := unpackAll l4.brt l4.drp l4.tcm (sortKey (fun a : AccTel => ⟨a.amc, 4, a.num, a.seq⟩) l4.drp.accepted)
  let l5 : LaneSt := { l4 with tcm := up.1, drp := { l4.drp with accepted := [] } }
  let pq := l5.panel up.2
  let l6 := pq.1.deviceFaults
  let ks := l6.kstItems me c.t0 c.ctime (its.filter fun i => i.kind == .pdu)
  let l7 := ks.1
  let l8 : LaneSt := { l7 with tcm := l7.rt.links.foldl (fun m x => recFrom m x.e (amc - x.amc) x.body) l7.tcm, rt := { l7.rt with links := [] } }
  let ifc2 := l8.stn.usedList.filter fun e => l8.stn.eIfc e == 2
  let l9 : LaneSt := if c.full then { l8 with tcm := ifc2.foldl (fun m e => ({ l8 with tcm := m } : LaneSt).localElem amc (!lio.isEmpty) e) l8.tcm }
    else l8
  let l10 := (l9.fillRequests (l9.rt.requests ++ pq.2)).fillInbox
  let hd := (((l10.tcm.wr inImg 8 c.cycle).wr (inImg + 0x10) 8 amc).wr (inImg + 0x18) 1 c.sstate).wr (inImg + 0x19) 1 c.role
  ({ l10 with tcm := hd, rt := { l10.rt with amc := amc } }, ks.2)

/-! ### The agreed measured values in the image (R246, R269, R270) -/

/-- An agreed local entry: its value where validly agreed. -/
def mvGet (m : Meas) (k : Nat) : Option Nat := (m.find k).map (· % 2 ^ 32)

/-- A function record from the agreed entries; any entry not validly agreed gives the safe side (R269). -/
def fnWords (kind f : Nat) (m : Meas) : Nat × Nat :=
  let g (k : Nat) := mvGet m (3 + 8 * f + k)
  if kind = 1 then
    match g 0, g 1, g 2, g 3 with
    | some v, some va, some pr, some fa => (v, va + 2 * pr + 4 * fa)
    | _, _, _, _ => (0, 4)
  else if kind = 2 then
    match g 1, g 2, g 3, g 4, g 5 with
    | some va, some iw, some en, some er, some tmo => (0, va + 8 * iw + 16 * en + 32 * er + 64 * tmo)
    | _, _, _, _, _ => (0, 8 + 64)
  else if kind = 3 then
    match g 0, g 1, g 3, g 6 with
    | some v, some va, some fa, some dir => (v, va + 4 * fa + 256 * (dir % 4))
    | _, _, _, _ => (0, 4)
  else (0, 0)

/-- Cycle header and local measured fields from the agreed values; `phase` is the agreed phase count (R246). -/
def LaneSt.fillMeasured (l : LaneSt) (full : Bool) (ctime phstat phase : Nat) (m : Meas) : LaneSt :=
  let m0 := (((l.tcm.wr (inImg + 8) 8 ctime).wr (inImg + 0x1A) 1 phstat).wr (inImg + 0x1C) 4 (phase / 1024)).wr (inImg + 0x20) 2 (phase % 1024)
  let m1 := if full then
      let a := (List.range 96).foldl (fun t c =>
        (t.wr (inLio c + 4) 4 ((mvGet m (131 + c)).getD 0)).wr (inLio c + 8) 4 (if c < 8 then (mvGet m (275 + c)).getD 0 else 0)) m0
      let b := (List.range 48).foldl (fun t o => t.wr (inLioOut o + 4) 4 ((mvGet m (227 + o)).getD 0)) a
      (List.range 16).foldl (fun t f =>
        let w := fnWords (Bytes.le l.sps (0x4C0 + 32 * f) 1) f m
        (t.wr (inLioFn f) 4 w.1).wr (inLioFn f + 4) 4 w.2) b
    else m0
  { l with tcm := m1, rt := { l.rt with ctime := ctime, phstat := phstat, phc := phase }, agreed := m }

/-! ### The input step (R50 to R52, R213, R271, R300, R325) -/

/-- FAILED of a used element. -/
def LaneSt.failedOf (l : LaneSt) (c : CycleIn) (e : Nat) : Bool :=
  let d := l.stn
  let bad := recFcode l.tcm e != 0 || !(recValid l.tcm e)
  let age := recAge l.tcm e
  match d.eIfc e with
  | 1 => bad || decide ((if c.bk.cls (d.eAddr e) = 1 then 3 else if c.majL = 8 then 17 else 9) ≤ age)
  | 2 => if d.eAddr e = none16 then recFcode l.tcm e != 0 else bad || decide (3 ≤ age)
  | 3 => bad || decide (drpLimit l.brt (d.eDev e) ≤ age)
  | 4 => bad || (match l.kst.recOf (d.eAddr e) with
      | some r => decide ((r.tmax + 3) / 4 ≤ age)
      | none => true)
  | _ => false

/-- The nine planes of the input writer class from the element input records. -/
def LaneSt.inputStep (l : LaneSt) (c : CycleIn) : LaneSt :=
  let d := l.stn
  let used := d.usedList
  let failed := erowOf (used.filter (l.failedOf c))
  let st (e k : Nat) : Bool := bit (recSt l.tcm e) k
  let sec := used.filter fun e => isSection (d.eType e)
  let pts := used.filter fun e => isPoint (d.eType e)
  let sgn := used.filter fun e => isSignal (d.eType e)
  let aux := used.filter fun e => isAux (d.eType e)
  let ok (e : Nat) : Bool := !(failed.getLsbD e)
  let el := l.beryl.el
  { l with beryl := { l.beryl with el := { el with
      occ := erowOf (sec.filter fun e => st e 0 || st e 1 || !(ok e))
      dist := erowOf (sec.filter fun e => st e 1)
      detN := erowOf (pts.filter fun e => st e 0 && ok e)
      detR := erowOf (pts.filter fun e => st e 1 && ok e)
      moving := erowOf (pts.filter fun e => st e 2)
      sigStop := erowOf (sgn.filter fun e => st e 0 && ok e)
      lampFail := erowOf (sgn.filter fun e => st e 1)
      auxOk := erowOf (aux.filter fun e => st e 0 && ok e)
      keyOut := erowOf (aux.filter fun e => d.eType e == 6 && st e 1)
      failed := failed } } }

end Sys2Proof.Machine
end

