-- ==== Sys2Proof/Machine/RunOps.lean ====
section
/-!
DEFINITION. The program run of a lane (04_interlocking_programs.md R97, R99, R101 to R103, R108, R109; 05_change_while_running.md
R134, R144 to R146; 07_opbex.md R199, R200; 08_phase_and_time.md R249, R251; 09_local_safety_io.md R272;
10_older_interfaces_and_bridging.md R308, R321 to R325).
-/
namespace Sys2Proof.Machine

/-- The PROG_EXC record (R99, 17_amber_recorder.md R470). -/
def progExcEvt (me : Nat) (x : ProgExc) : Evt :=
  mkEvt 0x3001 me 5 0 (leBytes 2 x.prog ++ leBytes 1 x.kind ++ leBytes 1 (b2n x.iid.isSome) ++ leBytes 8 (x.iid.getD 0) ++ leBytes 4 x.off)

/-- A lane's program exception: recorded; the lane runs no further program. -/
def LaneSt.progExc (l : LaneSt) (me : Nat) (x : ProgExc) : LaneSt :=
  let l1 := l.stage (progExcEvt me x)
  { l1 with rt := { l1.rt with exc := some (x.prog, x.kind) } }

/-! ### One program (R89, R95, R99) -/

/-- A program under way: the lane, the instances being called (innermost first), the answers so far (newest first), its Amber requests, an
exception. -/
structure Run where
  l : LaneSt
  insts : List Nat
  hist : List (List Nat)
  recs : Nat
  exc : Option (Nat × Nat)

def Run.ans (r : Run) (l : LaneSt) (a : List Nat) : Run := { r with l := l, hist := a :: r.hist }
def Run.fault (r : Run) (kind off : Nat) : Run := { r with exc := some (kind, off) }

/-- Whether the program owns the instance bytes (R95). -/
def LaneSt.owns (l : LaneSt) (p o n : Nat) : Bool :=
  match l.image.instAt o n with
  | some i => l.image.iPnum i == p
  | none => false

/-- One thing a program does: served by the runtime, or an exception by R95 and R99. -/
def Run.op (me p : Nat) (ars : Bool) (r : Run) (op : ProgOp) : Run :=
  let l := r.l
  match op with
  | .alu o w s a b =>
    let v := aluRes o w s a b
    r.ans (if v.2 then { l with rt := { l.rt with arith := if l.rt.arith.contains p then l.rt.arith else l.rt.arith ++ [p] } } else l) [v.1]
  | .readIn o n => if o + n ≤ 0x100000 then r.ans l [l.rdIn o n] else r.fault 1 0
  | .readInst o n => if o + n ≤ l.image.idataLen then r.ans l [l.rdInst o n] else r.fault 1 0
  | .writeInst o n v => if l.owns p o n then r.ans (l.wrInst o n v) [] else r.fault 1 0
  | .readOut o n => if o + n ≤ 0x100000 then r.ans l [l.rdOut o n] else r.fault 1 0
  | .writeOut o n v => if o + n ≤ 0x100000 then r.ans (l.wrOut o n v) [] else r.fault 1 0
  | .block i as =>
    if i < l.image.iCount ∧ l.image.iPnum i = p then
      let q := l.callBlock me p ars i as
      r.ans q.1 q.2
    else { r with insts := i :: r.insts }.fault 1 0
  | .enter i => if i < l.image.iCount then { r.ans l [] with insts := i :: r.insts } else r.fault 1 0
  | .leave => { r.ans l [] with insts := r.insts.drop 1 }
  | .beryl o route q a0 a1 a2 =>
    if o < 256 ∧ route < 4096 ∧ a0 < 2 ^ 32 ∧ a1 < 2 ^ 32 ∧ a2 < 2 ^ 32 then
      let b := l.beryl5 p o route q a0 a1 a2
      r.ans b.1 [b.2.1, b.2.2]
    else r.fault 6 0
  | .planeWr a m v =>
    if a < 2 ^ 32 ∧ m < 2 ^ 32 ∧ v < 2 ^ 32 then
      let b := l.beryl5 p opPLANEWRITE 0 false a m v
      r.ans b.1 [b.2.1]
    else r.fault 6 0
  | .planeRd w k =>
    if (w < 32 ∧ k < 512) ∨ (0x80 ≤ w ∧ w < 0x90 ∧ k < 128) ∨ (0x90 ≤ w ∧ w < 0x94 ∧ k < 512) then r.ans l [l.planeWord w k]
    else r.fault 6 0
  | .now => r.ans l [l.now]
  | .phase => r.ans l [l.rt.phc / 1024, l.rt.phc % 1024, l.rt.phstat]
  | .record c pm =>
    if c < 0x3800 ∨ 0x3FFF < c then r.fault 6 0
    else if 64 ≤ r.recs then r.ans l []
    else { r.ans (l.stage { mkEvt c me 7 p pm with flags := 1 }) [] with recs := r.recs + 1 }
  | .exception k o => r.fault k o
  | .halt => r

/-- A program for at most `fuel` core cycles of 1 ns; when they are spent its run time has passed three times WCET_NS (R99, R150). -/
def runProgram (me p : Nat) (ars : Bool) (code : Bytes) (entry : Nat) : Nat → Run → Run
  | 0, r => r.fault 2 0
  | n + 1, r =>
    match Config.progNext code entry r.hist with
    | .halt => r
    | op =>
      let q := r.op me p ars op
      if q.exc.isSome then q else runProgram me p ars code entry n q

/-- Program entry `k` in its turn; nothing after an exception. `exc` is an exception that a fault of this lane raises in the cycle. -/
def LaneSt.runEntry (l : LaneSt) (me : Nat) (exc : Option ProgExc) (k : Nat) : LaneSt :=
  let b := l.image
  let p := b.pNum k
  if l.rt.exc.isSome then l
  else
    match exc with
    | some x => if x.prog = p then l.progExc me x else go b p l
    | none => go b p l
where
  go (b : Blob) (p : Nat) (l : LaneSt) : LaneSt :=
    let r := runProgram me p (b.pArs k) (b.pCode k) (b.pEntry k) (3 * b.pWcet k + 1)
      ⟨{ l with rt := { l.rt with pseq := 0 } }, [], [], 0, none⟩
    match r.exc with
    | none => r.l
    | some (kind, off) =>
      r.l.progExc me ⟨p, kind, match r.insts with
        | [] => none
        | i :: _ => some (b.iIid i), off⟩

/-- Programs in ascending program number (R89). -/
def LaneSt.runPrograms (l : LaneSt) (me : Nat) (exc : Option ProgExc) : LaneSt :=
  let b := l.image
  ((List.range 64).flatMap fun n => ((List.range (min b.pCount 64)).find? fun k => b.pNum k == n + 1).toList).foldl
    (fun l k => l.runEntry me exc k) l

/-! ### STEP, external requests, class 6 (R97 steps 2, 3, 5) -/

/-- Take what Beryl has to answer: UNSOL answers are routed. -/
def LaneSt.takeUnsol (l : LaneSt) : LaneSt :=
  let rs := l.beryl.answers.map (·.rsp)
  ({ l with beryl := { l.beryl with answers := [] } } : LaneSt).unsolAll (rs.filter (·.unsol))

/-- BRL_NOW, HOLD cleared, STEP (R97 step 2). -/
def LaneSt.berylStep (l : LaneSt) : LaneSt :=
  let b := l.beryl
  let b1 : Beryl := { b with regs := { b.regs with nowLo := BitVec.ofNat 32 l.rt.ctime, nowHi := BitVec.ofNat 32 (l.rt.ctime / 4294967296),
                                                   ctrl := b.regs.ctrl &&& ~~~2#32 } }
  ({ l with beryl := b1.step (b1.stn l.dram) } : LaneSt).takeUnsol

/-- The answer of an external request: into the response list, and to its association (R323). -/
def LaneSt.answerRequest (l : LaneSt) (k : Nat) (d : Desc) (r : Rsp) : LaneSt :=
  let l1 : LaneSt := { l with tcm := l.tcm.wr (outRsp k) 16 r.word }
  if d.cls = 1 ∨ d.cls = 2 ∨ d.cls = 3 then
    let l2 : LaneSt := if r.status = stQUEUED then { l1 with rt := { l1.rt with kstReq := l1.rt.kstReq.put d.route (d.num, d.seq) } } else l1
    if l2.kst.isOpen d.num then { l2 with kst := l2.kst.data d.num 0x81 (routeAnswer d.seq (leBytes 16 r.word)) }
    else { l2 with kst := l2.kst.modAssoc d.num fun x => { x with dropped := x.dropped + 1 } }
  else l1

/-- Entry `k` of the request list: issued, or answered NOTREADY in a settle cycle and in its safe form (R134, R165). -/
def LaneSt.externalOne (l : LaneSt) (settle : Bool) (k : Nat) : LaneSt :=
  let d := reqAt l.tcm (inReq k)
  if settle || l.tcm.rd (inReq k) 32 == 0 then l.answerRequest k d (mkRsp d (.plain stNOTREADY none16) false)
  else
    let r := l.issue { d with tag := 0 }
    let rsp := r.2.1.getD (mkRsp d (.plain stNOTREADY none16) false)
    (r.1.answerRequest k d rsp).unsolAll r.2.2

def LaneSt.externals (l : LaneSt) (settle : Bool) : LaneSt :=
  (List.range (min (l.tcm.rd (inImg + 0x22) 2) 1024)).foldl (fun l k => l.externalOne settle k) l

/-- The queued requests of class 6 (R108, R134), then SWEEP. -/
def LaneSt.class6 (l : LaneSt) (settle : Bool) : LaneSt :=
  let one (l : LaneSt) (k : Nat) (q : ArsReq) : LaneSt :=
    if settle then { l with rt := { l.rt with answers := l.rt.answers.put q.inst (stNOTREADY, none16) } }
    else
      let r := l.issue { q.desc with seq := k, amc := l.rt.amc }
      let a := rspOf r.2.1
      let l1 : LaneSt := { r.1 with rt := { r.1.rt with answers := r.1.rt.answers.put q.inst a,
                                                        unsol := if a.1 = stQUEUED then r.1.rt.unsol.put q.desc.route q.inst else r.1.rt.unsol } }
      l1.unsolAll r.2.2
  let l1 := (l.rt.ars.mapIdx fun k q => (k, q)).foldl (fun l p => one l p.1 p.2) l
  { l1 with rt := { l1.rt with ars := [] }, beryl := l1.beryl.startSweep }

/-! ### Forces (R144 to R146) -/

def fopSet : Nat := 1
/-- The number of 32-bit words of the output image that a kind 2 force may name (R144). -/
def forceWords : Nat := 0x40040 / 4

/-- UNKNOWN (R145), FOP 3 apart. -/
def LaneSt.forceUnknown (l : LaneSt) (b : Bytes) : Bool :=
  let fop := Bytes.le b 0 1
  let kind := Bytes.le b 1 1
  let key := Bytes.le b 4 4
  !(decide (1 ≤ fop ∧ fop ≤ 3)) || Bytes.le b 2 2 != 0 || Bytes.le b 0x14 4 != 0
    || (fop != 3 && (!(kind == 1 || kind == 2) || (kind == 1 && (Bytes.le b 0x10 4 != 0 || (l.image.varOf key).isNone))
                      || (kind == 2 && decide (forceWords ≤ key))))

/-- A FORCE message of an association with the commissioning role: the force table after it, and its status (R145). -/
def LaneSt.force (l : LaneSt) (lc : LcState) (b : Bytes) : LaneSt × Nat :=
  let fop := Bytes.le b 0 1
  let kind := Bytes.le b 1 1
  let key := Bytes.le b 4 4
  let value := Bytes.le b 8 8
  let fs := l.rt.forces
  let rest := fs.filter fun f => !(f.kind == kind && f.key == key)
  let put (l : LaneSt) (fs : List Force) : LaneSt := { l with rt := { l.rt with forces := fs } }
  if lc ≠ .commission ∧ lc ≠ .maintain then (l, 1)
  else if l.forceUnknown b then (l, 3)
  else if fop = 3 then (put l [], 0)
  else if fop = 2 then (if rest.length = fs.length then (l, 5) else (put l rest, 0))
  else
    let j := (l.image.varOf key).getD 0
    if kind = 1 ∧ (l.image.vForceable j = false ∨ l.image.vType j = 0x10) then (l, 2)
    else if (if kind = 1 then 2 ^ (8 * l.image.vSize j) else 2 ^ 32) ≤ value then (l, 6)
    else if rest.length = fs.length ∧ 256 ≤ fs.length then (l, 4)
    else
      let l1 := put l (rest ++ [⟨kind, key, value, if kind = 2 then Bytes.le b 0x10 4 else 0⟩])
      (if kind = 1 then l1.holdForces else l1, 0)

/-- A FORCE message of the inbox, answered by FORCE_RESULT (R145, R146). -/
def LaneSt.forceMsg (l : LaneSt) (lc : LcState) (anum : Nat) (pl : Bytes) : LaneSt :=
  let r := l.force lc pl
  { r.1 with kst := r.1.kst.data anum 0xC1 (forceResult r.2 pl) }

/-- The inbox messages of a type in the agreed image: association and payload, in key order. -/
def LaneSt.inboxOf (l : LaneSt) (mtype : Nat) : List (Nat × Bytes) :=
  (List.range (min (l.tcm.rd (inImg + 0x24) 2) 256)).filterMap fun k =>
    if l.tcm.rd (inBox k + 4) 2 = mtype then some (l.tcm.rd (inBox k) 2, l.tcm.bytes (inBox k + 16) (l.tcm.rd (inBox k + 6) 2)) else none

def LaneSt.applyForces (l : LaneSt) (lc : LcState) : LaneSt :=
  (l.inboxOf 0x41).foldl (fun l m => l.forceMsg lc m.1 m.2) l

/-- The kind 2 forces on the output image (R146). -/
def LaneSt.forceWordsOut (l : LaneSt) : LaneSt :=
  (l.rt.forces.filter fun f => f.kind == 2).foldl (fun (l : LaneSt) f =>
    let w := l.rdOut (4 * f.key) 4
    l.wrOut (4 * f.key) 4 ((w &&& (w ^^^ f.mask % 2 ^ 32)) ||| (f.value &&& f.mask))) l

/-! ### Completing the output image (R97 step 6) -/

/-- The command byte of an element (R200). -/
def LaneSt.cmdByte (l : LaneSt) (e : Nat) : Nat :=
  let tog := 128 * (l.cmdSeq e % 2)
  if 7 < l.cmd e ∨ 15 < l.cmdArg e then tog + 0x70 else tog + 16 * l.cmd e + l.cmdArg e

def LaneSt.cmdBad (l : LaneSt) (e : Nat) : Bool := decide (7 < l.cmd e ∨ 15 < l.cmdArg e)
def cmdEncodeEvt (me e cmd arg : Nat) : Evt := mkEvt 0x3005 me 7 0 (leBytes 2 e ++ leBytes 2 cmd ++ leBytes 4 arg)

/-- The signal backstop (R103). -/
def LaneSt.backstop (l : LaneSt) (me : Nat) : LaneSt :=
  (bitList 4096 (l.beryl.rt.sigClear &&& ~~~l.beryl.rt.proven).toNat).foldl (fun (l : LaneSt) r =>
    let e := l.stn.rEntry r
    let b := l.beryl
    let l1 : LaneSt := { l with beryl := { b with rt := { b.rt with sigClear := b.rt.sigClear &&& ~~~bitR r },
                                                  el := { b.el with sigProceed := b.el.sigProceed &&& ~~~bitE e } } }
    (l1.command e 1 0).stage (mkEvt 0x2002 me 7 0 (leBytes 2 r))) l

/-- The local output command bits of elements with IFC 2 (R272). -/
def LaneSt.localOutputs (l : LaneSt) : LaneSt :=
  let d := l.stn
  (d.usedList.filter fun e => d.eIfc e == 2 && decide (d.eChan e < 48)).foldl (fun (l : LaneSt) e =>
    let c := l.cmdByte e
    let code := bits c 6 4
    let t := d.eType e
    let on := if isSignal t then code == 2 else if t = 6 then code == 1 else if t = 4 ∨ t = 5 then code == 2
      else isAux t && code == 1 && bit c 0
    let k := d.eChan e / 16
    let i := d.eChan e % 16
    let w := l.tcm.rd (outLocal k) 4
    { l with tcm := l.tcm.wr (outLocal k) 4 (putBits (putBits w i i (b2n on)) (16 + i) (16 + i) (b2n on)) }) l

/-- The elements whose command SEQ changed in the cycle. -/
def LaneSt.findChanged (l : LaneSt) : List Nat :=
  l.stn.usedList.filter fun e => l.cmdSeq e != SMap.get 0 l.rt.seqs e

/-- The latest of the polls' ends: R of R249. -/
def commitR (c : CycleIn) (nodes : List Nat) : Nat :=
  let h := c.ctime + (if c.sstate = 3 then 2350000 else 4850000)
  nodes.foldl (fun a k =>
    let o := c.t0 + c.bk.open' k
    let w := o + (h + 55000 - o + 3999999) / 4000000 * 4000000
    max a (w + 1000)) 0

/-- Commit indices into the changed records of PHCMD elements (R102, R249). -/
def LaneSt.commitIndices (l : LaneSt) (c : CycleIn) : LaneSt :=
  let es := l.rt.changed.filter fun e => l.stn.ePhcmd e && l.stn.eIfc e == 1
  if es.isEmpty then l
  else
    let x := commitIndex c.ph (l.rt.phstat == 1) c.ctime l.rt.phc (commitR c (es.map l.stn.eAddr))
    { l with tcm := es.foldl (fun m e => (m.wr (outRec e + 8) 4 (x / 1024)).wr (outRec e + 12) 4 (x % 1024)) l.tcm }

/-- The elements of a node with their channels. -/
def LaneSt.nodeElems (l : LaneSt) (k : Nat) : List (Nat × Nat) :=
  (l.stn.usedList.filter fun e => l.stn.eIfc e == 1 && l.stn.eAddr e == k && decide (l.stn.eChan e < 16)).map fun e => (l.stn.eChan e, e)

/-- The command frame of a node without its seal slots and with MCN and CLAIM zero (R199, R200, R251; DEDUCED, assumption log 31). -/
def LaneSt.nodeFrame (l : LaneSt) (c : CycleIn) (k : Nat) : Bytes :=
  let els := l.nodeElems k
  let ver := l.nodeVer c.bk k
  let byte (ch : Nat) : Nat := match els.find? fun p => p.1 == ch with
    | some p => l.cmdByte p.2
    | none => 0
  let marked := els.filter fun p => l.stn.ePhcmd p.2 && l.rt.changed.contains p.2
  let idx := marked.foldl (fun a p => max a (l.tcm.rd (outRec p.2 + 8) 4 * 1024 + bits (l.tcm.rd (outRec p.2 + 12) 4) 9 0)) 0
  let phm := marked.foldl (fun a p => a ||| 2 ^ p.1) 0
  let (cc, ct) : Nat × Nat := if marked.isEmpty then (l.rt.phc / 1024, l.rt.phc % 1024) else (idx / 1024, idx % 1024 + 0x8000)
  fhead 0x02 ver k ++ leBytes 8 0 ++ leBytes 4 0 ++ leBytes 4 c.cycle ++ leBytes 4 cc ++ leBytes 2 ct
    ++ (List.range 16).map (fun ch => BitVec.ofNat 8 (byte ch)) ++ leBytes 2 (if ver = 2 then 0 else phm) ++ leBytes 2 0

/-- The bridge command list's element entries (R308); after a takeover first every bridged output signal, then every element (R342). -/
def LaneSt.bridgeElems (l0 : LaneSt) : LaneSt :=
  let d := l0.stn
  let all := l0.rt.restate
  let sigs := if all then l0.rt.brgLast else []
  let l := sigs.foldl (fun (l : LaneSt) p => (l.pushBridge p.1 0 p.2).1) { l0 with rt := { l0.rt with restate := false } }
  let es := d.usedList.filter fun e => d.eIfc e == 3 && (all || l.rt.changed.contains e || l.rt.bridgeWait.contains e)
  es.foldl (fun (l : LaneSt) e =>
    let r := l.pushBridge e 1 (l.cmdByte e)
    if r.2 then r.1 else { l with rt := { l.rt with bridgeWait := l.rt.bridgeWait ++ [e] } })
    { l with rt := { l.rt with bridgeWait := [] } }

/-! ### KST outbox (R321, R324, R325) -/

/-- The LINK_STATE record of an OUT entry (R325): ST with its failed forms, FCODE, VALUE0, VALUE1. -/
def LaneSt.linkState (l : LaneSt) (e : Nat) : Bytes :=
  let t := l.stn.eType e
  let s := recSt l.tcm e
  let s' := if l.eBit 14 e = false then s
    else if isSection t then putBits s 0 0 1
    else if isPoint t then putBits s 1 0 0
    else putBits s 0 0 0
  leBytes 1 s' ++ leBytes 1 (recFcode l.tcm e) ++ leBytes 2 (l.tcm.rd (inRec e + 4) 2) ++ leBytes 4 (l.tcm.rd (inRec e + 8) 4)

/-- Lists cut into chunks of `n`. -/
def chunks {α : Type} (n : Nat) : Nat → List α → List (List α)
  | 0, _ => []
  | _, [] => []
  | f + 1, l => l.take n :: chunks n f (l.drop n)

/-- The LINK messages of one association (R325). -/
def LaneSt.linkMessages (l : LaneSt) (c : CycleIn) (r : AssocRec) : LaneSt :=
  let x := l.kst.assoc r.anum
  if r.cls ≠ 2 ∨ x.st ≠ .open' then l
  else
    let ks := List.range r.links.length
    let due (m : SMap (Bytes × Nat)) (k : Nat) (b : Bytes) : Bool := match m.find k with
      | none => true
      | some (o, at') => o != b || decide (r.tidle * 1000000 ≤ c.ctime + c.bound - at')
    let st := (ks.filter fun k => r.linkOut k).filterMap fun k =>
      let b := l.linkState (r.linkE k)
      if due x.sentState k b then some (k, b) else none
    let cm := (ks.filter fun k => !(r.linkOut k)).filterMap fun k =>
      let b := leBytes 1 (l.cmdByte (r.linkE k))
      if due x.sentCmd k b || l.rt.changed.contains (r.linkE k) then some (k, b) else none
    let kst1 := l.kst.setAssoc r.anum { x with sentState := st.foldl (fun m p => m.put p.1 (p.2, c.ctime)) x.sentState,
                                               sentCmd := cm.foldl (fun m p => m.put p.1 (p.2, c.ctime)) x.sentCmd }
    let kst2 := (chunks 79 4 st).foldl (fun (q : LaneKst) g =>
      q.data r.anum 0x10 (leBytes 2 g.length ++ leBytes 2 0 ++ g.flatMap fun p => leBytes 2 p.1 ++ leBytes 2 0 ++ p.2)) kst1
    let kst3 := (chunks 239 2 cm).foldl (fun (q : LaneKst) g =>
      q.data r.anum 0x11 (leBytes 2 g.length ++ leBytes 2 0 ++ g.flatMap fun p => leBytes 2 p.1 ++ leBytes 1 0 ++ p.2)) kst2
    { l with kst := kst3 }

/-- The runtime's outbox slots 0 to 191, and what waits (R324). -/
def LaneSt.fillOutbox (l : LaneSt) (c : CycleIn) : LaneSt :=
  let ms := (l.kst.out.take 192).mapIdx fun k m => (k, m)
  let l0 : LaneSt := { l with kst := { l.kst with out := l.kst.out.drop 192 } }
  ms.foldl (fun (l : LaneSt) p =>
    let q := l.kst.build p.2 c.ctime
    { l with kst := q.1, tcm := l.tcm.wrBytes (outKst p.1) q.2 }) l0

/-- The application's slots 192 to 255 (R324): completed, or cleared and recorded. -/
def LaneSt.appSlots (l : LaneSt) (me : Nat) (c : CycleIn) : LaneSt :=
  ((List.range 64).map (· + 192)).foldl (fun (l : LaneSt) s =>
    let a := outKst s
    let anum := l.tcm.rd (a + 2) 2
    let mt := l.tcm.rd (a + 0x10) 2
    let ml := l.tcm.rd (a + 0x12) 2
    if anum = 0 ∧ mt = 0 ∧ ml = 0 then l
    else if l.kst.isOpen anum = true ∧ 0x100 ≤ mt ∧ mt ≤ 0x7FFF ∧ ml ≤ (if (l.kst.assoc anum).ver = 1 then 480 else 960) then
      let q := l.kst.build ⟨anum, 3, (l.kst.assoc anum).ver, mt, none, l.tcm.bytes (a + 0x24) ml⟩ c.ctime
      { l with kst := q.1, tcm := (l.tcm.clear a 1024).wrBytes a q.2 }
    else
      ({ l with tcm := l.tcm.clear a 1024 } : LaneSt).stage (mkEvt (Config.otherCode 7 2) me 7 0 (leBytes 4 0 ++ leBytes 2 anum))) l

/-- The one-shot lists start the cycle empty (R101). -/
def LaneSt.clearLists (l : LaneSt) : LaneSt :=
  { l with tcm := (((l.tcm.clear (outRsp 0) 0x4000).clear (outKst 0) 0x40000).clear (outBrg 0) 0x8000), rt := { l.rt with brgCount := 0 } }

/-- Step 6 of R97. -/
def LaneSt.complete (l : LaneSt) (me : Nat) (c : CycleIn) : LaneSt :=
  let l1 := l.backstop me
  let l2 := if c.full then l1.localOutputs else l1
  let l3 := l2.forceWordsOut
  let l4 : LaneSt := { l3 with rt := { l3.rt with changed := l3.findChanged } }
  let l5 := l4.commitIndices c
  let ifc1 := l5.stn.usedList.filter fun e => l5.stn.eIfc e == 1 && l5.cmdBad e
  let l6 := l5.stageAll (ifc1.map fun e => cmdEncodeEvt me e (l5.cmd e) (l5.cmdArg e))
  let l7 := l6.bridgeElems
  let l8 := l7.kst.recs.foldl (fun (l : LaneSt) r => l.linkMessages c r) l7
  let l9 : LaneSt := { l8 with kst := l8.kst.heartbeats c.ctime c.bound }
  let l10 := (l9.fillOutbox c).appSlots me c
  { l10 with rt := { l10.rt with seqs := l10.rt.changed.foldl (fun m e => SMap.set 0 m e (l10.cmdSeq e)) l10.rt.seqs } }

/-- The program run of a lane on its agreed image (R97). -/
def LaneSt.programRun (l : LaneSt) (me : Nat) (c : CycleIn) (exc : Option ProgExc) : LaneSt :=
  let l0 : LaneSt := { l.clearLists with rt := { l.clearLists.rt with tag := 0, arith := [], exc := none, cycle := c.cycle, ctime := c.ctime } }
  let l1 := (l0.inputStep c).berylStep
  let l2 := l1.applyForces c.lc
  let l3 := l2.externals c.settle
  let l4 := l3.runPrograms me exc
  if l4.rt.exc.isSome then l4 else (l4.class6 c.settle).complete me c

end Sys2Proof.Machine
end

