-- ==== Sys2Proof/Machine/ConsensusOps.lean ====
section
/-!
DEFINITION. Input consensus over the lanes (06_lanes_and_voting.md R162 to R167, R503; 01_one_logic_cycle.md R20 to R22).
-/
namespace Sys2Proof.Machine

/-! ### Cut counts (R20) -/

/-- The middle one of three numbers. -/
def median3 (a b c : Nat) : Nat := max (min a b) (min (max a b) c)

/-- The agreed cut count of one path: the median of three, the lower of two. -/
def cutCount : List Nat → Nat
  | [a, b, c] => median3 a b c
  | [a, b] => min a b
  | [a] => a
  | _ => 0

/-! ### Measured values (R164 to R166, 09_local_safety_io.md R270) -/

/-- The function an entry belongs to, and its place among the function's eight. -/
def mvFn (k : Nat) : Nat × Nat := ((k - 3) / 8, (k - 3) % 8)
def spsKind (sps : Bytes) (f : Nat) : Nat := Bytes.le sps (0x4C0 + 32 * f) 1

/-- The tolerance of an entry. -/
def mvTol (sps : Bytes) (k : Nat) : Nat :=
  if k = 0 then 100000
  else if k = 1 then 8
  else if k < 3 then 0
  else if k < 131 then (if (mvFn k).2 = 0 then (if spsKind sps (mvFn k).1 = 1 then 500 else if spsKind sps (mvFn k).1 = 3 then 1 else 0) else 0)
  else if k < 227 then 200
  else if k < 275 then 20
  else 2

/-- Whether the safe side of an entry is the high one. -/
def mvHigh (sps : Bytes) (k : Nat) : Bool :=
  if k < 3 then false
  else if k < 131 then
    match (mvFn k).2 with
    | 0 => true
    | 2 => spsKind sps (mvFn k).1 == 2
    | 3 => spsKind sps (mvFn k).1 != 2
    | 5 => true
    | _ => false
  else decide (227 ≤ k ∧ k < 275)

/-- An entry as a number. -/
def mvInt (k v : Nat) : Int := if k < 3 then (v : Int) else if bit v 33 then toSigned 32 v else ((v % 2 ^ 32 : Nat) : Int)

/-- Two valid values (R165): equal or within tolerance, the one on the safe side; beyond it, not valid. -/
def agree2 (sps : Bytes) (k a b : Nat) : Option Nat :=
  if k = 2 then some (max a b)
  else
    let x := mvInt k a
    let y := mvInt k b
    if (x - y).natAbs ≤ mvTol sps k then some (if (mvHigh sps k) = decide (x ≤ y) then b else a)
    else if k = 0 then some (min a b)
    else none

/-- The value in the middle of three by its number. -/
def mid3 (k a b c : Nat) : Nat :=
  let x := mvInt k a
  let y := mvInt k b
  let z := mvInt k c
  if (x ≤ y ∧ y ≤ z) ∨ (z ≤ y ∧ y ≤ x) then b else if (y ≤ x ∧ x ≤ z) ∨ (z ≤ x ∧ x ≤ y) then a else c

/-- Three valid values (R164). -/
def agree3 (k a b c : Nat) : Nat :=
  if k = 2 then (if a = b ∨ a = c then a else if b = c then b else max a (max b c)) else mid3 k a b c

/-- The entries in use. -/
def mvEntries (full : Bool) : List Nat := if full then List.range 283 else [0, 1, 2]

/-- The agreed value of one entry among the lanes that offer it as valid. -/
def agreeEntry (sps : Bytes) (ms : List (Lane × Meas)) (k : Nat) : Option Nat :=
  match ms.filterMap fun p => p.2.find k with
  | [a, b, c] => some (agree3 k a b c)
  | [a, b] => agree2 sps k a b
  | _ => none

/-- The agreed list, and who deviates in which entry (three lanes only). -/
def agreeMeas (full : Bool) (sps : Bytes) (ms : List (Lane × Meas)) : Meas × List (Lane × Nat) :=
  let r := (mvEntries full).map fun k => (k, agreeEntry sps ms k)
  let agreed : Meas := r.filterMap fun p => p.2.map fun v => (p.1, v)
  let dev := if ms.length = 3 then
      agreed.flatMap fun p => (ms.filter fun q => match q.2.find p.1 with
        | some v => if p.1 = 2 then v != p.2 else decide (mvTol sps p.1 < (mvInt p.1 v - mvInt p.1 p.2).natAbs)
        | none => false).map fun q => (q.1, p.1)
    else []
  (agreed, dev)

/-! ### Exact blocks (R163, R165) -/

def blockAt (n : Nat) : Nat := inImg + 4096 * n
/-- The digest of block `n` (R163). -/
def LaneSt.blockDigest (l : LaneSt) (n : Nat) : Nat := l.tcm.crc64 n (blockAt n) 4096
/-- Whether two lanes' digests of a block are equal (assumption log 11). -/
def sameBlock (x y : LaneSt) (n : Nat) : Bool :=
  x.tcm.rd (blockAt n) 4096 == y.tcm.rd (blockAt n) 4096 || x.blockDigest n == y.blockDigest n

/-- Copy a block from one lane's memory into another's. -/
def copyBlock (dst src : Mem) (n : Nat) : Mem := dst.splice src (blockAt n) (blockAt n) 4096

/-- What a part of the input image is. -/
inductive PartKind where
  | opaque' | record | request | slot | input | output | function | signal
  deriving DecidableEq, Repr

/-- The parts of a block: address, size, kind (R100, R269). -/
def blockParts (n : Nat) : List (Nat × Nat × PartKind) :=
  let a := blockAt n
  let rep (o size count : Nat) (k : PartKind) : List (Nat × Nat × PartKind) := (List.range count).map fun i => (a + o + size * i, size, k)
  if n < 4 then [(a, 4096, .opaque')]
  else if n < 68 then rep 0 16 256 .record
  else if n < 76 then rep 0 32 128 .request
  else if n < 140 then rep 0 1024 4 .slot
  else if n = 140 then rep 0 16 96 .input ++ rep 0x600 8 48 .output ++ rep 0x780 8 16 .function ++ rep 0x800 8 256 .signal
  else if n < 148 then rep 0 8 512 .signal
  else if n = 148 then rep 0 8 256 .signal ++ [(a + 0x800, 2048, .opaque')]
  else [(a, 4096, .opaque')]

/-- Bitwise majority. -/
def maj3 (a b c : Nat) : Nat := (a &&& b) ||| (a &&& c) ||| (b &&& c)

/-- The safe form of a part (R165, table "Safe forms in REDUCED"); none where the table gives none. -/
def safeForm : PartKind → Option Nat
  | .opaque' => none
  | .record => some (0xFFFF <<< 96)
  | .request => some 0
  | .slot => some 0
  | .input => some 3
  | .output => some 0x0703
  | .function => some 0
  | .signal => some 0

/-- Whether list items are of one kind (R163): the same OP, or the same MTYPE and MLEN. -/
def oneKind (k : PartKind) (a b c : Nat) : Bool :=
  match k with
  | .request => a % 256 == b % 256 && b % 256 == c % 256
  | .slot => bits a 63 32 == bits b 63 32 && bits b 63 32 == bits c 63 32
  | _ => true

/-- A part on which three lanes differ (R163). -/
def mergePart (k : PartKind) (a b c : Nat) : Nat :=
  match k with
  | .record =>
    let w (v i : Nat) : Nat := bits v (32 * i + 31) (32 * i)
    maj3 (w a 0) (w b 0) (w c 0) + median3 (w a 1) (w b 1) (w c 1) <<< 32 + median3 (w a 2) (w b 2) (w c 2) <<< 64
      + median3 (w a 3) (w b 3) (w c 3) <<< 96
  | .request | .slot =>
    if a = b ∨ a = c then a
    else if b = c then b
    else if a ≠ 0 ∧ b ≠ 0 ∧ c ≠ 0 ∧ oneKind k a b c = true then maj3 a b c
    else 0
  | _ => maj3 a b c

/-- A block on which three lanes differ, agreed part by part. -/
def mergeBlock (x y z : Mem) (n : Nat) : Mem :=
  (blockParts n).foldl (fun m p =>
    let a := x.rd p.1 p.2.1
    let b := y.rd p.1 p.2.1
    let c := z.rd p.1 p.2.1
    if a = b ∧ b = c then m else m.wr p.1 p.2.1 (mergePart p.2.2 a b c)) x

/-- What consensus finds: the lanes with their agreed images, lanes in the minority, block transfers of each lane, safe forms given, whether
the module enters HELD, whether blocks differed. -/
structure ConsOut where
  lanes : PerLane LaneSt
  minority : List Lane
  xfer : PerLane Nat
  safed : Nat
  held : Bool
  differ : Bool
  deriving DecidableEq, Repr

def addLane (l : List Lane) (x : Lane) : List Lane := if l.contains x then l else l ++ [x]

/-- One block among three voting lanes (R163). -/
def consBlock3 (o : ConsOut) (n : Nat) : ConsOut :=
  let a := o.lanes.a
  let b := o.lanes.b
  let c := o.lanes.c
  let ab := sameBlock a b n
  let ac := sameBlock a c n
  let bc := sameBlock b c n
  let up (x : Lane) (m : Mem) (o : ConsOut) : ConsOut :=
    { o with lanes := o.lanes.set x { o.lanes.get x with tcm := m }, minority := addLane o.minority x, xfer := o.xfer.set x (o.xfer.get x + 1) }
  if ab && bc then o
  else if ab then up .c (copyBlock c.tcm a.tcm n) o
  else if ac then up .b (copyBlock b.tcm a.tcm n) o
  else if bc then up .a (copyBlock a.tcm b.tcm n) o
  else
    let m := mergeBlock a.tcm b.tcm c.tcm n
    Lane.all.foldl (fun (o : ConsOut) x =>
      let own := (o.lanes.get x).tcm
      let o1 : ConsOut := { o with xfer := o.xfer.set x (o.xfer.get x + 1) }
      if own.rd (blockAt n) 4096 = m.rd (blockAt n) 4096 then o1
      else { o1 with lanes := o1.lanes.set x { o1.lanes.get x with tcm := copyBlock own m n }, minority := addLane o1.minority x }) o

/-- One block among two lanes (R165): differing parts take their safe forms; a part without one holds the module. -/
def consBlock2 (x y : Lane) (o : ConsOut) (n : Nat) : ConsOut :=
  let a := o.lanes.get x
  let b := o.lanes.get y
  if sameBlock a b n then o
  else
    let diff := (blockParts n).filter fun p => a.tcm.rd p.1 p.2.1 != b.tcm.rd p.1 p.2.1
    let put (m : Mem) : Mem := diff.foldl (fun m p => m.wr p.1 p.2.1 ((safeForm p.2.2).getD 0)) m
    { o with
      lanes := (o.lanes.set x { a with tcm := put a.tcm }).set y { b with tcm := put b.tcm }
      xfer := (o.xfer.set x (o.xfer.get x + 1)).set y (o.xfer.get y + 1)
      safed := min 255 (o.safed + diff.length)
      held := o.held || diff.any fun p => (safeForm p.2.2).isNone
      differ := true }

/-- Association state of the lanes (R163, R165): two of three equal stand; two that differ go back to what stood before the cut and count
a discarded PDU. -/
def consKst (old : PerLane LaneSt) (parts : List Lane) (ls : PerLane LaneSt) : PerLane LaneSt :=
  match parts with
  | [x, y, z] =>
    let a := ls.get x
    let b := ls.get y
    let c := ls.get z
    if a.kst = b.kst then ls.set z { c with kst := a.kst }
    else if a.kst = c.kst then ls.set y { b with kst := a.kst }
    else if b.kst = c.kst then ls.set x { a with kst := b.kst }
    else ls
  | [x, y] =>
    let a := ls.get x
    let b := ls.get y
    if a.kst = b.kst then ls
    else
      let as := (a.kst.recs.map (·.anum)).filter fun k => a.kst.assoc k != b.kst.assoc k
      let back (o l : LaneSt) : LaneSt :=
        { l with kst := as.foldl (fun (q : LaneKst) k =>
            { q.setAssoc k { o.kst.assoc k with discarded := (o.kst.assoc k).discarded + 1 } with
              out := (q.out.filter fun m => m.anum != k) ++ o.kst.out.filter fun m => m.anum == k }) l.kst }
      (ls.set x (back (old.get x) a)).set y (back (old.get y) b)
  | _ => ls

/-- Exact blocks of the voting lanes `parts` agreed (R163, R165); shadow lanes take no part. `old` are the lanes before the cut was
decoded. -/
def consensus (old : PerLane LaneSt) (parts : List Lane) (ls : PerLane LaneSt) : ConsOut :=
  let o0 : ConsOut := ⟨consKst old parts ls, [], PerLane.const 0, 0, false, false⟩
  match parts with
  | [_, _, _] =>
    let o := (List.range 256).foldl consBlock3 o0
    { o with differ := o.minority != [] }
  | [x, y] =>
    let o := (List.range 256).foldl (consBlock2 x y) o0
    { o with held := o.held || decide (4 < o.xfer.get x) }
  | _ => { o0 with held := true }

end Sys2Proof.Machine
end

