-- ==== Sys2Proof/Machine/LoadChecks.lean ====
section
/-!
DEFINITION. Loading a station image into a lane and the load checks on it (02_station_image.md R44 to R48, R53 to R58;
04_interlocking_programs.md R93; 07_opbex.md R217; 08_phase_and_time.md R248; 09_local_safety_io.md R287;
10_older_interfaces_and_bridging.md R307).
-/
namespace Sys2Proof.Machine

/-! ### Placement (R44 to R47) -/

/-- A section copied to its place, at most `cap` bytes. -/
def putSection (m : Mem) (b : Blob) (sid base cap : Nat) : Mem :=
  match b.section' sid with
  | some s => m.splice b.mem s.off base (min s.len cap)
  | none => m

/-- The presence bitmap of RELN. -/
def Blob.relnHas (b : Blob) (r : Nat) : Bool := bit (b.secF 6 (r / 8) 1) (r % 8)
/-- The normal form: the blocks of RELN in the order of the present routes. -/
def putRelations (m : Mem) (b : Blob) (base : Nat) : Mem :=
  match b.section' 6 with
  | none => m
  | some s =>
    let ps := (List.range numR).filter b.relnHas
    (ps.mapIdx fun k r => (k, r)).foldl
      (fun m p => m.splice b.mem (s.off + 512 + 17408 * p.1) (base + 17408 * p.2) 17408) m

/-- The station region of an image with both forms, and its work region. -/
def placeStation (dram : Mem) (b : Blob) (base wrk : Nat) : Mem :=
  let m0 := dram.clear base 0x09000000
  let m1 := putRelations m0 b base
  let m2 := putSection (putSection m1 b 2 (base + 0x08800000) 0x80000) b 3 (base + 0x08900000) 0x40000
  let m3 := putSection (putSection m2 b 4 (base + 0x08940000) 0x40000) b 5 (base + 0x08980000) 0x40000
  let m4 := putSection m3 b 7 (base + 0x089C0000) 17408
  ({ mem := m4, base := base, wrk := wrk } : Stn).buildTransposed

/-- The program code of an image in its region of lane DRAM. -/
def placeCode (dram : Mem) (b : Blob) (base : Nat) : Mem := putSection (dram.clear base 0x4000000) b 8 base 0x4000000

/-- The schedule table of an image (R216). -/
def Blob.osch (b : Blob) : ObxBank :=
  match b.section' 0xB with
  | some s => ⟨s.len, Mem.splice [] b.mem s.off 0 s.len⟩
  | none => ObxBank.empty
/-- The bridge tables of an image (R304). -/
def Blob.brdg (b : Blob) : Brt :=
  match b.section' 0xA with
  | some s => ⟨b.mem, s.off⟩
  | none => ⟨[], 0⟩

/-! ### The checks -/

/-- What the checks of an image are made on: the image with its placed station, the variant, the module's SID, the body of the SPS, and
whether the signature is valid. -/
structure LoadIn where
  b : Blob
  d : Stn
  full : Bool
  sid : Nat
  sps : Bytes
  signed : Bool

/-- No numbered item at fault (R53). -/
def noIndex : Nat := 0xFFFFFFFF
/-- The lowest of a list of indices at fault. -/
def lowest (l : List Nat) : Option Nat :=
  match l with
  | [] => none
  | x :: r => some (r.foldl min x)
def general (ok : Bool) : Option Nat := if ok then none else some noIndex
/-- The first of two kinds of fault. -/
def orElse' (a b : Option Nat) : Option Nat :=
  match a with
  | some x => some x
  | none => b
/-- The indices of the set bits of a row. -/
def rowList {n : Nat} (r : BitVec n) : List Nat := bitList n r.toNat

def Stn.routes (d : Stn) : List Nat := (List.range numR).filter d.rExists
def Stn.overlaps (d : Stn) : List Nat := (List.range numO).filter fun o => d.oExit o != none16

/-- Whether a section of a type has the length its table gives (R55). -/
def sectLenOk (b : Blob) (s : Section) : Bool :=
  let n := ((List.range numR).filter b.relnHas).length
  match s.sid with
  | 1 => decide (s.len ≤ 0x4000)
  | 2 => s.len == 0x80000
  | 3 => s.len == 0x40000
  | 4 => s.len == 0x40000
  | 5 => s.len == 0x40000
  | 6 => s.len == 512 + 17408 * n
  | 7 => s.len == 17408
  | 8 => decide (s.len ≤ 0x4000000)
  | 9 => decide (s.len ≤ 0x800000)
  | 0xA => decide (s.len ≤ 0x100000)
  | 0xB => decide (s.len ≤ 0x100000)
  | 0xC => s.len == 8
  | 0xD => decide (s.len ≤ 0x400000)
  | _ => false

/-- The bytes between the directory and the sections and between sections are zero, sections in order without overlap at 4 KiB
boundaries (R55). -/
def gapsOk (b : Blob) : Nat → List Section → Bool
  | _, [] => true
  | pos, s :: r =>
    decide (pos ≤ s.off) && (s.off - hdrLen) % 4096 == 0 && b.le pos (s.off - pos) == 0 && gapsOk b (s.off + s.len) r

/-- The container (R54, R55), every section digest and the signature (check 0x01). -/
def check01 (i : LoadIn) : Option Nat :=
  let b := i.b
  let n := b.le hdrLen 2
  let ss := b.sections
  let sids := ss.map (·.sid)
  let rowsOk := (List.range (min n 13)).all fun k =>
    let o := hdrLen + 16 + 80 * k
    b.le (o + 2) 2 / 4 == 0 && b.le (o + 4) 4 == 0 && b.le (o + 0x48) 8 == 0
  let ifc (k : Nat) : Bool := i.d.usedList.any fun e => i.d.eIfc e == k
  general (decide (10 ≤ n ∧ n ≤ 13) && b.le (hdrLen + 2) 2 == 0 && b.le (hdrLen + 12) 4 == 0 && rowsOk
    && ([1, 2, 3, 4, 5, 6, 7, 8, 9, 0xB].all sids.contains) && decide sids.Nodup && ss.all (sectLenOk b)
    && gapsOk b (hdrLen + 16 + 80 * n) ss
    && (i.full || !(sids.contains 0xA || sids.contains 0xC))
    && (!i.full || ((sids.contains 0xA || !ifc 3) && (sids.contains 0xC || !ifc 2)))
    && b.digests && i.signed)

/-- The element types that exceed their maxima (R35). -/
def check02 (i : LoadIn) : Option Nat :=
  let u := i.d.usedList
  let excess (p : Nat → Bool) (n : Nat) : List Nat := (u.filter fun e => p (i.d.eType e)).drop n
  lowest (excess isSection 8192 ++ excess isPoint 2048 ++ excess isSignal 2048 ++ excess isAux 4096)

/-- What two elements may not share (R38): node and channel, local input, local output, Draip position. -/
def placesOf (d : Stn) (e : Nat) : List (Nat × Nat × Nat) :=
  match d.eIfc e with
  | 1 => [(1, d.eAddr e, d.eChan e)]
  | 2 => (if d.eAddr e = none16 then [] else [(2, d.eAddr e, 0)]) ++ (if d.eChan e = 0xFF then [] else [(3, d.eChan e, 0)])
  | 3 => [(4, d.eAddr e, d.eChan e)]
  | _ => []

def check03 (i : LoadIn) : Option Nat :=
  let d := i.d
  let u := d.usedList
  let node (e : Nat) : Nat := (u.filter fun x => d.eIfc x == 1 && d.eAddr x == d.eAddr e).length
  let clash (e : Nat) : Bool := u.any fun x => x != e && (placesOf d x).any fun p => (placesOf d e).contains p
  lowest (u.filter fun e => (d.eIfc e == 1 && decide (16 < node e)) || clash e || (!i.full && (d.eIfc e == 2 || d.eIfc e == 3)))

/-- Which class a relation plane may name (R42). -/
def planeClass (i t : Nat) : Bool :=
  match i with
  | 0 => isSection t
  | 1 => isPoint t
  | 2 => isPoint t
  | 3 => isPoint t
  | 4 => isPoint t
  | 5 => t != 0
  | 6 => isSignal t
  | _ => isAux t

/-- E-indices named where they may not stand: used and of the class the field allows (R53, check 0x04). -/
def check04 (i : LoadIn) : Option Nat :=
  let d := i.d
  let bad (p : Nat → Bool) (e : Nat) : Bool := decide (numE ≤ e) || d.eType e == 0 || !p (d.eType e)
  let opt (p : Nat → Bool) (e : Nat) : List Nat := if e ≠ none16 ∧ bad p e = true then [e] else []
  let fromEl := d.usedList.flatMap fun e =>
    opt isSection (d.eSect e) ++ opt isPoint (d.ePartner e)
      ++ (if isSection (d.eType e) then opt (· == 7) (bits (d.eParam e 1) 15 0) else [])
  let fromRt := d.routes.flatMap fun r =>
    ((List.range 8).flatMap fun p => (rowList (d.rel r p)).filter (bad (planeClass p)))
      ++ ((List.range (d.rSeqLen r + d.rApprLen r)).filterMap fun k =>
        if d.rSeqOff r + k < 131072 then some (bits (d.seq (d.rSeqOff r + k)) 13 0) else none).filter (bad isSection)
  let fromOv := d.overlaps.flatMap fun o =>
    [d.oExit o].filter (bad isSignal) ++ [d.oTrig o].filter (bad isSection) ++ (d.oElems o).filter (bad fun _ => true)
  lowest (fromEl ++ fromRt ++ fromOv)

def check05 (i : LoadIn) : Option Nat :=
  let d := i.d
  lowest ((d.usedList.filter fun e =>
    d.ePartner e != none16 && (!isPoint (d.eType e) || !isPoint (d.eType (d.ePartner e)) || d.ePartner (d.ePartner e) != e)).map
      fun e => min e (d.ePartner e))

/-- The presence bitmap; the rows of a route that does not exist are zero (R39). -/
def check06 (i : LoadIn) : Option Nat :=
  lowest ((List.range numR).filter fun r => i.b.relnHas r != i.d.rExists r)

def check07 (i : LoadIn) : Option Nat :=
  let d := i.d
  lowest (d.routes.flatMap fun r =>
    (if (d.cnf r).getLsbD r then [] else [r])
      ++ ((rowList (d.cnf r)).filter fun s => !((d.cnf s).getLsbD r)).map fun s => min r s)

def check08 (i : LoadIn) : Option Nat :=
  let d := i.d
  lowest (d.routes.filter fun r =>
    let pn := d.rel r 1
    let pr := d.rel r 2
    let fn := d.rel r 3
    let fr := d.rel r 4
    (pn &&& pr) != 0 || (fn &&& fr) != 0 || ((pn ||| pr) &&& (fn ||| fr)) != 0)

def check09 (i : LoadIn) : Option Nat :=
  let d := i.d
  lowest (d.routes.filter fun r => ((d.rel r 0 ||| d.rel r 1 ||| d.rel r 2) &&& ~~~(d.rel r 5)) != 0)

def check0A (i : LoadIn) : Option Nat :=
  let d := i.d
  let out (row alt : ERow) : Bool := (rowList row).any fun e => d.ePartner e != none16 && !(alt.getLsbD (d.ePartner e))
  lowest (d.routes.filter fun r =>
    out (d.rel r 1) (d.rel r 1 ||| d.rel r 3) || out (d.rel r 2) (d.rel r 2 ||| d.rel r 4))

def check0B (i : LoadIn) : Option Nat :=
  let d := i.d
  let sig (e : Nat) : Bool := decide (e < numE) && isSignal (d.eType e)
  let ovOk (r : Nat) : Bool :=
    let o := d.rOvl r
    o == none16 || (decide (o < numO) && d.oExit o == d.rExit r && (d.oElems o).all fun e => decide (e < numE) && (d.rel r 5).getLsbD e)
  lowest (d.routes.filter fun r => !(sig (d.rEntry r) && sig (d.rExit r) && ovOk r))

def check0C (i : LoadIn) : Option Nat :=
  let d := i.d
  lowest (d.routes.filter fun r => (rowList (d.ovlRow r)).any fun s => !(d.rExists s && d.rEntry s == d.rExit r))

/-- The release sequence of a route; the route is the item at fault (DEDUCED, assumption log 33). -/
def check0D (i : LoadIn) : Option Nat :=
  let d := i.d
  let okRel (r k : Nat) : Bool :=
    let w := d.seq (d.rSeqOff r + k)
    !bit w 14 && (d.rel r 0).getLsbD (bits w 13 0) && (k + 1 != d.rSeqLen r || bit w 15)
  let okApp (r k : Nat) : Bool :=
    let w := d.seq (d.rSeqOff r + d.rSeqLen r + k)
    bit w 14 && !bit w 15 && !((d.rel r 0).getLsbD (bits w 13 0))
  let ok (r : Nat) : Bool :=
    decide (d.rSeqOff r + d.rSeqLen r + d.rApprLen r ≤ 131072) && d.rSeqLen r != 0
      && (List.range (d.rSeqLen r)).all (okRel r) && (List.range (d.rApprLen r)).all (okApp r)
  lowest (d.routes.filter fun r => !ok r)

/-- The expected value of scan block `n` (R48). -/
def Stn.scanExp (d : Stn) (n : Nat) : Nat := d.mem.rd (d.base + 0x089C0000 + 8 * n) 8
def check0E (i : LoadIn) : Option Nat :=
  general ((List.range 2176).all fun n => i.d.mem.crc64 n (i.d.base + 65536 * n) 65536 == i.d.scanExp n)

/-- The stated ranges and reserved fields of an element entry (R36, R37). -/
def elemOk (d : Stn) (e : Nat) : Bool :=
  let t := d.eType e
  let w := d.ent e 0 4
  let p (k : Nat) : Nat := d.eParam e k
  let zeroFrom (k : Nat) : Bool := (List.range 5).all fun j => decide (j < k) || p j == 0
  let a := d.eAddr e
  let c := d.eChan e
  let addr := match d.eIfc e with
    | 0 => a == none16 && c == 0xFF
    | 1 => decide (1 ≤ a ∧ a ≤ 1024 ∧ c ≤ 15)
    | 2 => (decide (a ≤ 95) || a == none16) && (decide (c ≤ 47) || c == 0xFF)
    | 3 => decide (a / 256 ≤ 7 ∧ a % 256 ≤ 31)
    | 4 => c == 0xFF
    | _ => false
  let par := match t with
    | 1 => decide (bits (p 0) 31 16 ≤ 10000) && bits (p 1) 31 16 == 0 && zeroFrom 2
    | 2 => decide (p 1 ≤ 3) && zeroFrom 2
    | 3 => decide (bits (p 0) 15 8 ≤ 8) && bits (p 1) 31 16 == 0 && zeroFrom 2
    | 4 => zeroFrom 1
    | 5 => zeroFrom 1
    | 6 => zeroFrom 1
    | 7 => decide (2 ≤ bits (p 0) 7 0 ∧ bits (p 0) 7 0 ≤ 8 ∧ bits (p 0) 15 8 ≤ 1) && bits (p 0) 31 16 == 0 && zeroFrom 1
    | 8 => true
    | _ => false
  if t = 0 then (List.range 8).all fun k => d.ent e (4 * k) 4 == 0 || decide (k = 1 ∨ k = 2)
  else decide (t ≤ 8) && d.eSub e == 0 && decide (d.eIfc e ≤ 4) && (!(bit w 20) || t == 2) && (!(bit w 21) || t == 3)
    && bits w 31 23 == 0 && addr && par

def routeOk (d : Stn) (r : Nat) : Bool :=
  let res := bits (d.rte r 0 4) 15 12 == 0 && d.rte r 0x15 3 == 0 && d.rte r 0x18 0x28 == 0
  if d.rKind r = 0 then true
  else decide (d.rKind r ≤ 3) && res && (decide (d.rOvl r < numO) || d.rOvl r == none16)
    && decide (1 ≤ d.rSeqLen r ∧ d.rSeqLen r ≤ 64 ∧ d.rApprLen r ≤ 16)

def overlapOk (d : Stn) (o : Nat) : Bool :=
  decide (d.oCount o ≤ 56) && ((List.range 56).all fun k => decide (k < d.oCount o) || d.ovl o (0x10 + 2 * k) 2 == none16)
    && (d.oExit o != none16 || d.oCount o == 0) && d.ovl o 3 1 == 0 && d.ovl o 10 2 == 0 && d.ovl o 12 4 == 0

/-- Element table, then route table, then overlap table (DEDUCED, assumption log 33). -/
def check0F (i : LoadIn) : Option Nat :=
  let d := i.d
  orElse' (lowest ((List.range numE).filter fun e => !elemOk d e))
    (orElse' (lowest ((List.range numR).filter fun r => !routeOk d r)) (lowest ((List.range numO).filter fun o => !overlapOk d o)))

/-! ### PROG and INST (R93) -/

def Blob.pList (b : Blob) : List Nat := List.range (min b.pCount 64)
def Blob.pIfirst (b : Blob) (k : Nat) : Nat := b.prog k 0x18 4
def Blob.pIcount (b : Blob) (k : Nat) : Nat := b.prog k 0x1C 4

def check10 (i : LoadIn) : Option Nat :=
  general (Config.abiOk (i.b.secF 8 2 2) && decide (i.b.secF 8 4 4 ≤ Config.libVersion))

/-- PNUMs, and the instance ranges: the program number, or the instance that no program or a second one owns. -/
def check11 (i : LoadIn) : Option Nat :=
  let b := i.b
  let ps := b.pList
  let nums := ps.map b.pNum
  let owners (x : Nat) : List Nat := ps.filter fun k => decide (b.pIfirst k ≤ x ∧ x < b.pIfirst k + b.pIcount k)
  orElse' (lowest (nums.filter fun n => !(decide (1 ≤ n ∧ n ≤ 64)) || decide (1 < nums.count n)))
    (orElse' (lowest (b.insts.filter fun x => (owners x).map b.pNum != [b.iPnum x]))
      (lowest ((ps.filter fun k => decide (b.iCount < b.pIfirst k + b.pIcount k)).map b.pNum)))

/-- Whether two ranges meet. -/
def meets (a n b m : Nat) : Bool := decide (a < b + m ∧ b < a + n)

/-- An instance by R91 and R92. -/
def instOk (b : Blob) (x : Nat) : Bool :=
  let o := b.iOff x
  let n := b.iSize x
  decide (o % 8 = 0 ∧ n % 8 = 0 ∧ 16 ≤ n ∧ n ≤ 65536 ∧ o + n ≤ b.idataLen ∧ (o + n ≤ b.tcmLen ∨ b.tcmLen ≤ o))
    && decide (b.inst x 0xE 2 ≤ 1) && b.inst x 0x1E 2 == 0 && decide (b.iInit x + n ≤ b.initLen)
    && (!(b.iRet x) || decide (b.rsegOff ≤ o ∧ o + n ≤ b.rsegOff + b.rsegLen))
    && (b.insts.all fun y => y == x || !(meets o n (b.iOff y) (b.iSize y)))
def varOk (b : Blob) (j : Nat) : Bool :=
  let x := b.vInst j
  decide (b.var j 9 1 ≤ 3 ∧ x < b.iCount) && decide (b.iOff x ≤ b.vOff j ∧ b.vOff j + b.vSize j ≤ b.iOff x + b.iSize x)
    && (!(b.vRetain j) || b.iRet x)
def check12 (i : LoadIn) : Option Nat :=
  let b := i.b
  let lims := decide (1 ≤ b.pCount ∧ b.pCount ≤ 64 ∧ b.iCount ≤ 65536 ∧ b.vCount ≤ 262144 ∧ b.idataLen ≤ 0x2000000 ∧ b.tcmLen ≤ 0x400000
      ∧ b.tcmLen % 4096 = 0 ∧ b.rsegLen ≤ 1984 * 1024 ∧ b.rsegOff % 65536 = 0 ∧ b.tcmLen ≤ b.rsegOff)
    && (b.rsegLen == 0 || decide (b.rsegOff + b.rsegLen ≤ b.idataLen))
  orElse' (general lims)
    (orElse' (lowest (b.insts.filter fun x => !instOk b x)) (lowest ((b.vars.filter fun j => !varOk b j).map b.vInst)))

def check13 (i : LoadIn) : Option Nat :=
  let b := i.b
  let ii := b.insts.map b.iIid
  let vv := b.vars.map b.vVid
  orElse' (lowest (b.insts.filter fun x => decide (1 < ii.count (b.iIid x))))
    (lowest ((b.vars.filter fun j => decide (1 < vv.count (b.vVid j))).map b.vInst))

/-- The instance size of a system block (R107). -/
def libSize (t : Nat) : Nat := [0, 32, 32, 40, 24, 24, 32, 32, 24, 24, 24, 32, 24, 24].getD t 0
def check14 (i : LoadIn) : Option Nat :=
  let b := i.b
  lowest (b.insts.filter fun x =>
    let t := b.iType x
    if 1 ≤ t ∧ t ≤ 0xD then b.iSize x != libSize t || b.iTsig x != Config.libTsig t
    else !(decide (0x8000 ≤ t ∧ t ≤ 0xFFFE)))
def check15 (i : LoadIn) : Option Nat := general (decide (i.b.pList.foldl (fun a k => a + i.b.pWcet k) 0 ≤ 1500000))
def check16 (i : LoadIn) : Option Nat :=
  if i.full then none else lowest (i.b.insts.filter fun x => decide (0xA ≤ i.b.iType x ∧ i.b.iType x ≤ 0xD))

/-! ### OSCH (R217), commit indices (R248), local I/O (R287) -/

/-- The nodes that an element names; the node is the item at fault (DEDUCED, assumption log 33). -/
def check20 (i : LoadIn) : Option Nat :=
  let bk := i.b.osch
  lowest ((i.d.usedList.filter fun e => i.d.eIfc e == 1 && (bk.cls (i.d.eAddr e) == 0 || decide (bk.nch (i.d.eAddr e) ≤ i.d.eChan e))).map
    i.d.eAddr)

def check21 (i : LoadIn) : Option Nat :=
  let bk := i.b.osch
  let u := bk.used
  let clash (a b : Nat) : Bool := a != b && bk.win a == bk.win b && (bk.cls a == 1 || bk.cls b == 1 || bk.phase a == bk.phase b)
  lowest (u.filter fun a => u.any (clash a))

/-- The nominal poll instant within a minor cycle, moved up to stay positive (R194, τ = 0). -/
def nominalPoll (bk : ObxBank) (ch : Chan) (k : Nat) : Int :=
  (bk.open' k : Int) - (bk.dmNom ch : Int) - 2 * (bk.dkNom k ch : Int) - 508
/-- Nodes in window order. -/
def insertWin (bk : ObxBank) (k : Nat) : List Nat → List Nat
  | [] => [k]
  | x :: r => if bk.win k < bk.win x then k :: x :: r else x :: insertWin bk k r
def tooClose (bk : ObxBank) (ch : Chan) : List Nat → List Nat
  | a :: b :: r => (if nominalPoll bk ch b - nominalPoll bk ch a < 2500 then [min a b] else []) ++ tooClose bk ch (b :: r)
  | _ => []
def check22 (i : LoadIn) : Option Nat :=
  let bk := i.b.osch
  lowest ((List.range 4).flatMap fun p =>
    let l := (bk.used.filter fun k => bk.cls k == 1 || bk.phase k == p).foldl (fun a k => insertWin bk k a) []
    tooClose bk .a l ++ tooClose bk .b l)

def check23 (i : LoadIn) : Option Nat :=
  let bk := i.b.osch
  orElse' (general (bk.vset / 16 == 0 && bk.vset % 4 == 0)) (lowest (bk.used.filter fun k => !(bk.vset.testBit (bk.pver k))))

def check24 (i : LoadIn) : Option Nat :=
  let bk := i.b.osch
  let ss := ((List.range 8).map bk.syncSrc).filter (· != 0)
  let must := [modAddr i.sid, modAddr (i.sid ^^^ 1), 0xF100, 0xF101]
  general (decide ss.Nodup && must.all ss.contains && ss.all fun s => must.contains s || bk.cls s == 1)

def check25 (i : LoadIn) : Option Nat :=
  let bk := i.b.osch
  let hdr := bk.mem.rd 0 2 == 1 && decide (bk.dmNom .a ≤ 3500 ∧ bk.dmNom .b ≤ 3500) && bk.mem.rd 2 2 == bk.used.length
  orElse' (general hdr) (lowest (bk.used.filter fun k =>
    !(decide (bk.cls k ≤ 2 ∧ bk.win k ≤ 1023 ∧ 1 ≤ bk.nch k ∧ bk.nch k ≤ 16 ∧ 2 ≤ bk.fto k ∧ bk.fto k ≤ 15 ∧ bk.dkNom k .a ≤ 25000
      ∧ bk.dkNom k .b ≤ 25000 ∧ bk.phase k ≤ (if bk.cls k = 2 then 3 else 0) ∧ bk.nflags k ≤ 3))))

def check26 (i : LoadIn) : Option Nat :=
  let bk := i.b.osch
  lowest (i.d.usedList.filter fun e =>
    i.d.ePhcmd e && !(i.d.eIfc e == 1 && bk.cls (i.d.eAddr e) == 1 && bk.phaseNode (i.d.eAddr e)))

def check27 (i : LoadIn) : Option Nat :=
  let d := i.d
  let inUsed (c : Nat) : Bool := Bytes.le i.sps (0x40 + 8 * c) 1 != 0
  let outUsed (o : Nat) : Bool := Bytes.le i.sps (0x340 + 8 * o) 1 != 0
  let clash (e : Nat) : Bool := d.usedList.any fun x => x != e && (placesOf d x).any fun p => (placesOf d e).contains p
  lowest (d.usedList.filter fun e => d.eIfc e == 2 &&
    (isPoint (d.eType e) || (isSection (d.eType e) && d.eChan e != 0xFF)
      || (d.eAddr e != none16 && !(decide (d.eAddr e < 96) && inUsed (d.eAddr e)))
      || (d.eChan e != 0xFF && !(decide (d.eChan e < 48) && outUsed (d.eChan e))) || clash e))

/-! ### BRDG (R307) -/

/-- A map entry's raw fields. -/
def Brt.mapF (b : Brt) (i o n : Nat) : Nat := b.f (b.off 3 + 24 * i + o) n
def Brt.ports8 (_ : Brt) : List Nat := List.range 8
def Brt.usedDevs (b : Brt) : List Nat := (List.range 256).filter b.devUsed
def Brt.mapIdxs (b : Brt) : List Nat := List.range (min b.nmap 16384)

def check40 (i : LoadIn) : Option Nat :=
  let b := i.b.brdg
  match i.b.section' 0xA with
  | none => none
  | some s =>
    let inside (o n : Nat) : Bool := decide (64 ≤ o ∧ o + n ≤ s.len)
    let res := ((List.range 8).all fun p => b.portF p 3 1 == 0 && b.portF p 6 10 == 0)
      && ((List.range 256).all fun d => b.devF d 0xB 5 == 0)
      && ((List.range b.ntel).all fun t => b.f (b.off 2 + 8 * t + 2) 2 == 0)
      && (b.mapIdxs.all fun m => b.mapF m 0x13 5 == 0 && decide (b.mapF m 7 1 ≤ 7)) && b.f 0x1C 36 == 0
    general (b.f 0 2 == 1 && decide (b.ntel ≤ 4096 ∧ b.nmap ≤ 16384) && inside (b.off 0) 128 && inside (b.off 1) 4096
      && inside (b.off 2) (8 * b.ntel) && inside (b.off 3) (24 * b.nmap) && decide (b.off 4 ≤ s.len) && res)

/-- The E-index that a map entry targets. -/
def MapEnt.element (m : MapEnt) : Option Nat :=
  if m.kind = 2 ∨ m.kind = 3 ∨ m.kind = 4 ∨ m.kind = 5 ∨ m.kind = 0x82 then some m.target else none

def check41 (i : LoadIn) : Option Nat :=
  let b := i.b.brdg
  let d := i.d
  lowest (d.usedList.filter fun e => d.eIfc e == 3 &&
    (!(b.devUsed (d.eDev e)) || b.maps.any fun m => m.element == some e && m.dev != d.eDev e))

/-- The device is the item at fault (DEDUCED, assumption log 33). -/
def check42 (i : LoadIn) : Option Nat :=
  let b := i.b.brdg
  lowest (b.usedDevs.filter fun d =>
    let ts := b.tels d
    !(decide (ts.map (·.1)).Nodup && ts.all fun t => decide (1 ≤ t.1 ∧ t.1 ≤ 0x7F ∧ t.2.1 ≤ 48)))

/-- Whether the kind of a map entry fits its telegram and allows its target (R304, table "Map entry"). -/
def mapTargetOk (d : Stn) (b : Brt) (k : Nat) : Bool :=
  let m := b.mapEnt k
  let elem := decide (m.target < numE) && d.eUsed m.target && d.eIfc m.target == 3
  match m.kind with
  | 1 => isInputTel m.tnum && decide (m.target < 4096)
  | 2 => isInputTel m.tnum && elem && decide (m.tsel ≤ 7)
  | 3 => isInputTel m.tnum && elem
  | 4 => isInputTel m.tnum && elem
  | 5 => isInputTel m.tnum && elem
  | 6 => isInputTel m.tnum && m.width == 32 && m.mul == 1 && m.div == 1 && m.off == 0
  | 0x81 => isCommandTel m.tnum && decide (m.target < 4096)
  | 0x82 => isCommandTel m.tnum && elem && decide (m.tsel ≤ 3)
  | _ => false

def check43 (i : LoadIn) : Option Nat :=
  let b := i.b.brdg
  let sig (m : MapEnt) : Bool := m.kind == 1 || m.kind == 0x81
  lowest (b.mapIdxs.filter fun k =>
    let m := b.mapEnt k
    let tl := (b.tlen m.dev m.tnum).getD 0
    !(decide (m.bitoff + m.width ≤ 8 * tl ∧ 1 ≤ m.width ∧ m.width ≤ 32 ∧ 1 ≤ m.div)) || !mapTargetOk i.d b k
      || (sig m && b.maps.any fun x => sig x && x.target == m.target && x.dev != m.dev))

/-- The field an input entry writes. -/
def MapEnt.field (m : MapEnt) : Nat × Nat × Nat := (m.kind, m.target, if m.kind = 2 then m.tsel else 0)
def check44 (i : LoadIn) : Option Nat :=
  let b := i.b.brdg
  let ks := b.mapIdxs
  let isIn (m : MapEnt) : Bool := decide (m.kind < 0x80)
  let clash (x y : Nat) : Bool :=
    let m := b.mapEnt x
    let n := b.mapEnt y
    x != y && ((isIn m && isIn n && m.field == n.field)
      || (!(isIn m) && !(isIn n) && m.dev == n.dev && m.tnum == n.tnum && meets m.bitoff m.width n.bitoff n.width))
  lowest (ks.filter fun x => ks.any (clash x))

/-- Bits per second of a RATE code. -/
def rateBits (r : Nat) : Nat := [19200, 38400, 57600, 115200, 250000, 500000].getD r 19200
/-- The line time in µs of one visit of a device (R295, R296, R302): characters of 11 bits; one command with its answer of 10 characters, a
POLL of 9 characters and its telegram for each input telegram, the side-band status exchange (8 and 12 characters; DEDUCED, assumption
log 34), and TRESP per answer. -/
def visitUs (b : Brt) (d : Nat) : Nat :=
  let ts := b.tels d
  let cmd := (ts.filter fun t => isCommandTel t.1).foldl (fun a t => max a t.2.1) 0
  let hasCmd := ts.any fun t => isCommandTel t.1
  let ins := ts.filter fun t => isInputTel t.1
  let chars := (if hasCmd then 8 + cmd + 10 else 0) + ins.foldl (fun a t => a + 9 + 8 + t.2.1) 0 + 8 + 12
  let answers := b2n hasCmd + ins.length + 1
  (chars * 11 * 1000000 + rateBits (b.rate (d / 32)) - 1) / rateBits (b.rate (d / 32)) + answers * b.devF d 2 2

/-- The port is the item at fault (DEDUCED, assumption log 33); its fields lie in their ranges. -/
def check45 (i : LoadIn) : Option Nat :=
  let b := i.b.brdg
  lowest (((List.range 8).filter b.portUsed).filter fun p =>
    let us := (b.usedDevs.filter fun d => d / 32 == p).foldl (fun a d => a + visitUs b d) 0
    !(decide (b.rate p ≤ 5 ∧ 20 ≤ b.dcyc p ∧ b.dcyc p ≤ 1000 ∧ 11 * us ≤ 10000 * b.dcyc p)))

/-- The checks in ascending order of code (R53). -/
def loadChecks : List (Nat × (LoadIn → Option Nat)) :=
  [(0x01, check01), (0x02, check02), (0x03, check03), (0x04, check04), (0x05, check05), (0x06, check06), (0x07, check07), (0x08, check08),
   (0x09, check09), (0x0A, check0A), (0x0B, check0B), (0x0C, check0C), (0x0D, check0D), (0x0E, check0E), (0x0F, check0F)]
  ++ [(0x10, check10), (0x11, check11), (0x12, check12), (0x13, check13), (0x14, check14), (0x15, check15), (0x16, check16)]
  ++ [(0x20, check20), (0x21, check21), (0x22, check22), (0x23, check23), (0x24, check24), (0x25, check25), (0x26, check26), (0x27, check27)]
  ++ [(0x40, check40), (0x41, check41), (0x42, check42), (0x43, check43), (0x44, check44), (0x45, check45)]

/-- The first check that fails, with its index (R53); none where the image passes. -/
def refusedBy (i : LoadIn) : List (Nat × (LoadIn → Option Nat)) → Option (Nat × Nat)
  | [] => none
  | (c, f) :: r =>
    match f i with
    | some x => some (c, x)
    | none => refusedBy i r
def loadCheck (i : LoadIn) : Option (Nat × Nat) := refusedBy i loadChecks

/-! ### The SPS (R286 to R288) -/

def spsIn (s : Bytes) (c o n : Nat) : Nat := Bytes.le s (0x40 + 8 * c + o) n
def spsOut (s : Bytes) (k o n : Nat) : Nat := Bytes.le s (0x340 + 8 * k + o) n
def spsFn (s : Bytes) (f o n : Nat) : Nat := Bytes.le s (0x4C0 + 32 * f + o) n

def sps30 (s : Bytes) : Option Nat :=
  general (s.length == 1728 && Bytes.le s 0 2 == 1 && decide (20 ≤ Bytes.le s 2 2 ∧ Bytes.le s 2 2 ≤ 500 ∧ Bytes.le s 4 1 ≤ 1)
    && Bytes.le s 5 59 == 0)
def sps31 (s : Bytes) : Option Nat :=
  let inOk (c : Nat) : Bool :=
    let partner := spsIn s c 3 1
    decide (spsIn s c 0 1 ≤ (if c < 8 then 2 else 1)) && spsIn s c 5 1 == 0
      && (if partner = 0xFF then spsIn s c 4 1 == 0 && spsIn s c 6 2 == 0
          else decide (partner < 96 ∧ 1 ≤ spsIn s c 4 1 ∧ spsIn s c 4 1 ≤ 2 ∧ 10 ≤ spsIn s c 6 2 ∧ spsIn s c 6 2 ≤ 2000))
  let outOk (k : Nat) : Bool :=
    let u := spsOut s k 0 1
    decide (u ≤ 1 ∧ spsOut s k 2 1 ≤ 1 ∧ spsOut s k 3 1 ≤ 1 ∧ spsOut s k 4 2 ≤ 500 ∧ spsOut s k 6 1 ≤ 4) && spsOut s k 7 1 == 0
      && (u == 0 || decide (1 ≤ spsOut s k 1 1 ∧ spsOut s k 1 1 ≤ 2))
  orElse' (lowest ((List.range 96).filter fun c => !inOk c)) (lowest ((List.range 48).filter fun k => !outOk k))
def sps32 (s : Bytes) : Option Nat :=
  lowest (((List.range 96).filter fun c =>
    let p := spsIn s c 3 1
    p != 0xFF && !(spsIn s p 3 1 == c && spsIn s p 4 1 == spsIn s c 4 1 && p / 12 != c / 12 && spsIn s c 0 1 != 2 && spsIn s p 0 1 != 2)).map
      fun c => min c (spsIn s c 3 1))
def sps33 (s : Bytes) : Option Nat :=
  lowest ((List.range 48).filter fun k =>
    spsOut s k 0 1 == 1 && spsOut s k 1 1 == 1 && !(spsOut s k 2 1 == 0 && spsOut s k 3 1 == 1))
def sps34 (s : Bytes) : Option Nat :=
  let ok (f : Nat) : Bool :=
    let k := spsFn s f 0 1
    let a := spsFn s f 1 1
    let b := spsFn s f 2 1
    let use (c : Nat) : Nat := if c < 96 then spsIn s c 0 1 else 0
    let pair := decide (50 ≤ spsFn s f 4 2 ∧ spsFn s f 4 2 ≤ 2000 ∧ 100 ≤ spsFn s f 6 2 ∧ spsFn s f 6 2 ≤ 10000
      ∧ 1000 ≤ spsFn s f 0x10 4 ∧ spsFn s f 0x10 4 ≤ 600000 ∧ 20 ≤ spsFn s f 0x14 2 ∧ spsFn s f 0x14 2 ≤ 10000)
    let x := spsFn s f 8 4
    let y := spsFn s f 0xC 4
    spsFn s f 0x16 10 == 0 &&
      (match k with
       | 0 => spsFn s f 1 31 == 0
       | 1 => a != b && use a == 2 && use b == 2 && pair && spsFn s f 3 1 == 0 && decide (100 ≤ x ∧ x ≤ 100000 ∧ x ≤ y ∧ y ≤ 150000)
       | 2 => a != b && use a == 1 && use b == 1 && decide (500 ≤ x ∧ x ≤ 30000 ∧ 20 ≤ y ∧ y ≤ 1000) && spsFn s f 3 5 == 0
           && spsFn s f 0x10 16 == 0
       | 3 => a != b && use a == 2 && use b == 2 && pair && decide (spsFn s f 3 1 ≤ 1) && spsFn s f 8 8 == 0
       | _ => false)
  lowest ((List.range 16).filter fun f => !ok f)

/-- The first check that an SPS body fails, with its index. -/
def spsCheck (s : Bytes) : Option (Nat × Nat) :=
  let l := [(0x30, sps30 s), (0x31, sps31 s), (0x32, sps32 s), (0x33, sps33 s), (0x34, sps34 s)]
  l.findSome? fun p => p.2.map fun x => (p.1, x)

/-- The check value of an SPS body (R288). -/
def spsValue (s : Bytes) : Bytes := (Config.sha3 s).take 8

end Sys2Proof.Machine
end

