-- ==== Sys2Proof/Machine/RetainOps.lean ====
section
/-!
DEFINITION. The retain area and the lock store, the agreed record and the warm and cold restart of a lane
(04_interlocking_programs.md R118, R119; 05_change_while_running.md R121 to R134). A lane's private MRAM is laid out by
17_amber_recorder.md R466: retain area at 0, lock store at 0x40_0000, confirmation record at 0x40_8000.
-/
namespace Sys2Proof.Machine

def hdrAt (k : Nat) : Nat := 0x800 * (k % 2)
def copyAt (k : Nat) : Nat := if k % 2 = 0 then 0x10000 else 0x200000
def lockAt (k : Nat) : Nat := 0x400000 + 0x4000 * (k % 2)
def lockLen : Nat := 0x1C00

/-- The body of a lock store copy (R123): RLOCK, ROVL, ELSAFE, PROG. -/
def Beryl.lockBody (b : Beryl) : Nat :=
  b.rt.locked.toNat + b.rt.ovlSet.toNat <<< 4096 + b.el.lockSafe.toNat <<< 8192
    + (b.ws.progress.foldl (fun a p => a + (p.2 % 256) <<< (8 * p.1)) 0) <<< 24576

/-- Every line of the retain segment (R139). -/
def Blob.allLines (b : Blob) : List Nat := List.range ((b.rsegLen + 255) / 256)
def LaneSt.markAll (l : LaneSt) : LaneSt := { l with rt := { l.rt with dirty := l.image.allLines } }

/-- Where the retain segment lies in lane DRAM: it starts at or above TCM_LEN (R91). -/
def LaneSt.rsegAt (l : LaneSt) : Nat := instBase l.region + (l.image.rsegOff - l.image.tcmLen)

/-- Copy lines of 256 bytes between two memories. -/
def copyLines (dst src : Mem) (from' to' : Nat) (ls : List Nat) : Mem :=
  ls.foldl (fun m k => m.splice src (from' + 256 * k) (to' + 256 * k) 256) dst

/-- Step 1 of R119 in the tail of cycle `n`: the lines changed since copy `n` mod 2 was last updated go into its shadow; while the previous
write still runs they wait for the next hand-over. -/
def LaneSt.handOver (l : LaneSt) (n ctime : Nat) : LaneSt :=
  let p0 := addLines l.rt.pend0 l.rt.dirty
  let p1 := addLines l.rt.pend1 l.rt.dirty
  match l.rt.hand with
  | some _ => { l with rt := { l.rt with dirty := [], pend0 := p0, pend1 := p1 } }
  | none =>
    let ls := if n % 2 = 0 then p0 else p1
    { l with
      dram := copyLines l.dram l.dram l.rsegAt (shadowBase n) ls
      rt := { l.rt with dirty := [], pend0 := if n % 2 = 0 then [] else p0, pend1 := if n % 2 = 0 then p1 else [],
                        hand := some ⟨n, ctime, ls, l.beryl.lockBody⟩ } }

/-- IMGD (R118, R123). -/
def Blob.imgd (b : Blob) : Nat := Bytes.nat (b.digest.take 16)

/-- The header bytes that HCRC covers. -/
def hdrCrc (m : Mem) (k : Nat) : Nat := crc32c (m.bytes (hdrAt k) 0x7FC)
def lockHdrCrc (m : Mem) (k : Nat) : Nat := crc32c (m.bytes (lockAt k) 0x3C)
def lockBodyCrc (m : Mem) (k : Nat) : Nat := crc32c (m.bytes (lockAt k + 0x40) lockLen)

/-- The lock store copy of a hand-over (R124). -/
def lockWrite (m : Mem) (h : Hand) (imgd : Nat) : Mem :=
  let a := lockAt h.cycle
  let m1 := (((m.clear a 0x40).wr (a + 0x40) lockLen h.lock).wr a 8 h.cycle).wr (a + 8) 8 h.ctime
  let m2 := m1.wr (a + 0x10) 16 imgd
  let m3 := m2.wr (a + 0x20) 4 (lockBodyCrc m2 h.cycle)
  m3.wr (a + 0x3C) 4 (lockHdrCrc m3 h.cycle)

/-- Steps 2 to 4 of R119 with the lock store copy between steps 3 and 4. -/
def LaneSt.retainWrite (l : LaneSt) : LaneSt :=
  match l.rt.hand with
  | none => l
  | some h =>
    let sh := shadowBase h.cycle
    let m1 := copyLines l.mram l.dram sh (copyAt h.cycle) h.lines
    let a := hdrAt h.cycle
    let touched := (List.range 31).filter fun b => h.lines.any fun k => k / 256 == b
    let m2 := touched.foldl (fun m b => m.wr (a + 0x40 + 8 * b) 8 (l.dram.crc64 b (sh + 65536 * b) 65536)) m1
    let m3 := lockWrite m2 h l.image.imgd
    let m4 := (((m3.wr a 8 h.cycle).wr (a + 8) 8 h.ctime).wr (a + 0x10) 16 l.image.imgd).wr (a + 0x20) 4 l.image.rsegLen
    { l with mram := m4.wr (a + 0x7FC) 4 (hdrCrc m4 h.cycle), rt := { l.rt with hand := none }
             recPcc0 := if h.cycle % 2 = 0 then l.pcc else l.recPcc0, recPcc1 := if h.cycle % 2 = 0 then l.recPcc1 else l.pcc }

/-! ### The agreed record (R125) -/

/-- A valid retain copy (R119): HCRC and every BCRC of a block in use check. -/
def retainValid (m : Mem) (k : Nat) : Bool :=
  let n := m.rd (hdrAt k + 0x20) 4
  m.rd (hdrAt k + 0x7FC) 4 == hdrCrc m k && decide (n ≤ 1984 * 1024)
    && (List.range ((n + 65535) / 65536)).all fun b =>
      m.rd (hdrAt k + 0x40 + 8 * b) 8 == m.crc64 b (copyAt k + 65536 * b) 65536
def lockValid (m : Mem) (k : Nat) : Bool :=
  m.rd (lockAt k + 0x3C) 4 == lockHdrCrc m k && m.rd (lockAt k + 0x20) 4 == lockBodyCrc m k

def recCycle (m : Mem) (k : Nat) : Nat := m.rd (hdrAt k) 8
def recTime (m : Mem) (k : Nat) : Nat := m.rd (hdrAt k + 8) 8

/-- Whether the copies of index `k` are a candidate for the image loaded. -/
def isCandidate (m : Mem) (imgd k : Nat) : Bool :=
  retainValid m k && lockValid m k && recCycle m k % 2 == k && m.rd (lockAt k) 8 == recCycle m k
    && m.rd (hdrAt k + 0x10) 16 == imgd && m.rd (lockAt k + 0x10) 16 == imgd
/-- The fingerprint of a candidate. -/
def fingerprint (m : Mem) (k : Nat) : Nat := crc64 0 (m.bytes (hdrAt k + 0x40) 248 ++ m.bytes (lockAt k + 0x40) lockLen)

/-- What a lane offers: (cycle, fingerprint); a copy written under another compatibility class is invalid (R436). -/
def LaneSt.candidates (l : LaneSt) : List (Nat × Nat) :=
  ([0, 1].filter fun k => isCandidate l.mram l.image.imgd k && (if k = 0 then l.recPcc0 else l.recPcc1) == l.pcc).map fun k => (recCycle l.mram k, fingerprint l.mram k)

/-- The lanes that offer a cycle with the fingerprint of lane `x`. -/
def sameOffer (offers : List (Lane × List (Nat × Nat))) (c : Nat × Nat) : List Lane := (offers.filter fun o => o.2.contains c).map (·.1)
/-- The agreed record: the highest cycle that at least two lanes offer with equal fingerprints, and those lanes. -/
def agreedRecord (offers : List (Lane × List (Nat × Nat))) : Option (Nat × List Lane) :=
  let all := (offers.flatMap (·.2)).filter fun c => decide (2 ≤ (sameOffer offers c).length)
  match all with
  | [] => none
  | x :: r =>
    let best := r.foldl (fun a c => if a.1 < c.1 then c else a) x
    some (best.1, sameOffer offers best)

/-! ### Initialising a lane (R127, R128, R130, R133) -/

/-- A write to instance data that marks nothing. -/
def LaneSt.putInst (l : LaneSt) (o n v : Nat) : LaneSt :=
  if o < l.image.tcmLen then { l with tcm := l.tcm.wr (0x400000 + o) n v }
  else { l with dram := l.dram.wr (instBase l.region + (o - l.image.tcmLen)) n v }

/-- An instance at its initial value, with FIRST set. -/
def LaneSt.initInst (l : LaneSt) (i : Nat) : LaneSt :=
  let b := l.image
  let l1 := l.putInst (b.iOff i) (b.iSize i) (Bytes.nat (b.initOf i))
  ((l1.putInst (b.iOff i) 8 (b.iIid i)).putInst (b.iOff i + 8) 4 (b.iTsig i)).putInst (b.iOff i + 12) 4 1
def LaneSt.initInsts (l : LaneSt) : LaneSt :=
  let l0 : LaneSt := { l with tcm := l.tcm.clear 0x400000 0x400000, dram := l.dram.clear (instBase l.region) 0x2000000 }
  l0.image.insts.foldl LaneSt.initInst l0

/-- The RETAIN variables from retain copy `k`, and the headers of the instances that hold them. -/
def LaneSt.restoreVars (l : LaneSt) (k : Nat) : LaneSt :=
  let b := l.image
  let get (o n : Nat) : Nat := l.mram.rd (copyAt k + (o - b.rsegOff)) n
  let l1 := (b.vars.filter b.vRetain).foldl (fun (l : LaneSt) j => l.putInst (b.vOff j) (b.vSize j) (get (b.vOff j) (b.vSize j))) l
  (b.insts.filter fun i => b.iRet i && b.vars.any fun j => b.vRetain j && b.vInst j == i).foldl
    (fun (l : LaneSt) i => l.putInst (b.iOff i) 16 (get (b.iOff i) 16)) l1

/-- BUSY and QD cleared, STATUS NOTREADY in every request block (R127). -/
def LaneSt.clearRequests (l : LaneSt) : LaneSt :=
  (l.image.insts.filter fun i => l.image.iType i == 1 || l.image.iType i == 2).foldl (fun (l : LaneSt) i =>
    let o := l.image.iOff i
    ((l.putInst (o + 0x11) 1 0).putInst (o + 0x13) 1 0x16).putInst (o + 0x17) 1 0) l

/-- The restart record in the work region (R128): 1 warm with the body of lock store copy `k`, 2 cold. -/
def LaneSt.putRestart (l : LaneSt) (mode k : Nat) : LaneSt :=
  let a := wrkBase l.region + 0x03000000
  let m := (l.dram.clear a (0x40 + lockLen)).wr a 4 mode
  { l with dram := if mode = 1 then m.splice l.mram (lockAt k + 0x40) (a + 0x40) lockLen else m }

/-- Beryl out of reset with its bases on the lane's regions. -/
def berylAt (r : Bool) : Beryl :=
  { Beryl.reset with regs := { BerylRegs.reset with stnLo := BitVec.ofNat 32 (stnBase r), wrkLo := BitVec.ofNat 32 (wrkBase r) } }

/-- CLEAR, the restart record, LOAD; then EN (R128). -/
def LaneSt.startBeryl (l : LaneSt) (mode k : Nat) : LaneSt :=
  let l1 := ({ l with beryl := (berylAt l.region).clear } : LaneSt).putRestart mode k
  let r := l1.beryl.load l1.dram
  let b : Beryl := { r.1 with regs := { r.1.regs with ctrl := 3 } }
  { l1 with dram := r.2
            beryl := { b with el := { b.el with failed := b.el.failed ||| (l1.stn.rowWhere fun e => l1.stn.eIfc e != 0) } } }

/-- FORCES_EMPTIED (R143). -/
def forcesEmptied (me n : Nat) : List Evt := if n = 0 then [] else [mkEvt 0x3002 me 7 0 (leBytes 2 n)]

/-- The runtime at the start of a run: no force, no item, empty images; what is told to Amber. -/
def LaneSt.freshRun (l : LaneSt) (cycle : Nat) : LaneSt :=
  { l with tcm := (l.tcm.clear inImg 0x100000).clear outImg 0x100000
           rt := { Rt.reset with cycle := cycle, settle := true, result := l.rt.result }
           rings := Rings.empty, portWait := [], items := [], meas := [], agreed := [], offer := none, cut := none, sdg := [] }

/-- The restart of a lane (R127, R130, R133): `rec` names the retain copy of a warm restart. -/
def LaneSt.restart (l : LaneSt) (rec' : Option Nat) (cycle : Nat) : LaneSt :=
  let l0 := (l.freshRun cycle).initInsts
  let l1 := match rec' with
    | some k => l0.restoreVars k
    | none => l0
  let l2 := l1.clearRequests
  let l3 := match rec' with
    | some k => l2.startBeryl 1 k
    | none => l2.startBeryl 2 0
  l3.markAll

end Sys2Proof.Machine
end

