-- ==== Sys2Proof/Machine/SettingOps.lean ====
section
/-!
DEFINITION. Local settings and their defaults (14_jade_mailboxes.md R411; 08_phase_and_time.md R242).
-/
namespace Sys2Proof.Machine

/-! ### Settings (14_jade_mailboxes.md R411) -/

/-- The key under which the PTP domain number is stored beside the numbered settings (group 0x09). -/
def ptpId : Nat := 0x10000

/-- The default of a local setting. -/
def settingDefault (sid id : Nat) : Bytes :=
  match id with
  | 0x1 => leBytes 4 60
  | 0x2 => leBytes 1 2 ++ leBytes 5 0 ++ leBytes 2 200
  | 0x3 => leBytes 4 7200
  | 0x4 => leBytes 1 1
  | 0x10 => leBytes 6 (Config.defaultMac 0)
  | 0x11 => leBytes 9 0
  | 0x12 => leBytes 2 47310
  | 0x13 => leBytes 2 0
  | 0x10000 => leBytes 1 0
  | 0x20 => [192, 168, 47, BitVec.ofNat 8 sid, 24, 0, 0, 0, 0]
  | _ => if 0x100 < id ∧ id ≤ 0x140 then leBytes 6 0 else []

/-- The value of a setting as stored, and as in force since the last start; ROT_BASE and AUTOSWAP take effect at once. -/
def Jade.stored (j : Jade) (sid id : Nat) : Bytes := (j.settings.find id).getD (settingDefault sid id)
def Jade.setting (j : Jade) (sid id : Nat) : Bytes :=
  if id = 3 ∨ id = 4 then j.stored sid id else (j.inForce.find id).getD (settingDefault sid id)

/-- PHCFG from its setting (08_phase_and_time.md R242). -/
def phCfgOf (b : Bytes) : PhCfg :=
  { freq := Bytes.le b 0 1, inmask := Bytes.le b 1 1, ph2off := Bytes.le b 2 2, cadv := Bytes.le b 4 1, guardUs := Bytes.le b 6 2 }

end Sys2Proof.Machine
end

