-- ==== Sys2Proof/Machine/SwapOps.lean ====
section
/-!
DEFINITION. The conditions and the start of a role swap (11_module_pair.md R349, R351; 12_faults_and_guarantees.md R360).
-/
namespace Sys2Proof.Machine

def secNs : Nat := 1000000000
def daySec : Nat := 86400

/-- Whether the module follows its partner or is followed by it: the state was copied and no fault since (R339). -/
def Pair.follows (p : Pair) : Bool := p.following.isSome

/-- What keeps any swap from starting (R349), the FULL condition apart: the partner not STANDBY-HOT for 16 cycles, a rotation, a
resynchronisation, a change-over or an update session in either module, an Opbex channel down, a swap under way. A change under way
counts, unless it is the one the swap is for. -/
def Mod.swapHindered (m : Mod) (forChange : Bool) : Bool :=
  !m.pair.partnerHot || decide (m.pair.hotCycles < 16)
    || (match m.pair.partner with
        | some p => p.rotating
        | none => true)
    || m.rotation.isSome || m.copy.isSome || m.jade.session.isSome || (!forChange && m.voters.any fun x => (m.lane x).rt.change.isSome)
    || m.obx.chA.state != 2 || m.obx.chB.state != 2 || m.pair.swap.isSome || !m.pair.linkUp

/-- What keeps a planned swap from starting: that, or a module that is not FULL (R349). -/
def Mod.swapBlocked (m : Mod) (forChange : Bool) : Bool :=
  m.service != .full || m.role != roleACTIVE
    || (match m.pair.partner with
        | some p => p.service != 3
        | none => true)
    || m.swapHindered forChange

/-- The swap starts: CTRL swap offer naming the earliest minor cycle that the table allows. -/
def Mod.startSwap (m : Mod) (fault byMailbox : Bool) : Mod :=
  let at' := m.obx.mcn + 4
  let m1 := m.ctrl ctrlOFFER at'
  { m1 with pair := { m1.pair with swap := some ⟨at', .offered, 0, fault, byMailbox⟩ } }

/-- The next instant at which AUTOSWAP starts a swap: ROT_BASE + 4 h on the first day on which 6 days have passed since the last change
of roles. -/
def Mod.autoswapAt (m : Mod) : Nat :=
  let base := (Bytes.nat (m.jade.setting m.sid 3) + 14400) % daySec
  let d := m.pair.lastChange / secNs + 6 * daySec
  (d + (base + daySec - d % daySec) % daySec) * secNs
/-- A planned swap is due within 60 s, or under way (06_lanes_and_voting.md R176). -/
def Mod.swapDue (m : Mod) : Bool :=
  m.pair.swap.isSome || (m.role == roleACTIVE && m.pair.partnerHot && Bytes.nat (m.jade.setting m.sid 4) == 1
    && decide (m.autoswapAt ≤ m.now + 60 * secNs ∧ m.now < m.autoswapAt + 4 * 3600 * secNs))

end Sys2Proof.Machine
end

