-- ==== Sys2Proof/Machine/ChangeOps.lean ====
section
/-!
DEFINITION. Online change: staging, boundary conditions, migration of instances and forces, change-over and change result
(05_change_while_running.md R135 to R149).
-/
namespace Sys2Proof.Machine

/-! ### The change result (R148, R149) -/

def resDONE : Nat := 0
def resROUTES : Nat := 1
def resSTATE : Nat := 2
def resCHECK : Nat := 3
def resLANES : Nat := 4
def resABORTED : Nat := 5
def resPAIR : Nat := 6

/-- A result without counts. -/
def bareResult (w : ChangeWait) (res : Nat) : ChangeResult := ⟨w.chid, res, w.way, 0, 0, 0, 0, 0, 0, 0, 0, 0, []⟩

/-- The 64-byte header. -/
def ChangeResult.header (r : ChangeResult) : Bytes :=
  leBytes 4 r.chid ++ leBytes 1 r.result ++ leBytes 1 r.way ++ leBytes 1 r.check ++ leBytes 1 0 ++ leBytes 8 r.boundary
    ++ leBytes 4 r.matched ++ leBytes 4 r.mapped ++ leBytes 4 r.new' ++ leBytes 4 r.dropped ++ leBytes 4 r.coldinit
    ++ leBytes 2 r.fkept ++ leBytes 2 r.fremoved ++ leBytes 2 (min 4096 r.entries.length) ++ leBytes 22 0
/-- The first 4,096 entries. -/
def ChangeResult.entriesBytes (r : ChangeResult) : Bytes :=
  (r.entries.take 4096).flatMap fun e => leBytes 1 e.1 ++ leBytes 7 0 ++ leBytes 8 e.2
def ChangeResult.bytes (r : ChangeResult) : Bytes := r.header ++ r.entriesBytes

/-- A lane ends a change: the result is kept and sent to the association of the commit (R137, R148). -/
def LaneSt.endChange (l : LaneSt) (anum : Nat) (r : ChangeResult) : LaneSt :=
  let l1 : LaneSt := { l with rt := { l.rt with change := none, result := some r } }
  if l1.kst.isOpen anum then { l1 with kst := l1.kst.data anum 0xC2 r.header } else l1

/-- The CHANGE record (17_amber_recorder.md R470). -/
def changeEvt (me : Nat) (r : ChangeResult) : Evt := { mkEvt 0x3004 me 7 0 (leBytes 4 r.chid ++ leBytes 1 r.result) with flags := 1 }

/-! ### Boundary conditions (R138) -/

/-- The same bytes in both stations. -/
def sameAt (d n : Stn) (o len : Nat) : Bool := d.mem.rd (d.base + o) len == n.mem.rd (n.base + o) len

/-- Condition 1 for a route. -/
def sameRoute (d n : Stn) (r : Nat) : Bool :=
  n.rExists r && sameAt d n (0x08900000 + 64 * r) 64 && sameAt d n (17408 * r) 17408
    && (d.rOvl r == none16 || sameAt d n (0x08940000 + 128 * d.rOvl r) 128)
/-- Condition 2 for an element. -/
def sameElem (d n : Stn) (e : Nat) : Bool := sameAt d n (0x08800000 + 32 * e) 12

/-- The instance of an image that matches by IID and TSIG (R141). -/
def Blob.match' (new old : Blob) (i : Nat) : Option Nat := new.insts.find? fun j => new.iIid j == old.iIid i && new.iTsig j == old.iTsig i

/-- Condition 3: an entry issued by no instance is taken not to meet it (DEDUCED, assumption log 35). -/
def LaneSt.pendMatched (l : LaneSt) (new : Blob) (r : Nat) : Bool :=
  match l.rt.unsol.find r with
  | some i => (new.match' l.image i).isSome
  | none => false

/-- The conditions of R138 for a staged image. -/
def LaneSt.boundaryOk (l : LaneSt) (new : Blob) : Bool :=
  let d := l.stn
  let n : Stn := ⟨l.dram, stnBase (!l.region), wrkBase (!l.region)⟩
  let rs := bitList 4096 (l.beryl.rt.set ||| l.beryl.rt.ovlSet ||| l.beryl.rt.pending).toNat
  let es := rs.foldl (fun (a : ERow) r => a ||| d.rel r 5 ||| d.rel r 3 ||| d.rel r 4) l.beryl.el.lockSafe
  rs.all (sameRoute d n) && (bitList 16384 es.toNat).all (sameElem d n) && l.beryl.pendRoutes.all (l.pendMatched new)

/-! ### Migration (R141, R142) -/

/-- The variables of instance `i`. -/
def Blob.varsOf (b : Blob) (i : Nat) : List Nat := b.vars.filter fun j => b.vInst j == i
/-- The carried variables of new instance `i` whose old instance is `k`: (old, new) directory indices. -/
def carried (new old : Blob) (i k : Nat) : List (Nat × Nat) :=
  (new.varsOf i).filterMap fun j =>
    match (old.varsOf k).find? fun x => old.vVid x == new.vVid j && old.vType x == new.vType j && old.vSize x == new.vSize j with
    | some x => some (x, j)
    | none => none

/-- What became of an instance. -/
inductive Fate where
  | matched (k : Nat)
  | mapped (k : Nat) (vs : List (Nat × Nat))
  | coldinit
  | new'
  deriving DecidableEq, Repr

def fate (new old : Blob) (i : Nat) : Fate :=
  match old.insts.find? fun k => old.iIid k == new.iIid i with
  | none => .new'
  | some k =>
    if old.iTsig k = new.iTsig i then .matched k
    else if (carried new old i k).isEmpty then .coldinit
    else .mapped k (carried new old i k)

/-- One instance of the new image in the lane that runs it; `old` is the lane before. -/
def LaneSt.migrateInst (l old : LaneSt) (i : Nat) : LaneSt :=
  match fate l.image old.image i with
  | .matched k => l.putInst (l.image.iOff i) (l.image.iSize i) (old.rdInst (old.image.iOff k) (min (l.image.iSize i) (old.image.iSize k)))
  | .mapped _ vs => vs.foldl (fun (l : LaneSt) p => l.putInst (l.image.vOff p.2) (l.image.vSize p.2)
      (old.rdInst (old.image.vOff p.1) (old.image.vSize p.1))) (l.initInst i)
  | _ => l.initInst i

/-- The instance index under the new image of what an instance of the old one awaits. -/
def remap {α : Type} (new old : Blob) (m : SMap α) : SMap α :=
  m.foldl (fun a p => match new.match' old p.1 with
    | some j => a.put j p.2
    | none => a) []

/-! ### Forces (R147) -/

def forceSurvives (d n : Stn) (new old : Blob) (f : Force) : Bool :=
  if f.kind = 1 then
    match new.varOf f.key, old.varOf f.key with
    | some j, some k => new.vType j == old.vType k && new.vSize j == old.vSize k && new.vForceable j
    | _, _ => false
  else if f.key < 0x10000 then sameAt d n (0x08800000 + 32 * (f.key / 4)) 8
  else true

/-! ### The change-over of one lane (R139, R141, R142, R147) -/

/-- The lane after the change-over to the image it has staged, and the result. -/
def LaneSt.changeOver (l : LaneSt) (new : Blob) (w : ChangeWait) (boundary : Nat) : LaneSt × ChangeResult :=
  let old := l.image
  let d := l.stn
  let l0 : LaneSt := { l with region := !l.region, img := some new, staged := none, stagedSps := none, stageFail := none,
                              sps := l.stagedSps.getD l.sps,
                              tcm := l.tcm.clear 0x400000 0x400000, dram := l.dram.clear (instBase (!l.region)) 0x2000000 }
  let l1 := new.insts.foldl (fun (x : LaneSt) i => x.migrateInst l i) l0
  let fates := new.insts.map (fate new old)
  let count (p : Fate → Bool) : Nat := (fates.filter p).length
  let cold := new.insts.filter fun i => fate new old i == .coldinit
  let dropped := old.insts.filter fun k => !(new.insts.any fun i => new.iIid i == old.iIid k)
  let gone := l.rt.forces.filter fun f => !forceSurvives d l1.stn new old f
  let b := l1.beryl
  let beryl : Beryl := { b with regs := { b.regs with stnLo := BitVec.ofNat 32 (stnBase l1.region), wrkLo := BitVec.ofNat 32 (wrkBase l1.region) } }
  let res : ChangeResult :=
    { chid := w.chid, result := resDONE, way := w.way, check := 0, boundary := boundary
      matched := count fun f => match f with
        | .matched _ => true
        | _ => false
      mapped := count fun f => match f with
        | .mapped _ _ => true
        | _ => false
      new' := count (· == .new'), dropped := dropped.length, coldinit := cold.length
      fkept := l.rt.forces.length - gone.length, fremoved := gone.length
      entries := (cold.map fun i => (1, new.iIid i)) ++ (dropped.map fun k => (2, old.iIid k))
        ++ gone.map fun f => (3, f.kind <<< 32 + f.key) }
  let rt := { l1.rt with waiting := remap new old l1.rt.waiting, answers := remap new old l1.rt.answers
                         unsol := l1.rt.unsol.filterMap fun p => (new.match' old p.2).map fun j => (p.1, j)
                         forces := l1.rt.forces.filter fun f => !gone.contains f, ars := [], arith := [] }
  let l2 : LaneSt := ({ l1 with beryl := beryl, rt := rt, drp := { l1.drp with reqno := [] } } : LaneSt).markAll
  (l2.endChange w.anum res, res)

/-- What the change-over of a lane tells Amber: COLDINIT per instance, and the forces removed. -/
def changeEvts (me : Nat) (r : ChangeResult) : List Evt :=
  r.entries.filterMap fun e =>
    if e.1 = 1 then some (mkEvt 0x3003 me 7 0 (leBytes 8 e.2))
    else if e.1 = 3 then some (mkEvt (Config.otherCode 3 2) me 7 0 (leBytes 4 0 ++ leBytes 8 e.2))
    else none

/-- A schedule bank switch is requested where the inactive bank holds the lane's own table (R218, R139). -/
def LaneSt.wantsBank (l : LaneSt) (o : Obx) : Bool := o.inactive.digest == l.image.osch.digest

/-- Two voting lanes that request it set the boundary of the switch (R218). -/
def Mod.bankRequests (m : Mod) : Mod :=
  if m.obx.swAt.isSome ∨ (m.voters.filter fun x => (m.lane x).obx.req).length < 2 then m
  else { m with obx := { m.obx with swAt := some (m.obx.switchAt m.clock) } }

/-- Jade brings the bridge and local I/O tables of the running image to their controllers. -/
def Mod.loadControllers (m : Mod) (x : Lane) : Mod :=
  let l := m.lane x
  let b := l.image
  let tables : Mem := match b.section' 0xA with
    | some s => Mem.splice [] b.mem s.off 0 s.len
    | none => []
  { m with drp := { m.drp with tables := tables, mapOk := (b.section' 0xA).isSome },
           lio := if m.lio.sps = l.sps then m.lio else m.lio.loadSps l.sps (spsCheck l.sps).isNone }

/-- The lanes that hold a staged image with a digest. -/
def Mod.stagedLanes (m : Mod) (digest : Bytes) : List Lane :=
  m.voters.filter fun x => match (m.lane x).staged with
    | some b => b.digest == digest
    | none => false

/-- The change-over of the module at a boundary (R139): a voting lane that cannot complete it is silent and leaves; fewer than two lanes
hold the module. -/
def Mod.changeOver (m : Mod) (w : ChangeWait) : Mod :=
  let ok := m.stagedLanes w.digest
  let m1 := ok.foldl (fun (m : Mod) x =>
    match (m.lane x).staged with
    | some b =>
      let r := (m.lane x).changeOver b w m.cycle
      let l := r.1
      (m.setLane x { l with obx := { l.obx with req := l.wantsBank m.obx } }).puts
        (changeEvts x.idx r.2 ++ (if ok.head? = some x then [changeEvt x.idx r.2] else []))
    | none => m) m
  let m2 := (m.voters.filter fun x => !ok.contains x).foldl (fun (m : Mod) x => m.modLane x fun l => ((l.abortChange).quiet).leave exCHANGE) m1
  let m3 := m2.bankRequests
  let m4 := match ok.head? with
    | some x => m3.loadControllers x
    | none => m3
  let m5 : Mod := { m4 with jade := { m4.jade with staged := [] }, pair := if m4.role = roleACTIVE then m4.pair.loseHot else m4.pair }
  if ok.length < 2 then m5.enterHeld 9 else m5

/-- Every voting lane ends its change with a result; the staged image is discarded at the next rotation. -/
def Mod.endChange (m : Mod) (res : Nat) : Mod :=
  match (m.voters.filterMap fun x => (m.lane x).rt.change).head? with
  | none => m
  | some w =>
    let r := bareResult w res
    let m1 : Mod := { m with lanes := m.lanes.map fun l => match l.rt.change with
      | some v => l.endChange v.anum r
      | none => l }
    { m1 with jade := { m1.jade with staged := [] } }.put (changeEvt m.src r)

/-- The test at a cycle boundary (R138), in place; a change through the standby starts the swap (R140). -/
def Mod.changeTest (m : Mod) : Mod :=
  match (m.voters.filterMap fun x => (m.lane x).rt.change).head? with
  | none => m
  | some w =>
    let ready := w.way == 1 && (m.voters.all fun x => match (m.lane x).staged with
      | some b => (m.lane x).boundaryOk b
      | none => true)
    let swap := w.way == 2 && !(m.swapBlocked true) && (m.voters.all fun x => match (m.lane x).staged with
      | some b => (m.lane x).boundaryOk b
      | none => true)
    if ready then m.changeOver w
    else if swap then m.startSwap false false
    else if w.until' ≤ m.cycleTime then m.endChange resROUTES
    else m

/-! ### CHANGE_COMMIT (R137) -/

/-- The reason for which a commit is refused; none where it starts the search for a boundary. -/
def Mod.commitRefused (m : Mod) (lc : LcState) (way : Nat) (digest : Bytes) : Option Nat :=
  let inPlace := lc == .commission || lc == .maintain
  if !(way == 1 && inPlace) && !(way == 2 && (inPlace || lc == .operate)) then some resSTATE
  else if (m.voters.any fun x => (m.lane x).stageFail.isSome) then some resCHECK
  else if (m.stagedLanes digest).length < 2 then some resLANES
  else if way = 2 ∧ (m.pair.partnerHot = false ∨ (m.pair.partner.map (·.pcc)) ≠ some (m.lane ((m.voters.head?).getD .a)).pcc) then some resPAIR
  else none

/-- A CHANGE_COMMIT message reaches the voting lanes. -/
def Mod.changeCommit (m : Mod) (lc : LcState) (anum : Nat) (pl : Bytes) : Mod :=
  let way := Bytes.le pl 4 1
  let s := Bytes.le pl 8 4
  let w : ChangeWait := ⟨Bytes.le pl 0 4, way, m.cycleTime + (if s = 0 then 300 else min s 3600) * 1000000000, Bytes.sub pl 0x10 48, anum⟩
  match m.commitRefused lc way w.digest with
  | some r =>
    let chk := (m.voters.filterMap fun x => (m.lane x).stageFail.map (·.1)).head?.getD 0
    let res := { bareResult w r with check := if r = resCHECK then chk else 0 }
    let m1 : Mod := { m with lanes := m.lanes.map fun l => if l.voting then l.endChange anum res else l }
    m1.put (changeEvt m.src res)
  | none => { m with lanes := m.lanes.map fun l => if l.voting then { l with rt := { l.rt with change := some w } } else l }

/-! ### Staging (R136) -/

/-- A lane stages an image during its own rotation: second regions, checks, transposed form, work region. -/
def LaneSt.stageImage (l : LaneSt) (full : Bool) (sid : Nat) (signed : Bool) (b : Blob) (sps : Option Bytes) : LaneSt :=
  let r := !l.region
  let m1 := placeCode (placeStation l.dram b (stnBase r) (wrkBase r)) b (codeBase r)
  let m2 := ({ mem := m1, base := stnBase r, wrk := wrkBase r } : Stn).buildWork
  let i : LoadIn := ⟨b, ⟨m2, stnBase r, wrkBase r⟩, full, sid, sps.getD l.sps, signed⟩
  match loadCheck i with
  | none => { l with dram := m2, staged := some b, stagedSps := sps, stageFail := none }
  | some f => { l with dram := m2, staged := none, stagedSps := none, stageFail := some f }

end Sys2Proof.Machine
end

