-- ==== Sys2Proof/Machine/RotateOps.lean ====
section
/-!
DEFINITION. Lanes leaving and rejoining the vote, rotations, state copies, cross-lane digests and Garnet links
(06_lanes_and_voting.md R154, R155, R157, R161, R176 to R184).
-/
namespace Sys2Proof.Machine

def dayNs : Nat := 86400000000000

/-! ### The memory that the cross-lane digest covers (R60, R181) -/

/-- The force table as bytes: 256 bytes an entry. -/
def forceBytes (fs : List Force) : Bytes :=
  fs.flatMap fun f => leBytes 4 f.kind ++ leBytes 4 f.key ++ leBytes 8 f.value ++ leBytes 8 f.mask ++ leBytes 232 0

/-- The regions of the digest in table order, in 64 KiB blocks (R181). -/
def LaneSt.digSizes (l : LaneSt) : List Nat :=
  let up (n : Nat) : Nat := (n + 65535) / 65536
  [2304, 1024, up (l.image.secF 8 8 8), up l.image.idataLen, 4, 16, 1]
def LaneSt.digTotal (l : LaneSt) : Nat := l.digSizes.foldl (· + ·) 0

/-- The region and the block within it. -/
def regionOf : List Nat → Nat → Nat × Nat
  | [], k => (0, k)
  | n :: r, k => if k < n then (0, k) else ((regionOf r (k - n)).1 + 1, (regionOf r (k - n)).2)

/-- The value of digest block `k` (R182). -/
def LaneSt.digBlock (l : LaneSt) (k : Nat) : Nat :=
  let p := regionOf l.digSizes k
  let o := 65536 * p.2
  match p.1 with
  | 0 => l.dram.crc64 k (stnBase l.region + o) 65536
  | 1 => l.dram.crc64 k (wrkBase l.region + o) 65536
  | 2 => l.dram.crc64 k (codeBase l.region + o) 65536
  | 3 => crc64 k (leBytes 65536 (l.rdInst o 65536))
  | 4 => l.beryl.sram.crc64 k o 65536
  | 5 => l.tcm.crc64 k (outImg + o) 65536
  | _ => crc64 k (Bytes.pad (forceBytes l.rt.forces) 65536)

def LaneSt.dposBlock (l : LaneSt) : Nat := bits l.grn.dpos.toNat 15 0
def LaneSt.dposPass (l : LaneSt) : Nat := bits l.grn.dpos.toNat 31 16

/-- A lane's digest slice in the tail: `n` blocks on, and those to be computed again (R182, R184). -/
def LaneSt.digSlice (l : LaneSt) (n : Nat) (again : List Nat) : LaneSt :=
  let tot := l.digTotal
  let ks := again ++ (List.range n).map fun i => (l.dposBlock + i) % tot
  let pos := l.dposBlock + n
  let dpos := pos % tot + (((l.dposPass + pos / tot) % 65536) <<< 16)
  { l with sdg := ks.map fun k => (k, l.digBlock k), grn := { l.grn with dpos := BitVec.ofNat 32 dpos } }

/-! ### Leaving the vote (R154, R155) -/

/-- Exits for cause in the last 24 h. -/
def LaneSt.recentExits (l : LaneSt) (t : Nat) : List Nat := l.exits.filter fun e => decide (t < e + dayNs)

/-- Whether a lane that left for a cause comes back through the self-test of a rotation: the causes of R154; the others are
resynchronised (R154, R161, R183; DEDUCED, assumption log 46). -/
def needsTest (c : Nat) : Bool := decide (1 ≤ c ∧ c ≤ 0x0C) || c == exCHANGE

/-- A lane leaves the vote at a boundary (R154, R155). -/
def Mod.exitLane (m : Mod) (x : Lane) (c : Nat) : Mod :=
  let l := m.lane x
  let ex := l.recentExits m.clock ++ (if forCause c then [m.clock] else [])
  let out := forCause c && decide (3 ≤ ex.length)
  let l1 : LaneSt := { l with voting := false, shadow := false, silent := false, leaving := none, offer := none, cut := none, exits := ex,
                              heldOut := l.heldOut || out, released := l.released && !out, stopped := l.stopped || out, sdg := [] }
  let m1 : Mod := { m.setLane x l1 with minority := m.minority.set x 0, devStreak := m.devStreak.set x [], gateStreak := m.gateStreak.set x 0 }
  let m2 := m1.put (exitEvt m1.src x c ex.length)
  if out = true ∨ needsTest c = false then m2 else m2.modLane x fun l => { l with rejoin := true }

/-- Every lane that is to leave leaves; fewer than two left hold the module (R175). -/
def Mod.exitLanes (m : Mod) : Mod :=
  (Lane.all.foldl (fun (m : Mod) x =>
    match (m.lane x).leaving with
    | some c => if (m.lane x).voting then m.exitLane x c else m.modLane x fun l => { l with leaving := none }
    | none => m) m).tooFew

/-! ### Rotation (R157, R176, R177, R180) -/

/-- The start conditions of R176. -/
def Mod.rotReady (m : Mod) : Bool :=
  m.service == .full && m.rotation.isNone && m.copy.isNone && !(match m.pair.partner with
    | some p => p.rotating
    | none => false) && !m.swapDue && Lane.all.all fun x => !(m.lane x).heldOut

/-- A rotation starts at a boundary: R157 steps 1 to 4. -/
def Mod.startRotation (m : Mod) (x : Lane) (k : RotKind) : Mod :=
  let l := m.lane x
  let m1 := m.setLane x { l with voting := false, comparator := false, silent := false, leaving := none, offer := none, cut := none, sdg := [] }
  let b := m1.books.get x
  let m2 : Mod := { m1 with rotation := some ⟨x, k, .split, m1.clock⟩,
                            books := m1.books.set x { b with due := none, tried := none, overdue := false, restart := none } }
  m2.countService.gates

/-- An attempt to rotate a lane that is due (R176). -/
def Mod.tryRotation (m : Mod) (x : Lane) : Mod :=
  let b := m.books.get x
  match b.due with
  | none => m
  | some _ =>
    if m.rotReady && (m.lane x).voting then m.startRotation x .schedule
    else { m with books := m.books.set x { b with tried := some m.clock } }

/-- A lane falls due, or its retry comes round: the rotation itself starts at a boundary (R15, R176). -/
def Mod.rotationDue (m : Mod) (x : Lane) : Mod :=
  let b := m.books.get x
  let early := match b.restart with
    | some r => decide (m.clock < r + dayNs)
    | none => false
  match b.due with
  | some _ => if m.ph = .idle then m.tryRotation x else { m with books := m.books.set x { b with tried := none } }
  | none =>
    if early then m
    else
      let m1 : Mod := { m with books := m.books.set x { b with due := some m.clock, tried := none } }
      if m.ph = .idle then m1.tryRotation x else m1

/-- Whether a lane has a rotation of its schedule to try at this boundary. -/
def RotBook.ready (b : RotBook) (t : Nat) : Bool :=
  b.due.isSome && (match b.tried with
    | none => true
    | some at' => decide (at' + 60000000000 ≤ t))

/-- The image that waits to be staged. -/
def Mod.hasStaged (m : Mod) : Bool := (m.jade.staged.find 5).isSome || (m.jade.staged.find 6).isSome
/-- The first lane that has yet to stage it (R136). -/
def Mod.stageNext (m : Mod) : Option Lane :=
  if m.hasStaged then Lane.all.find? fun x => (m.lane x).staged.isNone && (m.lane x).stageFail.isNone && (m.lane x).voting else none

/-- A lane that comes back runs the steps of a rotation (R154, R155). -/
def Mod.startRejoin (m : Mod) : Mod :=
  match Lane.all.find? fun x => (m.lane x).rejoin && !(m.lane x).voting && !(m.lane x).heldOut with
  | some x => if m.rotation.isNone ∧ m.copy.isNone then
      { m.modLane x (fun l => { l with rejoin := false }) with rotation := some ⟨x, .rejoin, .split, m.clock⟩ } else m
  | none => m

/-- A commanded rotation that waits for the start conditions (R394). -/
def Mod.startCommanded (m : Mod) : Mod :=
  match m.bistWait with
  | some w => if m.rotReady && (m.lane w.1).voting then { m.startRotation w.1 .commanded with bistWait := none } else m
  | none => m

/-- Rotations that a boundary starts (R136, R176): those of lanes that come back, one on command, staging ahead of the schedule. -/
def Mod.startRotations (m0 : Mod) : Mod :=
  let m := m0.startRejoin.startCommanded
  match (if m.rotReady then m.stageNext else none) with
  | some x => m.startRotation x .staging
  | none => Lane.all.foldl (fun (m : Mod) x => if (m.books.get x).ready m.clock then m.tryRotation x else m) m

/-- A rotation that fails or is abandoned: the lane is held out (R180, R380). -/
def Mod.rotationFail (m : Mod) : Mod :=
  match m.rotation with
  | none => m
  | some r =>
    let l := m.lane r.lane
    let m1 := m.setLane r.lane { l with heldOut := true, released := false, stopped := true, shadow := false, silent := false }
    { m1.put (rotEvt m1.src r.lane 1 ((m1.clock - r.since) / 1000000)) with
      rotation := none, copy := if (m1.copy.map (·.dst)) = some r.lane then none else m1.copy }

/-- The rotation of a lane goes from one step to the next. -/
def Mod.rotStep (m : Mod) (x : Lane) (from' to' : RotStep) : Mod :=
  match m.rotation with
  | some r => if r.lane = x ∧ r.step = from' then { m with rotation := some { r with step := to' } } else m
  | none => m
def Mod.rotatingAt (m : Mod) (x : Lane) (s : RotStep) : Bool :=
  match m.rotation with
  | some r => r.lane == x && r.step == s
  | none => false

/-- What a lane keeps over a switch-off of its domain (R375, R466): its MRAM in PD0, its books and its key store there; its fuses. -/
def LaneSt.powerCycle (l : LaneSt) : LaneSt :=
  { LaneSt.reset with powered := true, splitNext := l.splitNext, mram := l.mram, lc := l.lc, latch := l.latch, keys := l.keys, exits := l.exits, heldOut := l.heldOut, tOff := l.tOff,
                      rt := { Rt.reset with result := l.rt.result }, pcc := l.pcc, recPcc0 := l.recPcc0, recPcc1 := l.recPcc1, warmMax := l.warmMax,
                      test := { LaneTest.reset with fuses := l.test.fuses, ecc := [] } }

/-! ### State copy (R178, R179, R183) -/

/-- The copy set of a source in a joining lane (assumption log 44): instance data, images, Beryl's SRAM, force table and runtime tables,
ring positions; an extended copy adds the station region and the code. -/
def LaneSt.copyFrom (d s : LaneSt) (extended : Bool) : LaneSt :=
  let r0 := d.dram.splice s.dram (instBase s.region) (instBase d.region) 0x2000000
  let r1 := if extended then (r0.splice s.dram (stnBase s.region) (stnBase d.region) 0x09000000).splice s.dram (codeBase s.region)
      (codeBase d.region) 0x4000000 else r0
  let beryl := { s.beryl with regs := { s.beryl.regs with stnLo := BitVec.ofNat 32 (stnBase d.region), wrkLo := BitVec.ofNat 32 (wrkBase d.region) } }
  ({ d with tcm := s.tcm, dram := r1, beryl := beryl, kst := s.kst, drp := s.drp, rings := s.rings, meas := [], agreed := s.agreed,
            items := [], img := s.img, sps := s.sps, rt := { s.rt with recs := [], hand := none, pend0 := [], pend1 := [] }
            grn := { d.grn with dpos := s.grn.dpos } } : LaneSt).markAll

/-- The link between two lanes. -/
def linkOf (x y : Lane) : LinkName :=
  match x, y with
  | .a, .b => .ab
  | .b, .a => .ab
  | .b, .c => .bc
  | .c, .b => .bc
  | _, _ => .ca

/-- Whether a lane out of the vote may be copied to (R177 steps 6 and 7, R372): out of reset, its self-test and station done, key
locked, its links up. -/
def Mod.joinable (m : Mod) (x : Lane) : Bool :=
  let l := m.lane x
  l.powered && l.released && !l.stopped && !l.voting && !l.shadow && !l.heldOut && !l.split && !l.halted && l.test.selfOk && l.test.stationOk
    && l.grn.ctrl.getLsbD 2 && m.voters.all fun y => (m.links.get (linkOf x y)).st == 2

/-- The bulk walk and the mirroring start (R178): the source is the earlier voting lane. -/
def Mod.startCopy (m : Mod) (x : Lane) : Mod :=
  let rot := match m.rotation with
    | some r => r.lane == x
    | none => false
  if m.inService = false ∨ m.copy.isSome ∨ m.joinable x = false ∨ (m.rotation.isSome = true ∧ (rot = false ∨ m.rotatingAt x .tested = false)) then m
  else
    match m.voters.head? with
    | none => m
    | some s => { m.rotStep x .tested .copying with copy := some ⟨s, x, m.clock, !rot, false, 1, 0, true⟩ }

/-- The first boundary after the bulk walk: the copy sets are equal and the lane runs in shadow (R178, R179). -/
def Mod.copyEqual (m : Mod) : Mod :=
  match m.copy with
  | none => m
  | some c =>
    if c.equal = true ∨ m.ph ≠ .idle ∨ m.inService = false then m
    else
      let s := m.lane c.src
      let d := (m.lane c.dst).copyFrom s (c.extended || decide ((m.lane c.dst).img ≠ s.img))
      let d1 : LaneSt := { d with shadow := true, silent := false, comparator := true, opal := { d.opal.bringUp m.phcfg m.clock m.now with offset := s.opal.offset },
                                  grn := { d.grn with ctrl := d.grn.ctrl ||| 3#32 } }
      let m1 := (m.modLane c.src fun l => l.grnRaise irqGrnCOPYDONE).setLane c.dst (d1.grnRaise irqGrnCOPYDONE)
      { m1.rotStep c.dst .copying .shadow with copy := some { c with equal := true, passes := 0 } }

/-- The joining lane counts from this boundary (R177 step 9, R179). -/
def Mod.rejoin (m : Mod) : Mod :=
  match m.copy with
  | none => m
  | some c =>
    if c.passes < 2 then m
    else
      let x := c.dst
      let l := m.lane x
      let l1 : LaneSt := { l with shadow := false, voting := true, silent := false, leaving := none
                                  grn := { l.grn with ctrl := (l.grn.ctrl ||| 1#32) &&& ~~~2#32 } }
      let b := m.books.get x
      let again : Bool := match m.rotation with
        | some r => if r.lane = x then r.kind != .schedule && r.kind != .commanded else false
        | none => decide (l.recentExits m.clock ≠ [])
      let m1 : Mod := { m.setLane x l1 with
        copy := none, books := m.books.set x { b with last := m.clock, restart := if again then some m.clock else b.restart } }
      let m2 := match m1.rotation with
        | some r => if r.lane = x then { m1.put (rotEvt m1.src x 0 ((m1.clock - r.since) / 1000000)) with rotation := none } else m1
        | none => m1
      m2.countService

/-! ### Digest comparison (R183, R184) -/

def divEvt (src : Nat) (x : Lane) (k : Nat) : Evt := mkEvt 0x1003 src 5 0 (leBytes 1 x.idx ++ leBytes 4 k)

/-- The lanes whose values of a block are to hand. -/
def Mod.digVals (m : Mod) (k : Nat) : List (Lane × Nat) :=
  m.present.filterMap fun x => ((m.lane x).sdg.find? fun p => p.1 == k).map fun p => (x, p.2)

/-- One block compared: the divergent lane leaves, or the module enters HELD. -/
def Mod.digOne (m : Mod) (k : Nat) : Mod :=
  match m.digVals k with
  | [(x, a), (y, b), (z, c)] =>
    let out (m : Mod) (w : Lane) : Mod :=
      ((m.modLane w fun l => l.leave exDIVERGENT).put (divEvt ((m.voters.filter (· ≠ w)).head?.getD w).idx w k)).grnAll irqGrnMINOR
    if a = b then (if b = c then m else out m z)
    else if a = c then out m y
    else if b = c then out m x
    else m.enterHeld 7
  | [(_, a), (_, b)] =>
    if a = b then { m with digAgain := m.digAgain.filter (· ≠ k) }
    else if m.digAgain.contains k then m.enterHeld 7
    else { m with digAgain := m.digAgain ++ [k] }
  | _ => m

/-- The slices of the last tail compared. -/
def Mod.digCompare (m : Mod) : Mod :=
  if m.inService = false then m
  else
    let ks : List Nat := match m.present with
      | x :: _ => (m.lane x).sdg.map (·.1)
      | [] => []
    let m1 := ks.foldl Mod.digOne m
    { m1 with lanes := m1.lanes.map fun l => { l with sdg := [] } }

/-! ### Garnet links (R160, R161) -/

def linkEvt (src : Nat) (n : LinkName) (st : Nat) : Evt := mkEvt 0x1006 src 6 0 (leBytes 1 n.idx ++ leBytes 1 st)
def GLinks.failed (g : GLinks) : Nat := (([g.ab, g.bc, g.ca].filter fun k => k.st == 3)).length

/-- A link fails (R161): in FULL the later end leaves; a second fault, or the link between the two voting lanes, holds the module. -/
def Mod.linkFault (m : Mod) (n : LinkName) : Mod :=
  if (m.links.get n).st = 3 then m
  else
    let e := n.ends
    let m1 : Mod := { m with links := m.links.set n ⟨3, some (m.clock + 10000000000)⟩ }
    let m2 := (((m1.modLane e.1 fun l => l.grnError 2 3).modLane e.2.1 fun l => l.grnError 2 3).grnAll irqGrnLINK).put (linkEvt m.src n 3)
    let v := m2.voters
    if m2.inService = false then m2
    else if 2 ≤ m2.links.failed ∨ (v.length < 3 ∧ v.contains e.1 = true ∧ v.contains e.2.1 = true) then m2.enterHeld 6
    else if v.length = 3 then m2.modLane e.2.1 fun l => l.leave exLINK
    else m2

/-- A retrain of a failed link, every 10 s: up again where the link test passes. -/
def Mod.linkRetrain (m : Mod) (n : LinkName) (ok : Bool) : Mod :=
  let k := m.links.get n
  match k.retrainAt with
  | none => m
  | some at' =>
    if k.st ≠ 3 ∨ m.clock < at' then m
    else if ok then (({ m with links := m.links.set n ⟨2, none⟩ } : Mod).grnAll irqGrnLINK).put (linkEvt m.src n 2)
    else { m with links := m.links.set n ⟨3, some (m.clock + 10000000000)⟩ }

end Sys2Proof.Machine
end

