-- ==== Sys2Proof/Machine/VoteOps.lean ====
section
/-!
DEFINITION. The output vote and the sealing of what leaves the module (06_lanes_and_voting.md R169 to R173; 01_one_logic_cycle.md
R24, R25; 10_older_interfaces_and_bridging.md R318).
-/
namespace Sys2Proof.Machine

/-! ### Vote units (R169) -/

/-- The node frame units 0 to 1,023: zero for a node that the schedule does not hold. -/
def LaneSt.frameUnits (l : LaneSt) (c : CycleIn) : List Nat :=
  (List.range 1024).map fun u => if c.bk.cls (u + 1) = 0 then 0 else crc64 u (l.nodeFrame c (u + 1))

/-- A unit that is a piece of the output image: zero where it is unused. -/
def LaneSt.areaUnit (l : LaneSt) (used : Bool) (u a n : Nat) : Nat := if used then l.tcm.crc64 u a n else 0

/-- A lane's vote summary: the 1,345 digests (R170). -/
def LaneSt.summary (l : LaneSt) (c : CycleIn) : List Nat :=
  l.frameUnits c ++ [l.areaUnit (decide (l.rdIn 0x22 2 ≠ 0)) 1024 (outRsp 0) 0x4000]
    ++ ((List.range 256).map fun s => l.areaUnit (decide (l.tcm.rd (outKst s) 0x24 ≠ 0)) (1025 + s) (outKst s) 1024)
    ++ ((List.range 64).map fun k => l.areaUnit (c.full && decide (64 * k < l.rt.brgCount)) (1281 + k) (outBrg (64 * k)) 512)

/-! ### The vote (R171) -/

/-- The lanes that agree on a unit: the majority of those that offered. -/
def agreeing (offers : List (Lane × List Nat)) (u : Nat) : List Lane :=
  let ds := offers.map fun o => (o.1, o.2.getD u 0)
  let side (d : Nat) : List Lane := (ds.filter fun x => x.2 == d).map (·.1)
  match (ds.map fun x => side x.2).find? fun s => decide (2 ≤ s.length) with
  | some s => s
  | none => []

/-- Whether two lanes agree on the output image as a whole (R24). -/
def wholePair (offers : List (Lane × List Nat)) : Bool :=
  offers.any fun x => offers.any fun y => decide (x.1.idx < y.1.idx) && x.2 == y.2

/-- The result of a vote: the agreeing lanes per unit, the lanes in the minority, units without a voted value, whether the module
enters HELD. -/
structure VoteOut where
  agree : List (List Lane)
  minority : List Lane
  nomaj : Nat
  held : Bool

/-- The vote over the summaries that were complete. -/
def vote (offers : List (Lane × List Nat)) : VoteOut :=
  let ag := (List.range 1345).map (agreeing offers)
  let out := ag.filter fun s => s.isEmpty
  let inMin (x : Lane) : Bool := ag.any fun s => !s.isEmpty && !s.contains x
  { agree := ag
    minority := if offers.length = 3 then (offers.map (·.1)).filter inMin else []
    nomaj := out.length
    held := decide (offers.length < 2) || (if offers.length = 2 then !out.isEmpty else !wholePair offers) }

/-- The first two agreeing lanes of a unit in the order A, B, C (R25). -/
def VoteOut.sealers (v : VoteOut) (u : Nat) : Option (Lane × Lane) :=
  match v.agree.getD u [] with
  | x :: y :: _ => some (x, y)
  | _ => none

/-! ### Seals (R172, R199, R318) -/

def LaneSt.kgen (l : LaneSt) : Nat :=
  match l.keys.used with
  | some g => g.kgen
  | none => 0
/-- A lane byte (R199). -/
def laneByte (x : Lane) (l : LaneSt) : Nat := x.idx + 16 * (l.kgen % 16)
/-- The lane command key in the seal engines (R172): what GRN_KEY0 to GRN_KEY7 hold. -/
def LaneSt.cmdKey (l : LaneSt) : Bytes := leBytes 32 l.grn.key

/-- The first minor cycle in which a set handed over at clock `t` reaches a node's poll (R27, R195): at or after this one, the node
polled, its assembly still to come. -/
def Obx.pollMcn (o : Obx) (k t : Nat) : Nat :=
  let off := min (o.pollOff .a k) (o.pollOff .b k) - 5000
  let ok (n : Nat) : Bool := polledIn o.bk o.majL k n && decide ((o.net t : Int) ≤ (o.mcs n : Int) + off)
  match ((List.range 17).map (· + o.mcn)).find? ok with
  | some n => n
  | none => o.mcn + 1

/-- A node frame's body with CLAIM and MCN filled in (R199). -/
def fillPoll (b : Bytes) (claim mcn : Nat) : Bytes := b.take 4 ++ leBytes 8 claim ++ leBytes 4 mcn ++ b.drop 0x10

/-- A sealed POLL: both lane bytes, both seals over bytes 0x00 to 0x2D (R199). -/
def sealPoll (b : Bytes) (x y : Lane) (lx ly : LaneSt) : Bytes :=
  b ++ leBytes 1 (laneByte x lx) ++ leBytes 1 (laneByte y ly) ++ keySeal lx.cmdKey b customOBX ++ keySeal ly.cmdKey b customOBX

/-- A sealed KST PDU (R317, R318). -/
def sealPdu (b : Bytes) (anum : Nat) (x y : Lane) (lx ly : LaneSt) : Bytes :=
  b ++ leBytes 1 (laneByte x lx) ++ leBytes 1 (laneByte y ly) ++ leBytes 2 0 ++ keySeal (lx.keyOf 3 anum) b kstCustom
    ++ keySeal (ly.keyOf 3 anum) b kstCustom

/-- The sealed frames of a vote, and the nodes of the schedule that get none (R25). -/
def sealedSet (o : Obx) (t : Nat) (c : CycleIn) (ls : PerLane LaneSt) (v : VoteOut) : SMap Bytes × List Nat :=
  c.bk.used.foldl (fun (acc : SMap Bytes × List Nat) k =>
    match v.sealers (k - 1) with
    | some (x, y) =>
      let b := fillPoll ((ls.get x).nodeFrame c k) o.claim (o.pollMcn k t)
      (acc.1.put k (sealPoll b x y (ls.get x) (ls.get y)), acc.2)
    | none => (acc.1, acc.2 ++ [k])) ([], [])

/-- A new sealed set replaces the previous one as a whole for each node (R25, R27); a node without a frame keeps its last one in the
controller's books and is sent a null poll. -/
def Obx.takeSet (o : Obx) (cycle : Nat) (s : SMap Bytes × List Nat) : Obx :=
  { o with frames := s.1.foldl (fun m p => m.put p.1 p.2) o.frames, nulled := s.2, setCycle := some cycle, hpoll := false }

/-- The PDUs of the agreed outbox slots, sealed (R318); the omissions by slot. -/
def sealedPdus (ls : PerLane LaneSt) (v : VoteOut) : List (Nat × Bytes) × List Nat :=
  (List.range 256).foldl (fun (acc : List (Nat × Bytes) × List Nat) s =>
    match v.sealers (1025 + s) with
    | some (x, y) =>
      let l := ls.get x
      let n := 0x24 + l.tcm.rd (outKst s + 0x12) 2
      let b := l.tcm.bytes (outKst s) n
      if l.tcm.rd (outKst s) 0x24 = 0 then acc
      else (acc.1 ++ [(Bytes.le b 2 2, sealPdu b (Bytes.le b 2 2) x y l (ls.get y))], acc.2)
    | none => (acc.1, acc.2 ++ [s])) ([], [])

/-- The voted bridge command list: (index, kind, value) of each entry in an agreed chunk (R308, R309), and the chunks omitted. -/
def votedBridge (ls : PerLane LaneSt) (v : VoteOut) : List (Nat × Nat × Nat) × List Nat :=
  (List.range 64).foldl (fun (acc : List (Nat × Nat × Nat) × List Nat) k =>
    match v.agree.getD (1281 + k) [] with
    | x :: _ =>
      let l := ls.get x
      let es := (List.range 64).filterMap fun i =>
        let w := l.tcm.rd (outBrg (64 * k + i)) 4
        if 64 * k + i < l.rt.brgCount then some (bits w 13 0, bits w 15 14, l.tcm.rd (outBrg (64 * k + i) + 4) 4) else none
      (acc.1 ++ es, acc.2)
    | [] => (acc.1, acc.2 ++ [k])) ([], [])

/-- The CRC-64 over the 1,345 unit digests of a vote (R331, SUM): a unit without a voted value counts 0. -/
def VoteOut.sum (v : VoteOut) (offers : List (Lane × List Nat)) : Nat :=
  let d (u : Nat) : Nat :=
    match v.agree.getD u [] with
    | x :: _ => match offers.find? fun o => o.1 == x with
      | some o => o.2.getD u 0
      | none => 0
    | [] => 0
  crc64 0 ((List.range 1345).flatMap fun u => leBytes 8 (d u))

end Sys2Proof.Machine
end

