-- ==== Sys2Proof/Machine/CycleOps.lean ====
section
/-!
DEFINITION. The phases of one logic cycle over the module: boundary, cut, consensus, program run, vote, hand-over and tail
(01_one_logic_cycle.md R15 to R30; 06_lanes_and_voting.md R163 to R179, R503; 13_startup_and_self_test.md R383 to R387;
11_module_pair.md R332, R333).
-/
namespace Sys2Proof.Machine

/-! ### What a cycle is run on -/

/-- The life-cycle state the lanes go by. -/
def Mod.lcLane (m : Mod) : LcState := (m.lane (m.voters.head?.getD .a)).lc

def Mod.cycleIn (m : Mod) : CycleIn :=
  { cycle := m.cycle, ctime := m.cycleTime, sstate := m.service.code, role := if m.role = roleACTIVE then 1 else 2, full := m.full, bk := m.obx.bk, majL := m.obx.majL,
    t0 := m.obx.t0, lc := m.lcLane, ph := m.phcfg, settle := (m.lane (m.running.head?.getD .a)).rt.settle, ctlflt := m.lio.ctlflt }

/-! ### The cut (R20) -/

/-- Whether an Opal share's converters or an output's current sense stand in doubt after slice `s` (R384). -/
def LaneTest.doubt (t : LaneTest) (s : Nat) : Bool := (t.slices.getD s SliceRec.zero).verdict == 1

/-- The measured values a lane offers (R162, R166, R270, R384). -/
def LaneSt.measList (l : LaneSt) (full : Bool) (window : SMap Nat) : Meas :=
  let m0 : Meas := [(0, l.reading)]
  let m1 := if [4, 5, 6, 7].any l.test.doubt then m0 else m0 ++ [(1, l.opal.reading)]
  let m2 := m1 ++ [(2, l.opal.snapSt)]
  let ok (k : Nat) : Bool := !(decide (227 ≤ k ∧ k < 275) && l.test.doubt (10 + (k - 227) / 4))
  if full then m2 ++ window.filter fun p => decide (3 ≤ p.1 ∧ p.1 < 283) && p.2.testBit 32 && ok p.1 else m2

/-- A lane cuts: its counts, its time, its snapshots (R20, R22, R246, R268). -/
def Mod.cutLane (m : Mod) (x : Lane) : Mod :=
  let lio := if m.full then m.lio.snap x m.clock else m.lio
  let l := m.lane x
  let now := m.laneTime x
  let l1 : LaneSt := { l with cut := some (Path.all.map fun p => (l.rings.get p).count), reading := now, opal := l.opal.snapshot m.clock now,
                              offer := none, rt := { l.rt with exc := none } }
  { m with lio := lio }.setLane x { l1 with meas := l1.measList m.full (lio.lanes.get x).window }

/-- The agreed cut count of each path (R20, R503). -/
def Mod.cutCounts (m : Mod) : List Nat :=
  let cs := m.present.filterMap fun x => (m.lane x).cut
  (List.range 6).map fun k => cutCount (cs.map fun c => c.getD k 0)

/-- Whether a lane still lacks an item of the cut. -/
def LaneSt.lacks (l : LaneSt) (cnt : List Nat) : Bool :=
  (Path.all.mapIdx fun k p => (k, p)).any fun q => decide ((l.rings.get q.2).count < cnt.getD q.1 0)

/-- The items of a path up to the cut count, and the ring after the cut. -/
def Ring.upTo (r : Ring) (n : Nat) : List Item × Ring :=
  let k := n - (r.count - r.items.length)
  (r.items.take k, { r with items := r.items.drop k })

/-- A lane takes its items of the cut from its rings; those left over by the last cycle come first (R324). -/
def LaneSt.takeCut (l : LaneSt) (cnt : List Nat) : LaneSt :=
  (Path.all.mapIdx fun k p => (k, p)).foldl (fun (l : LaneSt) q =>
    let u := (l.rings.get q.2).upTo (cnt.getD q.1 0)
    { l with rings := l.rings.set q.2 u.2, items := l.items ++ u.1 }) l

/-- What a module does only in service. -/
def Mod.served (m : Mod) (f : Mod → Mod) : Mod := if m.inService then f m else m

/-- A life-cycle state that waits for its cycle comes into force at the boundary before it (R417, R419). -/
def Mod.lcDue (m : Mod) : Mod :=
  match m.lcWait with
  | some w => if w.cycle ≤ m.cycle + 1 then ({ m with lcWait := none } : Mod).setLc w.state w.signer else m
  | none => m

/-- The boundary before a cycle (R15): exits, rejoin, online change, rotations, a life-cycle state that waits for it. -/
def Mod.boundary (m : Mod) : Mod :=
  (((m.exitLanes.rejoin.served Mod.countService).served Mod.changeTest).served Mod.startRotations).lcDue.gates

/-- A new cycle begins (R15): its number is one higher, no lane is silent in it yet. -/
def Mod.beginCycle (m : Mod) : Mod :=
  { m with cycle := m.cycle + 1, cutAt := m.clock, ph := .cut, handed := false, winAt := none, minNow := [],
           lanes := m.lanes.map fun l => { l with cut := none, offer := none } }

/-- Whether the lanes of this module run cycles of their own. -/
def Mod.cycles (m : Mod) : Bool := m.inService && m.role == roleACTIVE

/-- INPUT_CUT of a lane; the first one of a cycle comes with the boundary. -/
def Mod.inputCut (m : Mod) (x : Lane) : Mod :=
  if m.cycles = false ∨ m.running.contains x = false then m
  else
    let m1 := if m.ph = .idle ∧ m.stopCut = false ∧ m.handed = true ∧ (m.lane x).voting = true then
        let b := m.boundary
        if b.cycles then b.beginCycle else b
      else m
    if m1.ph ≠ .cut ∨ m1.cycles = false ∨ m1.running.contains x = false ∨ (m1.lane x).cut.isSome then m1 else m1.cutLane x

/-- CUT_WAIT_TIMEOUT of a lane (R20). -/
def Mod.cutTimeout (m : Mod) (x : Lane) : Mod :=
  if m.cycles = false ∨ m.ph ≠ .cut ∨ m.running.contains x = false ∨ (m.lane x).cut = none ∨ m.clock < m.cutAt + 20000
    ∨ (m.lane x).lacks m.cutCounts = false then m
  else m.silence x 5 5 4

/-! ### The follow record (R332) -/

def customPAIR : Bytes := [0x4A, 0x57, 0x33, 0x58, 0x2D, 0x50, 0x41, 0x49, 0x52]

/-- The follow record of the cycle, sealed by the first two voting lanes. -/
def Mod.followRec (m : Mod) (its : List Item) (agreed : Meas) : Option FollowRec :=
  match m.present with
  | x :: y :: _ =>
    let lx := m.lane x
    let ly := m.lane y
    let f : FollowRec :=
      { cycle := m.cycle, cycleTime := m.cycleTime, header := lx.tcm.bytes inImg 0x40
        measured := (List.range 512).map fun k => (agreed.find k).getD 0, valid := (List.range 512).map fun k => (agreed.find k).isSome
        refs := (its.filter fun i => i.kind == .reply).map refOf, items := its.filter fun i => i.kind != .reply
        lane1 := laneByte x lx, lane2 := laneByte y ly, seal1 := [], seal2 := [] }
    some { f with seal1 := keySeal lx.cmdKey f.bytes customPAIR, seal2 := keySeal ly.cmdKey f.bytes customPAIR }
  | _ => none

/-- A follow record as the payload of a frame (assumption log 26). -/
def FollowRec.payload (f : FollowRec) : Bytes :=
  f.bytes ++ leBytes 1 f.lane1 ++ leBytes 1 f.lane2 ++ f.seal1 ++ f.seal2

/-- The ACTIVE module sends it to a partner that follows and waits for its FACK (R332, R333). -/
def Mod.sendFollow (m : Mod) (its : List Item) (agreed : Meas) : Mod :=
  if m.role ≠ roleACTIVE ∨ m.pair.follows = false ∨ m.pair.linkUp = false then m
  else
    match m.followRec its agreed with
    | none => m
    | some f =>
      let m1 := m.pairSend 0x11 f.payload
      { m1 with pair := { m1.pair with fackFor := some m.cycle, recordSentAt := m.clock, keptItems := its } }

/-! ### Consensus and program run -/

/-- Lanes counted three cycles in a row (R163, R164). -/
def Mod.countMinority (m : Mod) (mins : List Lane) (dev : List (Lane × Nat)) : Mod :=
  Lane.all.foldl (fun (m : Mod) x =>
    let n := if mins.contains x then m.minority.get x + 1 else 0
    let old := m.devStreak.get x
    let ds : SMap Nat := (dev.filter fun p => p.1 == x).foldl (fun (s : SMap Nat) p => s.put p.2 (SMap.get 0 old p.2 + 1)) []
    let m1 : Mod := { m with minority := m.minority.set x n, devStreak := m.devStreak.set x ds }
    let m2 := if 3 ≤ n then m1.modLane x fun l => l.leave exMINORITY else m1
    if ds.any fun p => decide (3 ≤ p.2) then m2.modLane x fun l => l.leave exDEVIATION else m2) m

/-- GRN_CONS (R185). -/
def consReg (xfer : Nat) (mins devs : List Lane) (safed : Nat) : Word32 :=
  let mask (l : List Lane) : Nat := l.foldl (fun a x => a ||| 2 ^ x.idx) 0
  BitVec.ofNat 32 (min 4 xfer + 16 * mask mins + 256 * mask devs + (min 255 safed) <<< 16)

/-- The agreed phase reading (R246): entry 1 and PHSTAT, or the previous count advanced. -/
def Mod.agreePhase (m : Mod) (agreed : Meas) (prevTime prevPh : Nat) (first : Bool) : Nat × Nat :=
  match agreed.find 1 with
  | some v => (v, (agreed.find 2).getD 1)
  | none => (if first then nominalTicks m.phcfg.freq m.cycleTime else phaseAdvance m.phcfg.freq prevPh prevTime m.cycleTime, 1)

/-- Whether a lane in shadow agrees with what was agreed: blocks equal, measured values within tolerance (R179). -/
def shadowClean (sps : Bytes) (own agreed : LaneSt) (am : Meas) : Bool :=
  ((List.range 256).all fun n => sameBlock own agreed n) && am.all fun p =>
    match own.meas.find p.1 with
    | some v => if p.1 = 2 then v == p.2 else decide ((mvInt p.1 v - mvInt p.1 p.2).natAbs ≤ mvTol sps p.1)
    | none => true

/-- Program exceptions after the run: every voting lane at one program, or lanes that fall silent (R99). -/
def Mod.commonExc (m : Mod) : Bool :=
  match m.present with
  | x :: r => (match (m.lane x).rt.exc with
    | some e => r.all fun y => ((m.lane y).rt.exc.map (·.1)) == some e.1
    | none => false)
  | [] => false
def Mod.judgeExc (m : Mod) : Mod :=
  if m.commonExc then m
  else m.running.foldl (fun (m : Mod) x => if (m.lane x).rt.exc.isSome then m.silence x 4 5 0 else m) m

/-- The change commits among the messages of the agreed image (R137). -/
def Mod.changeMsgs (m : Mod) : Mod :=
  match m.present.head? with
  | none => m
  | some x => ((m.lane x).inboxOf 0x42).foldl (fun (m : Mod) q => m.changeCommit m.lcLane q.1 q.2) m

/-- The program run of every lane that takes part, on the agreed image (R97). -/
def Mod.runLanes (m : Mod) (excs : PerLane (Option ProgExc)) : Mod :=
  let c := m.cycleIn
  m.running.foldl (fun (m : Mod) x => m.modLane x fun l => l.programRun x.idx c (excs.get x)) m

/-- Consensus over the voting lanes, then the program run (R20 to R23, R162 to R167, R503). -/
def Mod.inputConsensus (m : Mod) (excs : PerLane (Option ProgExc)) : Mod :=
  let parts := m.present
  let cnt := m.cutCounts
  let run := m.running.filter fun x => (m.lane x).cut.isSome
  if m.cycles = false ∨ m.ph ≠ .cut ∨ (parts.all fun x => (m.lane x).cut.isSome) = false ∨ (run.any fun x => (m.lane x).lacks cnt) = true then m
  else
    let old := m.lanes
    let sps := (m.lane (parts.head?.getD .a)).sps
    let am := agreeMeas m.full sps (parts.map fun x => (x, (m.lane x).meas))
    let prevTime := m.cycleTime
    let lead := m.lane (parts.head?.getD .a)
    let ct := (am.1.find 0).getD prevTime
    let m1 : Mod := { m with cycleTime := ct }
    let ph := m1.agreePhase am.1 prevTime lead.rt.phc lead.rt.settle
    let c := m1.cycleIn
    let m2 := run.foldl (fun (m : Mod) x => m.modLane x fun l =>
      let l1 := l.takeCut cnt
      let r := l1.decode c x.idx l1.items
      { r.1 with items := r.2 }) m1
    let its := ((m1.lane (parts.head?.getD .a)).takeCut cnt).items
    let o := consensus old parts m2.lanes
    let agreedLane := o.lanes.get (parts.head?.getD .a)
    let clean := match m2.copy with
      | some k => run.contains k.dst && shadowClean sps (m2.lane k.dst) agreedLane am.1
      | none => true
    let devs := (am.2.map (·.1)).eraseDups
    let fill (x : Lane) (l : LaneSt) : LaneSt :=
      let l1 : LaneSt := if parts.contains x then l else { l with tcm := (List.range 256).foldl (fun t n => copyBlock t agreedLane.tcm n) l.tcm }
      { l1.fillMeasured m.full ct ph.2 ph.1 am.1 with grn := { l1.grn with cons := consReg (o.xfer.get x) o.minority devs o.safed } }
    let m3 : Mod := { m2 with lanes := o.lanes.mapL fun x l => if run.contains x then fill x l else l }
    let m4 : Mod := { m3 with copy := m3.copy.map fun k => { k with clean := clean }
                              diffStreak := if parts.length = 2 ∧ o.differ = true then m3.diffStreak + 1 else 0 }
    let m5 := if o.minority = [] ∧ devs = [] then m4 else m4.grnAll irqGrnMINOR
    let m6 := if parts.length = 3 then m5.countMinority o.minority am.2 else m5
    let late := (parts.map fun x => (m.lane x).reading)
    let m7 := if parts.length = 2 ∧ 100000 < (late.foldl max 0) - (late.foldl min (late.headD 0)) then
        m6.put (mkEvt (Config.otherCode 6 1) m6.src 5 0 (leBytes 8 (late.foldl max 0) ++ leBytes 8 (late.foldl min (late.headD 0)))) else m6
    let m8 := if parts.length = 3 then parts.foldl (fun (m : Mod) x => if 4 < o.xfer.get x then m.silence x 7 5 4 else m) m7 else m7
    if m8.inService = false then (if parts.length = 3 then m8.enterHeld 4 else m8)
    else if o.held = true ∨ 3 ≤ m8.diffStreak then m8.enterHeld 4
    else
      let m9 := m8.sendFollow its am.1
      let m10 := m9.runLanes excs
      let m11 := m10.changeMsgs
      ({ m11 with ph := .run, runAt := m11.clock } : Mod).judgeExc

/-- A program stopped for its run time in one lane (R99). -/
def Mod.wcetOverrun (m : Mod) (x : Lane) (e : ProgExc) : Mod :=
  if m.inService = false ∨ m.ph ≠ .run ∨ m.running.contains x = false ∨ (m.lane x).offer.isSome then m
  else (m.modLane x fun l => l.progExc x.idx { e with kind := 2 }).judgeExc

/-! ### Offers and the vote (R169 to R171, R24) -/

/-- The first offer of a voting lane opens the voting window. -/
def Mod.openWindow (m : Mod) (voting : Bool) : Mod :=
  if voting = true ∧ m.winAt = none then { m with winAt := some m.clock, ph := .window } else m

/-- A lane offers its vote summary; the first offer of a voting lane opens the window (R170). A failed self-check of a seal engine
silences the lane (R186). -/
def Mod.outputOffer (m : Mod) (x : Lane) (sealOk : Bool) : Mod :=
  let l := m.lane x
  let open' := match m.winAt with
    | some w => decide (m.clock < w + 20000)
    | none => l.voting
  if m.inService = false ∨ (m.ph ≠ .run ∧ m.ph ≠ .window) ∨ m.running.contains x = false ∨ l.offer.isSome ∨ l.rt.exc.isSome ∨ open' = false then m
  else if sealOk = false then (m.modLane x fun l => l.grnError 5 3).silence x 0xA 3 4
  else
    (m.setLane x { l with offer := some (l.summary m.cycleIn), offerAt := m.clock }).openWindow l.voting

/-! ### Slices in service (R383 to R387) -/

/-- A slice result kept, and what a failed check in the lane's own unit does (R384, R386, R387). -/
def LaneSt.slice (l : LaneSt) (full : Bool) (s cycle : Nat) (i : SliceIn) (me : Nat) : LaneSt :=
  let r := sliceResult full s cycle i
  let n := if r.verdict = 2 then l.test.incomplete.getD s 0 + 1 else 0
  let miss := (i.codes.take (sliceItems full s)).any (· == 4)
  let t := { l.test with slices := l.test.slices.set s r, incomplete := l.test.incomplete.set s n,
                         missing := if miss then l.test.missing ++ [s] else l.test.missing.filter (· ≠ s)
                         bist := if 4 ≤ n then .overrun else l.test.bist }
  let l1 : LaneSt := { l with test := t, opal := if r.verdict = 1 ∧ 4 ≤ s ∧ s < 8 then l.opal.error 6 3 else l.opal }
  let l2 := if n = 4 then l1.stage (mkEvt (Config.otherCode 0xB 1) me 3 8 (leBytes 4 s)) else l1
  if r.verdict = 1 ∧ s < 8 then l2.stage (mkEvt (Config.otherCode 0xB 2) me 3 5 (leBytes 4 s)) else l2

/-- What a failed check of a unit outside the lanes does (R384); recorded once, by the earliest voting lane. -/
def Mod.sliceOutside (m : Mod) (s : Nat) (r : SliceRec) (codes : List Nat) (again : Bool) : Mod :=
  if r.verdict ≠ 1 ∨ s < 8 then m
  else
    let bad := (List.range (sliceItems m.full s)).filter fun k => codes.getD k 4 != 1
    let m1 := m.put { mkEvt (Config.otherCode 0xB 3) m.src 3 0x40 (leBytes 4 s ++ leBytes 4 (bad.foldl (fun a k => a ||| 2 ^ k) 0)) with flags := 1 }
    let t := m1.clock
    let fails (c : Nat) (x : InChan) : InChan :=
      if c / 12 = s - 22 ∧ bad.contains (c % 12) = true ∧ m1.lio.inUse c ≠ 0 ∧ codes.getD (c % 12) 4 ≠ 4 then x.fault stTFAIL 5 else x
    let lio (p : Lio × List Evt) : Mod := ({ m1 with lio := p.1 } : Mod).puts p.2
    if s < 22 then m1
    else if s < 30 then
      if again then lio m1.lio.stop
      else lio (Lio.done m1.lio { m1.lio with ins := m1.lio.ins.mapIdx fails } t)
    else if s = 30 then bad.foldl (fun (m : Mod) g => let p := m.lio.tpFault g t; ({ m with lio := p.1 } : Mod).puts p.2) m1
    else bad.foldl (fun (m : Mod) b => let p := m.lio.feedLow b t; ({ m with lio := p.1 } : Mod).puts p.2) m1

/-! ### Hand-over (R25 to R28) -/

/-- A KST frame leaves on both ports that are up, with the PRP sequence number (R315; the trailer is the model's, assumption log 48). -/
def Mod.kstSend (m : Mod) (b : Bytes) : Mod :=
  let k := m.kst
  let m1 := if k.up.a then m.send .ethernet (b ++ leBytes 2 k.prpSeq ++ leBytes 1 0xA) else m
  let m2 := if k.up.b then m1.send .ethernet (b ++ leBytes 2 k.prpSeq ++ leBytes 1 0xB) else m1
  { m2 with kst := { m2.kst with prpSeq := (k.prpSeq + 1) % 65536 } }

/-- A lane drives its local output commands (R28, R277). -/
def Mod.driveLocal (m : Mod) (x : Lane) (ws : List Nat) : Mod :=
  let w (k : Nat) : Word32 := BitVec.ofNat 32 (ws.getD k 0)
  let v := m.lio.lanes.get x
  let l0 : Lio := { m.lio with lanes := m.lio.lanes.set x { v with do0 := w 0, do1 := w 1 } }
  let p := (l0.fstartWrite x (w 3)).do2Write m.can x m.clock (w 2)
  ({ m with lio := p.1 } : Mod).puts p.2

/-- The outputs of a cycle leave the module (R25, R27, R28, R309, R318); with a stopped local I/O controller the local commands are
written off (R280). -/
def Mod.handOver (m : Mod) (o : OutSet) : Mod :=
  let m1 : Mod := { m with obx := m.obx.takeSet o.cycle (o.frames, o.nulled), handed := true, outWait := none, sealedAt := m.clock }
  let m2 := o.pdus.foldl (fun (m : Mod) p => m.kstSend p.2) m1
  let m3 := if m2.full then
      let d := m2.drp.takeList o.bridge
      ({ m2 with drp := d.1 } : Mod).drOuts d.2
    else m2
  let words (ws : List Nat) : List Nat := if m3.lio.ctlflt then [0, 0, 0, ws.getD 3 0] else ws
  if m3.full then o.locals.foldl (fun (m : Mod) p => m.driveLocal p.1 (words p.2)) m3 else m3

/-- The outputs of a vote. -/
def Mod.outSet (m : Mod) (v : VoteOut) (offers : List (Lane × List Nat)) : OutSet × List Nat × List Nat :=
  let c := m.cycleIn
  let s := sealedSet m.obx m.clock c m.lanes v
  let p := sealedPdus m.lanes v
  let b := if m.full then votedBridge m.lanes v else ([], [])
  (⟨m.cycle, s.1, s.2, p.1, b.1, offers.map fun o => (o.1, (List.range 4).map fun k => (m.lane o.1).tcm.rd (outLocal k) 4)⟩, p.2, b.2)

/-! ### The tail (R30) -/

/-- Records staged in the cycle go to Amber: one that follows from agreed state only from the earliest voting lane (R462, R463). -/
def Mod.stageOut (m : Mod) (x : Lane) (first : Bool) : Mod :=
  let rs := (m.lane x).rt.recs.filter fun e => first || e.flags % 2 == 0
  (m.modLane x fun l => { l with rt := { l.rt with recs := [] } }).puts rs

/-- The tail of one lane: retain hand-over, digest slice, BIST slice; the settle cycle ends. -/
def LaneSt.tail (l : LaneSt) (full : Bool) (cycle ctime n : Nat) (again : List Nat) (i : SliceIn) (me : Nat) : LaneSt :=
  let l1 := (l.handOver cycle ctime).digSlice n again
  let l2 := l1.slice full (cycle % 32) cycle i me
  { l2 with rt := { l2.rt with settle := false }, kst := { l2.kst with inbox := [] } }

/-- The tail in every voting lane. -/
def Mod.tail (m : Mod) (ins : PerLane SliceIn) : Mod :=
  let vs := m.present
  let n := if m.service = .full then 8 else 16
  let s := m.cycle % 32
  let again := m.digAgain
  let before := (m.lane (vs.head?.getD .a)).test.missing
  let m1 := vs.foldl (fun (m : Mod) x => m.modLane x fun l => l.tail m.full m.cycle m.cycleTime n again (ins.get x) x.idx) m
  let m2 := vs.foldl (fun (m : Mod) x => m.stageOut x (vs.head? == some x)) m1
  let m3 := match vs.head? with
    | some x =>
      let codes := (ins.get x).codes
      m2.sliceOutside s ((m2.lane x).test.slices.getD s SliceRec.zero) codes (before.contains s && codes.any (· == 4))
    | none => m2
  let m4 := m3.running.foldl (fun (m : Mod) x => if (m.lane x).shadow then m.modLane x fun l =>
    { l with rt := { l.rt with recs := [], dirty := [], settle := false }, kst := { l.kst with inbox := [] } } else m) m3
  vs.foldl (fun (m : Mod) x =>
    if ((m.lane x).test.slices.getD s SliceRec.zero).verdict = 1 ∧ s < 4 then m.silence x 8 5 8 else m) m4

/-! ### The close of the vote window -/

/-- A shadow cycle judged (R179). -/
def Mod.judgeShadow (m : Mod) (v : VoteOut) (offers : List (Lane × List Nat)) : Mod :=
  match m.copy with
  | none => m
  | some k =>
    let l := m.lane k.dst
    if l.shadow = false then m
    else
      let voted (u d : Nat) : Bool := match v.agree.getD u [] with
        | x :: _ => (match offers.find? fun o => o.1 == x with
          | some o => o.2.getD u 0 == d
          | none => true)
        | [] => true
      let ok := !l.silent && k.clean && (match l.offer with
        | some ds => (ds.mapIdx fun u d => voted u d).all id
        | none => false)
      if ok then (m.modLane k.dst fun l => l.grnRaise irqGrnSHADOW) |> fun m1 => { m1 with copy := some { k with passes := k.passes + 1, clean := true } }
      else m.shadowFail k.dst

/-- The SUM of a cycle to the standby; the standby keeps its own for the comparison (R331, R335). -/
def Mod.sendSum (m : Mod) (sum : Option Nat) : Mod :=
  if m.pair.follows = false then m
  else if m.role = roleACTIVE then
    m.pairSend 0x13 (leBytes 8 m.cycle ++ leBytes 8 (sum.getD 0) ++ leBytes 1 (b2n sum.isNone))
  else { m with pair := { m.pair with ownSum := some (m.cycle, sum) } }

/-- GRN_WIN and GRN_VRES (R185). -/
def Mod.voteRegs (m : Mod) (len offers : Nat) (late : List Lane) (v : VoteOut) : Mod :=
  let mask (l : List Lane) : Nat := l.foldl (fun a x => a ||| 2 ^ x.idx) 0
  { m with
    winLast := len
    lanes := m.lanes.map fun l =>
      ({ l with grn := { l.grn with win := BitVec.ofNat 32 (min 32767 len + offers <<< 16 + mask late <<< 20),
                                    vres := BitVec.ofNat 32 (min 2047 v.nomaj + (mask v.minority) <<< 12) } } : LaneSt).grnRaise irqGrnVOTE }

/-- The vote and what follows from it; the window is closed. -/
def Mod.voteClose (m : Mod) (ins : PerLane SliceIn) : Mod :=
  let offers := m.present.filterMap fun x => ((m.lane x).offer).map fun o => (x, o)
  let late := m.present.filter fun x => (m.lane x).offer.isNone
  let v := vote offers
  let len := m.clock - m.winAt.getD m.clock
  let mask := offers.foldl (fun a o => a ||| 2 ^ o.1.idx) 0
  let m0 := m.voteRegs len mask late v
  let m1 := late.foldl (fun (m : Mod) x => (m.modLane x fun l => l.grnError 4 5).silence x 6 5 4) m0
  if v.held then (m1.sendSum none).enterHeld 2
  else if m1.inService = false then m1.sendSum none
  else
    let m2 := v.minority.foldl (fun (m : Mod) x => m.modLane x fun l => l.leave exMINORITY) m1
    let m3 := if v.minority = [] then m2 else m2.grnAll irqGrnMINOR
    let m4 := m3.judgeShadow v offers
    let q := m4.outSet v offers
    let m5 := m4.puts ((q.2.1.map fun s => mkEvt (Config.otherCode 7 3) m4.src 7 0 (leBytes 4 (1025 + s)))
      ++ q.2.2.map fun s => mkEvt (Config.otherCode 7 3) m4.src 7 0 (leBytes 4 (1281 + s)))
    let m6 := m5.sendSum (some (v.sum offers))
    let m7 := if m6.role ≠ roleACTIVE then { m6 with handed := true }
      else if m6.pair.fackFor = some m6.cycle then { m6 with outWait := some q.1 }
      else m6.handOver q.1
    ({ m7 with ph := .idle, winAt := none } : Mod).tail ins

/-- VOTE_WINDOW_CLOSE (R24, R170): every present voting lane has offered, or 20 µs have passed; a common program exception ends the cycle
in HELD (R99). -/
def Mod.windowClose (m : Mod) (ins : PerLane SliceIn) : Mod :=
  if m.inService = false then m
  else if m.ph = .run ∧ m.commonExc = true then m.enterHeld 5
  else
    match m.winAt with
    | none => m
    | some w =>
      if (m.present.all fun x => (m.lane x).offer.isSome) ∨ w + 20000 ≤ m.clock then m.voteClose ins else m

/-! ### Overruns (R16, R17) -/

/-- The bound of a phase in µs. -/
def phaseBound (full : Bool) (phase : Nat) : Nat :=
  match phase with
  | 0 => 60
  | 1 => if full then 2240 else 4740
  | 2 => 50
  | 3 => 150
  | _ => if full then 2500 else 5000

def Mod.phaseOverrun (m : Mod) (phase len : Nat) : Mod :=
  if m.inService = false ∨ 4 < phase ∨ len ≤ phaseBound (m.service == .full) phase then m
  else m.puts (m.voters.map fun x => mkEvt 0x0004 x.idx 7 0 (leBytes 1 phase ++ leBytes 4 len))

/-- No sealed set within 10 ms of the cut in FULL, 20 ms in REDUCED. -/
def Mod.handTimeout (m : Mod) : Mod :=
  let lim := if m.service = .full then 10000000 else 20000000
  if m.cycles = false ∨ m.handed = true ∨ m.clock < m.cutAt + lim then m else m.enterHeld 1

end Sys2Proof.Machine
end

