-- ==== Sys2Proof/Machine/StartOps.lean ====
section
/-!
DEFINITION. Power good, boot of Jade, firmware, start tests, station load and the way into service or HELD
(13_startup_and_self_test.md R370 to R392; 05_change_while_running.md R121 to R134; 15_lifecycle_identity_update.md R414 to R436).
-/
namespace Sys2Proof.Machine



/-! ### What outlives a restart -/

/-- Entry into MANUFACTURE or RETIRED erases (15_lifecycle_identity_update.md R418): station, SPS and key package images, the lanes' retain
areas, lock stores, confirmation records and keys, the operator root; into MANUFACTURE also the local settings. -/
def Mod.erase (m : Mod) (s : LcState) : Mod :=
  if s ≠ .manufacture ∧ s ≠ .retired then m
  else
    let wipe (j : Jade) (t : Nat) : Jade := j.setImg t { j.img t with running := none, pending := none, fallback := none }
    let j := wipe (wipe (wipe m.jade 5) 6) 7
    let j1 : Jade := { j with oproot := none, keys := none, staged := [] }
    { m with jade := if s = .manufacture then { j1 with settings := [], inForce := [], hints := [] } else j1
             lanes := m.lanes.map fun l => { l with mram := l.mram.clear 0 0x410000, keys := KeyStore.empty } }

/-- A transition that waits for the restart takes effect with it (R417). -/
def Mod.restartLc (m : Mod) : Mod :=
  match m.jade.lcPending with
  | none => m
  | some p => (({ m with jade := { m.jade with lcPending := none } } : Mod).setLc p.1 p.2).erase p.1

/-- Jade after a restart: connections closed, sessions ended, what was received discarded (R402). -/
def Jade.restarted (j : Jade) : Jade :=
  { j with mode := .off, conn1 := MbConn.reset, conn2 := MbConn.reset, conn3 := MbConn.reset, session := none, reports := [], tokens := [],
           staged := [], restart := none, ledUntil := none }

/-- A lane at a restart of the module: reset, its held-out mark and exits cleared (R155, DEDUCED, assumption log 49). -/
def LaneSt.restarted (l : LaneSt) : LaneSt := { l.powerCycle with heldOut := false, exits := [] }

/-- The module at the start of STARTING: everything volatile afresh (R121, R175, R375). -/
def Mod.restarted (m0 : Mod) : Mod :=
  let m1 : Mod := m0.puts ((Lane.all.filterMap fun x => (forcesEmptied x.idx (m0.lane x).rt.forces.length).head?))
  let m := (m1.setService .starting).restartLc
  { Mod.reset with
    clock := m.clock, free := m.free, full := m.full, sid := m.sid, heldCause := m.heldCause, heldAt := m.heldAt, bootAt := m.clock
    lanes := m.lanes.map LaneSt.restarted
    books := m.books.map fun b => { b with due := none, tried := none, overdue := false, restart := none }
    restart := { RestartSt.reset with cold := m.restart.cold }, confirm := m.confirm
    jade := m.jade.restarted, amber := m.amber, power := m.power
    time := { m.time with source := 0, verified := false, ptpGood := 0, ptpBad := 0, partnerTimeVerified := false, partnerOff := none }
    pair := { Pair.reset with present := m.pair.present, linkUp := m.pair.linkUp, retrainAt := m.pair.retrainAt, epoch0 := m.pair.epoch0
                              epoch1 := m.pair.epoch1, epochSeen := m.pair.epochSeen, partner := m.pair.partner
                              divergences := m.pair.divergences, heldCold := m.pair.heldCold, lastChange := m.pair.lastChange
                              changeKind := m.pair.changeKind }
    kst := { KstPorts.reset with recs := m.kst.recs, up := PerChan.const true }
    nodes := m.nodes, stars := m.stars, sent := m.sent }

/-! ### Power good and slot coding (R370, R492) -/

/-- POWER_GOOD: one input in range, the store charged, the regulators within tolerance. -/
def Mod.powerGood (m : Mod) (sid x1 x2 : Nat) (storeOk regsOk : Bool) : Mod :=
  let inR (s : Nat) : Bool := s == 1 || s == 2
  if m.power.good = true ∨ storeOk = false ∨ regsOk = false ∨ (inR x1 || inR x2) = false then m
  else
    let sid8 := sid % 32
    let m1 := ({ m with sid := sid8 } : Mod).restarted
    let on (d : Nat) : Bool := m.full || decide (d < 10)
    let sect (f : Bool) : SectSt := if f then .running else .off
    let rtc := if m.power.shutdown then { m1.time with rtc := m1.time.rtcSaved, rtcAt := m.clock } else m1.time
    { m1 with
      heldCause := 0, time := rtc
      amber := { m1.amber with ready := if m.power.shutdown then false else m1.amber.ready, pfail := false }
      power := { Power.reset with
        x1 := ⟨x1, inR x1⟩, x2 := ⟨x2, inR x2⟩, good := true, goodAt := m.clock, domains := (List.range 12).map on, ethm := .running
        host := .running, ports := List.replicate 8 (sect m.full), banks := List.replicate 4 (sect m.full), sidRead := sid8
        carrier := m.power.carrier, slotBad := badSid sid8 } }

/-- SLOT_CODING_REREAD: a change is recorded and not applied. -/
def Mod.slotReread (m : Mod) (sid : Nat) : Mod :=
  let s := sid % 32
  if m.power.good = false ∨ s = m.power.sidRead then m
  else ({ m with power := { m.power with sidRead := s } } : Mod).put (mkEvt 0x0010 4 7 0 (leBytes 1 m.sid ++ leBytes 1 s))

/-- DUP_SID_DETECT: a listening module receives a CYC or COLD with its own SID and stays in STARTING; an ACTIVE one continues. -/
def Mod.dupSid (m : Mod) (claim ftype : Nat) : Mod :=
  if (claimOf claim).sid ≠ m.sid ∨ m.role = roleACTIVE ∨ (m.obx.listenSince.isNone ∧ m.obx.cold.isNone) then m
  else
    let o := { m.obx with listenSince := none, cold := none, running := false }
    ({ m with power := { m.power with dupSid := true }, obx := o } : Mod).put
      (mkEvt 0x8005 3 7 0 (leBytes 1 m.sid ++ leBytes 8 claim ++ leBytes 1 ftype))

/-! ### Jade (R374, R430) -/

def hwType (full : Bool) : Nat := if full then 0x3A71 else 0x3A70

/-- Check 8 of R427 as it stands with the images that would run. -/
def Jade.fmtFor (lane : Option Blob) (t : Nat) (b : Blob) : Bool :=
  if t = 1 ∨ t = 3 ∨ t = 4 then Config.fmtOk t b.ifmt
  else if t = 5 then lane.any fun l => l.stfmt == b.ifmt
  else if t = 6 then lane.any fun l => l.spfmt == b.ifmt
  else true

/-- Whether a stored image passes its verification at start. -/
def Mod.bootOk (m : Mod) (t : Nat) (b : Blob) : Bool :=
  (m.jade.verify (hwType m.full) b t (Jade.fmtFor (m.jade.img 2).running t b) true).1 == 0
/-- Whether the running image of a type passes. -/
def Mod.imageOk (m : Mod) (t : Nat) : Bool :=
  match (m.jade.img t).running with
  | some b => m.bootOk t b
  | none => false

/-- Each pending copy becomes the running copy, its predecessor the fallback (R430, R435). -/
def Jade.activate (j : Jade) : Jade :=
  let one (j : Jade) (t : Nat) : Jade :=
    let s := j.img t
    match s.pending with
    | some b => j.setImg t { s with running := some b, pending := none, fallback := s.running }
    | none => j
  if j.marker then { [1, 2, 3, 4, 5, 6].foldl one j with marker := false } else j

/-- The new settings take effect; those found in an older format go back to their defaults (R411, R436). -/
def Mod.takeSettings (m : Mod) (old : List Nat) : Mod :=
  let bad := old.filter fun i => (m.jade.settings.find i).isSome
  let st := m.jade.settings.filter fun p => !bad.contains p.1
  let j : Jade := { m.jade with settings := st, inForce := st }
  ({ m with jade := j, phcfg := phCfgOf (j.setting m.sid 2), time := { m.time with ptpDomain := Bytes.nat (j.setting m.sid ptpId) } } : Mod).puts (bad.map fun i => mkEvt 0x9003 3 7 0 (leBytes 2 i))

/-- JADE_BOOT: the ROM verifies the JADE image and runs it, or the fallback, or stays in ROM service; `running` says whether Jade then
reports running. -/
def Mod.jadeBoot (m : Mod) (running : Bool) (old : List Nat) : Mod :=
  if m.power.good = false ∨ m.jade.mode ≠ .off then m
  else
    let fresh := m.jade.marker && ((m.jade.img 5).pending.isSome || (m.jade.img 6).pending.isSome)
    let m1 : Mod := { m with jade := m.jade.activate, restart := { m.restart with fresh := m.restart.fresh || fresh } }
    let s := m1.jade.img 1
    let back := match s.fallback with
      | some b => m1.bootOk 1 b
      | none => false
    if m1.imageOk 1 = false ∧ back = false then { m1 with jade := { m1.jade with mode := .romService } }
    else
      let m2 := if m1.imageOk 1 then m1
        else ({ m1 with jade := m1.jade.setImg 1 { s with running := s.fallback, fallback := none, pending := none } } : Mod).put
          (mkEvt 0x9002 3 7 0 (leBytes 1 1 ++ leBytes 1 0x0A ++ leBytes 1 0 ++ leBytes 4 noIndex))
      if running = false then m2
      else
        let m3 := ({ m2 with jade := { m2.jade with mode := .running } } : Mod).takeSettings old
        let k := match m3.jade.keys with
          | some g => { m3.kst with recs := (Config.keyAssocs g.content).map assocRec }
          | none => m3.kst
        let m4 : Mod := { m3 with kst := k }
        if m4.jade.lc0.valid = false ∧ m4.jade.lc1.valid = false then m4.put (mkEvt (Config.otherCode 9 1) 3 7 0 (leBytes 1 6)) else m4

/-- JADE_WATCHDOG: PD1 is restarted; after three restarts within 10 minutes Jade stays in ROM service (R374, R356). Commands still running
are answered ABORTED on connections that the restart then closes (R402). -/
def Mod.jadeWatchdog (m : Mod) : Mod :=
  if m.power.good = false ∨ m.jade.mode = .romService then m
  else
    let rs := (m.jade.restarts.filter fun r => decide (m.clock < r + 600000000000)) ++ [m.clock]
    let j := { m.jade.restarted with restarts := rs, mode := if 3 ≤ rs.length then .romService else .off }
    ({ m with jade := j } : Mod).put (mkEvt (Config.otherCode 9 2) 4 5 0 (leBytes 1 rs.length))

/-! ### Firmware and controller tests (R375, R376) -/

def Proc.image : Proc → Nat
  | .laneA | .laneB | .laneC => 2
  | .lio | .bridge => 3
  | .obxA | .obxB => 4
def Proc.lane? : Proc → Option Lane
  | .laneA => some .a
  | .laneB => some .b
  | .laneC => some .c
  | _ => none
/-- The L3 target of a processor (R381). -/
def Proc.target : Proc → Nat
  | .laneA => 0x0300FFFF
  | .laneB => 0x1300FFFF
  | .laneC => 0x2300FFFF
  | .lio => 0xF340FFFF
  | .bridge => 0xF341FFFF
  | .obxA => 0xF342FFFF
  | .obxB => 0xF343FFFF

def bistFail (src target test : Nat) : Evt := mkEvt 0xB001 src 3 (bits target 23 16) (leBytes 4 target ++ leBytes 1 test)

/-- A lane that fails a start step is held out; in a rotation the rotation fails (R180, R380). -/
def Mod.laneFails (m0 : Mod) (x : Lane) : Mod :=
  let m := m0.modLane x fun l => { l with test := { l.test with bist := .failed } }
  match m.rotation with
  | some r => if r.lane = x then m.rotationFail else m.modLane x fun l => { l with heldOut := true, released := false, stopped := true }
  | none => m.modLane x fun l => { l with heldOut := true, released := false, stopped := true }

/-- A lane starts: the state in force is latched, a split start takes its option (R158, R373, R414). -/
def LaneSt.start (l : LaneSt) (s : LcState) (pcc warm : Nat) : LaneSt :=
  let sp := l.splitNext && s == .lab
  { l with released := true, stopped := false, lc := s, latch := s, split := sp, comparator := !sp, pcc := pcc, warmMax := warm
           grn := { l.grn with ctrl := if sp then 8#32 else 0#32 } }

/-- FIRMWARE_LOAD: Jade loads a processor from its verified copy; the boot ROM compares the digest. -/
def Mod.firmwareLoad (m : Mod) (p : Proc) (digestOk : Bool) : Mod :=
  let st := m.procs.get p
  let here := match p with
    | .lio | .bridge => m.full
    | _ => true
  let free := match p.lane? with
    | some x => (m.lane x).powered && !(m.lane x).heldOut
    | none => true
  if m.jade.mode ≠ .running ∨ here = false ∨ free = false ∨ m.imageOk p.image = false ∨ (st ≠ .inReset ∧ st ≠ .mismatch) then m
  else if digestOk = false then
    if st = .inReset then { m with procs := m.procs.set p .mismatch }
    else
      let m1 := ({ m with procs := m.procs.set p .failed } : Mod).put (bistFail 3 p.target 0)
      match p.lane? with
      | some x => m1.laneFails x
      | none => m1
  else
    let m1 : Mod := { m with procs := m.procs.set p .running }
    match p.lane? with
    | some x =>
      let pcc := match (m.jade.img 2).running with
        | some b => b.pcc
        | none => 0
      let en (v : AmbPort) : AmbPort := { v with ctrl := v.ctrl ||| 1#32 }
      let a : Amber := { m1.amber with port := m1.amber.port.set x (en (m1.amber.port.get x)) }
      (({ m1 with amber := a } : Mod).modLane x fun l => l.start m.jade.lc pcc (Bytes.nat (m.jade.setting m.sid 1))).rotStep x .powered .loaded
    | none => m1

/-- CONTROLLER_START_TEST: a loaded controller passes or fails its own test. -/
def Mod.controllerTest (m : Mod) (p : Proc) (test : Nat) (pass : Bool) : Mod :=
  if p.lane?.isSome ∨ m.procs.get p ≠ .running then m
  else if pass then { m with procs := m.procs.set p .tested }
  else ({ m with procs := m.procs.set p .failed } : Mod).put (bistFail 3 p.target test)

/-! ### Station load (R58, R371 step 5; 15_lifecycle_identity_update.md R429, R433) -/

/-- What a lane answers to the images it is given: type, status, check, index of a refusal. -/
abbrev Refused := Nat × Nat × Nat × Nat
def refusedEvt (src : Nat) (r : Refused) : Evt :=
  mkEvt 0x9002 src 7 0 (leBytes 1 r.1 ++ leBytes 1 r.2.1 ++ leBytes 1 r.2.2.1 ++ leBytes 4 r.2.2.2)

/-- The keys a lane uses from this start on (R433); the test keys in MANUFACTURE and LAB (R429). -/
def LaneSt.takeKeys (l : LaneSt) (x : Lane) (laneImg : Blob) : LaneSt :=
  let used : Option KeyGen :=
    if l.lc = .manufacture ∨ l.lc = .lab then some ⟨0, Config.testKeys laneImg.digest x.idx⟩
    else match l.keys.newest with
      | some g => some g
      | none => l.keys.used
  let recs := match used with
    | some g => (Config.keyAssocs g.content).map assocRec
    | none => []
  { l with keys := { l.keys with used := used }, kst := { l.kst with recs := recs } }

/-- The image and the SPS placed and checked in a lane. -/
def LaneSt.loadStation (l : LaneSt) (full : Bool) (sid : Nat) (signed : Bool) (b : Blob) (sps : Bytes) : LaneSt × Option (Nat × Nat) :=
  let r := l.region
  let m1 := placeCode (placeStation l.dram b (stnBase r) (wrkBase r)) b (codeBase r)
  let m2 := ({ mem := m1, base := stnBase r, wrk := wrkBase r } : Stn).buildWork
  let i : LoadIn := ⟨b, ⟨m2, stnBase r, wrkBase r⟩, full, sid, sps, signed⟩
  ({ l with dram := m2, img := some b, sps := sps }, loadCheck i)

/-- What a lane finds against the images: none where it takes them. -/
def Mod.refusal (m : Mod) (l : LaneSt) (b : Blob) (sps : Option Blob) : Option Refused :=
  let lane := (m.jade.img 2).running
  if Jade.fmtFor lane 5 b = false then some (5, 0x0D, 0, noIndex)
  else if (sps.any fun s => !Jade.fmtFor lane 6 s) = true then some (6, 0x0D, 0, noIndex)
  else if l.keys.used = none then some (7, 0x0A, 0, noIndex)
  else none

/-- The runtime enables its view of the local I/O and of the bridge when its station is in place (assumption log 54). -/
def Mod.enableViews (m : Mod) (x : Lane) : Mod :=
  { m with lio := { m.lio with lanes := m.lio.lanes.set x { LioLane.reset with ctrl := 3#32 } }
           drp := { m.drp with lanes := m.drp.lanes.set x { BrgLane.reset with ctrl := 3#32 } } }

/-- A lane loads the station: refused, or its station is in place. -/
def Mod.laneStation (m : Mod) (x : Lane) : Mod :=
  match (m.jade.img 5).running, (m.jade.img 2).running with
  | some b, some li =>
    let spsImg := (m.jade.img 6).running
    let sps := match spsImg with
      | some s => s.body
      | none => []
    let l0 := (m.lane x).takeKeys x li
    let refuse (m : Mod) (r : Refused) : Mod := (m.setLane x l0).put (refusedEvt x.idx r)
    match m.refusal l0 b spsImg with
    | some r => refuse m r
    | none =>
      let signed := (m.jade.verify (hwType m.full) b 5 true true).1 == 0
      let r := l0.loadStation m.full m.sid signed b sps
      match r.2 with
      | some f => refuse m (5, 0x0A, f.1, f.2)
      | none =>
        match (if spsImg.isSome then spsCheck sps else none) with
        | some f => refuse m (6, 0x0A, f.1, f.2)
        | none =>
          let ok : LaneSt := { r.1 with test := { r.1.test with stationOk := true }, obx := { r.1.obx with ctrl := r.1.obx.ctrl ||| 3#32 },
                                        opal := if r.1.opal.en then r.1.opal else { r.1.opal with cfg := m.phcfg.word } }
          let m1 := (m.setLane x ok).enableViews x
          if m1.service = .starting then
            let o := if m1.obx.running then m1.obx else { m1.obx with bank0 := b.osch, bank := false }
            ({ m1 with obx := o } : Mod).loadControllers x
          else m1
  | _, _ => (m.put (refusedEvt x.idx (5, 0x09, 0, noIndex)))

/-! ### The lane self-test (R377 to R380, R390, R391) -/

/-- Repairs for what memory BIST found, in order; none where one cannot be made. -/
def repairAll (fuses es : List RepairEnt) (origin stamp : Nat) : List Finding → Option (List RepairEnt)
  | [] => some es
  | f :: fs =>
    match repairAssign fuses es f origin stamp with
    | none => none
    | some e1 => repairAll fuses e1 origin stamp fs

/-- A self-test that fails: its first failing target, recorded (R380). -/
def Mod.bistFailed (m : Mod) (x : Lane) (target test : Nat) : Mod :=
  (m.modLane x fun l => { l with test := { l.test with failTgt := target } }).put (bistFail x.idx target test)

/-- LANE_SELF_TEST: a released lane runs its profile, ROTATION inside a rotation and START otherwise. `fail` is the target and test of the
first failure, `findings` what memory BIST found. -/
def Mod.laneSelfTest (m : Mod) (x : Lane) (fail : Option (Nat × Nat)) (findings : List Finding) : Mod :=
  let l := m.lane x
  let rot := m.rotatingAt x .loaded
  if l.powered = false ∨ l.released = false ∨ l.test.selfOk = true ∨ m.procs.get (procOf x) ≠ .running ∨ (m.rotation.map (·.lane) = some x ∧ rot = false) then m
  else
    let origin := match m.rotation with
      | some r => if r.lane = x then (if r.kind = .commanded then 3 else 2) else 1
      | none => 1
    let es0 := repairEnts l.mram
    let es1 := if rot then es0.filter fun e => e.origin != 5 else es0
    let rep := if l.latch = .retired ∧ findings ≠ [] then none else repairAll l.test.fuses es1 origin (m.laneTime x / 1000000000 % 2 ^ 32) findings
    match rep, fail with
    | none, _ => (m.bistFailed x ((findings.head?.map (·.target)).getD 0) 1).laneFails x
    | _, some f => (m.bistFailed x f.1 f.2).laneFails x
    | some es, none =>
      let new' := es.filter fun e => !es1.contains e
      let mram := if es = es0 then l.mram else repairWrite l.mram es
      let l1 : LaneSt := { l with mram := mram, test := { l.test with selfOk := true, bist := .passed } }
      let up (m : Mod) (y : Lane) : Mod :=
        if y ≠ x ∧ (m.lane y).test.selfOk = true ∧ (m.links.get (linkOf x y)).st ≠ 3 then { m with links := m.links.set (linkOf x y) ⟨2, none⟩ } else m
      let m1 : Mod := { (m.setLane x l1).puts (new'.map fun e => mkEvt 0xB002 x.idx 2 (bits e.target 23 16) e.bytes) with
        procs := m.procs.set (procOf x) .tested }
      let m2 := (Lane.all.foldl up m1).laneStation x
      let m3 := match m.rotation, m2.jade.staged.find 5, (m2.lane x).img with
        | some r, new, some cur =>
          if r.lane = x ∧ m2.hasStaged = true ∧ (m2.lane x).test.stationOk = true then
            let b := new.getD cur
            let signed := (m2.jade.verify (hwType m2.full) b 5 true true).1 == 0
            let sps := (m2.jade.staged.find 6).map Blob.body
            m2.modLane x fun l => l.stageImage m2.full m2.sid signed b sps
          else m2
        | _, _, _ => m2
      if rot then (if (m3.lane x).test.stationOk then m3.rotStep x .loaded .tested else m3.laneFails x) else m3

/-- ECC_CANDIDATE: a word corrected three times in 24 h (R391); `kind` is the row or column, `faddr` its place. -/
def Mod.eccCandidate (m : Mod) (x : Lane) (target kind faddr addr : Nat) : Mod :=
  let l := m.lane x
  let seen := (l.test.ecc.filter fun e => decide (m.clock < e.2.2 + dayNs)) ++ [(target, addr, m.clock)]
  let n := (seen.filter fun e => e.1 == target && e.2.1 == addr).length
  let l1 : LaneSt := { l with test := { l.test with ecc := seen } }
  let es := repairEnts l.mram
  if l.powered = false then m
  else if n < 3 ∨ 256 ≤ es.length ∨ (es.any fun e => e.target == target && e.faddr == faddr) = true then m.setLane x l1
  else
    let e : RepairEnt := ⟨target, kind, 0xFF, 5, faddr, m.laneTime x / 1000000000 % 2 ^ 32⟩
    (m.setLane x { l1 with mram := repairWrite l.mram (es ++ [e]) }).put (mkEvt 0xB002 x.idx 2 (bits target 23 16) e.bytes)

/-- SLICE_INCOMPLETE: the slice of the cycle reaches 100 µs in a lane, is stopped there and reported incomplete (R387). -/
def Mod.sliceIncomplete (m : Mod) (x : Lane) : Mod :=
  if m.inService = false ∨ (m.lane x).voting = false then m
  else m.modLane x fun l => l.slice m.full (m.cycle % 32) m.cycle ⟨[], 101⟩ x.idx

/-! ### Failures (R382) -/

/-- Whether any element of the running station has interface class 2 or 3. -/
def Blob.usesLocal (b : Blob) : Bool :=
  (List.range 16384).any fun e => let i := bits (b.secF 2 (32 * e) 4) 19 16; i == 2 || i == 3

/-- Lanes that have completed steps 4 and 5. -/
def Mod.ready (m : Mod) : List Lane :=
  Lane.all.filter fun x => let l := m.lane x; l.powered && l.released && !l.stopped && !l.heldOut && !l.split && l.test.selfOk && l.test.stationOk

/-- Whether a lane can still complete its steps. -/
def Mod.hopeful (m : Mod) (x : Lane) : Bool :=
  let l := m.lane x
  !l.heldOut && !l.split && m.procs.get (procOf x) != .failed && (!l.test.selfOk || l.test.stationOk)

/-- The cause of the HELD that the start-up state asks for (R382, R501). -/
def Mod.startCause (m : Mod) (noLight : Bool) : Option Nat :=
  let localFail := m.full && (!m.imageOk 3 || m.procs.lio == .failed || m.procs.bridge == .failed)
  let uses := match (m.jade.img 5).running with
    | some b => b.usesLocal
    | none => false
  let imgs := !m.imageOk 2 || !m.imageOk 4 || (localFail && uses)
  let refused := Lane.all.any fun x => let l := m.lane x; l.test.selfOk && !l.split && !l.heldOut && !l.test.stationOk
  if imgs || refused then some 0xC
  else if (Lane.all.filter m.hopeful).length < 2 then some 0xD
  else if noLight then some 0xE
  else none

/-- START_FAILURE: ROM service, HELD or a degraded start, as the state asks for. -/
def Mod.startFailure (m : Mod) (noLight : Bool) : Mod :=
  if m.service ≠ .starting ∨ m.power.good = false ∨ m.jade.mode ≠ .running then m
  else
    match m.startCause noLight with
    | some c => m.enterHeld c
    | none =>
      let localFail := m.full && (!m.imageOk 3 || m.procs.lio == .failed || m.procs.bridge == .failed)
      if localFail then
        let p := (m.power.setOn 10 false).setOn 11 false
        { m with power := { p with ports := List.replicate 8 .off, banks := List.replicate 4 .off }
                 lio := { m.lio with ctlflt := true, active := false }, drp := { m.drp with ctlflt := true, active := false } }
      else m

/-! ### The first voting cycle (R121, R125, R126, R134, R289, R372, R428, R430) -/

/-- RESTART_RECORD_EXCHANGE: lanes that passed offer their candidates. -/
def Mod.recordExchange (m : Mod) : Mod :=
  if m.service ≠ .starting then m
  else
    let offers := m.ready.map fun x => (x, (m.lane x).candidates)
    match agreedRecord offers with
    | some (c, ls) =>
      let t := match ls.head? with
        | some x => recTime (m.lane x).mram (c % 2)
        | none => 0
      { m with restart := { m.restart with record := some (c, t), holders := ls, exchanged := true } }
    | none => { m with restart := { m.restart with record := none, holders := [], exchanged := true } }

/-- The confirmation record of a lane (09_local_safety_io.md R289): check value, time, CRC-32C. -/
def confirmAt : Nat := 0x408000
def LaneSt.confirmed (l : LaneSt) : Bool :=
  l.mram.bytes confirmAt 8 == spsValue l.sps && l.mram.rd (confirmAt + 28) 4 == crc32c (l.mram.bytes confirmAt 28)

/-- Whether the restart is warm, with the age of the record in ns (R121, R126). -/
def Mod.warmAge (m : Mod) : Option Nat :=
  match m.restart.record with
  | none => none
  | some (_, t) =>
    let warm := Bytes.nat (m.jade.setting m.sid 1) * 1000000000
    if m.restart.cold = true ∨ m.restart.fresh = true ∨ m.time.verified = false ∨ m.now < t ∨ t + warm < m.now then none
    else some (m.now - t)

/-- The rollback counters advance to the running images (R428), and the fallbacks are discarded (R430). -/
def Jade.firstRun (j : Jade) : Jade :=
  let adv := j.lc == .commission || j.lc == .operate || j.lc == .maintain
  [1, 2, 3, 4, 5, 6].foldl (fun (j : Jade) t =>
    let s := j.img t
    match s.running with
    | some b => j.setImg t { s with fallback := none, rollback := if adv then max s.rollback b.rbidx else s.rollback }
    | none => j) j

/-- The life-cycle states that allow a logic cycle (R415). -/
def LcState.cycles (s : LcState) : Bool := s != .manufacture && s != .retired

/-- FIRST_VOTING_CYCLE: the module becomes FULL or REDUCED, warm or cold, at the start of its settle cycle. -/
def Mod.firstCycle (m : Mod) : Mod :=
  let rs := m.ready.filter fun x => (m.lane x).grn.ctrl.getLsbD 2
  if m.service ≠ .starting ∨ m.role ≠ roleACTIVE ∨ m.power.slotBad = true ∨ m.power.dupSid = true ∨ rs.length < 2 ∨ m.jade.lc.cycles = false then m
  else if m.full = true ∧ m.jade.lc = .operate ∧ (rs.any fun x => !(m.lane x).confirmed) = true then m.enterHeld 0xF
  else
    let age := m.warmAge
    let hold := rs.filter fun x => m.restart.holders.contains x
    let warm := age.isSome && decide (2 ≤ hold.length)
    let vs := if warm then hold else rs
    let c := if warm then (m.restart.record.map (·.1)).getD 0 else 0
    let go (l : LaneSt) : LaneSt :=
      let l1 := l.restart (if warm then some (c % 2) else none) c
      { l1 with voting := true, silent := false, grn := { l1.grn with ctrl := l1.grn.ctrl ||| 1#32 }
                opal := { l1.opal.bringUp m.phcfg m.clock m.now with offset := 0 } }
    let lanes := m.lanes.mapL fun x l => if vs.contains x then go l else l
    let m1 : Mod := { m with lanes := lanes, cycle := c, cycleTime := m.now, jade := m.jade.firstRun, everActive := true
                             restart := { m.restart with kind := if warm then 1 else 2, cold := false, fresh := false } }
    let m2 := m1.setService (if 3 ≤ vs.length then .full else .reduced)
    let m3 := m2.put { mkEvt 0x0002 m2.src 7 0 (leBytes 1 (if warm then 1 else 2) ++ leBytes 8 c ++ leBytes 4 ((age.getD 0) / 1000000)) with flags := 1 }
    m3.gates

end Sys2Proof.Machine
end

