-- ==== Sys2Proof/Machine/LaneMod.lean ====
section
/-!
DEFINITION. What happens to the lanes, their comparators, Garnet slices and rotations from outside the cycle
(06_lanes_and_voting.md R150 to R186; 16_movers_checks_crossings.md R441, R458).
-/
namespace Sys2Proof.Machine

/-- An action of a powered lane on its own state. -/
def Mod.laneDo (m : Mod) (x : Lane) (f : LaneSt → LaneSt) : Mod := if (m.lane x).powered then m.modLane x f else m

/-! ### Monitors (R152 to R154) -/

/-- LOCKSTEP_MISMATCH in unit `unitNo` of a lane that runs compared (R152, R157). -/
def Mod.lockstep (m : Mod) (x : Lane) (unitNo : Nat) : Mod :=
  if (m.lane x).comparator && (m.lane x).released then m.stopLane x 1 unitNo else m
/-- COMPARATOR_DISAGREE: the two comparator copies differ (R153). -/
def Mod.comparatorFault (m : Mod) (x : Lane) : Mod :=
  if (m.lane x).comparator && (m.lane x).released then m.stopLane x 2 2 else m

/-- The lane's power-good monitor (`clock` false) or clock monitor trips; `dev` is the deviation the clock monitor found, in ppm. -/
def Mod.monitorTrip (m : Mod) (x : Lane) (clock : Bool) (dev : Nat) : Mod :=
  if (m.lane x).powered = false then m
  else
    let note (l : LaneSt) : LaneSt :=
      { l with lct := if clock then { l.lct with clkDev := dev % 65536, stops := min 255 (l.lct.stops + 1), clkTrip := true }
        else { l.lct with pgTrip := true } }
    (m.modLane x note).silence x (if clock then 9 else 8) 5 8

/-! ### Garnet (R160, R161, R172, R185, R186) -/

/-- A Garnet frame of lane `x` fails its CRC on link `n`: it is sent again once; a second failure is a link fault. -/
def Mod.garnetCrc (m : Mod) (x : Lane) (n : LinkName) (again : Bool) : Mod :=
  if (m.links.get n).st ≠ 2 then m
  else if again then m.linkFault n
  else m.modLane x fun l =>
    { l.grnError 1 3 with grn := { (l.grnError 1 3).grn with retry := min 0xFFF (l.grn.retry + 1) } }

/-- GRN_CTRL.KEYLOCK. -/
def LaneSt.keyLocked (l : LaneSt) : Bool := l.grn.ctrl.getLsbD 2

/-- A write to GRN_KEY0 to GRN_KEY7: word `i` of the lane command key, while KEYLOCK is 0 (R185); a split lane loads no key (R158). -/
def LaneSt.keyWrite (l : LaneSt) (i : Nat) (v : Word32) : LaneSt :=
  if l.keyLocked ∨ l.split = true ∨ 8 ≤ i then l
  else
    let old := l.grn.key / 2 ^ (32 * i) % 2 ^ 32
    { l with grn := { l.grn with key := l.grn.key - old * 2 ^ (32 * i) + v.toNat * 2 ^ (32 * i) } }

/-- Setting GRN_CTRL.KEYLOCK. -/
def LaneSt.keyLock (l : LaneSt) : LaneSt := { l with grn := { l.grn with ctrl := l.grn.ctrl ||| 4#32 } }

/-- A read of GRN_ERRCAP (R186). -/
def LaneSt.readGrnErr (l : LaneSt) : LaneSt :=
  { l with readData := l.grn.errcap.toNat, grn := { l.grn with errcapLr := l.grn.errcap, errcap := 0 } }

/-! ### Rotations (R157, R176, R177, R180) -/

/-- A rotation not started within 4 h of falling due is reported (R176). -/
def Mod.rotationOverdue (m : Mod) (x : Lane) : Mod :=
  let b := m.books.get x
  match b.due with
  | none => m
  | some d =>
    if b.overdue = true ∨ m.clock < d + 14400000000000 then m
    else ({ m with books := m.books.set x { b with overdue := true } } : Mod).put
      (mkEvt 0x1005 m.src 5 0 (leBytes 1 x.idx ++ leBytes 8 d))

/-- The cores' solo self-tests are done (R157 step 5): a signature that differs fails the rotation. -/
def Mod.soloDone (m : Mod) (x : Lane) (ok : Bool) : Mod :=
  if m.rotatingAt x .split = false then m
  else if ok then m.rotStep x .split .solo
  else m.rotationFail

/-- A link of a lane goes down unless it has failed. -/
def Mod.linkDown (m : Mod) (x y : Lane) : Mod :=
  let n := linkOf x y
  if x = y ∨ (m.links.get n).st = 3 then m else { m with links := m.links.set n GLink.reset }

/-- The lane domain is off for 100 ms and on again, with a synchronised reset (R177 step 3). -/
def Mod.lanePowerCycle (m : Mod) (x : Lane) : Mod :=
  if m.rotatingAt x .solo = false then m
  else
    let m1 := Lane.all.foldl (fun (m : Mod) y => m.linkDown x y) (m.modLane x LaneSt.powerCycle)
    (({ m1 with procs := m1.procs.set (procOf x) .inReset, power := m1.power.setOn (2 + x.idx) true } : Mod).rotStep x .solo .powered).gates

/-- A rotation not ended within 45 s is abandoned (R180). -/
def Mod.rotationAbandon (m : Mod) : Mod :=
  match m.rotation with
  | none => m
  | some r => if m.clock < r.since + 45000000000 then m else (m.rotationFail).countService

/-! ### Gate read-back (R174) -/

/-- Three cycles in a row in which a lane's gate inputs differ from the other two: it leaves. -/
def Mod.gateCount (m : Mod) (x : Lane) : Mod :=
  if (m.lane x).voting = false then { m with gateStreak := m.gateStreak.set x 0 }
  else if m.lio.gateMinority m.can x = false then { m with gateStreak := m.gateStreak.set x 0 }
  else
    let n := m.gateStreak.get x + 1
    let m1 : Mod := { m with gateStreak := m.gateStreak.set x n }
    if n < 3 then m1 else (m1.modLane x fun l => l.leave exGATE).grnAll irqGrnMINOR

/-- GATE_READBACK: `bad` lists the gates whose output differs from the majority of their inputs. JW3X-F only. -/
def Mod.gateReadback (m : Mod) (bad : List Nat) : Mod :=
  if m.full = false then m
  else
    let r := m.lio.readback m.can m.clock bad
    Lane.all.foldl Mod.gateCount (({ m with lio := r.1 } : Mod).puts r.2)

/-! ### Lane control (R156, R378, R441, R458) -/

def lctSIL : Word32 := 1
def lctXTO : Word32 := 2
def lctJPORT : Word32 := 4
def lctINJ : Word32 := 8
def LaneSt.lctRaise (l : LaneSt) (w : Word32) : LaneSt := { l with lct := { l.lct with irq := l.lct.irq ||| w } }
def LaneSt.lctError (l : LaneSt) (code level : Nat) : LaneSt := { l with lct := { l.lct with errcap := captureErr l.lct.errcap code level } }
/-- LCT_CTRL.TEST. -/
def LaneSt.testMode (l : LaneSt) : Bool := l.lct.ctrl.getLsbD 0

/-- LCT_INJ.GO with TEST = 1: BIT, COPY and POL as written; `both`, `sil` and `lat` are what the comparators gave. The lane falls
silent where the signal rose; a result other than R378 asks for is noted. The fault word keeps no injection. -/
def LaneSt.inject (l : LaneSt) (w : Word32) (both sil : Bool) (lat : Nat) : LaneSt :=
  if l.testMode = false then l
  else
    let res := BitVec.ofNat 32 (b2n both + 2 * b2n sil + 16 * (lat % 16) + 2 ^ 31)
    let l1 : LaneSt := ({ l with lct := { l.lct with inj := w &&& 0x3FFF#32, injres := res } } : LaneSt).lctRaise lctINJ
    let l2 := if sil then l1.quiet else l1
    if both = true ∧ sil = true ∧ lat ≤ 2 then l2 else l2.lctError 4 4

/-- SILCLR with TEST = 1. -/
def LaneSt.silClear (l : LaneSt) : LaneSt :=
  if l.testMode then { l with silent := false, stopped := !l.released } else l

/-- A read of LCT_ERRCAP (R441, R460). -/
def LaneSt.readLctErr (l : LaneSt) : LaneSt :=
  { l with readData := l.lct.errcap.toNat, lct := { l.lct with errcapLr := l.lct.errcap, errcap := 0 } }

/-- LCT_STAT (R458). -/
def Mod.lctStat (m : Mod) (x : Lane) : Word32 :=
  let l := m.lane x
  BitVec.ofNat 32 (b2n (l.silent || l.halted) + 2 * b2n l.split + 4 * b2n (l.latch == .lab || l.latch == .manufacture)
    + 8 * b2n (l.powered && !l.lct.pgTrip && !m.power.pfail) + 16 * b2n (l.powered && !l.lct.clkTrip) + 256 * l.latch.code)

/-- A debug halt request (R156): in LAB and MANUFACTURE both cores stop at the same boundary; the lane is silent. -/
def Mod.debugHalt (m : Mod) (x : Lane) : Mod :=
  let l := m.lane x
  if l.powered = false ∨ l.released = false ∨ (l.latch ≠ .lab ∧ l.latch ≠ .manufacture) then m
  else
    let m1 := m.setLane x { l.quiet with halted := true }
    if l.silent then m1.gates
    else if l.voting then ((m1.modLane x fun y => y.leave exHALT).gates).tooFew
    else if l.shadow then (m1.gates).shadowFail x
    else m1.gates

end Sys2Proof.Machine
end

