-- ==== Sys2Proof/Machine/State.lean ====
section
/-!
DEFINITION. The whole machine: the block's state and the queue of the commands that wait.
-/
namespace Sys2Proof.Machine

/-- Why a command ends in a fault. No command of this block does: what goes wrong in the module is the command's effect on the state (an
error capture, silence of a lane, HELD). -/
inductive Fault where
  /-- Raised by no command; it stands so that the type has a value. Safe. -/
  | spare
  deriving DecidableEq, Repr

/-- Why a command is refused. -/
inductive Refusal where
  /-- The command has no meaning yet; raised by an arm of `exec` that names its mnemonic. Safe. -/
  | notModelled (mnemonic : String)
  deriving DecidableEq, Repr

/-- The machine: the commands that wait, first in first out, and the module with the far ends of its network. -/
structure State where
  pending : List Instr
  m : Mod
  deriving DecidableEq, Repr

/-- Right before POWER_GOOD, with nothing commanded (13_startup_and_self_test.md R370; assumption logs 1, 13, 14). -/
def State.reset : State := ⟨[], Mod.reset⟩

abbrev Result := Host.Outcome State Fault Refusal

end Sys2Proof.Machine
end

