-- ==== Sys2Proof/Machine/Ops.lean ====
section
/-!
DEFINITION. What every command shares: it happens at its instant, changes the module, and leaves the queue alone.
-/
namespace Sys2Proof.Machine

/-- A command at instant `t`: the clock comes there (it never runs back, assumption log 4), then the module changes. -/
def State.at (s : State) (t : Nat) (f : Mod → Mod) : Result := .next { s with m := f (s.m.advance t) }

end Sys2Proof.Machine
end

