-- ==== Sys2Proof/Machine/BerylCmds.lean ====
section
/-!
DEFINITION. The commands of Beryl (03_route_admission.md).
-/
namespace Sys2Proof.Machine

/-- BRL_REQ_PROD_WRITE (R63). The runtime advances BRL_REQ_PROD, making new descriptors available to Beryl. -/
def execBrlReqProdWrite (x : Lane) (v : Nat) (t : Nat) (s : State) : Result := s.at t fun m => m.berylDo x fun l => l.reqProd v

/-- DESCRIPTOR_ACCEPT (R63). Beryl accepts the next descriptor once fewer than 256 are in flight and applies the NOTREADY, TAGDUP, ORDER
and BADOP checks. -/
def execDescriptorAccept (x : Lane) (t : Nat) (s : State) : Result := s.at t fun m => m.berylDo x LaneSt.acceptNext

/-- SET (R69). Beryl decides a route admission by the thirteen conditions and commits it or tries to queue it. -/
def execSet (x : Lane) (t : Nat) (s : State) : Result := s.at t fun m => m.berylDo x fun l => l.decideOp 1

/-- PROBE (R69). Beryl tests an admission without committing it. -/
def execProbe (x : Lane) (t : Nat) (s : State) : Result := s.at t fun m => m.berylDo x fun l => l.decideOp 7

/-- CANCEL (R77). Beryl cancels a route, releasing it or starting approach locking. -/
def execCancel (x : Lane) (t : Nat) (s : State) : Result := s.at t fun m => m.berylDo x fun l => l.decideOp 2

/-- TREL (R78). Beryl releases a route at once or starts its timed release. -/
def execTrel (x : Lane) (t : Nat) (s : State) : Result := s.at t fun m => m.berylDo x fun l => l.decideOp 3

/-- DEQUEUE (R87). Beryl withdraws the pending entry of a route and answers it DEQUEUED. -/
def execDequeue (x : Lane) (t : Nat) (s : State) : Result := s.at t fun m => m.berylDo x fun l => l.decideOp 4

/-- AREL (R82). Beryl starts or replaces the area release timer of an area. -/
def execArel (x : Lane) (t : Nat) (s : State) : Result := s.at t fun m => m.berylDo x fun l => l.decideOp 5

/-- AFFECT (R85). Beryl writes the OR of an element's transposed rows and counts the related and SET routes. -/
def execAffect (x : Lane) (t : Nat) (s : State) : Result := s.at t fun m => m.berylDo x fun l => l.decideOp 6

/-- PLANE_WRITE (R76). Beryl writes program-owned plane bits, with the NOTPROVEN, LOCKED and LOCK-SAFE refusals. -/
def execPlaneWrite (x : Lane) (t : Nat) (s : State) : Result := s.at t fun m => m.berylDo x fun l => l.decideOp 0x10

/-- RESPONSE_WRITE (R64). Beryl writes a response into the response ring once space is free and advances BRL_RSP_PROD. -/
def execResponseWrite (x : Lane) (t : Nat) (s : State) : Result := s.at t fun m => m.berylDo x LaneSt.writeResponse

/-- BRL_RSP_CONS_WRITE (R64). The runtime advances BRL_RSP_CONS, freeing response ring space. -/
def execBrlRspConsWrite (x : Lane) (v : Nat) (t : Nat) (s : State) : Result := s.at t fun m => m.berylDo x fun l => l.rspCons v

/-- BRL_CTRL_WRITE (R86). A write to BRL_CTRL sets EN and HOLD; with HOLD set, the transposer DMA gains SRAM access once the pipeline is
empty. -/
def execBrlCtrlWrite (x : Lane) (v : Word32) (t : Nat) (s : State) : Result := s.at t fun m => m.berylDo x fun l => l.brlCtrl v

/-- LOAD (R61). BRL_CMD LOAD builds the work region, clears the working store and applies the restart record. -/
def execLoad (x : Lane) (t : Nat) (s : State) : Result := s.at t fun m => m.berylDo x LaneSt.brlLoad

/-- CLEAR (R60). BRL_CMD CLEAR clears every state plane and the working store. -/
def execClear (x : Lane) (t : Nat) (s : State) : Result := s.at t fun m => m.berylDo x LaneSt.brlClear

/-- STEP (R79). BRL_CMD STEP latches the time, publishes a due sweep and visits every SET or OVL-SET route for proving and release. -/
def execStep (x : Lane) (t : Nat) (s : State) : Result := s.at t fun m => m.berylDo x LaneSt.brlStep

/-- PENDING_EXPIRE (R74). A pending entry's lifetime has passed, and it is answered EXPIRED. -/
def execPendingExpire (x : Lane) (r : Nat) (t : Nat) (s : State) : Result := s.at t fun m => m.berylDo x fun l => l.pendingExpire r

/-- AREA_TIMER_DUE (R79). An area's release timer is due, and LOCK-SAFE is cleared over the area. -/
def execAreaTimerDue (x : Lane) (a : Nat) (t : Nat) (s : State) : Result := s.at t fun m => m.berylDo x fun l => l.areaTimer a

/-- ROUTE_TREL_DUE (R80). A route's timed release or approach locking deadline is due, and the route and its overlap are released
together. -/
def execRouteTrelDue (x : Lane) (r : Nat) (t : Nat) (s : State) : Result := s.at t fun m => m.berylDo x fun l => l.routeTrel r

/-- OVERLAP_TREL_DUE (R80). An overlap's timed release deadline is due, and the overlap is released. -/
def execOverlapTrelDue (x : Lane) (r : Nat) (t : Nat) (s : State) : Result := s.at t fun m => m.berylDo x fun l => l.overlapTrel r

/-- SWEEP (R83). BRL_CMD SWEEP snapshots the planes and starts a settability sweep, or is ignored with CMDERR while one runs. -/
def execSweep (x : Lane) (t : Nat) (s : State) : Result := s.at t fun m => m.berylDo x LaneSt.brlSweep

/-- SWEEP_COMPLETE (R84). A settability sweep finishes and its result awaits publication. -/
def execSweepComplete (x : Lane) (t : Nat) (s : State) : Result := s.at t fun m => m.berylDo x LaneSt.sweepDone

/-- FETCH_TIMEOUT (R88). A Beryl row fetch has not completed within 2 µs. -/
def execFetchTimeout (x : Lane) (t : Nat) (s : State) : Result := s.at t fun m => m.berylDo x LaneSt.fetchTimeout

/-- BRL_ERRCAP_READ (R62). A read of BRL_ERRCAP returns and clears it and copies it into BRL_ERRCAP_LR. -/
def execBrlErrcapRead (x : Lane) (t : Nat) (s : State) : Result := s.at t fun m => m.berylDo x LaneSt.readBrlErr

end Sys2Proof.Machine
end

