-- ==== Sys2Proof/Machine/NodeOps.lean ====
section
/-!
DEFINITION. The far ends of Opbex: what an object controller checks, applies and answers (07_opbex.md R206 to R210, R230;
08_phase_and_time.md R252, R253) and what a star coupler forwards, blocks and answers (R219 to R222). They work by the schedule bank
in force (assumption log 5).
-/
namespace Sys2Proof.Machine

/-! ### A node's time -/

/-- The minor cycle at clock `t`, and the offset into it; none before the first CYC (R230). -/
def Node.now (nd : Node) (t : Nat) : Option (Nat × Nat) :=
  match nd.base with
  | none => none
  | some b => some (nd.mcn + (t - b) / 4000000, (t - b) % 4000000)

def Node.l (nd : Node) : Nat := if nd.l8 then 8 else 4

/-- The expected polls of minor cycles `a + 1` to `n` (R208). -/
def expectedPolls (bk : ObxBank) (l k a n : Nat) : Nat :=
  if bk.cls k = 1 then n - a
  else if bk.cls k = 2 then (List.range (n - a)).foldl (fun c i => if (a + 1 + i) % l = bk.phase k then c + 1 else c) 0
  else 0

/-- The missed-poll count at clock `t`: the present cycle counts once its reply window has opened (R208). -/
def Node.count (nd : Node) (bk : ObxBank) (k t : Nat) : Nat :=
  match nd.now t with
  | none => 0
  | some (m, off) => nd.missed + expectedPolls bk nd.l k nd.freshAt (if bk.open' k ≤ off then m else m - 1)

/-! ### Commands -/

def Node.phi (nd : Node) (t : Nat) : Nat := nd.psi.at t

/-- A 42-bit phase index, as a signed distance from Ψ (R252, R253). -/
def psiDist (psi ref : Nat) : Int :=
  let w : Nat := 2 ^ 42
  let d := (ref + w - psi % w) % w
  if d < w / 2 then (d : Int) else (d : Int) - (w : Int)
def pollRef (b : Bytes) : Nat := Bytes.le b 0x14 4 * 1024 + Bytes.le b 0x18 2 % 1024
def pollPhv (b : Bytes) : Bool := (Bytes.le b 0x18 2).testBit 15
def pollClaim (b : Bytes) : Nat := Bytes.le b 4 8
def pollMcn (b : Bytes) : Nat := Bytes.le b 0xC 4
def pollCyc (b : Bytes) : Nat := Bytes.le b 0x10 4
def pollPhm (b : Bytes) : Nat := Bytes.le b 0x2A 2

/-- Every channel to its CODE 7 state: applied at once, the last accepted command forgotten, pending commands removed (R207,
R253). -/
def Node.safe (nd : Node) : Node := { nd with chans := nd.chans.map fun _ => ⟨none, 0x70, none, false⟩ }

/-- A new command of one channel (R207, R253): at once, or at its commit index. Answers the channel and whether NEVT 0x0302 is
reported. -/
def takeCommand (c : NodeChan) (cmd : Nat) (indexed aligned : Bool) (dist : Int) (target : Nat) : NodeChan × Bool :=
  if indexed = false then (⟨some cmd, cmd, none, true⟩, false)
  else if aligned = false then (⟨some cmd, cmd, none, true⟩, true)
  else if dist ≤ 0 then (⟨some cmd, cmd, none, true⟩, false)
  else if dist ≤ 2048 then (⟨some cmd, c.applied, some (target, cmd), false⟩, false)
  else (⟨some cmd, cmd, none, true⟩, true)

/-- The commands of an accepted poll. -/
def Node.commands (nd : Node) (bk : ObxBank) (k t : Nat) (b : Bytes) : Node :=
  let psi := nd.phi t
  let dist := psiDist psi (pollRef b)
  let phaseNode := bk.phaseNode k && pollPhv b
  let r := (List.range nd.chans.length).map fun i =>
    let c := nd.chans.getD i NodeChan.reset
    let cmd := Bytes.le b (0x1A + i) 1
    if cmd / 16 % 8 = 0 ∨ c.last = some cmd then (c, false)
    else
      let indexed := phaseNode && (fver b == 2 || (pollPhm b).testBit i)
      takeCommand c cmd indexed nd.aligned dist ((psi : Int) + dist).toNat
  let told := r.any (·.2)
  let silent := told && !nd.aligned && nd.noAlignTold
  { nd with chans := r.map (·.1), nevt := if told && !silent then nd.nevt ++ [0x0302] else nd.nevt,
            noAlignTold := nd.noAlignTold || (told && !nd.aligned) }

/-- A reference poll (R252). `freq` is the nominal supply frequency of PHCFG. -/
def Node.reference (nd : Node) (freq t : Nat) (b : Bytes) : Node :=
  let psi := nd.phi t
  let a := -(psiDist psi (pollRef b))
  if -64 ≤ a ∧ a < 960 then { nd with badRefs := 0, aligned := true }
  else if nd.badRefs + 1 < 3 then { nd with badRefs := nd.badRefs + 1 }
  else
    -- a locked node changes whole supply cycles only; a node that is not locked takes Φr + 256
    let new : Int := if nd.sense then (psi : Int) - ((a + 64) / 1024) * 1024 else (psi : Int) - a + 256
    let new' := new.toNat
    { nd with badRefs := 0, aligned := true, nevt := nd.nevt ++ [0x0301],
              psi := if nd.sense then { nd.psi with base := new', instant := t } else Phi.synthetic freq new' t }

/-! ### The checks of R206 -/

/-- Check 1. -/
def Node.check1 (nd : Node) (bk : ObxBank) (k ty : Nat) (f : Frame) : Bool :=
  let v := fver f.body
  let own := if nd.ver = 0 then bk.pver k else nd.ver
  f.ok && ftype f.body == ty && f.body.length == 64 && faddr f.body == k
    && (v == own || v == bk.pver k || (decide (own < v) && decide (v ≤ Config.nodeVmax k)))
/-- Checks 2 and 3. -/
def Node.check23 (nd : Node) (m : Nat) (b : Bytes) : Bool :=
  (claimOf (pollClaim b)).role == roleACTIVE && decide (nd.hclaim ≤ pollClaim b) && pollMcn b == m % 4294967296
def laneByteLane (x : Nat) : Nat := x % 4
def laneByteGen (x : Nat) : Nat := x / 16
/-- Checks 4 and 5: two different lanes with keys, both seals (R172). -/
def sealsOk (b : Bytes) : Bool :=
  let sid := (claimOf (pollClaim b)).sid
  let l1 := Bytes.le b 0x2E 1
  let l2 := Bytes.le b 0x2F 1
  let x := b.take 0x2E
  match Config.nodeCmdKey sid (laneByteLane l1) (laneByteGen l1), Config.nodeCmdKey sid (laneByteLane l2) (laneByteGen l2) with
  | some k1, some k2 =>
    decide (laneByteLane l1 < 3) && decide (laneByteLane l2 < 3) && laneByteLane l1 != laneByteLane l2
      && Bytes.sub b 0x30 8 == keySeal k1 x customOBX && Bytes.sub b 0x38 8 == keySeal k2 x customOBX
  | _, _ => false
/-- Check 6: CYC not below the last accepted one under the same claim. -/
def Node.check6 (nd : Node) (b : Bytes) : Bool :=
  pollClaim b != nd.hclaim
    || (match nd.lastCyc with
        | none => true
        | some c => decide ((pollCyc b + 4294967296 - c) % 4294967296 < 2147483648))
def Node.pollOk (nd : Node) (m : Nat) (b : Bytes) : Bool := nd.check23 m b && sealsOk b && nd.check6 b

/-- Whether the accepted poll has a greater CYC than the last accepted one; a higher claim restarts the comparison (R206,
R208). -/
def Node.newer (nd : Node) (b : Bytes) : Bool :=
  pollClaim b != nd.hclaim || nd.lastCyc != some (pollCyc b)

/-- What an accepted poll does (R206 to R208, R252). -/
def Node.accept (nd : Node) (bk : ObxBank) (k freq t m : Nat) (b : Bytes) : Node :=
  let newer := nd.newer b
  let n1 : Node := { nd with hclaim := pollClaim b, lastCyc := some (pollCyc b), sfail := false }
  let n2 : Node := if newer then { n1 with missed := 0, freshAt := m, fout := false, hsafe := false } else n1
  let n3 := if newer && bk.phaseNode k && !(pollPhv b) then n2.reference freq t b else n2
  if n3.fout || n3.hsafe then n3 else n3.commands bk k t b

/-! ### Latch and reply (R201, R210) -/

/-- NSTAT. -/
def Node.nstat (nd : Node) (diag : Bool) : Nat :=
  b2n nd.fout + 2 * b2n nd.sfail + 4 * b2n nd.passA + 8 * b2n nd.passB + 16 * b2n diag + 32 * b2n nd.hsafe

/-- CACK: bit c where the latest accepted command of channel c has been applied. -/
def Node.cack (nd : Node) : Nat :=
  (List.range nd.chans.length).foldl (fun a i => if (nd.chans.getD i NodeChan.reset).acked then a + 2 ^ i else a) 0

/-- The events that await a report, each reported in one reply, the oldest first (R201, R252). -/
def Node.events (nd : Node) (i : NodeIn) : List Nat := if i.nevt = 0 then nd.nevt else nd.nevt ++ [i.nevt]

/-- The reply body at the latch, without its seal. -/
def Node.latchBody (nd : Node) (bk : ObxBank) (k m off ver : Nat) (i : NodeIn) : Bytes :=
  let v3 := ver != 2
  let diag := v3 && i.diag.isSome && (bk.nflags k).testBit 0
  let nch := bk.nch k
  let head (ty n : Nat) : Bytes :=
    fhead ty ver k ++ leBytes 4 m ++ leBytes 4 (nd.nseq % 4294967296) ++ leBytes 8 nd.hclaim ++ leBytes 2 (nd.nstat diag)
      ++ leBytes 1 n ++ leBytes 1 (if v3 then Config.nodeVmax k else 0)
  if i.ready = false then head 0x11 0
  else
    head 0x10 nch
      ++ (if v3 then leBytes 2 ((nd.events i).headD 0) ++ leBytes 2 nd.cack ++ leBytes 4 off
          else leBytes 2 ((nd.events i).headD 0) ++ leBytes 6 0)
      ++ ((List.range nch).flatMap fun c => Bytes.pad (i.recs.getD c []) 8)
      ++ (match diag, i.diag with
          | true, some d => Bytes.pad d 24
          | _, _ => [])

/-- The latch at the first poll of the minor cycle that passes check 1 (R210). -/
def Node.latch (nd : Node) (bk : ObxBank) (k m off ver : Nat) (i : NodeIn) : Node :=
  if nd.latMcn = some m then nd
  else
    let n1 : Node := { nd with nseq := nd.nseq + 1 }
    { n1 with latMcn := some m, nulled := !i.ready, body := n1.latchBody bk k m off ver i,
              nevt := if i.ready then (n1.events i).tail else n1.events i }

/-- The reply on one channel (R205, R210). -/
def Node.replyFrame (nd : Node) (bk : ObxBank) (k : Nat) : Bytes :=
  nd.body ++ keySeal (Config.nodeReplyKey (bk.nkeyid k)) nd.body customOBN

/-- The marks of a minor cycle begin anew at its first poll. -/
def Node.enter (nd : Node) (m : Nat) : Node := if nd.latMcn = some m then nd else { nd with passA := false, passB := false }
def Node.passed (nd : Node) (ch : Chan) : Node :=
  match ch with
  | .a => { nd with passA := true }
  | .b => { nd with passB := true }

/-- A POLL at a node (R206 to R210). -/
def Node.poll (nd : Node) (bk : ObxBank) (k freq : Nat) (ch : Chan) (t : Nat) (f : Frame) (i : NodeIn) : Node × List ObxOut :=
  match nd.now t with
  | none => (nd, [])
  | some (m, off) =>
    if nd.check1 bk k 0x02 f = false then (nd, [])
    else
      let n0 : Node := { nd.enter m with ver := fver f.body }
      let n1 := if n0.pollOk m f.body then (n0.accept bk k freq t m f.body).passed ch else { n0 with sfail := true }
      let n2 := n1.latch bk k m off (fver f.body) i
      (n2, [.send (.nodeTx k ch) (n2.replyFrame bk k)])

/-- An NPOLL: answered, no command changes (R209). -/
def Node.npoll (nd : Node) (bk : ObxBank) (k : Nat) (ch : Chan) (t : Nat) (f : Frame) (i : NodeIn) : Node × List ObxOut :=
  match nd.now t with
  | none => (nd, [])
  | some (m, off) =>
    if nd.check1 bk k 0x03 f = false then (nd, [])
    else
      let n0 : Node := { nd.enter m with ver := fver f.body }
      let n1 : Node := { n0 with sfail := !(n0.check23 m f.body) }
      let n2 := n1.latch bk k m off (fver f.body) i
      (n2, [.send (.nodeTx k ch) (n2.replyFrame bk k)])

/-- An HPOLL that passes checks 1 to 3 puts every channel in its CODE 7 state (R209). -/
def Node.hpoll (nd : Node) (bk : ObxBank) (k : Nat) (ch : Chan) (t : Nat) (f : Frame) (i : NodeIn) : Node × List ObxOut :=
  match nd.now t with
  | none => (nd, [])
  | some (m, off) =>
    if nd.check1 bk k 0x04 f = false then (nd, [])
    else
      let n0 : Node := { nd.enter m with ver := fver f.body }
      let n1 : Node := if n0.check23 m f.body then { n0.safe with hsafe := true, sfail := false } else { n0 with sfail := true }
      let n2 := n1.latch bk k m off (fver f.body) i
      (n2, [.send (.nodeTx k ch) (n2.replyFrame bk k)])

/-- The count reaches FTO (R208). -/
def Node.expire (nd : Node) (bk : ObxBank) (k t : Nat) : Node :=
  match nd.now t with
  | none => nd
  | some _ => if bk.cls k ≠ 0 ∧ bk.fto k ≤ nd.count bk k t then { nd.safe with fout := true } else nd

/-- A valid CYC at a node (R191, R208, R230). The time base is set by the first one after a reset, and by one with FLAGS.FIRST, which
starts a new count of minor cycles (DEDUCED, assumption log 41). -/
def Node.cyc (nd : Node) (bk : ObxBank) (k freq : Nat) (ch : Chan) (t : Nat) (f : Frame) : Node :=
  if f.good 0x01 = false then nd
  else
    let b := f.body
    let d := bk.dkNom k ch
    let l8 := cycL b == 8
    match nd.now t with
    | some (m, _) =>
      if (cycFlags b).testBit 1 then
        { nd with base := some (t - d), mcn := cycMcn b, l8 := l8, cycAt := t, missed := nd.missed, freshAt := cycMcn b, latMcn := none }
      else if l8 = nd.l8 then { nd with cycAt := t }
      else { nd with cycAt := t, l8 := l8, missed := nd.missed + expectedPolls bk nd.l k nd.freshAt (m - 1), freshAt := m - 1 }
    | none =>
      { nd with base := some (t - d), mcn := cycMcn b, l8 := l8, cycAt := t, freshAt := cycMcn b, latMcn := none,
                psi := if nd.sense then nd.psi else Phi.synthetic freq (nominalTicks freq (cycInst b)) t }

/-- 1 s without a valid CYC clears HCLAIM (R230). -/
def Node.clearClaim (nd : Node) (t : Nat) : Node :=
  if nd.base.isSome = true ∧ nd.cycAt + 1000000000 ≤ t then { nd with hclaim := 0, lastCyc := none } else nd

/-- Ψ has reached commit indices (R253). -/
def Node.commit (nd : Node) (t : Nat) : Node :=
  let p := nd.phi t
  { nd with chans := nd.chans.map fun c =>
      match c.pend with
      | some (target, cmd) => if target ≤ p then ⟨c.last, cmd, none, true⟩ else c
      | none => c }

/-- The node's own supply sense input changes (R252, R253). -/
def Node.senseChange (nd : Node) (freq t : Nat) (valid : Bool) (tick mhz : Nat) : Node :=
  if valid = nd.sense then nd
  else
    let p := nd.phi t
    if valid then { nd with sense := true, psi := Phi.measured mhz (p + (tick % 1024 + 1024 - p % 1024) % 1024) t 0 }
    else { nd with sense := false, psi := Phi.synthetic freq p t, nevt := nd.nevt ++ [0x0303] }

/-- The link keys a node accepts an ECHO or ACYC under: those of the two module slots its schedule names (R205, R217 check
0x24). -/
def fromModule (bk : ObxBank) (b : Bytes) : Bool :=
  (List.range 8).any fun j =>
    let a := bk.syncSrc j
    decide (0xF000 ≤ a ∧ a < 0xF100) && linkOk (Config.farLinkKey a) b

/-- An ECHO at a node (R197): the delays are taken and an ECHOR goes back 300 ns later. -/
def Node.echo (nd : Node) (bk : ObxBank) (k : Nat) (ch : Chan) (f : Frame) : Node × List ObxOut :=
  let b := f.body
  if nd.base.isNone = true ∨ (f.good 0x40 && faddr b == k && fromModule bk b) = false then (nd, [])
  else
    ({ nd with dlyA := Bytes.le b 8 4, dlyB := Bytes.le b 0xC 4 },
     [.send (.nodeTx k ch) (echoFrame 0x41 k (Bytes.le b 4 4) (Bytes.le b 8 4) (Bytes.le b 0xC 4) (echoWin b)
        (Config.farLinkKey k))])

/-- An ACYC at a node: an ACYR with the content asked for (R198). -/
def Node.acyc (nd : Node) (bk : ObxBank) (k : Nat) (ch : Chan) (f : Frame) (content : Bytes) : List ObxOut :=
  if nd.base.isNone = true ∨ (f.good 0x60 && faddr f.body == k && fromModule bk f.body) = false then []
  else [.send (.nodeTx k ch) (linkSealed (Config.farLinkKey k) (fhead 0x61 (fver f.body) k ++ content.take 180))]

/-! ### Stars -/

def Star.now (s : Star) (t : Nat) : Option (Nat × Nat) :=
  match s.base with
  | none => none
  | some b => some (s.mcn + (t - b) / 4000000, (t - b) % 4000000)
/-- Ports as keys: module ports 0 and 1, node `k` as `k + 1`. -/
def SPort.key : SPort → Nat
  | .modPort p => p % 2
  | .nodePort k => k + 1
def Star.port (s : Star) (p : SPort) : StarPort := SMap.get StarPort.reset s.ports p.key
def Star.setPort (s : Star) (p : SPort) (x : StarPort) : Star := { s with ports := SMap.set StarPort.reset s.ports p.key x }

/-- A violation (R221): the third in a row disables the port. -/
def Star.violation (s : Star) (p : SPort) (v : StarVerdict) : Star :=
  let x := s.port p
  let n := x.viol + 1
  let s1 : Star := { s.setPort p { viol := n, disabled := x.disabled || decide (3 ≤ n) } with viols := s.viols + 1, verdict := v }
  match p with
  | .nodePort k => if 3 ≤ n ∧ s.reports.contains k = false then { s1 with reports := s1.reports ++ [k] } else s1
  | .modPort _ => s1

/-- The windows in which a node port may start a frame (R219), as (open, close) after MCS. -/
def Star.nodeWindows (s : Star) (bk : ObxBank) (k : Nat) : List (Nat × Nat) :=
  (if s.polled.contains k then [(bk.open' k, bk.open' k + 2500)] else [])
    ++ ((s.echoed.filter fun p => p.1 == k).map fun p => (2840000 + 10000 * p.2, 2850000 + 10000 * p.2))
    ++ (if s.acyced.contains k then [(3040000, 3880000)] else [])
    ++ (match bk.syncIdx k with
        | some j => [(2700000 + 10000 * j, 2710000 + 10000 * j)]
        | none => [])

/-- The address of the module whose port is the port of the highest claim (R220). -/
def Star.ownerAddr (s : Star) : Nat :=
  match s.granted, s.stby with
  | true, some (claim, _) => modAddr (claimOf claim).sid
  | _, _ => modAddr (claimOf s.hclaim).sid

/-- The spans in which the owner's port may not send (R220): the sync windows of other sources, the pair window and the grant windows,
and everything from 3,040 µs on. -/
def ownerBarred (bk : ObxBank) (src : Nat) : List (Nat × Nat) :=
  (((List.range 8).filter fun j => bk.syncSrc j != 0 && bk.syncSrc j != src).map fun j => (2700000 + 10000 * j, 2710000 + 10000 * j))
    ++ [(2780000, 2840000), (3040000, 4000000)]

/-- Where the owner's port may start a frame, with the start of the next span barred to it. -/
def ownerWindow (bk : ObxBank) (src off : Nat) : Option Nat :=
  let l := ownerBarred bk src
  if l.any fun w => decide (w.1 ≤ off ∧ off < w.2) then none
  else (l.find? fun w => decide (off < w.1)).map (·.1)

/-- Where the other module's port may start a frame (R220). -/
def otherWindow (bk : ObxBank) (b : Bytes) (off : Nat) : Option Nat :=
  if ftype b = 0x30 ∧ 2780000 ≤ off ∧ off < 2800000 then some 2800000
  else if ftype b = 0x20 ∧ 2700000 ≤ off ∧ off < 2780000 ∧ bk.syncSrc ((off - 2700000) / 10000) = faddr b then
    some (2710000 + (off - 2700000) / 10000 * 10000)
  else none

/-- What a star notes of a frame it forwards in minor cycle `m` (R219, R220, R222). -/
def Star.note (s : Star) (p m off t : Nat) (b : Bytes) : Star :=
  let ty := ftype b
  if ty = 0x02 ∨ ty = 0x03 ∨ ty = 0x04 then { s with polled := faddr b :: s.polled }
  else if ty = 0x40 ∧ faddr b < 0xF000 then { s with echoed := (faddr b, echoWin b) :: s.echoed }
  else if ty = 0x60 then { s with acyced := faddr b :: s.acyced }
  else if ty = 0x30 then { s with stby := some (cfClaim b, p) }
  else if ty = 0x01 then
    (if s.first = false then
       { s with first := true, base := some t, mcn := cycMcn b, hclaim := cycClaim b, owner := p, lastCyc := some (cycMcn b),
                receiving := none, polled := [], echoed := [], acyced := [] }
     else if s.hclaim ≤ cycClaim b ∧ off < 20000 then
       { s with hclaim := cycClaim b, owner := p, lastCyc := some m, granted := s.granted && cycClaim b == s.hclaim }
     else s)
  else s

/-- A frame offered to a port of a star from clock `t` on (R219 to R221). -/
def Star.filter (s : Star) (bk : ObxBank) (p : SPort) (t : Nat) (f : Frame) : Star :=
  let b := f.body
  let dur := (b.length + 12) * 8
  let good := f.ok && flenOk b
  let blocked : Star := { s with verdict := .blocked }
  if (s.port p).disabled then blocked
  else
    match s.now t with
    | none =>
      match p with
      | .nodePort _ => blocked
      | .modPort q =>
        if (ftype b = 0x01 ∨ ftype b = 0x32) ∧ good = true then
          { s.note q (cycMcn b) 0 t b with verdict := .forwarded }
        else blocked
    | some (m, off) =>
      let s0 : Star := if m = s.mcn then s else
        { s with base := s.base.map (· + 4000000 * (m - s.mcn)), mcn := m, polled := [], echoed := [], acyced := [] }
      let close : Option Nat := match p with
        | .nodePort k => ((s0.nodeWindows bk k).find? fun w => decide (w.1 ≤ off ∧ off < w.2)).map (·.2)
        | .modPort q => if q = s0.owner then ownerWindow bk s0.ownerAddr off else otherWindow bk b off
      match close with
      | none => s0.violation p .blocked
      | some c =>
        if c < off + dur then s0.violation p .truncated
        else
          let s1 : Star := { (if good then s0.setPort p { s0.port p with viol := 0 } else s0) with verdict := .forwarded }
          match p with
          | .modPort q => if good then s1.note q m off t b else s1
          | .nodePort _ => s1

/-- Two frames before the first CYC (R220): when they overlap, the one whose start came first is forwarded, on a tie the one with the
higher claim; the other is blocked. `p1` started at `t1`, the other port's frame at `t2`. -/
def coldClaim (b : Bytes) : Nat := if ftype b = 0x01 then cycClaim b else cfClaim b
def Star.arbitrate (s : Star) (p1 t1 : Nat) (f1 : Frame) (t2 : Nat) (f2 : Frame) : Star :=
  let dur (f : Frame) : Nat := (f.body.length + 12) * 8
  let isCold (f : Frame) : Bool := f.ok && flenOk f.body && (ftype f.body == 0x01 || ftype f.body == 0x32)
  if s.first || !(isCold f1 && isCold f2) then s
  else
    let firstWins := decide (t1 < t2) || (t1 == t2 && decide (coldClaim f2.body < coldClaim f1.body))
    let overlap := if t1 ≤ t2 then decide (t2 < t1 + dur f1) else decide (t1 < t2 + dur f2)
    let fwd (s : Star) (p t : Nat) (f : Frame) : Star :=
      { s.note p (cycMcn f.body) 0 t f.body with verdict := .forwarded,
                                                  receiving := some (p, coldClaim f.body, t + dur f, t) }
    if overlap then (if firstWins then fwd s p1 t1 f1 else fwd s (1 - p1) t2 f2)
    else if t1 ≤ t2 then (let a := fwd s p1 t1 f1
                          if a.first then a else fwd a (1 - p1) t2 f2)
    else (let a := fwd s (1 - p1) t2 f2
          if a.first then a else fwd a p1 t1 f1)

/-- GRANT in the grant window of a minor cycle (R203, R222): after two missed minor cycles in a row. -/
def Star.grant (s : Star) (ch : Chan) (t : Nat) : Star × List ObxOut :=
  match s.now t, s.stby, s.lastCyc with
  | some (m, off), some (claim, p), some last =>
    if 2 ≤ m - last ∧ 2800000 + 20000 * ch.idx ≤ off then
      ({ s with granted := true, owner := p },
       [.send (.starTx ch) (claimFrame 0x31 (starAddr ch) claim (m % 4294967296) (m - last) ((claimOf s.hclaim).epoch % 4294967296)
          (Config.farLinkKey (starAddr ch)))])
    else (s, [])
  | _, _, _ => (s, [])

/-- A star power-up (R220). -/
def Star.powerUp : Star := Star.reset

/-- An SMGT at a star (R198, R221, R349): ports enabled, the master port handed over; answered by an SRPT. The SRPT's layout is the
model's (assumption log 40). -/
def srptBytes (ch : Chan) (r : Srpt) : Bytes :=
  let b := fhead 0x51 3 (starAddr ch) ++ leBytes 1 (b2n r.ack) ++ leBytes 1 (min r.disabled.length 80) ++ leBytes 2 r.viols
    ++ (r.disabled.take 80).flatMap (leBytes 2)
  linkSealed (Config.farLinkKey (starAddr ch)) b
def Star.smgt (s : Star) (ch : Chan) (f : Frame) (m : Smgt) : Star × List ObxOut :=
  if (f.good 0x50 && linkOk (Config.farLinkKey (faddr f.body)) f.body) = false ∨ s.first = false then (s, [])
  else
    let s1 := m.enables.foldl (fun (a : Star) k => a.setPort (.nodePort k) StarPort.reset) s
    let s2 : Star := { s1 with reports := s1.reports.filter fun k => !(m.enables.contains k), viols := 0,
                               owner := if m.handover then 1 - s1.owner else s1.owner }
    (s2, [.send (.starTx ch) (srptBytes ch ⟨s2.reports, s1.viols, m.handover⟩)])

/-- An ECHO at a star (R197). -/
def Star.echo (s : Star) (ch : Chan) (f : Frame) : List ObxOut :=
  let b := f.body
  if (f.good 0x40 && linkOk (Config.farLinkKey (faddr b)) b) = false ∨ s.first = false then []
  else [.send (.starTx ch) (echoFrame 0x41 (starAddr ch) (Bytes.le b 4 4) (Bytes.le b 8 4) (Bytes.le b 0xC 4) (echoWin b)
          (Config.farLinkKey (starAddr ch)))]

/-- An STBY at a star (11_module_pair.md R336): the claim is kept and an ECHOR goes back to that port. -/
def Star.stbyFrame (s : Star) (ch : Chan) (p : Nat) (f : Frame) : Star × List ObxOut :=
  let b := f.body
  if (f.good 0x30 && linkOk (Config.farLinkKey (faddr b)) b) = false ∨ s.first = false then (s, [])
  else
    ({ s with stby := some (cfClaim b, p) },
     [.send (.starTx ch) (echoFrame 0x41 (starAddr ch) (cfMcn b) 0 0 0xFFFF (Config.farLinkKey (starAddr ch)))])

end Sys2Proof.Machine
end

