-- ==== Sys2Proof/Machine/PairOps.lean ====
section
/-!
DEFINITION. The pair: follow records, summaries, state copy, takeover, swap and the messages of the pair link
(11_module_pair.md R329 to R353; 12_faults_and_guarantees.md R360; 15_lifecycle_identity_update.md R419).
-/
namespace Sys2Proof.Machine

/-! ### Becoming STANDBY-COLD (R335, R337) -/

/-- What following leaves behind: the lanes stop before their next cycle and the module waits in STARTING (R338; DEDUCED, assumption log
52). -/
def Mod.toCold (m : Mod) : Mod :=
  let m1 : Mod := { m with role := roleCOLD, pair := m.pair.cold, ph := .idle, winAt := none, copy := none, outWait := none
                           lanes := m.lanes.map fun l => { l with voting := false, shadow := false, silent := false, offer := none, cut := none } }
  let m2 := (if m1.inService then m1.setService .starting else m1).gates
  { m2 with obx := { m2.obx with claim := m2.claimNum roleCOLD } }

def Mod.isStandby (m : Mod) : Bool := m.role == roleHOT || m.role == roleCOLD

/-- The standby diverges (R335): recorded, STANDBY-COLD; the third time within 24 h it stays so. -/
def Mod.diverge (m : Mod) : Mod :=
  let m1 := m.put (mkEvt 0x8004 m.src 7 0 (leBytes 8 m.cycle))
  { m1 with pair := m1.pair.diverge m1.clock }.toCold.ctrl ctrlSTATUS (m.claimNum roleCOLD)

/-! ### Following a cycle (R334, R246) -/

/-- Whether a lane finds both seals of a follow record good, with the partner's lane verification keys it holds. -/
def LaneSt.followSealOk (l : LaneSt) (f : FollowRec) : Bool :=
  let a := f.lane1 % 16
  let b := f.lane2 % 16
  decide (a < 3 ∧ b < 3) && a != b && f.seal1 == keySeal (l.keyOf 1 a) f.bytes customPAIR && f.seal2 == keySeal (l.keyOf 1 b) f.bytes customPAIR

/-- The replies that the standby holds. -/
def Mod.heldReplies (m : Mod) : List Item :=
  match m.running.head? with
  | some x => (m.lane x).rings.obxA.items ++ (m.lane x).rings.obxB.items ++ m.pair.keptItems
  | none => m.pair.keptItems

/-- The measured values of a record. -/
def FollowRec.meas (f : FollowRec) : Meas :=
  ((List.range 512).filter fun k => f.valid.getD k false).map fun k => (k, f.measured.getD k 0)

/-- The supply-cycle offset against the active reading, recomputed in every followed cycle. -/
def LaneSt.followPhase (l : LaneSt) (x : Lane) (t now phase ctime freq : Nat) : LaneSt × List Evt :=
  let o := l.opal.snapshot t now
  let r := o.offsetTo (phaseAdvance freq phase ctime now)
  let rest : Int := (phaseAdvance freq phase ctime now : Int) - (o.snapPhc : Int) - 1024 * r.1
  ({ l with opal := { o with offset := r.1 } },
   if 32 < r.2 then [mkEvt 0x5003 x.idx 7 5 (leBytes 1 x.idx ++ i32b r.1 ++ i32b rest)] else [])

/-- One lane takes a followed cycle: its items, the header and the measured values of the record. -/
def Mod.followLane (m : Mod) (c : CycleIn) (f : FollowRec) (its : List Item) (x : Lane) : Mod :=
  let am := f.meas
  let ph : Nat × Nat := match am.find 1 with
    | some v => (v, (am.find 2).getD 1)
    | none => (Bytes.le f.header 0x1C 4 * 1024 + Bytes.le f.header 0x20 2, 1)
  let p := (m.lane x).followPhase x m.clock (m.laneTime x) ph.1 f.cycleTime c.ph.freq
  let r := p.1.decode c x.idx its
  let l1 := r.1.fillMeasured m.full f.cycleTime ph.2 ph.1 am
  let named (i : Item) : Bool := f.refs.any fun q => q.ok i
  let drop (g : Ring) : Ring := { g with items := g.items.filter fun i => !named i }
  let l2 : LaneSt := { l1 with items := r.2, tcm := l1.tcm.wrBytes inImg (f.header.take 0x40)
                               rings := { l1.rings with obxA := drop l1.rings.obxA, obxB := drop l1.rings.obxB } }
  (m.setLane x l2).puts p.2

/-- The change commits of a followed cycle: a change through the standby waits for its swap (R140). -/
def Mod.followChange (m : Mod) : Mod :=
  match m.present.head? with
  | none => m
  | some x => ((m.lane x).inboxOf 0x42).foldl (fun (m : Mod) q =>
      let d := Bytes.sub q.2 0x10 48
      if Bytes.le q.2 4 1 = 2 ∧ 2 ≤ (m.stagedLanes d).length then
        let s := Bytes.le q.2 8 4
        let w : ChangeWait := ⟨Bytes.le q.2 0 4, 2, m.cycleTime + (if s = 0 then 300 else min s 3600) * 1000000000, d, q.1⟩
        { m with lanes := m.lanes.map fun l => if l.voting then { l with rt := { l.rt with change := some w } } else l }
      else m) m

/-- SUM against the module's own summary (R335): equal counts a match, different makes it diverge; NONE is not compared. The module
that reaches 16 matches in a row is STANDBY-HOT (R339). -/
def Mod.compareSums (m : Mod) : Mod :=
  match m.pair.ownSum, m.pair.peerSum with
  | some (c, own), some (d, peer) =>
    if c ≠ d then m
    else
      let m1 : Mod := { m with pair := { m.pair with ownSum := none, peerSum := none } }
      match peer with
      | none => m1
      | some v =>
        if own ≠ some v then m1.diverge
        else
          let n := m1.pair.matches' + 1
          let m2 : Mod := { m1 with pair := { m1.pair with matches' := n } }
          if n < 16 ∨ m2.role = roleHOT then m2
          else
            let m3 := ({ m2 with role := roleHOT, jade := m2.jade.firstRun
                                 obx := { m2.obx with claim := m2.claimNum roleHOT } } : Mod).setService (if 3 ≤ m2.voters.length then .full else .reduced)
            m3.ctrl ctrlSTATUS (m3.claimNum roleHOT)
  | _, _ => m

/-- The followed cycle runs in every standby lane on exactly the record's items; the lanes vote among themselves (R334). -/
def Mod.followRun (m : Mod) (f : FollowRec) (its : List Item) (excs : PerLane (Option ProgExc)) (ins : PerLane SliceIn) : Mod :=
  let m0 := if m.inService then m.boundary else m.exitLanes.rejoin
  if m0.isStandby = false ∨ m0.pair.follows = false then m0
  else
    let m1 : Mod := { m0 with
      cycle := f.cycle, cycleTime := f.cycleTime, cutAt := m0.clock, handed := true, minNow := []
      lanes := m0.lanes.map fun l => { l with cut := none, offer := none, rt := { l.rt with exc := none } } }
    let c := { m1.cycleIn with sstate := Bytes.le f.header 0x18 1 }
    let m2 := m1.running.foldl (fun (m : Mod) x => m.followLane c f its x) m1
    let m3 := m2.running.foldl (fun (m : Mod) x => m.modLane x fun l => l.programRun x.idx c (excs.get x)) m2
    let m4 := ({ m3.followChange with ph := .run, runAt := m3.clock } : Mod).judgeExc
    if m4.isStandby = false ∨ m4.pair.follows = false then m4
    else if m4.commonExc then m4.enterHeld 5
    else
      let m5 : Mod := { m4 with
        lanes := m4.lanes.mapL fun x l => if m4.running.contains x then { l with offer := some (l.summary c), offerAt := m4.clock } else l
        winAt := some m4.clock, ph := .window }
      let m6 : Mod := { m5 with pair := { m5.pair with following := some f.cycle, ackedFollow := f.cycle, waitFetch := none, keptItems := [] } }
      (m6.voteClose ins).compareSums

/-- A follow record taken as far as its references allow: FETCH for the first that is missing, FACK and the run when all are there. -/
def Mod.followTry (m : Mod) (f : FollowRec) (excs : PerLane (Option ProgExc)) (ins : PerLane SliceIn) : Mod :=
  match resolve f.refs m.heldReplies with
  | .error r =>
    let m1 := m.pairSend 0x14 r.bytes
    { m1 with pair := { m1.pair with waitFetch := some f, recordSentAt := m1.clock } }
  | .ok rs => (m.pairSend 0x12 (leBytes 8 f.cycle)).followRun f (rs ++ f.items) excs ins

/-- Whether a FETCH has gone unanswered for 200 µs. -/
def Mod.fetchLate (m : Mod) : Bool := m.pair.waitFetch.isSome && decide (m.pair.recordSentAt + 200000 ≤ m.clock)

/-- FOLLOW reaches the standby lanes. -/
def Mod.follow (m : Mod) (f : FollowRec) (excs : PerLane (Option ProgExc)) (ins : PerLane SliceIn) : Mod :=
  if m.isStandby = false ∨ m.pair.linkUp = false ∨ m.pair.follows = false ∨ m.service = .held then m
  else if m.pair.waitFetch.isSome then m.diverge
  else if 2 ≤ (m.running.filter fun x => !((m.lane x).followSealOk f)).length then m.diverge
  else m.followTry f excs ins

/-- FACK of a cycle: its sealed set is handed over (R333). -/
def Mod.fack (m : Mod) (c : Nat) : Mod :=
  if m.role ≠ roleACTIVE ∨ m.pair.fackFor ≠ some c then m
  else
    let m1 : Mod := { m with pair := { m.pair with fackFor := none, facked := some c, hotCycles := m.pair.hotCycles + 1 } }
    match m1.outWait with
    | some o => if o.cycle = c then m1.handOver o else m1
    | none => m1

/-- No FACK within 500 µs: hand-over, the partner made STANDBY-COLD, the event recorded (R333). -/
def Mod.fackTimeout (m : Mod) : Mod :=
  if m.role ≠ roleACTIVE ∨ m.pair.fackFor.isNone ∨ m.clock < m.pair.recordSentAt + 500000 then m
  else
    let m1 := ({ m with pair := m.pair.loseHot } : Mod).ctrl ctrlDEMOTE (m.claimNum roleACTIVE)
    let m2 := m1.put (mkEvt (Config.otherCode 8 1) m1.src 7 0 (leBytes 8 m.cycle))
    match m2.outWait with
    | some o => m2.handOver o
    | none => m2

/-- SUM of a cycle; `value` is none where it is flagged NONE. -/
def Mod.sum (m : Mod) (c : Nat) (value : Option Nat) : Mod :=
  if m.isStandby = false ∨ m.pair.follows = false ∨ m.pair.linkUp = false then m
  else if m.fetchLate then m.diverge
  else ({ m with pair := { m.pair with peerSum := some (c, value) } } : Mod).compareSums

/-- FETCH: the active module answers with the item in full. -/
def Mod.fetch (m : Mod) (r : ReplyRef) : Mod :=
  if m.role ≠ roleACTIVE then m
  else
    match m.pair.keptItems.find? r.ok with
    | some i => m.pairSend 0x15 i.bytes
    | none => m

/-- ITEM: the item fetched; the record that waited for it goes on. -/
def Mod.itemArrives (m : Mod) (i : Item) (excs : PerLane (Option ProgExc)) (ins : PerLane SliceIn) : Mod :=
  match m.pair.waitFetch with
  | none => m
  | some f =>
    if m.fetchLate then m.diverge
    else ({ m with pair := { m.pair with keptItems := m.pair.keptItems ++ [i], waitFetch := none } } : Mod).followTry f excs ins

/-- DELAY: dk and τ of nodes on a channel: (channel, node, dk, τ) (R336). -/
def Mod.delay (m : Mod) (es : List (Chan × Nat × Int × Int)) : Mod :=
  if m.isStandby = false ∨ m.pair.linkUp = false then m
  else
    { m with obx := es.foldl (fun (o : Obx) e =>
        let c := o.ch e.1
        o.setCh e.1 (c.setNode e.2.1 { c.node e.2.1 with dk := e.2.2.1, tau := e.2.2.2, known := true })) m.obx }

/-- STBY in the pair window of every minor cycle, on a channel (R336, R203, R330). -/
def Mod.stbySend (m : Mod) (ch : Chan) : Mod :=
  if m.isStandby = false ∨ m.obx.running = false ∨ m.obx.started = false then m
  else
    let a := modAddr m.sid
    let pcc := match (m.jade.img 2).running with
      | some b => b.pcc
      | none => 0
    let c := m.obx.ch ch
    let m1 : Mod := { m with obx := m.obx.setCh ch { c with echoes := c.echoes.put 0xFFFF (0, m.clock) } }
    m1.send (.opbex ch) (claimFrame 0x30 a (m.claimNum m.role) (m.obx.mcn % 4294967296) pcc 0 (Config.farLinkKey a))

/-! ### State copy (R338, R339) -/

/-- The conditions of R338 as far as both modules report them. -/
def Mod.pairMatches (m : Mod) (x : Lane) : Bool :=
  let l := m.lane x
  m.pair.linkUp && m.pair.present && (match m.pair.partner with
    | some p => p.pcc == l.pcc && p.station == l.image.digest && p.sps == spsValue l.sps && p.confirmed && p.lcState == m.jade.lc.code
    | none => false)

/-- The pages of the copy set that hold anything, with the region they lie in: one COPY frame each (assumption log 50). -/
def copyPages (region : Nat) (mem : Mem) : List (Nat × Nat × Bytes) :=
  let m1 := (mem.map fun c => c.1 / 4096).eraseDups
  m1.map fun p => (region, p, mem.bytes (4096 * p) 4096)
def Mod.sendCopy (m : Mod) (l : LaneSt) : Mod :=
  let inst := Mem.splice [] l.dram (instBase l.region) 0 0x2000000
  (copyPages 0 l.tcm ++ copyPages 1 inst ++ copyPages 2 l.beryl.sram).foldl (fun (m : Mod) p =>
    m.pairSend 0x16 (leBytes 1 p.1 ++ leBytes 4 p.2.1 ++ p.2.2)) m

/-- STANDBY_STATE_COPY. In the ACTIVE module the walk goes out and FOLLOW starts; in a STANDBY-COLD one `src`, the state of the source lane
at the boundary, is in every lane that has completed its start steps. -/
def Mod.standbyCopy (m : Mod) (src : LaneSt) : Mod :=
  if m.role = roleACTIVE then
    match m.voters.head? with
    | some x =>
      if m.inService = false ∨ m.pairMatches x = false ∨ m.ph ≠ .idle ∨ m.pair.follows = true ∨ (m.pair.partner.map fun p => (claimOf p.claim).role) ≠ some roleCOLD then m
      else
        let m1 := m.sendCopy (m.lane x)
        { m1 with pair := { m1.pair with following := some m1.cycle, hotCycles := 0 } }
    | none => m
  else
    let rs := m.ready.filter fun x => (m.lane x).grn.ctrl.getLsbD 2
    if m.role ≠ roleCOLD ∨ m.service ≠ .starting ∨ m.pair.heldCold = true ∨ rs.length < 2 ∨ (rs.all fun x => m.pairMatches x && ((m.lane x).confirmed || (m.lane x).sps == [])) = false then m
    else
      let take (l : LaneSt) : LaneSt :=
        let c := l.copyFrom src true
        { c with img := l.img, sps := l.sps, rings := l.rings, voting := true, shadow := false, silent := false
                 grn := { c.grn with ctrl := c.grn.ctrl ||| 1#32 }
                 opal := l.opal.bringUp m.phcfg m.clock m.now }
      { m with lanes := m.lanes.mapL fun x l => if rs.contains x then take l else l
               cycle := src.rt.cycle, cycleTime := src.rt.ctime
               pair := { m.pair with following := some src.rt.cycle, matches' := 0, ownSum := none, peerSum := none, waitFetch := none } }

/-! ### Taking the ACTIVE role (R341, R342, R345, R348) -/

/-- A gratuitous ARP for the pair's address on both KST ports (R348). -/
def Mod.sendArp (m : Mod) : Mod :=
  let mac := m.jade.setting m.sid 0x10
  let ip := (m.jade.setting m.sid 0x11).take 4
  let b : Bytes := List.replicate 6 0xFF ++ mac ++ beBytes 2 0x0806 ++ beBytes 2 1 ++ beBytes 2 0x0800 ++ leBytes 1 6 ++ leBytes 1 4
    ++ beBytes 2 1 ++ mac ++ ip ++ List.replicate 6 0 ++ ip
  let m1 := if m.kst.up.a then m.send .ethernet b else m
  if m.kst.up.b then m1.send .ethernet b else m1

/-- The lanes' books of a takeover: what was delivered and never named stays, the bridge lists are restated, the offset is frozen. -/
def LaneSt.takeOver (l : LaneSt) : LaneSt :=
  let keep (g : Ring) : Ring := { g with items := g.items.filter fun i => decide (l.rt.amc ≤ i.amc) }
  { l with rings := { l.rings with obxA := keep l.rings.obxA, obxB := keep l.rings.obxB }, rt := { l.rt with restate := true } }

/-- The sealed set of the last followed cycle, under the claim in force (R341). -/
def Mod.sealLast (m : Mod) : Mod :=
  let offers := m.present.map fun x => (x, (m.lane x).summary m.cycleIn)
  let q := m.outSet (vote offers) offers
  { m with obx := m.obx.takeSet m.cycle (q.1.frames, q.1.nulled) }

/-- The module becomes ACTIVE with claim `n`; `hot` keeps the state that was followed. -/
def Mod.lead (m : Mod) (n : Nat) (hot : Bool) : Mod :=
  let e := (claimOf n).epoch
  let m1 := m.setRole roleACTIVE
  let o := { m1.obx with claim := n, master := true, hpoll := !hot, handover := none, acks := PerChan.const false }
  let m2 : Mod := { m1 with
    obx := o, handed := true, outWait := none, stopCut := false, ph := .idle, winAt := none
    pair := { m1.pair.store e with following := none, partnerHot := false, hotCycles := 0, fackFor := none, waitFetch := none
                                   ownSum := none, peerSum := none, relinquished := false, lastChange := m1.now, overdueAt := none }
    lanes := if hot then m1.lanes.map fun l => if l.voting || l.shadow then l.takeOver else l else m1.lanes
    restart := if hot then m1.restart else { m1.restart with cold := true } }
  m2.sendArp

/-- GRANT (R340, R341, R345, R347). -/
def Mod.grant (m : Mod) (ch : Chan) (f : Frame) : Mod :=
  let b := f.body
  let known := f.good 0x31 && faddr b == starAddr ch && linkOk (Config.farLinkKey (starAddr ch)) b
  let own := m.claimNum m.role
  let old := match m.pair.partner with
    | some p => p.claim
    | none => 0
  if known = false ∨ m.isStandby = false ∨ cfClaim b ≠ own ∨ cfArg0 b < 2 ∨ m.service = .held then m
  else if m.pair.grantOk own (cfClaim b) (cfMcn b) (cfArg0 b) (cfArg1 b) m.obx.t0 = false then
    m.put (mkEvt (Config.otherCode 8 3) m.src 7 0 (leBytes 8 (cfClaim b) ++ leBytes 4 (cfArg0 b)))
  else
    let hot := m.role == roleHOT
    let e := m.pair.nextEpoch
    let n := (⟨e, roleACTIVE, m.sid⟩ : Claim).num
    let m0 := (m.endChange resABORTED)
    let m1 : Mod := { m0 with lanes := m0.lanes.map fun l => { l with staged := none, stagedSps := none, stageFail := none }
                              pair := { m0.pair with swap := none } }
    let m2 := (m1.lead n hot).put (mkEvt 0x8001 m.src 7 0 (leBytes 8 old ++ leBytes 8 n ++ leBytes 1 (if hot then 1 else 2)))
    let m3 : Mod := { m2 with pair := { m2.pair with changeKind := if hot then 1 else 2 } }
    if hot then m3.sealLast else m3

/-! ### Swap (R349 to R351, R360) -/

/-- The standby receives a swap offer and answers with its raised claim. -/
def Mod.swapOffer (m : Mod) (at' : Nat) : Mod :=
  if m.role ≠ roleHOT ∨ m.pair.linkUp = false ∨ m.service = .held ∨ m.rotation.isSome ∨ m.copy.isSome ∨ m.jade.session.isSome
    ∨ at' < m.obx.mcn + 3 then m
  else
    let e := m.pair.nextEpoch
    let n := (⟨e, roleACTIVE, m.sid⟩ : Claim).num
    ({ m with pair := { m.pair.store e with swap := some ⟨at', .accepted, n, false, false⟩ } } : Mod).ctrl ctrlACCEPT n

/-- The ACTIVE module receives swap accept. -/
def Mod.swapAccept (m : Mod) (n : Nat) : Mod :=
  match m.pair.swap with
  | some s =>
    if m.role = roleACTIVE ∧ s.stage = .offered ∧ (claimOf n).role = roleACTIVE ∧ (claimOf n).sid = partnerSid m.sid ∧ m.obx.claim < n then
      { m with pair := { m.pair.see n with swap := some { s with stage := .accepted, newClaim := n } } }
    else m
  | none => m

/-- The swap ends before its commit: cuts resume (R349). -/
def Mod.swapEnd (m : Mod) : Mod :=
  { m with pair := { m.pair with swap := none }, stopCut := false, obx := { m.obx with handover := none, acks := PerChan.const false } }

/-- SWAP_ABORT: a CTRL abort before the commit. -/
def Mod.swapAbort (m : Mod) : Mod :=
  match m.pair.swap with
  | some s => if s.stage = .committed then m else m.swapEnd
  | none => m

/-- A failed condition ends the swap with a CTRL abort. -/
def Mod.swapFail (m : Mod) : Mod := (m.ctrl ctrlABORT (m.claimNum m.role)).swapEnd

/-- SWAP_CUT_STOP at MCS(m − 2). -/
def Mod.swapCutStop (m : Mod) : Mod :=
  match m.pair.swap with
  | some s =>
    if m.role ≠ roleACTIVE ∨ m.obx.mcn + 2 < s.m then m
    else if s.stage = .accepted then { m with stopCut := true, pair := { m.pair with swap := some { s with stage := .cutStopped } } }
    else if s.stage = .offered then m.swapFail
    else m
  | none => m

/-- The swap commits when every star whose channel is up has acknowledged. -/
def Mod.swapCommit (m : Mod) : Mod :=
  match m.pair.swap with
  | some s =>
    let ok (ch : Chan) : Bool := (m.obx.ch ch).state != 2 || m.obx.acks.get ch
    if m.role = roleACTIVE ∧ s.stage = .cutStopped ∧ m.obx.handover.isSome = true ∧ (ok .a && ok .b) = true ∧ (m.obx.acks.a || m.obx.acks.b) = true then
      { m with pair := { m.pair with swap := some { s with stage := .committed } } }
    else m
  | none => m

/-- SWAP_STAR_HANDOVER at MCS(m − 1) + 3,000 µs: SMGT handover to each star. -/
def Mod.swapHandover (m : Mod) : Mod :=
  match m.pair.swap with
  | some s =>
    if m.role ≠ roleACTIVE ∨ m.obx.mcn + 1 < s.m ∨ s.stage ≠ .cutStopped then m
    else if m.ph ≠ .idle ∨ m.handed = false ∨ m.pair.linkUp = false ∨ m.pair.partnerHot = false then m.swapFail
    else
      let m1 : Mod := { m with obx := { m.obx with handover := some s.newClaim, acks := PerChan.const false } }
      [Chan.a, Chan.b].foldl (fun (m : Mod) ch =>
        let r := m.obx.sendSmgt ch m.sid (Config.farLinkKey (modAddr m.sid))
        ({ m with obx := r.1 } : Mod).obxOuts r.2) m1
  | none => m

/-- The SWAP record. -/
def swapEvt (src at' : Nat) (fault : Bool) : Evt := mkEvt 0x8002 src 7 0 (leBytes 8 at' ++ leBytes 1 (if fault then 2 else 1))

/-- A change through the standby takes effect with the swap in both modules (R140; DEDUCED, assumption log 51). -/
def Mod.swapChange (m : Mod) : Mod :=
  match (m.voters.filterMap fun x => (m.lane x).rt.change).head? with
  | some w => if w.way = 2 then
      let m1 := m.changeOver w
      { m1 with pair := { m1.pair with following := m.pair.following, partnerHot := m.pair.partnerHot } }
    else m
  | none => m

/-- SWAP_ROLE_CHANGE at MCS(m): the ACTIVE module becomes STANDBY-HOT, the standby ACTIVE. A swap that has not committed by then ends.
The standby knows a fault swap by the interface that the ACTIVE module reports lost. -/
def Mod.swapRoles (m : Mod) : Mod :=
  match m.pair.swap with
  | none => m
  | some s =>
    let fault := match m.pair.partner with
      | some p => p.health != 0
      | none => false
    if m.obx.mcn < s.m then m
    else if m.role = roleACTIVE then
      if s.stage ≠ .committed then m.swapFail
      else
        let m0 := m.swapChange
        let m1 := m0.setRole roleHOT
        let n := m1.claimNum roleHOT
        let m2 : Mod := { m1 with
          obx := { m1.obx with claim := n, master := false, handover := none, acks := PerChan.const false }, stopCut := false
          pair := { m1.pair with swap := none, following := some m1.cycle, matches' := 16, partnerHot := false, hotCycles := 0, fackFor := none
                                 ownSum := none, peerSum := none, lastChange := m1.now, changeKind := if s.fault then 4 else 3
                                 overdueAt := none } }
        (m2.put (swapEvt m2.src s.m s.fault)).gates
    else if m.role = roleHOT then
      let m0 := m.swapChange
      let m1 := (m0.lead s.newClaim true).put (swapEvt m.src s.m fault)
      let m2 : Mod := { m1 with pair := { m1.pair with swap := none, changeKind := if fault then 4 else 3, following := some m1.cycle
                                                       partnerHot := true } }
      m2.sealLast
    else m

/-- AUTOSWAP_START (R351): within 4 h of its instant, tried every 60 s. -/
def Mod.autoswap (m : Mod) : Mod :=
  let again := match m.pair.autoTriedAt with
    | some t => decide (t + 60 * secNs ≤ m.now) || decide (t < m.autoswapAt)
    | none => true
  if m.role ≠ roleACTIVE ∨ Bytes.nat (m.jade.setting m.sid 4) ≠ 1 ∨ m.now < m.autoswapAt ∨ m.autoswapAt + 4 * 3600 * secNs < m.now ∨ again = false then m
  else
    let m1 : Mod := { m with pair := { m.pair with autoTriedAt := some m.now } }
    if m1.swapBlocked false then m1 else m1.startSwap false false

/-- SWAP_OVERDUE (R351): 7 days without a change of roles, recorded again every 24 h. -/
def Mod.swapOverdue (m : Mod) : Mod :=
  let again := match m.pair.overdueAt with
    | some t => decide (t + dayNs ≤ m.clock)
    | none => true
  if m.role ≠ roleACTIVE ∨ m.now < m.pair.lastChange + 7 * dayNs ∨ again = false then m
  else ({ m with pair := { m.pair with overdueAt := some m.clock } } : Mod).put (mkEvt 0x8003 m.src 7 0 (leBytes 8 m.pair.lastChange))

/-- What is lost of the interfaces, as the bits of PairStatus.health (R360). -/
def Mod.lostIfc (m : Mod) : Nat :=
  let port := m.full && m.drp.mapOk && (List.range 8).any fun p => m.drp.brt.portUsed p && ((m.drp.ports.getD p DrPort.reset).state == 2)
  b2n (!m.kst.up.a && !m.kst.up.b) + 2 * b2n (m.full && m.lio.ctlflt) + 4 * b2n (m.full && m.drp.ctlflt) + 8 * b2n port
/-- FAULT_SWAP: something is lost that the partner reports healthy; every condition of R349 but FULL holds (R360). -/
def Mod.faultSwap (m : Mod) : Mod :=
  let peer := match m.pair.partner with
    | some p => p.health
    | none => 15
  if m.role ≠ roleACTIVE ∨ m.inService = false ∨ m.swapHindered false = true ∨ m.lostIfc = 0 ∨ m.lostIfc &&& peer ≠ 0 then m
  else m.startSwap true false

/-! ### Relinquish, demotion, higher claims (R346, R333, R330) -/

/-- RELINQUISH_ACK within 1 ms: the ACTIVE role is given up. -/
def Mod.relinquishAck (m : Mod) : Mod :=
  match m.pair.relinquishAt with
  | some t =>
    if m.role ≠ roleACTIVE ∨ m.service ≠ .held ∨ t + 1000000 < m.clock then m
    else
      let m1 := m.setRole 0
      { m1 with obx := { m1.obx with master := false, running := false, claim := 0 }, pair := { m1.pair.loseHot with relinquishAt := none } }
  | none => m
/-- RELINQUISH_ACK_TIMEOUT: the module stays ACTIVE in HELD. -/
def Mod.relinquishLate (m : Mod) : Mod :=
  match m.pair.relinquishAt with
  | some t => if m.clock < t + 1000000 then m else { m with pair := { m.pair with relinquishAt := none } }
  | none => m
/-- RELINQUISH_RECEIVED: condition 4 is met, the partner is told. -/
def Mod.relinquished (m : Mod) : Mod :=
  if m.role ≠ roleHOT ∨ m.pair.linkUp = false then m
  else ({ m with pair := { m.pair with relinquished := true } } : Mod).ctrl ctrlRELACK (m.claimNum m.role)
/-- STANDBY_DEMOTE, as a pair link fault. -/
def Mod.demote (m : Mod) : Mod := if m.isStandby = false ∨ m.pair.linkUp = false then m else m.toCold

/-- HIGHER_CLAIM_RECEIVED (R330). -/
def Mod.higherClaim (m : Mod) (claim : Nat) : Mod :=
  let seen : Mod := { m with pair := m.pair.see claim }
  if m.role ≠ roleACTIVE ∨ higherActive claim (m.claimNum roleACTIVE) = false then seen
  else
    let m1 : Mod := { seen with pair := seen.pair.loseHot }
    let m2 := (m1.put (mkEvt (Config.otherCode 8 2) m.src 7 0 (leBytes 8 claim))).enterHeld 0xA
    let m3 := m2.setRole roleCOLD
    let m4 : Mod := { m3 with obx := { m3.obx with master := false, claim := m3.claimNum roleCOLD } }
    let p := m4.lio.deenergise m4.can m4.clock
    if m4.full then ({ m4 with lio := p.1 } : Mod).puts p.2 else m4

/-! ### CTRL and the link (R337, R338, R351, R419, R492, R239) -/

/-- LC_STATE_PASS: the new state waits for its cycle. -/
def Mod.lcPass (m : Mod) (s : LcState) (cycle : Nat) (signer : Bytes) : Mod :=
  if m.pair.linkUp = false ∨ m.role = roleACTIVE then m else { m with lcWait := some ⟨s, cycle, signer⟩ }

/-- PAIR_CTRL_STATUS: what the partner reports. -/
def Mod.ctrlStatus (m : Mod) (s : PairStatus) : Mod :=
  let c := claimOf s.claim
  if m.pair.linkUp = false then m
  else if c.sid ≠ partnerSid m.sid then
    ({ m with pair := { m.pair.loseHot with present := false, partner := none } } : Mod).put (mkEvt (Config.otherCode 8 4) 3 7 0 (leBytes 1 c.sid))
  else
    let now := m.obx.net m.clock
    let p := m.pair.see s.claim
    let hot := m.role == roleACTIVE && c.role == roleHOT
    let p1 : Pair := { p with
      present := true, partner := some s, partnerHot := hot, hotCycles := if hot then p.hotCycles else 0
      following := if m.role = roleACTIVE ∧ c.role = roleCOLD ∧ p.partnerHot = true then none else p.following
      activeAt := if c.role = roleACTIVE ∧ s.transmitting = true then some now else p.activeAt
      lastChange := max p.lastChange s.lastChange }
    let tk := m.time
    let ver := match s.time with
      | some v => !tk.verified && decide (((v : Int) - (now : Int)).natAbs ≤ 1000000)
      | none => false
    let off := s.time.map fun v => (v : Int) - (m.clock : Int)
    let m1 : Mod := { m with pair := p1, time := if ver then { tk with verified := true, partnerTimeVerified := true, partnerOff := off } else { tk with partnerOff := off }
                             power := { m.power with carrier := s.carrier } }
    if m1.role = roleHOT ∧ s.lcState ≠ m.jade.lc.code then m1.toCold else m1

/-- PAIR_LINK_FAULT (R337). -/
def Mod.pairLinkFault (m : Mod) : Mod :=
  if m.pair.linkUp = false then m
  else
    let m1 : Mod := { m with pair := { m.pair with linkUp := false, retrainAt := some (m.clock + 10 * secNs) } }
    let m2 := m1.put (mkEvt (Config.otherCode 8 5) m1.src 6 0 [])
    if m2.isStandby then m2.toCold
    else
      let m3 := match m2.pair.swap with
        | some s => if s.stage = SwapStage.committed then m2 else m2.swapEnd
        | none => m2
      let late := m3.pair.fackFor
      { m3 with pair := { m3.pair.loseHot with fackFor := late } }
/-- PAIR_LINK_RETRAIN every 10 s. -/
def Mod.pairLinkRetrain (m : Mod) (ok : Bool) : Mod :=
  let due := match m.pair.retrainAt with
    | some t => decide (t ≤ m.clock)
    | none => true
  if m.pair.linkUp = true ∨ due = false ∨ m.power.good = false then m
  else if ok then { m with pair := { m.pair with linkUp := true, retrainAt := none } }
  else { m with pair := { m.pair with retrainAt := some (m.clock + 10 * secNs) } }

end Sys2Proof.Machine
end

