-- ==== Sys2Proof/Machine/ObxMod.lean ====
section
/-!
DEFINITION. The Opbex network of the module and its far ends, as its commands move them (07_opbex.md R187 to R236;
11_module_pair.md R330, R336).
-/
namespace Sys2Proof.Machine

/-- The module's own link key; every link key is taken as provisioned (assumption log 18). -/
def Mod.linkKey (m : Mod) : Bytes := Config.farLinkKey (modAddr m.sid)

/-- The outcome of an action of the shared controllers. -/
def Mod.obxDo (m : Mod) (r : Obx × List ObxOut) : Mod := ({ m with obx := r.1 } : Mod).obxOuts r.2

/-! ### Minor cycles and banks (R190, R202, R218) -/

/-- A bank switch has taken effect: requests fall, versions outside the new VSET return to PVER. -/
def LaneSt.afterSwitch (l : LaneSt) (bk : ObxBank) : LaneSt :=
  { l with obx := { l.obx with req := false }
           rt := { l.rt with ver := l.rt.ver.filter fun p => bk.vset.testBit p.2, verNext := l.rt.verNext.filter fun p => bk.vset.testBit p.2 } }
def Mod.switched (m : Mod) (bank : Bool) : Mod :=
  if m.obx.bank = bank then m else { m with lanes := m.lanes.map fun l => l.afterSwitch m.obx.bk }

/-- MCSn (R202): cycle points take their new definitions (R235). -/
def Mod.minorStart (m : Mod) : Mod :=
  let r := m.obx.minorStart m.clock m.sid (m.service == .full)
  let m1 := m.obxDo r
  if m1.obx.mcn = m.obx.mcn ∧ m1.obx.started = m.obx.started then m1
  else ({ m1 with lanes := m1.lanes.map fun l => { l with obx := l.obx.newCycle } } : Mod).switched m.obx.bank

/-- OBX_BANKSW written by a lane: REQ sets, WD withdraws; two requests set the boundary (R218). -/
def Mod.bankSwWrite (m : Mod) (x : Lane) (v : Word32) : Mod :=
  if (m.lane x).powered = false then m
  else (m.modLane x fun l => { l with obx := { l.obx with req := (l.obx.req || v.getLsbD 0) && !v.getLsbD 1 } }).bankRequests

/-- The boundary of a requested switch has come. -/
def Mod.bankSwitch (m : Mod) : Mod :=
  if m.obx.running = false ∨ m.obx.net m.clock < m.obx.mcs m.obx.nextN then m
  else
    let r := m.obx.doSwitch m.obx.nextN
    (m.obxDo (r.1, if r.2 then [.irq irqSWITCH] else [])).switched m.obx.bank

/-! ### Polls, replies, echoes, management -/

/-- A node's present version as the lanes hold it (R232). -/
def Mod.nodeVer (m : Mod) (k : Nat) : Nat := (m.lane ((m.voters.head?).getD .a)).nodeVer m.obx.bk k
def Mod.pollAssemble (m : Mod) (ch : Chan) (k : Nat) : Mod := { m with obx := m.obx.assemble ch k m.clock (m.nodeVer k) }
def Mod.pollSend (m : Mod) (ch : Chan) (k : Nat) : Mod := m.obxDo (m.obx.sendPoll ch k m.clock)
/-- A reply on a channel, and the copy that came on the other channel in the same instant, if any (R211). -/
def Mod.replyReceive (m : Mod) (ch : Chan) (f : Frame) (second : Option Frame) : Mod :=
  let m1 := m.obxDo (m.obx.reply ch m.clock f)
  match second with
  | some g => m1.obxDo (m1.obx.reply ch.other m1.clock g)
  | none => m1
def Mod.echoSend (m : Mod) (ch : Chan) (w : Nat) : Mod := m.obxDo (m.obx.sendEcho ch w m.clock m.sid m.linkKey)
def Mod.echorReceive (m : Mod) (ch : Chan) (f : Frame) : Mod := m.obxDo (m.obx.echor ch m.clock f (Config.farLinkKey (faddr f.body)))
def Mod.markerItem (m : Mod) (ch : Chan) : Mod := m.obxOuts (m.obx.marker ch m.clock)
def Mod.smgtSend (m : Mod) (ch : Chan) : Mod := m.obxDo (m.obx.sendSmgt ch m.sid m.linkKey)
/-- An SRPT; its acknowledgement commits a swap under way (R349). -/
def Mod.srptReceive (m : Mod) (ch : Chan) (f : Frame) (r : Srpt) : Mod :=
  (m.obxDo (m.obx.srpt ch m.clock f r (Config.farLinkKey (faddr f.body)))).swapCommit
def Mod.portReenable (m : Mod) (ch : Chan) (k : Nat) : Mod := { m with obx := m.obx.reenable ch k m.clock }

/-- The end of a minor cycle on a channel (R214). -/
def Mod.channelJudge (m : Mod) (ch : Chan) (light : Bool) : Mod :=
  let r := m.obx.judge ch light
  let m1 : Mod := { m with obx := r.1 }
  match r.2 with
  | some st => (m1.obxOuts ([.irq irqCHAN] ++ if st = 3 then [.err 6 7] else [])).put
      (mkEvt 0x4001 (obxSrc ch) 7 0 (leBytes 1 ch.idx ++ leBytes 1 st))
  | none => m1

/-! ### Far ends -/

def Mod.node (m : Mod) (k : Nat) : Node := SMap.get Node.reset m.nodes k
def Mod.setNode (m : Mod) (k : Nat) (n : Node) : Mod := { m with nodes := SMap.set Node.reset m.nodes k n }
/-- An action of node `k`. -/
def Mod.nodeDo (m : Mod) (k : Nat) (r : Node × List ObxOut) : Mod := (m.setNode k r.1).obxOuts r.2
def Mod.star (m : Mod) (ch : Chan) : Star := m.stars.get ch
def Mod.setStar (m : Mod) (ch : Chan) (s : Star) : Mod := { m with stars := m.stars.set ch s }
def Mod.starDo (m : Mod) (ch : Chan) (r : Star × List ObxOut) : Mod := (m.setStar ch r.1).obxOuts r.2

def Mod.nodePoll (m : Mod) (k : Nat) (ch : Chan) (f : Frame) (i : NodeIn) : Mod :=
  m.nodeDo k ((m.node k).poll m.obx.bk k m.phcfg.freq ch m.clock f i)
def Mod.nodeNpoll (m : Mod) (k : Nat) (ch : Chan) (f : Frame) (i : NodeIn) : Mod := m.nodeDo k ((m.node k).npoll m.obx.bk k ch m.clock f i)
def Mod.nodeHpoll (m : Mod) (k : Nat) (ch : Chan) (f : Frame) (i : NodeIn) : Mod := m.nodeDo k ((m.node k).hpoll m.obx.bk k ch m.clock f i)
def Mod.nodeExpire (m : Mod) (k : Nat) : Mod := m.setNode k ((m.node k).expire m.obx.bk k m.clock)
def Mod.nodeCyc (m : Mod) (k : Nat) (ch : Chan) (f : Frame) : Mod := m.setNode k ((m.node k).cyc m.obx.bk k m.phcfg.freq ch m.clock f)
def Mod.nodeClaimClear (m : Mod) (k : Nat) : Mod := m.setNode k ((m.node k).clearClaim m.clock)
def Mod.nodeCommit (m : Mod) (k : Nat) : Mod := m.setNode k ((m.node k).commit m.clock)
def Mod.nodeSense (m : Mod) (k : Nat) (valid : Bool) (tick mhz : Nat) : Mod :=
  m.setNode k ((m.node k).senseChange m.phcfg.freq m.clock valid tick mhz)
/-- An object controller resets (R230): no claim, no time base, no alignment; what its outputs last took stands. -/
def Mod.nodeReset (m : Mod) (k : Nat) : Mod := m.setNode k Node.reset
def Mod.nodeAcyc (m : Mod) (k : Nat) (ch : Chan) (f : Frame) (content : Bytes) : Mod :=
  m.obxOuts ((m.node k).acyc m.obx.bk k ch f content)

/-- A frame offered to a port of a star (R219 to R221); an STBY that passes is answered (R336). -/
def Mod.starFilter (m : Mod) (ch : Chan) (p : SPort) (f : Frame) : Mod :=
  let s := (m.star ch).filter m.obx.bk p m.clock f
  match p with
  | .modPort q => if s.verdict = .forwarded ∧ ftype f.body = 0x30 then m.starDo ch (s.stbyFrame ch q f) else m.setStar ch s
  | .nodePort _ => m.setStar ch s
/-- An STBY from module port `p` at the star of a channel (11_module_pair.md R336). -/
def Mod.stby (m : Mod) (ch : Chan) (p : Nat) (f : Frame) : Mod := m.starDo ch ((m.star ch).stbyFrame ch (p % 2) f)
def Mod.starGrant (m : Mod) (ch : Chan) : Mod := m.starDo ch ((m.star ch).grant ch m.clock)
/-- Two frames offered before the first CYC: `f1` on module port `p1` at `t1`, `f2` on the other port at `t2` (R220). -/
def Mod.starCold (m : Mod) (ch : Chan) (p1 t1 : Nat) (f1 : Frame) (t2 : Nat) (f2 : Frame) : Mod :=
  m.setStar ch ((m.star ch).arbitrate (p1 % 2) t1 f1 t2 f2)
def Mod.starSmgt (m : Mod) (ch : Chan) (f : Frame) (g : Smgt) : Mod := m.starDo ch ((m.star ch).smgt ch f g)
def Mod.starPower (m : Mod) (ch : Chan) : Mod := m.setStar ch Star.powerUp

/-- Who receives an ECHO. -/
def Mod.echoAt (m : Mod) (w : Who) (ch : Chan) (f : Frame) : Mod :=
  match w with
  | .mod => m
  | .node k => m.nodeDo k ((m.node k).echo m.obx.bk k ch f)
  | .star c => m.obxOuts ((m.star c).echo c f)

/-! ### Clock synchronisation (R223 to R226, R241) -/

def Mod.whoSync (m : Mod) : Who → Sync
  | .mod => m.obx.sync
  | .node k => (m.node k).sync
  | .star c => (m.star c).sync
def Mod.setWhoSync (m : Mod) (w : Who) (s : Sync) : Mod :=
  match w with
  | .mod => { m with obx := { m.obx with sync := s } }
  | .node k => m.setNode k { m.node k with sync := s }
  | .star c => m.setStar c { m.star c with sync := s }
def Mod.whoAddr (m : Mod) : Who → Nat
  | .mod => modAddr m.sid
  | .node k => k
  | .star c => starAddr c
/-- The participant's minor cycle and the offset in it; none without a time base. -/
def Mod.whoAt (m : Mod) : Who → Option (Nat × Int)
  | .mod => if m.obx.started then some (m.obx.mcn, m.obx.off m.clock) else none
  | .node k => ((m.node k).now m.clock).map fun p => (p.1, (p.2 : Int))
  | .star c => ((m.star c).now m.clock).map fun p => (p.1, (p.2 : Int))
/-- The participant's one-way delay from the star of a channel. -/
def Mod.whoDelay (m : Mod) (ch : Chan) : Who → Int
  | .mod => m.obx.dm ch
  | .node k => match ch with
    | .a => ((m.node k).dlyA : Int)
    | .b => ((m.node k).dlyB : Int)
  | .star _ => 0
def whoDest (w : Who) (ch : Chan) : Dest :=
  match w with
  | .mod => .opbex ch
  | .node k => .nodeTx k ch
  | .star c => .starTx c

/-- A source sends its SYNC in its window, on both channels; a star on its own (R223). -/
def Mod.syncSend (m : Mod) (w : Who) : Mod :=
  match m.whoAt w, m.obx.bk.syncIdx (m.whoAddr w) with
  | some (n, off), some j =>
    let s := m.whoSync w
    let chans : List Chan := match w with
      | .star c => [c]
      | _ => [.a, .b]
    let due (ch : Chan) : Int := (syncOff j : Int) - m.whoDelay ch w
    if chans.any fun ch => decide (off < due ch) then m
    else
      chans.foldl (fun (m : Mod) ch => m.send (whoDest w ch)
        (syncFrame (m.whoAddr w) (n % 4294967296) j (off - due ch) s.c s.rate (Config.farLinkKey (m.whoAddr w)))) m
  | _, _ => m

/-- A frame of the active module is seen on a channel: takeover condition 3 (R340). -/
def Mod.hear (m : Mod) (ch : Chan) (addr : Nat) : Mod :=
  if m.isStandby = false ∨ addr = modAddr m.sid ∨ addr < 0xF000 ∨ 0xF100 ≤ addr then m
  else match ch with
    | .a => { m with pair := { m.pair with seenA := some m.obx.mcn } }
    | .b => { m with pair := { m.pair with seenB := some m.obx.mcn } }

/-- A SYNC arrives at a participant (R224). -/
def Mod.syncReceive (m : Mod) (w : Who) (ch : Chan) (f : Frame) : Mod :=
  let b := f.body
  let j := Bytes.le b 8 1
  let a := faddr b
  match m.whoAt w with
  | none => m
  | some (_, off) =>
    if (f.good 0x20 && linkOk (Config.farLinkKey a) b) = false ∨ 7 < j ∨ m.obx.bk.syncSrc j ≠ a ∨ a = 0 ∨ a = m.whoAddr w then m
    else
      let d := off - (syncOff j : Int) - m.whoDelay ch w
      let m1 := m.setWhoSync w ((m.whoSync w).take j ch d)
      match w with
      | .mod => m1.hear ch a
      | _ => m1

/-- The steering term of the ACTIVE module (R241). -/
def Mod.steer (m : Mod) : Int :=
  if m.role ≠ roleACTIVE ∨ m.time.ptpValid = false ∨ m.time.ptpInconsistent = true ∨ 1000000 < m.time.ptpDelta.natAbs then 0
  else clampI 20 ((-m.time.ptpDelta).tdiv 64)

/-- A node's or star's own minor-cycle starts move with its clock. -/
def shiftBase (b : Option Nat) (c : Int) : Option Nat := b.map fun x => ((x : Int) - c).toNat

/-- OFFSET_CORRECTION: the fault-tolerant average of a participant, applied at 3,940 µs (R225). -/
def Mod.offsetCorrect (m : Mod) (w : Who) : Mod :=
  match m.whoAt w with
  | none => m
  | some (_, off) =>
    if off < 3940000 then m
    else
      let s := m.whoSync w
      let r := s.correct (m.obx.bk.syncIdx (m.whoAddr w))
      let st := match w with
        | .mod => if r.1.loss = 0 then m.steer else 0
        | _ => 0
      let s1 : Sync := { r.1 with ds := [], c := r.1.c + st, csum := r.1.csum + st, total := r.1.total + st }
      let step := s1.total - s.total
      match w with
      | .mod =>
        let m1 := (m.setWhoSync .mod s1).puts
          (r.2.map fun p => mkEvt 0x4004 7 7 0 (leBytes 2 (m.obx.bk.syncSrc p.1) ++ i32b p.2))
        if s1.ok = s.ok then m1
        else
          let m2 := m1.obxOuts ([.irq irqSYNC] ++ if s1.ok then [] else [.err 7 7])
          if s1.ok then m2 else m2.put (mkEvt (Config.otherCode 4 1) 7 7 0 (leBytes 1 s1.loss))
      | .node k => m.setNode k { m.node k with sync := s1, base := shiftBase (m.node k).base step }
      | .star c => m.setStar c { m.star c with sync := s1, base := shiftBase (m.star c).base step }

/-- RATE_CORRECTION at a major-cycle boundary (R226). -/
def Mod.rateCorrect (m : Mod) (w : Who) : Mod :=
  let l := match w with
    | .node k => (m.node k).l
    | _ => m.obx.majL
  m.setWhoSync w ((m.whoSync w).rateUp l)

/-! ### Versions, aggregates, cycle points (R232, R233, R235) -/

/-- NODE_VERSION_MOVE: node `k` moves to the version it was raised to, from the first minor cycle of the major cycle after. -/
def LaneSt.versionMove (l : LaneSt) (c : CycleIn) (k mcn : Nat) : LaneSt :=
  match l.rt.verNext.find k with
  | none => l
  | some v =>
    if mcn - mcn % c.majL ≤ l.rt.nevtFrom then l
    else { l with rt := { l.rt with ver := l.rt.ver.put k v, verNext := l.rt.verNext.del k }
                  obx := if l.nodeVer c.bk k = v then l.obx else { l.obx with irq := l.obx.irq ||| irqVER } }
def Mod.versionMove (m : Mod) (k : Nat) : Mod :=
  let c := m.cycleIn
  m.running.foldl (fun (m : Mod) x => m.modLane x fun l => l.versionMove c k m.obx.mcn) m

/-- AGGREGATE_REPORT: the lanes write the reports of the major cycle that has ended. -/
def Mod.aggregate (m : Mod) : Mod :=
  let c := m.cycleIn
  m.running.foldl (fun (m : Mod) x => m.modLane x fun l => l.majorTo c x.idx m.obx.mcn) m

/-- CYCLE_POINT: point `k` of a lane reaches its offset. -/
def Mod.cyclePoint (m : Mod) (x : Lane) (k : Nat) : Mod :=
  let off := m.obx.off m.clock
  let l := m.lane x
  if m.obx.started = false ∨ off < 0 ∨ 8 ≤ k ∨ l.powered = false ∨ l.obx.fires k m.obx.mcn m.obx.majL (off.toNat / 1000) = false then m
  else m.setLane x { l with obx := l.obx.fire k }

/-- OBX_CPk written (R235): from the next minor cycle. -/
def LaneSt.cpWrite (l : LaneSt) (k : Nat) (v : Word32) : LaneSt :=
  { l with obx := { l.obx with cpNext := l.obx.cpNext.set k (v &&& 0x8000FFFF#32).toNat } }
/-- A read of OBX_ERRCAP (R236). -/
def LaneSt.readObxErr (l : LaneSt) : LaneSt :=
  { l with readData := l.obx.errcap.toNat, obx := { l.obx with errcapLr := l.obx.errcap, errcap := 0 } }

/-! ### Cold start (R227 to R229, R238, R492) -/

/-- Opbex listening begins once two lanes have completed step 5 (R371 step 6). -/
def Mod.mayListen (m : Mod) : Mod :=
  let up (p : Proc) : Bool := m.procs.get p == .tested
  if m.service ≠ .starting ∨ m.ready.length < 2 ∨ (up .obxA || up .obxB) = false ∨ m.obx.listenSince.isSome ∨ m.obx.cold.isSome
      ∨ m.obx.running = true ∨ m.power.slotBad = true ∨ m.power.dupSid = true then m
  else
    let on (f : Bool) (c : ObxCh) : ObxCh := if f then { c with state := 1 } else c
    { m with obx := ({ m.obx with chA := on (up .obxA) m.obx.chA, chB := on (up .obxB) m.obx.chB } : Obx).listen m.clock }

/-- The lanes' counters are set once at the end of the listening time (R238). -/
def Mod.setTime (m : Mod) : Mod :=
  if m.time.source ≠ 0 then m
  else
    let tk := m.time
    let q : Nat × Int :=
      match tk.partnerOff with
      | some o => (2, o)
      | none =>
        if tk.ptpValid then (3, m.obx.sync.total - tk.ptpDelta)
        else (4, (tk.rtc : Int) - (tk.rtcAt : Int))
    { m with time := { tk with source := q.1, verified := decide (q.1 ≤ 3) }
             obx := { m.obx with sync := { m.obx.sync with total := q.2 } }
             lanes := m.lanes.map fun l => { l with tOff := q.2, slew := 0 } }

/-- The claim of a module in cold start (R228, R329). -/
def Mod.coldClaim (m : Mod) : Nat := (⟨m.pair.nextEpoch, 1, m.sid⟩ : Claim).num

/-- LISTEN_TIMEOUT: 40 ms without a valid CYC. -/
def Mod.listenTimeout (m : Mod) : Mod :=
  match m.obx.listenSince with
  | none => m
  | some s =>
    if m.clock < s + 40000000 ∨ m.service ≠ .starting then m
    else
      let m1 := m.setTime
      { m1 with obx := { m1.obx with listenSince := none, cold := some ⟨m.clock, 0, m.clock⟩, claim := m1.coldClaim } }

/-- COLD_SEND: the next COLD on both channels. -/
def Mod.coldSend (m : Mod) : Mod :=
  match m.obx.cold with
  | none => m
  | some c =>
    let p := coldPeriod m.sid
    if c.sent ≠ 0 ∧ m.clock < c.lastAt + 1000 * p then m
    else
      let b := claimFrame 0x32 (modAddr m.sid) m.obx.claim 0 p 0 m.linkKey
      ({ m with obx := { m.obx with cold := some { c with sent := c.sent + 1, lastAt := m.clock } } } : Mod).obxOuts (bothCh b)

/-- COLD_RECEIVE: a higher claim makes the module yield and listen; its epoch is seen. -/
def Mod.coldReceive (m : Mod) (f : Frame) : Mod :=
  let b := f.body
  if (f.good 0x32 && linkOk (Config.farLinkKey (faddr b)) b) = false ∨ (claimOf (cfClaim b)).sid = m.sid then m
  else
    let m1 : Mod := { m with pair := m.pair.see (cfClaim b) }
    match m.obx.cold with
    | none => m1
    | some _ =>
      if m.obx.claim < cfClaim b then
        { m1 with obx := ({ m1.obx with cold := none, yielded := true } : Obx).listen m.clock }
      else m1

/-- BECOME_MASTER: 20 ms and 16 COLD frames unopposed (R229). -/
def Mod.becomeMaster (m : Mod) : Mod :=
  match m.obx.cold with
  | none => m
  | some c =>
    if c.sent < 16 ∨ m.clock < c.since + 20000000 then m
    else
      let e := (claimOf m.obx.claim).epoch
      let n := (⟨e, roleACTIVE, m.sid⟩ : Claim).num
      let m1 : Mod := { m with obx := m.obx.lead n m.clock, pair := m.pair.store e }
      m1.setRole roleACTIVE

/-- CYC_RECEIVE: a valid CYC from the other module. -/
def Mod.cycReceive (m : Mod) (ch : Chan) (f : Frame) : Mod :=
  let b := f.body
  if f.good 0x01 = false ∨ (claimOf (cycClaim b)).sid = m.sid then m
  else
    let m1 : Mod := { m with pair := m.pair.see (cycClaim b) }
    if m1.role = roleACTIVE then m1.higherClaim (cycClaim b)
    else if m1.obx.listenSince.isSome ∨ m1.obx.cold.isSome then
      let m2 : Mod := { m1 with obx := m1.obx.adopt ch m.clock b }
      let off := m2.obx.sync.total
      let first := m2.time.source == 0
      let m3 : Mod := { m2 with time := if first then { m2.time with source := 1, verified := true } else m2.time
                                lanes := if first then m2.lanes.map fun l => { l with tOff := off, slew := 0 } else m2.lanes }
      let m4 := m3.setRole roleCOLD
      ({ m4 with obx := { m4.obx with claim := m4.claimNum roleCOLD } } : Mod).hear ch (modAddr (claimOf (cycClaim b)).sid)
    else if m1.isStandby then
      ({ m1 with obx := { m1.obx with majL8 := cycL b == 8 } } : Mod).hear ch (modAddr (claimOf (cycClaim b)).sid)
    else m1

end Sys2Proof.Machine
end

