-- ==== Sys2Proof/Machine/MoverMod.lean ====
section
/-!
DEFINITION. The transposer DMA, the scan and check unit and the clock crossings as parts of the lanes
(16_movers_checks_crossings.md R442 to R447, R450 to R457, R459, R460).
-/
namespace Sys2Proof.Machine

/-! ### The transposer DMA -/

/-- An action of a powered lane's transposer DMA on the memories it addresses. -/
def Mod.tdmDo (m : Mod) (x : Lane) (f : Tdm → LaneSpace → Tdm × LaneSpace) : Mod :=
  if (m.lane x).powered = false then m
  else m.modLane x fun l =>
    let r := f l.tdm l.space
    ({ l with tdm := r.1 } : LaneSt).setSpace r.2

/-- Setting TDM_CHn_CTRL.COMMIT. -/
def Tdm.arm (t : Tdm) (k : Nat) : Tdm := t.setChan k { t.chan k with commit := true }
def Mod.tdmCommit (m : Mod) (x : Lane) (k : Nat) : Mod := m.tdmDo x fun t s => (t.arm k, s)

/-- A record of 64 bytes as the Amber port takes it from a DRAIN channel (17_amber_recorder.md R461). -/
def recOf (b : Bytes) : Rec :=
  let o := Bytes.le b 0x14 4
  { code := Bytes.le b 0 2, flags := Bytes.le b 2 2, time := Bytes.le b 8 8, cycle := Bytes.le b 0x10 4, src := bits o 3 0, level := bits o 7 4,
    unitNo := bits o 15 8, transport := bits o 23 16, sid := bits o 31 24, param := Bytes.sub b 0x18 36 }

/-- The bytes of a wrap of a DRAIN channel pass its egress port: 0 the Amber port, 1 the Jade port (R442). -/
def Mod.drained (m : Mod) (x : Lane) (port : Nat) (b : Bytes) : Mod :=
  if port = 1 then m.send (.jade x) b
  else
    let rs := ((List.range (b.length / 64)).map fun k => recOf (Bytes.sub b (64 * k) 64)).filter fun r => r.code != 0
    { m with amber := rs.foldl (fun a r => a.offer { r with src := x.idx }) m.amber }

/-- What a DRAIN channel read since its last hand-over, when it has one now. -/
def LaneSt.drainWrap (l : LaneSt) (k : Nat) : Option (Nat × Bytes) :=
  let c := l.tdm.chan k
  if l.tdm.en = true ∧ c.st = .running ∧ c.active.opc = 8 ∧ c.active.swrap ≠ 0 then
    match l.space.block c.active.src (2 ^ c.active.swrap) with
    | .ok b => some (c.active.b, b)
    | .error _ => none
  else none

/-- TDM_HANDOVER (R443, R444). -/
def Mod.tdmHandover (m : Mod) (x : Lane) (k : Nat) : Mod :=
  let d := if (m.lane x).powered then (m.lane x).drainWrap k else none
  let m1 := m.tdmDo x fun t s => t.handover s k
  match d with
  | some (p, b) => m1.drained x p b
  | none => m1

def Mod.tdmPause (m : Mod) (x : Lane) (k n : Nat) : Mod := m.tdmDo x fun t s => t.pause s k n

/-- What the ports held back goes on to the lane (R445). -/
def LaneSt.flushPorts (l : LaneSt) : LaneSt := l.portWait.foldl (fun (l : LaneSt) p => l.take p.1 p.2) { l with portWait := [] }

def Mod.tdmResume (m : Mod) (x : Lane) (k : Nat) : Mod := (m.tdmDo x fun t s => t.resume s k).modLane x LaneSt.flushPorts
/-- TDM_ABORT by ABORT, or by a power-down (R446). -/
def Mod.tdmAbort (m : Mod) (x : Lane) (k n : Nat) (powerDown : Bool) : Mod :=
  (m.tdmDo x fun t s => t.abort s k n (if powerDown then 7 else 8)).modLane x LaneSt.flushPorts
/-- TDM_ERROR: an error the memories' contents do not decide. An uncorrectable error on a read of lane memory silences the lane (R447,
R356). -/
def Mod.tdmError (m : Mod) (x : Lane) (k n code : Nat) : Mod :=
  if (m.lane x).powered = false ∨ ((m.lane x).tdm.chan k).st ≠ .running then m
  else
    let m1 := m.tdmDo x fun t s => let r := t.run s k n; (r.1.fail k code, r.2)
    if code = 1 then m1.silence x 0xC 2 9 else m1
def Mod.tdmCtrl (m : Mod) (x : Lane) (v : Word32) : Mod := (m.tdmDo x fun t s => t.ctrlWrite s v).modLane x LaneSt.flushPorts
/-- A read of TDM_ERRCAP (R460). -/
def LaneSt.readTdmErr (l : LaneSt) : LaneSt :=
  { l with readData := l.tdm.errcap.toNat, tdm := { l.tdm with errcapLr := l.tdm.errcap, errcap := 0 } }

/-! ### The scan and check unit -/

def Mod.scuDo (m : Mod) (x : Lane) (f : Scu → LaneSpace → Scu × LaneSpace) : Mod :=
  if (m.lane x).powered = false then m
  else m.modLane x fun l =>
    let r := f l.scu l.space
    ({ l with scu := r.1 } : LaneSt).setSpace r.2

def Mod.scuGo (m : Mod) (x : Lane) : Mod := m.scuDo x fun u s => (u.fgGo, s)
/-- SCU_FG_DONE: the words that ECC corrected or gave up on during the job (R452), and the job's own result. -/
def Mod.scuDone (m : Mod) (x : Lane) (ecc : List Nat) : Mod :=
  m.scuDo x fun u s => if u.fgBusy then (u.ecc ecc).fgDone s else (u, s)
def Mod.scuBgEnable (m : Mod) (x : Lane) : Mod := m.scuDo x fun u s => ({ u with ctrl := u.ctrl ||| 1 }, s)
/-- SCU_BG_PASS. A block of the station region that differs from its expected value is what SCAN_MISMATCH acts on (R48). -/
def Mod.scuBgPass (m : Mod) (x : Lane) (ecc : List Nat) : Mod :=
  m.scuDo x fun u s => if u.bgen then ((u.ecc ecc).bgDone s, s) else (u, s)
/-- A read of SCU_ERRCAP (R460). -/
def LaneSt.readScuErr (l : LaneSt) : LaneSt :=
  { l with readData := l.scu.errcap.toNat, scu := { l.scu with errcapLr := l.scu.errcap, errcap := 0 } }

/-! ### Clock crossings (R456, R457) -/

def Mod.modLioView (m : Mod) (x : Lane) (f : LioLane → LioLane) : Mod :=
  { m with lio := { m.lio with lanes := m.lio.lanes.set x (f (m.lio.lanes.get x)) } }
def Mod.modBrgView (m : Mod) (x : Lane) (f : BrgLane → BrgLane) : Mod :=
  { m with drp := { m.drp with lanes := m.drp.lanes.set x (f (m.drp.lanes.get x)) } }
def Mod.modAmbPort (m : Mod) (x : Lane) (f : AmbPort → AmbPort) : Mod :=
  { m with amber := { m.amber with port := m.amber.port.set x (f (m.amber.port.get x)) } }

/-- The code "clock-crossing timeout" in the error capture of the lane's unit at crossing `k`. -/
def Mod.crossCapture (m : Mod) (x : Lane) (k : Nat) : Mod :=
  match k with
  | 0 | 1 => m.modLane x fun l => l.grnError 3 3
  | 2 | 3 => m.modLane x fun l => { l with obx := l.obx.error 8 3 }
  | 4 | 10 => m.modLane x fun l => { l with tdm := { l.tdm with errcap := captureErr l.tdm.errcap 5 3 } }
  | 5 => m.modLioView x fun v => { v with errcap := captureErr v.errcap 8 3 }
  | 6 => m.modBrgView x fun v => { v with errcap := captureErr v.errcap 8 3 }
  | 8 => m.modAmbPort x fun p => p.error 6 3
  | 9 => m.modLane x fun l => { l with opal := l.opal.error 7 3 }
  | _ => m.modLane x fun l => l.lctError 3 3

/-- The link at crossing 0 (to the next lane) or 1 (to the previous lane) in the order A, B, C, A. -/
def linkAt (x : Lane) (k : Nat) : LinkName :=
  match x, k with
  | .a, 0 => .ab
  | .a, _ => .ca
  | .b, 0 => .bc
  | .b, _ => .ab
  | .c, 0 => .ca
  | .c, _ => .bc

/-- The reaction on the region whose clock stopped, at crossing `k` of lane `x` (R456). -/
def Mod.farStopped (m : Mod) (x : Lane) (k : Nat) : Mod :=
  match k with
  | 0 | 1 => m.linkFault (linkAt x k)
  | 2 => m.channelJudge .a false
  | 3 => m.channelJudge .b false
  | 4 => { m with kst := { m.kst with up := PerChan.const false } }
  | 5 => if m.full then ({ m with lio := m.lio.stop.1 } : Mod).puts m.lio.stop.2 else m
  | 6 => if m.full then { m with drp := m.drp.stop } else m
  | 7 => { m with jade := { m.jade with mode := .off } }
  | 8 => { m with amber := { m.amber with ready := false } }
  | 10 => m.pairLinkFault
  | _ => m

/-- CROSSING_TIMEOUT at crossing `k` of lane `x`: `laneStopped` says that the clock that stopped is the lane's. A crossing held in reset
never times out (R457). -/
def Mod.crossTimeout (m : Mod) (x : Lane) (k : Nat) (laneStopped : Bool) : Mod :=
  if 12 ≤ k ∨ (m.lane x).powered = false ∨ (m.lane x).lct.inReset.getLsbD k = true then m
  else if laneStopped then m.silence x 0xB 3 8
  else
    let note (l : LaneSt) : LaneSt := ({ l with lct := { l.lct with xto := l.lct.xto ||| BitVec.ofNat 32 (1 <<< k) } } : LaneSt).lctRaise lctXTO
    ((m.modLane x note).crossCapture x k).farStopped x k

/-- CROSSING_RESET: both halves of crossing `k` of lane `x` are held in reset, or leave it together once both clocks run (R457). -/
def Mod.crossReset (m : Mod) (x : Lane) (k : Nat) (held : Bool) : Mod :=
  if 12 ≤ k then m
  else m.modLane x fun l =>
    let b : Word32 := BitVec.ofNat 32 (1 <<< k)
    { l with lct := { l.lct with inReset := if held then l.lct.inReset ||| b else l.lct.inReset &&& ~~~b } }

end Sys2Proof.Machine
end

