-- ==== Sys2Proof/Machine/AmberMod.lean ====
section
/-!
DEFINITION. The recorder as part of the module (17_amber_recorder.md R463 to R467, R471, R472).
-/
namespace Sys2Proof.Machine

/-- AMBER_RECORD_WRITE: the next record of the intake buffers, once the recorder is ready (R463, R465). -/
def Mod.amberTake (m : Mod) : Mod := if m.amber.ready then { m with amber := m.amber.takeOne m.now m.sid } else m

/-- AMBER_INTAKE_REFUSE: a record that finds its buffer full, or no taker, is refused and counted (R463). -/
def Mod.amberRefuse (m : Mod) (e : Evt) : Mod := if m.amber.takes (min e.src 9) then m else m.put e

/-- RATE_WINDOW_CLOSE of one pair (code, source), 1 s after its first record, where records were suppressed (R467). -/
def Mod.rateClose (m : Mod) (code src : Nat) : Mod :=
  match m.amber.win code src with
  | none => m
  | some w => if m.amber.ready = false ∨ w.suppressed = 0 ∨ m.now < w.start + secNs then m else { m with amber := m.amber.closeWin w m.now m.sid }

/-- AMBER_RECOVERY at start (R465). -/
def Mod.amberRecover (m : Mod) : Mod :=
  if m.power.good = false ∨ m.amber.ready = true then m else { m with amber := m.amber.recover m.now m.sid }

/-- The last page of a private region (R466, R471). -/
def privPages : Nat := 0x82

/-- AMBER_WINDOW_WRITE: a word at an offset of the window, in the page of AMB_PPAGE, while PWEN is set (R466, R471); it is in MRAM when the
command ends, so PBUSY falls in it. -/
def Mod.windowWrite (m : Mod) (x : Lane) (off : Nat) (v : Word32) : Mod :=
  let p := m.amber.port.get x
  let page := p.ppage.toNat
  if (m.lane x).powered = false ∨ p.ctrl.getLsbD 1 = false ∨ 0x8000 ≤ off ∨ off % 4 ≠ 0 then m
  else if privPages < page then m.modAmbPort x fun p => p.error 4 3
  else (m.modLane x fun l => { l with mram := l.mram.wr (0x8000 * page + off) 4 v.toNat }).modAmbPort x fun p => p.raise 2

/-- A read of AMB_ERRCAP (R472). -/
def Mod.ambReadErr (m : Mod) (x : Lane) : Mod :=
  let p := m.amber.port.get x
  if (m.lane x).powered = false then m
  else (m.modAmbPort x fun p => { p with errcapLr := p.errcap, errcap := 0 }).modLane x fun l => { l with readData := p.errcap.toNat }

end Sys2Proof.Machine
end

