-- ==== Sys2Proof/Machine/TimeMod.lean ====
section
/-!
DEFINITION. Module time, the time sources and the lanes' Opal shares, as their commands move them (08_phase_and_time.md R237 to
R257).
-/
namespace Sys2Proof.Machine

/-- LANE_TIME_CORRECT: the lane counter slews towards the network time base, at most 100 ns per µs of the minor cycle (R237). -/
def Mod.laneTimeCorrect (m : Mod) (x : Lane) : Mod :=
  let l := m.lane x
  if l.powered = false ∨ m.obx.running = false then m
  else
    let d := clampI 400000 (m.obx.sync.total - l.tOff)
    m.setLane x { l with tOff := l.tOff + d, slew := d }

/-- The real-time clock's count. -/
def Mod.rtcNow (m : Mod) : Nat := m.time.rtc + (m.clock - m.time.rtcAt)
/-- RTC_SAVE (R239). -/
def Mod.rtcSave (m : Mod) : Mod := if m.power.good then { m with time := { m.time with rtcSaved := m.rtcNow } } else m

def ptpEvt (state : Nat) (d : Int) : Evt := mkEvt 0x5002 3 7 0 (leBytes 1 state ++ leBytes 8 (d % 18446744073709551616).toNat)

/-- PTP_MEASURE once per major cycle (R239, R241): `delta` is module time less PTP time in ns, `port` the port whose master is used. -/
def Mod.ptpMeasure (m : Mod) (valid : Bool) (delta : Int) (port : Nat) : Mod :=
  let t := m.time
  if m.jade.mode ≠ .running then m
  else if valid = false then { m with time := { t with ptpValid := false, ptpGood := 0, ptpBad := 0 } }
  else
    let near := decide (delta.natAbs ≤ 1000000)
    let good := if near then min 16 (t.ptpGood + 1) else 0
    let bad := if near then 0 else min 16 (t.ptpBad + 1)
    let inc := if t.ptpInconsistent then decide (good < 16) else decide (16 ≤ bad)
    let m1 : Mod := { m with time := { t with ptpValid := true, ptpDelta := delta, ptpPort := port % 2, ptpGood := good, ptpBad := bad
                                              ptpInconsistent := inc, verified := t.verified || (decide (16 ≤ good) && t.source != 0) } }
    if inc && !t.ptpInconsistent then m1.put (ptpEvt 2 delta) else m1

/-! ### Opal (R245, R247, R255 to R257) -/

/-- OPAL_ZERO_CROSSING: the evaluation at an expected zero crossing; every change of mode and every step is recorded. -/
def Mod.opalCrossing (m : Mod) (x : Lane) (amp1 mhz1 ph1 amp2 mhz2 ph2 : Nat) : Mod :=
  let l := m.lane x
  if l.powered = false ∨ l.opal.en = false then m
  else
    let r := l.opal.crossing m.clock amp1 mhz1 (ph1 % 1024) amp2 mhz2 (ph2 % 1024)
    let m1 := m.setLane x { l with opal := r.1 }
    if r.2.changed || r.2.stepped.isSome then m1.put (mkEvt 0x5001 x.idx 7 5 (leBytes 1 r.1.mode ++ leBytes 2 (r.2.stepped.getD 0))) else m1

/-- OPL_CTRL.EN set (R245). -/
def Mod.opalEnable (m : Mod) (x : Lane) : Mod :=
  let l := m.lane x
  if l.powered = false ∨ l.opal.en = true then m else m.setLane x { l with opal := l.opal.enable m.clock (m.laneTime x) }

/-- OPL_SNAP written (R256). -/
def Mod.opalSnap (m : Mod) (x : Lane) : Mod := m.laneDo x fun l => { l with opal := l.opal.snapshot m.clock (m.laneTime x) }

/-- OPL_SHCOMMIT written (R255). -/
def Mod.opalCommit (m : Mod) (x : Lane) (tgt : Nat) (go : Bool) : Mod :=
  if go then m.laneDo x fun l => { l with opal := l.opal.armShadow m.clock tgt } else m

/-- OPAL_HANDOVER: tick 0 of the target supply cycle. -/
def Mod.opalHandover (m : Mod) (x : Lane) : Mod :=
  let o := (m.lane x).opal
  if (o.cycleAt m.clock + 65536 - o.shTgt) % 65536 < 32768 then m.laneDo x fun l => { l with opal := l.opal.handover } else m

/-- A read of OPL_PHC_HI holds the low word of Φ until it is read (R256). -/
def Mod.opalReadHi (m : Mod) (x : Lane) : Mod :=
  m.laneDo x fun l =>
    let p := l.opal.phiAt m.clock
    { l with readData := p / 4294967296 % 4294967296, opal := { l.opal with loHeld := some (p % 4294967296) } }

/-- A read of OPL_ERRCAP (R257). -/
def LaneSt.readOplErr (l : LaneSt) : LaneSt :=
  { l with readData := l.opal.errcap.toNat, opal := { l.opal with errcapLr := l.opal.errcap, errcap := 0 } }

end Sys2Proof.Machine
end

