-- ==== Sys2Proof/Machine/RegMod.lean ====
section
/-!
DEFINITION. Writes to registers that have no command of their own, by their access types (00_scope.md R8, R9), and items that reach the
module's delivery paths (01_one_logic_cycle.md R18, R19).
-/
namespace Sys2Proof.Machine

/-- A W1C register written (R8). -/
def w1c (old v : Word32) : Word32 := old &&& ~~~v
/-- The bits `mask` of a register written, the others kept (R8). -/
def wfld (mask old v : Word32) : Word32 := (old &&& ~~~mask) ||| (v &&& mask)
/-- Half `hi` of a value of two words written; `w` bits of the high word exist. -/
def whalf (hi : Bool) (w old : Nat) (v : Word32) : Nat :=
  if hi then old % 2 ^ 32 + v.toNat % 2 ^ w * 2 ^ 32 else old / 2 ^ 32 * 2 ^ 32 + v.toNat

/-- Beryl (03_route_admission.md "Registers"): the bases only while BRL_CTRL.EN = 0; CTRL, CMD, REQ_PROD and RSP_CONS have commands. -/
def BerylRegs.write (r : BerylRegs) (off : Nat) (v : Word32) : BerylRegs :=
  let off0 := r.ctrl.getLsbD 0 = false
  match off with
  | 0x0C => { r with irq := w1c r.irq v }
  | 0x10 => { r with irqEn := v &&& 0x7F }
  | 0x18 => if off0 then { r with stnLo := v &&& 0xFF000000 } else r
  | 0x1C => if off0 then { r with stnHi := v &&& 3 } else r
  | 0x20 => if off0 then { r with wrkLo := v &&& 0xFF000000 } else r
  | 0x24 => if off0 then { r with wrkHi := v &&& 3 } else r
  | 0x28 => { r with reqRing := v &&& 0xFFFFF00F }
  | 0x34 => { r with rspRing := v &&& 0xFFFFF00F }
  | 0x40 => { r with nowLo := v }
  | 0x44 => { r with nowHi := v }
  | 0x58 => { r with winPage := v &&& 7 }
  | _ => r

/-- Garnet (R185): KEYLOCK and the key words have commands. -/
def Grn.write (g : Grn) (off : Nat) (v : Word32) : Grn :=
  match off with
  | 0x04 => { g with ctrl := wfld 3 g.ctrl v }
  | 0x0C => { g with irq := w1c g.irq v }
  | 0x10 => { g with irqEn := v &&& 0x3F }
  | _ => g

/-- Opal (R255, R256): OPL_CFG only while EN = 0; the windows go to their shadows. Setting EN, SNAP and SHCOMMIT have commands. -/
def Opal.write (o : Opal) (off : Nat) (v : Word32) : Opal :=
  let win : Word32 := v &&& 0x800FFFFF
  match off with
  | 0x04 => { o with ctrl := (o.ctrl &&& v &&& 1) ||| (v &&& 2) }
  | 0x0C => { o with irq := w1c o.irq v }
  | 0x10 => { o with irqEn := v &&& 0x1F }
  | 0x14 => if o.en then o else { o with cfg := v &&& 0x03FF0037 }
  | 0x44 => { o with shadow := { o.shadow with cwin := v &&& 0xFFFFF } }
  | 0x48 => { o with shadow := { o.shadow with s0 := win } }
  | 0x4C => { o with shadow := { o.shadow with s1 := win } }
  | 0x50 => { o with shadow := { o.shadow with s2 := win } }
  | 0x54 => { o with shadow := { o.shadow with s3 := win } }
  | _ => o

/-- The shadow registers of a channel (R444, R459). -/
def TdmDesc.write (d : TdmDesc) (off : Nat) (v : Word32) : TdmDesc :=
  match off with
  | 0x08 => { d with op := v &&& 0x011F1F0F }
  | 0x0C => { d with count := v &&& 0xFFFFFF }
  | 0x10 => { d with src := whalf false 2 d.src v }
  | 0x14 => { d with src := whalf true 2 d.src v }
  | 0x18 => { d with dst := whalf false 2 d.dst v }
  | 0x1C => { d with dst := whalf true 2 d.dst v }
  | 0x20 => { d with geom := v }
  | 0x24 => { d with mask := v }
  | _ => d

/-- The transposer DMA (R459): TDM_CTRL and the bits of TDM_CHn_CTRL have commands. -/
def Tdm.write (t : Tdm) (off : Nat) (v : Word32) : Tdm :=
  if off = 0x0C then { t with irq := w1c t.irq v }
  else if off = 0x10 then { t with irqEn := v &&& 0xFFFF }
  else if 0x100 ≤ off ∧ off < 0x300 then
    let k := (off - 0x100) / 0x40
    t.setChan k { t.chan k with shadow := (t.chan k).shadow.write ((off - 0x100) % 0x40) v }
  else t

/-- The scan and check unit (R460): the foreground registers only while FGBUSY = 0; GO and setting BGEN have commands. -/
def Scu.write (u : Scu) (off : Nat) (v : Word32) : Scu :=
  let fg (r : Scu) : Scu := if u.fgBusy then u else r
  match off with
  | 0x04 => { u with ctrl := u.ctrl &&& v &&& 1 }
  | 0x0C => { u with irq := w1c u.irq v }
  | 0x10 => { u with irqEn := v &&& 0xF }
  | 0x14 => fg { u with start := whalf false 2 u.start v }
  | 0x18 => fg { u with start := whalf true 2 u.start v }
  | 0x1C => fg { u with len := v &&& 0xFFFFFF }
  | 0x20 => fg { u with cfg := v &&& 0x71F }
  | 0x24 => fg { u with seq := whalf false 32 u.seq v }
  | 0x28 => fg { u with seq := whalf true 32 u.seq v }
  | 0x2C => fg { u with exp := whalf false 2 u.exp v }
  | 0x30 => fg { u with exp := whalf true 2 u.exp v }
  | 0x34 => fg { u with out := whalf false 2 u.out v }
  | 0x38 => fg { u with out := whalf true 2 u.out v }
  | 0x44 => { u with bgTab := v &&& 0x1FFFFFFF }
  | 0x48 => { u with bgRate := v &&& 0xFFFF }
  | _ => u

/-- The Amber port (R471). -/
def AmbPort.write (p : AmbPort) (off : Nat) (v : Word32) : AmbPort :=
  match off with
  | 0x04 => { p with ctrl := v &&& 3 }
  | 0x0C => { p with irq := w1c p.irq v }
  | 0x10 => { p with irqEn := v &&& 7 }
  | 0x20 => { p with ppage := v &&& 0xFF }
  | _ => p

/-- The local I/O view (R291): SNAP, DO2 and FSTART have commands. -/
def LioLane.write (l : LioLane) (off : Nat) (v : Word32) : LioLane :=
  match off with
  | 0x04 => { l with ctrl := v &&& 3 }
  | 0x0C => { l with irq := w1c l.irq v }
  | 0x10 => { l with irqEn := v &&& 0x7F }
  | 0x28 => { l with chsel := v &&& 0x7F }
  | 0x30 => { l with outsel := v &&& 0x3F }
  | 0x40 => { l with do0 := v }
  | 0x44 => { l with do1 := v }
  | _ => l

/-- The Opbex view (R234): BANKSW and the cycle points have commands. -/
def ObxLane.write (l : ObxLane) (off : Nat) (v : Word32) : ObxLane :=
  match off with
  | 0x04 => { l with ctrl := v &&& 3 }
  | 0x0C => { l with irq := w1c l.irq v }
  | 0x10 => { l with irqEn := v &&& 0x3F }
  | 0x30 => { l with nodesel := v &&& 0x7FF }
  | _ => l

/-- The bridge view (R327): BRG_MAP only while UNPEN = 0; GO has a command. -/
def BrgLane.write (l : BrgLane) (off : Nat) (v : Word32) : BrgLane :=
  let stopped := l.ctrl.getLsbD 1 = false
  match off with
  | 0x04 => { l with ctrl := v &&& 3 }
  | 0x0C => { l with irq := w1c l.irq v }
  | 0x10 => { l with irqEn := v &&& 0x3F }
  | 0x14 => if stopped then { l with mapLo := v &&& 0xFFFFF000 } else l
  | 0x18 => if stopped then { l with mapHi := v &&& 3 } else l
  | 0x1C => { l with unpSrc := v &&& 0xFFFFFF }
  | 0x20 => { l with unpCtl := v &&& 0xFFF }
  | 0x24 => { l with portsel := v &&& 7 }
  | 0x2C => { l with devsel := v &&& 0xFF }
  | _ => l

/-- Lane control (R458): TEST and CMPDIS only while the lane does not vote, LCT_INJ only while TEST = 1; SILCLR and GO have commands. -/
def LaneSt.lctWrite (l : LaneSt) (off : Nat) (v : Word32) : LaneSt :=
  let c := l.lct
  match off with
  | 0x04 => if l.voting then l else { l with lct := { c with ctrl := v &&& 3 }, comparator := !v.getLsbD 1 && !l.split }
  | 0x0C => { l with lct := { c with irq := w1c c.irq v } }
  | 0x10 => { l with lct := { c with irqEn := v &&& 0xF } }
  | 0x18 => if c.ctrl.getLsbD 0 then { l with lct := { c with inj := v &&& 0x3FFF } } else l
  | _ => l

/-- REGISTER_WRITE in lane `x`: reserved offsets and read-only registers ignore it (R8, R9); the local I/O and the bridge exist in a JW3X-F
only. -/
def Mod.regWrite (m : Mod) (x : Lane) (u : RegUnit) (off : Nat) (v : Word32) : Mod :=
  if (m.lane x).powered = false then m
  else
    match u with
    | .brl => m.modLane x fun l => { l with beryl := { l.beryl with regs := l.beryl.regs.write off v } }
    | .grn => m.modLane x fun l => { l with grn := l.grn.write off v }
    | .opl => m.modLane x fun l => { l with opal := l.opal.write off v }
    | .tdm => m.modLane x fun l => { l with tdm := l.tdm.write off v }
    | .scu => m.modLane x fun l => { l with scu := l.scu.write off v }
    | .amb => m.modAmbPort x fun p => p.write off v
    | .lio => if m.full then (m.modLioView x fun l => l.write off v).gates else m
    | .obx => m.modLane x fun l => { l with obx := l.obx.write off v }
    | .brg => if m.full then m.modBrgView x fun l => l.write off v else m
    | .lct => m.modLane x fun l => l.lctWrite off v

/-- ITEM_RECEIVE: an item, stamped once with the arrival minor cycle, goes to every lane's ring (R18, R19). -/
def Mod.itemReceive (m : Mod) (p : Path) (cls num seq : Nat) (kind : ItemKind) (body : Bytes) : Mod :=
  if p.classes.contains cls = true ∧ p.kinds.contains kind = true then m.deliver p ⟨m.amc, cls, num, seq, kind, body⟩ else m

end Sys2Proof.Machine
end

