-- ==== Sys2Proof/Machine/CycleCmds.lean ====
section
/-!
DEFINITION. The commands of a logic cycle (01_one_logic_cycle.md; 06_lanes_and_voting.md).
-/
namespace Sys2Proof.Machine

/-- ITEM_RECEIVE (R18). An interface controller receives an item, stamps it and writes it once into the receive ring of each of the three
lanes. -/
def execItemReceive (p : Path) (cls num seq : Nat) (kind : ItemKind) (body : Bytes) (t : Nat) (s : State) : Result :=
  s.at t fun m => m.itemReceive p cls num seq kind body

/-- INPUT_CUT (R20). A voting lane that has finished its tail starts the next cycle's cut and sends its per-path item counts to the other
voting lanes. -/
def execInputCut (x : Lane) (t : Nat) (s : State) : Result := s.at t fun m => m.inputCut x

/-- CUT_WAIT_TIMEOUT (R20). Items missing below a path's cut count have not arrived within 20 µs of the cut, so the lane is silent for the
cycle. -/
def execCutWaitTimeout (x : Lane) (t : Nat) (s : State) : Result := s.at t fun m => m.cutTimeout x

/-- INPUT_CONSENSUS (R163). Once the CUT, IDG and MEAS frames of the peer lanes have arrived, the lane agrees exact blocks and measured
values and forms the agreed input image. -/
def execInputConsensus (excs : PerLane (Option ProgExc)) (t : Nat) (s : State) : Result := s.at t fun m => m.inputConsensus excs

/-- WCET_OVERRUN (R99). A program runs longer than three times its WCET_NS, and the runtime stops it as a program exception. -/
def execWcetOverrun (x : Lane) (e : ProgExc) (t : Nat) (s : State) : Result := s.at t fun m => m.wcetOverrun x e

/-- OUTPUT_OFFER (R170). A voting lane completes its output image, offers its vote summary and starts speculative sealing; the first offer
opens the vote window. -/
def execOutputOffer (x : Lane) (sealOk : Bool) (t : Nat) (s : State) : Result := s.at t fun m => m.outputOffer x sealOk

/-- VOTE_WINDOW_CLOSE (R24). The vote window closes when all summaries are complete, or 20 µs after opening, and the slices vote every
unit. -/
def execVoteWindowClose (ins : PerLane SliceIn) (t : Nat) (s : State) : Result := s.at t fun m => m.windowClose ins

/-- PHASE_OVERRUN (R17). A cycle phase exceeds its bound, and each voting lane writes an OVERRUN record. -/
def execPhaseOverrun (phase len : Nat) (t : Nat) (s : State) : Result := s.at t fun m => m.phaseOverrun phase len

/-- CYCLE_HANDOVER_TIMEOUT (R17). No sealed set has been handed over within 10 ms of the cut in FULL, or 20 ms in REDUCED, and the module
enters HELD. -/
def execCycleHandoverTimeout (t : Nat) (s : State) : Result := s.at t fun m => m.handTimeout

end Sys2Proof.Machine
end

