-- ==== Sys2Proof/Machine/DraipMod.lean ====
section
/-!
DEFINITION. The Draip bridge and the lanes' Jade ports as part of the module (10_older_interfaces_and_bridging.md R294 to R314, R327,
R328).
-/
namespace Sys2Proof.Machine

/-- An action of the bridge; a JW3X-C has none (00_scope.md). -/
def Mod.drpDo (m : Mod) (f : Drp → Drp × List DrOut) : Mod :=
  if m.full then ({ m with drp := (f m.drp).1 } : Mod).drOuts (f m.drp).2 else m

def Mod.drpVisit (m : Mod) (d : Nat) : Mod := m.drpDo fun b => b.visit d m.clock
def Mod.drpAnswer (m : Mod) (d : Nat) (tel : Bytes) : Mod := m.drpDo fun b => b.answer d m.clock tel
def Mod.drpMissing (m : Mod) (d : Nat) : Mod := m.drpDo fun b => b.missing d
def Mod.drpOrphans (m : Mod) (d : Nat) : Mod := m.drpDo fun b => b.orphans d m.clock

/-- DRAIP_HOLDBACK_EXPIRE: the lanes drop held-back telegrams older than 2 Draip cycles by the agreed cycle time (R303). -/
def Mod.drpHoldback (m : Mod) (d : Nat) : Mod :=
  if m.full = false then m
  else m.running.foldl (fun (m : Mod) x => m.modLane x fun l => { l with drp := l.drp.expire l.brt d l.rt.ctime }) m

/-- BRG_UNP_CTL.GO with N = `n` in lane `x`: the first `n` accepted telegrams in key order pass the map (R305); panel requests join the
request list (R306). -/
def Mod.unpackGo (m : Mod) (x : Lane) (n : Nat) : Mod :=
  let v := m.drp.lanes.get x
  if m.full = false ∨ v.ctrl.getLsbD 1 = false ∨ (m.lane x).powered = false then m
  else
    let l := m.lane x
    let all := sortKey (fun a : AccTel => ⟨a.amc, 4, a.num, a.seq⟩) l.drp.accepted
    let up := unpackAll l.brt l.drp l.tcm (all.take n)
    let pq := ({ l with tcm := up.1, drp := { l.drp with accepted := all.drop n } } : LaneSt).panel up.2
    let l1 : LaneSt := { pq.1 with rt := { pq.1.rt with requests := pq.1.rt.requests ++ pq.2 } }
    ({ m with drp := { m.drp with lanes := m.drp.lanes.set x { v with irq := v.irq ||| brgUNP, unpCtl := BitVec.ofNat 32 (n % 4096) } } } : Mod).setLane x l1

/-- BRIDGE_LOCKSTEP_FAULT (R309), with the record that R356 asks for. -/
def Mod.drpStop (m : Mod) : Mod :=
  if m.full = false ∨ m.drp.ctlflt = true then m
  else
    let m1 : Mod := { m with drp := m.drp.stop }
    m1.put (mkEvt (Config.otherCode 7 4) 6 3 0 (leBytes 4 (m1.drp.lanes.a.errcap).toNat))

/-- A read of BRG_ERRCAP in a lane's view (R328). -/
def Mod.drpReadErr (m : Mod) (x : Lane) : Mod :=
  if m.full = false ∨ (m.lane x).powered = false then m
  else
    let v := m.drp.lanes.get x
    ({ m with drp := { m.drp with lanes := m.drp.lanes.set x { v with errcapLr := v.errcap, errcap := 0 } } } : Mod).modLane x fun l =>
      { l with readData := v.errcap.toNat }

/-! ### The Jade port (R314) -/

/-- Whether a lane may read from Jade: only in STARTING and in the tail (R314). -/
def Mod.jadeReads (m : Mod) (x : Lane) : Bool :=
  (m.lane x).powered && (m.lane x).released && (m.inService = false || m.ph == .idle)

/-- A read across the Jade port: served at once with `ans`, or waiting for RETRY. -/
def Mod.jadeRead (m : Mod) (x : Lane) (ans : Option Nat) : Mod :=
  if m.jadeReads x = false ∨ (m.lane x).lct.read.isSome then m
  else m.modLane x fun l =>
    match ans with
    | some v => { l with readData := v }
    | none => { l with lct := { l.lct with read := some (0, m.clock) } }

/-- RETRY reaches the reader 2 µs after the read: it repeats the read, served now with `ans` or turned away again; after 64 answers RETRY
the read ends with an error. -/
def Mod.jadeRetry (m : Mod) (x : Lane) (ans : Option Nat) : Mod :=
  match (m.lane x).lct.read with
  | none => m
  | some r =>
    if m.clock < r.2 + 2000 then m
    else m.modLane x fun l =>
      let c : Lct := { l.lct with retry := min 0xFFFF (l.lct.retry + 1) }
      if 64 ≤ r.1 + 1 then
        (({ l with lct := { c with read := none, rderr := min 255 (c.rderr + 1) } } : LaneSt).lctRaise lctJPORT).lctError 2 3
      else
        match ans with
        | some v => { l with lct := { c with read := none }, readData := v }
        | none => { l with lct := { c with read := some (r.1 + 1, m.clock + 1000) } }

end Sys2Proof.Machine
end

