-- ==== Sys2Proof/Machine/DraipCmds.lean ====
section
/-!
DEFINITION. The commands of the Draip bridge and the Jade ports (10_older_interfaces_and_bridging.md).
-/
namespace Sys2Proof.Machine

/-- DRAIP_VISIT (R296). In each Draip cycle, the bridge visits each used device with its command, polls and side-band exchange. -/
def execDraipVisit (d : Nat) (t : Nat) (s : State) : Result := s.at t fun m => m.drpVisit d

/-- DRAIP_ANSWER_RECEIVE (R298). The bridge receives a device answer and delivers telegram, status or log items. -/
def execDraipAnswerReceive (d : Nat) (tel : Bytes) (t : Nat) (s : State) : Result := s.at t fun m => m.drpAnswer d tel

/-- DRAIP_ANSWER_TIMEOUT (R296). No answer has started after TRESP plus two character times, so the answer is missing. -/
def execDraipAnswerTimeout (d : Nat) (t : Nat) (s : State) : Result := s.at t fun m => m.drpMissing d

/-- DRAIP_ORPHAN (R302). An announced telegram has not arrived within 2 Draip cycles, so the event is delivered as an orphan. -/
def execDraipOrphan (d : Nat) (t : Nat) (s : State) : Result := s.at t fun m => m.drpOrphans d

/-- DRAIP_HOLDBACK_EXPIRE (R303). A lane discards held-back telegrams of a non-NORMAL device after 2 Draip cycles. -/
def execDraipHoldbackExpire (d : Nat) (t : Nat) (s : State) : Result := s.at t fun m => m.drpHoldback d

/-- BRG_UNP_GO (R305). Setting BRG_UNP_CTL.GO starts the unpack of the cut's accepted telegrams through the map. -/
def execBrgUnpGo (x : Lane) (n : Nat) (t : Nat) (s : State) : Result := s.at t fun m => m.unpackGo x n

/-- BRIDGE_LOCKSTEP_FAULT (R309). The bridge comparator finds a mismatch, so the bridge stops and CTLFLT is set. -/
def execBridgeLockstepFault (t : Nat) (s : State) : Result := s.at t fun m => m.drpStop

/-- BRG_ERRCAP_READ (R328). A read of BRG_ERRCAP returns and clears it and copies it into BRG_ERRCAP_LR. -/
def execBrgErrcapRead (x : Lane) (t : Nat) (s : State) : Result := s.at t fun m => m.drpReadErr x

/-- JADE_PORT_READ (R314). A lane reads across its Jade port and is answered, or answered RETRY. -/
def execJadePortRead (x : Lane) (ans : Option Nat) (t : Nat) (s : State) : Result := s.at t fun m => m.jadeRead x ans

/-- JADE_READ_RETRY (R314). A RETRY answer arrives 2 µs after the read, and the reader repeats the read or ends it with an error after 64.
-/
def execJadeReadRetry (x : Lane) (ans : Option Nat) (t : Nat) (s : State) : Result := s.at t fun m => m.jadeRetry x ans

end Sys2Proof.Machine
end

