-- ==== Sys2Proof/Machine/KstMod.lean ====
section
/-!
DEFINITION. Keaber Safe Transport as part of the module: the ports, and the association events of the lanes
(10_older_interfaces_and_bridging.md R315 to R325, R502).
-/
namespace Sys2Proof.Machine

/-- A PDU of a known peer is stamped and delivered (R316). -/
def Mod.kstStamped (m : Mod) (body : Bytes) : Mod :=
  match m.kst.stamp body with
  | none => m
  | some r => m.deliver .kst ⟨m.amc, r.cls, r.anum, pduSeq body, .pdu, body⟩

/-- KST_FRAME_RECEIVE: a PRP frame from source `src` with sequence `seq` on a port; the duplicate is discarded, the other's PDU is stamped
and delivered (R315, R316). -/
def Mod.kstFrame (m : Mod) (port : Chan) (src seq : Nat) (body : Bytes) : Mod :=
  if m.kst.up.get port = false ∨ m.kst.fresh src seq = false then m
  else ({ m with kst := m.kst.take src seq } : Mod).kstStamped body

/-- PRP_SUPERVISION: a supervision frame leaves every 2 s on the ports that are up (R315); what it holds is PRP's own. -/
def Mod.prpSupervision (m : Mod) : Mod :=
  if m.kst.superDue m.clock = false then m
  else
    let one (m : Mod) (c : Chan) : Mod := if m.kst.up.get c then m.send .ethernet (Config.prpSupervision m.sid) else m
    let m1 := one (one m .a) .b
    { m1 with kst := { m1.kst with superAt := some m.clock } }

/-- An event of the lanes' association tables, in every lane that runs. -/
def Mod.kstLanes (m : Mod) (f : Lane → LaneSt → LaneSt) : Mod := m.running.foldl (fun (m : Mod) x => m.modLane x (f x)) m

/-- CONNECT_SEND by the agreed cycle time (R320). -/
def Mod.kstConnectSend (m : Mod) (a : Nat) : Mod := m.kstLanes fun _ l => { l with kst := l.kst.connectSend a l.rt.ctime }
/-- KST_TMAX_EXPIRE by the agreed cycle time (R321). -/
def Mod.kstExpire (m : Mod) (a : Nat) : Mod := m.kstLanes fun _ l => { l with kst := l.kst.expire a l.rt.ctime }

/-- A LINK_STATE record that waits is written into the input record of its element (R325). -/
def LaneSt.linkWrite (l : LaneSt) : LaneSt :=
  { l with tcm := l.rt.links.foldl (fun m x => recFrom m x.e (l.rt.amc - x.amc) x.body) l.tcm, rt := { l.rt with links := [] } }

/-- One agreed PDU item in one lane: an application message that finds no inbox slot stays for the next cycle (R324). -/
def LaneSt.kstEvent (l : LaneSt) (me t0 : Nat) (i : Item) : LaneSt :=
  if l.kst.noSlot (fun a x => l.keyOf 4 (4 * a + x)) (t0 + 4000000 * (i.amc + 1)) i then
    { l with items := l.items ++ [i] }
  else (l.kstPdu me t0 l.rt.ctime i).linkWrite

/-- A PDU item of association `a` whose PTYPE and MTYPE are of the kind `sel` names. -/
def Mod.kstPduDo (m : Mod) (sel : Bytes → Bool) (a : Nat) (body : Bytes) : Mod :=
  match m.kst.recs.find? fun r => r.anum == a with
  | none => m
  | some r =>
    if sel body then m.kstLanes fun x l => l.kstEvent x.idx m.obx.t0 ⟨l.rt.amc, r.cls, a, pduSeq body, .pdu, body⟩ else m

def isCONNECT (b : Bytes) : Bool := pduType b == 1
def isACCEPT (b : Bytes) : Bool := pduType b == 2
def isCLOSE (b : Bytes) : Bool := pduType b == 4
/-- A DATA PDU of one message type (R322). -/
def isDATA (mt : Nat) (b : Bytes) : Bool := pduType b == 3 && pduMtype b == mt
/-- The message types that go to the inbox beside those with a command of their own: 0x0041, 0x0042 and 0x0100 to 0x7FFF (R322). -/
def isAPP (b : Bytes) : Bool :=
  pduType b == 3 && (pduMtype b == 0x41 || pduMtype b == 0x42 || decide (0x100 ≤ pduMtype b ∧ pduMtype b ≤ 0x7FFF))

end Sys2Proof.Machine
end

