-- ==== Sys2Proof/Machine/KstCmds.lean ====
section
/-!
DEFINITION. The commands of Keaber Safe Transport (10_older_interfaces_and_bridging.md).
-/
namespace Sys2Proof.Machine

/-- KST_FRAME_RECEIVE (R315). The KST ports receive a PRP frame, discard duplicates and deliver the PDU as an item. -/
def execKstFrameReceive (port : Chan) (src seq : Nat) (body : Bytes) (t : Nat) (s : State) : Result :=
  s.at t fun m => m.kstFrame port src seq body

/-- PRP_SUPERVISION (R315). The module sends PRP supervision frames every 2 s. -/
def execPrpSupervision (t : Nat) (s : State) : Result := s.at t fun m => m.prpSupervision

/-- CONNECT_SEND (R320). The INIT end of a CLOSED association sends a CONNECT every 1 s. -/
def execConnectSend (a : Nat) (t : Nat) (s : State) : Result := s.at t fun m => m.kstConnectSend a

/-- CONNECT (R320). An accepted CONNECT is answered by ACCEPT or CLOSE, or re-opens an OPEN association. -/
def execConnect (a : Nat) (body : Bytes) (t : Nat) (s : State) : Result := s.at t fun m => m.kstPduDo isCONNECT a body

/-- ACCEPT (R502). An accepted ACCEPT makes the INIT end's association OPEN. -/
def execAccept (a : Nat) (body : Bytes) (t : Nat) (s : State) : Result := s.at t fun m => m.kstPduDo isACCEPT a body

/-- CLOSE (R502). An accepted CLOSE closes the association. -/
def execClose (a : Nat) (body : Bytes) (t : Nat) (s : State) : Result := s.at t fun m => m.kstPduDo isCLOSE a body

/-- HEARTBEAT (R322). An accepted HEARTBEAT serves supervision only, or opens a CONNECTING association. -/
def execHeartbeat (a : Nat) (body : Bytes) (t : Nat) (s : State) : Result := s.at t fun m => m.kstPduDo (isDATA 0) a body

/-- ROUTE_OP (R323). An accepted ROUTE_OP becomes a request list descriptor, or is answered ROLE or LISTFULL. -/
def execRouteOp (a : Nat) (body : Bytes) (t : Nat) (s : State) : Result := s.at t fun m => m.kstPduDo (isDATA 1) a body

/-- AREA_REL (R322). An accepted AREA_REL goes to the inbox for the application. -/
def execAreaRel (a : Nat) (body : Bytes) (t : Nat) (s : State) : Result := s.at t fun m => m.kstPduDo (isDATA 2) a body

/-- LINK_STATE (R325). A LINK_STATE record is written into the input record of an IN link element. -/
def execLinkState (a : Nat) (body : Bytes) (t : Nat) (s : State) : Result := s.at t fun m => m.kstPduDo (isDATA 0x10) a body

/-- LINK_CMD (R325). A LINK_CMD message goes to the inbox. -/
def execLinkCmd (a : Nat) (body : Bytes) (t : Nat) (s : State) : Result := s.at t fun m => m.kstPduDo (isDATA 0x11) a body

/-- APPLICATION_MESSAGE (R324). An application DATA message goes to a KST inbox slot, or waits for the next cycle when slots run out. -/
def execApplicationMessage (a : Nat) (body : Bytes) (t : Nat) (s : State) : Result := s.at t fun m => m.kstPduDo isAPP a body

/-- KST_TMAX_EXPIRE (R321). No PDU has been accepted for TMAX, so the association closes with CLOSE REASON 3. -/
def execKstTmaxExpire (a : Nat) (t : Nat) (s : State) : Result := s.at t fun m => m.kstExpire a

end Sys2Proof.Machine
end

