-- ==== Sys2Proof/Machine/LaneCmds.lean ====
section
/-!
DEFINITION. The commands of lanes, Garnet and rotations (06_lanes_and_voting.md).
-/
namespace Sys2Proof.Machine

/-- LOCKSTEP_MISMATCH (R152). The lane comparator finds a mismatch, and the lane is silenced within two core cycles. -/
def execLockstepMismatch (x : Lane) (unitNo : Nat) (t : Nat) (s : State) : Result := s.at t fun m => m.lockstep x unitNo

/-- COMPARATOR_DISAGREE (R153). The two comparator copies disagree, and the lane is silenced as for a mismatch. -/
def execComparatorDisagree (x : Lane) (t : Nat) (s : State) : Result := s.at t fun m => m.comparatorFault x

/-- LANE_MONITOR_TRIP (R154). A lane's power-good monitor or clock monitor trips, and the lane is silenced. -/
def execLaneMonitorTrip (x : Lane) (onClock : Bool) (dev : Nat) (t : Nat) (s : State) : Result :=
  s.at t fun m => m.monitorTrip x onClock dev

/-- GARNET_CRC_FAIL (R160). A Garnet frame fails its CRC and is sent again once within 2 µs. -/
def execGarnetCrcFail (x : Lane) (n : LinkName) (again : Bool) (t : Nat) (s : State) : Result := s.at t fun m => m.garnetCrc x n again

/-- GARNET_LINK_FAULT (R161). A Garnet link fails, and the module continues REDUCED with the prescribed lanes, or enters HELD on a second
fault. -/
def execGarnetLinkFault (n : LinkName) (t : Nat) (s : State) : Result := s.at t fun m => m.linkFault n

/-- GARNET_LINK_RETRAIN (R161). Garnet retrains a failed link every 10 s, and a lane rejoins once the link passes its test. -/
def execGarnetLinkRetrain (n : LinkName) (ok : Bool) (t : Nat) (s : State) : Result := s.at t fun m => m.linkRetrain n ok

/-- ROTATION_DUE (R176). A lane's rotation falls due, or its 60 s retry comes round, and the rotation starts if the start conditions hold.
-/
def execRotationDue (x : Lane) (t : Nat) (s : State) : Result := s.at t fun m => m.rotationDue x

/-- ROTATION_OVERDUE (R176). A rotation has not started within 4 h of falling due and is reported overdue. -/
def execRotationOverdue (x : Lane) (t : Nat) (s : State) : Result := s.at t fun m => m.rotationOverdue x

/-- CORE_SOLO_SELFTEST_DONE (R157). The cores' solo logic self-tests complete, and their signatures are compared with the reference. -/
def execCoreSoloSelftestDone (x : Lane) (ok : Bool) (t : Nat) (s : State) : Result := s.at t fun m => m.soloDone x ok

/-- LANE_POWER_CYCLE (R177). The lane domain is switched off for 100 ms, then on, with a synchronised reset. -/
def execLanePowerCycle (x : Lane) (t : Nat) (s : State) : Result := s.at t fun m => m.lanePowerCycle x

/-- STATE_COPY_START (R178). The copy source starts the bulk walk and mirroring of the copy set to a joining lane. -/
def execStateCopyStart (x : Lane) (t : Nat) (s : State) : Result := s.at t fun m => m.startCopy x

/-- STATE_COPY_EQUAL (R178). At the first boundary after the bulk walk, the joining lane's copy set equals the source's state. -/
def execStateCopyEqual (t : Nat) (s : State) : Result := s.at t fun m => m.copyEqual

/-- ROTATION_ABANDON (R180). A rotation not ended within 45 s is abandoned, and the lane is held out. -/
def execRotationAbandon (t : Nat) (s : State) : Result := s.at t fun m => m.rotationAbandon

/-- DIGEST_SLICE_COMPARE (R183). Cross-lane digest slices are compared, and a divergent lane leaves and is resynchronised, or the module
enters HELD. -/
def execDigestSliceCompare (t : Nat) (s : State) : Result := s.at t fun m => m.digCompare

/-- GRN_KEY_WRITE (R185). A write to GRN_KEY0 to GRN_KEY7 loads the lane command key while KEYLOCK is 0. -/
def execGrnKeyWrite (x : Lane) (w : Nat) (v : Word32) (t : Nat) (s : State) : Result := s.at t fun m => m.laneDo x fun l => l.keyWrite w v

/-- GRN_KEYLOCK_SET (R185). Setting GRN_CTRL.KEYLOCK locks the key registers until lane reset. -/
def execGrnKeylockSet (x : Lane) (t : Nat) (s : State) : Result := s.at t fun m => m.laneDo x LaneSt.keyLock

/-- GRN_ERRCAP_READ (R186). A read of GRN_ERRCAP returns and clears it and copies it into GRN_ERRCAP_LR. -/
def execGrnErrcapRead (x : Lane) (t : Nat) (s : State) : Result := s.at t fun m => m.laneDo x LaneSt.readGrnErr

/-- GATE_READBACK (R174). The local I/O controller reads back every majority gate each cycle and flags gate faults and lane minorities. -/
def execGateReadback (bad : List Nat) (t : Nat) (s : State) : Result := s.at t fun m => m.gateReadback bad

/-- DEBUG_HALT (R156). In LAB or MANUFACTURE, a debug halt request stops both cores of a pair at the same instruction boundary, and the
lane is silent. -/
def execDebugHalt (x : Lane) (t : Nat) (s : State) : Result := s.at t fun m => m.debugHalt x

end Sys2Proof.Machine
end

