-- ==== Sys2Proof/Machine/LioMod.lean ====
section
/-!
DEFINITION. The local safety I/O as part of the module: every event of 09_local_safety_io.md acts on the controller of a JW3X-F, and
its records go to Amber (R257, R259 to R285, R291, R292).
-/
namespace Sys2Proof.Machine

/-- An action of the local I/O; a JW3X-C has none (00_scope.md). -/
def Mod.lioDo (m : Mod) (f : Lio → Lio × List Evt) : Mod :=
  if m.full then ({ m with lio := (f m.lio).1 } : Mod).puts (f m.lio).2 else m

/-- An action that writes no record. -/
def Mod.lioSet (m : Mod) (f : Lio → Lio) : Mod := if m.full then { m with lio := f m.lio } else m

def Mod.lioSample (m : Mod) (ua : List Nat) : Mod := m.lioDo fun l => l.sample m.clock ua
def Mod.lioDebounce (m : Mod) (c : Nat) : Mod := m.lioDo fun l => l.debounce c m.clock
def Mod.lioCrossCheck (m : Mod) (g : Nat) (ua : List Nat) : Mod := m.lioDo fun l => l.crossCheck g m.clock ua
def Mod.lioInject (m : Mod) (g : Nat) (bands : List Nat) : Mod := m.lioDo fun l => l.inject g m.clock bands
def Mod.lioTpFault (m : Mod) (g : Nat) : Mod := m.lioDo fun l => l.tpFault g m.clock
def Mod.lioTpRetry (m : Mod) (g : Nat) (good : Bool) : Mod := m.lioDo fun l => l.tpRetry g m.clock good
def Mod.lioDiscrepancy (m : Mod) (c : Nat) : Mod := m.lioDo fun l => l.discrepancy c m.clock
def Mod.lioCountEdge (m : Mod) (ch : Nat) : Mod := m.lioSet fun l => l.countEdge ch m.clock
def Mod.lioPairTimeout (m : Mod) (f : Nat) (onA : Bool) : Mod := m.lioSet fun l => l.pairTimeout f onA m.clock
def Mod.lioHoldExpire (m : Mod) (f : Nat) : Mod := m.lioSet fun l => l.holdExpire f m.clock
def Mod.lioSlpStart (m : Mod) (f : Nat) : Mod := m.lioSet fun l => l.slpStart f m.clock
def Mod.lioSlpWindow (m : Mod) (f : Nat) : Mod := m.lioSet fun l => l.slpWindow f m.clock
def Mod.lioSlpSettle (m : Mod) (f : Nat) : Mod := m.lioSet fun l => l.slpSettle f m.clock
def Mod.lioSnap (m : Mod) (x : Lane) : Mod := if (m.lane x).powered then m.lioSet fun l => l.snap x m.clock else m

/-- LIO_INPUT_ITEM: the item of a working controller, with the controller's item count (R269). -/
def Mod.lioItem (m : Mod) : Mod :=
  if m.full = false ∨ m.lio.ctlflt = true then m
  else
    let n := (m.lio.itemCnt + 1) % 2 ^ 32
    ({ m with lio := { m.lio with itemCnt := n } } : Mod).deliver .lio ⟨m.amc, 8, 0, n, .localInput, m.lio.itemBody⟩

def Mod.lioOutTrip (m : Mod) (o : Nat) (thermal : Bool) : Mod := m.lioDo fun l => l.outTrip o m.clock thermal
/-- A bank trip or feed event names one of the four banks. -/
def Mod.lioBank (m : Mod) (b : Nat) (f : Lio → Lio × List Evt) : Mod := if b < 4 then m.lioDo f else m
def Mod.lioBankTrip (m : Mod) (b ma : Nat) : Mod := m.lioBank b fun l => l.bankTrip b m.clock ma
def Mod.lioFeedLow (m : Mod) (b : Nat) : Mod := m.lioBank b fun l => l.feedLow b m.clock
def Mod.lioFeedBack (m : Mod) (b : Nat) : Mod := m.lioBank b fun l => l.feedBack m.can b m.clock
def Mod.lioSwitchTest (m : Mod) (slot verdict : Nat) : Mod := m.lioDo fun l => l.switchTest m.can slot m.clock verdict
def Mod.lioDo2Write (m : Mod) (x : Lane) (w : Word32) : Mod := if (m.lane x).powered then m.lioDo fun l => l.do2Write m.can x m.clock w else m
def Mod.lioFstartWrite (m : Mod) (x : Lane) (v : Word32) : Mod := if (m.lane x).powered then m.lioSet fun l => l.fstartWrite x v else m
def Mod.lioRefreshTimeout (m : Mod) (x : Lane) : Mod := m.lioDo fun l => l.refreshTimeout m.can x m.clock
/-- LIO_ENERGISE: only in the ACTIVE module, outside HELD and with no higher claim seen (R279, R206, R363). -/
def Mod.lioEnergise (m : Mod) : Mod :=
  if m.role = roleACTIVE ∧ m.inService = true then m.lioDo fun l => l.energise m.can m.clock else m
/-- LIO_DEENERGISE: a module that is not ACTIVE; a higher claim has taken it into HELD (R279, R206). -/
def Mod.lioDeenergise (m : Mod) : Mod :=
  if m.role ≠ roleACTIVE ∨ (m.service = .held ∧ m.heldCause = 0x0A) then m.lioDo fun l => l.deenergise m.can m.clock else m
def Mod.lioStop (m : Mod) : Mod := m.lioDo Lio.stop

/-- A read of LIO_ERRCAP in a lane's view (R292). -/
def Mod.lioReadErr (m : Mod) (x : Lane) : Mod :=
  if m.full = false ∨ (m.lane x).powered = false then m
  else
    let v := m.lio.lanes.get x
    ({ m with lio := { m.lio with lanes := m.lio.lanes.set x { v with errcapLr := v.errcap, errcap := 0 } } } : Mod).modLane x fun l =>
      { l with readData := v.errcap.toNat }

end Sys2Proof.Machine
end

