-- ==== Sys2Proof/Machine/LocalIoCmds.lean ====
section
/-!
DEFINITION. The commands of the local safety I/O (09_local_safety_io.md).
-/
namespace Sys2Proof.Machine

/-- INPUT_SAMPLE (R259). Every 100 µs the controller samples and classifies each input channel into a band. -/
def execInputSample (ua : List Nat) (t : Nat) (s : State) : Result := s.at t fun m => m.lioSample ua

/-- INPUT_DEBOUNCE_EXPIRE (R265). A band has been held for DEB_ON, DEB_OFF, 5 ms or 100 ms, and the channel changes state. -/
def execInputDebounceExpire (c : Nat) (t : Nat) (s : State) : Result := s.at t fun m => m.lioDebounce c

/-- CROSS_CHECK_SAMPLE (R261). At 350 µs into its own dark slot, the controller takes check samples and marks channels CROSS. -/
def execCrossCheckSample (g : Nat) (ua : List Nat) (t : Nat) (s : State) : Result := s.at t fun m => m.lioCrossCheck g ua

/-- THRESHOLD_INJECTION (R262). In each own dark slot, a test current is injected, and repeated wrong bands put the channel in TFAIL. -/
def execThresholdInjection (g : Nat) (bands : List Nat) (t : Nat) (s : State) : Result := s.at t fun m => m.lioInject g bands

/-- TP_SUPPLY_FAULT (R264). A test-pulse supply out of range or at its limit for 5 ms is switched off, and its group enters BREAK. -/
def execTpSupplyFault (g : Nat) (t : Nat) (s : State) : Result := s.at t fun m => m.lioTpFault g

/-- TP_SUPPLY_RETRY (R264). The controller retries a faulty test-pulse supply every 10 s. -/
def execTpSupplyRetry (g : Nat) (good : Bool) (t : Nat) (s : State) : Result := s.at t fun m => m.lioTpRetry g good

/-- PAIR_DISCREPANCY (R266). A two-channel input pair leaves its mode for longer than DISC, and both channels enter DISC. -/
def execPairDiscrepancy (c : Nat) (t : Nat) (s : State) : Result := s.at t fun m => m.lioDiscrepancy c

/-- COUNT_EDGE (R267). A counting input sees a rising edge, which is counted and time-stamped. -/
def execCountEdge (ch : Nat) (t : Nat) (s : State) : Result := s.at t fun m => m.lioCountEdge ch

/-- PAIR_TIMEOUT (R282). An edge left open for longer than PAIRTO counts as unpaired for its head. -/
def execPairTimeout (f : Nat) (onA : Bool) (t : Nat) (s : State) : Result := s.at t fun m => m.lioPairTimeout f onA

/-- SF_HOLD_EXPIRE (R283). HOLD ms have passed since the last pair, so VALID or DIR of the function drops. -/
def execSfHoldExpire (f : Nat) (t : Nat) (s : State) : Result := s.at t fun m => m.lioHoldExpire f

/-- SLP_START (R285). A rising edge of the majority START bits opens the SLP window and starts its timer. -/
def execSlpStart (f : Nat) (t : Nat) (s : State) : Result := s.at t fun m => m.lioSlpStart f

/-- SLP_WINDOW_EXPIRE (R285). TWIN elapses before an end position is reached, so IN_WINDOW clears and TIMEOUT is set. -/
def execSlpWindowExpire (f : Nat) (t : Nat) (s : State) : Result := s.at t fun m => m.lioSlpWindow f

/-- SLP_SETTLE_EXPIRE (R285). An end position has held for TSETTLE, so END_N or END_R is set. -/
def execSlpSettleExpire (f : Nat) (t : Nat) (s : State) : Result := s.at t fun m => m.lioSlpSettle f

/-- LIO_SNAP_WRITE (R268). A lane's write to LIO_SNAP latches that lane's bank within 1 µs into its measured value window. -/
def execLioSnapWrite (x : Lane) (t : Nat) (s : State) : Result := s.at t fun m => m.lioSnap x

/-- LIO_INPUT_ITEM (R269). Every 1 ms the controller delivers an input item with all channel states. -/
def execLioInputItem (t : Nat) (s : State) : Result := s.at t fun m => m.lioItem

/-- OUTPUT_CURRENT_TRIP (R274). A channel has limited for 10 ms or shut down thermally and enters TRIP. -/
def execOutputCurrentTrip (o : Nat) (thermal : Bool) (t : Nat) (s : State) : Result := s.at t fun m => m.lioOutTrip o thermal

/-- BANK_TRIP (R274). A bank's summed current exceeds 4.0 A for 500 ms, and its ON outputs trip. -/
def execBankTrip (b ma : Nat) (t : Nat) (s : State) : Result := s.at t fun m => m.lioBankTrip b ma

/-- FEED_UNDERVOLTAGE (R274). A bank feed below 18 V for 5 ms puts the bank's outputs in NOFEED. -/
def execFeedUndervoltage (b : Nat) (t : Nat) (s : State) : Result := s.at t fun m => m.lioFeedLow b

/-- FEED_RETURN (R274). A feed above 19.2 V for 100 ms ends NOFEED. -/
def execFeedReturn (b : Nat) (t : Nat) (s : State) : Result := s.at t fun m => m.lioFeedBack b

/-- SWITCH_TEST (R275). In its test slot, an output switch is opened or closed alone and checked. -/
def execSwitchTest (slot verdict : Nat) (t : Nat) (s : State) : Result := s.at t fun m => m.lioSwitchTest slot verdict

/-- LIO_DO2_WRITE (R277). A lane's write of LIO_DO2 presents its 96 commands to the gates and refreshes its liveness. -/
def execLioDo2Write (x : Lane) (w : Word32) (t : Nat) (s : State) : Result := s.at t fun m => m.lioDo2Write x w

/-- LIO_FSTART_WRITE (R277). A lane writes the START levels of the SLP functions. -/
def execLioFstartWrite (x : Lane) (v : Word32) (t : Nat) (s : State) : Result := s.at t fun m => m.lioFstartWrite x v

/-- LANE_REFRESH_TIMEOUT (R277). A lane has not written LIO_DO2 within TSIL, and its gate inputs stop being live. -/
def execLaneRefreshTimeout (x : Lane) (t : Nat) (s : State) : Result := s.at t fun m => m.lioRefreshTimeout x

/-- LIO_ENERGISE (R279). When the module becomes ACTIVE, the controller lights the supplies and runs a start sweep. -/
def execLioEnergise (t : Nat) (s : State) : Result := s.at t fun m => m.lioEnergise

/-- LIO_DEENERGISE (R279). A module that is not ACTIVE, or has seen a higher claim, darkens its supplies and opens its outputs. -/
def execLioDeenergise (t : Nat) (s : State) : Result := s.at t fun m => m.lioDeenergise

/-- LIO_CONTROLLER_FAULT (R280). The local I/O controller's comparator finds a mismatch, so the controller stops and CTLFLT is set. -/
def execLioControllerFault (t : Nat) (s : State) : Result := s.at t fun m => m.lioStop

/-- LIO_ERRCAP_READ (R292). A read of LIO_ERRCAP returns and clears it and copies it into LIO_ERRCAP_LR. -/
def execLioErrcapRead (x : Lane) (t : Nat) (s : State) : Result := s.at t fun m => m.lioReadErr x

end Sys2Proof.Machine
end

