-- ==== Sys2Proof/Machine/LioRegs.lean ====
section
/-!
DEFINITION. The status words of the local I/O (09_local_safety_io.md R291).
-/
namespace Sys2Proof.Machine

/-- LIO_CHST of an input channel. -/
def Lio.chst (l : Lio) (c : Nat) : Nat :=
  let x := l.ins.getD c InChan.reset
  x.state % 8 + x.fcode % 256 * 256 + min x.cur 0xFFFF * 65536

/-- LIO_OUTST of an output channel; the current is kept in mA. -/
def Lio.outst (l : Lio) (can : PerLane Bool) (o : Nat) : Nat :=
  let x := l.outs.getD o OutChan.reset
  let g (y : Lane) (hs : Bool) : Nat := b2n ((l.gateIn can y hs).testBit o)
  x.state % 8 + 16 * b2n ((l.gateOut can true).testBit o) + 32 * b2n ((l.gateOut can false).testBit o)
    + 256 * g .a true + 512 * g .b true + 1024 * g .c true + 4096 * g .a false + 8192 * g .b false + 16384 * g .c false
    + x.fcode % 256 * 65536 + min 255 (x.cur / 4) * 16777216

/-- LIO_TPST. -/
def Lio.tpst (l : Lio) : Nat :=
  ((l.tp.mapIdx fun g s => (s.state % 4 + 4 * b2n s.ovl) * 16 ^ g).foldl (· + ·) 0) % 2 ^ 32

/-- LIO_BANKST; the bank current is kept in mA. -/
def Lio.bankst (l : Lio) : Nat :=
  ((l.feed.mapIdx fun b s => (s.state % 4 + 4 * min 63 (s.cur / 100)) * 256 ^ b).foldl (· + ·) 0) % 2 ^ 32

/-- LIO_SPSCV: the check value that the controller computes; 0 while it holds no SPS that passed. -/
def Lio.spscv (l : Lio) : Bytes := if l.spsOk && !l.ctlflt then spsValue l.sps else List.replicate 8 0

end Sys2Proof.Machine
end

