-- ==== Sys2Proof/Machine/PowerOps.lean ====
section
/-!
DEFINITION. Supply inputs, power fail, shutdown, sleeping sections, drains and die temperature (18_power_domains.md R473 to R485;
19_connectors_and_ratings.md R497).
-/
namespace Sys2Proof.Machine

/-! ### Supply inputs (R473, R474) -/

def Power.supply (p : Power) (input : Nat) : Supply := if input = 1 then p.x1 else p.x2
def Power.setSupply (p : Power) (input : Nat) (s : Supply) : Power :=
  if input = 1 then { p with x1 := s } else { p with x2 := s }
def supplyEvt (input status : Nat) : Evt := mkEvt 0xA001 4 7 input (leBytes 1 input ++ leBytes 1 status)

/-- SUPPLY_INPUT_LOSS: an input in range falls out of range (status 3) or is absent (status 0). -/
def Mod.supplyLoss (m : Mod) (input status : Nat) : Mod :=
  if (input ≠ 1 ∧ input ≠ 2) ∨ (status ≠ 0 ∧ status ≠ 3) ∨ (m.power.supply input).inRange = false ∨ m.power.shutdown = true then m
  else ({ m with power := m.power.setSupply input ⟨status, false⟩ } : Mod).put (supplyEvt input status)

/-- SUPPLY_INPUT_RETURN: an input is back in its AC (1) or DC (2) range. -/
def Mod.supplyReturn (m : Mod) (input status : Nat) : Mod :=
  if (input ≠ 1 ∧ input ≠ 2) ∨ (status ≠ 1 ∧ status ≠ 2) ∨ (m.power.supply input).inRange = true ∨ m.power.shutdown = true then m
  else ({ m with power := m.power.setSupply input ⟨status, true⟩ } : Mod).put (supplyEvt input status)

/-! ### Loss of both inputs (R476) -/

/-- PFAIL: the lanes are silent, the module is in HELD, Amber has drained its intake and written its control block. -/
def Mod.pfailAt (m : Mod) : Mod :=
  if m.power.good = false ∨ m.power.x1.inRange = true ∨ m.power.x2.inRange = true then m
  else
    let m1 : Mod := { m with power := { m.power with pfail := true, good := false } }
    let m2 := Lane.all.foldl (fun (m : Mod) x => if (m.lane x).powered then m.silence x 8 5 0x40 else m) m1
    let m3 := m2.enterHeld 0x0B
    let n := (m3.amber.intake.map fun k => k.buf.length).foldl (· + ·) 0
    let a := (Amber.drain n m3.amber m3.clock m3.sid).writeCtl
    { m3 with amber := { a with pfail := true } }

/-- SHUTDOWN_LEVEL: every domain goes off, PD0 last; what is not kept in MRAM is lost. -/
def Mod.shutdown (m : Mod) : Mod :=
  if m.power.pfail = false ∨ m.power.shutdown = true then m
  else
    let m1 : Mod := { m with lanes := m.lanes.map fun l => { l.powerCycle with powered := false } }
    let m2 := m1.gates
    { m2 with
      power := { m2.power with shutdown := true, domains := List.replicate 12 false, ethm := .off, host := .off
                               ports := List.replicate 8 .off, banks := List.replicate 4 .off, drains := [] }
      jade := m2.jade.restarted, procs := Procs.reset, obx := Obx.reset
      lio := { m2.lio with active := false }, drp := { m2.drp with active := false, ports := List.replicate 8 DrPort.reset }
      kst := { KstPorts.reset with recs := m2.kst.recs }, pair := { m2.pair with linkUp := false } }

/-! ### Sleeping sections (R481 to R483) -/

def isGroup (full : Bool) (g : Nat) : Bool :=
  g == 1 || g == 2 || (full && (decide (0x10 ≤ g ∧ g < 0x18) || decide (0x20 ≤ g ∧ g < 0x24)))
/-- The stored hint of a group, 0 by default. -/
def Mod.hint (m : Mod) (g : Nat) : Nat := (m.jade.hints.find g).getD 0

/-- Whether a STATION image uses a Draip port. -/
def Blob.usesPort (b : Blob) (p : Nat) : Bool :=
  match b.section' 0xA with
  | some s => (⟨b.mem, s.off⟩ : Brt).portUsed p
  | none => false
/-- Whether an SPS uses an output of a bank. -/
def spsUsesBank (sps : Bytes) (k : Nat) : Bool := (List.range 12).any fun i => ({ Lio.reset with sps := sps } : Lio).outUsed (12 * k + i)

/-- The STATION images and parameter sets that run, and those staged or pending. -/
def Mod.stationImgs (m : Mod) (waiting : Bool) : List Blob :=
  if waiting then (m.jade.staged.find 5).toList ++ (m.jade.img 5).pending.toList else (m.jade.img 5).running.toList
def Mod.spsImgs (m : Mod) (waiting : Bool) : List Bytes :=
  let l := if waiting then (m.jade.staged.find 6).toList ++ (m.jade.img 6).pending.toList else (m.jade.img 6).running.toList
  l.map Blob.body

/-- The condition under which a group may sleep (R482); a waiting image keeps what it uses awake (R483). -/
def Mod.maySleep (m : Mod) (g : Nat) : Bool :=
  if g = 1 ∨ g = 2 then !(m.jade.conn g).isOpen && !(m.jade.session.any fun s => s.holder == g)
  else if 0x10 ≤ g ∧ g < 0x18 then
    !((m.stationImgs false ++ m.stationImgs true).any fun b => b.usesPort (g - 0x10))
  else if 0x20 ≤ g ∧ g < 0x24 then !((m.spsImgs false ++ m.spsImgs true).any fun s => spsUsesBank s (g - 0x20))
  else false

/-- PD11 follows its last port (R477, R482). -/
def Power.follow11 (p : Power) : Power := p.setOn 11 (p.ports.any (· != .off))

/-- A drain target of a section. -/
def sectTarget (g : Nat) : Nat := 0x100 + g
def Power.draining (p : Power) (target : Nat) : Bool := p.drains.any fun d => d.target == target
def Power.drain (p : Power) (target t : Nat) : Power :=
  if p.draining target then p else { p with drains := p.drains ++ [⟨target, t⟩] }

/-- DOMAIN_SLEEP: a group whose condition has held for 10 s is gated, or drains to be switched off, as its hint allows. -/
def Mod.domainSleep (m : Mod) (g : Nat) : Mod :=
  if m.power.good = false ∨ isGroup m.full g = false ∨ m.maySleep g = false ∨ m.power.sect g = .off then m
  else
    match allowedBy (m.hint g) with
    | .running => m
    | .gated => { m with power := m.power.setSect g .gated }
    | .off => { m with power := m.power.drain (sectTarget g) m.clock }

/-- A section runs again; a drain that waits for it is cancelled (R485). -/
def Power.wake (p : Power) (g : Nat) : Power :=
  (({ p with drains := p.drains.filter fun d => d.target != sectTarget g } : Power).setSect g .running).follow11

/-- WAKE_EVENT. -/
def Mod.wake (m : Mod) (g : Nat) : Mod :=
  if m.power.good = false ∨ isGroup m.full g = false then m else { m with power := m.power.wake g }

/-- The groups that a staged or pending image uses. -/
def Mod.usedGroups (m : Mod) : List Nat :=
  (((List.range 8).map (0x10 + ·)) ++ (List.range 4).map (0x20 + ·)).filter fun g =>
    m.full && (if g < 0x20 then (m.stationImgs true).any fun b => b.usesPort (g - 0x10)
               else (m.spsImgs true).any fun s => spsUsesBank s (g - 0x20))
/-- R483: what a staged or pending image uses is woken. -/
def Mod.wakeUsed (m : Mod) : Mod := { m with power := m.usedGroups.foldl Power.wake m.power }

/-! ### Power-down with transfers in flight (R484, R485) -/

/-- The requester byte of XFER_ABORTED: the record source number of the unit (R461; DESIGN CHOICE, assumption log 53). -/
def Xfer.requester : Xfer → Nat
  | .dma x _ => x.idx
  | .mailbox _ _ => 3
  | .jadePort => 6
  | .posted s => s % 256

/-- The domain of a drain target. -/
def targetDomain (target : Nat) : Nat :=
  if target < 0x100 then target else if target ≤ 0x102 then 9 else if target < 0x120 then 11 else 10

/-- Whether a domain may go down as a whole: Jade's with its watchdog, a lane's in its rotation (R477, R478). -/
def Mod.mayDrain (m : Mod) (target : Nat) : Bool :=
  if target = 1 then m.jade.mode == .off
  else if target = 2 then m.rotatingAt .a .solo
  else if target = 3 then m.rotatingAt .b .solo
  else if target = 4 then m.rotatingAt .c .solo
  else decide (0x100 < target) && isGroup m.full (target - 0x100) && m.maySleep (target - 0x100)
    && allowedBy (m.hint (target - 0x100)) == .off && m.power.sect (target - 0x100) != .off

/-- POWER_DOWN_DRAIN: the crossings close; a second request joins the first. -/
def Mod.drainStart (m : Mod) (target : Nat) : Mod :=
  if m.power.good = false ∨ m.mayDrain target = false then m else { m with power := m.power.drain target m.clock }

/-- One aborted transfer, seen by its requester, and its record. A job of the mailbox is answered ABORTED; the bytes that a DMA channel had
moved are `n` of the channel's units. -/
def Mod.abortXfer (m : Mod) (dom n : Nat) (x : Xfer) : Mod :=
  let m1 : Mod := match x with
    | .dma y ch => m.modLane y fun l =>
        let r := l.tdm.abort ⟨l.tcm, l.dram, l.beryl⟩ ch n 0x07
        { l with tdm := r.1, tcm := r.2.tcm, dram := r.2.dram, beryl := r.2.brl }
    | .mailbox tr tag =>
      let c := m.jade.conn tr
      match c.jobs.find? fun j => j.req.tag == tag with
      | some j => { m with jade := m.jade.setConn tr { c with jobs := c.jobs.filter fun k => k.req.tag != tag,
                                                              ready := c.ready ++ [⟨j.cmd, tag, 0x12, 0xA002, 0, []⟩] } }
      | none => m
    | _ => m
  m1.put (mkEvt 0xA002 4 7 0 (leBytes 1 dom ++ leBytes 1 x.requester))

def laneOfDomain (d : Nat) : Option Lane :=
  match d with
  | 2 => some .a
  | 3 => some .b
  | 4 => some .c
  | _ => none

/-- DRAIN_TIMEOUT: what is still in flight 200 µs after the drain began is aborted and recorded; then the domain or section goes off. With
nothing left in flight it goes off at once. -/
def Mod.drainEnd (m : Mod) (target : Nat) (left : List (Xfer × Nat)) : Mod :=
  match m.power.drains.find? fun d => d.target == target with
  | none => m
  | some d =>
    if m.power.good = false ∨ (left ≠ [] ∧ m.clock < d.since + 200000) then m
    else
      let dom := targetDomain target
      let m1 := left.foldl (fun (m : Mod) x => m.abortXfer dom x.2 x.1) m
      let p := { m1.power with drains := m1.power.drains.filter fun k => k.target != target }
      if 0x100 ≤ target then { m1 with power := (p.setSect (target - 0x100) .off).follow11 }
      else
        match laneOfDomain target with
        | some x => { m1 with power := p.setOn target false, lanes := m1.lanes.set x { (m1.lane x) with powered := false } }
        | none => { m1 with power := p }

/-! ### Die temperature (19_connectors_and_ratings.md R497) -/

/-- DIE_TEMP_WARNING: a lane junction at 110 °C. -/
def Mod.tempWarning (m : Mod) (x : Lane) : Mod :=
  let l := m.lane x
  if l.powered = false ∨ l.released = false then m
  else (m.setLane x { l with test := { l.test with tempWarn := true } }).put (mkEvt (Config.otherCode 0xB 4) x.idx 3 0x40 (leBytes 1 x.idx))

/-- DIE_TEMP_TRIP: at 125 °C the power-good monitor trips and the lane is silent. -/
def Mod.tempTrip (m : Mod) (x : Lane) : Mod :=
  if (m.lane x).powered then (m.modLane x fun l => { l with lct := { l.lct with pgTrip := true } }).silence x 8 5 0x40 else m

end Sys2Proof.Machine
end

