-- ==== Sys2Proof/Machine/MailboxCmds.lean ====
section
/-!
DEFINITION. What each mailbox command does once Jade has accepted it (14_jade_mailboxes.md R403 to R413 and the group tables;
15_lifecycle_identity_update.md R414 to R436).
-/
namespace Sys2Proof.Machine

/-- What a command answers: completed with STATUS, DETAIL, HOLDER and payload; or still running, with what it keeps. -/
inductive Ans where
  | done (status detail holder : Nat) (payload : Bytes)
  | wait (arg : Nat)
  deriving DecidableEq, Repr

def ansOk (p : Bytes) : Ans := .done 0 0 0 p
def ansBad (status : Nat) : Ans := .done status 0 0 []
def ansDetail (status detail : Nat) : Ans := .done status detail 0 []

/-- The status codes (R404) that the commands use. -/
def mbBADCMD : Nat := 0x01
def mbBADLEN : Nat := 0x02
def mbBADARG : Nat := 0x03
def mbSTATE : Nat := 0x04
def mbSERVICE : Nat := 0x05
def mbTRANSPORT : Nat := 0x06
def mbTAGBUSY : Nat := 0x07
def mbBUSYUPDATE : Nat := 0x08
def mbNOSESSION : Nat := 0x09
def mbVERIFY : Nat := 0x0A
def mbREFUSED : Nat := 0x0E
def mbLOCKOUT : Nat := 0x0F
def mbCONDITION : Nat := 0x10
def mbNOTFOUND : Nat := 0x11
def mbABORTED : Nat := 0x12
def mbLANES : Nat := 0x13
def mbPARTNER : Nat := 0x14
def mbROMSERVICE : Nat := 0x15
def mbABSENT : Nat := 0x16

def laneOf (n : Nat) : Option Lane :=
  match n with
  | 0 => some .a
  | 1 => some .b
  | 2 => some .c
  | _ => none

/-- The lane that serves reads of lane data: the earliest voting one (group 0x08). -/
def Mod.reader (m : Mod) : Lane := m.voters.head?.getD .a
/-- A read of lane data waits for the tail of the cycle under way. -/
def Mod.inTail (m : Mod) : Bool := m.ph == .idle

/-! ### Group 0x01: identity and attestation (R409, R423, R424) -/

def asciiF : Bytes := [0x4A, 0x57, 0x33, 0x58, 0x2D, 0x46]
def asciiC : Bytes := [0x4A, 0x57, 0x33, 0x58, 0x2D, 0x43]
def ctxATTEST : Bytes := [0x4A, 0x57, 0x33, 0x58, 0x2D, 0x41, 0x54, 0x54, 0x45, 0x53, 0x54]

/-- The identity record. -/
def Mod.identity (m : Mod) : Bytes :=
  leBytes 2 (hwType m.full) ++ leBytes 3 Config.boardRevisions ++ leBytes 1 0 ++ leBytes 1 m.sid ++ leBytes 1 m.jade.lc.code
    ++ leBytes 8 serialNo ++ leBytes 4 Config.mfgDay ++ Bytes.pad (if m.full then asciiF else asciiC) 16
    ++ Bytes.pad ((Config.sha3 Config.identityKey).take 16) 16 ++ leBytes 1 m.jade.roots ++ leBytes 11 0

def Mod.cmdIdRead (m : Mod) (req : MbReq) : Mod × Ans :=
  if req.payload ≠ [] then (m, ansBad mbBADLEN) else (m, ansOk m.identity)

def Mod.cmdIdKey (m : Mod) (req : MbReq) : Mod × Ans :=
  if req.payload ≠ [] then (m, ansBad mbBADLEN)
  else (m, ansOk (leBytes 2 2592 ++ leBytes 2 0 ++ Bytes.pad Config.identityKey 2592))

/-- An entry of IMG_LIST: 64 bytes. -/
def Jade.imgEntry (j : Jade) (t : Nat) : Bytes :=
  let s := j.img t
  let (pres, ver, dig) := match s.running with
    | some b => (1, b.version, Bytes.pad b.digest 48)
    | none => (0, 0, leBytes 48 0)
  leBytes 1 t ++ leBytes 1 pres ++ leBytes 2 0 ++ leBytes 4 ver ++ leBytes 1 s.rollback ++ leBytes 7 0 ++ dig
def Jade.imgList (j : Jade) : Bytes := [1, 2, 3, 4, 5, 6].flatMap j.imgEntry

/-- KGEN of the command key in use in a lane; 0xFF where it has none. -/
def LaneSt.kgenRep (l : LaneSt) : Nat := match l.keys.used with
  | some g => g.kgen
  | none => 0xFF

/-- Bytes 0x0000 to 0x1AC3 of the attestation report. -/
def Mod.attestBody (m : Mod) (nonce : Bytes) : Bytes :=
  let cv := match (m.jade.img 6).running with
    | some b => spsValue b.body
    | none => leBytes 8 0
  let op := match m.jade.oproot with
    | some k => Bytes.pad (Config.sha3 k) 48
    | none => leBytes 48 0
  let kp := match (m.jade.img 7).running with
    | some b => Bytes.pad b.digest 48
    | none => leBytes 48 0
  leBytes 2 1 ++ leBytes 2 (hwType m.full) ++ leBytes 1 m.jade.lc.code ++ leBytes 1 m.service.code ++ leBytes 1 (claimOf m.obx.claim).role
    ++ leBytes 1 m.sid ++ leBytes 8 serialNo ++ leBytes 4 m.jade.lcCount ++ leBytes 1 m.jade.roots ++ leBytes 1 m.lanes.a.kgenRep
    ++ leBytes 1 m.lanes.b.kgenRep ++ leBytes 1 m.lanes.c.kgenRep ++ leBytes 8 m.now ++ leBytes 1 m.time.source ++ leBytes 1 (b2n m.time.verified)
    ++ leBytes 6 0 ++ Bytes.pad nonce 32 ++ op ++ Bytes.pad cv 8 ++ m.jade.imgList ++ kp ++ leBytes 1 (m.jade.img 7).rollback ++ leBytes 15 0
    ++ [0, 1, 2, 3].flatMap (fun k => Bytes.pad (Config.transportKey k) 1568) ++ leBytes 2 4627 ++ leBytes 2 0

def attestLen : Nat := 11479

/-- ATTEST: the report is formed, signed and kept for the transport. -/
def Mod.cmdAttest (m : Mod) (req : MbReq) : Mod × Ans :=
  if req.payload.length ≠ 32 then (m, ansBad mbBADLEN)
  else
    let b := m.attestBody req.payload
    let rid := Config.identifier (2 ^ 32 + m.jade.reportCnt) % 2 ^ 32
    let rep : Report := ⟨rid, m.clock, b ++ Bytes.pad (Config.identitySign (ctxATTEST ++ b)) 4627⟩
    ({ m with jade := { m.jade with reports := m.jade.reports.put req.tr rep, reportCnt := m.jade.reportCnt + 1 } },
     ansOk (leBytes 4 rid ++ leBytes 4 attestLen))

def tenMin : Nat := 600000000000

def Mod.cmdAttestRead (m : Mod) (req : MbReq) : Mod × Ans :=
  let p := req.payload
  let o := Bytes.le p 4 4
  let n := Bytes.le p 8 2
  if p.length ≠ 12 then (m, ansBad mbBADLEN)
  else
    match m.jade.reports.find req.tr with
    | none => (m, ansBad mbNOTFOUND)
    | some r =>
      if r.rid ≠ Bytes.le p 0 4 ∨ r.at' + tenMin ≤ m.clock then (m, ansBad mbNOTFOUND)
      else if 4032 < n ∨ Bytes.le p 10 2 ≠ 0 ∨ attestLen < o + n then (m, ansBad mbBADARG)
      else (m, ansOk (Bytes.sub r.body o n))

def Mod.cmdImgList (m : Mod) (req : MbReq) : Mod × Ans :=
  if req.payload ≠ [] then (m, ansBad mbBADLEN) else (m, ansOk m.jade.imgList)

/-- ATTEST_REPORT_EXPIRE: the report of a transport is discarded 10 minutes after it was formed. -/
def Mod.reportExpire (m : Mod) (tr : Nat) : Mod :=
  match m.jade.reports.find tr with
  | some r => if r.at' + tenMin ≤ m.clock then { m with jade := { m.jade with reports := m.jade.reports.del tr } } else m
  | none => m

/-! ### Group 0x02: life cycle (R410, R416 to R422, R431) -/

def Mod.cmdLcRead (m : Mod) (req : MbReq) : Mod × Ans :=
  if req.payload ≠ [] then (m, ansBad mbBADLEN)
  else (m, ansOk (leBytes 1 m.jade.lc.code ++ leBytes 1 m.service.code ++ leBytes 1 (claimOf m.obx.claim).role ++ leBytes 1 m.restart.kind
    ++ leBytes 2 m.heldCause ++ leBytes 2 0 ++ leBytes 8 (m.clock - m.power.goodAt)))

/-- The transitions of the table: from, to, by the operator root, by a Strelone root, at a cycle boundary. -/
def lcTable : List (LcState × LcState × Bool × Bool × Bool) :=
  [(.manufacture, .lab, false, true, false), (.manufacture, .commission, false, true, false), (.lab, .manufacture, false, true, false),
   (.commission, .operate, true, false, true), (.operate, .maintain, true, false, true), (.maintain, .operate, true, false, true),
   (.maintain, .commission, true, false, true), (.commission, .retired, true, true, false), (.operate, .retired, true, true, false),
   (.maintain, .retired, true, true, false), (.retired, .manufacture, false, true, false)]

def Token.kind (k : Token) : Nat := Bytes.le k.body 0 1
def Token.target (k : Token) : Nat := Bytes.le k.body 1 1
def Token.from' (k : Token) : Nat := Bytes.le k.body 2 1
def Token.nser (k : Token) : Nat := Bytes.le k.body 3 1
def Token.key (k : Token) : Bytes := Bytes.sub k.body 0x40 2592
def Token.strelone (k : Token) : Bool := k.rootsel == 1 || k.rootsel == 2
/-- Whether a token names this module with its present LCCOUNT (R431). -/
def Token.names (k : Token) (serial count : Nat) : Bool :=
  (Bytes.le k.body 8 8 == serial && Bytes.le k.body 0x10 4 == count)
    || (k.nser == 2 && Bytes.le k.body 0x18 8 == serial && Bytes.le k.body 0x20 4 == count)

/-- Every voting lane holds a confirmation record of its SPS, and the controller computes the same value (R289). -/
def Mod.spsConfirmed (m : Mod) : Bool :=
  !m.full || (m.voters.all fun x => (m.lane x).confirmed && m.lio.spscv == spsValue (m.lane x).sps)
/-- The station image runs and was accepted by every voting lane. -/
def Mod.stationAccepted (m : Mod) : Bool := (m.jade.img 5).running.isSome && m.voters.all fun x => (m.lane x).test.stationOk

/-- The first condition of the table that keeps the module from OPERATE; 0 for none. -/
def Mod.operateBar (m : Mod) : Nat :=
  if (m.voters.any fun x => !(m.lane x).rt.forces.isEmpty) = true then 1
  else if m.spsConfirmed = false then 2
  else if m.stationAccepted = false then 3
  else 0

/-- A token of kinds 2 to 4 applied (R420, R421): none where it may not be. -/
def Mod.applyRoot (m : Mod) (k : Token) : Option Mod :=
  let root := if k.target = 1 then m.jade.root1 else m.jade.root2
  let setRoot (j : Jade) (r : RootSlot) : Jade := if k.target = 1 then { j with root1 := r } else { j with root2 := r }
  if k.kind = 2 then
    some { m with jade := { m.jade with oproot := some k.key }
                  lanes := m.lanes.map fun l => { l with keys := { l.keys with oproot := Config.sha3 k.key } } }
  else if (k.target ≠ 1 ∧ k.target ≠ 2) ∨ k.rootsel = k.target ∨ (m.jade.rootKey k.rootsel).isNone then none
  else if k.kind = 3 then
    if 8 ≤ root.fuses.length then none
    else some { m with jade := setRoot m.jade ⟨root.fuses ++ [⟨Config.sha3 k.key, false⟩], k.key⟩ }
  else
    match root.fuses.getLast? with
    | some f => some { m with jade := setRoot m.jade { root with fuses := root.fuses.dropLast ++ [{ f with revoked := true }] } }
    | none => none

/-- A token applied in the present state: LCCOUNT one higher and recorded as a transition (R431). -/
def Mod.rootToken (m : Mod) (k : Token) : Mod × Ans :=
  let lc := m.jade.lc
  if k.kind < 2 ∨ 4 < k.kind ∨ k.strelone = false ∨ (k.kind = 2 ∧ k.target ≠ 3) then (m, ansBad mbVERIFY)
  else if (k.kind = 2 ∧ lc ≠ .commission) ∨ lc = .retired then (m, ansDetail mbCONDITION 4)
  else
    match m.applyRoot k with
    | none => (m, ansBad mbVERIFY)
    | some m1 => (({ m1 with jade := m1.jade.setLc lc } : Mod).put (lcEvt lc lc k.signer), ansOk [])

/-- A transition (R416 to R419). -/
def Mod.transition (m : Mod) (target : LcState) (op strel bound : Bool) (k : Token) (tr tag : Nat) : Mod × Ans :=
  let lc := m.jade.lc
  let hot := m.role == roleACTIVE && m.pair.partnerHot && m.pair.linkUp
  let bar := if target = .operate then m.operateBar else 0
  if k.kind ≠ 1 ∨ k.target ≠ target.code ∨ (k.rootsel = 3 ∧ op = false) ∨ (k.strelone = true ∧ strel = false) ∨ (bound = true ∧ hot = true ∧ k.nser ≠ 2) then
    (m, ansBad mbVERIFY)
  else if bound = true ∧ (m.inService = false ∨ m.role = roleHOT) then (m, ansBad mbSERVICE)
  else if lc = .operate ∧ target = .retired ∧ m.service ≠ .held ∧ m.role = roleACTIVE then (m, ansBad mbSERVICE)
  else if bar ≠ 0 then (m, ansDetail mbCONDITION bar)
  else if bound then
    let m1 : Mod := { m with lcWait := some ⟨target, m.cycle + 1, k.signer⟩ }
    (if hot then m1.ctrl ctrlLC (target.code + 256 * (m.cycle + 1)) else m1, ansOk [])
  else ({ m with jade := { m.jade with lcPending := some (target, k.signer), restart := some ⟨1, tr, tag, none⟩ } }, ansOk [])

/-- LC_SET. -/
def Mod.cmdLcSet (m : Mod) (req : MbReq) : Mod × Ans :=
  let p := req.payload
  let lc := m.jade.lc
  if lc = .retired ∧ Bytes.le p 0 1 ≠ LcState.manufacture.code then (m, ansBad mbSTATE)
  else if p.length ≠ 52 then (m, ansBad mbBADLEN)
  else
    match m.jade.session, lcOf (Bytes.le p 0 1) with
    | some s, _ => (m, .done mbBUSYUPDATE 0 s.holder [])
    | none, none => (m, ansBad mbBADARG)
    | none, some target =>
      let row := lcTable.find? fun r => r.1 == lc && r.2.1 == target
      if Bytes.le p 1 3 ≠ 0 then (m, ansBad mbBADARG)
      else if target ≠ lc ∧ row = none then (m, ansDetail mbCONDITION 4)
      else
        match m.jade.tokens.find? fun k => k.digest == Bytes.sub p 4 48 && decide (m.clock < k.at' + tenMin) with
        | none => (m, ansBad mbNOTFOUND)
        | some k =>
          if k.from' ≠ lc.code ∨ k.names serialNo m.jade.lcCount = false then (m, ansBad mbVERIFY)
          else
            let r := match row with
              | some w => m.transition target w.2.2.1 w.2.2.2.1 w.2.2.2.2 k req.tr req.tag
              | none => m.rootToken k
            if r.2 = ansOk [] then ({ r.1 with jade := { r.1.jade with tokens := r.1.jade.tokens.filter (· ≠ k) } }, r.2) else r

/-- RESTART: the life-cycle state of KIND 2, then the service state, then the payload (R405, R410). -/
def Mod.cmdRestart (m : Mod) (req : MbReq) : Mod × Ans :=
  let p := req.payload
  let kind := Bytes.le p 0 1
  if kind = 2 ∧ m.jade.lc ≠ .commission ∧ m.jade.lc ≠ .maintain then (m, ansBad mbSTATE)
  else if m.jade.lc = .operate ∧ m.service ≠ .held ∧ m.role ≠ roleHOT ∧ m.role ≠ roleCOLD then (m, ansDetail mbSERVICE 1)
  else if p.length ≠ 4 then (m, ansBad mbBADLEN)
  else if (kind ≠ 1 ∧ kind ≠ 2) ∨ Bytes.le p 1 3 ≠ 0 then (m, ansBad mbBADARG)
  else
    match m.jade.session with
    | some s => (m, .done mbBUSYUPDATE 0 s.holder [])
    | none =>
      if m.jade.restart.isSome then (m, ansOk [])
      else ({ m with jade := { m.jade with restart := some ⟨kind, req.tr, req.tag, none⟩ } }, ansOk [])

/-- RESTART_DELAY_EXPIRE: 100 ms after the response was sent, the module restarts. -/
def Mod.restartExpire (m : Mod) : Mod :=
  match m.jade.restart with
  | some r =>
    match r.sentAt with
    | some t0 => if t0 + 100000000 ≤ m.clock then ({ m with restart := { m.restart with cold := r.kind == 2 } } : Mod).restarted else m
    | none => m
  | none => m

/-! ### Group 0x03: images and update (R403, R425 to R435) -/

/-- What a session command of the holder runs on; a command of another transport, or one that names no open session, is refused. -/
def Mod.inSession (m : Mod) (req : MbReq) (busy : Bool) (f : Session → Mod × Ans) : Mod × Ans :=
  match m.jade.session with
  | none => (m, ansBad mbNOSESSION)
  | some s =>
    if s.holder ≠ req.tr then (m, if busy then .done mbBUSYUPDATE 0 s.holder [] else ansBad mbNOSESSION)
    else if s.id ≠ req.session then (m, ansBad mbNOSESSION)
    else f { s with lastAt := m.clock }

def Mod.setSession (m : Mod) (s : Option Session) : Mod := { m with jade := { m.jade with session := s } }

/-- What the partner answers; PARTNER where it cannot be reached. -/
def Mod.peerAns (m : Mod) (req : MbReq) : PeerAns :=
  match m.pair.linkUp, req.peer with
  | true, some a => a
  | _, _ => ⟨mbPARTNER, 0, []⟩

/-- A step of a propagating session runs in the partner first; its refusal ends the session. -/
def Mod.mirrored (m : Mod) (s : Session) (req : MbReq) (f : Mod × Ans) : Mod × Ans :=
  if s.prop = false then f
  else
    let a := m.peerAns req
    if a.status = 0 then f else (m.setSession none, ansDetail a.status a.detail)

def Mod.cmdUpdOpen (m : Mod) (req : MbReq) : Mod × Ans :=
  let p := req.payload
  let prop := Bytes.le p 0 1
  if p.length ≠ 4 then (m, ansBad mbBADLEN)
  else if 1 < prop ∨ Bytes.le p 1 3 ≠ 0 then (m, ansBad mbBADARG)
  else
    match m.jade.session with
    | some s => (m, .done mbBUSYUPDATE 0 s.holder [])
    | none =>
      let a := m.peerAns req
      if prop = 1 ∧ a.status ≠ 0 then (m, ansDetail a.status a.detail)
      else
        let id := Config.identifier m.jade.sessions % 2 ^ 32
        ({ m with jade := { m.jade with session := some ⟨req.tr, id, prop == 1, m.clock, []⟩, sessions := m.jade.sessions + 1 } },
         ansOk (leBytes 4 id))

/-- UPD_WRITE: image data at the expected offset; offset 0 begins the type anew. -/
def Mod.cmdUpdWrite (m : Mod) (req : MbReq) : Mod × Ans :=
  let p := req.payload
  let t := Bytes.le p 0 1
  let o := Bytes.le p 4 4
  let d := p.drop 8
  if p.length < 8 then (m, ansBad mbBADLEN)
  else
    m.inSession req true fun s =>
      let old : Blob := match s.images.find t with
        | some i => i.data
        | none => ⟨0, []⟩
      let b : Blob := if o = 0 then ⟨0, []⟩ else old
      if t = 0 ∨ 8 < t ∨ Bytes.le p 1 3 ≠ 0 then (m.setSession (some s), ansBad mbBADARG)
      else if m.jade.lc = .retired ∧ t ≠ 8 then (m.setSession (some s), ansBad mbSTATE)
      else if o ≠ b.len then (m.setSession (some s), ansDetail mbBADARG old.len)
      else
        let n : Blob := ⟨b.len + d.length, b.mem.wrBytes b.len d⟩
        m.mirrored s req (m.setSession (some { s with images := s.images.put t ⟨n, false⟩ }), ansOk [])

/-- The image of a type as it would run after a commit of the session: received, pending, running. -/
def Jade.would (j : Jade) (s : Session) (t : Nat) : Option Blob :=
  match s.images.find t with
  | some i => some i.data
  | none => match (j.img t).pending with
    | some b => some b
    | none => (j.img t).running

def Jade.genOk (j : Jade) (t : Nat) (b : Blob) : Bool :=
  t != 7 || (match j.keys with
    | some g => b.kgen == g.kgen || b.kgen == (g.kgen + 1) % 16
    | none => true)

/-- UPD_VERIFY: the nine checks. -/
def Mod.cmdUpdVerify (m : Mod) (req : MbReq) : Mod × Ans :=
  let p := req.payload
  let t := Bytes.le p 0 1
  if p.length ≠ 4 then (m, ansBad mbBADLEN)
  else
    m.inSession req true fun s =>
      match s.images.find t with
      | none => (m.setSession (some s), if t = 0 ∨ 8 < t then ansBad mbBADARG else ansBad mbNOTFOUND)
      | some i =>
        if Bytes.le p 1 3 ≠ 0 then (m.setSession (some s), ansBad mbBADARG)
        else
          let r := m.jade.verify (hwType m.full) i.data t (Jade.fmtFor (m.jade.would s 2) t i.data) (m.jade.genOk t i.data)
          if r.1 ≠ 0 then
            m.mirrored s req ((m.setSession (some s)).put (refusedEvt 3 (t, r.1, 0, noIndex)), ansDetail r.1 r.2)
          else
            m.mirrored s req (m.setSession (some { s with images := s.images.put t ⟨i.data, true⟩ }),
              ansOk (leBytes 4 i.data.version ++ leBytes 4 (if t = 2 then i.data.pcc else 0) ++ Bytes.pad i.data.digest 48))

/-- Whether STATION and SPS would be refused by the LANE image, or the STATION names another SPS (R429, R56). -/
def Jade.setBreaks (j : Jade) (full : Bool) (s : Session) : Bool :=
  match j.would s 2, j.would s 5, j.would s 6 with
  | some l, st, sp =>
    (match st with
      | some b => b.ifmt != l.stfmt
      | none => false)
    || (match sp with
      | some b => b.ifmt != l.spfmt
      | none => false)
    || (match st, sp with
      | some b, some c => (match b.section' 0xC with
        | some q => full && b.bytes q.off 8 != spsValue c.body
        | none => false)
      | some b, none => full && (b.section' 0xC).isSome
      | _, _ => false)
  | none, _, _ => false

/-- The reason of UPD_COMMIT's CONDITION; 0 for none (table "UPD_COMMIT reason codes"). -/
def Mod.commitBar (m : Mod) (s : Session) (act : Nat) : Nat :=
  let has (t : Nat) : Bool := (s.images.find t).isSome
  if (s.images.any fun p => !p.2.verified) = true then 1
  else if has 8 = true ∧ 1 < s.images.length then 5
  else if act = 2 ∧ (s.images.any fun p => p.1 != 5 && p.1 != 6) = true then 3
  else if act = 2 ∧ (m.hasStaged = true ∨ (Lane.all.any fun x => (m.lane x).staged.isSome) = true) then 4
  else if has 8 = false ∧ (has 2 || has 5 || has 6) = true ∧ m.jade.setBreaks m.full s = true then 2
  else 0

def customKPKG : Bytes := [0x4A, 0x57, 0x33, 0x58, 0x2D, 0x4B, 0x50, 0x4B, 0x47]

/-- The offset of block `k` of a key package, and its content decrypted for recipient `k` (R432). -/
def kpAt (b : Blob) : Nat → Nat
  | 0 => hdrLen + 64
  | k + 1 => let o := kpAt b k
    o + 1600 + b.le (o + 1576) 4
def kpOpen (b : Blob) (k : Nat) : Option Bytes :=
  let o := kpAt b k
  let key := Config.kmac256 (Config.kemDecapsulate k (b.bytes (o + 8) 1568)) b.digest customKPKG
  Config.gcmOpen (key.take 32) (b.bytes (o + 1584) (b.le (o + 1576) 4 + 16))

/-- A key package becomes active at its commit (R428, R433): Jade's block to Jade and the KST ports, the lane blocks to the lane key stores. -/
def Mod.activateKeys (m : Mod) (b : Blob) : Mod :=
  let slot := m.jade.img 7
  let adv := m.jade.lc == .commission || m.jade.lc == .operate || m.jade.lc == .maintain
  let j := m.jade.setImg 7 { slot with running := some b, fallback := slot.running, rollback := if adv then max slot.rollback b.rbidx else slot.rollback }
  let (j1, k) := match kpOpen b 0 with
    | some c => ({ j with keys := some ⟨b.kgen, c⟩ }, { m.kst with recs := (Config.keyAssocs c).map assocRec })
    | none => (j, m.kst)
  let lane (x : Lane) (l : LaneSt) : LaneSt :=
    match kpOpen b (x.idx + 1) with
    | some c => { l with keys := { l.keys with newest := some ⟨b.kgen, c⟩ } }
    | none => l
  { m with jade := j1, kst := k, lanes := m.lanes.mapL lane }

/-- A held token of the session's TOKEN image (R431). -/
def tokenOf (b : Blob) (t : Nat) : Token := ⟨b.digest, b.body, b.rootsel, Config.sha3 b.skey, t⟩

/-- The images of a session made pending together; a token is held, a key package becomes active (R431, R433, R435). -/
def Mod.commitAll (m : Mod) (s : Session) : Mod :=
  let one (m : Mod) (p : Nat × UpdImage) : Mod :=
    if p.1 = 8 then { m with jade := { m.jade with tokens := m.jade.tokens ++ [tokenOf p.2.data m.clock] } }
    else if p.1 = 7 then m.activateKeys p.2.data
    else { m with jade := { m.jade.setImg p.1 { m.jade.img p.1 with pending := some p.2.data } with marker := true } }
  s.images.foldl one m

/-- UPD_COMMIT. -/
def Mod.cmdUpdCommit (m : Mod) (req : MbReq) : Mod × Ans :=
  let p := req.payload
  let act := Bytes.le p 0 1
  let lc := m.jade.lc
  if p.length ≠ 4 then (m, ansBad mbBADLEN)
  else if act = 2 ∧ lc ≠ .commission ∧ lc ≠ .operate ∧ lc ≠ .maintain then (m, ansBad mbSTATE)
  else
    m.inSession req true fun s =>
      let bar := m.commitBar s act
      if (act ≠ 1 ∧ act ≠ 2) ∨ Bytes.le p 1 3 ≠ 0 then (m.setSession (some s), ansBad mbBADARG)
      else if bar ≠ 0 then m.mirrored s req (m.setSession (some s), ansDetail mbCONDITION bar)
      else if act = 1 then m.mirrored s req (((m.commitAll s).setSession none).wakeUsed, ansOk [])
      else
        let st : SMap Blob := s.images.map fun q => (q.1, q.2.data)
        let m1 : Mod := { m with jade := { m.jade with staged := st, session := none }
                                 lanes := m.lanes.map fun l => { l with staged := none, stagedSps := none, stageFail := none } }
        m.mirrored s req (m1.wakeUsed, .wait 0)

def Mod.cmdUpdAbort (m : Mod) (req : MbReq) : Mod × Ans :=
  if req.payload ≠ [] then (m, ansBad mbBADLEN)
  else m.inSession req false fun s => m.mirrored s req (m.setSession none, ansOk [])

def Mod.cmdUpdStatus (m : Mod) (req : MbReq) : Mod × Ans :=
  if req.payload ≠ [] then (m, ansBad mbBADLEN)
  else
    match m.jade.session with
    | none => (m, ansOk (leBytes 16 0))
    | some s =>
      let rcv := s.images.foldl (fun a p => if p.2.verified then a ||| 2 ^ p.1 else a) 0
      let m1 := if s.holder = req.tr ∧ s.id = req.session then m.setSession (some { s with lastAt := m.clock }) else m
      (m1, ansOk (leBytes 1 s.holder ++ leBytes 3 0 ++ leBytes 4 s.id ++ leBytes 4 ((m.clock - s.lastAt) / secNs) ++ leBytes 4 rcv))

def Mod.cmdImgInfo (m : Mod) (req : MbReq) : Mod × Ans :=
  let p := req.payload
  let t := Bytes.le p 0 1
  let which := Bytes.le p 1 1
  if p.length ≠ 4 then (m, ansBad mbBADLEN)
  else if t = 0 ∨ 8 < t ∨ 1 < which ∨ Bytes.le p 2 2 ≠ 0 then (m, ansBad mbBADARG)
  else
    let b := if which = 0 then (m.jade.img t).running else m.jade.session.bind fun s => (s.images.find t).map (·.data)
    match b with
    | some b => (m, ansOk (b.bytes 0 4064))
    | none => (m, ansBad mbNOTFOUND)

def Mod.cmdChgRead (m : Mod) (req : MbReq) : Mod × Ans :=
  let p := req.payload
  let o := Bytes.le p 0 4
  let n := Bytes.le p 4 2
  if p.length ≠ 8 then (m, ansBad mbBADLEN)
  else
    match (m.lane m.reader).rt.result with
    | none => (m, ansBad mbNOTFOUND)
    | some r => if 4032 < n ∨ Bytes.le p 6 2 ≠ 0 ∨ r.bytes.length < o + n then (m, ansBad mbBADARG) else (m, ansOk (Bytes.sub r.bytes o n))

/-- UPDATE_LOCK_IDLE: the lock ends 10 minutes after the last session command. -/
def Mod.lockIdle (m : Mod) : Mod :=
  match m.jade.session with
  | some s => if s.lastAt + tenMin ≤ m.clock then m.setSession none else m
  | none => m

/-- TOKEN_EXPIRE: tokens are held for 10 minutes. -/
def Mod.tokenExpire (m : Mod) : Mod :=
  { m with jade := { m.jade with tokens := m.jade.tokens.filter fun k => decide (m.clock < k.at' + tenMin) } }

/-! ### Group 0x04: configuration and commissioning (R290, R411, R412) -/

/-- Length, pair mark and states of a setting; none for an unknown ID. -/
def settingInfo (id : Nat) : Option (Nat × Bool × List LcState) :=
  let cm : List LcState := [.commission]
  let cmt : List LcState := [.commission, .maintain]
  let all : List LcState := [.manufacture, .lab, .commission, .operate, .maintain]
  match id with
  | 0x1 => some (4, false, cm)
  | 0x2 => some (8, false, cm)
  | 0x3 => some (4, false, cmt)
  | 0x4 => some (1, true, cmt)
  | 0x10 => some (6, true, cmt)
  | 0x11 => some (9, true, cmt)
  | 0x12 => some (2, true, cmt)
  | 0x13 => some (2, true, cmt)
  | 0x20 => some (9, false, all)
  | _ => if 0x100 < id ∧ id ≤ 0x140 then some (6, true, cmt) else none

/-- Whether a value lies in the range of its setting. -/
def settingOk (id : Nat) (v : Bytes) : Bool :=
  let n := Bytes.nat v
  match id with
  | 0x1 => decide (1 ≤ n ∧ n ≤ 600)
  | 0x2 =>
    let c := phCfgOf v
    decide (1 ≤ c.freq ∧ c.freq ≤ 4 ∧ c.inmask ≤ 3 ∧ c.ph2off ≤ 1023 ∧ 100 ≤ c.guardUs ∧ c.guardUs ≤ 500) && Bytes.le v 5 1 == 0
  | 0x3 => decide (n ≤ 86399)
  | 0x4 => decide (n ≤ 1)
  | 0x10 => !(Bytes.le v 0 1).testBit 0
  | 0x11 => decide (Bytes.le v 4 1 ≤ 32)
  | 0x12 => decide (1024 ≤ n)
  | 0x20 => decide (Bytes.le v 4 1 ≤ 32)
  | _ => true

def Mod.cmdSetRead (m : Mod) (req : MbReq) : Mod × Ans :=
  let p := req.payload
  let id := Bytes.le p 0 2
  if p.length ≠ 4 then (m, ansBad mbBADLEN)
  else
    match settingInfo id with
    | none => (m, ansBad mbBADARG)
    | some i => if Bytes.le p 2 2 ≠ 0 then (m, ansBad mbBADARG)
      else (m, ansOk (leBytes 2 id ++ leBytes 2 i.1 ++ Bytes.pad (m.jade.stored m.sid id) i.1))

def Mod.cmdSetWrite (m : Mod) (req : MbReq) : Mod × Ans :=
  let p := req.payload
  let id := Bytes.le p 0 2
  let n := Bytes.le p 2 2
  let v := p.drop 4
  if p.length < 4 ∨ v.length ≠ n then (m, ansBad mbBADLEN)
  else
    match settingInfo id with
    | none => (m, ansBad mbBADARG)
    | some i =>
      let a := m.peerAns req
      if i.2.2.contains m.jade.lc = false then (m, ansBad mbSTATE)
      else if req.tr = 3 ∧ i.2.1 = false then (m, ansBad mbTRANSPORT)
      else if n ≠ i.1 ∨ settingOk id v = false then (m, ansBad mbBADARG)
      else if i.2.1 = true ∧ req.tr ≠ 3 ∧ a.status ≠ 0 then (m, ansDetail a.status a.detail)
      else ({ m with jade := { m.jade with settings := m.jade.settings.put id v } }, ansOk [])

def Mod.cmdSpsList (m : Mod) (req : MbReq) : Mod × Ans :=
  let p := req.payload
  let o := Bytes.le p 0 2
  if m.full = false then (m, ansBad mbABSENT)
  else if p.length ≠ 4 then (m, ansBad mbBADLEN)
  else if 1728 < o ∨ Bytes.le p 2 2 ≠ 0 then (m, ansBad mbBADARG)
  else (m, ansOk ((Bytes.pad m.lio.sps 1728).drop o ++ Bytes.pad m.lio.spscv 8))

/-- The 8 bytes that a check value text spells (R288): four groups of four upper-case digits joined by hyphens; none in another form. -/
def hexVal (b : Byte) : Option Nat :=
  let n := b.toNat
  if 0x30 ≤ n ∧ n ≤ 0x39 then some (n - 0x30) else if 0x41 ≤ n ∧ n ≤ 0x46 then some (n - 0x37) else none
def cvDigits : Nat → Bytes → Option (List Nat)
  | _, [] => some []
  | i, b :: r =>
    if i = 4 ∨ i = 9 ∨ i = 14 then (if b = 0x2D#8 then cvDigits (i + 1) r else none)
    else
      match hexVal b, cvDigits (i + 1) r with
      | some d, some ds => some (d :: ds)
      | _, _ => none
def pairBytes : List Nat → Bytes
  | a :: b :: r => BitVec.ofNat 8 (16 * a + b) :: pairBytes r
  | _ => []
def cvOf (text : Bytes) : Option Bytes :=
  if text.length ≠ 20 ∨ text.getLast? ≠ some 0#8 then none else (cvDigits 0 (text.take 19)).map pairBytes

/-- A lane's confirmation record written (R289). -/
def LaneSt.confirmWrite (l : LaneSt) (t : Nat) : LaneSt :=
  let b := Bytes.pad (spsValue l.sps) 8 ++ leBytes 8 t ++ leBytes 12 0
  { l with mram := l.mram.wrBytes confirmAt (b ++ leBytes 4 (crc32c b)) }

def spsEvt (status tr : Nat) : Evt := { mkEvt 0x6002 3 7 0 (leBytes 1 status ++ leBytes 1 tr) with transport := tr }

/-- SPS_CONFIRM: the lanes and the controller compare; the third refusal in a row starts the lock-out. -/
def Mod.cmdSpsConfirm (m0 : Mod) (req : MbReq) : Mod × Ans :=
  let m : Mod := if m0.confirm.lockUntil ≠ 0 ∧ m0.confirm.lockUntil ≤ m0.clock then { m0 with confirm := ⟨0, 0⟩ } else m0
  if m.full = false then (m, ansBad mbABSENT)
  else if req.payload.length ≠ 20 then (m, ansBad mbBADLEN)
  else
    match cvOf req.payload with
    | none => (m, ansBad mbBADARG)
    | some v =>
      let say (m : Mod) (status detail : Nat) : Mod × Ans := (m.put (spsEvt status req.tr), ansDetail status detail)
      if m.clock < m.confirm.lockUntil then say m mbLOCKOUT ((m.confirm.lockUntil - m.clock + secNs - 1) / secNs)
      else if m.present.length < 2 then say m mbLANES 0
      else if m.lio.spscv = v ∧ m.lio.spsOk = true ∧ (m.present.all fun x => spsValue (m.lane x).sps == v) = true then
        say { m with confirm := ⟨0, 0⟩
                     lanes := m.lanes.mapL fun x l => if m.present.contains x then l.confirmWrite (m.laneTime x) else l } 0 0
      else
        let n := m.confirm.refusals + 1
        say { m with confirm := ⟨n, if 3 ≤ n then m.clock + tenMin else 0⟩ } mbREFUSED (3 - n)

/-- SPS_LOCKOUT_END. -/
def Mod.lockoutEnd (m : Mod) : Mod :=
  if m.confirm.lockUntil ≠ 0 ∧ m.confirm.lockUntil ≤ m.clock then { m with confirm := ⟨0, 0⟩ } else m

/-! ### Group 0x05: power policy (R479, R481) -/

def Mod.cmdPwrHint (m : Mod) (req : MbReq) : Mod × Ans :=
  let p := req.payload
  let g := Bytes.le p 0 1
  let lat := Bytes.le p 4 4
  if p.length ≠ 8 then (m, ansBad mbBADLEN)
  else if isGroup true g = false ∨ Bytes.le p 1 3 ≠ 0 then (m, ansBad mbBADARG)
  else if isGroup m.full g = false then (m, ansBad mbABSENT)
  else
    let pw := match allowedBy lat with
      | .running => m.power.wake g
      | .gated => if m.power.sect g = .off then m.power.wake g else m.power
      | .off => m.power
    ({ m with jade := { m.jade with hints := SMap.set 0 m.jade.hints g lat }, power := pw }, ansOk [])

/-- PWR_STATUS: the measured power is a value the manual gives no rule for. -/
def Mod.cmdPwrStatus (m : Mod) (req : MbReq) : Mod × Ans :=
  if req.payload ≠ [] then (m, ansBad mbBADLEN)
  else
    ({ m with free := m.free + 1 },
     ansOk ((List.range 12).flatMap (fun d => leBytes 1 (m.power.dom m.full d)) ++ leBytes 4 0 ++ leBytes 1 m.power.x1.status
       ++ leBytes 1 m.power.x2.status ++ leBytes 2 0 ++ leBytes 4 (Config.freeValue m.free)))

/-! ### Group 0x06: recorder (R413, R469) -/

def Amber.stored (a : Amber) : Nat := min a.count amberSlots

def Mod.cmdRecInfo (m : Mod) (req : MbReq) : Mod × Ans :=
  if req.payload ≠ [] then (m, ansBad mbBADLEN)
  else (m, ansOk (leBytes 4 m.amber.oldest ++ leBytes 4 m.amber.newest ++ leBytes 4 m.amber.stored ++ leBytes 4 amberSlots ++ leBytes 4 m.amber.suppr))

/-- Scan from a sequence number: the records found and the sequence at which a following read continues. -/
def Amber.readFrom (a : Amber) (mask : Nat) : Nat → Nat → Nat → List Bytes × Nat
  | 0, s, _ => ([], s)
  | n + 1, s, want =>
    if want = 0 ∨ a.count = 0 ∨ seqLater s a.newest = true then ([], s)
    else
      match a.store.find (s % amberSlots) with
      | some x =>
        if x.seq = s ∧ mask.testBit (x.body.code / 4096) then
          let r := Amber.readFrom a mask n (seqNext s) (want - 1)
          (x.bytes :: r.1, r.2)
        else Amber.readFrom a mask n (seqNext s) want
      | none => Amber.readFrom a mask n (seqNext s) want

def Mod.cmdRecRead (m : Mod) (req : MbReq) : Mod × Ans :=
  let p := req.payload
  let cnt := Bytes.le p 4 1
  if p.length ≠ 8 then (m, ansBad mbBADLEN)
  else if cnt = 0 ∨ 63 < cnt ∨ Bytes.le p 5 1 ≠ 0 then (m, ansBad mbBADARG)
  else
    let f := Bytes.le p 0 4
    let from' := if seqLater m.amber.oldest f then m.amber.oldest else f
    let r := m.amber.readFrom (Bytes.le p 6 2) 65536 from' cnt
    (m, ansOk (leBytes 4 m.amber.newest ++ leBytes 4 m.amber.oldest ++ leBytes 4 m.amber.newest ++ leBytes 4 r.2 ++ leBytes 2 r.1.length
      ++ leBytes 2 0 ++ r.1.flatten))

/-- Everything waiting in the intake buffers is written. -/
def Mod.drainAmber (m : Mod) : Mod :=
  { m with amber := Amber.drain ((m.amber.intake.map fun k => k.buf.length).foldl (· + ·) 0) m.amber m.clock m.sid }

def Mod.cmdRecMark (m : Mod) (req : MbReq) : Mod × Ans :=
  if req.payload.length ≠ 36 then (m, ansBad mbBADLEN)
  else
    let m1 := (m.drainAmber.put { mkEvt 0xC001 3 7 0 req.payload with transport := req.tr }).drainAmber
    (m1, ansOk (leBytes 4 m1.amber.newest))

/-! ### Group 0x07: diagnostics and BIST (R155, R158, R386 to R394) -/

/-- The next instant at which a lane's rotation falls due (R176). -/
def Mod.nextDue (m : Mod) (x : Lane) : Nat :=
  let b := m.books.get x
  match b.due with
  | some d => d
  | none =>
    let base := (Bytes.nat (m.jade.setting m.sid 3) + 28800 * x.idx) % daySec
    let from' := match b.restart with
      | some r => max m.clock (r + dayNs)
      | none => m.clock
    let s := from' / secNs
    (s + (base + daySec - s % daySec) % daySec) * secNs

def Mod.laneStatus (m : Mod) (x : Lane) : Bytes :=
  let l := m.lane x
  let flags := b2n l.voting + 2 * b2n l.shadow + 4 * b2n l.heldOut + 8 * b2n (m.books.get x).overdue + 16 * b2n (l.test.bist == .overrun)
    + 32 * b2n l.split
  leBytes 1 flags ++ leBytes 1 (min 255 (l.recentExits m.clock).length) ++ leBytes 2 0 ++ leBytes 8 (m.books.get x).last
    ++ leBytes 8 (m.nextDue x) ++ leBytes 12 0

def Mod.cmdLaneStatus (m : Mod) (req : MbReq) : Mod × Ans :=
  if req.payload ≠ [] then (m, ansBad mbBADLEN) else (m, ansOk (Lane.all.flatMap m.laneStatus))

def Mod.cmdSliceRead (m : Mod) (req : MbReq) : Mod × Ans :=
  let p := req.payload
  if p.length ≠ 4 then (m, ansBad mbBADLEN)
  else
    match laneOf (Bytes.le p 0 1) with
    | some x =>
      let s := Bytes.le p 1 1
      if 31 < s ∨ Bytes.le p 2 2 ≠ 0 then (m, ansBad mbBADARG) else (m, ansOk (((m.lane x).test.slices.getD s SliceRec.zero).bytes s))
    | none => (m, ansBad mbNOTFOUND)

/-- Whether a number is a target of R381. -/
def targetOk (t : Nat) : Bool :=
  let lane := bits t 31 28
  let lv := bits t 27 24
  let u := bits t 23 16
  let a := bits t 15 0
  let inLane := decide (lane < 3) && [0, 1, 2, 3, 4, 5, 6, 7, 8, 0xA, 0xB].contains u
  let outside := lane == 0xF && decide (0x40 ≤ u ∧ u ≤ 0x44)
  let arrays := if outside then 0 else match u with
    | 0 | 1 | 0xB => 16
    | 3 | 4 | 6 => 8
    | 8 => 2
    | 0xA => 128
    | _ => 0
  (inLane || outside) && ((lv == 3 && a == 0xFFFF) || (lv == 2 && decide (a < arrays)))

def bistAns (fail : Option Nat) : Ans :=
  ansOk (leBytes 1 (b2n fail.isSome) ++ leBytes 3 0 ++ leBytes 4 (fail.getD 0))

/-- The record of a lane test that failed. -/
def Mod.bistReport (m : Mod) (x : Lane) (fail : Option Nat) : Mod :=
  match fail with
  | some f => m.put { bistFail x.idx f 2 with transport := 0 }
  | none => m

/-- The service state after a lane test: counted again while the module is in service. -/
def Mod.bistService (m : Mod) : Mod := if m.inService then m.countService else m

/-- A lane tested on command outside a rotation loses its memory; it leaves the vote first and comes back through a rejoin (R394). -/
def Mod.bistLane (m : Mod) (x : Lane) (fail : Option Nat) : Mod :=
  let m1 := if (m.lane x).voting then (m.exitLane x exROTATION).tooFew else m
  let l := m1.lane x
  let l1 : LaneSt := { l.powerCycle with powered := l.powered, rejoin := m1.inService
                                         test := { l.powerCycle.test with bist := if fail.isSome then .failed else .passed, failTgt := fail.getD 0 } }
  let m2 : Mod := { m1.setLane x l1 with procs := m1.procs.set (procOf x) .inReset }
  (m2.bistReport x fail).bistService.gates

/-- BIST_RUN: a rotation in MAINTAIN; otherwise the test runs at once, `fail` being the first failing target it finds. -/
def Mod.cmdBistRun (m : Mod) (req : MbReq) (fail : Option Nat) : Mod × Ans :=
  let p := req.payload
  let t := Bytes.le p 0 4
  let pr := Bytes.le p 4 1
  if p.length ≠ 8 then (m, ansBad mbBADLEN)
  else if targetOk t = false ∨ pr = 0 ∨ 3 < pr ∨ Bytes.le p 5 3 ≠ 0 then (m, ansBad mbBADARG)
  else
    match laneOf (bits t 31 28) with
    | some x =>
      if m.jade.lc = .maintain then
        if m.bistWait.isSome then (m, ansDetail mbCONDITION 1) else ({ m with bistWait := some (x, m.clock) }, .wait (x.idx))
      else (m.bistLane x fail, bistAns fail)
    | none => if m.jade.lc = .maintain then (m, ansBad mbBADARG) else (m, bistAns fail)

/-- A commanded rotation observed: it waits for its conditions for 60 s, then runs, then its result is known. -/
def Mod.pollBist (m : Mod) (n : Nat) : Mod × Ans :=
  match laneOf n with
  | none => (m, ansBad mbABORTED)
  | some x =>
    match m.bistWait with
    | some w =>
      if w.1 = x then
        (if w.2 + 60 * secNs ≤ m.clock then ({ m with bistWait := none }, ansDetail mbCONDITION 1) else (m, .wait n))
      else (m, ansBad mbABORTED)
    | none =>
      if (m.rotation.any fun r => r.lane == x && r.kind == .commanded) = true then (m, .wait n)
      else
        let l := m.lane x
        (m, bistAns (if l.heldOut then some l.test.failTgt else none))

/-- The bytes of the valid copy of the repair record. -/
def repairBytes (mem : Mem) : Option Bytes :=
  (repairCopy mem).map fun k => mem.bytes (repairAt k) (64 + 16 * mem.rd (repairAt k) 2)

def Mod.cmdRepairRead (m : Mod) (req : MbReq) : Mod × Ans :=
  let p := req.payload
  if p.length ≠ 4 then (m, ansBad mbBADLEN)
  else
    match laneOf (Bytes.le p 0 1) with
    | none => (m, ansBad mbNOTFOUND)
    | some x =>
      let o := Bytes.le p 2 2
      match repairBytes (m.lane x).mram with
      | none => (m, ansBad mbNOTFOUND)
      | some b => if b.length < o ∨ Bytes.le p 1 1 ≠ 0 then (m, ansBad mbBADARG) else (m, ansOk ((b.drop o).take 4032))

/-- Soft entries copied into the fuse bank: at most 64 in all; a fused entry keeps its place with ORIGIN 4 (R392). -/
def fuseAll : List RepairEnt → List RepairEnt → List RepairEnt × List RepairEnt
  | [], fs => ([], fs)
  | e :: r, fs =>
    let can := e.spare != 0xFF && e.origin != 4 && decide (fs.length < 64)
    let e1 : RepairEnt := if can then { e with origin := 4 } else e
    let q := fuseAll r (if can then fs ++ [e1] else fs)
    (e1 :: q.1, q.2)

def Mod.cmdRepairFuse (m : Mod) (req : MbReq) : Mod × Ans :=
  let p := req.payload
  if p.length ≠ 4 then (m, ansBad mbBADLEN)
  else
    match laneOf (Bytes.le p 0 1) with
    | none => (m, ansBad mbNOTFOUND)
    | some x =>
      let out := match m.rotation with
        | some r => r.lane == x && r.kind == .commanded && r.step != .copying && r.step != .shadow
        | none => false
      if Bytes.le p 1 3 ≠ 0 then (m, ansBad mbBADARG)
      else if m.jade.lc = .maintain ∧ out = false then (m, ansDetail mbCONDITION 2)
      else
        let l := m.lane x
        let q := fuseAll (repairEnts l.mram) l.test.fuses
        let n := q.2.length - l.test.fuses.length
        let mram := if n = 0 then l.mram else repairWrite l.mram q.1
        (m.setLane x { l with mram := mram, test := { l.test with fuses := q.2 } }, ansOk (leBytes 2 n ++ leBytes 2 (64 - q.2.length)))

def Mod.cmdLaneReadmit (m : Mod) (req : MbReq) : Mod × Ans :=
  let p := req.payload
  if p.length ≠ 4 then (m, ansBad mbBADLEN)
  else
    match laneOf (Bytes.le p 0 1) with
    | none => (m, ansBad mbNOTFOUND)
    | some x =>
      let l := m.lane x
      if Bytes.le p 1 3 ≠ 0 then (m, ansBad mbBADARG)
      else if l.heldOut = false then (m, ansDetail mbCONDITION 3)
      else (m.setLane x { l with heldOut := false, exits := [], rejoin := true }, ansOk [])

def Mod.cmdLaneSplit (m : Mod) (req : MbReq) : Mod × Ans :=
  let p := req.payload
  if p.length ≠ 4 then (m, ansBad mbBADLEN)
  else
    match laneOf (Bytes.le p 0 1) with
    | none => (m, ansBad mbNOTFOUND)
    | some x =>
      let on := Bytes.le p 1 1
      if 1 < on ∨ Bytes.le p 2 2 ≠ 0 then (m, ansBad mbBADARG)
      else (m.modLane x fun l => { l with splitNext := on == 1 }, ansOk [])

def Mod.cmdLioReset (m : Mod) (req : MbReq) : Mod × Ans :=
  let p := req.payload
  let dir := Bytes.le p 0 1
  let ch := Bytes.le p 1 1
  let n := if dir = 0 then 96 else 48
  if m.full = false then (m, ansBad mbABSENT)
  else if p.length ≠ 4 then (m, ansBad mbBADLEN)
  else if 1 < dir ∨ (ch ≠ 0xFF ∧ n ≤ ch) ∨ Bytes.le p 2 2 ≠ 0 then (m, ansBad mbBADARG)
  else
    let cs := if ch = 0xFF then List.range n else [ch]
    ({ m with lio := cs.foldl (fun l c => l.faultReset dir c) m.lio }, ansOk [])

def chanOf (n : Nat) : Chan := if n = 0 then .a else .b

def Mod.cmdPortEnable (m : Mod) (req : MbReq) : Mod × Ans :=
  let p := req.payload
  let ch := Bytes.le p 0 1
  let k := Bytes.le p 2 2
  if p.length ≠ 4 then (m, ansBad mbBADLEN)
  else if 1 < ch ∨ Bytes.le p 1 1 ≠ 0 then (m, ansBad mbBADARG)
  else if m.obx.bk.used.contains k = false then (m, ansBad mbNOTFOUND)
  else ({ m with obx := m.obx.enablePort (chanOf ch) k }, ansOk [])

/-- ACYC: node, channel, what is asked (the layout of the request is the model's, assumption log 40). -/
def acycFrame (k item : Nat) (mcn : Nat) (key : Bytes) : Bytes :=
  linkSealed key (fhead 0x60 2 k ++ leBytes 4 mcn ++ leBytes 1 item ++ leBytes 7 0)

/-- NODE_DIAG: an ACYC to the node; one is under way at a time. The kept value is one more than the minor cycle it left in. -/
def Mod.cmdNodeDiag (m : Mod) (req : MbReq) : Mod × Ans :=
  let p := req.payload
  let k := Bytes.le p 0 2
  let ch := Bytes.le p 2 1
  if p.length ≠ 4 then (m, ansBad mbBADLEN)
  else if 1 < ch then (m, ansBad mbBADARG)
  else if m.obx.bk.used.contains k = false then (m, ansBad mbNOTFOUND)
  else if m.obx.acycFor.isSome then (m, .wait 0)
  else
    let m1 := m.send (.opbex (chanOf ch)) (acycFrame k (Bytes.le p 3 1) m.obx.mcn (Config.farLinkKey (modAddr m.sid)))
    ({ m1 with obx := { m1.obx with acycFor := some (k, req.tr * 256 + req.tag) } }, .wait (m.obx.mcn + 1))
def Mod.pollDiag (m : Mod) (req : MbReq) (arg : Nat) : Mod × Ans :=
  if arg = 0 then m.cmdNodeDiag req
  else if arg + 2 ≤ m.obx.mcn then ({ m with obx := { m.obx with acycFor := none } }, ansBad mbNOTFOUND)
  else (m, .wait arg)

def Mod.cmdObxStatus (m : Mod) (req : MbReq) : Mod × Ans :=
  let p := req.payload
  let f := Bytes.le p 0 2
  let n := Bytes.le p 2 2
  if p.length ≠ 4 then (m, ansBad mbBADLEN)
  else if f = 0 ∨ 1000 < n ∨ 1001 < f + n then (m, ansBad mbBADARG)
  else
    let l := m.lane m.reader
    (m, ansOk (leBytes 1 m.obx.chA.state ++ leBytes 1 m.obx.chB.state ++ leBytes 2 0
      ++ (List.range n).flatMap fun i => leBytes 4 (m.obx.nodest (f + i) (l.nodeVer m.obx.bk (f + i))).toNat))

def Mod.cmdLioStatus (m : Mod) (req : MbReq) : Mod × Ans :=
  if m.full = false then (m, ansBad mbABSENT)
  else if req.payload ≠ [] then (m, ansBad mbBADLEN)
  else
    let can := m.can
    (m, ansOk ((List.range 96).flatMap (fun c => leBytes 4 (m.lio.chst c)) ++ (List.range 48).flatMap (fun o => leBytes 4 (m.lio.outst can o))
      ++ leBytes 4 m.lio.tpst ++ leBytes 4 m.lio.bankst))

/-! ### Group 0x08: test and force -/

def Force.bytes (f : Force) : Bytes :=
  leBytes 1 0 ++ leBytes 1 f.kind ++ leBytes 2 0 ++ leBytes 4 f.key ++ leBytes 8 f.value ++ leBytes 4 f.mask ++ leBytes 4 0

def Mod.cmdForceList (m : Mod) (req : MbReq) : Mod × Ans :=
  let p := req.payload
  if p.length ≠ 4 then (m, ansBad mbBADLEN)
  else if Bytes.le p 2 2 ≠ 0 then (m, ansBad mbBADARG)
  else if m.inTail = false then (m, .wait 0)
  else
    let fs := (m.lane m.reader).rt.forces
    let sel := (fs.drop (Bytes.le p 0 2)).take 160
    (m, ansOk (leBytes 8 m.cycle ++ leBytes 2 fs.length ++ leBytes 2 sel.length ++ leBytes 4 0 ++ sel.flatMap Force.bytes))

/-- The value of a variable, zero-extended; none where the VID does not exist (R91). -/
def LaneSt.varValue (l : LaneSt) (vid : Nat) : Option Nat :=
  (l.image.varOf vid).map fun j => l.rdInst (l.image.vOff j) (min 8 (l.image.vSize j))

def Mod.cmdVarRead (m : Mod) (req : MbReq) : Mod × Ans :=
  let p := req.payload
  let n := Bytes.le p 0 2
  if p.length < 4 ∨ p.length ≠ 4 + 4 * n then (m, ansBad mbBADLEN)
  else if n = 0 ∨ 480 < n ∨ Bytes.le p 2 2 ≠ 0 then (m, ansBad mbBADARG)
  else if m.inTail = false then (m, .wait 0)
  else
    let l := m.lane m.reader
    let vs := (List.range n).map fun i => l.varValue (Bytes.le p (4 + 4 * i) 4)
    (m, .done 0 (vs.filter (·.isNone)).length 0 (leBytes 8 m.cycle ++ vs.flatMap fun v => leBytes 8 (v.getD 0xFFFFFFFFFFFFFFFF)))

def Mod.cmdPlaneRead (m : Mod) (req : MbReq) : Mod × Ans :=
  let p := req.payload
  let k := Bytes.le p 0 1
  if p.length ≠ 4 then (m, ansBad mbBADLEN)
  else if Bytes.le p 1 3 ≠ 0 ∨ (31 < k ∧ (k < 0x80 ∨ 0x8F < k)) then (m, ansBad mbBADARG)
  else if m.inTail = false then (m, .wait 0)
  else
    let b := (m.lane m.reader).beryl
    (m, ansOk (leBytes 8 m.cycle ++ if k < 32 then leBytes 2048 (b.el.get k).toNat else leBytes 512 (b.rt.get (k - 0x80)).toNat))

def Mod.cmdLedTest (m : Mod) (req : MbReq) : Mod × Ans :=
  if req.payload ≠ [] then (m, ansBad mbBADLEN)
  else ({ m with jade := { m.jade with ledUntil := some (m.clock + 5 * secNs) } }, ansOk [])

/-! ### Group 0x09: time -/

def Mod.cmdTimeRead (m : Mod) (req : MbReq) : Mod × Ans :=
  if req.payload ≠ [] then (m, ansBad mbBADLEN)
  else
    let t := m.time
    let ptp := if t.ptpInconsistent then 2 else if t.ptpValid then 1 else 0
    (m, ansOk (leBytes 8 m.now ++ leBytes 1 t.source ++ leBytes 1 (b2n t.verified) ++ leBytes 1 ptp ++ leBytes 1 t.ptpPort
      ++ leBytes 8 (t.ptpDelta % 2 ^ 64).toNat ++ leBytes 4 m.obx.syncReg.toNat ++ leBytes 4 m.obx.rateReg.toNat))

def Mod.cmdPtpDomain (m : Mod) (req : MbReq) : Mod × Ans :=
  let p := req.payload
  if p.length ≠ 4 then (m, ansBad mbBADLEN)
  else if 127 < Bytes.le p 0 1 ∨ Bytes.le p 1 3 ≠ 0 then (m, ansBad mbBADARG)
  else ({ m with jade := { m.jade with settings := m.jade.settings.put ptpId (leBytes 1 (Bytes.le p 0 1)) } }, ansOk [])

/-! ### Group 0x0A: pair (R335, R349, R353) -/

/-- Why the partner is not STANDBY-HOT. -/
def Mod.pairReason (m : Mod) : Nat :=
  let l := m.lane m.reader
  if m.pair.partnerHot = true ∨ m.role = roleHOT then 0
  else if m.pair.linkUp = false then 4
  else
    match m.pair.partner with
    | none => 4
    | some p =>
      if p.pcc ≠ l.pcc then 1
      else if p.station ≠ l.image.digest then 2
      else if p.sps ≠ spsValue l.sps then 3
      else if m.pair.heldCold then 6
      else if m.pair.following.isSome then 7
      else if m.pair.divergences ≠ [] then 5
      else 0

def Mod.cmdPairStatus (m : Mod) (req : MbReq) : Mod × Ans :=
  if req.payload ≠ [] then (m, ansBad mbBADLEN)
  else
    let peer := match m.pair.partner with
      | some p => (p.claim, p.pcc)
      | none => (0, 0)
    let flags := b2n m.pair.overdueAt.isSome + 2 * b2n m.pair.linkUp + 4 * b2n m.pair.heldCold
    (m, ansOk (leBytes 8 m.obx.claim ++ leBytes 8 peer.1 ++ leBytes 4 (m.lane m.reader).pcc ++ leBytes 4 peer.2 ++ leBytes 8 m.pair.lastChange
      ++ leBytes 1 flags ++ leBytes 1 m.pairReason
      ++ leBytes 1 (min 255 (m.pair.divergences.filter fun d => decide (m.clock < d + dayNs)).length) ++ leBytes 1 0))

/-- The first condition of R349 that fails, as SWAP reports it; 0 for none. -/
def Mod.swapBar (m : Mod) : Nat :=
  let full := match m.pair.partner with
    | some p => p.service == 3
    | none => false
  let busy := match m.pair.partner with
    | some p => p.rotating
    | none => false
  if m.service ≠ .full ∨ full = false then 1
  else if m.pair.partnerHot = false ∨ m.pair.hotCycles < 16 then 2
  else if m.rotation.isSome ∨ m.copy.isSome ∨ busy = true ∨ (m.voters.any fun x => (m.lane x).rt.change.isSome) = true then 3
  else if m.jade.session.isSome then 4
  else if m.obx.chA.state ≠ 2 ∨ m.obx.chB.state ≠ 2 then 5
  else if (m.pair.partner.any fun p => p.pcc != (m.lane m.reader).pcc) = true then 6
  else if m.pair.swap.isSome then 7
  else 0

def Mod.cmdSwap (m : Mod) (req : MbReq) : Mod × Ans :=
  if req.payload ≠ [] then (m, ansBad mbBADLEN)
  else if m.swapBar ≠ 0 then (m, ansDetail mbCONDITION m.swapBar)
  else
    let m1 := m.startSwap false true
    (m1, .wait ((m1.pair.swap.map (·.m)).getD 0))
/-- The swap observed: done when the role has changed, aborted when it ended otherwise or took longer than 2 s. -/
def Mod.pollSwap (m : Mod) (since arg : Nat) : Mod × Ans :=
  if m.role ≠ roleACTIVE ∧ m.inService = true then (m, ansOk (leBytes 8 arg))
  else if m.pair.swap.isNone ∨ since + 2 * secNs ≤ m.clock then (m, ansBad mbABORTED)
  else (m, .wait arg)

def Mod.cmdPairReadmit (m : Mod) (req : MbReq) : Mod × Ans :=
  if req.payload ≠ [] then (m, ansBad mbBADLEN)
  else ({ m with pair := { m.pair with heldCold := false, divergences := [] } }, ansOk [])

/-- UPD_COMMIT with ACT 2 observed: every voting lane has staged the image, or 3 × 45 s have passed. -/
def Mod.pollStage (m : Mod) (since : Nat) : Mod × Ans :=
  if m.hasStaged = false then (m, ansBad mbABORTED)
  else if m.voters ≠ [] ∧ (m.voters.all fun x => (m.lane x).staged.isSome || (m.lane x).stageFail.isSome) = true then (m, ansOk [])
  else if since + 135 * secNs ≤ m.clock then (m, ansBad mbABORTED)
  else (m, .wait 0)

end Sys2Proof.Machine
end

