-- ==== Sys2Proof/Machine/MailboxOps.lean ====
section
/-!
DEFINITION. Mailbox transports, acceptance, ordering and responses (14_jade_mailboxes.md R395 to R408).
-/
namespace Sys2Proof.Machine

/-! ### The commands by code (group tables of 14_jade_mailboxes.md) -/

/-- What a row of the group tables gives beside the effect: the states, † and ‡. An empty list of states stands for "All". -/
structure CmdInfo where
  code : Nat
  states : List LcState
  dagger : Bool
  active : Bool
  deriving DecidableEq, Repr

def lcNotRt : List LcState := [.manufacture, .lab, .commission, .operate, .maintain]
def lcCom : List LcState := [.commission, .operate, .maintain]
def lcCm : List LcState := [.commission, .maintain]
def lcMt : List LcState := [.maintain]

def cmdTable : List CmdInfo :=
  [⟨0x0101, [], false, false⟩, ⟨0x0102, [], false, false⟩, ⟨0x0103, [], false, false⟩, ⟨0x0104, [], false, false⟩,
   ⟨0x0105, [], false, false⟩, ⟨0x0201, [], false, false⟩, ⟨0x0202, [], false, false⟩, ⟨0x0203, lcNotRt, false, false⟩]
  ++ [⟨0x0301, [], false, false⟩, ⟨0x0302, [], false, false⟩, ⟨0x0303, [], false, false⟩, ⟨0x0304, [], false, false⟩,
   ⟨0x0305, [], false, false⟩, ⟨0x0306, [], false, false⟩, ⟨0x0307, [], false, false⟩, ⟨0x0308, [], false, false⟩]
  ++ [⟨0x0401, [], false, false⟩, ⟨0x0402, [], false, false⟩, ⟨0x0403, lcCom, true, false⟩, ⟨0x0404, lcCm, true, false⟩,
   ⟨0x0501, lcNotRt, false, false⟩, ⟨0x0502, [], false, false⟩, ⟨0x0601, [], false, false⟩, ⟨0x0602, [], false, false⟩,
   ⟨0x0603, lcNotRt, false, false⟩]
  ++ [⟨0x0701, [], false, false⟩, ⟨0x0702, [], false, false⟩, ⟨0x0703, [.manufacture, .lab, .maintain], false, false⟩,
   ⟨0x0704, [], false, false⟩, ⟨0x0705, [.manufacture, .maintain], false, false⟩, ⟨0x0706, lcMt, false, false⟩,
   ⟨0x0707, [.lab], false, false⟩, ⟨0x0708, lcCom, false, false⟩, ⟨0x0709, lcCom, false, true⟩, ⟨0x070A, lcNotRt, false, true⟩,
   ⟨0x070B, [], false, false⟩, ⟨0x070C, [], false, false⟩]
  ++ [⟨0x0801, [], true, false⟩, ⟨0x0802, lcCom, true, false⟩, ⟨0x0803, lcCom, true, false⟩, ⟨0x0804, [], false, false⟩,
   ⟨0x0901, [], false, false⟩, ⟨0x0902, lcCm, false, false⟩, ⟨0x0A01, [], false, false⟩, ⟨0x0A02, lcCom, false, true⟩,
   ⟨0x0A03, lcMt, false, false⟩]

def cmdInfo (cmd : Nat) : Option CmdInfo := cmdTable.find? fun i => i.code == cmd
def mbGroup (cmd : Nat) : Nat := cmd / 256

/-- The commands of a RETIRED module (R406). -/
def retiredTakes (cmd : Nat) : Bool :=
  cmd == 0x0201 || cmd == 0x0202 || mbGroup cmd == 1 || mbGroup cmd == 3 || cmd == 0x0601 || cmd == 0x0602
/-- The commands that may be forwarded (R408). -/
def forwardable (cmd : Nat) : Bool :=
  mbGroup cmd == 1 || mbGroup cmd == 3 || cmd == 0x0601 || cmd == 0x0602 || cmd == 0x0A01

/-- What Jade checks first of every command: ROM service and the life-cycle state (R405, R406); 0 where they take it. -/
def Mod.lifeAway (m : Mod) (i : CmdInfo) (tr : Nat) : Nat :=
  let lc := m.jade.lc
  if m.jade.mode = .romService ∧ ((mbGroup i.code ≠ 1 ∧ mbGroup i.code ≠ 3) ∨ tr = 3) then mbROMSERVICE
  else if (i.states ≠ [] ∧ i.states.contains lc = false) ∨ (lc = .retired ∧ retiredTakes i.code = false) then mbSTATE
  else 0

/-- The status with which Jade turns a command away before it looks at the payload (R405, R406): ROM service, life-cycle state,
transport, service state and role; 0 where it is accepted. -/
def Mod.turnAway (m : Mod) (i : CmdInfo) (tr : Nat) : Nat :=
  if m.lifeAway i tr ≠ 0 then m.lifeAway i tr
  else if tr = 3 ∧ forwardable i.code = false ∧ i.code ≠ 0x0402 then mbTRANSPORT
  else if (i.dagger = true ∧ (m.inService = false ∨ m.voters.length < 2)) ∨ (i.active = true ∧ m.role ≠ roleACTIVE) then mbSERVICE
  else 0

/-- One accepted command executed: `fail` is what a BIST it runs finds. -/
def Mod.runCmd (m : Mod) (cmd : Nat) (req : MbReq) (fail : Option Nat) : Mod × Ans :=
  match cmd with
  | 0x0101 => m.cmdIdRead req
  | 0x0102 => m.cmdIdKey req
  | 0x0103 => m.cmdAttest req
  | 0x0104 => m.cmdAttestRead req
  | 0x0105 => m.cmdImgList req
  | 0x0201 => m.cmdLcRead req
  | 0x0202 => m.cmdLcSet req
  | 0x0203 => m.cmdRestart req
  | 0x0301 => m.cmdUpdOpen req
  | 0x0302 => m.cmdUpdWrite req
  | 0x0303 => m.cmdUpdVerify req
  | 0x0304 => m.cmdUpdCommit req
  | 0x0305 => m.cmdUpdAbort req
  | 0x0306 => m.cmdUpdStatus req
  | 0x0307 => m.cmdImgInfo req
  | 0x0308 => m.cmdChgRead req
  | 0x0401 => m.cmdSetRead req
  | 0x0402 => m.cmdSetWrite req
  | 0x0403 => m.cmdSpsList req
  | 0x0404 => m.cmdSpsConfirm req
  | 0x0501 => m.cmdPwrHint req
  | 0x0502 => m.cmdPwrStatus req
  | 0x0601 => m.cmdRecInfo req
  | 0x0602 => m.cmdRecRead req
  | 0x0603 => m.cmdRecMark req
  | 0x0701 => m.cmdLaneStatus req
  | 0x0702 => m.cmdSliceRead req
  | 0x0703 => m.cmdBistRun req fail
  | 0x0704 => m.cmdRepairRead req
  | 0x0705 => m.cmdRepairFuse req
  | 0x0706 => m.cmdLaneReadmit req
  | 0x0707 => m.cmdLaneSplit req
  | 0x0708 => m.cmdLioReset req
  | 0x0709 => m.cmdPortEnable req
  | 0x070A => m.cmdNodeDiag req
  | 0x070B => m.cmdObxStatus req
  | 0x070C => m.cmdLioStatus req
  | 0x0801 => m.cmdForceList req
  | 0x0802 => m.cmdVarRead req
  | 0x0803 => m.cmdPlaneRead req
  | 0x0804 => m.cmdLedTest req
  | 0x0901 => m.cmdTimeRead req
  | 0x0902 => m.cmdPtpDomain req
  | 0x0A01 => m.cmdPairStatus req
  | 0x0A02 => m.cmdSwap req
  | 0x0A03 => m.cmdPairReadmit req
  | _ => (m, ansBad mbBADCMD)

/-- A command from its acceptance on (R405, R408): turned away, forwarded to the partner, or executed. -/
def Mod.startCmd (m : Mod) (cmd : Nat) (req : MbReq) (fail : Option Nat) : Mod × Ans :=
  match cmdInfo cmd with
  | none => (m, ansBad mbBADCMD)
  | some i =>
    if req.partner then
      if m.lifeAway i req.tr ≠ 0 then (m, ansBad (m.lifeAway i req.tr))
      else if forwardable cmd = false ∨ req.tr = 3 then (m, ansBad mbTRANSPORT)
      else if m.pair.linkUp = false then (m, ansBad mbPARTNER)
      else
        match req.peer with
        | some a => (m, .done a.status a.detail 0 a.payload)
        | none => (m, .wait 0)
    else if m.turnAway i req.tr ≠ 0 then (m, ansBad (m.turnAway i req.tr))
    else if req.rsv = true ∨ (req.session ≠ 0 ∧ (cmd < 0x0302 ∨ 0x0306 < cmd)) then (m, ansBad mbBADARG)
    else m.runCmd cmd req fail

/-- A running command observed (R402): ABORTED where the module has left service since, else its own progress. -/
def Mod.pollCmd (m : Mod) (j : MbJob) : Mod × Ans :=
  if j.forwarded then (m, .wait j.arg)
  else if j.svc = true ∧ m.inService = false then (m, ansDetail mbABORTED 0x0001)
  else
    match j.cmd with
    | 0x0304 => m.pollStage j.since
    | 0x0703 => m.pollBist j.arg
    | 0x070A => m.pollDiag j.req j.arg
    | 0x0A02 => m.pollSwap j.since j.arg
    | c => m.runCmd c j.req none

/-! ### Transports and ordering (R396, R397, R401) -/

def Mod.modConn (m : Mod) (tr : Nat) (f : MbConn → MbConn) : Mod := { m with jade := m.jade.setConn tr (f (m.jade.conn tr)) }

/-- A completed command: its response waits to be written; that of a lost connection is discarded. -/
def Mod.respond (m : Mod) (j : MbJob) (status detail holder : Nat) (payload : Bytes) : Mod :=
  if j.lost then m
  else m.modConn j.req.tr fun c => { c with ready := c.ready ++ [⟨j.cmd, j.req.tag, status, detail, holder, payload⟩] }

/-- Whether a waiting request may start after those kept before it (R401). -/
def mayStart (before : List MbJob) (j : MbJob) : Bool :=
  (before.all fun k => mbGroup k.cmd != mbGroup j.cmd && !k.req.fence) && (!j.req.fence || before.isEmpty)

/-- One request of the ring in its turn: it starts, goes on, or completes. Before a command starts, `arg` holds what a BIST it runs finds,
plus one. -/
def Mod.turn (m : Mod) (before : List MbJob) (j : MbJob) : Mod × Option MbJob :=
  if j.started = false ∧ mayStart before j = false then (m, some j)
  else
    let r := if j.started then m.pollCmd j else m.startCmd j.cmd j.req (if j.arg = 0 then none else some (j.arg - 1))
    match r.2 with
    | .done s d h p => (r.1.respond j s d h p, none)
    | .wait a =>
      if j.started then (r.1, some { j with arg := a })
      else (r.1, some { j with started := true, since := m.clock, forwarded := j.req.partner, arg := a, svc := m.inService })

/-- The requests of a ring in order. -/
def Mod.turns : List MbJob → List MbJob → Mod → Mod × List MbJob
  | [], kept, m => (m, kept)
  | j :: r, kept, m =>
    match m.turn kept j with
    | (m1, some j1) => Mod.turns r (kept ++ [j1]) m1
    | (m1, none) => Mod.turns r kept m1

def Mod.pump (m : Mod) (tr : Nat) : Mod :=
  let js := (m.jade.conn tr).jobs
  let r := Mod.turns js [] (m.modConn tr fun c => { c with jobs := [] })
  r.1.modConn tr fun c => { c with jobs := r.2 ++ c.jobs }

/-- Whether Jade takes requests of a transport: its connection is open; the partner's come over the pair link (R395, R408). -/
def Mod.connOpen (m : Mod) (tr : Nat) : Bool :=
  m.jade.mode != .off && (if tr = 3 then m.pair.linkUp else (tr == 1 || tr == 2) && (m.jade.conn tr).isOpen)

/-- A request taken from its ring (R397 to R401): a TAG in flight is answered TAG_BUSY, everything else takes its turn. -/
def Mod.request (m : Mod) (cmd : Nat) (req : MbReq) (fail : Option Nat) : Mod :=
  let c := m.jade.conn req.tr
  if m.connOpen req.tr = false ∨ 256 ≤ c.jobs.length then m
  else
    let j : MbJob := ⟨cmd, req, false, m.clock, false, (match fail with
      | some f => f + 1
      | none => 0), false, false⟩
    let m1 := m.modConn req.tr fun c => { c with consumed := c.consumed + 1, rspcons := req.rspcons }
    if ((c.jobs.any fun k => k.req.tag == req.tag) || c.ready.any fun r => r.tag == req.tag) = true then
      m1.respond j mbTAGBUSY 0 0 []
    else (m1.modConn req.tr fun c => { c with jobs := c.jobs ++ [j] }).pump req.tr

/-- UNKNOWN_COMMAND_CODE: a request whose code no table lists (R404). -/
def Mod.unknownCommand (m : Mod) (code : Nat) (req : MbReq) : Mod :=
  if (cmdInfo code).isSome then m else m.request code req none

/-- The 32-byte response descriptor and the payload (R399). -/
def Mod.responseBytes (m : Mod) (c : MbConn) (r : MbResp) : Bytes :=
  let lcs := if m.jade.mode = .romService then 0 else m.jade.lc.code
  let h := leBytes 2 r.cmd ++ leBytes 1 r.tag ++ leBytes 1 r.status ++ leBytes 2 r.payload.length ++ leBytes 1 lcs ++ leBytes 1 m.service.code
    ++ leBytes 4 c.written ++ leBytes 4 c.consumed ++ leBytes 4 r.detail ++ leBytes 1 r.holder ++ leBytes 1 (claimOf m.obx.claim).role ++ leBytes 6 0
  h ++ leBytes 4 (crc32c (h ++ r.payload)) ++ r.payload

/-- MAILBOX_RESPONSE_SEND: commands that have completed in the meantime answer, then one response is written while the ring has room. -/
def Mod.responseSend (m0 : Mod) (tr : Nat) : Mod :=
  let m := if m0.jade.mode = .off then m0 else m0.pump tr
  let c := m.jade.conn tr
  match c.ready with
  | [] => m
  | r :: rest =>
    if m.connOpen tr = false ∨ c.rspcons + 256 ≤ c.written then m
    else
      let m1 := (m.send (.mailbox tr) (m.responseBytes c r)).modConn tr fun c => { c with ready := rest, written := c.written + 1 }
      match m1.jade.restart with
      | some q => if q.tr = tr ∧ q.tag = r.tag ∧ q.sentAt = none then { m1 with jade := { m1.jade with restart := some { q with sentAt := some m1.clock } } } else m1
      | none => m1

/-- CONNECTION_OPEN on transport 1 or 2: one at a time, its section running; the host port of a module with a bad slot coding stays
closed (R396, 19_connectors_and_ratings.md R492). -/
def Mod.connectionOpen (m : Mod) (tr : Nat) : Mod :=
  let c := m.jade.conn tr
  if (tr ≠ 1 ∧ tr ≠ 2) ∨ m.jade.mode = .off ∨ c.isOpen = true ∨ m.power.sect tr ≠ .running ∨ (tr = 2 ∧ m.power.slotBad = true) then m
  else m.modConn tr fun c => { c with isOpen := true, consumed := 0, written := 0, rspcons := 0, ready := [] }

/-- A connection is lost: what was taken from it runs on, its responses are discarded; a restart whose answer is lost with it counts from
now. -/
def Mod.connectionLost (m : Mod) (tr : Nat) : Mod :=
  if (tr ≠ 1 ∧ tr ≠ 2) ∨ (m.jade.conn tr).isOpen = false then m
  else
    let m1 := m.modConn tr fun c => { c with isOpen := false, ready := [], jobs := c.jobs.map fun j => { j with lost := true } }
    match m1.jade.restart with
    | some q => if q.tr = tr ∧ q.sentAt = none then { m1 with jade := { m1.jade with restart := some { q with sentAt := some m1.clock } } } else m1
    | none => m1

/-- MAILBOX_REQUEST_ERROR: a framing fault is counted and closes the connection (R400). -/
def Mod.requestError (m : Mod) (tr : Nat) : Mod :=
  if m.connOpen tr = false then m
  else (m.modConn tr fun c => { c with errors := c.errors + 1 }).connectionLost tr

/-- PARTNER_FORWARD_TIMEOUT: a forwarded request unanswered for 2 s is answered PARTNER (R408). -/
def Mod.forwardTimeout (m : Mod) (tr tag : Nat) : Mod :=
  match (m.jade.conn tr).jobs.find? fun j => j.forwarded && j.started && j.req.tag == tag with
  | some j =>
    if m.clock < j.since + 2 * secNs then m
    else ((m.modConn tr fun c => { c with jobs := c.jobs.filter fun k => k.req.tag != tag }).respond j mbPARTNER 0 0 []).pump tr
  | none => m

/-- ACYR_RECEIVE: the master takes a node's answer and completes the NODE_DIAG command under way (R198). -/
def Mod.acyr (m : Mod) (k : Nat) (payload : Bytes) : Mod :=
  match m.obx.acycFor with
  | some (n, w) =>
    if n ≠ k then m
    else
      let tr := w / 256
      let m1 : Mod := { m with obx := { m.obx with acycFor := none } }
      match (m1.jade.conn tr).jobs.find? fun j => j.cmd == 0x070A && j.started && j.req.tag == w % 256 with
      | some j => ((m1.modConn tr fun c => { c with jobs := c.jobs.filter fun k => k.req.tag != w % 256 }).respond j 0 0 0 payload).pump tr
      | none => m1
  | none => m

end Sys2Proof.Machine
end

