-- ==== Sys2Proof/Machine/MailboxCmdsA.lean ====
section
/-!
DEFINITION. The commands of mailbox transports and groups 0x01 to 0x06 (14_jade_mailboxes.md).
-/
namespace Sys2Proof.Machine

/-- CONNECTION_OPEN (R396). A mailbox connection opens on transport 1 or 2 and starts both rings at sequence 0. -/
def execConnectionOpen (tr : Nat) (t : Nat) (s : State) : Result := s.at t fun m => m.connectionOpen tr

/-- CONNECTION_LOST (R396). A mailbox connection is lost, and running requests complete with their responses discarded. -/
def execConnectionLost (tr : Nat) (t : Nat) (s : State) : Result := s.at t fun m => m.connectionLost tr

/-- MAILBOX_RESPONSE_SEND (R397). A completed command's response is written when the response ring has room. -/
def execMailboxResponseSend (tr : Nat) (t : Nat) (s : State) : Result := s.at t fun m => m.responseSend tr

/-- PARTNER_FORWARD_TIMEOUT (R408). A forwarded request gets no partner answer within 2 s and is answered PARTNER. -/
def execPartnerForwardTimeout (tr tag : Nat) (t : Nat) (s : State) : Result := s.at t fun m => m.forwardTimeout tr tag

/-- UPDATE_LOCK_IDLE (R403). An update lock ends after 10 minutes without a session command. -/
def execUpdateLockIdle (t : Nat) (s : State) : Result := s.at t fun m => m.lockIdle

/-- ATTEST_REPORT_EXPIRE (R408). Jade discards an attestation report 10 minutes after it was formed. -/
def execAttestReportExpire (tr : Nat) (t : Nat) (s : State) : Result := s.at t fun m => m.reportExpire tr

/-- TOKEN_EXPIRE (R431). Jade discards a committed token after 10 minutes. -/
def execTokenExpire (t : Nat) (s : State) : Result := s.at t fun m => m.tokenExpire

/-- ID_READ (R409). Returns the identity record. -/
def execIdRead (req : MbReq) (t : Nat) (s : State) : Result := s.at t fun m => m.request 0x0101 req none

/-- ID_KEY (R409). Returns the identity public key. -/
def execIdKey (req : MbReq) (t : Nat) (s : State) : Result := s.at t fun m => m.request 0x0102 req none

/-- ATTEST (R424). Forms and signs an attestation report over the nonce. -/
def execAttest (req : MbReq) (t : Nat) (s : State) : Result := s.at t fun m => m.request 0x0103 req none

/-- ATTEST_READ (R424). Returns a piece of an attestation report. -/
def execAttestRead (req : MbReq) (t : Nat) (s : State) : Result := s.at t fun m => m.request 0x0104 req none

/-- IMG_LIST (R426). Returns one entry per image type with version, rollback counter and digest. -/
def execImgList (req : MbReq) (t : Nat) (s : State) : Result := s.at t fun m => m.request 0x0105 req none

/-- LC_READ (R501). Returns life-cycle state, service state, role, last restart kind, HELD cause and uptime. -/
def execLcRead (req : MbReq) (t : Nat) (s : State) : Result := s.at t fun m => m.request 0x0201 req none

/-- LC_SET (R416). Applies a signed token as a life-cycle transition or a root change. -/
def execLcSet (req : MbReq) (t : Nat) (s : State) : Result := s.at t fun m => m.request 0x0202 req none

/-- RESTART (R410). Accepts a restart command, which follows 100 ms after the response. -/
def execRestart (req : MbReq) (t : Nat) (s : State) : Result := s.at t fun m => m.request 0x0203 req none

/-- RESTART_DELAY_EXPIRE (R410). 100 ms after the response to RESTART or a restart transition, the module restarts. -/
def execRestartDelayExpire (t : Nat) (s : State) : Result := s.at t fun m => m.restartExpire

/-- UPD_OPEN (R403). Opens an update session and takes the update lock. -/
def execUpdOpen (req : MbReq) (t : Nat) (s : State) : Result := s.at t fun m => m.request 0x0301 req none

/-- UPD_WRITE (R435). Writes image data at the expected offset. -/
def execUpdWrite (req : MbReq) (t : Nat) (s : State) : Result := s.at t fun m => m.request 0x0302 req none

/-- UPD_VERIFY (R427). Verifies an image by the nine checks. -/
def execUpdVerify (req : MbReq) (t : Nat) (s : State) : Result := s.at t fun m => m.request 0x0303 req none

/-- UPD_COMMIT (R435). Makes every image of the session pending together, or stages it for online change. -/
def execUpdCommit (req : MbReq) (t : Nat) (s : State) : Result := s.at t fun m => m.request 0x0304 req none

/-- UPD_ABORT (R403). Ends the update session and discards its data. -/
def execUpdAbort (req : MbReq) (t : Nat) (s : State) : Result := s.at t fun m => m.request 0x0305 req none

/-- UPD_STATUS (R403). Returns the update lock holder and session state. -/
def execUpdStatus (req : MbReq) (t : Nat) (s : State) : Result := s.at t fun m => m.request 0x0306 req none

/-- IMG_INFO (R425). Returns the common header of a running or received image. -/
def execImgInfo (req : MbReq) (t : Nat) (s : State) : Result := s.at t fun m => m.request 0x0307 req none

/-- CHG_READ (R148). Returns part of the change result. -/
def execChgRead (req : MbReq) (t : Nat) (s : State) : Result := s.at t fun m => m.request 0x0308 req none

/-- SET_READ (R411). Returns the value of a local setting. -/
def execSetRead (req : MbReq) (t : Nat) (s : State) : Result := s.at t fun m => m.request 0x0401 req none

/-- SET_WRITE (R411). Writes a local setting, into both modules for pair settings. -/
def execSetWrite (req : MbReq) (t : Nat) (s : State) : Result := s.at t fun m => m.request 0x0402 req none

/-- SPS_LIST (R290). Returns the decoded SPS body and LIO_SPSCV. -/
def execSpsList (req : MbReq) (t : Nat) (s : State) : Result := s.at t fun m => m.request 0x0403 req none

/-- SPS_CONFIRM (R412). The lanes and the controller compare the entered check value, and the lanes write confirmation records or count a
refusal. -/
def execSpsConfirm (req : MbReq) (t : Nat) (s : State) : Result := s.at t fun m => m.request 0x0404 req none

/-- SPS_LOCKOUT_END (R290). The 10-minute confirmation lockout ends, and the refusal count is reset. -/
def execSpsLockoutEnd (t : Nat) (s : State) : Result := s.at t fun m => m.lockoutEnd

/-- PWR_HINT (R481). Sets the wake latency of an interface group. -/
def execPwrHint (req : MbReq) (t : Nat) (s : State) : Result := s.at t fun m => m.request 0x0501 req none

/-- PWR_STATUS (R479). Returns domain states, input states and measured power. -/
def execPwrStatus (req : MbReq) (t : Nat) (s : State) : Result := s.at t fun m => m.request 0x0502 req none

/-- REC_INFO (R413). Returns the recorder's oldest, newest, count, capacity and suppressed totals. -/
def execRecInfo (req : MbReq) (t : Nat) (s : State) : Result := s.at t fun m => m.request 0x0601 req none

/-- REC_READ (R413). Returns records under the snapshot rule. -/
def execRecRead (req : MbReq) (t : Nat) (s : State) : Result := s.at t fun m => m.request 0x0602 req none

/-- REC_MARK (R469). Writes a MARK record with the given text. -/
def execRecMark (req : MbReq) (t : Nat) (s : State) : Result := s.at t fun m => m.request 0x0603 req none

/-- ACYR_RECEIVE (R198). The master receives a node's ACYR and completes the NODE_DIAG command with its payload. -/
def execAcyrReceive (k : Nat) (body : Bytes) (t : Nat) (s : State) : Result := s.at t fun m => m.acyr k body

/-- MAILBOX_REQUEST_ERROR (R400). A mailbox request with a failing CHK, a wrong SEQ or a PLEN above 4,064 is counted, receives no
response, and the connection is closed. -/
def execMailboxRequestError (tr : Nat) (t : Nat) (s : State) : Result := s.at t fun m => m.requestError tr

/-- UNKNOWN_COMMAND_CODE (R404). A mailbox request with an unknown command code is answered BADCMD. -/
def execUnknownCommandCode (code : Nat) (req : MbReq) (t : Nat) (s : State) : Result := s.at t fun m => m.unknownCommand code req

end Sys2Proof.Machine
end

