-- ==== Sys2Proof/Machine/MailboxCmdsB.lean ====
section
/-!
DEFINITION. The commands of mailbox groups 0x07 to 0x0A (14_jade_mailboxes.md).
-/
namespace Sys2Proof.Machine

/-- LANE_STATUS (R386). Returns the status of each lane. -/
def execLaneStatus (req : MbReq) (t : Nat) (s : State) : Result := s.at t fun m => m.request 0x0701 req none

/-- SLICE_READ (R386). Returns a slice result record. -/
def execSliceRead (req : MbReq) (t : Nat) (s : State) : Result := s.at t fun m => m.request 0x0702 req none

/-- BIST_RUN (R394). Runs a commanded BIST, in MAINTAIN as a rotation of the lane. -/
def execBistRun (req : MbReq) (fail : Option Nat) (t : Nat) (s : State) : Result := s.at t fun m => m.request 0x0703 req fail

/-- REPAIR_READ (R389). Returns the valid repair record copy. -/
def execRepairRead (req : MbReq) (t : Nat) (s : State) : Result := s.at t fun m => m.request 0x0704 req none

/-- REPAIR_FUSE (R392). Copies soft repair entries into the lane's fuse bank. -/
def execRepairFuse (req : MbReq) (t : Nat) (s : State) : Result := s.at t fun m => m.request 0x0705 req none

/-- LANE_READMIT (R155). Re-admits a held-out lane through a rejoin. -/
def execLaneReadmit (req : MbReq) (t : Nat) (s : State) : Result := s.at t fun m => m.request 0x0706 req none

/-- LANE_SPLIT (R158). Sets the split option for the lane's next start. -/
def execLaneSplit (req : MbReq) (t : Nat) (s : State) : Result := s.at t fun m => m.request 0x0707 req none

/-- LIO_RESET (R265). Gives a fault reset to local input or output channels. -/
def execLioReset (req : MbReq) (t : Nat) (s : State) : Result := s.at t fun m => m.request 0x0708 req none

/-- PORT_ENABLE (R221). Re-enables a star node port that stays disabled. -/
def execPortEnable (req : MbReq) (t : Nat) (s : State) : Result := s.at t fun m => m.request 0x0709 req none

/-- NODE_DIAG (R198). Reads node diagnostics by ACYC and ACYR. -/
def execNodeDiag (req : MbReq) (t : Nat) (s : State) : Result := s.at t fun m => m.request 0x070A req none

/-- OBX_STATUS (R234). Returns channel states and node status words. -/
def execObxStatus (req : MbReq) (t : Nat) (s : State) : Result := s.at t fun m => m.request 0x070B req none

/-- LIO_STATUS (R291). Returns input, output, supply and bank status words. -/
def execLioStatus (req : MbReq) (t : Nat) (s : State) : Result := s.at t fun m => m.request 0x070C req none

/-- FORCE_LIST (R145). Returns the force table from the earliest voting lane. -/
def execForceList (req : MbReq) (t : Nat) (s : State) : Result := s.at t fun m => m.request 0x0801 req none

/-- VAR_READ (R91). Returns variable values by VID. -/
def execVarRead (req : MbReq) (t : Nat) (s : State) : Result := s.at t fun m => m.request 0x0802 req none

/-- PLANE_READ (R50). Returns one state plane. -/
def execPlaneRead (req : MbReq) (t : Nat) (s : State) : Result := s.at t fun m => m.request 0x0803 req none

/-- LED_TEST (R488). Lights every front LED for 5 s. -/
def execLedTest (req : MbReq) (t : Nat) (s : State) : Result := s.at t fun m => m.request 0x0804 req none

/-- TIME_READ (R238). Returns module time, its source, PTP state and sync status. -/
def execTimeRead (req : MbReq) (t : Nat) (s : State) : Result := s.at t fun m => m.request 0x0901 req none

/-- PTP_DOMAIN (R240). Sets the PTP domain number. -/
def execPtpDomain (req : MbReq) (t : Nat) (s : State) : Result := s.at t fun m => m.request 0x0902 req none

/-- PAIR_STATUS (R353). Returns claims, PCCs, last change of roles, flags and reason. -/
def execPairStatus (req : MbReq) (t : Nat) (s : State) : Result := s.at t fun m => m.request 0x0A01 req none

/-- SWAP (R349). Starts a planned role swap and answers when it completes. -/
def execSwap (req : MbReq) (t : Nat) (s : State) : Result := s.at t fun m => m.request 0x0A02 req none

/-- PAIR_READMIT (R335). Re-admits a standby held STANDBY-COLD after repeated divergence. -/
def execPairReadmit (req : MbReq) (t : Nat) (s : State) : Result := s.at t fun m => m.request 0x0A03 req none

end Sys2Proof.Machine
end

