-- ==== Sys2Proof/Machine/MoverCmds.lean ====
section
/-!
DEFINITION. The commands of the movers and crossings (16_movers_checks_crossings.md).
-/
namespace Sys2Proof.Machine

/-- TDM_COMMIT (R444). Setting COMMIT arms a channel to copy its shadow registers at the next hand-over. -/
def execTdmCommit (x : Lane) (k : Nat) (t : Nat) (s : State) : Result := s.at t fun m => m.tdmCommit x k

/-- TDM_HANDOVER (R444). A channel finishes its block, copies the shadow to the active copy and starts the next descriptor. -/
def execTdmHandover (x : Lane) (k : Nat) (t : Nat) (s : State) : Result := s.at t fun m => m.tdmHandover x k

/-- TDM_PAUSE (R445). Setting PAUSE stops new reads, and the channel reads paused within 2 µs. -/
def execTdmPause (x : Lane) (k n : Nat) (t : Nat) (s : State) : Result := s.at t fun m => m.tdmPause x k n

/-- TDM_RESUME (R445). Clearing PAUSE resumes the block exactly where it stopped. -/
def execTdmResume (x : Lane) (k : Nat) (t : Nat) (s : State) : Result := s.at t fun m => m.tdmResume x k

/-- TDM_ABORT (R446). Writing ABORT stops the channel, discards unwritten data and clears COMMIT. -/
def execTdmAbort (x : Lane) (k n : Nat) (powerDown : Bool) (t : Nat) (s : State) : Result := s.at t fun m => m.tdmAbort x k n powerDown

/-- TDM_ERROR (R447). A channel meets an error, stops in state error and raises TDM_IRQ.ERR. -/
def execTdmError (x : Lane) (k n code : Nat) (t : Nat) (s : State) : Result := s.at t fun m => m.tdmError x k n code

/-- TDM_CTRL_WRITE (R459). Writing TDM_CTRL.EN = 0 aborts every channel. -/
def execTdmCtrlWrite (x : Lane) (v : Word32) (t : Nat) (s : State) : Result := s.at t fun m => m.tdmCtrl x v

/-- TDM_ERRCAP_READ (R460). A read of TDM_ERRCAP returns and clears it and keeps the value in TDM_ERRCAP_LR. -/
def execTdmErrcapRead (x : Lane) (t : Nat) (s : State) : Result := s.at t fun m => m.laneDo x LaneSt.readTdmErr

/-- SCU_FG_GO (R450). Setting SCU_FG_CFG.GO starts a foreground CRC-64 job. -/
def execScuFgGo (x : Lane) (t : Nat) (s : State) : Result := s.at t fun m => m.scuGo x

/-- SCU_FG_DONE (R450). A foreground job ends, with mismatches recorded and FGDONE raised. -/
def execScuFgDone (x : Lane) (ecc : List Nat) (t : Nat) (s : State) : Result := s.at t fun m => m.scuDone x ecc

/-- SCU_BG_ENABLE (R451). Setting SCU_CTRL.BGEN starts the continuous background scan. -/
def execScuBgEnable (x : Lane) (t : Nat) (s : State) : Result := s.at t fun m => m.scuBgEnable x

/-- SCU_BG_PASS (R451). A background pass ends, and the scan restarts at entry 0. -/
def execScuBgPass (x : Lane) (ecc : List Nat) (t : Nat) (s : State) : Result := s.at t fun m => m.scuBgPass x ecc

/-- SCU_ERRCAP_READ (R460). A read of SCU_ERRCAP returns and clears it and keeps the value in SCU_ERRCAP_LR. -/
def execScuErrcapRead (x : Lane) (t : Nat) (s : State) : Result := s.at t fun m => m.laneDo x LaneSt.readScuErr

/-- CROSSING_TIMEOUT (R456). The far clock of a crossing makes no cycle within 64 cycles, so the crossing holds its outputs and records a
timeout. -/
def execCrossingTimeout (x : Lane) (k : Nat) (laneStopped : Bool) (t : Nat) (s : State) : Result :=
  s.at t fun m => m.crossTimeout x k laneStopped

/-- CROSSING_RESET (R457). Both halves of a crossing are reset together and leave reset once both clocks run. -/
def execCrossingReset (x : Lane) (k : Nat) (held : Bool) (t : Nat) (s : State) : Result := s.at t fun m => m.crossReset x k held

end Sys2Proof.Machine
end

