-- ==== Sys2Proof/Machine/NodeCmds.lean ====
section
/-!
DEFINITION. The commands of object controllers and stars (07_opbex.md).
-/
namespace Sys2Proof.Machine

/-- NODE_POLL_ACCEPT (R206). An object controller checks a POLL and accepts it, updating HCLAIM and its commands. -/
def execNodePollAccept (k : Nat) (ch : Chan) (f : Frame) (inp : NodeIn) (t : Nat) (s : State) : Result :=
  s.at t fun m => m.nodePoll k ch f inp

/-- NODE_FRESHNESS_EXPIRE (R208). A node's missed-poll count reaches FTO, and every channel goes to its CODE 7 state. -/
def execNodeFreshnessExpire (k : Nat) (t : Nat) (s : State) : Result := s.at t fun m => m.nodeExpire k

/-- NODE_NPOLL (R209). A node answers an NPOLL without changing a command. -/
def execNodeNpoll (k : Nat) (ch : Chan) (f : Frame) (inp : NodeIn) (t : Nat) (s : State) : Result := s.at t fun m => m.nodeNpoll k ch f inp

/-- NODE_HPOLL (R209). A node answers an HPOLL and puts every channel in its CODE 7 state. -/
def execNodeHpoll (k : Nat) (ch : Chan) (f : Frame) (inp : NodeIn) (t : Nat) (s : State) : Result := s.at t fun m => m.nodeHpoll k ch f inp

/-- NODE_CYC_RECEIVE (R230). A node receives a CYC and sets or follows its time base. -/
def execNodeCycReceive (k : Nat) (ch : Chan) (f : Frame) (t : Nat) (s : State) : Result := s.at t fun m => m.nodeCyc k ch f

/-- NODE_HCLAIM_CLEAR (R230). A node clears HCLAIM after 1 s without a valid CYC. -/
def execNodeHclaimClear (k : Nat) (t : Nat) (s : State) : Result := s.at t fun m => m.nodeClaimClear k

/-- NODE_COMMIT_REACHED (R253). A node's Ψ reaches a pending command's commit index, and the command is applied. -/
def execNodeCommitReached (k : Nat) (t : Nat) (s : State) : Result := s.at t fun m => m.nodeCommit k

/-- STAR_FRAME_FILTER (R219). A star forwards a frame that starts within an open window and blocks or truncates the rest. -/
def execStarFrameFilter (ch : Chan) (p : SPort) (f : Frame) (t : Nat) (s : State) : Result := s.at t fun m => m.starFilter ch p f

/-- PORT_REENABLE (R221). The master re-enables a disabled node port by SMGT 10 s after it was disabled. -/
def execPortReenable (ch : Chan) (k : Nat) (t : Nat) (s : State) : Result := s.at t fun m => m.portReenable ch k

/-- STAR_GRANT (R222). After two missed minor cycles, a star sends GRANT in its grant window. -/
def execStarGrant (ch : Chan) (t : Nat) (s : State) : Result := s.at t fun m => m.starGrant ch

/-- STAR_COLD_ARBITRATE (R220). Before its first CYC, a star forwards the first of two overlapping COLD or CYC frames, or the higher claim
on a tie. -/
def execStarColdArbitrate (ch : Chan) (p1 t1 : Nat) (f1 : Frame) (t2 : Nat) (f2 : Frame) (t : Nat) (s : State) : Result :=
  s.at t fun m => m.starCold ch p1 t1 f1 t2 f2

/-- ECHO (R197). A node or star receives an ECHO, answers with an ECHOR 300 ns after its end delimiter, and a node takes the DLY_A and
DLY_B values for time synchronisation. -/
def execEcho (who : Who) (ch : Chan) (f : Frame) (t : Nat) (s : State) : Result := s.at t fun m => m.echoAt who ch f

/-- SMGT (R198). A star receives an SMGT with window programming, port enables or a swap handover, acts on it and answers with an SRPT in
its next management window. -/
def execSmgt (ch : Chan) (f : Frame) (g : Smgt) (t : Nat) (s : State) : Result := s.at t fun m => m.starSmgt ch f g

/-- ACYC (R198). A node receives an ACYC in an acyclic window and answers with an ACYR carrying its identity, versions or counters. -/
def execAcyc (k : Nat) (ch : Chan) (f : Frame) (content : Bytes) (t : Nat) (s : State) : Result := s.at t fun m => m.nodeAcyc k ch f content

/-- NODE_SENSE_INPUT_CHANGE (R252). A node's own supply sense input becomes valid or invalid: Ψ locks with a forward step, or runs at
nominal rate with NEVT 0x0303. -/
def execNodeSenseInputChange (k : Nat) (valid : Bool) (tick mhz : Nat) (t : Nat) (s : State) : Result :=
  s.at t fun m => m.nodeSense k valid tick mhz

/-- NODE_RESET (R230). An object controller resets, clearing HCLAIM, its time base and its phase alignment until a new valid CYC arrives.
-/
def execNodeReset (k : Nat) (t : Nat) (s : State) : Result := s.at t fun m => m.nodeReset k

/-- STAR_POWER_UP (R220). A star powers up and, until it forwards its first CYC, accepts COLD and CYC from both module ports and keeps its
node ports closed. -/
def execStarPowerUp (ch : Chan) (t : Nat) (s : State) : Result := s.at t fun m => m.starPower ch

end Sys2Proof.Machine
end

