-- ==== Sys2Proof/Machine/OpbexCmds.lean ====
section
/-!
DEFINITION. The commands of the Opbex channel controllers (07_opbex.md).
-/
namespace Sys2Proof.Machine

/-- MINOR_CYCLE_START (R202). At MCSn the active master sends CYC on both channels with MCN, claim, L, bank and flags. -/
def execMinorCycleStart (t : Nat) (s : State) : Result := s.at t fun m => m.minorStart

/-- POLL_ASSEMBLE (R27). The channel controller builds a node's poll from the newest sealed set 5 µs before the poll window opens. -/
def execPollAssemble (ch : Chan) (k : Nat) (t : Nat) (s : State) : Result := s.at t fun m => m.pollAssemble ch k

/-- POLL_SEND (R194). The master sends a POLL, NPOLL or HPOLL to a node at its computed poll instant. -/
def execPollSend (ch : Chan) (k : Nat) (t : Nat) (s : State) : Result := s.at t fun m => m.pollSend ch k

/-- REPLY_RECEIVE (R211). A channel controller checks a reply, and the arbiter passes the first valid copy to the lanes. -/
def execReplyReceive (ch : Chan) (f : Frame) (second : Option Frame) (t : Nat) (s : State) : Result :=
  s.at t fun m => m.replyReceive ch f second

/-- ECHO_SEND (R197). The master sends an ECHO to its star or to a node in an echo window. -/
def execEchoSend (ch : Chan) (w : Nat) (t : Nat) (s : State) : Result := s.at t fun m => m.echoSend ch w

/-- ECHOR_RECEIVE (R197). The master measures the round trip from an ECHOR and updates dm or dk. -/
def execEchorReceive (ch : Chan) (f : Frame) (t : Nat) (s : State) : Result := s.at t fun m => m.echorReceive ch f

/-- MARKER_ITEM (R211). Each channel controller delivers a minor-cycle marker item at MCSn + 3,880 µs. -/
def execMarkerItem (ch : Chan) (t : Nat) (s : State) : Result := s.at t fun m => m.markerItem ch

/-- SMGT_SEND (R198). The master sends an SMGT to each star in every minor cycle. -/
def execSmgtSend (ch : Chan) (t : Nat) (s : State) : Result := s.at t fun m => m.smgtSend ch

/-- SRPT_RECEIVE (R198). The master receives a star's SRPT with port reports and acknowledgements. -/
def execSrptReceive (ch : Chan) (f : Frame) (rep : Srpt) (t : Nat) (s : State) : Result := s.at t fun m => m.srptReceive ch f rep

/-- SYNC_SEND (R223). A sync source sends its SYNC on both channels in its sync window. -/
def execSyncSend (who : Who) (t : Nat) (s : State) : Result := s.at t fun m => m.syncSend who

/-- SYNC_RECEIVE (R224). A participant measures the deviation of a received SYNC. -/
def execSyncReceive (who : Who) (ch : Chan) (f : Frame) (t : Nat) (s : State) : Result := s.at t fun m => m.syncReceive who ch f

/-- OFFSET_CORRECTION (R225). At MCSn + 3,940 µs a participant applies the fault-tolerant average as an offset step. -/
def execOffsetCorrection (who : Who) (t : Nat) (s : State) : Result := s.at t fun m => m.offsetCorrect who

/-- RATE_CORRECTION (R226). At each major-cycle boundary a participant updates its rate correction. -/
def execRateCorrection (who : Who) (t : Nat) (s : State) : Result := s.at t fun m => m.rateCorrect who

/-- CHANNEL_FAIL (R214). At the end of a minor cycle a channel controller declares its channel failed or re-admits it. -/
def execChannelFail (ch : Chan) (light : Bool) (t : Nat) (s : State) : Result := s.at t fun m => m.channelJudge ch light

/-- OBX_BANKSW_WRITE (R218). A lane sets or withdraws its request to switch to the inactive schedule bank. -/
def execObxBankswWrite (x : Lane) (v : Word32) (t : Nat) (s : State) : Result := s.at t fun m => m.bankSwWrite x v

/-- BANK_SWITCH (R218). A schedule bank switch requested by two lanes takes effect at a major-cycle boundary. -/
def execBankSwitch (t : Nat) (s : State) : Result := s.at t fun m => m.bankSwitch

/-- NODE_VERSION_MOVE (R232). A node moves to a higher protocol version from the next major cycle. -/
def execNodeVersionMove (k : Nat) (t : Nat) (s : State) : Result := s.at t fun m => m.versionMove k

/-- AGGREGATE_REPORT (R233). At the end of a major cycle the lanes write aggregate or per-node NEVT records. -/
def execAggregateReport (t : Nat) (s : State) : Result := s.at t fun m => m.aggregate

/-- CYCLE_POINT (R235). A cycle point fires at its offset and is counted in OBX_CPCNT. -/
def execCyclePoint (x : Lane) (k : Nat) (t : Nat) (s : State) : Result := s.at t fun m => m.cyclePoint x k

/-- OBX_CP_WRITE (R235). A write to OBX_CPk defines a cycle point that takes effect from the next minor cycle. -/
def execObxCpWrite (x : Lane) (k : Nat) (v : Word32) (t : Nat) (s : State) : Result := s.at t fun m => m.laneDo x fun l => l.cpWrite k v

/-- OBX_ERRCAP_READ (R236). A read of OBX_ERRCAP returns and clears it and copies it into OBX_ERRCAP_LR. -/
def execObxErrcapRead (x : Lane) (t : Nat) (s : State) : Result := s.at t fun m => m.laneDo x LaneSt.readObxErr

/-- LISTEN_TIMEOUT (R227). After 40 ms of Opbex listening without a valid CYC, the module sets its time and begins a cold start. -/
def execListenTimeout (t : Nat) (s : State) : Result := s.at t fun m => m.listenTimeout

/-- COLD_SEND (R228). A module in cold start sends a COLD on both channels every 1,000 + 50 × (SID mod 16) µs. -/
def execColdSend (t : Nat) (s : State) : Result := s.at t fun m => m.coldSend

/-- COLD_RECEIVE (R228). A module in cold start receives a COLD and yields to a higher claim or continues. -/
def execColdReceive (f : Frame) (t : Nat) (s : State) : Result := s.at t fun m => m.coldReceive f

/-- BECOME_MASTER (R229). After 20 ms and 16 COLD frames unopposed, the module stores its EPOCH, fixes T0 and becomes master. -/
def execBecomeMaster (t : Nat) (s : State) : Result := s.at t fun m => m.becomeMaster

/-- CYC_RECEIVE (R227). A module that is listening, in cold start or standby receives a valid CYC: it yields, takes the STANDBY-COLD role,
sets its time base once, or notes the active module's frame for takeover condition 3. -/
def execCycReceive (ch : Chan) (f : Frame) (t : Nat) (s : State) : Result := s.at t fun m => m.cycReceive ch f

end Sys2Proof.Machine
end

