-- ==== Sys2Proof/Machine/PairCmds.lean ====
section
/-!
DEFINITION. The commands of the module pair (11_module_pair.md; 12_faults_and_guarantees.md R360).
-/
namespace Sys2Proof.Machine

/-- FOLLOW (R334). A standby lane verifies a FOLLOW record, resolves its references and runs the followed cycle. -/
def execFollow (f : FollowRec) (excs : PerLane (Option ProgExc)) (ins : PerLane SliceIn) (t : Nat) (s : State) : Result :=
  s.at t fun m => m.follow f excs ins

/-- FACK (R333). The active module receives the FACK of a cycle and hands over that cycle's sealed set. -/
def execFack (c : Nat) (t : Nat) (s : State) : Result := s.at t fun m => m.fack c

/-- FACK_TIMEOUT (R333). No FACK has arrived within 500 µs, so the set is handed over and the partner made STANDBY-COLD. -/
def execFackTimeout (t : Nat) (s : State) : Result := s.at t fun m => m.fackTimeout

/-- SUM (R335). The standby compares its voted summary with the SUM and counts matches or diverges. -/
def execSum (c : Nat) (value : Option Nat) (t : Nat) (s : State) : Result := s.at t fun m => m.sum c value

/-- FETCH (R334). The active module receives a FETCH and answers it with the item in full. -/
def execFetch (ref : ReplyRef) (t : Nat) (s : State) : Result := s.at t fun m => m.fetch ref

/-- ITEM (R334). The standby receives an ITEM that resolves a reference it lacked. -/
def execItem (it : Item) (excs : PerLane (Option ProgExc)) (ins : PerLane SliceIn) (t : Nat) (s : State) : Result :=
  s.at t fun m => m.itemArrives it excs ins

/-- DELAY (R336). The standby takes every node's dk and τ from a DELAY frame. -/
def execDelay (es : List (Chan × Nat × Int × Int)) (t : Nat) (s : State) : Result := s.at t fun m => m.delay es

/-- STBY_SEND (R336). The standby sends STBY in the pair window of every minor cycle. -/
def execStbySend (ch : Chan) (t : Nat) (s : State) : Result := s.at t fun m => m.stbySend ch

/-- STBY (R336). A star receives STBY and answers it with an ECHOR to that module port. -/
def execStby (ch : Chan) (p : Nat) (f : Frame) (t : Nat) (s : State) : Result := s.at t fun m => m.stby ch p f

/-- SWAP_OFFER (R349). The standby receives a CTRL swap offer naming minor cycle m and answers with swap accept and its raised claim. -/
def execSwapOffer (n : Nat) (t : Nat) (s : State) : Result := s.at t fun m => m.swapOffer n

/-- SWAP_ACCEPT (R349). The active module receives swap accept and prepares the swap sequence. -/
def execSwapAccept (n : Nat) (t : Nat) (s : State) : Result := s.at t fun m => m.swapAccept n

/-- SWAP_ABORT (R349). A CTRL abort before the swap commit ends the swap, and the active module resumes its cuts. -/
def execSwapAbort (t : Nat) (s : State) : Result := s.at t fun m => m.swapAbort

/-- SWAP_CUT_STOP (R349). At MCS(m − 2) the active module takes no further cut and completes its running cycle. -/
def execSwapCutStop (t : Nat) (s : State) : Result := s.at t fun m => m.swapCutStop

/-- SWAP_STAR_HANDOVER (R349). At MCS(m − 1) + 3,000 µs the active module sends the SMGT handover, and the swap commits on the stars'
acknowledgements. -/
def execSwapStarHandover (t : Nat) (s : State) : Result := s.at t fun m => m.swapHandover

/-- SWAP_ROLE_CHANGE (R349). At MCS(m) the former active module becomes STANDBY-HOT and the new one sends CYC and polls. -/
def execSwapRoleChange (t : Nat) (s : State) : Result := s.at t fun m => m.swapRoles

/-- RELINQUISH_ACK (R346). The active module receives the partner's acknowledgement of relinquish and stops sending on Opbex. -/
def execRelinquishAck (t : Nat) (s : State) : Result := s.at t fun m => m.relinquishAck

/-- RELINQUISH_ACK_TIMEOUT (R346). No acknowledgement has arrived within 1 ms, so the module stays ACTIVE in HELD. -/
def execRelinquishAckTimeout (t : Nat) (s : State) : Result := s.at t fun m => m.relinquishLate

/-- STANDBY_DEMOTE (R333). A CTRL frame from the active module makes the partner STANDBY-COLD. -/
def execStandbyDemote (t : Nat) (s : State) : Result := s.at t fun m => m.demote

/-- LC_STATE_PASS (R419). A CTRL frame passes a new life-cycle state to the partner, and both apply it at the same cycle. -/
def execLcStatePass (st : LcState) (cycle : Nat) (signer : Bytes) (t : Nat) (s : State) : Result := s.at t fun m => m.lcPass st cycle signer

/-- PAIR_CTRL_STATUS (R338). A CTRL frame reports claim, role, PCC, digests, SPS check value, interface health or verified time. -/
def execPairCtrlStatus (p : PairStatus) (t : Nat) (s : State) : Result := s.at t fun m => m.ctrlStatus p

/-- PAIR_LINK_FAULT (R337). A pair link fault makes the standby STANDBY-COLD at once. -/
def execPairLinkFault (t : Nat) (s : State) : Result := s.at t fun m => m.pairLinkFault

/-- PAIR_LINK_RETRAIN (R337). The pair link retrains every 10 s. -/
def execPairLinkRetrain (ok : Bool) (t : Nat) (s : State) : Result := s.at t fun m => m.pairLinkRetrain ok

/-- STANDBY_STATE_COPY (R339). When the conditions hold, the active module copies its state to the standby and then sends FOLLOW. -/
def execStandbyStateCopy (src : LaneSt) (t : Nat) (s : State) : Result := s.at t fun m => m.standbyCopy src

/-- HIGHER_CLAIM_RECEIVED (R330). An active module receives a higher ACTIVE claim, stops transmitting and enters HELD. -/
def execHigherClaimReceived (claim : Nat) (t : Nat) (s : State) : Result := s.at t fun m => m.higherClaim claim

/-- GRANT (R340). A standby receives a GRANT and takes over if conditions 1 to 4 hold. -/
def execGrant (ch : Chan) (f : Frame) (t : Nat) (s : State) : Result := s.at t fun m => m.grant ch f

/-- AUTOSWAP_START (R351). At ROT_BASE + 4 h after 6 days without a change of roles, the ACTIVE module starts a swap, retrying every 60 s.
-/
def execAutoswapStart (t : Nat) (s : State) : Result := s.at t fun m => m.autoswap

/-- SWAP_OVERDUE (R351). After 7 days without a change of roles, the swap is flagged overdue and recorded every 24 h. -/
def execSwapOverdue (t : Nat) (s : State) : Result := s.at t fun m => m.swapOverdue

/-- FAULT_SWAP (R360). Loss of both KST ports, the local I/O controller, the bridge or a used Draip port starts a swap to a healthy
STANDBY-HOT partner. -/
def execFaultSwap (t : Nat) (s : State) : Result := s.at t fun m => m.faultSwap

/-- RELINQUISH_RECEIVED (R346). A STANDBY-HOT module receives a CTRL relinquish over the pair link and acknowledges it, which meets
takeover condition 4. -/
def execRelinquishReceived (t : Nat) (s : State) : Result := s.at t fun m => m.relinquished

end Sys2Proof.Machine
end

