-- ==== Sys2Proof/Machine/PowerCmds.lean ====
section
/-!
DEFINITION. The commands of the power manager (18_power_domains.md; 19_connectors_and_ratings.md R497).
-/
namespace Sys2Proof.Machine

/-- SUPPLY_INPUT_LOSS (R474). A supply input is declared lost and recorded. -/
def execSupplyInputLoss (input status : Nat) (t : Nat) (s : State) : Result := s.at t fun m => m.supplyLoss input status

/-- SUPPLY_INPUT_RETURN (R474). A supply input has been in range for 100 ms and is declared returned. -/
def execSupplyInputReturn (input status : Nat) (t : Nat) (s : State) : Result := s.at t fun m => m.supplyReturn input status

/-- PFAIL (R476). The hold-up store reaches the PFAIL level, so the lanes are silenced, the module enters HELD and Amber drains. -/
def execPfail (t : Nat) (s : State) : Result := s.at t fun m => m.pfailAt

/-- SHUTDOWN_LEVEL (R476). At the shutdown level, the power manager switches the domains off in order, PD0 last. -/
def execShutdownLevel (t : Nat) (s : State) : Result := s.at t fun m => m.shutdown

/-- DOMAIN_SLEEP (R482). A group's sleep condition has held for 10 s, so it is gated or switched off by its hint. -/
def execDomainSleep (g : Nat) (t : Nat) (s : State) : Result := s.at t fun m => m.domainSleep g

/-- WAKE_EVENT (R482). A wake event wakes a sleeping section, or cancels a power-down still draining. -/
def execWakeEvent (g : Nat) (t : Nat) (s : State) : Result := s.at t fun m => m.wake g

/-- POWER_DOWN_DRAIN (R484). Before a domain goes down, its crossings close to new transfers while transfers in flight drain. -/
def execPowerDownDrain (target : Nat) (t : Nat) (s : State) : Result := s.at t fun m => m.drainStart target

/-- DRAIN_TIMEOUT (R484). After 200 µs, transfers still in flight are aborted and recorded, and the domain is switched off. -/
def execDrainTimeout (target : Nat) (left : List (Xfer × Nat)) (t : Nat) (s : State) : Result := s.at t fun m => m.drainEnd target left

/-- DIE_TEMP_WARNING (R497). A lane junction reaches 110 °C, and a warning record is written. -/
def execDieTempWarning (x : Lane) (t : Nat) (s : State) : Result := s.at t fun m => m.tempWarning x

/-- DIE_TEMP_TRIP (R497). A lane junction reaches 125 °C, so its power-good monitor trips and the lane is silent. -/
def execDieTempTrip (x : Lane) (t : Nat) (s : State) : Result := s.at t fun m => m.tempTrip x

end Sys2Proof.Machine
end

