-- ==== Sys2Proof/Machine/RecorderCmds.lean ====
section
/-!
DEFINITION. The commands of the recorder (17_amber_recorder.md).
-/
namespace Sys2Proof.Machine

/-- AMBER_RECORD_WRITE (R463). Amber takes a record from an intake buffer, numbers it, seals it and writes it to MRAM. -/
def execAmberRecordWrite (t : Nat) (s : State) : Result := s.at t fun m => m.amberTake

/-- AMBER_INTAKE_REFUSE (R463). A record offered to a full intake buffer is refused and counted, and a LOST record follows. -/
def execAmberIntakeRefuse (e : Evt) (t : Nat) (s : State) : Result := s.at t fun m => m.amberRefuse e

/-- RATE_WINDOW_CLOSE (R467). A 1 s rate window with suppression closes, and a SUMMARY record is written. -/
def execRateWindowClose (code src : Nat) (t : Nat) (s : State) : Result := s.at t fun m => m.rateClose code src

/-- AMBER_RECOVERY (R465). At start Amber takes the control block and scans forward to find NEWEST. -/
def execAmberRecovery (t : Nat) (s : State) : Result := s.at t fun m => m.amberRecover

/-- AMBER_WINDOW_WRITE (R466). A lane writes its private MRAM region through the Amber port window in issue order. -/
def execAmberWindowWrite (x : Lane) (off : Nat) (v : Word32) (t : Nat) (s : State) : Result := s.at t fun m => m.windowWrite x off v

/-- AMB_ERRCAP_READ (R472). A read of AMB_ERRCAP returns and clears it and copies it into AMB_ERRCAP_LR. -/
def execAmbErrcapRead (x : Lane) (t : Nat) (s : State) : Result := s.at t fun m => m.ambReadErr x

end Sys2Proof.Machine
end

