-- ==== Sys2Proof/Machine/RegisterCmds.lean ====
section
/-!
DEFINITION. Writes to registers without a command of their own (00_scope.md R8, R9).
-/
namespace Sys2Proof.Machine

/-- REGISTER_WRITE (R8). A write to a register without a row of its own updates its fields by their access types. -/
def execRegisterWrite (x : Lane) (u : RegUnit) (off : Nat) (v : Word32) (t : Nat) (s : State) : Result :=
  s.at t fun m => m.regWrite x u off v

end Sys2Proof.Machine
end

