-- ==== Sys2Proof/Machine/RestartMod.lean ====
section
/-!
DEFINITION. The end of a search for a change-over boundary, and force messages (05_change_while_running.md R138, R145).
-/
namespace Sys2Proof.Machine

/-- CHANGE_WAIT_EXPIRE: WAIT_S has passed by the agreed cycle time without a boundary (R138). -/
def Mod.changeExpire (m : Mod) : Mod :=
  match (m.voters.filterMap fun x => (m.lane x).rt.change).head? with
  | some w => if w.until' ≤ m.cycleTime then m.endChange resROUTES else m
  | none => m

/-- A FORCE message in one lane: without the commissioning role it is answered ROLE and recorded (R145, 10_older_interfaces_and_bridging.md R322). -/
def LaneSt.forceCmd (l : LaneSt) (me : Nat) (lc : LcState) (anum : Nat) (pl : Bytes) : LaneSt :=
  match l.kst.recOf anum with
  | none => l
  | some r =>
    if r.canCommission then l.forceMsg lc anum pl
    else ({ l with kst := l.kst.data anum 0xC1 (forceResult 7 pl) } : LaneSt).stage { kstRoleEvt anum 0x41 with src := me }

/-- FORCE: a FORCE message of association `anum` in every lane that runs, in the life-cycle state the lanes hold (R145). -/
def Mod.force (m : Mod) (anum : Nat) (body : Bytes) : Mod :=
  m.running.foldl (fun (m : Mod) x => m.modLane x fun l => l.forceCmd x.idx m.lcLane anum body) m

/-- A CHANGE_COMMIT of association `anum` as lane `x` knows that association (R137, R322). -/
def Mod.commitAs (m : Mod) (x : Lane) (anum : Nat) (body : Bytes) : Mod :=
  match (m.lane x).kst.recOf anum with
  | none => m
  | some r =>
    if r.canCommission then m.changeCommit m.lcLane anum body
    else m.running.foldl (fun (m : Mod) y => m.modLane y fun l => l.stage { kstRoleEvt anum 0x42 with src := y.idx }) m

/-- CHANGE_COMMIT: a message of an association without the commissioning role is recorded and discarded (R137, R322). -/
def Mod.commitCmd (m : Mod) (anum : Nat) (body : Bytes) : Mod :=
  match m.voters.head? with
  | some x => m.commitAs x anum body
  | none => m

end Sys2Proof.Machine
end

