-- ==== Sys2Proof/Machine/RestartCmds.lean ====
section
/-!
DEFINITION. The commands of restarts, online change and forces (05_change_while_running.md; 04_interlocking_programs.md R119).
-/
namespace Sys2Proof.Machine

/-- RETAIN_MRAM_WRITE (R119). After the tail, block checks are recomputed and changed lines, lock store copy and header are written to
MRAM. -/
def execRetainMramWrite (x : Lane) (t : Nat) (s : State) : Result := s.at t fun m => m.laneDo x LaneSt.retainWrite

/-- RESTART_RECORD_EXCHANGE (R125). The lanes exchange restart record candidates and fingerprints and pick the agreed record. -/
def execRestartRecordExchange (t : Nat) (s : State) : Result := s.at t fun m => m.recordExchange

/-- FIRST_VOTING_CYCLE (R121). The first voting cycle after STARTING chooses a warm or cold restart and runs as a settle cycle. -/
def execFirstVotingCycle (t : Nat) (s : State) : Result := s.at t fun m => m.firstCycle

/-- CHANGE_COMMIT (R137). A CHANGE_COMMIT message from a commissioning association starts the search for a change-over boundary, or is
refused. -/
def execChangeCommit (anum : Nat) (body : Bytes) (t : Nat) (s : State) : Result := s.at t fun m => m.commitCmd anum body

/-- CHANGE_WAIT_EXPIRE (R138). No boundary was found within WAIT_S, and the change ends with result ROUTES. -/
def execChangeWaitExpire (t : Nat) (s : State) : Result := s.at t fun m => m.changeExpire

/-- FORCE (R145). A FORCE message sets, clears or clears all forces and is answered by FORCE_RESULT. -/
def execForce (anum : Nat) (body : Bytes) (t : Nat) (s : State) : Result := s.at t fun m => m.force anum body

end Sys2Proof.Machine
end

