-- ==== Sys2Proof/Machine/StartupCmds.lean ====
section
/-!
DEFINITION. The commands of start-up, self-test and lane control (13_startup_and_self_test.md; 16_movers_checks_crossings.md).
-/
namespace Sys2Proof.Machine

/-- POWER_GOOD (R370). The power manager finds power good and switches on the domains. -/
def execPowerGood (sid x1 x2 : Nat) (storeOk regsOk : Bool) (t : Nat) (s : State) : Result :=
  s.at t fun m => m.powerGood sid x1 x2 storeOk regsOk

/-- SLOT_CODING_REREAD (R492). Every second, the slot coding is reread, and a change is recorded without being applied. -/
def execSlotCodingReread (sid : Nat) (t : Nat) (s : State) : Result := s.at t fun m => m.slotReread sid

/-- DUP_SID_DETECT (R492). A listening module receives a CYC or COLD carrying its own SID and stays in STARTING. -/
def execDupSidDetect (claim ftype : Nat) (t : Nat) (s : State) : Result := s.at t fun m => m.dupSid claim ftype

/-- JADE_BOOT (R374). Jade's ROM verifies the JADE image and runs it, or a fallback, or stays in ROM service. -/
def execJadeBoot (running : Bool) (old : List Nat) (t : Nat) (s : State) : Result := s.at t fun m => m.jadeBoot running old

/-- JADE_WATCHDOG (R356). The power manager's watchdog finds Jade not running and restarts PD1. -/
def execJadeWatchdog (t : Nat) (s : State) : Result := s.at t fun m => m.jadeWatchdog

/-- FIRMWARE_LOAD (R375). Jade loads each processor's firmware, whose boot ROM checks the digest before start. -/
def execFirmwareLoad (p : Proc) (digestOk : Bool) (t : Nat) (s : State) : Result := s.at t fun m => m.firmwareLoad p digestOk

/-- CONTROLLER_START_TEST (R376). A loaded controller runs its own start test. -/
def execControllerStartTest (p : Proc) (test : Nat) (pass : Bool) (t : Nat) (s : State) : Result :=
  s.at t fun m => (m.controllerTest p test pass).mayListen

/-- LANE_SELF_TEST (R377). A lane released from reset runs its START or ROTATION profile. -/
def execLaneSelfTest (x : Lane) (fail : Option (Nat × Nat)) (findings : List Finding) (t : Nat) (s : State) : Result :=
  s.at t fun m => (m.laneSelfTest x fail findings).mayListen

/-- ECC_CANDIDATE (R391). A word corrected three times in 24 h becomes a repair candidate. -/
def execEccCandidate (x : Lane) (target kind faddr addr : Nat) (t : Nat) (s : State) : Result :=
  s.at t fun m => m.eccCandidate x target kind faddr addr

/-- SLICE_INCOMPLETE (R387). A slice reaches 100 µs, is stopped and is reported incomplete. -/
def execSliceIncomplete (x : Lane) (t : Nat) (s : State) : Result := s.at t fun m => m.sliceIncomplete x

/-- START_FAILURE (R382). A failure during start-up leads to ROM service, HELD or a degraded start. -/
def execStartFailure (noLight : Bool) (t : Nat) (s : State) : Result := s.at t fun m => m.startFailure noLight

/-- LCT_INJ_GO (R378). Setting LCT_INJ.GO forces a compared bit and reports the comparator result in LCT_INJRES. -/
def execLctInjGo (x : Lane) (w : Word32) (both sil : Bool) (lat : Nat) (t : Nat) (s : State) : Result :=
  s.at t fun m => m.laneDo x fun l => l.inject w both sil lat

/-- LCT_SILCLR (R458). Writing SILCLR with TEST = 1 clears the lane's silence. -/
def execLctSilclr (x : Lane) (t : Nat) (s : State) : Result := s.at t fun m => m.laneDo x LaneSt.silClear

/-- LCT_ERRCAP_READ (R441). A read of LCT_ERRCAP returns and clears it and keeps the value in LCT_ERRCAP_LR. -/
def execLctErrcapRead (x : Lane) (t : Nat) (s : State) : Result := s.at t fun m => m.laneDo x LaneSt.readLctErr

/-- NP_READ_DISCARD (R441). An NP read whose data was discarded after issue is counted in LCT_ERRCAP. -/
def execNpReadDiscard (x : Lane) (t : Nat) (s : State) : Result := s.at t fun m => m.laneDo x fun l => l.lctError 5 3

end Sys2Proof.Machine
end

