-- ==== Sys2Proof/Machine/TimeCmds.lean ====
section
/-!
DEFINITION. The commands of module time and Opal (08_phase_and_time.md).
-/
namespace Sys2Proof.Machine

/-- LANE_TIME_CORRECT (R237). Each minor cycle the lane time counter is slewed towards the network time base. -/
def execLaneTimeCorrect (x : Lane) (t : Nat) (s : State) : Result := s.at t fun m => m.laneTimeCorrect x

/-- RTC_SAVE (R239). The real-time clock saves its count to MRAM once per second. -/
def execRtcSave (t : Nat) (s : State) : Result := s.at t fun m => m.rtcSave

/-- PTP_MEASURE (R241). Once per major cycle, Jade measures Δ against PTP and steers, or declares PTP inconsistent. -/
def execPtpMeasure (valid : Bool) (delta : Int) (port : Nat) (t : Nat) (s : State) : Result := s.at t fun m => m.ptpMeasure valid delta port

/-- OPAL_ZERO_CROSSING (R247). At each expected zero crossing, Opal evaluates input validity and the phase events and corrects or steps Φ.
-/
def execOpalZeroCrossing (x : Lane) (amp1 mhz1 ph1 amp2 mhz2 ph2 : Nat) (t : Nat) (s : State) : Result :=
  s.at t fun m => m.opalCrossing x amp1 mhz1 ph1 amp2 mhz2 ph2

/-- OPAL_ENABLE (R245). Setting OPL_CTRL.EN starts Φ in synthetic mode from module time. -/
def execOpalEnable (x : Lane) (t : Nat) (s : State) : Result := s.at t fun m => m.opalEnable x

/-- OPL_SNAP_WRITE (R256). A write to OPL_SNAP latches time, Φ and PHSTAT in the same Opal clock. -/
def execOplSnapWrite (x : Lane) (t : Nat) (s : State) : Result := s.at t fun m => m.opalSnap x

/-- OPL_SHCOMMIT_WRITE (R255). Writing GO arms a hand-over of the commit and sampling window shadows at a target supply cycle. -/
def execOplShcommitWrite (x : Lane) (tgt : Nat) (go : Bool) (t : Nat) (s : State) : Result := s.at t fun m => m.opalCommit x tgt go

/-- OPAL_HANDOVER (R255). At tick 0 of the target supply cycle, all five shadows become active together. -/
def execOpalHandover (x : Lane) (t : Nat) (s : State) : Result := s.at t fun m => m.opalHandover x

/-- OPL_PHC_HI_READ (R256). A read of OPL_PHC_HI holds the low word of Φ until it is read. -/
def execOplPhcHiRead (x : Lane) (t : Nat) (s : State) : Result := s.at t fun m => m.opalReadHi x

/-- OPL_ERRCAP_READ (R257). A read of OPL_ERRCAP returns and clears it and copies it into OPL_ERRCAP_LR. -/
def execOplErrcapRead (x : Lane) (t : Nat) (s : State) : Result := s.at t fun m => m.laneDo x LaneSt.readOplErr

end Sys2Proof.Machine
end

