-- ==== Sys2Proof/Machine/Dispatch.lean ====
section
/-!
DEFINITION. The effect of each command on everything but the queue: one arm per command.
-/
namespace Sys2Proof.Machine

def exec (i : Instr) (s : State) : Host.Outcome State Fault Refusal :=
  match i with
  | .itemReceive p cls num seq kind body t => Sys2Proof.Machine.execItemReceive p cls num seq kind body t s
  | .inputCut x t => Sys2Proof.Machine.execInputCut x t s
  | .cutWaitTimeout x t => Sys2Proof.Machine.execCutWaitTimeout x t s
  | .inputConsensus excs t => Sys2Proof.Machine.execInputConsensus excs t s
  | .wcetOverrun x e t => Sys2Proof.Machine.execWcetOverrun x e t s
  | .outputOffer x sealOk t => Sys2Proof.Machine.execOutputOffer x sealOk t s
  | .voteWindowClose ins t => Sys2Proof.Machine.execVoteWindowClose ins t s
  | .phaseOverrun phase len t => Sys2Proof.Machine.execPhaseOverrun phase len t s
  | .cycleHandoverTimeout t => Sys2Proof.Machine.execCycleHandoverTimeout t s
  | .lockstepMismatch x unitNo t => Sys2Proof.Machine.execLockstepMismatch x unitNo t s
  | .comparatorDisagree x t => Sys2Proof.Machine.execComparatorDisagree x t s
  | .laneMonitorTrip x onClock dev t => Sys2Proof.Machine.execLaneMonitorTrip x onClock dev t s
  | .garnetCrcFail x n again t => Sys2Proof.Machine.execGarnetCrcFail x n again t s
  | .garnetLinkFault n t => Sys2Proof.Machine.execGarnetLinkFault n t s
  | .garnetLinkRetrain n ok t => Sys2Proof.Machine.execGarnetLinkRetrain n ok t s
  | .rotationDue x t => Sys2Proof.Machine.execRotationDue x t s
  | .rotationOverdue x t => Sys2Proof.Machine.execRotationOverdue x t s
  | .coreSoloSelftestDone x ok t => Sys2Proof.Machine.execCoreSoloSelftestDone x ok t s
  | .lanePowerCycle x t => Sys2Proof.Machine.execLanePowerCycle x t s
  | .stateCopyStart x t => Sys2Proof.Machine.execStateCopyStart x t s
  | .stateCopyEqual t => Sys2Proof.Machine.execStateCopyEqual t s
  | .rotationAbandon t => Sys2Proof.Machine.execRotationAbandon t s
  | .digestSliceCompare t => Sys2Proof.Machine.execDigestSliceCompare t s
  | .grnKeyWrite x w v t => Sys2Proof.Machine.execGrnKeyWrite x w v t s
  | .grnKeylockSet x t => Sys2Proof.Machine.execGrnKeylockSet x t s
  | .grnErrcapRead x t => Sys2Proof.Machine.execGrnErrcapRead x t s
  | .gateReadback bad t => Sys2Proof.Machine.execGateReadback bad t s
  | .brlReqProdWrite x v t => Sys2Proof.Machine.execBrlReqProdWrite x v t s
  | .descriptorAccept x t => Sys2Proof.Machine.execDescriptorAccept x t s
  | .set x t => Sys2Proof.Machine.execSet x t s
  | .probe x t => Sys2Proof.Machine.execProbe x t s
  | .cancel x t => Sys2Proof.Machine.execCancel x t s
  | .trel x t => Sys2Proof.Machine.execTrel x t s
  | .dequeue x t => Sys2Proof.Machine.execDequeue x t s
  | .arel x t => Sys2Proof.Machine.execArel x t s
  | .affect x t => Sys2Proof.Machine.execAffect x t s
  | .planeWrite x t => Sys2Proof.Machine.execPlaneWrite x t s
  | .responseWrite x t => Sys2Proof.Machine.execResponseWrite x t s
  | .brlRspConsWrite x v t => Sys2Proof.Machine.execBrlRspConsWrite x v t s
  | .brlCtrlWrite x v t => Sys2Proof.Machine.execBrlCtrlWrite x v t s
  | .load x t => Sys2Proof.Machine.execLoad x t s
  | .clear x t => Sys2Proof.Machine.execClear x t s
  | .step x t => Sys2Proof.Machine.execStep x t s
  | .pendingExpire x r t => Sys2Proof.Machine.execPendingExpire x r t s
  | .areaTimerDue x a t => Sys2Proof.Machine.execAreaTimerDue x a t s
  | .routeTrelDue x r t => Sys2Proof.Machine.execRouteTrelDue x r t s
  | .overlapTrelDue x r t => Sys2Proof.Machine.execOverlapTrelDue x r t s
  | .sweep x t => Sys2Proof.Machine.execSweep x t s
  | .sweepComplete x t => Sys2Proof.Machine.execSweepComplete x t s
  | .fetchTimeout x t => Sys2Proof.Machine.execFetchTimeout x t s
  | .brlErrcapRead x t => Sys2Proof.Machine.execBrlErrcapRead x t s
  | .retainMramWrite x t => Sys2Proof.Machine.execRetainMramWrite x t s
  | .restartRecordExchange t => Sys2Proof.Machine.execRestartRecordExchange t s
  | .firstVotingCycle t => Sys2Proof.Machine.execFirstVotingCycle t s
  | .changeCommit anum body t => Sys2Proof.Machine.execChangeCommit anum body t s
  | .changeWaitExpire t => Sys2Proof.Machine.execChangeWaitExpire t s
  | .force anum body t => Sys2Proof.Machine.execForce anum body t s
  | .minorCycleStart t => Sys2Proof.Machine.execMinorCycleStart t s
  | .pollAssemble ch k t => Sys2Proof.Machine.execPollAssemble ch k t s
  | .pollSend ch k t => Sys2Proof.Machine.execPollSend ch k t s
  | .replyReceive ch f second t => Sys2Proof.Machine.execReplyReceive ch f second t s
  | .echoSend ch w t => Sys2Proof.Machine.execEchoSend ch w t s
  | .echorReceive ch f t => Sys2Proof.Machine.execEchorReceive ch f t s
  | .markerItem ch t => Sys2Proof.Machine.execMarkerItem ch t s
  | .smgtSend ch t => Sys2Proof.Machine.execSmgtSend ch t s
  | .srptReceive ch f rep t => Sys2Proof.Machine.execSrptReceive ch f rep t s
  | .syncSend who t => Sys2Proof.Machine.execSyncSend who t s
  | .syncReceive who ch f t => Sys2Proof.Machine.execSyncReceive who ch f t s
  | .offsetCorrection who t => Sys2Proof.Machine.execOffsetCorrection who t s
  | .rateCorrection who t => Sys2Proof.Machine.execRateCorrection who t s
  | .channelFail ch light t => Sys2Proof.Machine.execChannelFail ch light t s
  | .obxBankswWrite x v t => Sys2Proof.Machine.execObxBankswWrite x v t s
  | .bankSwitch t => Sys2Proof.Machine.execBankSwitch t s
  | .nodeVersionMove k t => Sys2Proof.Machine.execNodeVersionMove k t s
  | .aggregateReport t => Sys2Proof.Machine.execAggregateReport t s
  | .cyclePoint x k t => Sys2Proof.Machine.execCyclePoint x k t s
  | .obxCpWrite x k v t => Sys2Proof.Machine.execObxCpWrite x k v t s
  | .obxErrcapRead x t => Sys2Proof.Machine.execObxErrcapRead x t s
  | .listenTimeout t => Sys2Proof.Machine.execListenTimeout t s
  | .coldSend t => Sys2Proof.Machine.execColdSend t s
  | .coldReceive f t => Sys2Proof.Machine.execColdReceive f t s
  | .becomeMaster t => Sys2Proof.Machine.execBecomeMaster t s
  | .nodePollAccept k ch f inp t => Sys2Proof.Machine.execNodePollAccept k ch f inp t s
  | .nodeFreshnessExpire k t => Sys2Proof.Machine.execNodeFreshnessExpire k t s
  | .nodeNpoll k ch f inp t => Sys2Proof.Machine.execNodeNpoll k ch f inp t s
  | .nodeHpoll k ch f inp t => Sys2Proof.Machine.execNodeHpoll k ch f inp t s
  | .nodeCycReceive k ch f t => Sys2Proof.Machine.execNodeCycReceive k ch f t s
  | .nodeHclaimClear k t => Sys2Proof.Machine.execNodeHclaimClear k t s
  | .nodeCommitReached k t => Sys2Proof.Machine.execNodeCommitReached k t s
  | .starFrameFilter ch p f t => Sys2Proof.Machine.execStarFrameFilter ch p f t s
  | .portReenable ch k t => Sys2Proof.Machine.execPortReenable ch k t s
  | .starGrant ch t => Sys2Proof.Machine.execStarGrant ch t s
  | .starColdArbitrate ch p1 t1 f1 t2 f2 t => Sys2Proof.Machine.execStarColdArbitrate ch p1 t1 f1 t2 f2 t s
  | .laneTimeCorrect x t => Sys2Proof.Machine.execLaneTimeCorrect x t s
  | .rtcSave t => Sys2Proof.Machine.execRtcSave t s
  | .ptpMeasure valid delta port t => Sys2Proof.Machine.execPtpMeasure valid delta port t s
  | .opalZeroCrossing x amp1 mhz1 ph1 amp2 mhz2 ph2 t => Sys2Proof.Machine.execOpalZeroCrossing x amp1 mhz1 ph1 amp2 mhz2 ph2 t s
  | .opalEnable x t => Sys2Proof.Machine.execOpalEnable x t s
  | .oplSnapWrite x t => Sys2Proof.Machine.execOplSnapWrite x t s
  | .oplShcommitWrite x tgt go t => Sys2Proof.Machine.execOplShcommitWrite x tgt go t s
  | .opalHandover x t => Sys2Proof.Machine.execOpalHandover x t s
  | .oplPhcHiRead x t => Sys2Proof.Machine.execOplPhcHiRead x t s
  | .oplErrcapRead x t => Sys2Proof.Machine.execOplErrcapRead x t s
  | .inputSample ua t => Sys2Proof.Machine.execInputSample ua t s
  | .inputDebounceExpire c t => Sys2Proof.Machine.execInputDebounceExpire c t s
  | .crossCheckSample g ua t => Sys2Proof.Machine.execCrossCheckSample g ua t s
  | .thresholdInjection g bands t => Sys2Proof.Machine.execThresholdInjection g bands t s
  | .tpSupplyFault g t => Sys2Proof.Machine.execTpSupplyFault g t s
  | .tpSupplyRetry g good t => Sys2Proof.Machine.execTpSupplyRetry g good t s
  | .pairDiscrepancy c t => Sys2Proof.Machine.execPairDiscrepancy c t s
  | .countEdge ch t => Sys2Proof.Machine.execCountEdge ch t s
  | .pairTimeout f onA t => Sys2Proof.Machine.execPairTimeout f onA t s
  | .sfHoldExpire f t => Sys2Proof.Machine.execSfHoldExpire f t s
  | .slpStart f t => Sys2Proof.Machine.execSlpStart f t s
  | .slpWindowExpire f t => Sys2Proof.Machine.execSlpWindowExpire f t s
  | .slpSettleExpire f t => Sys2Proof.Machine.execSlpSettleExpire f t s
  | .lioSnapWrite x t => Sys2Proof.Machine.execLioSnapWrite x t s
  | .lioInputItem t => Sys2Proof.Machine.execLioInputItem t s
  | .outputCurrentTrip o thermal t => Sys2Proof.Machine.execOutputCurrentTrip o thermal t s
  | .bankTrip b ma t => Sys2Proof.Machine.execBankTrip b ma t s
  | .feedUndervoltage b t => Sys2Proof.Machine.execFeedUndervoltage b t s
  | .feedReturn b t => Sys2Proof.Machine.execFeedReturn b t s
  | .switchTest slot verdict t => Sys2Proof.Machine.execSwitchTest slot verdict t s
  | .lioDo2Write x w t => Sys2Proof.Machine.execLioDo2Write x w t s
  | .lioFstartWrite x v t => Sys2Proof.Machine.execLioFstartWrite x v t s
  | .laneRefreshTimeout x t => Sys2Proof.Machine.execLaneRefreshTimeout x t s
  | .lioEnergise t => Sys2Proof.Machine.execLioEnergise t s
  | .lioDeenergise t => Sys2Proof.Machine.execLioDeenergise t s
  | .lioControllerFault t => Sys2Proof.Machine.execLioControllerFault t s
  | .lioErrcapRead x t => Sys2Proof.Machine.execLioErrcapRead x t s
  | .draipVisit d t => Sys2Proof.Machine.execDraipVisit d t s
  | .draipAnswerReceive d tel t => Sys2Proof.Machine.execDraipAnswerReceive d tel t s
  | .draipAnswerTimeout d t => Sys2Proof.Machine.execDraipAnswerTimeout d t s
  | .draipOrphan d t => Sys2Proof.Machine.execDraipOrphan d t s
  | .draipHoldbackExpire d t => Sys2Proof.Machine.execDraipHoldbackExpire d t s
  | .brgUnpGo x n t => Sys2Proof.Machine.execBrgUnpGo x n t s
  | .bridgeLockstepFault t => Sys2Proof.Machine.execBridgeLockstepFault t s
  | .brgErrcapRead x t => Sys2Proof.Machine.execBrgErrcapRead x t s
  | .jadePortRead x ans t => Sys2Proof.Machine.execJadePortRead x ans t s
  | .jadeReadRetry x ans t => Sys2Proof.Machine.execJadeReadRetry x ans t s
  | .kstFrameReceive port src seq body t => Sys2Proof.Machine.execKstFrameReceive port src seq body t s
  | .prpSupervision t => Sys2Proof.Machine.execPrpSupervision t s
  | .connectSend a t => Sys2Proof.Machine.execConnectSend a t s
  | .connect a body t => Sys2Proof.Machine.execConnect a body t s
  | .accept a body t => Sys2Proof.Machine.execAccept a body t s
  | .close a body t => Sys2Proof.Machine.execClose a body t s
  | .heartbeat a body t => Sys2Proof.Machine.execHeartbeat a body t s
  | .routeOp a body t => Sys2Proof.Machine.execRouteOp a body t s
  | .areaRel a body t => Sys2Proof.Machine.execAreaRel a body t s
  | .linkState a body t => Sys2Proof.Machine.execLinkState a body t s
  | .linkCmd a body t => Sys2Proof.Machine.execLinkCmd a body t s
  | .applicationMessage a body t => Sys2Proof.Machine.execApplicationMessage a body t s
  | .kstTmaxExpire a t => Sys2Proof.Machine.execKstTmaxExpire a t s
  | .follow f excs ins t => Sys2Proof.Machine.execFollow f excs ins t s
  | .fack c t => Sys2Proof.Machine.execFack c t s
  | .fackTimeout t => Sys2Proof.Machine.execFackTimeout t s
  | .sum c value t => Sys2Proof.Machine.execSum c value t s
  | .fetch ref t => Sys2Proof.Machine.execFetch ref t s
  | .item it excs ins t => Sys2Proof.Machine.execItem it excs ins t s
  | .delay es t => Sys2Proof.Machine.execDelay es t s
  | .stbySend ch t => Sys2Proof.Machine.execStbySend ch t s
  | .stby ch p f t => Sys2Proof.Machine.execStby ch p f t s
  | .swapOffer n t => Sys2Proof.Machine.execSwapOffer n t s
  | .swapAccept n t => Sys2Proof.Machine.execSwapAccept n t s
  | .swapAbort t => Sys2Proof.Machine.execSwapAbort t s
  | .swapCutStop t => Sys2Proof.Machine.execSwapCutStop t s
  | .swapStarHandover t => Sys2Proof.Machine.execSwapStarHandover t s
  | .swapRoleChange t => Sys2Proof.Machine.execSwapRoleChange t s
  | .relinquishAck t => Sys2Proof.Machine.execRelinquishAck t s
  | .relinquishAckTimeout t => Sys2Proof.Machine.execRelinquishAckTimeout t s
  | .standbyDemote t => Sys2Proof.Machine.execStandbyDemote t s
  | .lcStatePass st cycle signer t => Sys2Proof.Machine.execLcStatePass st cycle signer t s
  | .pairCtrlStatus p t => Sys2Proof.Machine.execPairCtrlStatus p t s
  | .pairLinkFault t => Sys2Proof.Machine.execPairLinkFault t s
  | .pairLinkRetrain ok t => Sys2Proof.Machine.execPairLinkRetrain ok t s
  | .standbyStateCopy src t => Sys2Proof.Machine.execStandbyStateCopy src t s
  | .higherClaimReceived claim t => Sys2Proof.Machine.execHigherClaimReceived claim t s
  | .grant ch f t => Sys2Proof.Machine.execGrant ch f t s
  | .autoswapStart t => Sys2Proof.Machine.execAutoswapStart t s
  | .swapOverdue t => Sys2Proof.Machine.execSwapOverdue t s
  | .faultSwap t => Sys2Proof.Machine.execFaultSwap t s
  | .powerGood sid x1 x2 storeOk regsOk t => Sys2Proof.Machine.execPowerGood sid x1 x2 storeOk regsOk t s
  | .slotCodingReread sid t => Sys2Proof.Machine.execSlotCodingReread sid t s
  | .dupSidDetect claim ftype t => Sys2Proof.Machine.execDupSidDetect claim ftype t s
  | .jadeBoot running old t => Sys2Proof.Machine.execJadeBoot running old t s
  | .jadeWatchdog t => Sys2Proof.Machine.execJadeWatchdog t s
  | .firmwareLoad p digestOk t => Sys2Proof.Machine.execFirmwareLoad p digestOk t s
  | .controllerStartTest p test pass t => Sys2Proof.Machine.execControllerStartTest p test pass t s
  | .laneSelfTest x fail findings t => Sys2Proof.Machine.execLaneSelfTest x fail findings t s
  | .eccCandidate x target kind faddr addr t => Sys2Proof.Machine.execEccCandidate x target kind faddr addr t s
  | .sliceIncomplete x t => Sys2Proof.Machine.execSliceIncomplete x t s
  | .startFailure noLight t => Sys2Proof.Machine.execStartFailure noLight t s
  | .lctInjGo x w both sil lat t => Sys2Proof.Machine.execLctInjGo x w both sil lat t s
  | .lctSilclr x t => Sys2Proof.Machine.execLctSilclr x t s
  | .lctErrcapRead x t => Sys2Proof.Machine.execLctErrcapRead x t s
  | .npReadDiscard x t => Sys2Proof.Machine.execNpReadDiscard x t s
  | .connectionOpen tr t => Sys2Proof.Machine.execConnectionOpen tr t s
  | .connectionLost tr t => Sys2Proof.Machine.execConnectionLost tr t s
  | .mailboxResponseSend tr t => Sys2Proof.Machine.execMailboxResponseSend tr t s
  | .partnerForwardTimeout tr tag t => Sys2Proof.Machine.execPartnerForwardTimeout tr tag t s
  | .updateLockIdle t => Sys2Proof.Machine.execUpdateLockIdle t s
  | .attestReportExpire tr t => Sys2Proof.Machine.execAttestReportExpire tr t s
  | .tokenExpire t => Sys2Proof.Machine.execTokenExpire t s
  | .idRead req t => Sys2Proof.Machine.execIdRead req t s
  | .idKey req t => Sys2Proof.Machine.execIdKey req t s
  | .attest req t => Sys2Proof.Machine.execAttest req t s
  | .attestRead req t => Sys2Proof.Machine.execAttestRead req t s
  | .imgList req t => Sys2Proof.Machine.execImgList req t s
  | .lcRead req t => Sys2Proof.Machine.execLcRead req t s
  | .lcSet req t => Sys2Proof.Machine.execLcSet req t s
  | .restart req t => Sys2Proof.Machine.execRestart req t s
  | .restartDelayExpire t => Sys2Proof.Machine.execRestartDelayExpire t s
  | .updOpen req t => Sys2Proof.Machine.execUpdOpen req t s
  | .updWrite req t => Sys2Proof.Machine.execUpdWrite req t s
  | .updVerify req t => Sys2Proof.Machine.execUpdVerify req t s
  | .updCommit req t => Sys2Proof.Machine.execUpdCommit req t s
  | .updAbort req t => Sys2Proof.Machine.execUpdAbort req t s
  | .updStatus req t => Sys2Proof.Machine.execUpdStatus req t s
  | .imgInfo req t => Sys2Proof.Machine.execImgInfo req t s
  | .chgRead req t => Sys2Proof.Machine.execChgRead req t s
  | .setRead req t => Sys2Proof.Machine.execSetRead req t s
  | .setWrite req t => Sys2Proof.Machine.execSetWrite req t s
  | .spsList req t => Sys2Proof.Machine.execSpsList req t s
  | .spsConfirm req t => Sys2Proof.Machine.execSpsConfirm req t s
  | .spsLockoutEnd t => Sys2Proof.Machine.execSpsLockoutEnd t s
  | .pwrHint req t => Sys2Proof.Machine.execPwrHint req t s
  | .pwrStatus req t => Sys2Proof.Machine.execPwrStatus req t s
  | .recInfo req t => Sys2Proof.Machine.execRecInfo req t s
  | .recRead req t => Sys2Proof.Machine.execRecRead req t s
  | .recMark req t => Sys2Proof.Machine.execRecMark req t s
  | .laneStatus req t => Sys2Proof.Machine.execLaneStatus req t s
  | .sliceRead req t => Sys2Proof.Machine.execSliceRead req t s
  | .bistRun req fail t => Sys2Proof.Machine.execBistRun req fail t s
  | .repairRead req t => Sys2Proof.Machine.execRepairRead req t s
  | .repairFuse req t => Sys2Proof.Machine.execRepairFuse req t s
  | .laneReadmit req t => Sys2Proof.Machine.execLaneReadmit req t s
  | .laneSplit req t => Sys2Proof.Machine.execLaneSplit req t s
  | .lioReset req t => Sys2Proof.Machine.execLioReset req t s
  | .portEnable req t => Sys2Proof.Machine.execPortEnable req t s
  | .nodeDiag req t => Sys2Proof.Machine.execNodeDiag req t s
  | .obxStatus req t => Sys2Proof.Machine.execObxStatus req t s
  | .lioStatus req t => Sys2Proof.Machine.execLioStatus req t s
  | .forceList req t => Sys2Proof.Machine.execForceList req t s
  | .varRead req t => Sys2Proof.Machine.execVarRead req t s
  | .planeRead req t => Sys2Proof.Machine.execPlaneRead req t s
  | .ledTest req t => Sys2Proof.Machine.execLedTest req t s
  | .timeRead req t => Sys2Proof.Machine.execTimeRead req t s
  | .ptpDomain req t => Sys2Proof.Machine.execPtpDomain req t s
  | .pairStatus req t => Sys2Proof.Machine.execPairStatus req t s
  | .swap req t => Sys2Proof.Machine.execSwap req t s
  | .pairReadmit req t => Sys2Proof.Machine.execPairReadmit req t s
  | .tdmCommit x k t => Sys2Proof.Machine.execTdmCommit x k t s
  | .tdmHandover x k t => Sys2Proof.Machine.execTdmHandover x k t s
  | .tdmPause x k n t => Sys2Proof.Machine.execTdmPause x k n t s
  | .tdmResume x k t => Sys2Proof.Machine.execTdmResume x k t s
  | .tdmAbort x k n powerDown t => Sys2Proof.Machine.execTdmAbort x k n powerDown t s
  | .tdmError x k n code t => Sys2Proof.Machine.execTdmError x k n code t s
  | .tdmCtrlWrite x v t => Sys2Proof.Machine.execTdmCtrlWrite x v t s
  | .tdmErrcapRead x t => Sys2Proof.Machine.execTdmErrcapRead x t s
  | .scuFgGo x t => Sys2Proof.Machine.execScuFgGo x t s
  | .scuFgDone x ecc t => Sys2Proof.Machine.execScuFgDone x ecc t s
  | .scuBgEnable x t => Sys2Proof.Machine.execScuBgEnable x t s
  | .scuBgPass x ecc t => Sys2Proof.Machine.execScuBgPass x ecc t s
  | .scuErrcapRead x t => Sys2Proof.Machine.execScuErrcapRead x t s
  | .crossingTimeout x k laneStopped t => Sys2Proof.Machine.execCrossingTimeout x k laneStopped t s
  | .crossingReset x k held t => Sys2Proof.Machine.execCrossingReset x k held t s
  | .amberRecordWrite t => Sys2Proof.Machine.execAmberRecordWrite t s
  | .amberIntakeRefuse e t => Sys2Proof.Machine.execAmberIntakeRefuse e t s
  | .rateWindowClose code src t => Sys2Proof.Machine.execRateWindowClose code src t s
  | .amberRecovery t => Sys2Proof.Machine.execAmberRecovery t s
  | .amberWindowWrite x off v t => Sys2Proof.Machine.execAmberWindowWrite x off v t s
  | .ambErrcapRead x t => Sys2Proof.Machine.execAmbErrcapRead x t s
  | .supplyInputLoss input status t => Sys2Proof.Machine.execSupplyInputLoss input status t s
  | .supplyInputReturn input status t => Sys2Proof.Machine.execSupplyInputReturn input status t s
  | .pfail t => Sys2Proof.Machine.execPfail t s
  | .shutdownLevel t => Sys2Proof.Machine.execShutdownLevel t s
  | .domainSleep g t => Sys2Proof.Machine.execDomainSleep g t s
  | .wakeEvent g t => Sys2Proof.Machine.execWakeEvent g t s
  | .powerDownDrain target t => Sys2Proof.Machine.execPowerDownDrain target t s
  | .drainTimeout target left t => Sys2Proof.Machine.execDrainTimeout target left t s
  | .dieTempWarning x t => Sys2Proof.Machine.execDieTempWarning x t s
  | .dieTempTrip x t => Sys2Proof.Machine.execDieTempTrip x t s
  | .registerWrite x u off v t => Sys2Proof.Machine.execRegisterWrite x u off v t s
  | .cycReceive ch f t => Sys2Proof.Machine.execCycReceive ch f t s
  | .echo who ch f t => Sys2Proof.Machine.execEcho who ch f t s
  | .smgt ch f g t => Sys2Proof.Machine.execSmgt ch f g t s
  | .acyc k ch f content t => Sys2Proof.Machine.execAcyc k ch f content t s
  | .acyrReceive k body t => Sys2Proof.Machine.execAcyrReceive k body t s
  | .relinquishReceived t => Sys2Proof.Machine.execRelinquishReceived t s
  | .nodeSenseInputChange k valid tick mhz t => Sys2Proof.Machine.execNodeSenseInputChange k valid tick mhz t s
  | .nodeReset k t => Sys2Proof.Machine.execNodeReset k t s
  | .starPowerUp ch t => Sys2Proof.Machine.execStarPowerUp ch t s
  | .mailboxRequestError tr t => Sys2Proof.Machine.execMailboxRequestError tr t s
  | .unknownCommandCode code req t => Sys2Proof.Machine.execUnknownCommandCode code req t s
  | .debugHalt x t => Sys2Proof.Machine.execDebugHalt x t s

end Sys2Proof.Machine
end

