-- ==== Sys2Proof/Safety.lean ====
section
/-!
DEFINITION. What counts as a sound module, in the terms the claims use: a start never lies in the future (13_startup_and_self_test.md
R370), the SID is a five-bit slot code (19_connectors_and_ratings.md R492).
-/
namespace Sys2Proof.Machine

/-- What only a start, power good and the clock change: the clock, the variant, the SID, the phase settings in force and the instant of the
last start (13_startup_and_self_test.md R370; 14_jade_mailboxes.md R411; 19_connectors_and_ratings.md R492). -/
def Mod.core (m : Mod) : Nat × Bool × Nat × PhCfg × Nat := (m.clock, m.full, m.sid, m.phcfg, m.bootAt)

/-- A command completes: `exec` answers a next state, the queue stands, and the module after it is as `P` says. -/
def Completes (c : Instr) (s : State) (P : Mod → Prop) : Prop := ∃ u : State, exec c s = .next u ∧ u.pending = s.pending ∧ P u.m

/-- Jade takes a mailbox request of a command at once and executes it (14_jade_mailboxes.md R397 to R408): its connection is open, nothing
waits before it, its TAG is free, it is for this module, its reserved fields are zero, and no rule turns the command away. -/
def Mod.Takes (m : Mod) (code : Nat) (req : MbReq) : Prop :=
  m.connOpen req.tr = true ∧ (m.jade.conn req.tr).jobs = [] ∧ (∀ r ∈ (m.jade.conn req.tr).ready, r.tag ≠ req.tag) ∧ req.partner = false ∧
  req.rsv = false ∧ (req.session = 0 ∨ (0x0302 ≤ code ∧ code ≤ 0x0306)) ∧ ((cmdInfo code).any fun i => m.turnAway i req.tr == 0) = true

/-- The request of a command was consumed and its response, with STATUS, DETAIL, HOLDER and payload, waits to be sent; nothing is left in
the ring of its connection. -/
def Mod.Answers (m : Mod) (code : Nat) (req : MbReq) (status detail holder : Nat) (payload : Bytes) (m' : Mod) : Prop :=
  (m'.jade.conn req.tr).ready = (m.jade.conn req.tr).ready ++ [⟨code, req.tag, status, detail, holder, payload⟩] ∧
  (m'.jade.conn req.tr).jobs = [] ∧ (m'.jade.conn req.tr).consumed = (m.jade.conn req.tr).consumed + 1

/-- The request of a command was consumed and runs on, no response yet. -/
def Mod.RunsOn (m : Mod) (code : Nat) (req : MbReq) (m' : Mod) : Prop :=
  (m'.jade.conn req.tr).ready = (m.jade.conn req.tr).ready ∧ (m'.jade.conn req.tr).consumed = (m.jade.conn req.tr).consumed + 1 ∧
  ∃ j, (m'.jade.conn req.tr).jobs = [j] ∧ j.cmd = code ∧ j.req = req ∧ j.started = true ∧ j.since = m'.clock

/-- A sound module: the SID is a slot code, and the last start does not lie in the future. -/
def Mod.Sound (m : Mod) : Prop := m.sid < 32 ∧ m.bootAt ≤ m.clock

end Sys2Proof.Machine
end

