-- ==== Sys2Proof/Certificates/Slice0/Obligations.lean ====
section
/-!
DEFINITION. The obligations: what the spec's rules say that the commands of this block do, one statement to a family or a rule, each with
its completion. A statement about every state holds in states that no run reaches.
-/
open Sys2Proof Sys2Proof.Machine

/-! ### Beryl -/

/-- 03_route_admission.md R62, R63, R64, R86, "BRL_CTRL": a write of BRL_REQ_PROD, BRL_RSP_CONS or BRL_CTRL changes that register and nothing
else of the machine, and a read of BRL_ERRCAP returns it, clears it and keeps a copy. -/
def Obligations.BerylRegisterCommandsChangeOneRegister : Prop :=
  ∀ (s : State) (x : Lane) (t : Nat), (s.m.lane x).powered = true →
    let l := s.m.lane x
    let regs (r : BerylRegs) : LaneSt := { l with beryl := { l.beryl with regs := r } }
    let next (l' : LaneSt) : Result := .next { s with m := (s.m.advance t).setLane x l' }
    (∀ v, exec (.brlReqProdWrite x v t) s = next (regs { l.beryl.regs with reqProd := BitVec.ofNat 32 (v % 1024) })) ∧
    (∀ v, exec (.brlRspConsWrite x v t) s = next (regs { l.beryl.regs with rspCons := BitVec.ofNat 32 (v % 1024) })) ∧
    (∀ v, exec (.brlCtrlWrite x v t) s = next (regs { l.beryl.regs with ctrl := v &&& 3#32 })) ∧
    exec (.brlErrcapRead x t) s
      = next { regs { l.beryl.regs with errcapLr := l.beryl.regs.errcap, errcap := 0 } with readData := l.beryl.regs.errcap.toNat }

/-- 03_route_admission.md R63, R64, R67: where the request ring holds a descriptor and Beryl may take it, DESCRIPTOR_ACCEPT takes it in
ring order and judges it: NOTREADY, TAGDUP, ORDER, BADOP in this order. One that passes joins the pipeline, holds its TAG and gives
its key; one that fails at an empty pipeline is answered at once. -/
def Obligations.DescriptorIsJudgedInTheOrderOfTheRule : Prop :=
  ∀ (s : State) (x : Lane) (t n : Nat),
    let l := s.m.lane x
    let b := l.beryl
    let d := descAt l.tcm (ringBase b.regs.reqRing + 32 * (idx10 b.regs.reqCons % n))
    let first : Option Nat :=
      if b.regs.en = false ∨ b.regs.loaded = false then some 0x16
      else if d.tag ∈ b.tags then some 0x1C
      else if b.lastKey.lt d.key = false then some 0x13
      else if knownOp d.op = false ∨ d.rsv = true then some 0x14
      else none
    l.powered = true → b.regs.faulted = false → b.regs.hold = false → ringSize b.regs.reqRing 8 = some n →
    idx10 b.regs.reqProd ≠ idx10 b.regs.reqCons → b.inflight < 256 → b.rspFree = true →
    ringBase b.regs.reqRing + 32 * (idx10 b.regs.reqCons % n) + 32 ≤ 0x800000 → (∀ a ∈ b.accepted.head?, a.pre = none) →
    Completes (.descriptorAccept x t) s fun m =>
      let b' := (m.lane x).beryl
      b'.regs.reqCons = BitVec.ofNat 32 ((idx10 b.regs.reqCons + 1) % 1024) ∧ b'.el = b.el ∧ b'.rt = b.rt ∧ b'.ws = b.ws ∧
      (first = none → b'.accepted = b.accepted ++ [⟨d, none⟩] ∧ b'.tags = d.tag :: b.tags ∧ b'.lastKey = d.key ∧ b'.answers = b.answers) ∧
      (∀ st, first = some st →
        b'.lastKey = (if st = 0x14 then d.key else b.lastKey) ∧
        b'.tags = (if st = 0x16 ∨ st = 0x1C then b.tags else d.tag :: b.tags) ∧
        (b.accepted ≠ [] → b'.accepted = b.accepted ++ [⟨d, some st⟩] ∧ b'.answers = b.answers) ∧
        (b.accepted = [] → ∃ a, b'.answers = b.answers ++ [a] ∧ a.rsp.status = st ∧ a.rsp.tag = d.tag ∧ a.rsp.op = d.op ∧ a.rsp.unsol = false))

/-- 03_route_admission.md R64: where the response ring has room, the oldest response is written into it, BRL_RSP_PROD goes on by one,
BRL_IRQ.RSP rises and the response's TAG is given back; nothing outside that lane's Beryl and those 16 bytes changes. -/
def Obligations.ResponseIsWrittenIntoTheRing : Prop :=
  ∀ (s : State) (x : Lane) (t n : Nat) (a : Answer) (rest : List Answer),
    let l := s.m.lane x
    let b := l.beryl
    let addr := ringBase b.regs.rspRing + 16 * (idx10 b.regs.rspProd % n)
    l.powered = true → b.regs.faulted = false → b.answers = a :: rest → ringSize b.regs.rspRing 9 = some n → b.rspFree = true →
    addr + 16 ≤ 0x800000 →
    Completes (.responseWrite x t) s fun m =>
      (∀ i, i < 16 → Mem.getB (m.lane x).tcm (addr + i) = byteOf a.rsp.word i) ∧
      (∀ k, k < addr ∨ addr + 16 ≤ k → Mem.getB (m.lane x).tcm k = Mem.getB l.tcm k) ∧
      (m.lane x).beryl.answers = rest ∧
      (m.lane x).beryl.regs.rspProd = BitVec.ofNat 32 ((idx10 b.regs.rspProd + 1) % 1024) ∧
      (m.lane x).beryl.regs.irq = b.regs.irq ||| 1#32 ∧
      (m.lane x).beryl.tags = (if a.holds = true then b.tags.erase a.rsp.tag else b.tags) ∧
      (m.lane x).beryl.el = b.el ∧ (m.lane x).beryl.rt = b.rt ∧ (m.lane x).beryl.ws = b.ws ∧
      (∀ y, y ≠ x → m.lane y = s.m.lane y)

/-- 03_route_admission.md R69: a route is found admissible only while no route of its CNF row is SET or pending, no element of its LCK row is
LOCKED, LOCK-SAFE, BLOCKED or in POSS, no flank demand meets a point end locked the other way, no element it needs is FAILED, every
signal it needs at stop is at stop, and no key it needs is out. -/
def Obligations.AdmissionExcludesConflicts : Prop :=
  ∀ (d : Stn) (v : View) (cls r : Nat) (pa : RRow), (routeVerdict d v cls r pa).status = stOK →
    r ≤ 4095 ∧ d.rKind r ≠ 0 ∧ v.barred.getLsbD r = false ∧
    d.cnf r &&& v.set = 0 ∧ d.cnf r &&& pa = 0 ∧
    d.rel r 5 &&& (v.locked ||| v.lockSafe ||| v.blocked ||| v.poss) = 0 ∧
    d.rel r 2 &&& v.fln = 0 ∧ d.rel r 1 &&& v.flr = 0 ∧ d.rel r 3 &&& v.lkr = 0 ∧ d.rel r 4 &&& v.lkn = 0 ∧
    (d.rel r 5 ||| d.rel r 3 ||| d.rel r 4 ||| d.rel r 7) &&& v.failed = 0 ∧ d.rel r 0 &&& v.dist = 0 ∧
    d.rel r 6 &&& ~~~v.sigStop = 0 ∧ d.rel r 7 &&& v.keyOut = 0

/-- 03_route_admission.md R70, R73: a SET at the head of the pipeline whose lifetime argument is in range: one found admissible that takes no
overlap over commits its route and is answered OK; one refused for another reason than a conflict, or that did not ask to queue,
changes no plane and is answered with the reason; one that conflicts, asked to queue and may enters the pending set as its last entry
and is answered QUEUED, or QUEUEFULL where it is full. A PROBE changes no plane whatever it is answered. -/
def Obligations.SetCommitsOrQueuesOrRefuses : Prop :=
  ∀ (s : State) (x : Lane) (t : Nat) (d : Desc) (rest : List Accepted),
    let l := s.m.lane x
    let b := l.beryl
    let st := b.stn l.dram
    let v := routeVerdict st b.view d.cls d.route b.rt.pending
    l.powered = true → b.regs.faulted = false → b.accepted = ⟨d, none⟩ :: rest →
    (d.op = 1 → d.arg0 ≤ 3600 → v.status = stOK → takeOf st b.view d.route = 0 →
      Completes (.set x t) s fun m =>
        let b' := (m.lane x).beryl
        let own := st.oRow (st.rOvl d.route)
        b'.rt.set = b.rt.set ||| bitR d.route ∧
        b'.el.locked = b.el.locked ||| (st.rel d.route 5 &&& ~~~own) ∧
        b'.ws.lkn = b.ws.lkn ||| st.rel d.route 1 ∧ b'.ws.lkr = b.ws.lkr ||| st.rel d.route 2 ∧
        b'.el.ovlk = (if st.rOvl d.route = none16 then b.el.ovlk else b.el.ovlk ||| own) ∧
        (st.rOvl d.route ≠ none16 → b'.ws.owner (st.rOvl d.route) = d.route ∧ b'.ws.sigov (st.rExit d.route) = st.rOvl d.route) ∧
        b'.ws.prog d.route = 0 ∧ b'.ws.pend = b.ws.pend ∧
        ∃ a more, b'.answers = b.answers ++ a :: more ∧ a.rsp.status = 0 ∧ a.rsp.tag = d.tag ∧ a.rsp.unsol = false) ∧
    (d.op = 1 → d.arg0 ≤ 3600 → v.status ≠ stOK → (v.status = stCONFLICT ∨ v.status = stCONFLICTPENDING → d.queue = false) →
      Completes (.set x t) s fun m =>
        let b' := (m.lane x).beryl
        b'.el = b.el ∧ b'.rt = b.rt ∧ b'.ws = b.ws ∧
        ∃ a more, b'.answers = b.answers ++ a :: more ∧ a.rsp.status = v.status ∧ a.rsp.who = v.who ∧ a.rsp.tag = d.tag) ∧
    (d.op = 1 → d.arg0 ≤ 3600 → (v.status = stCONFLICT ∨ v.status = stCONFLICTPENDING) → d.queue = true →
      st.rQueueOk d.route = true → v.who ≠ d.route →
      Completes (.set x t) s fun m =>
        let b' := (m.lane x).beryl
        let room := b.ws.pend.length < 256
        let life := if d.arg0 = 0 then 600 else d.arg0
        b'.el = b.el ∧ b'.rt.set = b.rt.set ∧
        b'.ws.pend = (if room then b.ws.pend ++ [⟨d, (b.nowMs + 1000 * life) % 2 ^ 32⟩] else b.ws.pend) ∧
        b'.rt.pending = (if room then b.rt.pending ||| bitR d.route else b.rt.pending) ∧
        ∃ a more, b'.answers = b.answers ++ a :: more ∧ a.rsp.status = (if room then 0x01 else 0x10) ∧ a.rsp.who = v.who) ∧
    (d.op = 7 →
      Completes (.probe x t) s fun m =>
        let b' := (m.lane x).beryl
        b'.el = b.el ∧ b'.rt = b.rt ∧ b'.ws = b.ws ∧
        ∃ a more, b'.answers = b.answers ++ a :: more ∧ a.rsp.status = v.status ∧ a.rsp.who = v.who ∧ a.rsp.splane = v.splane ∧
          a.rsp.rplane = v.rplane)

/-- 03_route_admission.md R78: the answer to a TREL and what it does, row by row of the rule. A route released at once has left SET with its locks before the
retries that its release brings about (R81). -/
def Obligations.TimedReleaseFollowsItsRule : Prop :=
  ∀ (s : State) (x : Lane) (t : Nat) (d : Desc) (rest : List Accepted),
    let l := s.m.lane x
    let b := l.beryl
    let st := b.stn l.dram
    let r := d.route
    let refused (code who : Nat) : Prop := Completes (.trel x t) s fun m =>
      let b' := (m.lane x).beryl
      b'.el = b.el ∧ b'.rt = b.rt ∧ b'.ws = b.ws ∧
      ∃ a more, b'.answers = b.answers ++ a :: more ∧ a.rsp.status = code ∧ a.rsp.who = who ∧ a.rsp.tag = d.tag
    l.powered = true → b.regs.faulted = false → b.accepted = ⟨d, none⟩ :: rest → d.op = 3 →
    (4095 < r → refused 0x15 0xFFFF) ∧
    (r ≤ 4095 → st.rKind r = 0 → refused 0x0B r) ∧
    (r ≤ 4095 → st.rKind r ≠ 0 → b.rt.set.getLsbD r = false → refused 0x0D r) ∧
    (r ≤ 4095 → st.rKind r ≠ 0 → b.rt.set.getLsbD r = true → b.rt.sigClear.getLsbD r = true → refused 0x0E r) ∧
    (r ≤ 4095 → st.rKind r ≠ 0 → b.rt.set.getLsbD r = true → b.rt.sigClear.getLsbD r = false → b.rt.locked.getLsbD r = false →
      b.rt.lockSafe.getLsbD r = false →
      Completes (.trel x t) s fun m =>
        let b' := (m.lane x).beryl
        (∃ b1 : Beryl, b1.rt.set = b.rt.set &&& ~~~bitR r ∧ b1.el.locked = b.el.locked &&& ~~~b.held st r ∧ b1.rt.ovlSet.getLsbD r = false ∧
          b1.ws.pend = b.ws.pend ∧ b'.rt = (b1.retry st (bitR r)).rt ∧ b'.el = (b1.retry st (bitR r)).el ∧ b'.ws = (b1.retry st (bitR r)).ws) ∧
        (b.ws.pend = [] → b'.rt.set = b.rt.set &&& ~~~bitR r ∧ b'.el.locked = b.el.locked &&& ~~~b.held st r) ∧
        ∃ a more, b'.answers = b.answers ++ a :: more ∧ a.rsp.status = 0) ∧
    (r ≤ 4095 → st.rKind r ≠ 0 → b.rt.set.getLsbD r = true → b.rt.sigClear.getLsbD r = false →
      (b.rt.locked.getLsbD r = true ∨ b.rt.lockSafe.getLsbD r = true) →
      Completes (.trel x t) s fun m =>
        let b' := (m.lane x).beryl
        b'.rt = { b.rt with trel := b.rt.trel ||| bitR r } ∧ b'.el = b.el ∧
        SMap.get 0 b'.ws.rdl r = (b.nowMs + st.rTrel r) % 2 ^ 32 ∧
        ∃ a more, b'.answers = b.answers ++ a :: more ∧ a.rsp.status = 0x1A)

/-- 03_route_admission.md R74, R77, R85, "Operations": what CANCEL, DEQUEUE, AFFECT and PLANE_WRITE at the head of the pipeline
do. A CANCEL of a route whose approach is free is stated for an empty pending set, where no retry follows the release. -/
def Obligations.OtherBerylOperationsTakeEffect : Prop :=
  ∀ (s : State) (x : Lane) (t : Nat) (d : Desc) (rest : List Accepted),
    let l := s.m.lane x
    let b := l.beryl
    let st := b.stn l.dram
    let r := d.route
    let answered (m : Mod) (code : Nat) : Prop :=
      ∃ a more, (m.lane x).beryl.answers = b.answers ++ a :: more ∧ a.rsp.status = code ∧ a.rsp.tag = d.tag ∧ a.rsp.unsol = false
    l.powered = true → b.regs.faulted = false → b.accepted = ⟨d, none⟩ :: rest →
    (d.op = 2 → r ≤ 4095 → st.rKind r ≠ 0 → b.rt.set.getLsbD r = true → b.rt.sigClear.getLsbD r = false → b.rt.lockSafe.getLsbD r = false →
      (b.rt.locked.getLsbD r = true ∧ st.approachRow r &&& b.el.occ ≠ 0 →
        Completes (.cancel x t) s fun m =>
          (m.lane x).beryl.rt = { b.rt with approach := b.rt.approach ||| bitR r, trel := b.rt.trel ||| bitR r } ∧
          (m.lane x).beryl.el = b.el ∧ SMap.get 0 (m.lane x).beryl.ws.rdl r = (b.nowMs + st.rAppr r) % 2 ^ 32 ∧ answered m 0x19) ∧
      (b.rt.locked.getLsbD r = false ∨ st.approachRow r &&& b.el.occ = 0 → b.ws.pend = [] →
        Completes (.cancel x t) s fun m =>
          (m.lane x).beryl.rt.set = b.rt.set &&& ~~~bitR r ∧ (m.lane x).beryl.el.locked = b.el.locked &&& ~~~b.held st r ∧ answered m 0)) ∧
    (d.op = 2 → r ≤ 4095 → st.rKind r ≠ 0 → b.rt.set.getLsbD r = false →
      Completes (.cancel x t) s fun m => (m.lane x).beryl.rt = b.rt ∧ (m.lane x).beryl.el = b.el ∧ answered m 0x0D) ∧
    (d.op = 4 → r ≤ 4095 → st.rKind r ≠ 0 → ∀ e, b.ws.pend = [e] → e.desc.route = r →
      Completes (.dequeue x t) s fun m =>
        (m.lane x).beryl.ws.pend = [] ∧ (m.lane x).beryl.rt.pending = b.rt.pending &&& ~~~bitR r ∧ (m.lane x).beryl.el = b.el ∧ answered m 0x17) ∧
    (d.op = 6 → d.arg0 ≤ 16383 →
      Completes (.affect x t) s fun m =>
        (∀ i, i < 512 → Mem.getB (m.lane x).tcm (d.arg2 % 0x800000 + i) = byteOf (affectRow st d.arg0).toNat i) ∧
        (m.lane x).beryl.el = b.el ∧ (m.lane x).beryl.rt = b.rt ∧ (m.lane x).beryl.ws = b.ws ∧ answered m 0) ∧
    (d.op = 0x10 → bits d.arg0 7 0 = 16 → bits d.arg0 23 8 < 512 →
      Completes (.planeWrite x t) s fun m =>
        (m.lane x).beryl.rt = b.rt ∧ (m.lane x).beryl.ws = b.ws ∧ (∀ p, p ≠ 16 → (m.lane x).beryl.el.get p = b.el.get p) ∧
        (∀ k, k / 32 ≠ bits d.arg0 23 8 → (m.lane x).beryl.el.auxReq.getLsbD k = b.el.auxReq.getLsbD k) ∧ answered m 0)

/-- 03_route_admission.md R82, R132: an AREL in range starts the timer of its area, whether or not it runs, and is answered TIMING; one whose area or time is out of range changes no
plane (R131). A PLANE_WRITE that sets CMD-N or CMD-R for a point end with LOCK-SAFE set changes nothing and is answered LOCKED; WHO names the point end where the write
sets no bit below it, and never an element above it. -/
def Obligations.AreaTimersAndLockSafePointEnds : Prop :=
  ∀ (s : State) (x : Lane) (t : Nat) (d : Desc) (rest : List Accepted),
    let l := s.m.lane x
    let b := l.beryl
    let st := b.stn l.dram
    let answered (m : Mod) (code : Nat) (p : Rsp → Prop) : Prop :=
      ∃ a more, (m.lane x).beryl.answers = b.answers ++ a :: more ∧ a.rsp.status = code ∧ a.rsp.tag = d.tag ∧ a.rsp.unsol = false ∧ p a.rsp
    l.powered = true → b.regs.faulted = false → b.accepted = ⟨d, none⟩ :: rest →
    (d.op = 5 → d.arg0 ≤ 255 → 60000 ≤ d.arg1 → d.arg1 ≤ 3600000 →
      Completes (.arel x t) s fun m =>
        let w := (m.lane x).beryl.ws
        w.arun = b.ws.arun ||| (1#256 <<< d.arg0) ∧ SMap.get 0 w.adl d.arg0 = (b.nowMs + d.arg1) % 2 ^ 32 ∧
        (∀ k, k ≠ d.arg0 → SMap.get 0 w.adl k = SMap.get 0 b.ws.adl k) ∧ (m.lane x).beryl.el = b.el ∧ (m.lane x).beryl.rt = b.rt ∧
        answered m 0x1A fun _ => True) ∧
    (d.op = 5 → 255 < d.arg0 ∨ d.arg1 < 60000 ∨ 3600000 < d.arg1 →
      Completes (.arel x t) s fun m =>
        (m.lane x).beryl.el = b.el ∧ (m.lane x).beryl.rt = b.rt ∧ (m.lane x).beryl.ws = b.ws ∧ answered m 0x15 fun _ => True) ∧
    (∀ e, let p := bits d.arg0 7 0
      let w := bits d.arg0 23 8
      let sets (k : Nat) : Prop := k / 32 = w ∧ (d.arg1 &&& d.arg2).testBit (k % 32) = true
      d.op = 0x10 → p = 7 ∨ p = 8 → w < 512 → sets e → isPoint (st.eType e) = true → b.el.lockSafe.getLsbD e = true →
      Completes (.planeWrite x t) s fun m =>
        (m.lane x).beryl.el = b.el ∧ (m.lane x).beryl.rt = b.rt ∧ (m.lane x).beryl.ws = b.ws ∧
        answered m 0x04 fun q => q.who ≤ e ∧ sets q.who ∧ ((∀ k, k < e → ¬ sets k) → q.who = e))

/-- 03_route_admission.md R60, R74, R79, R80, R82, R83, R88, "BRL_CMD": LOAD and CLEAR of a Beryl that is held and empty, STEP, SWEEP and its end, a row
fetch that times out; an area's timer that is due takes LOCK-SAFE off the area's elements; a pending entry whose lifetime has passed leaves; a route or an overlap whose timed
release is due is released (the last three stated for a pending set in which nothing is left to retry). None acts before it is due. -/
def Obligations.BerylCommandsAndTimersTakeEffect : Prop :=
  ∀ (s : State) (x : Lane) (t r : Nat),
    let l := s.m.lane x
    let b := l.beryl
    let st := b.stn l.dram
    l.powered = true → b.regs.faulted = false →
    (b.regs.hold = true → b.idle = true →
      Completes (.load x t) s fun m =>
        (m.lane x).beryl.regs.loaded = true ∧ (m.lane x).beryl.regs.irq = b.regs.irq ||| 8#32 ∧ (m.lane x).beryl.ws.pend = [] ∧
        (∀ i, i < 4 → Mem.getB (m.lane x).dram (b.regs.wrkBase + 0x03000000 + i) = 0#8)) ∧
    (b.regs.hold = true → b.idle = true →
      Completes (.clear x t) s fun m =>
        (m.lane x).beryl.el = EPlanes.zero ∧ (m.lane x).beryl.rt = RPlanes.zero ∧ (m.lane x).beryl.ws = BerylStore.zero) ∧
    (b.regs.hold = false ∨ b.idle = false →
      Completes (.load x t) s (fun m => m = (s.m.advance t).setLane x { l with beryl := b.raise irqCMDERR }) ∧
      Completes (.clear x t) s (fun m => m = (s.m.advance t).setLane x { l with beryl := b.raise irqCMDERR })) ∧
    Completes (.step x t) s (fun m =>
      (m.lane x).beryl.latched = b.regs.nowLo.toNat + b.regs.nowHi.toNat * 2 ^ 32 ∧ (m.lane x).beryl.lastKey = Key.zero ∧
      (m.lane x).beryl.regs.adm = 0 ∧ (m.lane x).beryl.regs.ref = 0 ∧ (m.lane x).beryl.regs.irq.getLsbD 1 = true) ∧
    (∀ p, b.sweepRun = none → b.freeStage = some p →
      Completes (.sweep x t) s fun m =>
        m = (s.m.advance t).setLane x { l with beryl := { b with sweepRun := some ⟨p, 0⟩, ws := { b.ws with snap := b.view } } }) ∧
    (∀ w, b.sweepRun = some w →
      Completes (.sweepComplete x t) s fun m =>
        (m.lane x).beryl.sweepRun = none ∧ (m.lane x).beryl.sweepReady = b.sweepReady ++ [w] ∧
        (m.lane x).beryl.regs.irq = b.regs.irq ||| 4#32 ∧
        (if w.plane = 0 then (m.lane x).beryl.ws.stg0 else (m.lane x).beryl.ws.stg1) = sweepResult (b.stn l.dram) b.ws.snap) ∧
    Completes (.fetchTimeout x t) s (fun m =>
      (m.lane x).beryl.regs.faulted = true ∧ (m.lane x).beryl.regs.irq = b.regs.irq ||| 32#32 ∧ (m.lane x).beryl.el = b.el ∧
      m.can.get x = false) ∧
    (b.ws.arun.getLsbD r = true → isDue b.nowMs (SMap.get 0 b.ws.adl r) = true →
      Completes (.areaTimerDue x r t) s fun m =>
        (m.lane x).beryl.el = { b.el with lockSafe := b.el.lockSafe &&& ~~~st.areaRow r } ∧
        (m.lane x).beryl.ws = { b.ws with arun := b.ws.arun &&& ~~~(1#256 <<< r) } ∧ (m.lane x).beryl.rt = b.rt) ∧
    (b.ws.arun.getLsbD r = false ∨ isDue b.nowMs (SMap.get 0 b.ws.adl r) = false →
      exec (.areaTimerDue x r t) s = .next { s with m := (s.m.advance t).setLane x l }) ∧
    (∀ e, b.ws.pend = [e] → e.desc.route = r → isDue b.nowMs e.deadline = true →
      Completes (.pendingExpire x r t) s fun m =>
        (m.lane x).beryl.ws.pend = [] ∧ (m.lane x).beryl.rt.pending = b.rt.pending &&& ~~~bitR r ∧ (m.lane x).beryl.el = b.el ∧
        ∃ a, (m.lane x).beryl.answers = b.answers ++ [a] ∧ a.rsp.status = 0x18 ∧ a.rsp.unsol = true ∧ a.rsp.tag = e.desc.tag) ∧
    (b.ws.pend = [] → b.rt.set.getLsbD r = true → b.rt.trel.getLsbD r = true → isDue b.nowMs (SMap.get 0 b.ws.rdl r) = true →
      Completes (.routeTrelDue x r t) s fun m =>
        (m.lane x).beryl.rt.set = b.rt.set &&& ~~~bitR r ∧ (m.lane x).beryl.rt.trel = b.rt.trel &&& ~~~bitR r ∧
        (m.lane x).beryl.rt.ovlSet.getLsbD r = false) ∧
    (b.ws.pend = [] → b.rt.ovlSet.getLsbD r = true → b.rt.ovlTrel.getLsbD r = true →
      isDue b.nowMs (SMap.get 0 b.ws.odl (st.rOvl r)) = true →
      Completes (.overlapTrelDue x r t) s fun m =>
        (m.lane x).beryl.rt.ovlSet = b.rt.ovlSet &&& ~~~bitR r ∧ (m.lane x).beryl.ws.owner (st.rOvl r) = none16 ∧
        (m.lane x).beryl.rt.set = b.rt.set)

/-! ### The cycle -/

/-- 01_one_logic_cycle.md R18, R19: an item of a class and kind that its path carries is stamped with the arrival minor cycle and written once
into the ring of each lane that takes items of the path: the delivery count of that path goes up by one, the other paths' rings stand. A
lane that does not take items of the path keeps its rings, and a port held back by a paused channel keeps the item waiting. -/
def Obligations.ItemReachesEachLaneOnce : Prop :=
  ∀ (s : State) (p : Path) (cls num seq : Nat) (kind : ItemKind) (body : Bytes) (t : Nat),
    p.classes.contains cls = true → p.kinds.contains kind = true →
    let i : Item := ⟨s.m.obx.mcn, cls, num, seq, kind, body⟩
    Completes (.itemReceive p cls num seq kind body t) s fun m =>
      (∀ x, s.m.takes p x = true → (s.m.lane x).tdm.portHeld p.port = false →
        ((m.lane x).rings.get p).count = ((s.m.lane x).rings.get p).count + 1 ∧
        ((m.lane x).rings.get p).items = ((s.m.lane x).rings.get p).items ++ [i] ∧
        ∀ q, q ≠ p → (m.lane x).rings.get q = (s.m.lane x).rings.get q) ∧
      (∀ x, s.m.takes p x = true → (s.m.lane x).tdm.portHeld p.port = true →
        m.lane x = { s.m.lane x with portWait := (s.m.lane x).portWait ++ [(p, i)] }) ∧
      (∀ x, s.m.takes p x = false → m.lane x = s.m.lane x) ∧
      m.service = s.m.service ∧ m.cycle = s.m.cycle ∧ m.sent = s.m.sent

/-- 01_one_logic_cycle.md R15, R16, R20, R99; 06_lanes_and_voting.md R170: what opens and closes the phases of a cycle. A lane in the cut phase
cuts with its counts; the first cut of a module whose boundary leaves it in service begins the next cycle; a lane whose items are
missing 20 µs after the cut falls silent; the first offer of a voting lane opens the window, a failed self-check of its seal engine
silences the lane instead; a program stopped for its run time in one lane alone silences that lane. R17: a phase longer than its bound is
recorded by each voting lane; a cycle that has not handed over within 10 ms of its cut in FULL, 20 ms in REDUCED, holds the module (cause 1). -/
def Obligations.CyclePhasesFollowTheirCommands : Prop :=
  ∀ (s : State) (x : Lane) (t : Nat),
    let m0 := s.m.advance t
    let l := s.m.lane x
    (s.m.cycles = true → s.m.running.contains x = true → s.m.ph = .cut → l.cut = none →
      Completes (.inputCut x t) s fun m =>
        (m.lane x).cut = some (Path.all.map fun p => (l.rings.get p).count) ∧ (m.lane x).reading = m0.laneTime x ∧ m.ph = .cut ∧
        (m.lane x).rings = l.rings ∧ ∀ y, y ≠ x → m.lane y = s.m.lane y) ∧
    (s.m.cycles = true → s.m.running.contains x = true → s.m.ph = .idle → s.m.stopCut = false → s.m.handed = true → l.voting = true →
      m0.boundary.cycles = true → m0.boundary.beginCycle.running.contains x = true →
      Completes (.inputCut x t) s fun m =>
        m.cycle = m0.boundary.cycle + 1 ∧ m.ph = .cut ∧ m.handed = false ∧ m.cutAt = m0.clock ∧ (m.lane x).cut.isSome = true) ∧
    (s.m.cycles = true → s.m.ph = .cut → s.m.running.contains x = true → l.cut.isSome = true → s.m.cutAt + 20000 ≤ t →
      l.lacks s.m.cutCounts = true →
      Completes (.cutWaitTimeout x t) s fun m => m.can.get x = false) ∧
    (s.m.inService = true → s.m.ph = .run → s.m.running.contains x = true → l.offer = none → l.rt.exc = none → l.voting = true →
      s.m.winAt = none →
      exec (.outputOffer x true t) s
        = .next { s with m := { m0.setLane x { l with offer := some (l.summary m0.cycleIn), offerAt := m0.clock } with
            winAt := some m0.clock, ph := .window } } ∧
      Completes (.outputOffer x false t) s fun m => m.can.get x = false) ∧
    (∀ e, s.m.inService = true → s.m.ph = .run → s.m.running.contains x = true → l.offer = none →
      (s.m.modLane x fun l => l.progExc x.idx { e with kind := 2 }).commonExc = false →
      Completes (.wcetOverrun x e t) s fun m => m.can.get x = false) ∧
    (∀ phase len, s.m.inService = true → phase ≤ 4 → phaseBound (s.m.service == .full) phase < len →
      exec (.phaseOverrun phase len t) s
        = .next { s with m := m0.puts (s.m.voters.map fun x => mkEvt 0x0004 x.idx 7 0 (leBytes 1 phase ++ leBytes 4 len)) }) ∧
    (∀ phase len, len ≤ phaseBound (s.m.service == .full) phase → exec (.phaseOverrun phase len t) s = .next { s with m := m0 }) ∧
    (s.m.cycles = true → s.m.handed = false → s.m.cutAt + (if s.m.service = .full then 10000000 else 20000000) ≤ t →
      Completes (.cycleHandoverTimeout t) s fun m =>
        m.service = .held ∧ m.heldCause = 1 ∧ m.handed = true ∧ m.outWait = none ∧ ∀ x, (m.lane x).voting = false)

/-- 01_one_logic_cycle.md R24, R99; 06_lanes_and_voting.md R163, R170, R171, R503: once every present lane has cut and holds the items, consensus
ends in the program run or in HELD; once every present lane has offered, or 20 µs after opening, the window closes and no window is open any more;
where no two lanes agree on the output image as a whole the module is in HELD; and a program exception at one program in every voting lane
ends the cycle in HELD with cause 5. -/
def Obligations.ConsensusAndVoteEndTheirPhase : Prop :=
  ∀ (s : State) (t : Nat),
    let m0 := s.m.advance t
    (∀ excs, s.m.cycles = true → s.m.ph = .cut → (s.m.present.all fun x => (s.m.lane x).cut.isSome) = true →
      ((s.m.running.filter fun x => (s.m.lane x).cut.isSome).any fun x => (s.m.lane x).lacks s.m.cutCounts) = false →
      Completes (.inputConsensus excs t) s fun m => m.service = .held ∨ m.ph = .run) ∧
    (∀ ins w, s.m.inService = true → (s.m.ph = .run → s.m.commonExc = false) → s.m.winAt = some w →
      ((s.m.present.all fun x => (s.m.lane x).offer.isSome) = true ∨ w + 20000 ≤ m0.clock) →
      Completes (.voteWindowClose ins t) s fun m =>
        m.winAt = none ∧ m.ph = .idle ∧
        ((vote (s.m.present.filterMap fun x => ((s.m.lane x).offer).map fun o => (x, o))).held = true → m.service = .held)) ∧
    (∀ ins, s.m.inService = true → s.m.ph = .run → s.m.commonExc = true →
      Completes (.voteWindowClose ins t) s fun m => m.service = .held ∧ m.heldCause = 5)

/-- 06_lanes_and_voting.md R170, R171; 01_one_logic_cycle.md R20: a lane that agrees on a unit offered a digest that at least two lanes offered for it, and a vote of three
that does not lead to HELD rests on two lanes whose whole summaries are equal. The cut count of three counts is their median, that of two the lower one. -/
def Obligations.VotedUnitsRestOnTwoEqualOffers : Prop :=
  (∀ (offers : List (Lane × List Nat)) (u : Nat) (x : Lane), x ∈ agreeing offers u →
    ∃ o ∈ offers, o.1 = x ∧ 2 ≤ (offers.filter fun q => q.2.getD u 0 == o.2.getD u 0).length) ∧
  (∀ offers : List (Lane × List Nat), (vote offers).held = false → offers.length = 3 →
    ∃ o ∈ offers, ∃ q ∈ offers, o.1.idx < q.1.idx ∧ o.2 = q.2) ∧
  (∀ offers : List (Lane × List Nat), (vote offers).held = false → 2 ≤ offers.length) ∧
  (∀ a b c : Nat, (cutCount [a, b, c] = a ∨ cutCount [a, b, c] = b ∨ cutCount [a, b, c] = c) ∧
    2 ≤ ([a, b, c].filter fun k => decide (k ≤ cutCount [a, b, c])).length ∧
    2 ≤ ([a, b, c].filter fun k => decide (cutCount [a, b, c] ≤ k)).length) ∧
  ∀ a b : Nat, cutCount [a, b] = min a b

/-! ### Lanes, Garnet and rotations -/

/-- 06_lanes_and_voting.md R152, R153, R154; 16_movers_checks_crossings.md R458: a lock-step mismatch or a disagreement of the comparator copies of
a lane that runs compared stops its core pair; a trip of its power-good or clock monitor silences it; a debug halt in LAB or
MANUFACTURE stops both cores at the same boundary. In each case no output gate of that lane can be live any more, and the first cause since
lane reset stands in LCT_FAULT with its level and unit. -/
def Obligations.LaneFaultsTakeTheLaneOffTheGates : Prop :=
  ∀ (s : State) (x : Lane) (t : Nat),
    let l := s.m.lane x
    let fault (c level unitNo : Nat) (m : Mod) : Prop :=
      l.lct.fault = 0 → (m.lane x).lct.fault = BitVec.ofNat 32 (c + level <<< 8 + unitNo <<< 16)
    (∀ n, l.comparator = true → l.released = true →
      Completes (.lockstepMismatch x n t) s fun m => m.can.get x = false ∧ (m.lane x).stopped = true ∧ fault 1 4 n m) ∧
    (l.comparator = true → l.released = true →
      Completes (.comparatorDisagree x t) s fun m => m.can.get x = false ∧ (m.lane x).stopped = true ∧ fault 2 4 2 m) ∧
    (∀ dev, l.powered = true →
      Completes (.laneMonitorTrip x false dev t) s fun m => m.can.get x = false ∧ (m.lane x).lct.pgTrip = true ∧ fault 8 5 8 m) ∧
    (∀ dev, l.powered = true →
      Completes (.laneMonitorTrip x true dev t) s fun m =>
        m.can.get x = false ∧ (m.lane x).lct.clkTrip = true ∧ (m.lane x).lct.clkDev = dev % 65536 ∧ fault 9 5 8 m) ∧
    (l.powered = true → l.released = true → (l.latch = .lab ∨ l.latch = .manufacture) →
      Completes (.debugHalt x t) s fun m => m.can.get x = false ∧ (m.lane x).halted = true) ∧
    (l.latch ≠ .lab → l.latch ≠ .manufacture → exec (.debugHalt x t) s = .next { s with m := s.m.advance t })

/-- 06_lanes_and_voting.md R160, R161: a Garnet frame that fails its CRC the first time is counted and captured; a failed link has its state and
next retrain set 10 s on, and in FULL the later of its two ends is to leave while a second fault holds the module with cause 6; a
retrain that passes brings the link up, one that fails sets the next one 10 s on. -/
def Obligations.GarnetLinksFailAndRetrain : Prop :=
  ∀ (s : State) (x : Lane) (n : LinkName) (t : Nat),
    let m0 := s.m.advance t
    ((s.m.links.get n).st = 2 →
      Completes (.garnetCrcFail x n false t) s fun m =>
        (m.lane x).grn.retry = min 0xFFF ((s.m.lane x).grn.retry + 1) ∧
        (m.lane x).grn.errcap = captureErr (s.m.lane x).grn.errcap 1 3 ∧ m.links = s.m.links ∧ ∀ y, y ≠ x → m.lane y = s.m.lane y) ∧
    ((s.m.links.get n).st = 2 → exec (.garnetCrcFail x n true t) s = exec (.garnetLinkFault n t) s) ∧
    ((s.m.links.get n).st ≠ 3 → s.m.service = .full → s.m.voters.length = 3 → s.m.links.failed = 0 →
      Completes (.garnetLinkFault n t) s fun m =>
        m.links.get n = ⟨3, some (m0.clock + 10000000000)⟩ ∧ m.service = .full ∧ (m.lane n.ends.2.1).leaving.isSome = true ∧
        ((s.m.lane n.ends.1).leaving = none → (m.lane n.ends.1).leaving = none)) ∧
    ((s.m.links.get n).st ≠ 3 → s.m.inService = true → s.m.links.failed = 1 →
      Completes (.garnetLinkFault n t) s fun m => m.service = .held ∧ m.heldCause = 6) ∧
    (∀ w, (s.m.links.get n).st = 3 → (s.m.links.get n).retrainAt = some w → w ≤ t →
      Completes (.garnetLinkRetrain n true t) s (fun m => m.links.get n = ⟨2, none⟩ ∧ m.service = s.m.service) ∧
      exec (.garnetLinkRetrain n false t) s
        = .next { s with m := { m0 with links := s.m.links.set n ⟨3, some (m0.clock + 10000000000)⟩ } })

/-- 06_lanes_and_voting.md R157, R176, R177, R178, R180: a lane that falls due between cycles, with the start conditions met, is withdrawn and the
module is REDUCED; each step of the rotation takes it to the next; a step that fails, or 45 s without an end, holds the lane out. -/
def Obligations.RotationStepsFollowTheTable : Prop :=
  ∀ (s : State) (x : Lane) (t : Nat),
    let m0 := s.m.advance t
    let l := s.m.lane x
    (s.m.rotReady = true → l.voting = true → s.m.ph = .idle → (s.m.books.get x).due = none → (s.m.books.get x).restart = none →
      Completes (.rotationDue x t) s fun m =>
        m.rotation = some ⟨x, .schedule, .split, m0.clock⟩ ∧ (m.lane x).voting = false ∧ (m.lane x).comparator = false ∧ m.service = .reduced) ∧
    (∀ d, (s.m.books.get x).due = some d → (s.m.books.get x).overdue = false → d + 14400000000000 ≤ t →
      Completes (.rotationOverdue x t) s fun m =>
        (m.books.get x).overdue = true ∧ (m.books.get x).due = some d ∧ m.lanes = s.m.lanes ∧ m.rotation = s.m.rotation) ∧
    (∀ r, s.m.rotation = some r → r.lane = x → r.step = .split →
      exec (.coreSoloSelftestDone x true t) s = .next { s with m := { m0 with rotation := some { r with step := .solo } } } ∧
      Completes (.coreSoloSelftestDone x false t) s fun m =>
        m.rotation = none ∧ (m.lane x).heldOut = true ∧ (m.lane x).released = false) ∧
    (∀ r, s.m.rotation = some r → r.lane = x → r.step = .solo →
      Completes (.lanePowerCycle x t) s fun m =>
        m.rotation = some { r with step := .powered } ∧ (m.lane x).tcm = [] ∧ (m.lane x).dram = [] ∧ (m.lane x).mram = l.mram ∧
        (m.lane x).keys = l.keys ∧ (m.lane x).voting = false ∧ (m.lane x).grn = Grn.reset ∧ m.procs.get (procOf x) = .inReset) ∧
    (∀ r, s.m.rotation = some r → r.since + 45000000000 ≤ t →
      Completes (.rotationAbandon t) s fun m => m.rotation = none ∧ (m.lane r.lane).heldOut = true) ∧
    (∀ r, s.m.rotation = some r → t < r.since + 45000000000 → s.m.clock ≤ t →
      exec (.rotationAbandon t) s = .next { s with m := m0 })

/-- 06_lanes_and_voting.md R178, R179: a copy to a lane that may join starts from the earlier voting lane; at the first boundary after the walk the
target holds the source's memories, planes, tables and rings and runs in shadow without voting. -/
def Obligations.StateCopyMakesTheLanesEqual : Prop :=
  ∀ (s : State) (x y : Lane) (t : Nat),
    let m0 := s.m.advance t
    (s.m.inService = true → s.m.copy = none → s.m.joinable x = true → s.m.rotation = none → s.m.voters.head? = some y →
      exec (.stateCopyStart x t) s = .next { s with m := { m0 with copy := some ⟨y, x, m0.clock, true, false, 1, 0, true⟩ } }) ∧
    (∀ c, s.m.copy = some c → c.equal = false → s.m.ph = .idle → s.m.inService = true → c.src ≠ c.dst →
      let src := s.m.lane c.src
      Completes (.stateCopyEqual t) s fun m =>
        let d := m.lane c.dst
        m.copy = some { c with equal := true, passes := 0 } ∧ d.shadow = true ∧ d.tcm = src.tcm ∧ d.beryl.el = src.beryl.el ∧
        d.beryl.rt = src.beryl.rt ∧ d.beryl.ws = src.beryl.ws ∧ d.rings = src.rings ∧ d.kst = src.kst ∧ d.rt.forces = src.rt.forces ∧
        d.voting = (s.m.lane c.dst).voting ∧ (m.lane c.src).tcm = src.tcm ∧ m.service = s.m.service)

/-- 06_lanes_and_voting.md R174, R183, R184: a block that one of three lanes digests differently has that lane leave; one that all three digest
differently holds the module with cause 7; the values are compared once. A lane whose gate inputs differ from the other two counts a
streak, which ends as soon as they agree. -/
def Obligations.DivergentLanesLeave : Prop :=
  ∀ (s : State) (t k va vb vc : Nat),
    (s.m.inService = true → s.m.present = [.a, .b, .c] → s.m.lanes.a.sdg = [(k, va)] → s.m.lanes.b.sdg = [(k, vb)] → s.m.lanes.c.sdg = [(k, vc)] →
      Completes (.digestSliceCompare t) s fun m =>
        (∀ x, (m.lane x).sdg = []) ∧
        (va = vb → vb = vc → m.lanes.a.leaving = s.m.lanes.a.leaving ∧ m.lanes.b.leaving = s.m.lanes.b.leaving ∧
          m.lanes.c.leaving = s.m.lanes.c.leaving) ∧
        (va = vb → vb ≠ vc → m.lanes.c.leaving.isSome = true ∧ m.lanes.a.leaving = s.m.lanes.a.leaving ∧ m.service = s.m.service) ∧
        (va = vc → va ≠ vb → m.lanes.b.leaving.isSome = true ∧ m.lanes.a.leaving = s.m.lanes.a.leaving ∧ m.service = s.m.service) ∧
        (vb = vc → va ≠ vb → m.lanes.a.leaving.isSome = true ∧ m.lanes.b.leaving = s.m.lanes.b.leaving ∧ m.service = s.m.service) ∧
        (va ≠ vb → va ≠ vc → vb ≠ vc → m.service = .held ∧ m.heldCause = 7)) ∧
    (∀ bad, s.m.full = true →
      let lio := ((s.m.advance t).lio.readback s.m.can (s.m.advance t).clock bad).1
      Completes (.gateReadback bad t) s fun m => ∀ x,
        m.gateStreak.get x = (if (s.m.lane x).voting = true ∧ lio.gateMinority s.m.can x = true then s.m.gateStreak.get x + 1 else 0) ∧
        (3 ≤ m.gateStreak.get x → (m.lane x).leaving.isSome = true))

/-! ### Retained data, restarts, online change and forces -/

/-- 04_interlocking_programs.md R119; 05_change_while_running.md R124: the write of cycle n goes to copy n mod 2 with its header and lock store copy last; both then
name cycle n with a CRC that checks, and no byte of the other copy, its header or its lock store copy is touched. With no hand-over nothing is written. -/
def Obligations.RetainWriteLeavesTheOtherCopy : Prop :=
  ∀ (s : State) (x : Lane) (t : Nat), (s.m.lane x).powered = true →
    let l := s.m.lane x
    (l.rt.hand = none → exec (.retainMramWrite x t) s = .next { s with m := (s.m.advance t).setLane x l }) ∧
    (∀ h, l.rt.hand = some h → (∀ k ∈ h.lines, k < 7936) → h.cycle < 2 ^ 64 →
      Completes (.retainMramWrite x t) s fun m =>
        let r := (m.lane x).mram
        (m.lane x).rt.hand = none ∧ (m.lane x).rt.dirty = l.rt.dirty ∧ (m.lane x).tcm = l.tcm ∧ (m.lane x).dram = l.dram ∧
        recCycle r h.cycle = h.cycle ∧ r.rd (hdrAt h.cycle + 0x7FC) 4 = hdrCrc r h.cycle ∧
        r.rd (lockAt h.cycle) 8 = h.cycle ∧ lockValid r h.cycle = true ∧
        (∀ a, (hdrAt (h.cycle + 1) ≤ a ∧ a < hdrAt (h.cycle + 1) + 0x800) ∨ (copyAt (h.cycle + 1) ≤ a ∧ a < copyAt (h.cycle + 1) + 0x1F0000) ∨
            (lockAt (h.cycle + 1) ≤ a ∧ a < lockAt (h.cycle + 1) + 0x4000) ∨ 0x408000 ≤ a →
          Mem.getB r a = Mem.getB l.mram a))

/-- 05_change_while_running.md R125: the agreed record is one that at least two lanes offer with equal fingerprints, no higher cycle is so offered, and only those
lanes hold it; the lanes themselves are unchanged. -/
def Obligations.AgreedRecordNeedsTwoEqualLanes : Prop :=
  ∀ (s : State) (t : Nat), s.m.service = .starting →
    Completes (.restartRecordExchange t) s fun m =>
      m.restart.exchanged = true ∧ m.lanes = s.m.lanes ∧ m.service = .starting ∧
      (∀ c tm, m.restart.record = some (c, tm) →
        2 ≤ m.restart.holders.length ∧
        ∃ f, ∀ x, x ∈ m.restart.holders ↔ x ∈ s.m.ready ∧ (c, f) ∈ (s.m.lane x).candidates) ∧
      (m.restart.record = none → m.restart.holders = []) ∧
      (∀ x y c f, x ∈ s.m.ready → y ∈ s.m.ready → x ≠ y → (c, f) ∈ (s.m.lane x).candidates → (c, f) ∈ (s.m.lane y).candidates →
        ∃ c' tm, m.restart.record = some (c', tm) ∧ c ≤ c')

/-- 05_change_while_running.md R121, R125, R134; 09_local_safety_io.md R289; 13_startup_and_self_test.md R372: the first voting cycle is warm with the lanes that hold the agreed record
where a record no older than WARM_MAX is there, and cold with every lane otherwise; it is a settle cycle. In OPERATE on JW3X-F a lane without its confirmation record holds the module with cause 0xF. -/
def Obligations.FirstVotingCycleIsWarmOrCold : Prop :=
  ∀ (s : State) (t : Nat),
    let m0 := s.m.advance t
    let rs := s.m.ready.filter fun x => (s.m.lane x).grn.ctrl.getLsbD 2
    s.m.service = .starting → s.m.role = roleACTIVE → s.m.power.slotBad = false → s.m.power.dupSid = false → 2 ≤ rs.length →
    s.m.jade.lc.cycles = true →
    (s.m.full = true → s.m.jade.lc = .operate → (∃ x ∈ rs, (s.m.lane x).confirmed = false) →
      Completes (.firstVotingCycle t) s fun m => m.service = .held ∧ m.heldCause = 0xF ∧ ∀ x, (m.lane x).voting = false) ∧
    ((s.m.full = false ∨ s.m.jade.lc ≠ .operate ∨ ∀ x ∈ rs, (s.m.lane x).confirmed = true) →
      let hold := rs.filter fun x => s.m.restart.holders.contains x
      let warm : Bool := m0.warmAge.isSome && decide (2 ≤ hold.length)
      let vs := if warm then hold else rs
      Completes (.firstVotingCycle t) s fun m =>
        m.service = (if vs.length = 3 then .full else .reduced) ∧ m.restart.kind = (if warm then 1 else 2) ∧ m.everActive = true ∧
        (∀ x ∈ vs, (m.lane x).voting = true ∧ (m.lane x).silent = false ∧ (m.lane x).rt.settle = true ∧ (m.lane x).rt.forces = []) ∧
        (∀ x, x ∉ vs → m.lane x = s.m.lane x) ∧ (warm = false → m.cycle = 0) ∧
        (warm = true → ∀ c tm, s.m.restart.record = some (c, tm) → m.cycle = c))

/-- 05_change_while_running.md R137, R138, R148: a commit is accepted into every voting lane with its wait, 300 s where WAIT_S is 0, or ends with the first refusal that
applies; a wait that ends without a boundary gives result ROUTES and discards the staged images. -/
def Obligations.ChangeCommitStartsTheSearchOrIsRefused : Prop :=
  ∀ (s : State) (t anum : Nat) (body : Bytes) (x : Lane) (a : AssocRec),
    let m0 := s.m.advance t
    let way := Bytes.le body 4 1
    let digest := Bytes.sub body 0x10 48
    let wait := if Bytes.le body 8 4 = 0 then 300 else min (Bytes.le body 8 4) 3600
    (s.m.voters.head? = some x → (s.m.lane x).kst.recOf anum = some a → a.canCommission = true →
      (s.m.commitRefused s.m.lcLane way digest = none →
        exec (.changeCommit anum body t) s = .next { s with m := { m0 with lanes := s.m.lanes.map fun l =>
          if l.voting then
            { l with rt := { l.rt with change := some ⟨Bytes.le body 0 4, way, s.m.cycleTime + wait * 1000000000, digest, anum⟩ } } else l } }) ∧
      (∀ r, s.m.commitRefused s.m.lcLane way digest = some r →
        Completes (.changeCommit anum body t) s fun m => ∀ y,
          ((s.m.lane y).voting = false → m.lane y = s.m.lane y) ∧
          ((s.m.lane y).voting = true → (m.lane y).rt.change = none ∧ (m.lane y).rt.result.map (·.result) = some r ∧
            (m.lane y).region = (s.m.lane y).region))) ∧
    (s.m.lcLane ≠ .commission → s.m.lcLane ≠ .maintain → way = 1 → s.m.commitRefused s.m.lcLane way digest = some resSTATE) ∧
    (s.m.voters.head? = some x → (s.m.lane x).kst.recOf anum = some a → a.canCommission = false →
      Completes (.changeCommit anum body t) s fun m => ∀ y, (m.lane y).rt.change = (s.m.lane y).rt.change ∧ (m.lane y).rt.result = (s.m.lane y).rt.result) ∧
    (∀ w, (s.m.voters.filterMap fun y => (s.m.lane y).rt.change).head? = some w → w.until' ≤ s.m.cycleTime →
      Completes (.changeWaitExpire t) s fun m =>
        m.jade.staged = [] ∧ ∀ y, (m.lane y).rt.change = none ∧
          (∀ v, (s.m.lane y).rt.change = some v → (m.lane y).rt.result = some (bareResult w resROUTES))) ∧
    (∀ w, (s.m.voters.filterMap fun y => (s.m.lane y).rt.change).head? = some w → s.m.cycleTime < w.until' →
      exec (.changeWaitExpire t) s = .next { s with m := m0 })

/-- 05_change_while_running.md R144, R145, R146: each FORCE is answered by FORCE_RESULT with the first status that applies in every lane that runs; outside COMMISSION and
MAINTAIN, and without the commissioning role, no force changes; clear all empties the table; a set that is accepted stands in it. -/
def Obligations.ForceChangesTheTableOrAnswersWhy : Prop :=
  ∀ (s : State) (t anum : Nat) (body : Bytes) (x : Lane) (a : AssocRec), x ∈ s.m.running → (s.m.lane x).kst.recOf anum = some a →
    let l := s.m.lane x
    let fop := Bytes.le body 0 1
    let kind := Bytes.le body 1 1
    let key := Bytes.le body 4 4
    let answered (status : Nat) (m : Mod) : Prop := (m.lane x).kst.out = l.kst.out ++ [⟨anum, 3, (l.kst.assoc anum).ver, 0xC1, none, forceResult status body⟩]
    (a.canCommission = false →
      Completes (.force anum body t) s fun m => (m.lane x).rt.forces = l.rt.forces ∧ answered 7 m) ∧
    (a.canCommission = true → s.m.lcLane ≠ .commission → s.m.lcLane ≠ .maintain →
      Completes (.force anum body t) s fun m => (m.lane x).rt.forces = l.rt.forces ∧ answered 1 m) ∧
    (a.canCommission = true → s.m.lcLane = .commission ∨ s.m.lcLane = .maintain →
      (l.forceUnknown body = true → Completes (.force anum body t) s fun m => (m.lane x).rt.forces = l.rt.forces ∧ answered 3 m) ∧
      (l.forceUnknown body = false → fop = 3 → Completes (.force anum body t) s fun m => (m.lane x).rt.forces = [] ∧ answered 0 m) ∧
      (l.forceUnknown body = false → fop = 2 → (∃ f ∈ l.rt.forces, f.kind = kind ∧ f.key = key) →
        Completes (.force anum body t) s fun m =>
          (m.lane x).rt.forces = l.rt.forces.filter (fun f => !(f.kind == kind && f.key == key)) ∧ answered 0 m) ∧
      (l.forceUnknown body = false → fop = 2 → (∀ f ∈ l.rt.forces, ¬(f.kind = kind ∧ f.key = key)) →
        Completes (.force anum body t) s fun m => (m.lane x).rt.forces = l.rt.forces ∧ answered 5 m) ∧
      (l.forceUnknown body = false → fop = 1 → kind = 2 → Bytes.le body 8 8 < 2 ^ 32 → l.rt.forces.length < 256 →
        Completes (.force anum body t) s fun m =>
          ⟨2, key, Bytes.le body 8 8, Bytes.le body 0x10 4⟩ ∈ (m.lane x).rt.forces ∧ answered 0 m ∧ (m.lane x).tcm = l.tcm) ∧
      (l.forceUnknown body = false → fop = 1 → kind = 2 → 2 ^ 32 ≤ Bytes.le body 8 8 →
        Completes (.force anum body t) s fun m => (m.lane x).rt.forces = l.rt.forces ∧ answered 6 m))

/-! ### The Opbex channel controllers -/

/-- 07_opbex.md R190, R194, R195, R197, R198, R202, R211, R215, R218: minor cycles start on the 4 ms grid with a CYC of the master on both channels; polls are built 5 µs before
their instant and sent at it; one marker item per channel follows at 3,880 µs; each management frame carries what is to be enabled. -/
def Obligations.MasterRunsTheMinorCycle : Prop :=
  ∀ (s : State) (ch : Chan) (k t : Nat),
    let m0 := s.m.advance t
    let o := s.m.obx
    let off := m0.obx.off m0.clock
    let n := o.nextN
    (o.running = true → o.t0 + 4000000 * n ≤ o.net m0.clock →
      Completes (.minorCycleStart t) s fun m =>
        m.obx.mcn = n ∧ m.obx.started = true ∧ m.obx.passed = [] ∧
        m.obx.bank = (if (match o.swAt with
                         | some b => decide (b ≤ n)
                         | none => false) then !o.bank else o.bank) ∧
        (∀ x, (m.lane x).obx.cps = (s.m.lane x).obx.cpNext) ∧
        (o.master = false → m.sent = s.m.sent ∧ m.obx.majL8 = o.majL8) ∧
        (o.master = true →
          m.obx.majL8 = (if n % 8 = 0 then s.m.service != .full else o.majL8) ∧
          ∃ f, f = cycFrame s.m.sid n o.claim m.obx.majL (b2n m.obx.bank) (b2n o.hpoll + 2 * b2n (o.first && n == 0)) (o.t0 + 4000000 * n) ∧
            m.sent = s.m.sent ++ [⟨m0.clock, .opbex .a, f⟩, ⟨m0.clock, .opbex .b, f⟩])) ∧
    (o.running = true → o.net m0.clock < o.t0 + 4000000 * n → exec (.minorCycleStart t) s = .next { s with m := m0 }) ∧
    (o.polls ch k = true → o.pollOff ch k - 5000 ≤ off →
      Completes (.pollAssemble ch k t) s fun m =>
        (m.obx.ch ch).polls.find k = some (o.pollFrame k (s.m.nodeVer k)) ∧ m.obx.ch ch.other = o.ch ch.other ∧ m.sent = s.m.sent) ∧
    (∀ f, (o.ch ch).polls.find k = some f → o.master = true → o.pollOff ch k ≤ off →
      Completes (.pollSend ch k t) s fun m =>
        m.sent = s.m.sent ++ [⟨m0.clock, .opbex ch, f⟩] ∧ (m.obx.ch ch).polls.find k = none ∧ k ∈ (m.obx.ch ch).expected) ∧
    (o.started = true → 3880000 ≤ off →
      let i : Item := ⟨o.mcn, 7, 0, o.mcn % 4294967296, .marker,
          leBytes 8 o.mcn ++ leBytes 2 (((o.ch ch).expected.filter fun k => !((o.ch ch).replied.contains k)).length)⟩
      exec (.markerItem ch t) s = .next { s with m := m0.deliver (chPath ch) i }) ∧
    (o.master = true → o.started = true →
      Completes (.smgtSend ch t) s fun m =>
        m.sent = s.m.sent ++ [⟨m0.clock, .opbex ch, smgtFrame s.m.sid (o.mcn % 4294967296) ⟨(o.ch ch).enables.take 20, o.handover.isSome⟩ s.m.linkKey⟩] ∧
        (m.obx.ch ch).enables = (o.ch ch).enables.drop 20) ∧
    (o.master = true → o.started = true →
      Completes (.echoSend ch 0 t) s fun m =>
        m.sent = s.m.sent ++ [⟨m0.clock, .opbex ch,
          echoFrame 0x40 (modAddr s.m.sid) (o.mcn % 4294967296) (o.dm .a).toNat (o.dm .b).toNat 0 s.m.linkKey⟩] ∧
        (m.obx.ch ch).echoes.find 0 = some (0, m0.clock))

/-- 07_opbex.md R189, R196, R211: of the copies of a node's reply that pass the checks in one minor cycle the first alone reaches the lanes; a frame that fails its FCS or
its header is captured and delivers nothing; the trim moves by the negative error within ±900 ns, beyond which the node is in delay deviation. -/
def Obligations.FirstGoodReplyReachesTheLanes : Prop :=
  ∀ (s : State) (ch : Chan) (f : Frame) (t : Nat),
    let m0 := s.m.advance t
    let o := s.m.obx
    let k := faddr f.body
    let good := f.good 0x10 || f.good 0x11
    let e := o.off m0.clock - o.dm ch - (o.bk.open' k : Int) - 400
    let nd := (o.ch ch).node k
    (good = true → o.replyOk f.body = true → k ∉ o.passed →
      Completes (.replyReceive ch f none t) s fun m =>
        k ∈ m.obx.passed ∧ m.obx.ages.find k = some 0 ∧
        ∀ x, s.m.takes (chPath ch) x = true → (s.m.lane x).tdm.portHeld (chPath ch).port = false →
          ((m.lane x).rings.get (chPath ch)).items
            = ((s.m.lane x).rings.get (chPath ch)).items ++ [⟨o.mcn, 7, k, replyNseq f.body, .reply, f.body⟩]) ∧
    (good = true → o.replyOk f.body = true → k ∈ o.passed →
      Completes (.replyReceive ch f none t) s fun m => m.obx.passed = o.passed ∧ ∀ x, (m.lane x).rings = (s.m.lane x).rings) ∧
    (good = false →
      Completes (.replyReceive ch f none t) s fun m =>
        m.obx = o ∧ ∀ x, m.lane x = { s.m.lane x with obx := { (s.m.lane x).obx with errcap := captureErr (s.m.lane x).obx.errcap 1 7 } }) ∧
    (good = true → o.replyOk f.body = false →
      Completes (.replyReceive ch f none t) s fun m =>
        m.obx = o ∧ ∀ x, m.lane x = { s.m.lane x with obx := { (s.m.lane x).obx with errcap := captureErr (s.m.lane x).obx.errcap 2 7 } }) ∧
    (good = true → o.replyOk f.body = true → o.master = true →
      Completes (.replyReceive ch f none t) s fun m =>
        let n := (m.obx.ch ch).node k
        (e.natAbs ≤ 100 → n.tau = nd.tau ∧ n.dev = nd.dev) ∧
        (100 < e.natAbs → (nd.tau - e).natAbs ≤ 900 → n.tau = nd.tau - e ∧ n.dev = nd.dev) ∧
        (100 < e.natAbs → 900 < (nd.tau - e).natAbs → n.tau = nd.tau ∧ n.dev = true))

/-- 07_opbex.md R197, R214, R221: an ECHOR gives the delay (RT − 652 ns) / 2; an SRPT reports ports that are then not polled until re-enabled 10 s on, at most three times an
hour; a channel without an SRPT and without an echo of window 0 is failed and comes back with an SRPT and nine replies of ten. -/
def Obligations.ChannelsAndPortsAreJudged : Prop :=
  ∀ (s : State) (ch : Chan) (f : Frame) (t k : Nat),
    let m0 := s.m.advance t
    let o := s.m.obx
    let c := o.ch ch
    let key := Config.farLinkKey (faddr f.body)
    (∀ sent, f.good 0x41 = true → linkOk key f.body = true → c.echoes.find (echoWin f.body) = some (0, sent) → faddr f.body = starAddr ch →
      Completes (.echorReceive ch f t) s fun m =>
        m.obx.dm ch = ((m0.clock : Int) - sent - 652) / 2 ∧ (m.obx.ch ch).echoes.find (echoWin f.body) = none ∧ m.lanes = s.m.lanes) ∧
    (∀ sent, f.good 0x41 = true → linkOk key f.body = true → c.echoes.find (echoWin f.body) = some (k, sent) → k ≠ 0 → faddr f.body = k →
      Completes (.echorReceive ch f t) s fun m => m.obx.dk ch k = ((m0.clock : Int) - sent - 652) / 2 - o.dm ch ∧ m.lanes = s.m.lanes) ∧
    (∀ r : Srpt, f.good 0x51 = true → linkOk key f.body = true → faddr f.body = starAddr ch →
      Completes (.srptReceive ch f r t) s fun m =>
        (m.obx.ch ch).srpt = true ∧ (k ∈ r.disabled → ((m.obx.ch ch).node k).portOff.isSome = true ∧ m.obx.polls ch k = false) ∧
        (k ∉ r.disabled → ((m.obx.ch ch).node k).portOff = none) ∧ (r.ack = true → m.obx.acks.get ch = true)) ∧
    (∀ w, (c.node k).portOff = some w → (c.node k).ordered = false → o.master = true → w + 10000000000 ≤ m0.clock →
      ((c.node k).reenabled.filter fun x => decide (m0.clock < x + 3600000000000)).length < 3 →
      Completes (.portReenable ch k t) s fun m => k ∈ (m.obx.ch ch).enables ∧ ((m.obx.ch ch).node k).ordered = true) ∧
    (3 ≤ ((c.node k).reenabled.filter fun x => decide (m0.clock < x + 3600000000000)).length →
      exec (.portReenable ch k t) s = .next { s with m := m0 }) ∧
    (∀ light, o.master = true → c.state = 2 → (c.srpt = false ∧ c.echo0 = false) ∨ light = true →
      Completes (.channelFail ch light t) s fun m =>
        (m.obx.ch ch).state = 3 ∧ ∀ x, (m.lane x).obx.irq = (s.m.lane x).obx.irq ||| irqCHAN) ∧
    (∀ light, o.master = true → c.state = 3 → c.srpt = true → 9 * c.expected.length ≤ 10 * c.replied.length →
      Completes (.channelFail ch light t) s fun m => (m.obx.ch ch).state = 2)

/-- 07_opbex.md R218, R232, R233, R235, R236: two voting lanes that request it set the boundary of a bank switch, which toggles the bank and lets the requests fall; a node moves
to its higher version with the major cycle; the reports of an ended major cycle are closed; a cycle point counts modulo 16 and raises CP. -/
def Obligations.BanksVersionsAndCyclePoints : Prop :=
  ∀ (s : State) (x : Lane) (t k : Nat) (v : Word32),
    let m0 := s.m.advance t
    let o := s.m.obx
    let l := s.m.lane x
    let major := o.mcn - o.mcn % o.majL
    (let up (l : LaneSt) : LaneSt := { l with obx := { l.obx with req := (l.obx.req || v.getLsbD 0) && !v.getLsbD 1 } }
      let m1 := m0.modLane x up
      l.powered = true → Completes (.obxBankswWrite x v t) s fun m =>
        m.lanes = m1.lanes ∧ m.obx.bank = o.bank ∧
        m.obx.swAt = (if o.swAt = none ∧ 2 ≤ (m1.voters.filter (fun y => (m1.lane y).obx.req)).length then some (o.switchAt m0.clock) else o.swAt)) ∧
    (∀ b, o.running = true → o.t0 + 4000000 * o.nextN ≤ o.net m0.clock → o.swAt = some b → b ≤ o.nextN →
      Completes (.bankSwitch t) s fun m =>
        m.obx.bank = !o.bank ∧ m.obx.swAt = none ∧ (∀ c, m.obx.ch c = o.ch c) ∧
        ∀ y, (m.lane y).obx.req = false ∧ (m.lane y).obx.irq = (s.m.lane y).obx.irq ||| irqSWITCH) ∧
    (∀ w, x ∈ s.m.running → l.rt.verNext.find k = some w → l.rt.nevtFrom < major →
      Completes (.nodeVersionMove k t) s fun m => (m.lane x).rt.ver.find k = some w ∧ (m.lane x).rt.verNext.find k = none) ∧
    (x ∈ s.m.running → l.rt.nevtFrom < major →
      Completes (.aggregateReport t) s fun m =>
        (m.lane x).rt.nevt = [] ∧ (m.lane x).rt.nevtFrom = major ∧
        (m.lane x).rt.recs = l.rt.recs ++ (if s.m.role = roleACTIVE then neventRecords x.idx l.rt.nevtFrom l.rt.nevt else [])) ∧
    (o.started = true → 0 ≤ o.off m0.clock → k < 8 → l.powered = true → l.obx.fires k o.mcn o.majL ((o.off m0.clock).toNat / 1000) = true →
      Completes (.cyclePoint x k t) s fun m =>
        bits (m.lane x).obx.cpcnt.toNat (4 * k + 3) (4 * k) = (bits l.obx.cpcnt.toNat (4 * k + 3) (4 * k) + 1) % 16 ∧
        (m.lane x).obx.irq = l.obx.irq ||| irqCP ∧
        ∀ j, j < 8 → j ≠ k → bits (m.lane x).obx.cpcnt.toNat (4 * j + 3) (4 * j) = bits l.obx.cpcnt.toNat (4 * j + 3) (4 * j)) ∧
    (l.powered = true →
      let view (o : ObxLane) : LaneSt := { l with obx := o }
      exec (.obxCpWrite x k v t) s = .next { s with m := m0.setLane x (view { l.obx with cpNext := l.obx.cpNext.set k (v &&& 0x8000FFFF#32).toNat }) } ∧
      exec (.obxErrcapRead x t) s
        = .next { s with m := m0.setLane x { view { l.obx with errcapLr := l.obx.errcap, errcap := 0 } with readData := l.obx.errcap.toNat } })

/-- 07_opbex.md R223, R224, R225, R226; 08_phase_and_time.md R241: a source sends its SYNC in its window; a valid value is taken from channel A where there is one; at 3,940 µs the
average without the highest and the lowest, negated and limited to 5 µs, steps the time base; fewer than three values correct nothing; the rate follows within 100 ppm. -/
def Obligations.ClocksFollowTheFaultTolerantAverage : Prop :=
  ∀ (s : State) (w : Who) (ch : Chan) (t : Nat),
    let m0 := s.m.advance t
    let sy := s.m.whoSync w
    (∀ n off j, m0.whoAt w = some (n, off) → s.m.obx.bk.syncIdx (s.m.whoAddr w) = some j → (∀ c, (syncOff j : Int) - s.m.whoDelay c w ≤ off) →
      Completes (.syncSend w t) s fun m =>
        m.lanes = s.m.lanes ∧
        m.sent = s.m.sent ++ (match w with
          | .star c => [c]
          | _ => [.a, .b]).map fun c => ⟨m0.clock, whoDest w c,
            syncFrame (s.m.whoAddr w) (n % 4294967296) j (off - ((syncOff j : Int) - s.m.whoDelay c w)) sy.c sy.rate (Config.farLinkKey (s.m.whoAddr w))⟩) ∧
    (∀ n off f, m0.whoAt w = some (n, off) → f.good 0x20 = true → linkOk (Config.farLinkKey (faddr f.body)) f.body = true →
      let j := Bytes.le f.body 8 1
      let d := off - (syncOff j : Int) - s.m.whoDelay ch w
      j ≤ 7 → s.m.obx.bk.syncSrc j = faddr f.body → faddr f.body ≠ 0 → faddr f.body ≠ s.m.whoAddr w →
      Completes (.syncReceive w ch f t) s fun m =>
        m.lanes = s.m.lanes ∧ (m.whoSync w).total = sy.total ∧
        (d.natAbs ≤ 20000 → sy.ds.find j = none → (m.whoSync w).ds.find j = some (d, ch)) ∧
        (d.natAbs ≤ 20000 → ch = .a → (∀ d', sy.ds.find j ≠ some (d', .a)) → (m.whoSync w).ds.find j = some (d, .a)) ∧
        (∀ d', sy.ds.find j = some (d', .a) → m.whoSync w = sy) ∧ (20000 < d.natAbs → m.whoSync w = sy)) ∧
    (∀ n off, m0.whoAt w = some (n, off) → 3940000 ≤ off →
      let vs := (sy.values (s.m.obx.bk.syncIdx (s.m.whoAddr w))).map (·.2)
      Completes (.offsetCorrection w t) s fun m =>
        (m.whoSync w).ds = [] ∧
        (vs.length < 3 → (m.whoSync w).total = sy.total ∧ (m.whoSync w).loss = min 15 (sy.loss + 1) ∧ (8 ≤ sy.loss + 1 → (m.whoSync w).ok = false)) ∧
        (∀ avg, ftAverage vs = some avg → (m.whoSync w).loss = 0 ∧ (m.whoSync w).ok = true ∧
          (m.whoSync w).total = sy.total + clampI 5000 (-avg) + (if w = .mod then s.m.steer else 0))) ∧
    Completes (.rateCorrection w t) s (fun m =>
      let cycles : Nat := match w with
        | .node k => (s.m.node k).l
        | _ => s.m.obx.majL
      (m.whoSync w).csum = 0 ∧ (m.whoSync w).total = sy.total ∧
      (m.whoSync w).rate = clampI 100000 (sy.rate + (sy.csum * 1000).tdiv ((4 * cycles : Nat) : Int)))

/-- 07_opbex.md R227, R228, R229; 08_phase_and_time.md R238: 40 ms without a CYC begin a cold start with an epoch above every one known; COLD goes out on both channels; a higher claim makes the module
yield, a lower one does not; 20 ms and 16 frames unopposed make it master, with T0 on the 4 ms grid at least 4 ms ahead and MCN 0; a CYC heard gives it a role without mastership. -/
def Obligations.ColdStartEndsWithOneMaster : Prop :=
  ∀ (s : State) (t : Nat) (f : Frame),
    let m0 := s.m.advance t
    let o := s.m.obx
    let from' := Config.farLinkKey (faddr f.body)
    (∀ u, o.listenSince = some u → u + 40000000 ≤ m0.clock → s.m.service = .starting → s.m.sid < 32 →
      Completes (.listenTimeout t) s fun m =>
        m.obx.cold = some ⟨m0.clock, 0, m0.clock⟩ ∧ m.obx.listenSince = none ∧ claimOf m.obx.claim = ⟨s.m.pair.nextEpoch, 1, s.m.sid⟩ ∧
        m.time.source ≠ 0) ∧
    (∀ u, o.listenSince = some u → m0.clock < u + 40000000 → exec (.listenTimeout t) s = .next { s with m := m0 }) ∧
    (∀ c, o.cold = some c → c.sent = 0 ∨ c.lastAt + 1000 * (1000 + 50 * (s.m.sid % 16)) ≤ m0.clock →
      Completes (.coldSend t) s fun m =>
        m.obx.cold = some ⟨c.since, c.sent + 1, m0.clock⟩ ∧
        ∃ b, b = claimFrame 0x32 (modAddr s.m.sid) o.claim 0 (1000 + 50 * (s.m.sid % 16)) 0 s.m.linkKey ∧
          m.sent = s.m.sent ++ [⟨m0.clock, .opbex .a, b⟩, ⟨m0.clock, .opbex .b, b⟩]) ∧
    (∀ c, o.cold = some c → f.good 0x32 = true → linkOk from' f.body = true → (claimOf (cfClaim f.body)).sid ≠ s.m.sid →
      (o.claim < cfClaim f.body → Completes (.coldReceive f t) s fun m =>
        m.obx.cold = none ∧ m.obx.listenSince = some m0.clock ∧ m.obx.yielded = true) ∧
      (cfClaim f.body ≤ o.claim → Completes (.coldReceive f t) s fun m =>
        m.obx = o ∧ m.pair.epochSeen = max s.m.pair.epochSeen (cfClaim f.body / 65536))) ∧
    (∀ c, o.cold = some c → 16 ≤ c.sent → c.since + 20000000 ≤ m0.clock →
      Completes (.becomeMaster t) s fun m =>
        m.role = roleACTIVE ∧ m.obx.master = true ∧ m.obx.mcn = 0 ∧ m.obx.hpoll = true ∧ m.obx.first = true ∧ m.obx.cold = none ∧
        m.obx.t0 % 4000000 = 0 ∧ o.net m0.clock + 4000000 ≤ m.obx.t0 ∧ m.obx.t0 < o.net m0.clock + 8000000 ∧
        m.pair.epoch = (claimOf o.claim).epoch) ∧
    (∀ c, o.cold = some c → c.sent < 16 ∨ m0.clock < c.since + 20000000 → exec (.becomeMaster t) s = .next { s with m := m0 }) ∧
    (∀ ch, f.good 0x01 = true → (claimOf (cycClaim f.body)).sid ≠ s.m.sid → s.m.role ≠ roleACTIVE → o.listenSince.isSome = true ∨ o.cold.isSome = true →
      Completes (.cycReceive ch f t) s fun m =>
        m.role = roleCOLD ∧ m.obx.master = o.master ∧ m.obx.mcn = cycMcn f.body ∧ m.obx.started = true ∧ m.obx.listenSince = none ∧
        m.obx.cold = none ∧ m.time.source ≠ 0)

/-! ### Object controllers and stars -/

/-- 07_opbex.md R206, R207, R209, R210: a poll that passes check 1 is answered in any case; only one that passes every check moves HCLAIM, CYC and the commands of a node; a
channel takes a code other than 0 that differs from its last one; an NPOLL changes no command, an HPOLL puts every channel in its CODE 7 state. -/
def Obligations.NodeObeysOnlyPollsThatPass : Prop :=
  ∀ (s : State) (k : Nat) (ch : Chan) (f : Frame) (i : NodeIn) (t mc off : Nat),
    let m0 := s.m.advance t
    let bk := s.m.obx.bk
    let nd := s.m.node k
    let answers (m : Mod) : Prop :=
      m.lanes = s.m.lanes ∧ m.obx = s.m.obx ∧ m.sent = s.m.sent ++ [⟨m0.clock, .nodeTx k ch, (m.node k).replyFrame bk k⟩] ∧ ∀ j, j ≠ k → m.node j = s.m.node j
    nd.now m0.clock = some (mc, off) →
    (nd.check1 bk k 0x02 f = true →
      Completes (.nodePollAccept k ch f i t) s fun m =>
        answers m ∧
        (nd.pollOk mc f.body = false →
          (m.node k).chans = nd.chans ∧ (m.node k).hclaim = nd.hclaim ∧ (m.node k).lastCyc = nd.lastCyc ∧
          (m.node k).missed = nd.missed ∧ (m.node k).sfail = true) ∧
        (nd.pollOk mc f.body = true →
          (m.node k).hclaim = pollClaim f.body ∧ (m.node k).lastCyc = some (pollCyc f.body) ∧ (m.node k).sfail = false ∧
          (nd.newer f.body = true →
            (m.node k).missed = 0 ∧ (m.node k).freshAt = mc ∧ (m.node k).fout = false ∧ (m.node k).hsafe = false ∧
            (bk.phaseNode k = false → ∀ n, n < nd.chans.length →
              let cmd := Bytes.le f.body (0x1A + n) 1
              let old := nd.chans.getD n NodeChan.reset
              (m.node k).chans.getD n NodeChan.reset = (if cmd / 16 % 8 = 0 ∨ old.last = some cmd then old else ⟨some cmd, cmd, none, true⟩))))) ∧
    (nd.check1 bk k 0x02 f = false →
      Completes (.nodePollAccept k ch f i t) s fun m => m.sent = s.m.sent ∧ ∀ j, m.node j = s.m.node j) ∧
    (nd.check1 bk k 0x03 f = true →
      Completes (.nodeNpoll k ch f i t) s fun m =>
        answers m ∧ (m.node k).chans = nd.chans ∧ (m.node k).hclaim = nd.hclaim ∧ (m.node k).missed = nd.missed) ∧
    (nd.check1 bk k 0x04 f = true → nd.check23 mc f.body = true →
      Completes (.nodeHpoll k ch f i t) s fun m =>
        answers m ∧ (m.node k).hsafe = true ∧ ∀ c ∈ (m.node k).chans, c.applied = 0x70 ∧ c.last = none ∧ c.pend = none) ∧
    (nd.check1 bk k 0x04 f = true → nd.check23 mc f.body = false →
      Completes (.nodeHpoll k ch f i t) s fun m => answers m ∧ (m.node k).chans = nd.chans ∧ (m.node k).sfail = true)

/-- 07_opbex.md R197, R198, R208, R230; 08_phase_and_time.md R252, R253: a node whose missed polls reach FTO goes safe; the first CYC sets its time base and a CYC never its claim;
1 s without one clears HCLAIM; a pending command is applied at its commit index; an ECHO gives it its delays; a reset clears its claim and alignment. -/
def Obligations.NodeTimersAndFramesTakeEffect : Prop :=
  ∀ (s : State) (k : Nat) (ch : Chan) (f : Frame) (t : Nat),
    let m0 := s.m.advance t
    let bk := s.m.obx.bk
    let nd := s.m.node k
    let now := m0.clock
    (∀ p, nd.now now = some p → bk.cls k ≠ 0 → bk.fto k ≤ nd.count bk k now →
      Completes (.nodeFreshnessExpire k t) s fun m => (m.node k).fout = true ∧ ∀ c ∈ (m.node k).chans, c.applied = 0x70 ∧ c.pend = none) ∧
    (nd.count bk k now < bk.fto k → Completes (.nodeFreshnessExpire k t) s fun m => ∀ j, m.node j = s.m.node j) ∧
    (f.good 0x01 = true → nd.base = none →
      Completes (.nodeCycReceive k ch f t) s fun m =>
        (m.node k).base = some (now - bk.dkNom k ch) ∧ (m.node k).mcn = cycMcn f.body ∧ (m.node k).cycAt = now ∧
        (m.node k).hclaim = nd.hclaim ∧ (m.node k).chans = nd.chans) ∧
    (f.good 0x01 = true → (cycFlags f.body).testBit 1 = false → nd.base.isSome = true →
      Completes (.nodeCycReceive k ch f t) s fun m =>
        (m.node k).base = nd.base ∧ (m.node k).mcn = nd.mcn ∧ (m.node k).cycAt = now ∧ (m.node k).hclaim = nd.hclaim ∧ (m.node k).chans = nd.chans) ∧
    (nd.base.isSome = true → nd.cycAt + 1000000000 ≤ now →
      Completes (.nodeHclaimClear k t) s fun m => (m.node k).hclaim = 0 ∧ (m.node k).chans = nd.chans) ∧
    (now < nd.cycAt + 1000000000 → Completes (.nodeHclaimClear k t) s fun m => ∀ j, m.node j = s.m.node j) ∧
    (∀ n target cmd, n < nd.chans.length → (nd.chans.getD n NodeChan.reset).pend = some (target, cmd) →
      Completes (.nodeCommitReached k t) s fun m =>
        (target ≤ nd.psi.at now → ((m.node k).chans.getD n NodeChan.reset).applied = cmd ∧ ((m.node k).chans.getD n NodeChan.reset).pend = none) ∧
        (nd.psi.at now < target → (m.node k).chans.getD n NodeChan.reset = nd.chans.getD n NodeChan.reset)) ∧
    (f.good 0x40 = true → faddr f.body = k → fromModule bk f.body = true → nd.base.isSome = true →
      Completes (.echo (.node k) ch f t) s fun m =>
        (m.node k).dlyA = Bytes.le f.body 8 4 ∧ (m.node k).dlyB = Bytes.le f.body 0xC 4 ∧ (m.node k).chans = nd.chans ∧ m.sent.length = s.m.sent.length + 1) ∧
    (∀ content, f.good 0x60 = true → faddr f.body = k → fromModule bk f.body = true → nd.base.isSome = true →
      let b := linkSealed (Config.farLinkKey k) (fhead 0x61 (fver f.body) k ++ content.take 180)
      exec (.acyc k ch f content t) s = .next { s with m := m0.send (.nodeTx k ch) b }) ∧
    (∀ tick mhz, nd.sense = false →
      Completes (.nodeSenseInputChange k true tick mhz t) s fun m => (m.node k).sense = true ∧ (m.node k).chans = nd.chans ∧ (m.node k).hclaim = nd.hclaim) ∧
    (∀ tick mhz, nd.sense = true →
      Completes (.nodeSenseInputChange k false tick mhz t) s fun m =>
        (m.node k).sense = false ∧ (m.node k).nevt = nd.nevt ++ [0x0303] ∧ (m.node k).chans = nd.chans) ∧
    Completes (.nodeReset k t) s (fun m =>
      (m.node k).hclaim = 0 ∧ (m.node k).base = none ∧ (m.node k).aligned = false ∧ ∀ j, j ≠ k → m.node j = s.m.node j)

/-- 07_opbex.md R197, R219, R220, R221, R222: a star blocks a disabled port, a node port before the first CYC, and a frame outside its windows, the third in a row disabling the port;
inside its window it forwards and clears the count; two missed minor cycles let it grant; of two overlapping cold frames it forwards the earlier, on a tie the higher claim. -/
def Obligations.StarKeepsTheWindows : Prop :=
  ∀ (s : State) (ch : Chan) (k t : Nat) (f : Frame),
    let m0 := s.m.advance t
    let bk := s.m.obx.bk
    let st := s.m.star ch
    let p : SPort := .nodePort k
    let rest (m : Mod) : Prop := m.lanes = s.m.lanes ∧ m.obx = s.m.obx ∧ m.nodes = s.m.nodes ∧ m.star ch.other = s.m.star ch.other
    ((st.port p).disabled = true ∨ st.base = none →
      exec (.starFrameFilter ch p f t) s = .next { s with m := m0.setStar ch { st with verdict := .blocked } }) ∧
    (∀ off, (st.port p).disabled = false → st.now m0.clock = some (st.mcn, off) → (∀ w ∈ st.nodeWindows bk k, off < w.1 ∨ w.2 ≤ off) →
      Completes (.starFrameFilter ch p f t) s fun m =>
        rest m ∧ (m.star ch).verdict = .blocked ∧ ((m.star ch).port p).viol = (st.port p).viol + 1 ∧
        (((m.star ch).port p).disabled = decide (3 ≤ (st.port p).viol + 1))) ∧
    (∀ off, (st.port p).disabled = false → st.now m0.clock = some (st.mcn, off) → k ∈ st.polled → bk.open' k ≤ off →
      off + (f.body.length + 12) * 8 ≤ bk.open' k + 2500 → f.ok = true → flenOk f.body = true →
      Completes (.starFrameFilter ch p f t) s fun m => rest m ∧ (m.star ch).verdict = .forwarded ∧ ((m.star ch).port p).viol = 0) ∧
    (∀ mc off claim q last, st.now m0.clock = some (mc, off) → st.stby = some (claim, q) → st.lastCyc = some last →
      (2 ≤ mc - last → 2800000 + 20000 * ch.idx ≤ off →
        Completes (.starGrant ch t) s fun m =>
          rest m ∧ (m.star ch).granted = true ∧ (m.star ch).owner = q ∧
          ∃ b, b = claimFrame 0x31 (starAddr ch) claim (mc % 4294967296) (mc - last) ((claimOf st.hclaim).epoch % 4294967296) (Config.farLinkKey (starAddr ch)) ∧
            m.sent = s.m.sent ++ [⟨m0.clock, .starTx ch, b⟩]) ∧
      (mc - last < 2 → exec (.starGrant ch t) s = .next { s with m := m0 })) ∧
    (∀ p1 t1 t2 g, st.first = false → f.ok = true → g.ok = true → flenOk f.body = true → flenOk g.body = true →
      (ftype f.body = 0x01 ∨ ftype f.body = 0x32) → (ftype g.body = 0x01 ∨ ftype g.body = 0x32) →
      (t1 < t2 → t2 < t1 + (f.body.length + 12) * 8 →
        Completes (.starColdArbitrate ch p1 t1 f t2 g t) s fun m =>
          rest m ∧ (m.star ch).verdict = .forwarded ∧ (m.star ch).receiving = some (p1 % 2, coldClaim f.body, t1 + (f.body.length + 12) * 8, t1)) ∧
      (t1 = t2 → coldClaim f.body < coldClaim g.body →
        Completes (.starColdArbitrate ch p1 t1 f t2 g t) s fun m =>
          (m.star ch).receiving = some (1 - p1 % 2, coldClaim g.body, t2 + (g.body.length + 12) * 8, t2))) ∧
    (∀ g : Smgt, f.good 0x50 = true → linkOk (Config.farLinkKey (faddr f.body)) f.body = true → st.first = true →
      Completes (.smgt ch f g t) s fun m =>
        rest m ∧ (k ∈ g.enables → (m.star ch).port p = StarPort.reset ∧ k ∉ (m.star ch).reports) ∧
        (k ∉ g.enables → (m.star ch).port p = st.port p) ∧ (m.star ch).owner = (if g.handover then 1 - st.owner else st.owner) ∧
        m.sent.length = s.m.sent.length + 1) ∧
    (f.good 0x40 = true → linkOk (Config.farLinkKey (faddr f.body)) f.body = true → st.first = true →
      let b := echoFrame 0x41 (starAddr ch) (Bytes.le f.body 4 4) (Bytes.le f.body 8 4) (Bytes.le f.body 0xC 4) (echoWin f.body)
        (Config.farLinkKey (starAddr ch))
      exec (.echo (.star ch) ch f t) s = .next { s with m := m0.send (.starTx ch) b }) ∧
    exec (.starPowerUp ch t) s = .next { s with m := m0.setStar ch Star.reset }

/-! ### Module time and the phase -/

/-- 08_phase_and_time.md R237, R239, R241: a lane's counter moves towards the network time base by at most 100 ns per µs of the minor cycle; the real-time clock saves its
count; sixteen bad measurements in a row make PTP inconsistent and stop the steering, sixteen good ones end it; the time base is never stepped by any of them. -/
def Obligations.TimeFollowsItsSources : Prop :=
  ∀ (s : State) (x : Lane) (t port : Nat) (delta : Int),
    let m0 := s.m.advance t
    let tk := s.m.time
    let gap := s.m.obx.sync.total - (s.m.lane x).tOff
    ((s.m.lane x).powered = true → s.m.obx.running = true →
      Completes (.laneTimeCorrect x t) s fun m =>
        let moved := (m.lane x).tOff - (s.m.lane x).tOff
        moved.natAbs ≤ 400000 ∧ (gap.natAbs ≤ 400000 → (m.lane x).tOff = s.m.obx.sync.total) ∧ (0 ≤ gap → 0 ≤ moved) ∧ (gap ≤ 0 → moved ≤ 0) ∧
        m.obx = s.m.obx ∧ ∀ y, y ≠ x → m.lane y = s.m.lane y) ∧
    (s.m.power.good = true →
      exec (.rtcSave t) s = .next { s with m := { m0 with time := { tk with rtcSaved := tk.rtc + (m0.clock - tk.rtcAt) } } }) ∧
    (s.m.jade.mode = .running →
      exec (.ptpMeasure false delta port t) s = .next { s with m := { m0 with time := { tk with ptpValid := false, ptpGood := 0, ptpBad := 0 } } }) ∧
    (s.m.jade.mode = .running →
      Completes (.ptpMeasure true delta port t) s fun m =>
        m.obx = s.m.obx ∧ m.lanes = s.m.lanes ∧ m.service = s.m.service ∧ m.time.ptpDelta = delta ∧
        (1000000 < delta.natAbs → m.time.ptpGood = 0 ∧ (15 ≤ tk.ptpBad → m.time.ptpInconsistent = true ∧ m.steer = 0)) ∧
        (delta.natAbs ≤ 1000000 → m.time.ptpBad = 0 ∧
          (tk.ptpInconsistent = true → (m.time.ptpInconsistent = false ↔ 15 ≤ tk.ptpGood)) ∧
          (15 ≤ tk.ptpGood → tk.source ≠ 0 → m.time.verified = true)))

/-- 08_phase_and_time.md R243, R244, R245, R247: at a zero crossing Φ never decreases and moves only by a forward step of less than a cycle; with no input in INMASK Opal is synthetic;
a valid input takes it from synthetic to locked with Φ at the measured tick; a change of mode raises MODE, a step raises STEP. EN starts Φ from module time in synthetic mode. -/
def Obligations.PhaseNeverDecreasesAtACrossing : Prop :=
  ∀ (s : State) (x : Lane) (t a1 f1 p1 a2 f2 p2 : Nat),
    let m0 := s.m.advance t
    let l := s.m.lane x
    let now := m0.clock
    (l.powered = true → l.opal.en = true →
      Completes (.opalZeroCrossing x a1 f1 p1 a2 f2 p2 t) s fun m =>
        let o := (m.lane x).opal
        l.opal.phiAt now ≤ o.phiAt now ∧ o.phiAt now < l.opal.phiAt now + 1024 ∧
        (o.phiAt now ≠ l.opal.phiAt now → o.mode = 0 ∧ o.irq &&& oplSTEP = oplSTEP) ∧
        (o.mode ≠ l.opal.mode → o.irq &&& oplMODE = oplMODE) ∧
        (l.opal.inmask = 0 → o.mode = 1 ∧ o.ref = 0) ∧
        (l.opal.inmask = 1 → l.opal.mode = 1 → l.opal.in1.valid = true → 30 ≤ a1 → freqOk l.opal.freqSel f1 = true →
          o.mode = 0 ∧ o.ref = 1 ∧ o.phiAt now % 1024 = p1 % 1024) ∧
        o.active = l.opal.active ∧ o.cfg = l.opal.cfg ∧ m.obx = s.m.obx ∧ ∀ y, y ≠ x → m.lane y = s.m.lane y) ∧
    (l.powered = true → l.opal.en = false →
      Completes (.opalEnable x t) s fun m =>
        (m.lane x).opal.en = true ∧ (m.lane x).opal.mode = 1 ∧
        (m.lane x).opal.phiAt now = m0.laneTime x * 1024 * (freqND l.opal.freqSel).1 / ((freqND l.opal.freqSel).2 * 1000000000))

/-- 08_phase_and_time.md R255, R256, R257: a snapshot latches time, Φ and PHSTAT together; GO arms the hand-over for its target, or for the next cycle and LATE where the target
is past; at the target all five shadows become active together; reading PHC_HI holds the low word; a read of ERRCAP clears it. -/
def Obligations.OpalRegistersActTogether : Prop :=
  ∀ (s : State) (x : Lane) (t tgt : Nat), (s.m.lane x).powered = true →
    let m0 := s.m.advance t
    let l := s.m.lane x
    let o := l.opal
    let now := m0.clock
    let next (o : Opal) : LaneSt := { l with opal := o }
    let put (l' : LaneSt) : Result := .next { s with m := m0.setLane x l' }
    exec (.oplSnapWrite x t) s = put (next { o with snapT := m0.laneTime x, snapPhc := o.phiAt now, snapSt := o.mode }) ∧
    (Completes (.oplShcommitWrite x tgt true t) s fun m =>
      let q := (m.lane x).opal
      q.shArmed = true ∧ q.active = o.active ∧ q.shadow = o.shadow ∧
      (q.shLate = true ∧ q.shTgt = (o.cycleAt now + 1) % 65536 ∨ q.shLate = false ∧ q.shTgt = tgt % 65536)) ∧
    exec (.oplShcommitWrite x tgt false t) s = .next { s with m := m0 } ∧
    (o.shArmed = true → (o.cycleAt now + 65536 - o.shTgt) % 65536 < 32768 →
      exec (.opalHandover x t) s
        = put (next { o with active := o.shadow, shArmed := false, late := o.shLate, shLate := false, irq := o.irq ||| oplHAND })) ∧
    (32768 ≤ (o.cycleAt now + 65536 - o.shTgt) % 65536 → exec (.opalHandover x t) s = .next { s with m := m0 }) ∧
    exec (.oplPhcHiRead x t) s
      = put { next { o with loHeld := some (o.phiAt now % 4294967296) } with readData := o.phiAt now / 4294967296 % 4294967296 } ∧
    exec (.oplErrcapRead x t) s = put { next { o with errcapLr := o.errcap, errcap := 0 } with readData := o.errcap.toNat }

/-! ### Local safety I/O -/

/-- 09_local_safety_io.md R259, R261, R262, R264, R265, R266: a band is accepted after three samples outside the own dark slot; a channel settles after its debounce time and not before; a current in
the own dark slot is CROSS, two wrong injections of one level TFAIL, a failed supply BREAK for its group, a pair out of its mode for longer than DISC DISC. A JW3X-C has no local I/O. -/
def Obligations.InputChannelsFollowTheirStates : Prop :=
  ∀ (s : State) (t c g : Nat) (ua : List Nat),
    let m0 := s.m.advance t
    let l := s.m.lio
    let x := l.inCh c
    let now := m0.clock
    let heldMs := (now - x.since) / 1000000
    let v := ua.getD c 0
    (s.m.full = false → exec (.inputSample ua t) s = .next { s with m := m0 }) ∧
    (s.m.full = true → l.active = true → l.ctlflt = false → c < l.ins.length → c < 96 → l.inUse c ≠ 0 → x.state ≠ 7 →
      ((l.darkSlot (c / 12) now).isSome = true →
        Completes (.inputSample ua t) s fun m => (m.lio.inCh c).band = x.band ∧ (m.lio.inCh c).cur = x.cur) ∧
      (l.darkSlot (c / 12) now = none →
        Completes (.inputSample ua t) s fun m =>
          (m.lio.inCh c).cur = v ∧ (m.lio.inCh c).cand = bandOf v ∧
          (m.lio.inCh c).band = (if x.cand = bandOf v ∧ 2 ≤ x.candRun then bandOf v else x.band)) ∧
      (l.darkSlot (c / 12) now = none → x.prev1Dark = true → x.prev1 < 1000 → 1000 < x.prev2 → 1000 < v → x.state ≤ 4 →
        Completes (.inputSample ua t) s fun m => (m.lio.inCh c).state = stCROSS ∧ (m.lio.inCh c).fcode = 3) ∧
      (x.state = stON → x.fresh = false → x.band = bandOFF →
        Completes (.inputDebounceExpire c t) s fun m => (m.lio.inCh c).state = (if l.inF c 2 1 ≤ heldMs then stOFF else stON)) ∧
      (x.state = stOFF → x.fresh = false → x.band = bandON →
        Completes (.inputDebounceExpire c t) s fun m => (m.lio.inCh c).state = (if l.inF c 1 1 ≤ heldMs then stON else stOFF)) ∧
      (x.state = stON ∨ x.state = stOFF → x.fresh = false → x.band = bandBREAK → 5 ≤ heldMs →
        Completes (.inputDebounceExpire c t) s fun m => (m.lio.inCh c).state = stBREAK ∧ (m.lio.inCh c).fcode = 1) ∧
      (x.state = stBREAK ∨ x.state = stINVALID → x.fresh = false → x.band = bandON →
        Completes (.inputDebounceExpire c t) s fun m => (m.lio.inCh c).state = (if 100 ≤ heldMs then stON else x.state)) ∧
      (c / 12 = g → 1000 ≤ ua.getD (c % 12) 0 → x.state ≤ 4 →
        Completes (.crossCheckSample g ua t) s fun m => (m.lio.inCh c).state = stCROSS ∧ (m.lio.inCh c).cleanChecks = 0) ∧
      (c / 12 = g → g < l.tp.length → (l.tpSup g).state = 1 ∨ (l.tpSup g).state = 2 → (l.tpSup g).level < 8 →
        ua.getD (c % 12) bandBREAK ≠ injectBand (l.tpSup g).level →
        Completes (.thresholdInjection g ua t) s fun m =>
          (m.lio.tpSup g).level = ((l.tpSup g).level + 1) % 8 ∧
          (x.wrongLv.testBit (l.tpSup g).level = true → (m.lio.inCh c).state = stTFAIL) ∧
          (x.wrongLv.testBit (l.tpSup g).level = false → x.state ≠ stDISC → (m.lio.inCh c).state = x.state ∧
            (m.lio.inCh c).wrongLv.testBit (l.tpSup g).level = true)) ∧
      (c / 12 = g → g < l.tp.length → x.state ≤ 2 →
        Completes (.tpSupplyFault g t) s fun m =>
          (m.lio.tpSup g).state = 3 ∧ (m.lio.inCh c).state = stBREAK ∧ (m.lio.inCh c).fcode = 6) ∧
      (g < l.tp.length → (l.tpSup g).state = 3 →
        Completes (.tpSupplyRetry g true t) s fun m => (m.lio.tpSup g).state = (if g = 0 ∧ l.steady = true then 2 else 1)) ∧
      (∀ since, l.pairOut.find c = some since → l.inF c 6 2 * 1000000 < now - since → x.state ≤ 5 →
        (∀ q ∈ l.pairs, q.1 = c ∨ q.2 = c → (l.inCh q.1).band ≠ bandOFF) →
        Completes (.pairDiscrepancy c t) s fun m => (m.lio.inCh c).state = stDISC) ∧
      (∀ since, l.pairOut.find c = some since → now - since ≤ l.inF c 6 2 * 1000000 →
        exec (.pairDiscrepancy c t) s = .next { s with m := m0 }))

/-- 09_local_safety_io.md R267, R268, R282, R283, R285: an edge outside a TP0 dark pulse counts once in every lane's bank modulo 2^32; a pair gives the ceiling of SPACING over dt, and above VMAX or below DTMIN a
fault; an edge left open counts as unpaired; VALID drops HOLD after the last pair; SLP windows open at the majority START and close by position or TWIN. A snapshot touches its own lane's window. -/
def Obligations.CountersAndSafetyFunctions : Prop :=
  ∀ (s : State) (x y : Lane) (t ch f : Nat), s.m.full = true →
    let m0 := s.m.advance t
    let l := s.m.lio
    let now := m0.clock
    let fn (l : Lio) : SfState := (l.banks.get y).fns.getD f SfState.reset
    let q := fn l
    (l.active = true → l.ctlflt = false → ch < 8 → ch < (l.banks.get y).counts.length → l.inUse ch = 2 →
      (l.inPulse 0 now = true → exec (.countEdge ch t) s = .next { s with m := m0 }) ∧
      (l.inPulse 0 now = false →
        Completes (.countEdge ch t) s fun m =>
          (m.lio.banks.get y).counts.getD ch 0 = ((l.banks.get y).counts.getD ch 0 + 1) % 2 ^ 32 ∧
          ∀ d, d ≠ ch → (m.lio.banks.get y).counts.getD d 0 = (l.banks.get y).counts.getD d 0) ∧
      (∀ o, l.inPulse 0 now = false → f < (l.banks.get y).fns.length → l.fnKind f = 1 → l.fnF f 2 1 = ch → l.fnF f 1 1 ≠ ch → q.openA = some o →
        let dt := now / 1000 - o
        dt ≤ l.fnF f 6 2 * 1000 → 0 < dt → l.darkBetween (o * 1000) now = false →
        Completes (.countEdge ch t) s fun m =>
          (fn m.lio).openA = none ∧
          (dt < l.fnF f 0x14 2 → (fn m.lio).fault = true ∧ (fn m.lio).lastPair = q.lastPair) ∧
          (l.fnF f 0x14 2 ≤ dt → (fn m.lio).speed = (l.fnF f 4 2 * 1000000 + dt - 1) / dt ∧ (fn m.lio).recent = true ∧
            (l.fnF f 0x0C 4 < (fn m.lio).speed → (fn m.lio).fault = true)))) ∧
    (f < (l.banks.get y).fns.length →
      (∀ o, q.openA = some o → l.fnF f 6 2 * 1000 < now / 1000 - o →
        Completes (.pairTimeout f true t) s fun m =>
          (fn m.lio).openA = none ∧ (fn m.lio).unpA = q.unpA + 1 ∧ (q.unpA = 2 → (fn m.lio).fault = true)) ∧
      (q.recent = true → l.fnF f 0x10 4 * 1000000 < now - q.lastPair →
        Completes (.sfHoldExpire f t) s fun m => (fn m.lio).recent = false ∧ (fn m.lio).dir = 0) ∧
      (q.recent = true → now - q.lastPair ≤ l.fnF f 0x10 4 * 1000000 → Completes (.sfHoldExpire f t) s fun m => fn m.lio = q) ∧
      (l.fnKind f = 2 → f < 16 → l.startMaj f = true → l.startSeen.testBit f = false →
        Completes (.slpStart f t) s fun m =>
          (fn m.lio).inWindow = true ∧ (fn m.lio).timeout = false ∧ (fn m.lio).winStart = now ∧ m.lio.startSeen.testBit f = true) ∧
      (q.inWindow = true → l.fnF f 8 4 * 1000000 ≤ now - q.winStart →
        Completes (.slpWindowExpire f t) s fun m => (fn m.lio).inWindow = false ∧ (fn m.lio).timeout = true) ∧
      (∀ n, q.endN = false → q.nSince = some n → l.fnF f 0x0C 4 * 1000000 ≤ now - n →
        Completes (.slpSettleExpire f t) s fun m => (fn m.lio).endN = true ∧ (fn m.lio).inWindow = false ∧ (fn m.lio).timeout = q.timeout)) ∧
    ((s.m.lane x).powered = true →
      Completes (.lioSnapWrite x t) s fun m =>
        (m.lio.lanes.get x).snapCnt = ((l.lanes.get x).snapCnt + 1) % 65536 ∧ m.lio.banks = l.banks ∧ m.lio.outs = l.outs ∧
        (l.inUse 0 = 2 → (l.banks.get x).counts.getD 0 0 < 2 ^ 32 →
          (275, (l.banks.get x).counts.getD 0 0 + 2 ^ 32) ∈ (m.lio.lanes.get x).window) ∧
        ∀ z, z ≠ x → m.lio.lanes.get z = l.lanes.get z)

/-- 09_local_safety_io.md R269, R279, R280, R292: energised only in the ACTIVE module, every used input starting afresh as BREAK; without the role the supplies go dark and no output is on; a controller fault stops
the controller and its items and leaves the gates; a working controller delivers one item with the next source number; a read of ERRCAP clears it. -/
def Obligations.LocalIoRunsOnlyInTheActiveModule : Prop :=
  ∀ (s : State) (x : Lane) (t : Nat),
    let m0 := s.m.advance t
    let l := s.m.lio
    (s.m.full = true → s.m.role = roleACTIVE → s.m.inService = true → l.active = false → l.ctlflt = false →
      Completes (.lioEnergise t) s fun m =>
        m.lio.active = true ∧ (∀ c, c < l.ins.length → l.inUse c ≠ 0 → (m.lio.inCh c).state = stBREAK ∧ (m.lio.inCh c).fresh = true ∧ (m.lio.inCh c).fcode = 0) ∧
        ∀ g, g < l.tp.length → (m.lio.tpSup g).state = (if g = 0 ∧ l.steady = true then 2 else 1)) ∧
    (s.m.role ≠ roleACTIVE → exec (.lioEnergise t) s = .next { s with m := m0 }) ∧
    (s.m.full = true → s.m.role ≠ roleACTIVE → l.active = true →
      Completes (.lioDeenergise t) s fun m =>
        m.lio.active = false ∧ m.lio.lsafe = false ∧ (∀ g, g < l.tp.length → (m.lio.tpSup g).state = 0) ∧
        (∀ o, (m.lio.outCh o).state ≠ 1 ∧ (m.lio.outCh o).state ≠ 4) ∧
        ∀ c, c < l.ins.length → l.inUse c ≠ 0 → (m.lio.inCh c).state = stBREAK) ∧
    (s.m.full = true → l.ctlflt = false →
      Completes (.lioControllerFault t) s fun m =>
        m.lio.ctlflt = true ∧ m.lio.outs = l.outs ∧ (∀ g, g < l.tp.length → (m.lio.tpSup g).state = 0) ∧
        exec (.lioInputItem t) { s with m := m } = .next { s with m := m.advance t }) ∧
    (s.m.full = true → l.ctlflt = false →
      let n := (l.itemCnt + 1) % 2 ^ 32
      let m1 : Mod := { m0 with lio := { l with itemCnt := n } }
      exec (.lioInputItem t) s = .next { s with m := m1.deliver .lio ⟨s.m.obx.mcn, 8, 0, n, .localInput, l.itemBody⟩ }) ∧
    (s.m.full = true → (s.m.lane x).powered = true →
      let v := l.lanes.get x
      Completes (.lioErrcapRead x t) s fun m =>
        (m.lane x).readData = v.errcap.toNat ∧ m.lio.lanes.get x = { v with errcapLr := v.errcap, errcap := 0 } ∧
        (∀ y, y ≠ x → m.lio.lanes.get y = l.lanes.get y) ∧ m.lio.outs = l.outs)

/-- 09_local_safety_io.md R274, R275, R276: current trips, bank trips and feed loss take the outputs they name to their state, unless one of higher code stands; the second failure of a switch test inhibits the
channel, which leaves FAULT only after a reset and passed tests; a test without verdict changes nothing. -/
def Obligations.OutputChannelsFollowTheirStates : Prop :=
  ∀ (s : State) (t o b : Nat), s.m.full = true →
    let m0 := s.m.advance t
    let l := s.m.lio
    let x := l.outCh o
    o < l.outs.length →
    (x.state ≤ 2 → ∀ thermal : Bool,
      Completes (.outputCurrentTrip o thermal t) s fun m => (m.lio.outCh o).state = 2 ∧ (m.lio.outCh o).fcode = (if thermal then 0x12 else 0x11)) ∧
    (3 ≤ x.state → ∀ thermal, Completes (.outputCurrentTrip o thermal t) s fun m => (m.lio.outCh o).state = x.state) ∧
    (b < 4 → b < l.feed.length → ∀ ma,
      Completes (.bankTrip b ma t) s fun m =>
        (m.lio.feed.getD b FeedBank.reset).state = 3 ∧
        (o / 12 = b → x.state = 1 → (m.lio.outCh o).state = 2 ∧ (m.lio.outCh o).fcode = 0x16) ∧ (o / 12 ≠ b → m.lio.outCh o = x)) ∧
    (b < 4 → b < l.feed.length →
      Completes (.feedUndervoltage b t) s fun m =>
        (m.lio.feed.getD b FeedBank.reset).state = 2 ∧ (o / 12 = b → x.state ≤ 5 → (m.lio.outCh o).state = 5 ∧ (m.lio.outCh o).fcode = 0x17)) ∧
    (b < 4 → b < l.feed.length → (l.feed.getD b FeedBank.reset).state = 2 →
      Completes (.feedReturn b t) s fun m => (m.lio.feed.getD b FeedBank.reset).state = 1 ∧ (o / 12 = b → (m.lio.outCh o).state ≠ 5)) ∧
    (l.ctlflt = false → l.outUsed o = true → l.outF o 3 1 = 1 → o < 48 → ∀ slot, slot / 2 = o →
      (x.testWait = false → Completes (.switchTest slot 1 t) s fun m => (m.lio.outCh o).testWait = true ∧ (m.lio.outCh o).state = x.state) ∧
      (x.testWait = true → x.state ≤ 3 →
        Completes (.switchTest slot 1 t) s fun m =>
          (m.lio.outCh o).state = 3 ∧ (m.lio.outCh o).inhibited = true ∧ (m.lio.outCh o).fcode = (if slot % 2 = 0 then 0x13 else 0x14)) ∧
      (x.state = 3 → x.resetReq = false → Completes (.switchTest slot 0 t) s fun m => (m.lio.outCh o).state = 3) ∧
      (x.state = 3 → x.resetReq = true → 1 ≤ x.passed →
        Completes (.switchTest slot 0 t) s fun m => (m.lio.outCh o).state ≠ 3 ∧ (m.lio.outCh o).inhibited = false) ∧
      exec (.switchTest slot 2 t) s = .next { s with m := m0 })

/-- 01_one_logic_cycle.md R28; 09_local_safety_io.md R277, R278: a write of LIO_DO2 presents the lane's 96 commands and refreshes it; after it an output is ON only where at least two live lanes command its HS switch and at least
two its LS switch; a lane that has not refreshed within TSIL is not live; fewer than two live lanes for TSIL enter LOCAL-SAFE. -/
def Obligations.OutputsNeedTwoLiveLanes : Prop :=
  ∀ (s : State) (x : Lane) (w : Word32) (t : Nat), s.m.full = true →
    let m0 := s.m.advance t
    let l := s.m.lio
    let now := m0.clock
    let two (v : Lio) (bitOf : LioLane → Nat) (o : Nat) : Prop :=
      2 ≤ (Lane.all.filter fun y => v.live s.m.can y && (bitOf (v.lanes.get y)).testBit o).length
    ((s.m.lane x).powered = true →
      Completes (.lioDo2Write x w t) s fun m =>
        (m.lio.lanes.get x).do2 = w ∧ (m.lio.lanes.get x).refreshed = true ∧ (m.lio.lanes.get x).lastRefresh = now ∧
        (m.lio.lanes.get x).hs / 2 ^ 32 = w.toNat % 65536 ∧ (m.lio.lanes.get x).ls / 2 ^ 32 = w.toNat / 65536 ∧
        (∀ o, (m.lio.outCh o).state = 1 → two m.lio (·.hs) o ∧ two m.lio (·.ls) o ∧ m.lio.outUsed o = true ∧ m.lio.active = true ∧ m.lio.lsafe = false ∧
          (m.lio.outCh o).inhibited = false) ∧
        (l.lsafe = true → (m.lio.lsafe = false ↔ 2 ≤ m.lio.liveCount s.m.can)) ∧
        ∀ y, y ≠ x → m.lio.live s.m.can y = l.live s.m.can y) ∧
    ((l.lanes.get x).refreshed = false ∨ l.tsilMs * 1000000 ≤ now - (l.lanes.get x).lastRefresh →
      Completes (.laneRefreshTimeout x t) s fun m =>
        m.lio.live s.m.can x = false ∧
        (∀ since, l.belowSince = some since → (Lane.all.filter fun y => decide (y ≠ x) && l.live s.m.can y).length < 2 → l.tsilMs * 1000000 ≤ now - since →
          m.lio.lsafe = true ∧ ∀ o, (m.lio.outCh o).state ≠ 1) ∧
        ∀ o, (m.lio.outCh o).state = 1 → two m.lio (·.hs) o ∧ two m.lio (·.ls) o) ∧
    ((s.m.lane x).powered = true → ∀ v : Word32,
      Completes (.lioFstartWrite x v t) s fun m => (m.lio.lanes.get x).fstart = v &&& 0xFFFF#32 ∧ m.lio.outs = l.outs)

/-! ### Draip, bridging and the Jade ports -/

/-- 10_older_interfaces_and_bridging.md R296, R297, R298, R302: the ACTIVE bridge visits a used device with its commands, polls and side-band exchange and sends the first at once; a telegram that passes its check is
delivered unchanged, one that fails or is missing is captured, delivers nothing and is not repeated; an event whose telegram has not come within two Draip cycles is delivered as an orphan. -/
def Obligations.BridgeVisitsAndDelivers : Prop :=
  ∀ (s : State) (d t : Nat) (x : Lane) (tel : Bytes), s.m.full = true →
    let m0 := s.m.advance t
    let b := s.m.drp
    let dev := b.dev d
    let items (m : Mod) : List Item := ((m.lane x).rings.get .draip).items
    let works := s.m.takes .draip x = true ∧ (s.m.lane x).tdm.portHeld 4 = false
    (b.active = true → b.ctlflt = false → b.mapOk = true → b.brt.devUsed d = true →
      let agenda := (if b.safeImg then b.brt.commandTels d else (b.brt.commandTels d).filter (· ∈ dev.posted)).map DrStep.command
        ++ (b.brt.inputTels d).map DrStep.poll ++ (if dev.msgForm then (if dev.evcnt = 0 then [] else [DrStep.event]) else [DrStep.status])
      Completes (.draipVisit d t) s fun m =>
        (m.drp.dev d).agenda = agenda ∧ m.lanes = s.m.lanes ∧
        (agenda ≠ [] → (m.drp.dev d).txSeq = (dev.txSeq + 1) % 256 ∧
          ∃ body, m.sent = s.m.sent ++ [⟨m0.clock, .draip (d / 32), body⟩] ∧ telSeq body = (dev.txSeq + 1) % 256)) ∧
    (b.active = false ∨ b.ctlflt = true → exec (.draipVisit d t) s = .next { s with m := m0 }) ∧
    (∀ n rest, b.active = true → b.ctlflt = false → dev.agenda = .poll n :: rest →
      (telValid b.brt d tel = true → telNum tel = n → works →
        Completes (.draipAnswerReceive d tel t) s fun m =>
          (m.drp.dev d).agenda = rest ∧ (m.drp.dev d).age = 0 ∧
          ∃ seq later, items m = items s.m ++ ⟨s.m.obx.mcn, 4, d, seq, .telegram, tel⟩ :: later) ∧
      (telValid b.brt d tel = false →
        Completes (.draipAnswerReceive d tel t) s fun m =>
          (m.drp.dev d).agenda = rest ∧ m.lanes = s.m.lanes ∧ (m.drp.lanes.get x).errcap = captureErr (b.lanes.get x).errcap 1 7) ∧
      Completes (.draipAnswerTimeout d t) s fun m =>
        (m.drp.dev d).agenda = rest ∧ m.lanes = s.m.lanes ∧ (m.drp.lanes.get x).errcap = captureErr (b.lanes.get x).errcap 2 7) ∧
    (∀ e ∈ dev.events, e.since + 2 * b.brt.dcyc (d / 32) * 1000000 ≤ m0.clock →
      Completes (.draipOrphan d t) s fun m =>
        e ∉ (m.drp.dev d).events ∧
        (works → ∃ seq, ⟨s.m.obx.mcn, 4, d, seq, .event, sideBody (e.ecode ||| 0x80) e.tnum e.tseq⟩ ∈ items m))

/-- 10_older_interfaces_and_bridging.md R303, R305, R309, R314, R328: held-back telegrams fall away after two Draip cycles; GO unpacks the first N accepted telegrams; a saturated signal is not valid; a mismatch stops the
bridge and its drivers; a Jade port read is answered or retried, and the 64th RETRY ends it with an error. -/
def Obligations.LanesUnpackAndReadAcrossTheirPorts : Prop :=
  ∀ (s : State) (d n t : Nat) (x : Lane), s.m.full = true →
    let m0 := s.m.advance t
    let l := s.m.lane x
    let v := s.m.drp.lanes.get x
    (x ∈ s.m.running →
      Completes (.draipHoldbackExpire d t) s fun m =>
        ((m.lane x).drp.dev d).held = (l.drp.dev d).held.filter (fun h => decide (l.rt.ctime < h.since + 2 * l.brt.dcyc (d / 32) * 1000000)) ∧
        (m.lane x).drp.accepted = l.drp.accepted) ∧
    (v.ctrl.getLsbD 1 = true → l.powered = true → l.drp.accepted = [] →
      Completes (.brgUnpGo x n t) s fun m =>
        (m.lane x).tcm = l.tcm ∧ (m.drp.lanes.get x).irq = v.irq ||| brgUNP ∧ ∀ y, y ≠ x → m.lane y = s.m.lane y ∧ m.drp.lanes.get y = s.m.drp.lanes.get y) ∧
    (v.ctrl.getLsbD 1 = true → l.powered = true →
      Completes (.brgUnpGo x n t) s fun m =>
        (m.lane x).drp.accepted.length = l.drp.accepted.length - n ∧ (m.drp.lanes.get x).irq = v.irq ||| brgUNP) ∧
    (∀ (mem : Mem) (e : MapEnt) (data : Bytes) (mode : Nat) (err : Bool),
      e.kind = 1 → e.flags = 0 → e.mul = 1 → e.div = 1 → e.off = 0 →
      let raw := e.raw data
      let after := unpackEnt mem e data mode err
      after.rd (bridged e.target) 4 = (if raw ≤ 2147483647 then raw else 2147483647) ∧
      bit (after.rd (bridged e.target + 4) 4) 0 = decide (raw ≤ 2147483647)) ∧
    (s.m.drp.ctlflt = false →
      Completes (.bridgeLockstepFault t) s fun m =>
        m.drp.ctlflt = true ∧ m.drp.active = false ∧ (∀ p ∈ m.drp.ports, p.drivers = false ∧ p.state = 2) ∧
        exec (.draipVisit d t) { s with m := m } = .next { s with m := m.advance t }) ∧
    (l.powered = true →
      Completes (.brgErrcapRead x t) s fun m =>
        (m.lane x).readData = v.errcap.toNat ∧ m.drp.lanes.get x = { v with errcapLr := v.errcap, errcap := 0 }) ∧
    (s.m.jadeReads x = true → l.lct.read = none →
      let back (l' : LaneSt) : Result := .next { s with m := m0.setLane x l' }
      (∀ a, exec (.jadePortRead x (some a) t) s = back { l with readData := a }) ∧
      exec (.jadePortRead x none t) s = back { l with lct := { l.lct with read := some (0, m0.clock) } }) ∧
    (s.m.inService = true → s.m.ph ≠ .idle → ∀ a, exec (.jadePortRead x a t) s = .next { s with m := m0 }) ∧
    (∀ k since, l.lct.read = some (k, since) → since + 2000 ≤ m0.clock →
      (63 ≤ k → ∀ a, Completes (.jadeReadRetry x a t) s fun m => (m.lane x).lct.read = none ∧ (m.lane x).lct.rderr = min 255 (l.lct.rderr + 1)) ∧
      (k < 63 → ∀ a, Completes (.jadeReadRetry x (some a) t) s fun m => (m.lane x).lct.read = none ∧ (m.lane x).readData = a) ∧
      (k < 63 → Completes (.jadeReadRetry x none t) s fun m => ∃ at', (m.lane x).lct.read = some (k + 1, at') ∧ m0.clock + 1000 ≤ at'))

/-! ### Keaber Safe Transport -/

/-- 10_older_interfaces_and_bridging.md R315, R316, R320, R321, R502: a PRP frame is delivered once, its duplicate and a frame of a port that is down are not; supervision frames leave every 2 s; the INIT end of a CLOSED
association sends CONNECT every second; an association without a PDU for TMAX closes with REASON 3. -/
def Obligations.KstPortsAndAssociationTimers : Prop :=
  ∀ (s : State) (port : Chan) (src seq t : Nat) (body : Bytes) (x : Lane) (r : AssocRec),
    let m0 := s.m.advance t
    let l := s.m.lane x
    (∀ rec', s.m.kst.up.get port = true → (src, seq) ∉ s.m.kst.seen → s.m.kst.stamp body = some rec' →
      Completes (.kstFrameReceive port src seq body t) s fun m =>
        (s.m.kst.seen.length < 65536 → (src, seq) ∈ m.kst.seen) ∧
        (l.powered = true → l.tdm.portHeld 2 = false →
          ((m.lane x).rings.get .kst).items = (l.rings.get .kst).items ++ [⟨s.m.obx.mcn, rec'.cls, rec'.anum, pduSeq body, .pdu, body⟩])) ∧
    (s.m.kst.up.get port = false ∨ (src, seq) ∈ s.m.kst.seen → exec (.kstFrameReceive port src seq body t) s = .next { s with m := m0 }) ∧
    (s.m.kst.superDue m0.clock = true →
      Completes (.prpSupervision t) s fun m =>
        m.kst.superAt = some m0.clock ∧ m.sent.length = s.m.sent.length + b2n (s.m.kst.up.get .a) + b2n (s.m.kst.up.get .b) ∧ m.lanes = s.m.lanes) ∧
    (∀ u, s.m.kst.superAt = some u → m0.clock < u + 2000000000 → exec (.prpSupervision t) s = .next { s with m := m0 }) ∧
    (∀ a, x ∈ s.m.running → l.kst.recOf a = some r →
      (r.init = true → (l.kst.assoc a).st = .closed → (∀ u, (l.kst.assoc a).connectAt = some u → u + 1000000000 ≤ l.rt.ctime) →
        Completes (.connectSend a t) s fun m =>
          ((m.lane x).kst.assoc a).connectAt = some l.rt.ctime ∧ ((m.lane x).kst.assoc a).st = .closed ∧
          ∃ pl, (m.lane x).kst.out = l.kst.out ++ [⟨a, 1, 0, 0, none, pl⟩] ∧ Bytes.le pl 0 1 = r.vmin % 256 ∧ Bytes.le pl 1 1 = r.vmax % 256) ∧
      (r.init = false ∨ (l.kst.assoc a).st ≠ .closed → Completes (.connectSend a t) s fun m => (m.lane x).kst.out = l.kst.out) ∧
      ((l.kst.assoc a).st = .open' → (l.kst.assoc a).acceptedAt + r.tmax * 1000000 ≤ l.rt.ctime →
        Completes (.kstTmaxExpire a t) s fun m =>
          ((m.lane x).kst.assoc a).st = .closed ∧ (m.lane x).kst.out = l.kst.out ++ [⟨a, 4, (l.kst.assoc a).ver, 0, none, leBytes 1 3⟩]) ∧
      (l.rt.ctime < (l.kst.assoc a).acceptedAt + r.tmax * 1000000 →
        Completes (.kstTmaxExpire a t) s fun m => (m.lane x).kst.assoc a = l.kst.assoc a ∧ (m.lane x).kst.out = l.kst.out))

/-- 10_older_interfaces_and_bridging.md R319, R320, R322, R323, R324, R325, R502: a PDU that fails a check is discarded and counted and changes no state; one that passes has the effect of its type: CONNECT is answered,
ACCEPT opens, CLOSE closes, DATA opens a CONNECTING end and becomes a request, an input record or an inbox message; without the role a ROUTE_OP is answered ROLE; without a slot a message waits. -/
def Obligations.AcceptedPdusTakeEffect : Prop :=
  ∀ (s : State) (x : Lane) (a t : Nat) (body : Bytes) (r q : AssocRec),
    x ∈ s.m.running → (s.m.kst.recs.find? fun z => z.anum == a) = some q → (s.m.lane x).kst.recOf a = some r →
    let l := s.m.lane x
    let e := l.kst.assoc a
    let pl := pduPayload body
    let mt := pduMtype body
    let ok := pduOk r e q.cls (s.m.obx.t0 + 4000000 * (l.rt.amc + 1)) (fun y => l.keyOf 4 (4 * a + y)) body
    let st (m : Mod) : AssocSt := ((m.lane x).kst.assoc a).st
    let data : Prop := pduType body = 3 ∧ ok = true ∧ mtypeOk e body = true
    let msg : InMsg := ⟨a, r.cls, r.roles, mt, pduSeq body, l.rt.amc, pl⟩
    (pduType body = 1 → ok = false →
      Completes (.connect a body t) s fun m => (m.lane x).kst.assoc a = { e with discarded := e.discarded + 1 } ∧ (m.lane x).kst.out = l.kst.out) ∧
    (pduType body = 1 → ok = true →
      (version r (Bytes.le pl 0 1) (Bytes.le pl 1 1) = none →
        Completes (.connect a body t) s fun m => st m = .closed ∧ (m.lane x).kst.out = l.kst.out ++ [⟨a, 4, 0, 0, some (pduTs body), leBytes 1 1⟩]) ∧
      (∀ v, version r (Bytes.le pl 0 1) (Bytes.le pl 1 1) = some v → r.cls ≠ 2 ∨ Bytes.le pl 2 4 = r.lsig true →
        Completes (.connect a body t) s fun m =>
          st m = .connecting ∧ ((m.lane x).kst.assoc a).ver = v ∧ (m.lane x).kst.out = l.kst.out ++ [⟨a, 2, v, 0, none, leBytes 1 v⟩])) ∧
    (pduType body = 2 → ok = true → Completes (.accept a body t) s fun m => st m = .open' ∧ ((m.lane x).kst.assoc a).acceptedAt = l.rt.ctime) ∧
    (pduType body = 4 → ok = true → Completes (.close a body t) s fun m => st m = .closed ∧ (m.lane x).kst.out = l.kst.out) ∧
    (data → mt = 0 →
      Completes (.heartbeat a body t) s fun m => st m = .open' ∧ (m.lane x).kst.inbox = l.kst.inbox ∧ (m.lane x).rt.requests = l.rt.requests) ∧
    (data → mt = 1 →
      (r.canRoute = true → Completes (.routeOp a body t) s fun m =>
        (m.lane x).kst.out = l.kst.out ∧ (m.lane x).rt.requests = l.rt.requests
          ++ [⟨kstDesc a r.cls l.rt.amc (pduSeq body) (Bytes.le pl 0 1) (Bytes.le pl 2 2) ((Bytes.le pl 1 1).testBit 0) (Bytes.le pl 4 4), none⟩]) ∧
      (r.canRoute = false → Completes (.routeOp a body t) s fun m =>
        (m.lane x).rt.requests = l.rt.requests ∧ (m.lane x).kst.out.length = l.kst.out.length + 1 ∧ (m.lane x).rt.recs.length = l.rt.recs.length + 1)) ∧
    (data → mt = 2 → r.canArel = true → l.kst.inbox.length < 256 →
      Completes (.areaRel a body t) s fun m => (m.lane x).kst.inbox = l.kst.inbox ++ [msg]) ∧
    (data → mt = 2 → r.canArel = false → Completes (.areaRel a body t) s fun m => (m.lane x).kst.inbox = l.kst.inbox ∧ (m.lane x).rt.recs.length = l.rt.recs.length + 1) ∧
    (data → mt = 0x10 → r.cls = 2 → l.rt.links = [] →
      Completes (.linkState a body t) s fun m =>
        (m.lane x).tcm = (linkRecs r pl).foldl (fun mem z => recFrom mem z.e 0 z.rec') l.tcm ∧ (m.lane x).kst.inbox = l.kst.inbox) ∧
    (data → mt = 0x11 → r.cls = 2 → l.kst.inbox.length < 256 →
      Completes (.linkCmd a body t) s fun m => (m.lane x).kst.inbox = l.kst.inbox ++ [msg]) ∧
    (data → 0x100 ≤ mt → mt ≤ 0x7FFF →
      (l.kst.inbox.length < 256 → Completes (.applicationMessage a body t) s fun m => (m.lane x).kst.inbox = l.kst.inbox ++ [msg] ∧ st m = .open') ∧
      (256 ≤ l.kst.inbox.length → Completes (.applicationMessage a body t) s fun m =>
        (m.lane x).items = l.items ++ [⟨l.rt.amc, q.cls, a, pduSeq body, .pdu, body⟩] ∧ (m.lane x).kst = l.kst))

/-! ### The module pair -/

/-- 11_module_pair.md R332 to R336, R338, R339; 07_opbex.md R217: a follow record whose seals fail, or that is not complete in time, makes a standby STANDBY-COLD; a missing reply is fetched; a
complete record is acknowledged and its cycle run; FACK hands over the held set; equal summaries count up to STANDBY-HOT, a different one diverges; DELAY and a state copy are taken. -/
def Obligations.FollowRecordsAreCheckedRunAndCompared : Prop :=
  ∀ (s : State) (f : FollowRec) (excs : PerLane (Option ProgExc)) (ins : PerLane SliceIn) (t c : Nat),
    let m0 := s.m.advance t
    let p := s.m.pair
    let standby := s.m.isStandby = true ∧ p.linkUp = true ∧ p.follows = true ∧ s.m.service ≠ .held
    let bad := (s.m.running.filter fun x => !((s.m.lane x).followSealOk f)).length
    let cold (m : Mod) : Prop := m.role = roleCOLD ∧ m.pair.follows = false ∧ m.pair.matches' = 0
    let frame (ty : Nat) (b : Bytes) : Sent := ⟨m0.clock, .pair, m0.pairFrame ty b⟩
    let got (i : Item) (e : Sent) : Mod := { m0 with pair := { p with keptItems := p.keptItems ++ [i], waitFetch := none }, sent := s.m.sent ++ [e] }
    (standby → p.waitFetch = none → 2 ≤ bad → Completes (.follow f excs ins t) s cold) ∧
    (standby → p.waitFetch.isSome = true → Completes (.follow f excs ins t) s cold) ∧
    (∀ r, standby → p.waitFetch = none → bad < 2 → resolve f.refs s.m.heldReplies = .error r →
      Completes (.follow f excs ins t) s fun m =>
        m.sent = s.m.sent ++ [frame 0x14 r.bytes] ∧ m.pair.waitFetch = some f ∧ m.lanes = s.m.lanes ∧ m.role = s.m.role) ∧
    (∀ its, standby → p.waitFetch = none → bad < 2 → resolve f.refs s.m.heldReplies = .ok its →
      exec (.follow f excs ins t) s
        = .next { s with m := ({ m0 with sent := s.m.sent ++ [frame 0x12 (leBytes 8 f.cycle)] } : Mod).followRun f (its ++ f.items) excs ins }) ∧
    (∀ i r g, p.linkUp = true → p.waitFetch = some g → m0.clock < p.recordSentAt + 200000 → resolve g.refs (s.m.heldReplies ++ [i]) = .error r →
      Completes (.item i excs ins t) s fun m =>
        m.pair.waitFetch = some g ∧ m.pair.keptItems = p.keptItems ++ [i] ∧ m.sent = s.m.sent ++ [frame 0x14 r.bytes]) ∧
    (∀ i its g, p.linkUp = true → p.waitFetch = some g → m0.clock < p.recordSentAt + 200000 → resolve g.refs (s.m.heldReplies ++ [i]) = .ok its →
      exec (.item i excs ins t) s
        = .next { s with m := (got i (frame 0x12 (leBytes 8 g.cycle))).followRun g (its ++ g.items) excs ins }) ∧
    (∀ i g, p.waitFetch = some g → p.recordSentAt + 200000 ≤ m0.clock → Completes (.item i excs ins t) s cold) ∧
    (s.m.role = roleACTIVE → p.fackFor = some c →
      (s.m.outWait = none → exec (.fack c t) s = .next { s with m := { m0 with pair := { p with fackFor := none, facked := some c, hotCycles := p.hotCycles + 1 } } }) ∧
      (∀ o, s.m.outWait = some o → o.cycle = c → Completes (.fack c t) s fun m => m.handed = true ∧ m.outWait = none ∧ m.pair.facked = some c ∧ m.sealedAt = m0.clock)) ∧
    (∀ o, s.m.role = roleACTIVE → p.fackFor.isSome = true → p.recordSentAt + 500000 ≤ m0.clock → s.m.outWait = some o →
      Completes (.fackTimeout t) s fun m => m.handed = true ∧ m.outWait = none ∧ m.pair.partnerHot = false ∧ m.pair.following = none ∧ m.pair.fackFor = none) ∧
    (∀ own value, standby → (p.waitFetch.isSome && decide (p.recordSentAt + 200000 ≤ m0.clock)) = false → p.ownSum = some (c, own) →
      (value = none → Completes (.sum c value t) s fun m => m.pair.matches' = p.matches' ∧ m.role = s.m.role ∧ m.pair.ownSum = none) ∧
      (∀ v, value = some v → own ≠ some v → Completes (.sum c value t) s cold) ∧
      (∀ v, value = some v → own = some v → s.m.role = roleCOLD →
        Completes (.sum c value t) s fun m =>
          m.pair.matches' = p.matches' + 1 ∧ m.role = (if p.matches' + 1 < 16 then roleCOLD else roleHOT) ∧
          (16 ≤ p.matches' + 1 → m.service = (if 3 ≤ s.m.voters.length then .full else .reduced)))) ∧
    (∀ r i, s.m.role = roleACTIVE → p.linkUp = true → p.keptItems.find? r.ok = some i →
      exec (.fetch r t) s = .next { s with m := { m0 with sent := s.m.sent ++ [frame 0x15 i.bytes] } }) ∧
    (∀ ch n dk tau, s.m.isStandby = true → p.linkUp = true →
      Completes (.delay [(ch, n, dk, tau)] t) s fun m =>
        let k := (m.obx.ch ch).node n
        k.dk = dk ∧ k.tau = tau ∧ k.known = true ∧ (∀ j, j ≠ n → (m.obx.ch ch).node j = (s.m.obx.ch ch).node j) ∧ m.lanes = s.m.lanes) ∧
    (∀ src x q, s.m.role = roleACTIVE → s.m.inService = true → s.m.ph = .idle → p.follows = false → s.m.voters.head? = some x → s.m.pairMatches x = true →
      p.partner = some q → (claimOf q.claim).role = roleCOLD →
      Completes (.standbyStateCopy src t) s fun m =>
        let l := s.m.lane x
        m.pair.following = some s.m.cycle ∧ m.pair.hotCycles = 0 ∧ m.lanes = s.m.lanes ∧
        m.sent.length = s.m.sent.length + (copyPages 0 l.tcm).length + (copyPages 1 (Mem.splice [] l.dram (instBase l.region) 0 0x2000000)).length
          + (copyPages 2 l.beryl.sram).length) ∧
    (∀ src x, let rs := s.m.ready.filter fun y => (s.m.lane y).grn.ctrl.getLsbD 2
      s.m.role = roleCOLD → s.m.service = .starting → p.heldCold = false → 2 ≤ rs.length → x ∈ rs →
      (rs.all fun y => s.m.pairMatches y && ((s.m.lane y).confirmed || (s.m.lane y).sps == [])) = true →
      Completes (.standbyStateCopy src t) s fun m =>
        (m.lane x).voting = true ∧ (m.lane x).silent = false ∧ (m.lane x).tcm = src.tcm ∧ (m.lane x).beryl.sram = src.beryl.sram ∧ (m.lane x).kst = src.kst ∧
        m.cycle = src.rt.cycle ∧ m.pair.following = some src.rt.cycle ∧ m.role = roleCOLD)

/-- 11_module_pair.md R329, R336, R340, R341, R345, R348 to R352; 12_faults_and_guarantees.md R360: a GRANT whose conditions hold makes a standby ACTIVE with its EPOCH raised; a swap goes offer, accept,
cut stop, star handover, role change, each at its minor cycle, and ends before its commit on an abort or a failed condition; AUTOSWAP, the overdue flag and a lost interface follow their rules. -/
def Obligations.TakeoverAndSwapFollowTheirSequence : Prop :=
  ∀ (s : State) (ch : Chan) (f : Frame) (n t : Nat),
    let m0 := s.m.advance t
    let p := s.m.pair
    let b := f.body
    let raised : Nat := (⟨p.nextEpoch, roleACTIVE, s.m.sid⟩ : Claim).num
    let ctrl (kind arg : Nat) : Sent := ⟨m0.clock, .pair, m0.pairFrame 0x18 (leBytes 1 kind ++ leBytes 8 arg)⟩
    let ended (m : Mod) : Prop := m.pair.swap = none ∧ m.stopCut = false ∧ m.obx.handover = none ∧ m.role = s.m.role
    let grantFrame := (f.good 0x31 && faddr b == starAddr ch && linkOk (Config.farLinkKey (starAddr ch)) b) = true ∧ s.m.isStandby = true ∧ s.m.service ≠ .held
      ∧ cfClaim b = s.m.claimNum s.m.role ∧ 2 ≤ cfArg0 b
    (grantFrame → p.grantOk (s.m.claimNum s.m.role) (cfClaim b) (cfMcn b) (cfArg0 b) (cfArg1 b) s.m.obx.t0 = true →
      Completes (.grant ch f t) s fun m =>
        m.role = roleACTIVE ∧ m.obx.claim = raised ∧ m.obx.master = true ∧ m.pair.epoch0.epoch = (claimOf raised).epoch ∧ m.pair.epoch1 = m.pair.epoch0 ∧
        m.pair.lastChange = m0.now ∧ m.obx.hpoll = !(s.m.role == roleHOT) ∧ m.pair.changeKind = (if s.m.role = roleHOT then 1 else 2) ∧ m.service = s.m.service) ∧
    (grantFrame → p.grantOk (s.m.claimNum s.m.role) (cfClaim b) (cfMcn b) (cfArg0 b) (cfArg1 b) s.m.obx.t0 = false →
      Completes (.grant ch f t) s fun m => m.role = s.m.role ∧ m.pair = p ∧ m.obx = s.m.obx) ∧
    (s.m.isStandby = true → s.m.obx.running = true → s.m.obx.started = true →
      Completes (.stbySend ch t) s fun m =>
        m.pair = p ∧ m.lanes = s.m.lanes ∧ ∃ pcc, m.sent = s.m.sent
          ++ [⟨m0.clock, .opbex ch, claimFrame 0x30 (modAddr s.m.sid) (s.m.claimNum s.m.role) (s.m.obx.mcn % 4294967296) pcc 0 (Config.farLinkKey (modAddr s.m.sid))⟩]) ∧
    (∀ port, let st := s.m.star ch
      (f.good 0x30 && linkOk (Config.farLinkKey (faddr b)) b) = true → st.first = true →
      Completes (.stby ch port f t) s fun m =>
        (m.star ch).stby = some (cfClaim b, port % 2) ∧ m.lanes = s.m.lanes ∧
        m.sent = s.m.sent ++ [⟨m0.clock, .starTx ch, echoFrame 0x41 (starAddr ch) (cfMcn b) 0 0 0xFFFF (Config.farLinkKey (starAddr ch))⟩]) ∧
    (s.m.role = roleHOT → p.linkUp = true → s.m.service ≠ .held → s.m.rotation = none → s.m.copy = none → s.m.jade.session = none → s.m.obx.mcn + 3 ≤ n →
      Completes (.swapOffer n t) s fun m =>
        m.pair.swap = some ⟨n, .accepted, raised, false, false⟩ ∧ m.sent = s.m.sent ++ [ctrl 2 raised] ∧ m.role = roleHOT) ∧
    (∀ w, p.swap = some w →
      (s.m.role = roleACTIVE → w.stage = .offered → (claimOf n).role = roleACTIVE → (claimOf n).sid = partnerSid s.m.sid → s.m.obx.claim < n →
        Completes (.swapAccept n t) s fun m => m.pair.swap = some { w with stage := .accepted, newClaim := n } ∧ m.role = roleACTIVE) ∧
      (w.stage ≠ .committed → Completes (.swapAbort t) s ended) ∧
      (w.stage = .committed → exec (.swapAbort t) s = .next { s with m := m0 }) ∧
      (s.m.role = roleACTIVE → w.m ≤ s.m.obx.mcn + 2 → w.stage = .accepted →
        Completes (.swapCutStop t) s fun m => m.stopCut = true ∧ m.pair.swap = some { w with stage := .cutStopped } ∧ m.role = roleACTIVE) ∧
      (s.m.role = roleACTIVE → w.m ≤ s.m.obx.mcn + 2 → w.stage = .offered → Completes (.swapCutStop t) s ended) ∧
      (s.m.role = roleACTIVE → w.m ≤ s.m.obx.mcn + 1 → w.stage = .cutStopped → s.m.ph = .idle → s.m.handed = true → p.linkUp = true → p.partnerHot = true →
        s.m.obx.master = true → s.m.obx.started = true →
        Completes (.swapStarHandover t) s fun m =>
          m.obx.handover = some w.newClaim ∧ m.obx.acks = PerChan.const false ∧ m.sent.length = s.m.sent.length + 2 ∧ m.pair = p) ∧
      (s.m.role = roleACTIVE → w.m ≤ s.m.obx.mcn + 1 → w.stage = .cutStopped → s.m.ph ≠ .idle ∨ p.linkUp = false ∨ p.partnerHot = false →
        Completes (.swapStarHandover t) s ended) ∧
      (s.m.role = roleACTIVE → w.m ≤ s.m.obx.mcn → w.stage = .committed → (∀ x, x ∈ s.m.voters → (s.m.lane x).rt.change = none) →
        Completes (.swapRoleChange t) s fun m =>
          m.role = roleHOT ∧ m.obx.master = false ∧ m.obx.claim = s.m.claimNum roleHOT ∧ m.pair.swap = none ∧ m.pair.lastChange = m0.now ∧ m.stopCut = false) ∧
      (s.m.role = roleACTIVE → w.m ≤ s.m.obx.mcn → w.stage ≠ .committed → Completes (.swapRoleChange t) s ended) ∧
      (s.m.role = roleHOT → w.m ≤ s.m.obx.mcn → (∀ x, x ∈ s.m.voters → (s.m.lane x).rt.change = none) →
        Completes (.swapRoleChange t) s fun m =>
          m.role = roleACTIVE ∧ m.obx.master = true ∧ m.obx.claim = w.newClaim ∧ m.pair.swap = none ∧ m.pair.partnerHot = true ∧ m.pair.lastChange = m0.now)) ∧
    (s.m.role = roleACTIVE → Bytes.nat (s.m.jade.setting s.m.sid 4) = 1 → m0.autoswapAt ≤ m0.now → m0.now ≤ m0.autoswapAt + 14400000000000 → p.autoTriedAt = none →
      (m0.swapBlocked false = false →
        Completes (.autoswapStart t) s fun m =>
          m.pair.swap = some ⟨s.m.obx.mcn + 4, .offered, 0, false, false⟩ ∧ m.sent = s.m.sent ++ [ctrl 1 (s.m.obx.mcn + 4)] ∧ m.role = roleACTIVE) ∧
      (m0.swapBlocked false = true → Completes (.autoswapStart t) s fun m => m.pair = { p with autoTriedAt := some m0.now } ∧ m.sent = s.m.sent)) ∧
    (s.m.role = roleACTIVE → p.lastChange + 604800000000000 ≤ m0.now → p.overdueAt = none →
      Completes (.swapOverdue t) s fun m => m.pair.overdueAt = some m0.clock ∧ m.role = roleACTIVE ∧ m.pair.swap = p.swap) ∧
    (∀ q, s.m.role = roleACTIVE → s.m.inService = true → s.m.swapHindered false = false → p.partner = some q → s.m.lostIfc &&& q.health = 0 →
      (s.m.lostIfc ≠ 0 → Completes (.faultSwap t) s fun m => m.pair.swap = some ⟨s.m.obx.mcn + 4, .offered, 0, true, false⟩ ∧ m.sent = s.m.sent ++ [ctrl 1 (s.m.obx.mcn + 4)]) ∧
      (s.m.lostIfc = 0 → exec (.faultSwap t) s = .next { s with m := m0 }))

/-- 11_module_pair.md R330, R333, R337, R346; 15_lifecycle_identity_update.md R419: a module in HELD gives up the role only on its partner's acknowledgement within 1 ms; demotion and a link fault make a
standby STANDBY-COLD; a higher ACTIVE claim sends an ACTIVE module to HELD; CTRL reports are taken and a life-cycle state waits for its cycle. -/
def Obligations.ClaimsAndLinkEventsSetTheRoles : Prop :=
  ∀ (s : State) (t : Nat),
    let m0 := s.m.advance t
    let p := s.m.pair
    let cold (m : Mod) : Prop := m.role = roleCOLD ∧ m.pair.follows = false ∧ (s.m.inService = true → m.service = .starting) ∧ m.voters = []
    (∀ u, p.relinquishAt = some u → s.m.role = roleACTIVE → s.m.service = .held →
      (m0.clock ≤ u + 1000000 → Completes (.relinquishAck t) s fun m =>
        m.role = 0 ∧ m.obx.running = false ∧ m.obx.master = false ∧ m.pair.relinquishAt = none ∧ m.pair.partnerHot = false ∧ m.service = .held) ∧
      (u + 1000000 < m0.clock → exec (.relinquishAck t) s = .next { s with m := m0 }) ∧
      (u + 1000000 ≤ m0.clock → Completes (.relinquishAckTimeout t) s fun m => m.role = roleACTIVE ∧ m.service = .held ∧ m.pair = { p with relinquishAt := none })) ∧
    (s.m.role = roleHOT → p.linkUp = true →
      Completes (.relinquishReceived t) s fun m =>
        m.pair.relinquished = true ∧ m.role = roleHOT ∧
        m.sent = s.m.sent ++ [⟨m0.clock, .pair, m0.pairFrame 0x18 (leBytes 1 5 ++ leBytes 8 (s.m.claimNum roleHOT))⟩]) ∧
    (s.m.isStandby = true → p.linkUp = true → Completes (.standbyDemote t) s cold) ∧
    (∀ st cyc signer, p.linkUp = true → s.m.role ≠ roleACTIVE →
      exec (.lcStatePass st cyc signer t) s = .next { s with m := { m0 with lcWait := some ⟨st, cyc, signer⟩ } }) ∧
    (∀ q, p.linkUp = true → (claimOf q.claim).sid = partnerSid s.m.sid → s.m.role = roleACTIVE →
      Completes (.pairCtrlStatus q t) s fun m =>
        m.pair.present = true ∧ m.pair.partner = some q ∧ m.pair.partnerHot = ((claimOf q.claim).role == roleHOT) ∧
        m.pair.epochSeen = max p.epochSeen (q.claim / 65536) ∧ m.pair.lastChange = max p.lastChange q.lastChange ∧ m.role = roleACTIVE ∧ m.lanes = s.m.lanes) ∧
    (∀ q, p.linkUp = true → (claimOf q.claim).sid ≠ partnerSid s.m.sid →
      Completes (.pairCtrlStatus q t) s fun m => m.pair.present = false ∧ m.pair.partner = none ∧ m.pair.partnerHot = false ∧ m.role = s.m.role) ∧
    (p.linkUp = true →
      (s.m.isStandby = true → Completes (.pairLinkFault t) s fun m => cold m ∧ m.pair.linkUp = false ∧ m.pair.retrainAt = some (m0.clock + 10000000000)) ∧
      (s.m.role = roleACTIVE → p.swap = none → Completes (.pairLinkFault t) s fun m =>
        m.pair.linkUp = false ∧ m.pair.partnerHot = false ∧ m.role = roleACTIVE ∧ m.service = s.m.service ∧ m.pair.retrainAt = some (m0.clock + 10000000000) ∧ m.lanes = s.m.lanes)) ∧
    (∀ u, p.linkUp = false → p.retrainAt = some u → s.m.power.good = true →
      (u ≤ m0.clock → exec (.pairLinkRetrain true t) s = .next { s with m := { m0 with pair := { p with linkUp := true, retrainAt := none } } }) ∧
      (u ≤ m0.clock → exec (.pairLinkRetrain false t) s = .next { s with m := { m0 with pair := { p with retrainAt := some (m0.clock + 10000000000) } } }) ∧
      (∀ ok, m0.clock < u → exec (.pairLinkRetrain ok t) s = .next { s with m := m0 })) ∧
    (∀ claim, s.m.role = roleACTIVE → s.m.service ≠ .held → higherActive claim (s.m.claimNum roleACTIVE) = true →
      Completes (.higherClaimReceived claim t) s fun m =>
        m.service = .held ∧ m.heldCause = 0xA ∧ m.role = roleCOLD ∧ m.obx.master = false ∧ m.pair.partnerHot = false ∧ m.pair.epochSeen = max p.epochSeen (claim / 65536)) ∧
    (∀ claim, s.m.role ≠ roleACTIVE ∨ higherActive claim (s.m.claimNum roleACTIVE) = false →
      exec (.higherClaimReceived claim t) s = .next { s with m := { m0 with pair := { p with epochSeen := max p.epochSeen (claim / 65536) } } })

/-! ### Start-up and self-test -/

/-- 13_startup_and_self_test.md R370, R374, R375, R376, R378 to R382, R390; 19_connectors_and_ratings.md R492; 12_faults_and_guarantees.md R501: power good latches the SID and puts every processor in reset; Jade
runs a verified image, its fallback or stays in ROM service; a processor whose digest differs twice and a lane that fails its self-test drop out; a start that cannot succeed ends in HELD with its cause. -/
def Obligations.StartUpLoadsAndTestsInOrder : Prop :=
  ∀ (s : State) (t : Nat),
    let m0 := s.m.advance t
    let act : Mod := { m0 with jade := s.m.jade.activate }
    let back : Bool := match (act.jade.img 1).fallback with
      | some b => act.bootOk 1 b
      | none => false
    (∀ sid x1 x2, s.m.power.good = false → x1 = 1 ∨ x1 = 2 ∨ x2 = 1 ∨ x2 = 2 →
      Completes (.powerGood sid x1 x2 true true t) s fun m =>
        m.power.good = true ∧ m.sid = sid % 32 ∧ m.service = .starting ∧ m.role = 0 ∧ m.procs = Procs.reset ∧ m.jade.mode = .off ∧ m.bootAt = m0.clock ∧
        ∀ x, (m.lane x).powered = true ∧ (m.lane x).released = false ∧ (m.lane x).voting = false) ∧
    (∀ sid x1 x2 a b, s.m.power.good = true ∨ a = false ∨ b = false → exec (.powerGood sid x1 x2 a b t) s = .next { s with m := m0 }) ∧
    (∀ sid, s.m.power.good = true → sid % 32 ≠ s.m.power.sidRead →
      Completes (.slotCodingReread sid t) s fun m => m.power.sidRead = sid % 32 ∧ m.sid = s.m.sid ∧ m.lanes = s.m.lanes) ∧
    (∀ claim ty, (claimOf claim).sid = s.m.sid → s.m.obx.listenSince.isSome = true →
      (s.m.role ≠ roleACTIVE → Completes (.dupSidDetect claim ty t) s fun m =>
        m.power.dupSid = true ∧ m.obx.listenSince = none ∧ m.obx.running = false ∧ m.service = s.m.service ∧ m.lanes = s.m.lanes) ∧
      (s.m.role = roleACTIVE → exec (.dupSidDetect claim ty t) s = .next { s with m := m0 })) ∧
    (s.m.power.good = true → s.m.jade.mode = .off →
      (act.imageOk 1 = false → back = false → ∀ r old, Completes (.jadeBoot r old t) s fun m => m.jade.mode = .romService ∧ m.lanes = s.m.lanes) ∧
      (∀ r, Completes (.jadeBoot r [] t) s fun m =>
        m.lanes = s.m.lanes ∧
        (if act.imageOk 1 = false ∧ back = false then m.jade.mode = .romService
         else if r = false then m.jade.mode = .off
         else m.jade.mode = .running ∧ m.jade.inForce = s.m.jade.settings ∧
           (if act.imageOk 1 = true then (m.jade.img 1).running = (act.jade.img 1).running
            else (m.jade.img 1).running = (act.jade.img 1).fallback ∧ (m.jade.img 1).fallback = none)))) ∧
    (s.m.power.good = true → s.m.jade.mode ≠ .romService →
      Completes (.jadeWatchdog t) s fun m =>
        m.jade.mode = (if 3 ≤ (s.m.jade.restarts.filter fun r => decide (m0.clock < r + 600000000000)).length + 1 then .romService else .off) ∧
        m.jade.session = none ∧ m.jade.conn1 = MbConn.reset ∧ m.lanes = s.m.lanes ∧ m.service = s.m.service) ∧
    (∀ p : Proc, s.m.jade.mode = .running → s.m.full = true → (∀ x, p.lane? = some x → (s.m.lane x).powered = true ∧ (s.m.lane x).heldOut = false) →
      let ok := s.m.imageOk p.image
      let same (m : Mod) : Prop := m.procs = s.m.procs ∧ m.lanes = s.m.lanes
      (s.m.procs.get p = .inReset ∨ s.m.procs.get p = .mismatch → Completes (.firmwareLoad p true t) s fun m =>
        if ok = true then m.procs.get p = .running ∧ (∀ x, p.lane? = some x →
          (m.lane x).released = true ∧ (m.lane x).latch = s.m.jade.lc ∧ (m.lane x).comparator = !((s.m.lane x).splitNext && s.m.jade.lc == .lab) ∧ (m.lane x).voting = (s.m.lane x).voting)
        else same m) ∧
      (s.m.procs.get p = .inReset → Completes (.firmwareLoad p false t) s fun m => if ok = true then m.procs.get p = .mismatch ∧ m.lanes = s.m.lanes else same m) ∧
      (s.m.procs.get p = .mismatch → Completes (.firmwareLoad p false t) s fun m =>
        if ok = true then m.procs.get p = .failed ∧ (∀ x, p.lane? = some x → (m.lane x).heldOut = true ∧ (m.lane x).released = false) else same m)) ∧
    (∀ (p : Proc) test, p.lane? = none → s.m.procs.get p = .running →
      Completes (.controllerStartTest p test true t) s (fun m => m.procs.get p = .tested) ∧ Completes (.controllerStartTest p test false t) s (fun m => m.procs.get p = .failed)) ∧
    (∀ x, let l := s.m.lane x
      l.powered = true → l.released = true → l.test.selfOk = false → s.m.procs.get (procOf x) = .running → s.m.rotation = none →
      (Completes (.laneSelfTest x none [] t) s fun m => (m.lane x).test.selfOk = true ∧ m.procs.get (procOf x) = .tested ∧ (m.lane x).mram = l.mram ∧ (m.lane x).released = true) ∧
      (∀ g, Completes (.laneSelfTest x (some g) [] t) s fun m => (m.lane x).heldOut = true ∧ (m.lane x).released = false ∧ (m.lane x).test.failTgt = g.1 ∧ (m.lane x).test.selfOk = false) ∧
      (∀ g gs, repairAll l.test.fuses (repairEnts l.mram) 1 (m0.laneTime x / 1000000000 % 2 ^ 32) (g :: gs) = none →
        Completes (.laneSelfTest x none (g :: gs) t) s fun m => (m.lane x).heldOut = true ∧ (m.lane x).test.failTgt = g.target)) ∧
    (∀ noLight, s.m.service = .starting → s.m.power.good = true → s.m.jade.mode = .running →
      let held (c : Nat) (m : Mod) : Prop := m.service = .held ∧ m.heldCause = c ∧ m.voters = []
      let few := (Lane.all.filter s.m.hopeful).length < 2
      let lost := s.m.full && (!s.m.imageOk 3 || s.m.procs.lio == .failed || s.m.procs.bridge == .failed)
      let uses := match (s.m.jade.img 5).running with
        | some b => b.usesLocal
        | none => false
      let refused := Lane.all.any fun x => let l := s.m.lane x; l.test.selfOk && !l.split && !l.heldOut && !l.test.stationOk
      Completes (.startFailure noLight t) s fun m =>
        if s.m.imageOk 2 = false ∨ s.m.imageOk 4 = false ∨ lost = true ∧ uses = true ∨ refused = true then held 0xC m
        else if few then held 0xD m
        else if noLight = true then held 0xE m
        else if lost = true then m.service = .starting ∧ m.lio.ctlflt = true ∧ m.drp.ctlflt = true ∧ m.lanes = s.m.lanes
        else m = m0)

/-- 13_startup_and_self_test.md R378, R387, R389, R391; 16_movers_checks_crossings.md R441, R458: a word corrected three times becomes a repair candidate of the record; a stopped slice is kept as incomplete;
an injection runs only in test mode and its result is read back; SILCLR clears silence only in test mode; a read of LCT_ERRCAP clears it; a discarded NP read is counted there. -/
def Obligations.LaneTestOperationsTakeEffect : Prop :=
  ∀ (s : State) (x : Lane) (t : Nat),
    let m0 := s.m.advance t
    let l := s.m.lane x
    let rest (m : Mod) : Prop := m.service = s.m.service ∧ m.obx = s.m.obx ∧ m.sent = s.m.sent ∧ ∀ y, y ≠ x → m.lane y = s.m.lane y
    l.powered = true →
    (∀ target kind faddr addr,
      let seen := (l.test.ecc.filter fun e => decide (m0.clock < e.2.2 + 86400000000000)) ++ [(target, addr, m0.clock)]
      let n := (seen.filter fun e => e.1 == target && e.2.1 == addr).length
      (n < 3 → Completes (.eccCandidate x target kind faddr addr t) s fun m => rest m ∧ m.lane x = { l with test := { l.test with ecc := seen } }) ∧
      (3 ≤ n → (repairEnts l.mram).length < 256 → (∀ e ∈ repairEnts l.mram, e.target = target → e.faddr ≠ faddr) →
        Completes (.eccCandidate x target kind faddr addr t) s fun m =>
          rest m ∧ (m.lane x).test.ecc = seen ∧
          (m.lane x).mram = repairWrite l.mram (repairEnts l.mram ++ [⟨target, kind, 0xFF, 5, faddr, m0.laneTime x / 1000000000 % 2 ^ 32⟩]))) ∧
    (s.m.inService = true → l.voting = true → l.test.slices.length = 32 → l.test.incomplete.length = 32 →
      Completes (.sliceIncomplete x t) s fun m =>
        let k := s.m.cycle % 32
        rest m ∧ ((m.lane x).test.slices.getD k SliceRec.zero).verdict = 2 ∧ (m.lane x).test.incomplete.getD k 0 = l.test.incomplete.getD k 0 + 1 ∧
        (3 ≤ l.test.incomplete.getD k 0 → (m.lane x).test.bist = .overrun) ∧ (m.lane x).voting = true) ∧
    (∀ w both sil lat,
      (l.lct.ctrl.getLsbD 0 = true → Completes (.lctInjGo x w both sil lat t) s fun m =>
        rest m ∧ (m.lane x).lct.inj = w &&& 0x3FFF#32 ∧ (m.lane x).lct.injres = BitVec.ofNat 32 (b2n both + 2 * b2n sil + 16 * (lat % 16) + 2 ^ 31) ∧
        (m.lane x).silent = (l.silent || sil) ∧ (m.lane x).lct.irq.getLsbD 3 = true ∧
        (m.lane x).lct.errcap = (if both = true ∧ sil = true ∧ lat ≤ 2 then l.lct.errcap else captureErr l.lct.errcap 4 4)) ∧
      (l.lct.ctrl.getLsbD 0 = false → Completes (.lctInjGo x w both sil lat t) s fun m => m.lanes = s.m.lanes)) ∧
    (l.lct.ctrl.getLsbD 0 = true → Completes (.lctSilclr x t) s fun m => rest m ∧ m.lane x = { l with silent := false, stopped := !l.released }) ∧
    (l.lct.ctrl.getLsbD 0 = false → Completes (.lctSilclr x t) s fun m => m.lanes = s.m.lanes) ∧
    (Completes (.lctErrcapRead x t) s fun m =>
      rest m ∧ m.lane x = { l with readData := l.lct.errcap.toNat, lct := { l.lct with errcap := 0, errcapLr := l.lct.errcap } }) ∧
    Completes (.npReadDiscard x t) s fun m => rest m ∧ m.lane x = { l with lct := { l.lct with errcap := captureErr l.lct.errcap 5 3 } }

/-! ### Jade's mailboxes -/

/-- 14_jade_mailboxes.md R395 to R402, R404 to R406, R408, R410; 15_lifecycle_identity_update.md R424, R431, R435: connections open and close; a request is answered once, in its turn, with the first
status that applies; a response leaves while the ring has room; a forward waits 2 s, a lock and its like 10 minutes; a restart follows its response by 100 ms. -/
def Obligations.RequestsAreTakenOrTurnedAway : Prop :=
  ∀ (s : State) (code tr t : Nat) (req : MbReq),
    let m0 := s.m.advance t
    let j := s.m.jade
    let c := j.conn tr
    let turned (status : Nat) : Prop :=
      Completes (.unknownCommandCode code req t) s (m0.Answers code req status 0 0 []) ∧ (∀ u, exec (.unknownCommandCode code req t) s = .next u → u.m.lanes = s.m.lanes)
    (tr = 1 ∨ tr = 2 → j.mode ≠ .off → c.isOpen = false → s.m.power.sect tr = .running → (tr = 2 → s.m.power.slotBad = false) →
      Completes (.connectionOpen tr t) s fun m => (m.jade.conn tr).isOpen = true ∧ (m.jade.conn tr).consumed = 0 ∧ (m.jade.conn tr).written = 0 ∧ (m.jade.conn tr).ready = []) ∧
    (s.m.power.slotBad = true → exec (.connectionOpen 2 t) s = .next { s with m := m0 }) ∧
    (tr = 1 ∨ tr = 2 → c.isOpen = true → j.restart = none →
      Completes (.connectionLost tr t) s fun m =>
        (m.jade.conn tr).isOpen = false ∧ (m.jade.conn tr).ready = [] ∧ (m.jade.conn tr).jobs.length = c.jobs.length ∧ ∀ k ∈ (m.jade.conn tr).jobs, k.lost = true) ∧
    (tr = 1 ∨ tr = 2 → s.m.connOpen tr = true → j.restart = none →
      Completes (.mailboxRequestError tr t) s fun m => (m.jade.conn tr).isOpen = false ∧ (m.jade.conn tr).errors = c.errors + 1) ∧
    (∀ r rest, s.m.connOpen tr = true → c.jobs = [] → c.ready = r :: rest →
      (c.written < c.rspcons + 256 → j.restart = none → Completes (.mailboxResponseSend tr t) s fun m =>
        m.sent = s.m.sent ++ [⟨m0.clock, .mailbox tr, m0.responseBytes c r⟩] ∧ (m.jade.conn tr).ready = rest ∧ (m.jade.conn tr).written = c.written + 1) ∧
      (c.rspcons + 256 ≤ c.written → Completes (.mailboxResponseSend tr t) s fun m => m.sent = s.m.sent ∧ (m.jade.conn tr).ready = r :: rest)) ∧
    (s.m.connOpen req.tr = true → (j.conn req.tr).jobs = [] → cmdInfo code = none →
      ((∀ r ∈ (j.conn req.tr).ready, r.tag ≠ req.tag) → turned 0x01) ∧ (∀ r ∈ (j.conn req.tr).ready, r.tag = req.tag → turned 0x07)) ∧
    (s.m.connOpen req.tr = true → (j.conn req.tr).jobs = [] → (∀ r ∈ (j.conn req.tr).ready, r.tag ≠ req.tag) → req.partner = true →
      (req.tr = 3 → j.mode = .running → Completes (.idRead req t) s (m0.Answers 0x0101 req 0x06 0 0 [])) ∧
      (req.tr ≠ 3 → s.m.pair.linkUp = false → Completes (.idRead req t) s (m0.Answers 0x0101 req 0x14 0 0 [])) ∧
      (∀ a, req.tr ≠ 3 → s.m.pair.linkUp = true → req.peer = some a → Completes (.idRead req t) s (m0.Answers 0x0101 req a.status a.detail 0 a.payload)) ∧
      (req.tr ≠ 3 → s.m.pair.linkUp = true → req.peer = none → Completes (.idRead req t) s (m0.RunsOn 0x0101 req))) ∧
    (s.m.connOpen req.tr = true → (j.conn req.tr).jobs = [] → (∀ r ∈ (j.conn req.tr).ready, r.tag ≠ req.tag) → req.partner = false →
      (j.mode = .romService → Completes (.lcRead req t) s (m0.Answers 0x0201 req 0x15 0 0 [])) ∧
      (j.mode = .running → j.lc ≠ .lab → Completes (.laneSplit req t) s (m0.Answers 0x0707 req 0x04 0 0 [])) ∧
      (j.mode = .running → req.tr = 3 → Completes (.lcRead req t) s (m0.Answers 0x0201 req 0x06 0 0 [])) ∧
      (j.mode = .running → req.tr ≠ 3 → j.lc ≠ .retired → s.m.inService = false → Completes (.forceList req t) s (m0.Answers 0x0801 req 0x05 0 0 []))) ∧
    (∀ k, c.jobs = [k] → k.forwarded = true → k.started = true → k.req.tr = tr → k.lost = false → tr = 1 ∨ tr = 2 ∨ tr = 3 →
      (k.since + 2000000000 ≤ m0.clock → Completes (.partnerForwardTimeout tr k.req.tag t) s fun m =>
        (m.jade.conn tr).ready = c.ready ++ [⟨k.cmd, k.req.tag, 0x14, 0, 0, []⟩] ∧ (m.jade.conn tr).jobs = []) ∧
      (m0.clock < k.since + 2000000000 → exec (.partnerForwardTimeout tr k.req.tag t) s = .next { s with m := m0 })) ∧
    (∀ e, j.session = some e →
      (e.lastAt + 600000000000 ≤ m0.clock → exec (.updateLockIdle t) s = .next { s with m := { m0 with jade := { j with session := none } } }) ∧
      (m0.clock < e.lastAt + 600000000000 → exec (.updateLockIdle t) s = .next { s with m := m0 })) ∧
    (∀ r, j.reports.find tr = some r → r.at' + 600000000000 ≤ m0.clock →
      exec (.attestReportExpire tr t) s = .next { s with m := { m0 with jade := { j with reports := j.reports.del tr } } }) ∧
    (exec (.tokenExpire t) s = .next { s with m := { m0 with jade := { j with tokens := j.tokens.filter fun k => decide (m0.clock < k.at' + 600000000000) } } }) ∧
    (∀ r u, j.restart = some r → r.sentAt = some u →
      (u + 100000000 ≤ m0.clock → Completes (.restartDelayExpire t) s fun m =>
        m.service = .starting ∧ m.role = 0 ∧ m.procs = Procs.reset ∧ m.jade.mode = .off ∧ m.jade.restart = none ∧ m.jade.session = none ∧ m.restart.cold = (r.kind == 2) ∧
        m.sid = s.m.sid ∧ m.bootAt = m0.clock ∧ m.voters = []) ∧
      (m0.clock < u + 100000000 → exec (.restartDelayExpire t) s = .next { s with m := m0 })) ∧
    (s.m.confirm.lockUntil ≠ 0 →
      (s.m.confirm.lockUntil ≤ m0.clock → exec (.spsLockoutEnd t) s = .next { s with m := { m0 with confirm := ⟨0, 0⟩ } }) ∧
      (m0.clock < s.m.confirm.lockUntil → exec (.spsLockoutEnd t) s = .next { s with m := m0 }))

/-- 14_jade_mailboxes.md R409, R410, R411, R413 and the tables of its groups 0x01 to 0x0A; 15_lifecycle_identity_update.md R424; 17_amber_recorder.md R469: each command that only reads is answered OK
with the record its table gives; a read outside the record is BAD_ARG, one of nothing NOT_FOUND. -/
def Obligations.ReadCommandsAnswerTheirRecords : Prop :=
  ∀ (s : State) (req : MbReq) (t : Nat),
    let m0 := s.m.advance t
    let j := s.m.jade
    let p := req.payload
    let le := Bytes.le p
    let ok (code : Nat) (b : Bytes) : Mod → Prop := m0.Answers code req 0 0 0 b
    let bad (code status : Nat) : Mod → Prop := m0.Answers code req status 0 0 []
    let rd := s.m.lane s.m.reader
    (p = [] → s.m.Takes 0x0101 req → Completes (.idRead req t) s (ok 0x0101 m0.identity)) ∧
    (p ≠ [] → s.m.Takes 0x0101 req → Completes (.idRead req t) s (bad 0x0101 0x02)) ∧
    (p = [] → s.m.Takes 0x0102 req → Completes (.idKey req t) s (ok 0x0102 (leBytes 2 2592 ++ leBytes 2 0 ++ Bytes.pad Config.identityKey 2592))) ∧
    (s.m.Takes 0x0104 req → p.length = 12 →
      (j.reports.find req.tr = none → Completes (.attestRead req t) s (bad 0x0104 0x11)) ∧
      (∀ r, j.reports.find req.tr = some r → r.rid = le 0 4 → m0.clock < r.at' + 600000000000 →
        (le 8 2 ≤ 4032 → le 10 2 = 0 → le 4 4 + le 8 2 ≤ 11479 → Completes (.attestRead req t) s (ok 0x0104 (Bytes.sub r.body (le 4 4) (le 8 2)))) ∧
        (4032 < le 8 2 ∨ 11479 < le 4 4 + le 8 2 → Completes (.attestRead req t) s (bad 0x0104 0x03)))) ∧
    (p = [] → s.m.Takes 0x0105 req → Completes (.imgList req t) s (ok 0x0105 j.imgList)) ∧
    (p = [] → s.m.Takes 0x0201 req → Completes (.lcRead req t) s (ok 0x0201 (leBytes 1 j.lc.code ++ leBytes 1 s.m.service.code
      ++ leBytes 1 (claimOf s.m.obx.claim).role ++ leBytes 1 s.m.restart.kind ++ leBytes 2 s.m.heldCause ++ leBytes 2 0 ++ leBytes 8 (m0.clock - s.m.power.goodAt)))) ∧
    (p = [] → s.m.Takes 0x0306 req → j.session = none → Completes (.updStatus req t) s (ok 0x0306 (leBytes 16 0))) ∧
    (∀ e, p = [] → s.m.Takes 0x0306 req → j.session = some e →
      ∃ rcv, Completes (.updStatus req t) s (ok 0x0306 (leBytes 1 e.holder ++ leBytes 3 0 ++ leBytes 4 e.id ++ leBytes 4 ((m0.clock - e.lastAt) / 1000000000) ++ leBytes 4 rcv))) ∧
    (s.m.Takes 0x0307 req → p.length = 4 → 1 ≤ le 0 1 → le 0 1 ≤ 8 → le 1 1 = 0 → le 2 2 = 0 →
      (∀ b, (j.img (le 0 1)).running = some b → Completes (.imgInfo req t) s (ok 0x0307 (b.bytes 0 4064))) ∧
      ((j.img (le 0 1)).running = none → Completes (.imgInfo req t) s (bad 0x0307 0x11))) ∧
    (s.m.Takes 0x0308 req → p.length = 8 →
      (rd.rt.result = none → Completes (.chgRead req t) s (bad 0x0308 0x11)) ∧
      (∀ r, rd.rt.result = some r → le 4 2 ≤ 4032 → le 6 2 = 0 → le 0 4 + le 4 2 ≤ r.bytes.length → Completes (.chgRead req t) s (ok 0x0308 (Bytes.sub r.bytes (le 0 4) (le 4 2))))) ∧
    (s.m.Takes 0x0401 req → p.length = 4 → le 2 2 = 0 →
      (∀ i, settingInfo (le 0 2) = some i → Completes (.setRead req t) s (ok 0x0401 (leBytes 2 (le 0 2) ++ leBytes 2 i.1 ++ Bytes.pad (j.stored s.m.sid (le 0 2)) i.1))) ∧
      (settingInfo (le 0 2) = none → Completes (.setRead req t) s (bad 0x0401 0x03))) ∧
    (s.m.Takes 0x0403 req →
      (s.m.full = false → Completes (.spsList req t) s (bad 0x0403 0x16)) ∧
      (s.m.full = true → p.length = 4 → le 0 2 ≤ 1728 → le 2 2 = 0 → Completes (.spsList req t) s (ok 0x0403 ((Bytes.pad s.m.lio.sps 1728).drop (le 0 2) ++ Bytes.pad s.m.lio.spscv 8)))) ∧
    (p = [] → s.m.Takes 0x0502 req → ∃ mw, Completes (.pwrStatus req t) s (ok 0x0502 ((List.range 12).flatMap (fun d => leBytes 1 (s.m.power.dom s.m.full d)) ++ leBytes 4 0
      ++ leBytes 1 s.m.power.x1.status ++ leBytes 1 s.m.power.x2.status ++ leBytes 2 0 ++ leBytes 4 mw))) ∧
    (p = [] → s.m.Takes 0x0601 req → Completes (.recInfo req t) s (ok 0x0601 (leBytes 4 s.m.amber.oldest ++ leBytes 4 s.m.amber.newest ++ leBytes 4 (min s.m.amber.count amberSlots)
      ++ leBytes 4 amberSlots ++ leBytes 4 s.m.amber.suppr))) ∧
    (s.m.Takes 0x0602 req → p.length = 8 → le 5 1 = 0 →
      (le 4 1 = 0 ∨ 63 < le 4 1 → Completes (.recRead req t) s (bad 0x0602 0x03)) ∧
      (1 ≤ le 4 1 → le 4 1 ≤ 63 → s.m.amber.count = 0 → seqLater s.m.amber.oldest (le 0 4) = false →
        Completes (.recRead req t) s (ok 0x0602 (leBytes 4 s.m.amber.newest ++ leBytes 4 s.m.amber.oldest ++ leBytes 4 s.m.amber.newest ++ leBytes 4 (le 0 4) ++ leBytes 2 0 ++ leBytes 2 0)))) ∧
    (p = [] → s.m.Takes 0x0701 req → Completes (.laneStatus req t) s (ok 0x0701 (m0.laneStatus .a ++ m0.laneStatus .b ++ m0.laneStatus .c))) ∧
    (∀ x, s.m.Takes 0x0702 req → p.length = 4 → laneOf (le 0 1) = some x → le 1 1 ≤ 31 → le 2 2 = 0 →
      Completes (.sliceRead req t) s (ok 0x0702 (((s.m.lane x).test.slices.getD (le 1 1) SliceRec.zero).bytes (le 1 1)))) ∧
    (∀ x, s.m.Takes 0x0704 req → p.length = 4 → laneOf (le 0 1) = some x →
      (repairBytes (s.m.lane x).mram = none → Completes (.repairRead req t) s (bad 0x0704 0x11)) ∧
      (∀ b, repairBytes (s.m.lane x).mram = some b → le 1 1 = 0 → le 2 2 ≤ b.length → Completes (.repairRead req t) s (ok 0x0704 ((b.drop (le 2 2)).take 4032)))) ∧
    (s.m.Takes 0x070B req → p.length = 4 → 1 ≤ le 0 2 → le 2 2 ≤ 1000 → le 0 2 + le 2 2 ≤ 1001 →
      Completes (.obxStatus req t) s (ok 0x070B (leBytes 1 s.m.obx.chA.state ++ leBytes 1 s.m.obx.chB.state ++ leBytes 2 0
        ++ (List.range (le 2 2)).flatMap fun i => leBytes 4 (s.m.obx.nodest (le 0 2 + i) (rd.nodeVer s.m.obx.bk (le 0 2 + i))).toNat))) ∧
    (s.m.Takes 0x070C req →
      (s.m.full = false → Completes (.lioStatus req t) s (bad 0x070C 0x16)) ∧
      (s.m.full = true → p = [] → Completes (.lioStatus req t) s (ok 0x070C ((List.range 96).flatMap (fun c => leBytes 4 (s.m.lio.chst c))
        ++ (List.range 48).flatMap (fun o => leBytes 4 (s.m.lio.outst s.m.can o)) ++ leBytes 4 s.m.lio.tpst ++ leBytes 4 s.m.lio.bankst)))) ∧
    (s.m.ph ≠ .idle → s.m.Takes 0x0801 req → p.length = 4 → le 2 2 = 0 → Completes (.forceList req t) s (m0.RunsOn 0x0801 req)) ∧
    (s.m.ph = .idle →
      (s.m.Takes 0x0801 req → p.length = 4 → le 2 2 = 0 → rd.rt.forces = [] → Completes (.forceList req t) s (ok 0x0801 (leBytes 8 s.m.cycle ++ leBytes 2 0 ++ leBytes 2 0 ++ leBytes 4 0))) ∧
      (s.m.Takes 0x0802 req → le 0 2 = 1 → p.length = 8 → le 2 2 = 0 →
        (∀ v, rd.varValue (le 4 4) = some v → Completes (.varRead req t) s (ok 0x0802 (leBytes 8 s.m.cycle ++ leBytes 8 v))) ∧
        (rd.varValue (le 4 4) = none → Completes (.varRead req t) s (m0.Answers 0x0802 req 0 1 0 (leBytes 8 s.m.cycle ++ leBytes 8 0xFFFFFFFFFFFFFFFF)))) ∧
      (s.m.Takes 0x0803 req → p.length = 4 → le 1 3 = 0 →
        (le 0 1 < 32 → Completes (.planeRead req t) s (ok 0x0803 (leBytes 8 s.m.cycle ++ leBytes 2048 (rd.beryl.el.get (le 0 1)).toNat))) ∧
        (0x80 ≤ le 0 1 → le 0 1 ≤ 0x8F → Completes (.planeRead req t) s (ok 0x0803 (leBytes 8 s.m.cycle ++ leBytes 512 (rd.beryl.rt.get (le 0 1 - 0x80)).toNat))))) ∧
    (p = [] → s.m.Takes 0x0901 req → ∃ ptp, Completes (.timeRead req t) s (ok 0x0901 (leBytes 8 m0.now ++ leBytes 1 s.m.time.source ++ leBytes 1 (b2n s.m.time.verified) ++ leBytes 1 ptp
      ++ leBytes 1 s.m.time.ptpPort ++ leBytes 8 (s.m.time.ptpDelta % 2 ^ 64).toNat ++ leBytes 4 s.m.obx.syncReg.toNat ++ leBytes 4 s.m.obx.rateReg.toNat))) ∧
    (∀ q, p = [] → s.m.Takes 0x0A01 req → s.m.pair.partner = some q → Completes (.pairStatus req t) s (ok 0x0A01 (leBytes 8 s.m.obx.claim ++ leBytes 8 q.claim ++ leBytes 4 rd.pcc ++ leBytes 4 q.pcc
      ++ leBytes 8 s.m.pair.lastChange ++ leBytes 1 (b2n s.m.pair.overdueAt.isSome + 2 * b2n s.m.pair.linkUp + 4 * b2n s.m.pair.heldCold) ++ leBytes 1 s.m.pairReason
      ++ leBytes 1 (min 255 (s.m.pair.divergences.filter fun d => decide (m0.clock < d + 86400000000000)).length) ++ leBytes 1 0)))

/-- 14_jade_mailboxes.md R403, R409 to R413 and its group tables; 15_lifecycle_identity_update.md R416, R417, R424, R425, R431, R435; 09_local_safety_io.md R290; 13_startup_and_self_test.md R392 to R394; 07_opbex.md R198;
11_module_pair.md R349: each command that acts changes what its table says and is answered; one whose condition fails is answered with its reason and changes nothing. -/
def Obligations.ActingCommandsChangeWhatTheyName : Prop :=
  ∀ (s : State) (req : MbReq) (t : Nat),
    let m0 := s.m.advance t
    let j := s.m.jade
    let p := req.payload
    let le := Bytes.le p
    let ok (code : Nat) (b : Bytes) : Mod → Prop := m0.Answers code req 0 0 0 b
    let no (code status detail : Nat) : Mod → Prop := m0.Answers code req status detail 0 []
    (s.m.Takes 0x0103 req → p.length = 32 →
      Completes (.attest req t) s fun m => ∃ r, m.jade.reports.find req.tr = some r ∧ r.at' = m0.clock ∧ m.jade.reportCnt = j.reportCnt + 1 ∧ ok 0x0103 (leBytes 4 r.rid ++ leBytes 4 11479) m) ∧
    (s.m.Takes 0x0202 req → p.length = 52 →
      (∀ e, j.session = some e → Completes (.lcSet req t) s (m0.Answers 0x0202 req 0x08 0 e.holder [])) ∧
      (∀ target k op st, j.session = none → lcOf (le 0 1) = some target → le 1 3 = 0 → j.lc ≠ .retired →
        (j.tokens.find? fun k => k.digest == Bytes.sub p 4 48 && decide (m0.clock < k.at' + 600000000000)) = some k → k.names serialNo j.lcCount = true → k.kind = 1 → k.target = target.code →
        k.rootsel = 3 → op = true →
        ((lcTable.find? fun r => r.1 == j.lc && r.2.1 == target) = some (j.lc, target, op, st, true) → k.from' = j.lc.code → s.m.inService = true → s.m.role ≠ roleHOT →
          (s.m.role = roleACTIVE → s.m.pair.partnerHot = false) → (target = .operate → s.m.operateBar = 0) →
          Completes (.lcSet req t) s fun m => m.lcWait = some ⟨target, s.m.cycle + 1, k.signer⟩ ∧ m.jade.tokens = j.tokens.filter (· ≠ k) ∧ m.jade.lc = j.lc ∧ ok 0x0202 [] m) ∧
        ((lcTable.find? fun r => r.1 == j.lc && r.2.1 == target) = some (j.lc, target, op, st, false) → k.from' = j.lc.code → target ≠ .operate → (j.lc = .operate → s.m.service = .held) →
          Completes (.lcSet req t) s fun m => m.jade.lcPending = some (target, k.signer) ∧ m.jade.restart = some ⟨1, req.tr, req.tag, none⟩ ∧ m.jade.lc = j.lc ∧ ok 0x0202 [] m) ∧
        (j.lc ≠ target → (lcTable.find? fun r => r.1 == j.lc && r.2.1 == target).isSome = true → k.from' ≠ j.lc.code →
          Completes (.lcSet req t) s fun m => m.jade.tokens = j.tokens ∧ m.lcWait = s.m.lcWait ∧ no 0x0202 0x0A 0 m))) ∧
    (s.m.Takes 0x0203 req → p.length = 4 → le 0 1 = 1 → le 1 3 = 0 → j.session = none →
      (j.lc = .operate → s.m.service ≠ .held → s.m.role = roleACTIVE → Completes (.restart req t) s (no 0x0203 0x05 1)) ∧
      (j.lc ≠ .operate → j.restart = none → Completes (.restart req t) s fun m => m.jade.restart = some ⟨1, req.tr, req.tag, none⟩ ∧ m.service = s.m.service ∧ ok 0x0203 [] m)) ∧
    (s.m.Takes 0x0301 req → p.length = 4 → le 0 1 = 0 → le 1 3 = 0 →
      (j.session = none → Completes (.updOpen req t) s fun m =>
        ∃ id, m.jade.session = some ⟨req.tr, id, false, m0.clock, []⟩ ∧ id < 2 ^ 32 ∧ ok 0x0301 (leBytes 4 id) m) ∧
      (∀ e, j.session = some e → Completes (.updOpen req t) s fun m => m.jade.session = some e ∧ m0.Answers 0x0301 req 0x08 0 e.holder [] m)) ∧
    (∀ e, j.session = some e → e.holder = req.tr → e.id = req.session → e.prop = false →
      (∀ b, s.m.Takes 0x0302 req → 8 ≤ p.length → 1 ≤ le 0 1 → le 0 1 ≤ 8 → le 1 3 = 0 → j.lc ≠ .retired → e.images.find (le 0 1) = some b →
        (le 4 4 = b.data.len → le 4 4 ≠ 0 → Completes (.updWrite req t) s fun m =>
          ∃ e', m.jade.session = some e' ∧ e'.images.find (le 0 1) = some ⟨⟨b.data.len + (p.length - 8), b.data.mem.wrBytes b.data.len (p.drop 8)⟩, false⟩ ∧ e'.lastAt = m0.clock ∧ ok 0x0302 [] m) ∧
        (le 4 4 ≠ b.data.len → le 4 4 ≠ 0 → Completes (.updWrite req t) s fun m =>
          m.jade.session = some { e with lastAt := m0.clock } ∧ m0.Answers 0x0302 req 0x03 b.data.len 0 [] m)) ∧
      (∀ b, s.m.Takes 0x0303 req → p.length = 4 → le 1 3 = 0 → e.images.find (le 0 1) = some b →
        let v := j.verify (hwType s.m.full) b.data (le 0 1) (Jade.fmtFor (j.would e 2) (le 0 1) b.data) (j.genOk (le 0 1) b.data)
        Completes (.updVerify req t) s fun m =>
          (v.1 = 0 → ∃ e' pl, m.jade.session = some e' ∧ e'.images.find (le 0 1) = some ⟨b.data, true⟩ ∧ ok 0x0303 pl m) ∧
          (v.1 ≠ 0 → m.jade.session = some { e with lastAt := m0.clock } ∧ no 0x0303 v.1 v.2 m)) ∧
      (s.m.Takes 0x0304 req → p.length = 4 → le 1 3 = 0 → le 0 1 = 1 →
        (s.m.commitBar e 1 ≠ 0 → Completes (.updCommit req t) s fun m => m.jade.session = some { e with lastAt := m0.clock } ∧ no 0x0304 0x10 (s.m.commitBar e 1) m) ∧
        (∀ ty b, s.m.commitBar e 1 = 0 → e.images = [(ty, b)] → 1 ≤ ty → ty ≤ 6 → Completes (.updCommit req t) s fun m =>
          m.jade.session = none ∧ (m.jade.img ty).pending = some b.data ∧ (m.jade.img ty).running = (j.img ty).running ∧ m.jade.marker = true ∧ ok 0x0304 [] m)) ∧
      (s.m.Takes 0x0304 req → p.length = 4 → le 1 3 = 0 → le 0 1 = 2 → j.lc = .operate → s.m.commitBar e 2 = 0 →
        Completes (.updCommit req t) s fun m => m.jade.session = none ∧ m.jade.staged = e.images.map (fun q => (q.1, q.2.data)) ∧ m0.RunsOn 0x0304 req m) ∧
      (s.m.Takes 0x0305 req → p = [] → Completes (.updAbort req t) s fun m => m.jade.session = none ∧ m.jade.imgs = j.imgs ∧ ok 0x0305 [] m)) ∧
    (∀ i, s.m.Takes 0x0402 req → p.length = 4 + le 2 2 → settingInfo (le 0 2) = some i → i.2.2.contains j.lc = true → req.tr ≠ 3 → i.2.1 = false →
      (le 2 2 = i.1 → settingOk (le 0 2) (p.drop 4) = true → Completes (.setWrite req t) s fun m =>
        m.jade.settings.find (le 0 2) = some (p.drop 4) ∧ m.jade.inForce = j.inForce ∧ ok 0x0402 [] m) ∧
      (le 2 2 ≠ i.1 ∨ settingOk (le 0 2) (p.drop 4) = false → Completes (.setWrite req t) s fun m => m.jade.settings = j.settings ∧ no 0x0402 0x03 0 m)) ∧
    (∀ v, s.m.Takes 0x0404 req → s.m.full = true → cvOf p = some v → s.m.confirm.lockUntil = 0 →
      let same := s.m.lio.spscv = v ∧ s.m.lio.spsOk = true ∧ ∀ x ∈ s.m.present, spsValue (s.m.lane x).sps = v
      let n := s.m.confirm.refusals + 1
      (s.m.present.length < 2 → Completes (.spsConfirm req t) s (no 0x0404 0x13 0)) ∧
      (2 ≤ s.m.present.length → Completes (.spsConfirm req t) s fun m =>
        (same → m.confirm = ⟨0, 0⟩ ∧ (∀ x ∈ s.m.present, (m.lane x).mram = ((s.m.lane x).confirmWrite (m0.laneTime x)).mram) ∧ no 0x0404 0 0 m) ∧
        (¬ same → m.confirm = ⟨n, if 3 ≤ n then m0.clock + 600000000000 else 0⟩ ∧ m.lanes = s.m.lanes ∧ no 0x0404 0x0E (3 - n) m))) ∧
    (s.m.Takes 0x0501 req → p.length = 8 → isGroup true (le 0 1) = true → le 1 3 = 0 →
      (isGroup s.m.full (le 0 1) = true → Completes (.pwrHint req t) s fun m => SMap.get 0 m.jade.hints (le 0 1) = le 4 4 ∧ ok 0x0501 [] m) ∧
      (isGroup s.m.full (le 0 1) = false → Completes (.pwrHint req t) s fun m => m.jade.hints = j.hints ∧ no 0x0501 0x16 0 m)) ∧
    (s.m.Takes 0x0603 req → p.length = 36 → Completes (.recMark req t) s fun m => ok 0x0603 (leBytes 4 m.amber.newest) m ∧ m.lanes = s.m.lanes) ∧
    (∀ fail x, s.m.Takes 0x0703 req → p.length = 8 → targetOk (le 0 4) = true → le 4 1 = 1 → le 5 3 = 0 → laneOf (bits (le 0 4) 31 28) = some x →
      (j.lc = .maintain → s.m.bistWait = none → Completes (.bistRun req fail t) s fun m => m.bistWait = some (x, m0.clock) ∧ m.lanes = s.m.lanes ∧ m0.RunsOn 0x0703 req m) ∧
      (j.lc = .maintain → s.m.bistWait.isSome = true → Completes (.bistRun req fail t) s fun m => m.bistWait = s.m.bistWait ∧ no 0x0703 0x10 1 m) ∧
      (j.lc = .lab → fail = none → Completes (.bistRun req fail t) s fun m => (m.lane x).test.bist = .passed ∧ (m.lane x).voting = false ∧ ok 0x0703 (leBytes 8 0) m)) ∧
    (∀ x, p.length = 4 → laneOf (le 0 1) = some x → le 1 3 = 0 →
      let l := s.m.lane x
      let q := fuseAll (repairEnts l.mram) l.test.fuses
      (s.m.Takes 0x0705 req → j.lc = .manufacture → Completes (.repairFuse req t) s fun m =>
        (m.lane x).test.fuses = q.2 ∧ ok 0x0705 (leBytes 2 (q.2.length - l.test.fuses.length) ++ leBytes 2 (64 - q.2.length)) m) ∧
      (s.m.Takes 0x0705 req → j.lc = .maintain → s.m.rotation = none → Completes (.repairFuse req t) s fun m => m.lanes = s.m.lanes ∧ no 0x0705 0x10 2 m) ∧
      (s.m.Takes 0x0706 req → l.heldOut = true → Completes (.laneReadmit req t) s fun m =>
        m.lane x = { l with heldOut := false, exits := [], rejoin := true } ∧ (∀ y, y ≠ x → m.lane y = s.m.lane y) ∧ ok 0x0706 [] m) ∧
      (s.m.Takes 0x0706 req → l.heldOut = false → Completes (.laneReadmit req t) s fun m => m.lanes = s.m.lanes ∧ no 0x0706 0x10 3 m)) ∧
    (∀ x, s.m.Takes 0x0707 req → p.length = 4 → laneOf (le 0 1) = some x → le 1 1 ≤ 1 → le 2 2 = 0 →
      Completes (.laneSplit req t) s fun m => m.lane x = { s.m.lane x with splitNext := le 1 1 == 1 } ∧ (∀ y, y ≠ x → m.lane y = s.m.lane y) ∧ ok 0x0707 [] m) ∧
    (s.m.Takes 0x0708 req → s.m.full = true → p.length = 4 → le 2 2 = 0 →
      (le 0 1 ≤ 1 → le 1 1 < (if le 0 1 = 0 then 96 else 48) → Completes (.lioReset req t) s fun m => m.lio = s.m.lio.faultReset (le 0 1) (le 1 1) ∧ m.lanes = s.m.lanes ∧ ok 0x0708 [] m) ∧
      (1 < le 0 1 → Completes (.lioReset req t) s fun m => m.lio = s.m.lio ∧ no 0x0708 0x03 0 m)) ∧
    (s.m.Takes 0x0709 req → p.length = 4 → le 0 1 = 0 → le 1 1 = 0 →
      (le 2 2 ∈ s.m.obx.bk.used → Completes (.portEnable req t) s fun m => m.obx = s.m.obx.enablePort .a (le 2 2) ∧ ok 0x0709 [] m) ∧
      (le 2 2 ∉ s.m.obx.bk.used → Completes (.portEnable req t) s fun m => m.obx = s.m.obx ∧ no 0x0709 0x11 0 m)) ∧
    (s.m.Takes 0x070A req → p.length = 4 → le 2 1 = 0 → s.m.obx.acycFor = none →
      (le 0 2 ∈ s.m.obx.bk.used → Completes (.nodeDiag req t) s fun m =>
        m.obx.acycFor = some (le 0 2, req.tr * 256 + req.tag) ∧ m0.RunsOn 0x070A req m ∧
        m.sent = s.m.sent ++ [⟨m0.clock, .opbex .a, acycFrame (le 0 2) (le 3 1) s.m.obx.mcn (Config.farLinkKey (modAddr s.m.sid))⟩]) ∧
      (le 0 2 ∉ s.m.obx.bk.used → Completes (.nodeDiag req t) s fun m => m.obx = s.m.obx ∧ m.sent = s.m.sent ∧ no 0x070A 0x11 0 m)) ∧
    (∀ k tr tag d body, s.m.obx.acycFor = some (k, tr * 256 + tag) → tag < 256 → tr = 1 ∨ tr = 2 → (j.conn tr).jobs = [d] → d.cmd = 0x070A → d.started = true → d.req.tag = tag → d.req.tr = tr → d.lost = false →
      Completes (.acyrReceive k body t) s fun m =>
        (m.jade.conn tr).ready = (j.conn tr).ready ++ [⟨0x070A, tag, 0, 0, 0, body⟩] ∧ (m.jade.conn tr).jobs = [] ∧ m.obx.acycFor = none) ∧
    (s.m.Takes 0x0804 req → p = [] → Completes (.ledTest req t) s fun m => m.jade.ledUntil = some (m0.clock + 5000000000) ∧ m.lanes = s.m.lanes ∧ ok 0x0804 [] m) ∧
    (s.m.Takes 0x0902 req → p.length = 4 → le 1 3 = 0 →
      (le 0 1 ≤ 127 → Completes (.ptpDomain req t) s fun m => m.jade.settings.find ptpId = some (leBytes 1 (le 0 1)) ∧ ok 0x0902 [] m) ∧
      (127 < le 0 1 → Completes (.ptpDomain req t) s fun m => m.jade.settings = j.settings ∧ no 0x0902 0x03 0 m)) ∧
    (s.m.Takes 0x0A02 req → p = [] → s.m.pair.swap = none →
      (s.m.swapBar ≠ 0 → Completes (.swap req t) s fun m => m.pair = s.m.pair ∧ no 0x0A02 0x10 s.m.swapBar m) ∧
      (s.m.swapBar = 0 → Completes (.swap req t) s fun m => m.pair.swap = some ⟨s.m.obx.mcn + 4, .offered, 0, false, true⟩ ∧ m0.RunsOn 0x0A02 req m)) ∧
    (s.m.Takes 0x0A03 req → p = [] → Completes (.pairReadmit req t) s fun m => m.pair = { s.m.pair with heldCold := false, divergences := [] } ∧ ok 0x0A03 [] m)

/-! ### Movers, checks and crossings -/

/-- 16_movers_checks_crossings.md R444 to R447, R450, R451, R456, R457, R459, R460: a hand-over takes the shadow of an armed channel or ends the block; PAUSE, ABORT and an error stop a channel as their
rule says; GO starts a job and its end compares, counts and raises FGDONE; a pass counts; a crossing timeout is noted, or silences a lane whose own clock stopped. -/
def Obligations.MoversChecksAndCrossings : Prop :=
  ∀ (s : State) (x : Lane) (k t : Nat),
    let m0 := s.m.advance t
    let l := s.m.lane x
    let c := l.tdm.chan k
    let u := l.scu
    let others (m : Mod) : Prop := m.service = s.m.service ∧ ∀ y, y ≠ x → m.lane y = s.m.lane y
    let mems (m : Mod) : Prop := (m.lane x).tcm = l.tcm ∧ (m.lane x).dram = l.dram ∧ (m.lane x).beryl = l.beryl
    let chan (m : Mod) : TdmChan := (m.lane x).tdm.chan k
    l.powered = true → l.tdm.ch.length = 8 → k < 8 →
    (Completes (.tdmCommit x k t) s fun m => others m ∧ mems m ∧ chan m = { c with commit := true }) ∧
    (l.tdm.en = false → Completes (.tdmHandover x k t) s fun m => others m ∧ mems m ∧ (m.lane x).tdm = l.tdm) ∧
    (l.tdm.en = true → c.st = .idle ∨ c.st = .aborted → c.commit = true → c.shadow.valid = true → c.pause = false →
      Completes (.tdmHandover x k t) s fun m =>
        others m ∧ mems m ∧ chan m = { c with active := c.shadow, commit := false, hover := (c.hover + 1) % 256, done := 0, err := 0, st := .running }) ∧
    (l.tdm.en = true → c.st = .idle ∨ c.st = .aborted → c.commit = true → c.shadow.valid = false →
      Completes (.tdmHandover x k t) s fun m => others m ∧ mems m ∧ (chan m).st = .error ∧ (chan m).err = 4 ∧ (m.lane x).tdm.irq.getLsbD (8 + k) = true) ∧
    (∀ d, l.tdm.en = true → c.st = .running → c.active.opc = 1 → c.commit = false → l.space.units c.active c.done c.remain = (d, c.done + c.remain, none) →
      Completes (.tdmHandover x k t) s fun m =>
        others m ∧ (m.lane x).tcm = d.tcm ∧ (m.lane x).dram = d.dram ∧ (chan m).st = .idle ∧ (chan m).hover = (c.hover + 1) % 256 ∧
        (c.active.irq = true → (m.lane x).tdm.irq.getLsbD k = true)) ∧
    (∀ d n, c.st = .running → l.space.units c.active c.done (min n c.remain) = (d, c.done + min n c.remain, none) →
      (Completes (.tdmPause x k n t) s fun m => others m ∧ (m.lane x).tcm = d.tcm ∧ (m.lane x).dram = d.dram ∧ chan m = { c with done := c.done + min n c.remain, pause := true, st := .paused }) ∧
      (l.portWait = [] → ∀ pd, Completes (.tdmAbort x k n pd t) s fun m =>
        others m ∧ (m.lane x).tcm = d.tcm ∧ (m.lane x).dram = d.dram ∧
        chan m = { c with done := c.done + min n c.remain, commit := false, st := .aborted, err := if pd = true then 7 else 8 }) ∧
      (∀ code, code ≠ 1 → Completes (.tdmError x k n code t) s fun m =>
        others m ∧ (chan m).st = .error ∧ (chan m).err = code ∧ (m.lane x).tdm.irq.getLsbD (8 + k) = true ∧ (m.lane x).silent = l.silent)) ∧
    (∀ n, c.st = .running → l.lct.fault = 0#32 → Completes (.tdmError x k n 1 t) s fun m => (m.lane x).lct.fault = 0x9020C#32 ∧ (m.lane x).offer = none) ∧
    (l.portWait = [] → c.st = .paused → c.remain ≠ 0 → Completes (.tdmResume x k t) s fun m => others m ∧ mems m ∧ chan m = { c with pause := false, st := .running }) ∧
    (∀ v : Word32, v.getLsbD 0 = true → l.portWait = [] → Completes (.tdmCtrlWrite x v t) s fun m => others m ∧ mems m ∧ (m.lane x).tdm = { l.tdm with ctrl := 1#32 }) ∧
    (∀ v : Word32, v.getLsbD 0 = false → Completes (.tdmCtrlWrite x v t) s fun m =>
      others m ∧ (m.lane x).tdm.ctrl = 0#32 ∧ (chan m).commit = false ∧ (chan m).st ≠ .running) ∧
    (Completes (.tdmErrcapRead x t) s fun m =>
      others m ∧ m.lane x = { l with readData := l.tdm.errcap.toNat, tdm := { l.tdm with errcapLr := l.tdm.errcap, errcap := 0 } }) ∧
    (u.fgBusy = false → Completes (.scuFgGo x t) s fun m => others m ∧ mems m ∧ (m.lane x).scu = { u with cfg := u.cfg ||| 0x80000000#32, mis := 0, miscnt := 0 }) ∧
    (u.fgBusy = true → Completes (.scuFgGo x t) s fun m => others m ∧ (m.lane x).scu = u) ∧
    (∀ v e, u.fgBusy = true → bits u.len.toNat 23 0 = 1 → bit u.cfg.toNat 10 = false → bit u.cfg.toNat 9 = true → u.mis.getLsbD 31 = false →
      l.space.blockValue u.start (2 ^ bits u.cfg.toNat 4 0) (bit u.cfg.toNat 8) u.seq 0 = .ok v → l.space.block u.exp 8 = .ok e →
      (Bytes.nat e = v → Completes (.scuFgDone x [] t) s fun m =>
        others m ∧ mems m ∧ (m.lane x).scu = { u with cfg := u.cfg &&& 0x7FFFFFFF#32, irq := u.irq ||| 1#32 }) ∧
      (Bytes.nat e ≠ v → Completes (.scuFgDone x [] t) s fun m =>
        others m ∧ mems m ∧ (m.lane x).scu.miscnt = BitVec.ofNat 32 (min 0xFFFFFF (u.miscnt.toNat + 1)) ∧ (m.lane x).scu.mis = 0x80000000#32 ∧
        (m.lane x).scu.irq = u.irq ||| 0xB#32 ∧ (m.lane x).scu.fgBusy = false ∧ (m.lane x).scu.errcap = captureErr u.errcap 4 2)) ∧
    (Completes (.scuBgEnable x t) s fun m => others m ∧ mems m ∧ (m.lane x).scu = { u with ctrl := u.ctrl ||| 1#32 }) ∧
    (∀ ecc, u.ctrl.getLsbD 0 = true → Completes (.scuBgPass x ecc t) s fun m =>
      others m ∧ mems m ∧ (m.lane x).scu.bgPass = (u.bgPass + 1) % 65536 ∧ (m.lane x).scu.bgPos = 0 ∧ (m.lane x).scu.irq.getLsbD 2 = true) ∧
    (∀ ecc, u.ctrl.getLsbD 0 = false → Completes (.scuBgPass x ecc t) s fun m => others m ∧ (m.lane x).scu = u) ∧
    (Completes (.scuErrcapRead x t) s fun m => others m ∧ m.lane x = { l with readData := u.errcap.toNat, scu := { u with errcapLr := u.errcap, errcap := 0 } }) ∧
    (l.lct.inReset.getLsbD k = true → ∀ own, exec (.crossingTimeout x k own t) s = .next { s with m := m0 }) ∧
    (l.lct.inReset.getLsbD k = false →
      (l.lct.fault = 0#32 → Completes (.crossingTimeout x k true t) s fun m => (m.lane x).lct.fault = 0x8030B#32 ∧ (m.lane x).offer = none) ∧
      Completes (.crossingTimeout x k false t) s fun m =>
        (m.lane x).lct.xto = l.lct.xto ||| BitVec.ofNat 32 (1 <<< k) ∧ (m.lane x).lct.irq.getLsbD 1 = true ∧ (m.lane x).lct.fault = l.lct.fault ∧
        (k = 7 → m.jade.mode = .off)) ∧
    (∀ held, Completes (.crossingReset x k held t) s fun m => others m ∧ mems m ∧ (m.lane x).lct.inReset.getLsbD k = held ∧ (m.lane x).lct.xto = l.lct.xto)

/-! ### Amber -/

/-- 17_amber_recorder.md R463 to R467, R471, R472: a record taken gets the next SEQ and its slot; one beyond its LIM is counted and not written; a refused one counts as lost and is owed; a closed window writes
SUMMARY; recovery makes the recorder ready at the control block; the private window writes only with PWEN, within the region. -/
def Obligations.AmberWritesSuppressesAndRefuses : Prop :=
  ∀ (s : State) (x : Lane) (t : Nat),
    let m0 := s.m.advance t
    let a := s.m.amber
    let p := a.port.get x
    let rest (m : Mod) : Prop := m.service = s.m.service ∧ m.obx = s.m.obx ∧ m.sent = s.m.sent ∧ m.jade = s.m.jade
    let slot (m : Mod) (n : Nat) : Option Stored := m.amber.store.find (n % amberSlots)
    (a.ready = false → exec (.amberRecordWrite t) s = .next { s with m := m0 }) ∧
    (∀ i r rs, a.ready = true → a.intake.length = 10 → a.nextSource = some i → (a.intake.getD i Intake.empty).buf = r :: rs → (a.intake.getD i Intake.empty).owed = 0 →
      let n := seqNext a.newest
      (recLim r.code = none → Completes (.amberRecordWrite t) s fun m =>
        rest m ∧ m.lanes = s.m.lanes ∧ m.amber.newest = n ∧ m.amber.count = a.count + 1 ∧ slot m n = some ⟨n, r, crc32c (r.bytes n)⟩ ∧
        (m.amber.intake.getD i Intake.empty).buf = rs ∧ m.amber.rr = (i + 1) % 10) ∧
      (∀ lim w, recLim r.code = some lim → a.win r.code r.src = some w → m0.now < w.start + 1000000000 → lim ≤ w.count → Completes (.amberRecordWrite t) s fun m =>
        rest m ∧ m.amber.newest = a.newest ∧ m.amber.store = a.store ∧ m.amber.suppr = a.suppr + 1 ∧ (m.amber.win r.code r.src).map (·.suppressed) = some (w.suppressed + 1))) ∧
    (∀ e, let i := min e.src 9
      a.intake.length = 10 →
      (a.takes i = false → Completes (.amberIntakeRefuse e t) s fun m =>
        rest m ∧ m.lanes = s.m.lanes ∧ m.amber.store = a.store ∧
        m.amber.intake.getD i Intake.empty
          = { a.intake.getD i Intake.empty with lost := min 0xFFFF ((a.intake.getD i Intake.empty).lost + 1), owed := (a.intake.getD i Intake.empty).owed + 1 } ∧
        ∀ y, y.idx = i → (m.amber.port.get y).errcap = captureErr (a.port.get y).errcap (if a.ready then 3 else 5) 3 ∧ (m.amber.port.get y).irq.getLsbD 0 = true) ∧
      (a.takes i = true → exec (.amberIntakeRefuse e t) s = .next { s with m := m0 })) ∧
    (∀ code src w, a.win code src = some w →
      (a.ready = true → w.suppressed ≠ 0 → w.start + 1000000000 ≤ m0.now → Completes (.rateWindowClose code src t) s fun m =>
        rest m ∧ m.amber.win w.code w.src = none ∧ m.amber.newest = seqNext a.newest ∧ ∃ z, slot m (seqNext a.newest) = some z ∧ z.body.code = 0xD001 ∧ z.body.src = 9) ∧
      (m0.now < w.start + 1000000000 → exec (.rateWindowClose code src t) s = .next { s with m := m0 })) ∧
    (s.m.power.good = true → a.ready = false →
      (Completes (.amberRecovery t) s fun m => rest m ∧ m.lanes = s.m.lanes ∧ m.amber.ready = true) ∧
      (a.store = [] → a.ctl0.valid = true → a.ctl1.valid = false → Completes (.amberRecovery t) s fun m => m.amber = { a with ready := true, newest := a.ctl0.newest, count := a.ctl0.count }) ∧
      (a.store = [] → a.ctl0.valid = false → a.ctl1.valid = false → Completes (.amberRecovery t) s fun m => m.amber = { a with ready := true, newest := 0xFFFFFFFF, count := 0 })) ∧
    (∀ off (v : Word32), (s.m.lane x).powered = true → off < 0x8000 → off % 4 = 0 →
      (p.ctrl.getLsbD 1 = true → p.ppage.toNat ≤ 0x82 → Completes (.amberWindowWrite x off v t) s fun m =>
        rest m ∧ m.lane x = { s.m.lane x with mram := (s.m.lane x).mram.wr (0x8000 * p.ppage.toNat + off) 4 v.toNat } ∧ (∀ y, y ≠ x → m.lane y = s.m.lane y) ∧
        m.amber.port.get x = { p with irq := p.irq ||| 2#32 }) ∧
      (p.ctrl.getLsbD 1 = true → 0x82 < p.ppage.toNat → Completes (.amberWindowWrite x off v t) s fun m =>
        rest m ∧ m.lanes = s.m.lanes ∧ (m.amber.port.get x).errcap = captureErr p.errcap 4 3) ∧
      (p.ctrl.getLsbD 1 = false → exec (.amberWindowWrite x off v t) s = .next { s with m := m0 })) ∧
    ((s.m.lane x).powered = true → Completes (.ambErrcapRead x t) s fun m =>
      rest m ∧ m.lane x = { s.m.lane x with readData := p.errcap.toNat } ∧ m.amber.port.get x = { p with errcapLr := p.errcap, errcap := 0 })

/-! ### Power -/

/-- 18_power_domains.md R473, R474, R476, R477, R481 to R485; 19_connectors_and_ratings.md R497; 17_amber_recorder.md R465: an input's loss and return are kept; the loss of both sends the module to HELD, and
the shutdown level switches every domain off; a group sleeps as far as its hint lets it and wakes; a drain ends within 200 µs; a hot lane warns, then trips. -/
def Obligations.PowerFollowsSuppliesHintsAndDrains : Prop :=
  ∀ (s : State) (t : Nat),
    let m0 := s.m.advance t
    let p := s.m.power
    let rest (m : Mod) : Prop := m.lanes = s.m.lanes ∧ m.service = s.m.service ∧ m.obx = s.m.obx ∧ m.jade = s.m.jade
    (∀ input st, input = 1 ∨ input = 2 → p.shutdown = false →
      ((st = 0 ∨ st = 3) → (p.supply input).inRange = true → Completes (.supplyInputLoss input st t) s fun m => rest m ∧ m.power = p.setSupply input ⟨st, false⟩) ∧
      ((st = 1 ∨ st = 2) → (p.supply input).inRange = false → Completes (.supplyInputReturn input st t) s fun m => rest m ∧ m.power = p.setSupply input ⟨st, true⟩)) ∧
    (p.good = true → p.x1.inRange = false → p.x2.inRange = false → s.m.service ≠ .held →
      Completes (.pfail t) s fun m =>
        m.service = .held ∧ m.power.pfail = true ∧ m.power.good = false ∧ m.voters = [] ∧ m.amber.pfail = true ∧ m.amber.ctl0 = ctlOf m.amber.newest m.amber.count ∧
        m.amber.ctl1 = m.amber.ctl0) ∧
    (p.x1.inRange = true ∨ p.x2.inRange = true → exec (.pfail t) s = .next { s with m := m0 }) ∧
    (p.pfail = true → p.shutdown = false → Completes (.shutdownLevel t) s fun m =>
      m.power.domains = List.replicate 12 false ∧ m.power.shutdown = true ∧ m.jade.mode = .off ∧ m.procs = Procs.reset ∧ m.obx = Obx.reset ∧
      ∀ x, (m.lane x).powered = false ∧ (m.lane x).voting = false ∧ (m.lane x).mram = (s.m.lane x).mram) ∧
    (∀ g, p.good = true → isGroup s.m.full g = true → s.m.maySleep g = true → p.sect g ≠ .off →
      (s.m.hint g < 100 → exec (.domainSleep g t) s = .next { s with m := m0 }) ∧
      (100 ≤ s.m.hint g → s.m.hint g < 5000 → exec (.domainSleep g t) s = .next { s with m := { m0 with power := p.setSect g .gated } }) ∧
      (5000 ≤ s.m.hint g → p.draining (0x100 + g) = false →
        exec (.domainSleep g t) s = .next { s with m := { m0 with power := { p with drains := p.drains ++ [⟨0x100 + g, m0.clock⟩] } } })) ∧
    (∀ g, p.good = true → isGroup s.m.full g = true → p.ports.length = 8 → p.banks.length = 4 →
      Completes (.wakeEvent g t) s fun m => rest m ∧ m.power.sect g = .running ∧ m.power.draining (0x100 + g) = false) ∧
    (∀ target, p.good = true → s.m.mayDrain target = true → p.draining target = false →
      exec (.powerDownDrain target t) s = .next { s with m := { m0 with power := { p with drains := p.drains ++ [⟨target, m0.clock⟩] } } }) ∧
    (∀ target, p.good = true → p.draining target = true → exec (.powerDownDrain target t) s = .next { s with m := m0 }) ∧
    (∀ target d left, p.good = true → (p.drains.find? fun e => e.target == target) = some d →
      (left ≠ [] → m0.clock < d.since + 200000 → exec (.drainTimeout target left t) s = .next { s with m := m0 }) ∧
      (target = 0x100 + 1 → Completes (.drainTimeout target [] t) s fun m => rest m ∧ m.power.ethm = .off ∧ m.power.draining target = false) ∧
      (∀ x, laneOfDomain target = some x → p.domains.length = 12 → Completes (.drainTimeout target [] t) s fun m =>
        m.power.isOn target = false ∧ (m.lane x).powered = false ∧ m.power.draining target = false ∧ ∀ y, y ≠ x → m.lane y = s.m.lane y) ∧
      (target = 0x100 + 1 → d.since + 200000 ≤ m0.clock → Completes (.drainTimeout target [(.jadePort, 0)] t) s fun m => rest m ∧ m.power.ethm = .off ∧ m.power.draining target = false)) ∧
    (∀ x, let l := s.m.lane x
      l.powered = true →
      (l.released = true → Completes (.dieTempWarning x t) s fun m =>
        m.lane x = { l with test := { l.test with tempWarn := true } } ∧ (∀ y, y ≠ x → m.lane y = s.m.lane y) ∧ m.service = s.m.service) ∧
      (l.lct.fault = 0#32 → Completes (.dieTempTrip x t) s fun m => (m.lane x).lct.pgTrip = true ∧ (m.lane x).lct.fault = 0x400508#32 ∧ (m.lane x).offer = none))

/-! ### Registers without commands of their own -/

/-- 00_scope.md R8, R9; 03_route_admission.md R86; 06_lanes_and_voting.md R185, R186; 08_phase_and_time.md R256; 16_movers_checks_crossings.md R458 to R460; 17_amber_recorder.md R471; 10_older_interfaces_and_bridging.md R327: a write
of an IRQ register clears the bits written as 1, of IRQEN sets its bits; locked registers keep their value; absent units and reserved offsets ignore a write; nothing
else changes. R185, R186: a key word is taken only while KEYLOCK is 0, KEYLOCK is set, a read of GRN_ERRCAP returns and clears it. -/
def Obligations.RegisterWritesFollowTheirAccessType : Prop :=
  ∀ (s : State) (x : Lane) (off t : Nat) (v : Word32),
    let m0 := s.m.advance t
    let l := s.m.lane x
    let wr (u : RegUnit) (o : Nat) (l' : LaneSt) : Prop :=
      Completes (.registerWrite x u o v t) s fun m =>
        m.lane x = l' ∧ (∀ y, y ≠ x → m.lane y = s.m.lane y) ∧ m.lio = s.m.lio ∧ m.drp = s.m.drp ∧ m.amber = s.m.amber ∧ m.sent = s.m.sent ∧ m.service = s.m.service
    let clr (w : Word32) : Word32 := w &&& ~~~v
    (l.powered = false → ∀ u, exec (.registerWrite x u off v t) s = .next { s with m := m0 }) ∧
    (s.m.full = false → exec (.registerWrite x .lio off v t) s = .next { s with m := m0 } ∧ exec (.registerWrite x .brg off v t) s = .next { s with m := m0 }) ∧
    (l.powered = true →
      (let next (l' : LaneSt) : Result := .next { s with m := m0.setLane x l' }
       (∀ i w, i < 8 → l.grn.ctrl.getLsbD 2 = false → l.split = false →
         exec (.grnKeyWrite x i w t) s
           = next { l with grn := { l.grn with key := l.grn.key - l.grn.key / 2 ^ (32 * i) % 2 ^ 32 * 2 ^ (32 * i) + w.toNat * 2 ^ (32 * i) } }) ∧
       (∀ i w, l.grn.ctrl.getLsbD 2 = true → exec (.grnKeyWrite x i w t) s = next l) ∧
       exec (.grnKeylockSet x t) s = next { l with grn := { l.grn with ctrl := l.grn.ctrl ||| 4#32 } } ∧
       exec (.grnErrcapRead x t) s = next { l with grn := { l.grn with errcapLr := l.grn.errcap, errcap := 0 }, readData := l.grn.errcap.toNat }) ∧
      wr .brl 0x0C { l with beryl := { l.beryl with regs := { l.beryl.regs with irq := clr l.beryl.regs.irq } } } ∧
      wr .brl 0x10 { l with beryl := { l.beryl with regs := { l.beryl.regs with irqEn := v &&& 0x7F#32 } } } ∧
      (l.beryl.regs.ctrl.getLsbD 0 = true → wr .brl 0x18 l) ∧
      (l.beryl.regs.ctrl.getLsbD 0 = false → wr .brl 0x18 { l with beryl := { l.beryl with regs := { l.beryl.regs with stnLo := v &&& 0xFF000000#32 } } }) ∧
      wr .grn 0x0C { l with grn := { l.grn with irq := clr l.grn.irq } } ∧
      wr .grn 0x10 { l with grn := { l.grn with irqEn := v &&& 0x3F#32 } } ∧
      (l.opal.en = true → wr .opl 0x14 l) ∧
      (l.opal.en = false → wr .opl 0x14 { l with opal := { l.opal with cfg := v &&& 0x03FF0037#32 } }) ∧
      wr .opl 0x44 { l with opal := { l.opal with shadow := { l.opal.shadow with cwin := v &&& 0xFFFFF#32 } } } ∧
      wr .tdm 0x0C { l with tdm := { l.tdm with irq := clr l.tdm.irq } } ∧
      (∀ k, k < 8 → wr .tdm (0x10C + 0x40 * k) { l with tdm := l.tdm.setChan k { l.tdm.chan k with shadow := { (l.tdm.chan k).shadow with count := v &&& 0xFFFFFF#32 } } }) ∧
      wr .scu 0x0C { l with scu := { l.scu with irq := clr l.scu.irq } } ∧
      (l.scu.fgBusy = true → wr .scu 0x1C l) ∧
      (l.scu.fgBusy = false → wr .scu 0x1C { l with scu := { l.scu with len := v &&& 0xFFFFFF#32 } }) ∧
      wr .obx 0x0C { l with obx := { l.obx with irq := clr l.obx.irq } } ∧
      wr .lct 0x0C { l with lct := { l.lct with irq := clr l.lct.irq } } ∧
      (l.voting = true → wr .lct 0x04 l) ∧
      (l.voting = false → wr .lct 0x04 { l with lct := { l.lct with ctrl := v &&& 3#32 }, comparator := !v.getLsbD 1 && !l.split }) ∧
      (l.lct.ctrl.getLsbD 0 = false → wr .lct 0x18 l) ∧
      (∀ u, off = 0x00 ∨ off = 0x08 ∨ 0x300 ≤ off → u ≠ .lio → u ≠ .brg → u ≠ .amb → wr u off l) ∧
      (Completes (.registerWrite x .amb 0x0C v t) s fun m =>
        m.amber = { s.m.amber with port := s.m.amber.port.set x { s.m.amber.port.get x with irq := clr (s.m.amber.port.get x).irq } } ∧ m.lanes = s.m.lanes) ∧
      (s.m.full = true →
        (Completes (.registerWrite x .lio 0x28 v t) s fun m => (m.lio.lanes.get x).chsel = v &&& 0x7F#32 ∧ m.lanes = s.m.lanes) ∧
        (∀ w, s.m.drp.lanes.get x = w → w.ctrl.getLsbD 1 = true → Completes (.registerWrite x .brg 0x14 v t) s fun m => m.drp.lanes = s.m.drp.lanes ∧ m.lanes = s.m.lanes) ∧
        (∀ w, s.m.drp.lanes.get x = w → w.ctrl.getLsbD 1 = false → Completes (.registerWrite x .brg 0x14 v t) s fun m =>
          m.drp.lanes.get x = { w with mapLo := v &&& 0xFFFFF000#32 } ∧ m.lanes = s.m.lanes)))

/-! ### The block as a whole -/

/-- The block takes its commands in order: with a command in front, a step is exec of it with the queue's rest. With an empty queue (the model's choice, assumption log 3) the clock goes on by 1 ns and nothing else changes. -/
def Obligations.StepRunsTheFrontCommand : Prop :=
  (∀ (c : Instr) (rest : List Instr) (s : State), s.pending = c :: rest → step s = exec c { s with pending := rest }) ∧
  (∀ s : State, s.pending = [] → step s = .next { s with m := { s.m with clock := s.m.clock + 1 } })

/-- 01_one_logic_cycle.md R31; 13_startup_and_self_test.md R370, R375; 03_route_admission.md "Registers"; 16_movers_checks_crossings.md R460; 17_amber_recorder.md R471: before power good the module is in STARTING without a role, nothing is
powered or released, no command waits, NEWEST is 0xFFFFFFFF, SCU_FG_CFG is 0x10 in every lane and every memory lists nothing; the module is sound. -/
def Obligations.ResetLeavesTheModuleDown : Prop :=
  let r := State.reset
  r.pending = [] ∧ r.m.service = .starting ∧ r.m.role = 0 ∧ r.m.power.good = false ∧ r.m.procs = Procs.reset ∧ r.m.jade.mode = .off ∧ r.m.voters = [] ∧
  r.m.amber.newest = 0xFFFFFFFF ∧ r.m.amber.count = 0 ∧ r.m.amber.ready = false ∧ r.m.obx.running = false ∧ r.m.sent = [] ∧
  (∀ x, (r.m.lane x).powered = false ∧ (r.m.lane x).released = false ∧ (r.m.lane x).scu.cfg = 0x10#32 ∧ (r.m.lane x).tcm = [] ∧ (r.m.lane x).dram = [] ∧ (r.m.lane x).mram = []) ∧
  r.m.Sound

/-- 19_connectors_and_ratings.md R492; 13_startup_and_self_test.md R370: the SID stays a five-bit slot code and the last start never lies in the future, whatever command is run. -/
def Obligations.StepKeepsTheModuleSound : Prop :=
  ∀ s u : State, s.m.Sound → step s = .next u → u.m.Sound

/-- 19_connectors_and_ratings.md R492: every command completes, takes nothing from the queue and never turns the clock back; the SID changes only at power good, the variant never. -/
def Obligations.OnlyPowerGoodChangesTheSid : Prop :=
  ∀ (c : Instr) (s : State), ∃ u, exec c s = .next u ∧ u.pending = s.pending ∧ u.m.full = s.m.full ∧ s.m.clock ≤ u.m.clock ∧
    ((∀ sid x1 x2 a b t, c ≠ .powerGood sid x1 x2 a b t) → u.m.sid = s.m.sid)
end

