-- ==== Sys2Proof/Laws/Mem.lean ====
section
/-!
SUPPORT. Byte memory and sparse maps: every operation keeps the canonical form, a read after a write gives the value written, and
a write leaves every other byte alone.
-/
namespace Sys2Proof.Machine

theorem Mem.wf_iff (m : Mem) : Mem.wf m = true ↔ m.Pairwise (fun x y => x.1 < y.1) ∧ ∀ c ∈ m, c.2 ≠ 0#8 := by
  simp [Mem.wf]

@[simp] theorem Mem.wf_nil : Mem.wf [] = true := rfl

/-! ### Canonical form -/

theorem Mem.wf_filter (m : Mem) (p : Host.Cell → Bool) (h : Mem.wf m = true) : Mem.wf (m.filter p) = true := by
  rw [Mem.wf_iff] at *
  exact ⟨h.1.filter _, fun c hc => h.2 c (List.mem_filter.mp hc).1⟩

/-- Two canonical memories, every address of the first below every one of the second, make one. -/
theorem Mem.wf_append (l r : Mem) (hl : Mem.wf l = true) (hr : Mem.wf r = true) (h : ∀ x ∈ l, ∀ y ∈ r, x.1 < y.1) :
    Mem.wf (l ++ r) = true := by
  rw [Mem.wf_iff] at *
  refine ⟨List.pairwise_append.mpr ⟨hl.1, hr.1, h⟩, fun c hc => ?_⟩
  rcases List.mem_append.mp hc with hc | hc
  · exact hl.2 c hc
  · exact hr.2 c hc

/-- The cells between what stays below and what stays above. -/
theorem Mem.wf_between (m mid : Mem) (a n : Nat) (hm : Mem.wf m = true) (hmid : Mem.wf mid = true)
    (hr : ∀ c ∈ mid, a ≤ c.1 ∧ c.1 < a + n) :
    Mem.wf (m.filter (fun c => decide (c.1 < a)) ++ mid ++ m.filter (fun c => decide (a + n ≤ c.1))) = true := by
  refine Mem.wf_append _ _ (Mem.wf_append _ _ (Mem.wf_filter _ _ hm) hmid ?_) (Mem.wf_filter _ _ hm) ?_
  · intro x hx y hy
    have h1 := (List.mem_filter.mp hx).2
    have h2 := hr y hy
    simp at h1; omega
  · intro x hx y hy
    have h3 := (List.mem_filter.mp hy).2
    simp at h3
    rcases List.mem_append.mp hx with hx | hx
    · have h1 := (List.mem_filter.mp hx).2
      simp at h1; omega
    · have h2 := hr x hx
      omega

theorem Mem.mem_cellsOf (a n v : Nat) (c : Host.Cell) (h : c ∈ Mem.cellsOf a n v) : a ≤ c.1 ∧ c.1 < a + n ∧ c.2 ≠ 0#8 := by
  simp only [Mem.cellsOf, List.mem_filterMap, List.mem_range] at h
  obtain ⟨i, hi, h⟩ := h
  split at h
  · cases h
  · cases h; exact ⟨by simp, by simp; omega, by assumption⟩

theorem Mem.cellsOf_succ (a n v : Nat) :
    Mem.cellsOf a (n + 1) v = Mem.cellsOf a n v ++ (if byteOf v n = 0#8 then [] else [(a + n, byteOf v n)]) := by
  simp only [Mem.cellsOf, List.range_succ, List.filterMap_append, List.filterMap_cons, List.filterMap_nil]
  split <;> simp_all

theorem Mem.wf_cellsOf (a n v : Nat) : Mem.wf (Mem.cellsOf a n v) = true := by
  induction n with
  | zero => rfl
  | succ n ih =>
    rw [Mem.cellsOf_succ]
    refine Mem.wf_append _ _ ih ?_ ?_
    · split
      · rfl
      · simp_all [Mem.wf]
    · intro x hx y hy
      have := Mem.mem_cellsOf a n v x hx
      split at hy
      · cases hy
      · simp at hy; subst hy; simp; omega

theorem Mem.wf_wr (m : Mem) (a n v : Nat) (h : Mem.wf m = true) : Mem.wf (m.wr a n v) = true :=
  Mem.wf_between m _ a n h (Mem.wf_cellsOf a n v) fun c hc => ⟨(Mem.mem_cellsOf a n v c hc).1, (Mem.mem_cellsOf a n v c hc).2.1⟩

theorem Mem.wf_wrBytes (m : Mem) (a : Nat) (bs : Bytes) (h : Mem.wf m = true) : Mem.wf (m.wrBytes a bs) = true :=
  Mem.wf_wr m a _ _ h

theorem Mem.wf_clear (m : Mem) (a n : Nat) (h : Mem.wf m = true) : Mem.wf (m.clear a n) = true := by
  have := Mem.wf_between m [] a n h rfl (by simp)
  simpa [Mem.clear] using this

theorem Mem.wf_moved (f : Mem) (src dst n : Nat) (h : Mem.wf f = true) : Mem.wf (Mem.moved f src dst n) = true := by
  have hf := Mem.wf_filter f (fun c => decide (src ≤ c.1) && decide (c.1 < src + n)) h
  rw [Mem.wf_iff] at *
  refine ⟨?_, ?_⟩
  · simp only [Mem.moved, List.pairwise_map]
    refine List.Pairwise.imp_of_mem ?_ hf.1
    intro x y hx hy hxy
    have := (List.mem_filter.mp hx).2
    simp at this
    show x.1 - src + dst < y.1 - src + dst
    omega
  · intro c hc
    simp only [Mem.moved, List.mem_map] at hc
    obtain ⟨d, hd, rfl⟩ := hc
    exact hf.2 d hd

theorem Mem.mem_moved (f : Mem) (src dst n : Nat) (c : Host.Cell) (h : c ∈ Mem.moved f src dst n) : dst ≤ c.1 ∧ c.1 < dst + n := by
  simp only [Mem.moved, List.mem_map, List.mem_filter] at h
  obtain ⟨d, ⟨_, hd⟩, rfl⟩ := h
  simp at hd ⊢
  omega

theorem Mem.wf_splice (m f : Mem) (src dst n : Nat) (h : Mem.wf m = true) (hf : Mem.wf f = true) :
    Mem.wf (m.splice f src dst n) = true :=
  Mem.wf_between m _ dst n h (Mem.wf_moved f src dst n hf) fun c hc => Mem.mem_moved f src dst n c hc

/-! ### Reads after writes -/

theorem Mem.getB_append_left (l r : Mem) (a : Nat) (h : ∀ c ∈ l, c.1 ≠ a) : Mem.getB (l ++ r) a = Mem.getB r a := by
  induction l with
  | nil => rfl
  | cons c l ih =>
    have := h c (by simp)
    simp [Mem.getB, this, ih fun d hd => h d (by simp [hd])]

theorem Mem.getB_absent (m : Mem) (a : Nat) (h : ∀ c ∈ m, c.1 ≠ a) : Mem.getB m a = 0#8 := by
  have := Mem.getB_append_left m [] a h
  simpa [Mem.getB] using this

theorem Mem.getB_append_right (l r : Mem) (a : Nat) (h : ∀ c ∈ r, c.1 ≠ a) : Mem.getB (l ++ r) a = Mem.getB l a := by
  induction l with
  | nil => simpa [Mem.getB] using Mem.getB_absent r a h
  | cons c l ih => simp only [List.cons_append, Mem.getB, ih]

theorem Mem.getB_filter (m : Mem) (p : Nat → Bool) (a : Nat) :
    Mem.getB (m.filter fun c => p c.1) a = if p a then Mem.getB m a else 0#8 := by
  induction m with
  | nil => simp [Mem.getB]
  | cons c m ih =>
    by_cases hc : p c.1 = true <;> by_cases ha : c.1 = a <;> simp_all [Mem.getB]

theorem Mem.getB_between_out (m mid : Mem) (a n b : Nat) (hr : ∀ c ∈ mid, a ≤ c.1 ∧ c.1 < a + n) (hb : b < a ∨ a + n ≤ b) :
    Mem.getB (m.filter (fun c => decide (c.1 < a)) ++ mid ++ m.filter (fun c => decide (a + n ≤ c.1))) b = Mem.getB m b := by
  have hmid : ∀ c ∈ mid, c.1 ≠ b := fun c hc => by have := hr c hc; omega
  rcases hb with hb | hb
  · rw [Mem.getB_append_right _ _ _ (fun c hc => by have := (List.mem_filter.mp hc).2; simp at this; omega),
      Mem.getB_append_right _ _ _ hmid, Mem.getB_filter m (fun k => decide (k < a)) b]
    simp [hb]
  · rw [Mem.getB_append_left _ _ _ (fun c hc => ?_), Mem.getB_filter m (fun k => decide (a + n ≤ k)) b]
    · simp [hb]
    · rcases List.mem_append.mp hc with hc | hc
      · have := (List.mem_filter.mp hc).2; simp at this; omega
      · exact hmid c hc

/-- A write leaves every byte outside it alone. -/
theorem Mem.getB_wr_out (m : Mem) (a n v b : Nat) (hb : b < a ∨ a + n ≤ b) : Mem.getB (m.wr a n v) b = Mem.getB m b :=
  Mem.getB_between_out m _ a n b (fun c hc => ⟨(Mem.mem_cellsOf a n v c hc).1, (Mem.mem_cellsOf a n v c hc).2.1⟩) hb

theorem Mem.getB_splice_out (m f : Mem) (src dst n b : Nat) (hb : b < dst ∨ dst + n ≤ b) :
    Mem.getB (m.splice f src dst n) b = Mem.getB m b :=
  Mem.getB_between_out m _ dst n b (fun c hc => Mem.mem_moved f src dst n c hc) hb

theorem Mem.getB_cellsOf (a n v i : Nat) (h : i < n) : Mem.getB (Mem.cellsOf a n v) (a + i) = byteOf v i := by
  induction n with
  | zero => omega
  | succ n ih =>
    rw [Mem.cellsOf_succ]
    by_cases hi : i = n
    · subst hi
      rw [Mem.getB_append_left _ _ _ fun c hc => by have := Mem.mem_cellsOf a i v c hc; omega]
      split <;> simp_all [Mem.getB]
    · rw [Mem.getB_append_right, ih (by omega)]
      intro c hc
      split at hc
      · cases hc
      · simp at hc; subst hc; simp; omega

/-- A read after a write to the same place gives the value written. -/
theorem Mem.getB_wr_in (m : Mem) (a n v i : Nat) (h : i < n) : Mem.getB (m.wr a n v) (a + i) = byteOf v i := by
  unfold Mem.wr
  rw [Mem.getB_append_right _ _ _ (fun c hc => by have := (List.mem_filter.mp hc).2; simp at this; omega),
    Mem.getB_append_left _ _ _ (fun c hc => by have := (List.mem_filter.mp hc).2; simp at this; omega), Mem.getB_cellsOf a n v i h]

theorem Mem.getB_clear_in (m : Mem) (a n i : Nat) (h : i < n) : Mem.getB (m.clear a n) (a + i) = 0#8 := by
  refine Mem.getB_absent _ _ fun c hc => ?_
  rcases List.mem_append.mp hc with hc | hc <;> (have := (List.mem_filter.mp hc).2; simp at this; omega)

/-! ### Sparse maps -/

theorem SMap.get_append_left {α : Type} (d : α) (l r : SMap α) (a : Nat) (h : ∀ c ∈ l, c.1 ≠ a) :
    SMap.get d (l ++ r) a = SMap.get d r a := by
  induction l with
  | nil => rfl
  | cons c l ih =>
    have := h c (by simp)
    simp [SMap.get, this, ih fun e he => h e (by simp [he])]

theorem SMap.get_absent {α : Type} (d : α) (l : SMap α) (a : Nat) (h : ∀ c ∈ l, c.1 ≠ a) : SMap.get d l a = d := by
  have := SMap.get_append_left d l [] a h
  simpa [SMap.get] using this

theorem SMap.get_append_right {α : Type} (d : α) (l r : SMap α) (a : Nat) (h : ∀ c ∈ r, c.1 ≠ a) :
    SMap.get d (l ++ r) a = SMap.get d l a := by
  induction l with
  | nil => simpa [SMap.get] using SMap.get_absent d r a h
  | cons c l ih => simp only [List.cons_append, SMap.get, ih]

theorem SMap.get_filter {α : Type} (d : α) (m : SMap α) (p : Nat → Bool) (a : Nat) :
    SMap.get d (m.filter fun c => p c.1) a = if p a then SMap.get d m a else d := by
  induction m with
  | nil => simp [SMap.get]
  | cons c m ih =>
    by_cases hc : p c.1 = true <;> by_cases ha : c.1 = a <;> simp_all [SMap.get]

@[simp] theorem SMap.get_set_self {α : Type} [DecidableEq α] (d : α) (m : SMap α) (a : Nat) (v : α) :
    SMap.get d (SMap.set d m a v) a = v := by
  unfold SMap.set
  rw [SMap.get_append_right _ _ _ _ (fun c hc => by have := (List.mem_filter.mp hc).2; simp at this; omega),
    SMap.get_append_left _ _ _ _ (fun c hc => by have := (List.mem_filter.mp hc).2; simp at this; omega)]
  split <;> simp_all [SMap.get]

theorem SMap.get_set_ne {α : Type} [DecidableEq α] (d : α) (m : SMap α) (a b : Nat) (v : α) (hb : b ≠ a) :
    SMap.get d (SMap.set d m a v) b = SMap.get d m b := by
  have hmid : ∀ c ∈ (if v = d then ([] : SMap α) else [(a, v)]), c.1 ≠ b := by
    intro c hc; split at hc
    · cases hc
    · simp at hc; subst hc; simp; omega
  unfold SMap.set
  rcases Nat.lt_or_gt_of_ne hb with h | h
  · rw [SMap.get_append_right _ _ _ _ (fun c hc => by have := (List.mem_filter.mp hc).2; simp at this; omega),
      SMap.get_append_right _ _ _ _ hmid, SMap.get_filter d m (fun k => decide (k < a)) b]
    simp [h]
  · rw [SMap.get_append_left _ _ _ _ (fun c hc => ?_), SMap.get_filter d m (fun k => decide (a < k)) b]
    · simp [h]
    · rcases List.mem_append.mp hc with hc | hc
      · have := (List.mem_filter.mp hc).2; simp at this; omega
      · exact hmid c hc

theorem SMap.find_append_left {α : Type} (l r : SMap α) (a : Nat) (h : ∀ c ∈ l, c.1 ≠ a) : SMap.find (l ++ r) a = SMap.find r a := by
  induction l with
  | nil => rfl
  | cons c l ih =>
    have := h c (by simp)
    simp [SMap.find, this, ih fun e he => h e (by simp [he])]

theorem SMap.find_absent {α : Type} (l : SMap α) (a : Nat) (h : ∀ c ∈ l, c.1 ≠ a) : SMap.find l a = none := by
  have := SMap.find_append_left l [] a h
  simpa [SMap.find] using this

theorem SMap.find_append_right {α : Type} (l r : SMap α) (a : Nat) (h : ∀ c ∈ r, c.1 ≠ a) : SMap.find (l ++ r) a = SMap.find l a := by
  induction l with
  | nil => simpa [SMap.find] using SMap.find_absent r a h
  | cons c l ih => simp only [List.cons_append, SMap.find, ih]

theorem SMap.find_filter {α : Type} (m : SMap α) (p : Nat → Bool) (a : Nat) :
    SMap.find (m.filter fun c => p c.1) a = if p a then SMap.find m a else none := by
  induction m with
  | nil => simp [SMap.find]
  | cons c m ih =>
    by_cases hc : p c.1 = true <;> by_cases ha : c.1 = a <;> simp_all [SMap.find]

@[simp] theorem SMap.find_put_self {α : Type} (m : SMap α) (a : Nat) (v : α) : SMap.find (SMap.put m a v) a = some v := by
  unfold SMap.put
  rw [SMap.find_append_right _ _ _ (fun c hc => by have := (List.mem_filter.mp hc).2; simp at this; omega),
    SMap.find_append_left _ _ _ (fun c hc => by have := (List.mem_filter.mp hc).2; simp at this; omega)]
  simp [SMap.find]

theorem SMap.find_put_ne {α : Type} (m : SMap α) (a b : Nat) (v : α) (hb : b ≠ a) :
    SMap.find (SMap.put m a v) b = SMap.find m b := by
  unfold SMap.put
  rcases Nat.lt_or_gt_of_ne hb with h | h
  · rw [SMap.find_append_right _ _ _ (fun c hc => by have := (List.mem_filter.mp hc).2; simp at this; omega),
      SMap.find_append_right _ _ _ (fun c hc => by simp at hc; subst hc; simp; omega), SMap.find_filter m (fun k => decide (k < a)) b]
    simp [h]
  · rw [SMap.find_append_left _ _ _ (fun c hc => ?_), SMap.find_filter m (fun k => decide (a < k)) b]
    · simp [h]
    · rcases List.mem_append.mp hc with hc | hc
      · have := (List.mem_filter.mp hc).2; simp at this; omega
      · simp at hc; subst hc; simp; omega

@[simp] theorem SMap.find_del_self {α : Type} (m : SMap α) (a : Nat) : SMap.find (SMap.del m a) a = none := by
  refine SMap.find_absent _ _ fun c hc => ?_
  have := (List.mem_filter.mp hc).2
  simpa using this

end Sys2Proof.Machine
end

