-- ==== Sys2Proof/Laws/State.lean ====
section
/-!
SUPPORT. One lemma per field per update of the state, and what the shared operation `State.at` and `step` do.
-/
namespace Sys2Proof.Machine

/-! ### One value per lane, per channel -/

@[simp] theorem PerLane.get_set_self {α : Type} (p : PerLane α) (x : Lane) (v : α) : (p.set x v).get x = v := by cases x <;> rfl
theorem PerLane.get_set_ne {α : Type} (p : PerLane α) (x y : Lane) (v : α) (h : y ≠ x) : (p.set x v).get y = p.get y := by
  cases x <;> cases y <;> first | rfl | exact absurd rfl h
@[simp] theorem PerLane.get_map {α β : Type} (p : PerLane α) (f : α → β) (x : Lane) : (p.map f).get x = f (p.get x) := by cases x <;> rfl
@[simp] theorem PerLane.get_mapL {α β : Type} (p : PerLane α) (f : Lane → α → β) (x : Lane) : (p.mapL f).get x = f x (p.get x) := by
  cases x <;> rfl
@[simp] theorem PerLane.get_const {α : Type} (v : α) (x : Lane) : (PerLane.const v).get x = v := by cases x <;> rfl
@[simp] theorem PerChan.get_set_self {α : Type} (p : PerChan α) (x : Chan) (v : α) : (p.set x v).get x = v := by cases x <;> rfl
theorem PerChan.get_set_ne {α : Type} (p : PerChan α) (x y : Chan) (v : α) (h : y ≠ x) : (p.set x v).get y = p.get y := by
  cases x <;> cases y <;> first | rfl | exact absurd rfl h
@[simp] theorem PerChan.get_map {α β : Type} (p : PerChan α) (f : α → β) (x : Chan) : (p.map f).get x = f (p.get x) := by cases x <;> rfl
@[simp] theorem PerChan.get_const {α : Type} (v : α) (x : Chan) : (PerChan.const v).get x = v := by cases x <;> rfl

/-! ### Lanes -/

@[simp] theorem Mod.lane_setLane_self (m : Mod) (x : Lane) (l : LaneSt) : (m.setLane x l).lane x = l := by cases x <;> rfl
theorem Mod.lane_setLane_ne (m : Mod) (x y : Lane) (l : LaneSt) (h : y ≠ x) : (m.setLane x l).lane y = m.lane y := by
  cases x <;> cases y <;> first | rfl | exact absurd rfl h
@[simp] theorem Mod.lane_modLane_self (m : Mod) (x : Lane) (f : LaneSt → LaneSt) : (m.modLane x f).lane x = f (m.lane x) := by
  cases x <;> rfl
theorem Mod.lane_modLane_ne (m : Mod) (x y : Lane) (f : LaneSt → LaneSt) (h : y ≠ x) : (m.modLane x f).lane y = m.lane y := by
  cases x <;> cases y <;> first | rfl | exact absurd rfl h
@[simp] theorem Mod.lane_advance (m : Mod) (t : Nat) (x : Lane) : (m.advance t).lane x = m.lane x := rfl
@[simp] theorem Mod.lane_send (m : Mod) (d : Dest) (b : Bytes) (x : Lane) : (m.send d b).lane x = m.lane x := rfl
@[simp] theorem Mod.lane_put (m : Mod) (e : Evt) (x : Lane) : (m.put e).lane x = m.lane x := rfl

/-! ### The fields of the module, per update -/

@[simp] theorem Mod.setLane_clock (m : Mod) (x : Lane) (l : LaneSt) : (m.setLane x l).clock = m.clock := rfl
@[simp] theorem Mod.setLane_free (m : Mod) (x : Lane) (l : LaneSt) : (m.setLane x l).free = m.free := rfl
@[simp] theorem Mod.setLane_full (m : Mod) (x : Lane) (l : LaneSt) : (m.setLane x l).full = m.full := rfl
@[simp] theorem Mod.setLane_sid (m : Mod) (x : Lane) (l : LaneSt) : (m.setLane x l).sid = m.sid := rfl
@[simp] theorem Mod.setLane_service (m : Mod) (x : Lane) (l : LaneSt) : (m.setLane x l).service = m.service := rfl
@[simp] theorem Mod.setLane_role (m : Mod) (x : Lane) (l : LaneSt) : (m.setLane x l).role = m.role := rfl
@[simp] theorem Mod.setLane_heldCause (m : Mod) (x : Lane) (l : LaneSt) : (m.setLane x l).heldCause = m.heldCause := rfl
@[simp] theorem Mod.setLane_heldAt (m : Mod) (x : Lane) (l : LaneSt) : (m.setLane x l).heldAt = m.heldAt := rfl
@[simp] theorem Mod.setLane_everActive (m : Mod) (x : Lane) (l : LaneSt) : (m.setLane x l).everActive = m.everActive := rfl
@[simp] theorem Mod.setLane_bootAt (m : Mod) (x : Lane) (l : LaneSt) : (m.setLane x l).bootAt = m.bootAt := rfl
@[simp] theorem Mod.setLane_cycle (m : Mod) (x : Lane) (l : LaneSt) : (m.setLane x l).cycle = m.cycle := rfl
@[simp] theorem Mod.setLane_cycleTime (m : Mod) (x : Lane) (l : LaneSt) : (m.setLane x l).cycleTime = m.cycleTime := rfl
@[simp] theorem Mod.setLane_cutAt (m : Mod) (x : Lane) (l : LaneSt) : (m.setLane x l).cutAt = m.cutAt := rfl
@[simp] theorem Mod.setLane_stopCut (m : Mod) (x : Lane) (l : LaneSt) : (m.setLane x l).stopCut = m.stopCut := rfl
@[simp] theorem Mod.setLane_ph (m : Mod) (x : Lane) (l : LaneSt) : (m.setLane x l).ph = m.ph := rfl
@[simp] theorem Mod.setLane_handed (m : Mod) (x : Lane) (l : LaneSt) : (m.setLane x l).handed = m.handed := rfl
@[simp] theorem Mod.setLane_outWait (m : Mod) (x : Lane) (l : LaneSt) : (m.setLane x l).outWait = m.outWait := rfl
@[simp] theorem Mod.setLane_overruns (m : Mod) (x : Lane) (l : LaneSt) : (m.setLane x l).overruns = m.overruns := rfl
@[simp] theorem Mod.setLane_winAt (m : Mod) (x : Lane) (l : LaneSt) : (m.setLane x l).winAt = m.winAt := rfl
@[simp] theorem Mod.setLane_winLast (m : Mod) (x : Lane) (l : LaneSt) : (m.setLane x l).winLast = m.winLast := rfl
@[simp] theorem Mod.setLane_runAt (m : Mod) (x : Lane) (l : LaneSt) : (m.setLane x l).runAt = m.runAt := rfl
@[simp] theorem Mod.setLane_sealedAt (m : Mod) (x : Lane) (l : LaneSt) : (m.setLane x l).sealedAt = m.sealedAt := rfl
@[simp] theorem Mod.setLane_links (m : Mod) (x : Lane) (l : LaneSt) : (m.setLane x l).links = m.links := rfl
@[simp] theorem Mod.setLane_minority (m : Mod) (x : Lane) (l : LaneSt) : (m.setLane x l).minority = m.minority := rfl
@[simp] theorem Mod.setLane_minNow (m : Mod) (x : Lane) (l : LaneSt) : (m.setLane x l).minNow = m.minNow := rfl
@[simp] theorem Mod.setLane_devStreak (m : Mod) (x : Lane) (l : LaneSt) : (m.setLane x l).devStreak = m.devStreak := rfl
@[simp] theorem Mod.setLane_diffStreak (m : Mod) (x : Lane) (l : LaneSt) : (m.setLane x l).diffStreak = m.diffStreak := rfl
@[simp] theorem Mod.setLane_gateStreak (m : Mod) (x : Lane) (l : LaneSt) : (m.setLane x l).gateStreak = m.gateStreak := rfl
@[simp] theorem Mod.setLane_rotation (m : Mod) (x : Lane) (l : LaneSt) : (m.setLane x l).rotation = m.rotation := rfl
@[simp] theorem Mod.setLane_bistWait (m : Mod) (x : Lane) (l : LaneSt) : (m.setLane x l).bistWait = m.bistWait := rfl
@[simp] theorem Mod.setLane_copy (m : Mod) (x : Lane) (l : LaneSt) : (m.setLane x l).copy = m.copy := rfl
@[simp] theorem Mod.setLane_books (m : Mod) (x : Lane) (l : LaneSt) : (m.setLane x l).books = m.books := rfl
@[simp] theorem Mod.setLane_digAgain (m : Mod) (x : Lane) (l : LaneSt) : (m.setLane x l).digAgain = m.digAgain := rfl
@[simp] theorem Mod.setLane_restart (m : Mod) (x : Lane) (l : LaneSt) : (m.setLane x l).restart = m.restart := rfl
@[simp] theorem Mod.setLane_lcWait (m : Mod) (x : Lane) (l : LaneSt) : (m.setLane x l).lcWait = m.lcWait := rfl
@[simp] theorem Mod.setLane_confirm (m : Mod) (x : Lane) (l : LaneSt) : (m.setLane x l).confirm = m.confirm := rfl
@[simp] theorem Mod.setLane_procs (m : Mod) (x : Lane) (l : LaneSt) : (m.setLane x l).procs = m.procs := rfl
@[simp] theorem Mod.setLane_obx (m : Mod) (x : Lane) (l : LaneSt) : (m.setLane x l).obx = m.obx := rfl
@[simp] theorem Mod.setLane_kst (m : Mod) (x : Lane) (l : LaneSt) : (m.setLane x l).kst = m.kst := rfl
@[simp] theorem Mod.setLane_drp (m : Mod) (x : Lane) (l : LaneSt) : (m.setLane x l).drp = m.drp := rfl
@[simp] theorem Mod.setLane_lio (m : Mod) (x : Lane) (l : LaneSt) : (m.setLane x l).lio = m.lio := rfl
@[simp] theorem Mod.setLane_jade (m : Mod) (x : Lane) (l : LaneSt) : (m.setLane x l).jade = m.jade := rfl
@[simp] theorem Mod.setLane_amber (m : Mod) (x : Lane) (l : LaneSt) : (m.setLane x l).amber = m.amber := rfl
@[simp] theorem Mod.setLane_power (m : Mod) (x : Lane) (l : LaneSt) : (m.setLane x l).power = m.power := rfl
@[simp] theorem Mod.setLane_time (m : Mod) (x : Lane) (l : LaneSt) : (m.setLane x l).time = m.time := rfl
@[simp] theorem Mod.setLane_phcfg (m : Mod) (x : Lane) (l : LaneSt) : (m.setLane x l).phcfg = m.phcfg := rfl
@[simp] theorem Mod.setLane_pair (m : Mod) (x : Lane) (l : LaneSt) : (m.setLane x l).pair = m.pair := rfl
@[simp] theorem Mod.setLane_nodes (m : Mod) (x : Lane) (l : LaneSt) : (m.setLane x l).nodes = m.nodes := rfl
@[simp] theorem Mod.setLane_stars (m : Mod) (x : Lane) (l : LaneSt) : (m.setLane x l).stars = m.stars := rfl
@[simp] theorem Mod.setLane_sent (m : Mod) (x : Lane) (l : LaneSt) : (m.setLane x l).sent = m.sent := rfl

@[simp] theorem Mod.modLane_clock (m : Mod) (x : Lane) (f : LaneSt → LaneSt) : (m.modLane x f).clock = m.clock := rfl
@[simp] theorem Mod.modLane_free (m : Mod) (x : Lane) (f : LaneSt → LaneSt) : (m.modLane x f).free = m.free := rfl
@[simp] theorem Mod.modLane_full (m : Mod) (x : Lane) (f : LaneSt → LaneSt) : (m.modLane x f).full = m.full := rfl
@[simp] theorem Mod.modLane_sid (m : Mod) (x : Lane) (f : LaneSt → LaneSt) : (m.modLane x f).sid = m.sid := rfl
@[simp] theorem Mod.modLane_service (m : Mod) (x : Lane) (f : LaneSt → LaneSt) : (m.modLane x f).service = m.service := rfl
@[simp] theorem Mod.modLane_role (m : Mod) (x : Lane) (f : LaneSt → LaneSt) : (m.modLane x f).role = m.role := rfl
@[simp] theorem Mod.modLane_heldCause (m : Mod) (x : Lane) (f : LaneSt → LaneSt) : (m.modLane x f).heldCause = m.heldCause := rfl
@[simp] theorem Mod.modLane_heldAt (m : Mod) (x : Lane) (f : LaneSt → LaneSt) : (m.modLane x f).heldAt = m.heldAt := rfl
@[simp] theorem Mod.modLane_everActive (m : Mod) (x : Lane) (f : LaneSt → LaneSt) : (m.modLane x f).everActive = m.everActive := rfl
@[simp] theorem Mod.modLane_bootAt (m : Mod) (x : Lane) (f : LaneSt → LaneSt) : (m.modLane x f).bootAt = m.bootAt := rfl
@[simp] theorem Mod.modLane_cycle (m : Mod) (x : Lane) (f : LaneSt → LaneSt) : (m.modLane x f).cycle = m.cycle := rfl
@[simp] theorem Mod.modLane_cycleTime (m : Mod) (x : Lane) (f : LaneSt → LaneSt) : (m.modLane x f).cycleTime = m.cycleTime := rfl
@[simp] theorem Mod.modLane_cutAt (m : Mod) (x : Lane) (f : LaneSt → LaneSt) : (m.modLane x f).cutAt = m.cutAt := rfl
@[simp] theorem Mod.modLane_stopCut (m : Mod) (x : Lane) (f : LaneSt → LaneSt) : (m.modLane x f).stopCut = m.stopCut := rfl
@[simp] theorem Mod.modLane_ph (m : Mod) (x : Lane) (f : LaneSt → LaneSt) : (m.modLane x f).ph = m.ph := rfl
@[simp] theorem Mod.modLane_handed (m : Mod) (x : Lane) (f : LaneSt → LaneSt) : (m.modLane x f).handed = m.handed := rfl
@[simp] theorem Mod.modLane_outWait (m : Mod) (x : Lane) (f : LaneSt → LaneSt) : (m.modLane x f).outWait = m.outWait := rfl
@[simp] theorem Mod.modLane_overruns (m : Mod) (x : Lane) (f : LaneSt → LaneSt) : (m.modLane x f).overruns = m.overruns := rfl
@[simp] theorem Mod.modLane_winAt (m : Mod) (x : Lane) (f : LaneSt → LaneSt) : (m.modLane x f).winAt = m.winAt := rfl
@[simp] theorem Mod.modLane_winLast (m : Mod) (x : Lane) (f : LaneSt → LaneSt) : (m.modLane x f).winLast = m.winLast := rfl
@[simp] theorem Mod.modLane_runAt (m : Mod) (x : Lane) (f : LaneSt → LaneSt) : (m.modLane x f).runAt = m.runAt := rfl
@[simp] theorem Mod.modLane_sealedAt (m : Mod) (x : Lane) (f : LaneSt → LaneSt) : (m.modLane x f).sealedAt = m.sealedAt := rfl
@[simp] theorem Mod.modLane_links (m : Mod) (x : Lane) (f : LaneSt → LaneSt) : (m.modLane x f).links = m.links := rfl
@[simp] theorem Mod.modLane_minority (m : Mod) (x : Lane) (f : LaneSt → LaneSt) : (m.modLane x f).minority = m.minority := rfl
@[simp] theorem Mod.modLane_minNow (m : Mod) (x : Lane) (f : LaneSt → LaneSt) : (m.modLane x f).minNow = m.minNow := rfl
@[simp] theorem Mod.modLane_devStreak (m : Mod) (x : Lane) (f : LaneSt → LaneSt) : (m.modLane x f).devStreak = m.devStreak := rfl
@[simp] theorem Mod.modLane_diffStreak (m : Mod) (x : Lane) (f : LaneSt → LaneSt) : (m.modLane x f).diffStreak = m.diffStreak := rfl
@[simp] theorem Mod.modLane_gateStreak (m : Mod) (x : Lane) (f : LaneSt → LaneSt) : (m.modLane x f).gateStreak = m.gateStreak := rfl
@[simp] theorem Mod.modLane_rotation (m : Mod) (x : Lane) (f : LaneSt → LaneSt) : (m.modLane x f).rotation = m.rotation := rfl
@[simp] theorem Mod.modLane_bistWait (m : Mod) (x : Lane) (f : LaneSt → LaneSt) : (m.modLane x f).bistWait = m.bistWait := rfl
@[simp] theorem Mod.modLane_copy (m : Mod) (x : Lane) (f : LaneSt → LaneSt) : (m.modLane x f).copy = m.copy := rfl
@[simp] theorem Mod.modLane_books (m : Mod) (x : Lane) (f : LaneSt → LaneSt) : (m.modLane x f).books = m.books := rfl
@[simp] theorem Mod.modLane_digAgain (m : Mod) (x : Lane) (f : LaneSt → LaneSt) : (m.modLane x f).digAgain = m.digAgain := rfl
@[simp] theorem Mod.modLane_restart (m : Mod) (x : Lane) (f : LaneSt → LaneSt) : (m.modLane x f).restart = m.restart := rfl
@[simp] theorem Mod.modLane_lcWait (m : Mod) (x : Lane) (f : LaneSt → LaneSt) : (m.modLane x f).lcWait = m.lcWait := rfl
@[simp] theorem Mod.modLane_confirm (m : Mod) (x : Lane) (f : LaneSt → LaneSt) : (m.modLane x f).confirm = m.confirm := rfl
@[simp] theorem Mod.modLane_procs (m : Mod) (x : Lane) (f : LaneSt → LaneSt) : (m.modLane x f).procs = m.procs := rfl
@[simp] theorem Mod.modLane_obx (m : Mod) (x : Lane) (f : LaneSt → LaneSt) : (m.modLane x f).obx = m.obx := rfl
@[simp] theorem Mod.modLane_kst (m : Mod) (x : Lane) (f : LaneSt → LaneSt) : (m.modLane x f).kst = m.kst := rfl
@[simp] theorem Mod.modLane_drp (m : Mod) (x : Lane) (f : LaneSt → LaneSt) : (m.modLane x f).drp = m.drp := rfl
@[simp] theorem Mod.modLane_lio (m : Mod) (x : Lane) (f : LaneSt → LaneSt) : (m.modLane x f).lio = m.lio := rfl
@[simp] theorem Mod.modLane_jade (m : Mod) (x : Lane) (f : LaneSt → LaneSt) : (m.modLane x f).jade = m.jade := rfl
@[simp] theorem Mod.modLane_amber (m : Mod) (x : Lane) (f : LaneSt → LaneSt) : (m.modLane x f).amber = m.amber := rfl
@[simp] theorem Mod.modLane_power (m : Mod) (x : Lane) (f : LaneSt → LaneSt) : (m.modLane x f).power = m.power := rfl
@[simp] theorem Mod.modLane_time (m : Mod) (x : Lane) (f : LaneSt → LaneSt) : (m.modLane x f).time = m.time := rfl
@[simp] theorem Mod.modLane_phcfg (m : Mod) (x : Lane) (f : LaneSt → LaneSt) : (m.modLane x f).phcfg = m.phcfg := rfl
@[simp] theorem Mod.modLane_pair (m : Mod) (x : Lane) (f : LaneSt → LaneSt) : (m.modLane x f).pair = m.pair := rfl
@[simp] theorem Mod.modLane_nodes (m : Mod) (x : Lane) (f : LaneSt → LaneSt) : (m.modLane x f).nodes = m.nodes := rfl
@[simp] theorem Mod.modLane_stars (m : Mod) (x : Lane) (f : LaneSt → LaneSt) : (m.modLane x f).stars = m.stars := rfl
@[simp] theorem Mod.modLane_sent (m : Mod) (x : Lane) (f : LaneSt → LaneSt) : (m.modLane x f).sent = m.sent := rfl

@[simp] theorem Mod.advance_free (m : Mod) (t : Nat) : (m.advance t).free = m.free := rfl
@[simp] theorem Mod.advance_full (m : Mod) (t : Nat) : (m.advance t).full = m.full := rfl
@[simp] theorem Mod.advance_sid (m : Mod) (t : Nat) : (m.advance t).sid = m.sid := rfl
@[simp] theorem Mod.advance_service (m : Mod) (t : Nat) : (m.advance t).service = m.service := rfl
@[simp] theorem Mod.advance_role (m : Mod) (t : Nat) : (m.advance t).role = m.role := rfl
@[simp] theorem Mod.advance_heldCause (m : Mod) (t : Nat) : (m.advance t).heldCause = m.heldCause := rfl
@[simp] theorem Mod.advance_heldAt (m : Mod) (t : Nat) : (m.advance t).heldAt = m.heldAt := rfl
@[simp] theorem Mod.advance_everActive (m : Mod) (t : Nat) : (m.advance t).everActive = m.everActive := rfl
@[simp] theorem Mod.advance_bootAt (m : Mod) (t : Nat) : (m.advance t).bootAt = m.bootAt := rfl
@[simp] theorem Mod.advance_cycle (m : Mod) (t : Nat) : (m.advance t).cycle = m.cycle := rfl
@[simp] theorem Mod.advance_cycleTime (m : Mod) (t : Nat) : (m.advance t).cycleTime = m.cycleTime := rfl
@[simp] theorem Mod.advance_cutAt (m : Mod) (t : Nat) : (m.advance t).cutAt = m.cutAt := rfl
@[simp] theorem Mod.advance_stopCut (m : Mod) (t : Nat) : (m.advance t).stopCut = m.stopCut := rfl
@[simp] theorem Mod.advance_ph (m : Mod) (t : Nat) : (m.advance t).ph = m.ph := rfl
@[simp] theorem Mod.advance_handed (m : Mod) (t : Nat) : (m.advance t).handed = m.handed := rfl
@[simp] theorem Mod.advance_outWait (m : Mod) (t : Nat) : (m.advance t).outWait = m.outWait := rfl
@[simp] theorem Mod.advance_overruns (m : Mod) (t : Nat) : (m.advance t).overruns = m.overruns := rfl
@[simp] theorem Mod.advance_winAt (m : Mod) (t : Nat) : (m.advance t).winAt = m.winAt := rfl
@[simp] theorem Mod.advance_winLast (m : Mod) (t : Nat) : (m.advance t).winLast = m.winLast := rfl
@[simp] theorem Mod.advance_runAt (m : Mod) (t : Nat) : (m.advance t).runAt = m.runAt := rfl
@[simp] theorem Mod.advance_sealedAt (m : Mod) (t : Nat) : (m.advance t).sealedAt = m.sealedAt := rfl
@[simp] theorem Mod.advance_lanes (m : Mod) (t : Nat) : (m.advance t).lanes = m.lanes := rfl
@[simp] theorem Mod.advance_links (m : Mod) (t : Nat) : (m.advance t).links = m.links := rfl
@[simp] theorem Mod.advance_minority (m : Mod) (t : Nat) : (m.advance t).minority = m.minority := rfl
@[simp] theorem Mod.advance_minNow (m : Mod) (t : Nat) : (m.advance t).minNow = m.minNow := rfl
@[simp] theorem Mod.advance_devStreak (m : Mod) (t : Nat) : (m.advance t).devStreak = m.devStreak := rfl
@[simp] theorem Mod.advance_diffStreak (m : Mod) (t : Nat) : (m.advance t).diffStreak = m.diffStreak := rfl
@[simp] theorem Mod.advance_gateStreak (m : Mod) (t : Nat) : (m.advance t).gateStreak = m.gateStreak := rfl
@[simp] theorem Mod.advance_rotation (m : Mod) (t : Nat) : (m.advance t).rotation = m.rotation := rfl
@[simp] theorem Mod.advance_bistWait (m : Mod) (t : Nat) : (m.advance t).bistWait = m.bistWait := rfl
@[simp] theorem Mod.advance_copy (m : Mod) (t : Nat) : (m.advance t).copy = m.copy := rfl
@[simp] theorem Mod.advance_books (m : Mod) (t : Nat) : (m.advance t).books = m.books := rfl
@[simp] theorem Mod.advance_digAgain (m : Mod) (t : Nat) : (m.advance t).digAgain = m.digAgain := rfl
@[simp] theorem Mod.advance_restart (m : Mod) (t : Nat) : (m.advance t).restart = m.restart := rfl
@[simp] theorem Mod.advance_lcWait (m : Mod) (t : Nat) : (m.advance t).lcWait = m.lcWait := rfl
@[simp] theorem Mod.advance_confirm (m : Mod) (t : Nat) : (m.advance t).confirm = m.confirm := rfl
@[simp] theorem Mod.advance_procs (m : Mod) (t : Nat) : (m.advance t).procs = m.procs := rfl
@[simp] theorem Mod.advance_obx (m : Mod) (t : Nat) : (m.advance t).obx = m.obx := rfl
@[simp] theorem Mod.advance_kst (m : Mod) (t : Nat) : (m.advance t).kst = m.kst := rfl
@[simp] theorem Mod.advance_drp (m : Mod) (t : Nat) : (m.advance t).drp = m.drp := rfl
@[simp] theorem Mod.advance_lio (m : Mod) (t : Nat) : (m.advance t).lio = m.lio := rfl
@[simp] theorem Mod.advance_jade (m : Mod) (t : Nat) : (m.advance t).jade = m.jade := rfl
@[simp] theorem Mod.advance_amber (m : Mod) (t : Nat) : (m.advance t).amber = m.amber := rfl
@[simp] theorem Mod.advance_power (m : Mod) (t : Nat) : (m.advance t).power = m.power := rfl
@[simp] theorem Mod.advance_time (m : Mod) (t : Nat) : (m.advance t).time = m.time := rfl
@[simp] theorem Mod.advance_phcfg (m : Mod) (t : Nat) : (m.advance t).phcfg = m.phcfg := rfl
@[simp] theorem Mod.advance_pair (m : Mod) (t : Nat) : (m.advance t).pair = m.pair := rfl
@[simp] theorem Mod.advance_nodes (m : Mod) (t : Nat) : (m.advance t).nodes = m.nodes := rfl
@[simp] theorem Mod.advance_stars (m : Mod) (t : Nat) : (m.advance t).stars = m.stars := rfl
@[simp] theorem Mod.advance_sent (m : Mod) (t : Nat) : (m.advance t).sent = m.sent := rfl

@[simp] theorem Mod.send_clock (m : Mod) (d : Dest) (b : Bytes) : (m.send d b).clock = m.clock := rfl
@[simp] theorem Mod.send_free (m : Mod) (d : Dest) (b : Bytes) : (m.send d b).free = m.free := rfl
@[simp] theorem Mod.send_full (m : Mod) (d : Dest) (b : Bytes) : (m.send d b).full = m.full := rfl
@[simp] theorem Mod.send_sid (m : Mod) (d : Dest) (b : Bytes) : (m.send d b).sid = m.sid := rfl
@[simp] theorem Mod.send_service (m : Mod) (d : Dest) (b : Bytes) : (m.send d b).service = m.service := rfl
@[simp] theorem Mod.send_role (m : Mod) (d : Dest) (b : Bytes) : (m.send d b).role = m.role := rfl
@[simp] theorem Mod.send_heldCause (m : Mod) (d : Dest) (b : Bytes) : (m.send d b).heldCause = m.heldCause := rfl
@[simp] theorem Mod.send_heldAt (m : Mod) (d : Dest) (b : Bytes) : (m.send d b).heldAt = m.heldAt := rfl
@[simp] theorem Mod.send_everActive (m : Mod) (d : Dest) (b : Bytes) : (m.send d b).everActive = m.everActive := rfl
@[simp] theorem Mod.send_bootAt (m : Mod) (d : Dest) (b : Bytes) : (m.send d b).bootAt = m.bootAt := rfl
@[simp] theorem Mod.send_cycle (m : Mod) (d : Dest) (b : Bytes) : (m.send d b).cycle = m.cycle := rfl
@[simp] theorem Mod.send_cycleTime (m : Mod) (d : Dest) (b : Bytes) : (m.send d b).cycleTime = m.cycleTime := rfl
@[simp] theorem Mod.send_cutAt (m : Mod) (d : Dest) (b : Bytes) : (m.send d b).cutAt = m.cutAt := rfl
@[simp] theorem Mod.send_stopCut (m : Mod) (d : Dest) (b : Bytes) : (m.send d b).stopCut = m.stopCut := rfl
@[simp] theorem Mod.send_ph (m : Mod) (d : Dest) (b : Bytes) : (m.send d b).ph = m.ph := rfl
@[simp] theorem Mod.send_handed (m : Mod) (d : Dest) (b : Bytes) : (m.send d b).handed = m.handed := rfl
@[simp] theorem Mod.send_outWait (m : Mod) (d : Dest) (b : Bytes) : (m.send d b).outWait = m.outWait := rfl
@[simp] theorem Mod.send_overruns (m : Mod) (d : Dest) (b : Bytes) : (m.send d b).overruns = m.overruns := rfl
@[simp] theorem Mod.send_winAt (m : Mod) (d : Dest) (b : Bytes) : (m.send d b).winAt = m.winAt := rfl
@[simp] theorem Mod.send_winLast (m : Mod) (d : Dest) (b : Bytes) : (m.send d b).winLast = m.winLast := rfl
@[simp] theorem Mod.send_runAt (m : Mod) (d : Dest) (b : Bytes) : (m.send d b).runAt = m.runAt := rfl
@[simp] theorem Mod.send_sealedAt (m : Mod) (d : Dest) (b : Bytes) : (m.send d b).sealedAt = m.sealedAt := rfl
@[simp] theorem Mod.send_lanes (m : Mod) (d : Dest) (b : Bytes) : (m.send d b).lanes = m.lanes := rfl
@[simp] theorem Mod.send_links (m : Mod) (d : Dest) (b : Bytes) : (m.send d b).links = m.links := rfl
@[simp] theorem Mod.send_minority (m : Mod) (d : Dest) (b : Bytes) : (m.send d b).minority = m.minority := rfl
@[simp] theorem Mod.send_minNow (m : Mod) (d : Dest) (b : Bytes) : (m.send d b).minNow = m.minNow := rfl
@[simp] theorem Mod.send_devStreak (m : Mod) (d : Dest) (b : Bytes) : (m.send d b).devStreak = m.devStreak := rfl
@[simp] theorem Mod.send_diffStreak (m : Mod) (d : Dest) (b : Bytes) : (m.send d b).diffStreak = m.diffStreak := rfl
@[simp] theorem Mod.send_gateStreak (m : Mod) (d : Dest) (b : Bytes) : (m.send d b).gateStreak = m.gateStreak := rfl
@[simp] theorem Mod.send_rotation (m : Mod) (d : Dest) (b : Bytes) : (m.send d b).rotation = m.rotation := rfl
@[simp] theorem Mod.send_bistWait (m : Mod) (d : Dest) (b : Bytes) : (m.send d b).bistWait = m.bistWait := rfl
@[simp] theorem Mod.send_copy (m : Mod) (d : Dest) (b : Bytes) : (m.send d b).copy = m.copy := rfl
@[simp] theorem Mod.send_books (m : Mod) (d : Dest) (b : Bytes) : (m.send d b).books = m.books := rfl
@[simp] theorem Mod.send_digAgain (m : Mod) (d : Dest) (b : Bytes) : (m.send d b).digAgain = m.digAgain := rfl
@[simp] theorem Mod.send_restart (m : Mod) (d : Dest) (b : Bytes) : (m.send d b).restart = m.restart := rfl
@[simp] theorem Mod.send_lcWait (m : Mod) (d : Dest) (b : Bytes) : (m.send d b).lcWait = m.lcWait := rfl
@[simp] theorem Mod.send_confirm (m : Mod) (d : Dest) (b : Bytes) : (m.send d b).confirm = m.confirm := rfl
@[simp] theorem Mod.send_procs (m : Mod) (d : Dest) (b : Bytes) : (m.send d b).procs = m.procs := rfl
@[simp] theorem Mod.send_obx (m : Mod) (d : Dest) (b : Bytes) : (m.send d b).obx = m.obx := rfl
@[simp] theorem Mod.send_kst (m : Mod) (d : Dest) (b : Bytes) : (m.send d b).kst = m.kst := rfl
@[simp] theorem Mod.send_drp (m : Mod) (d : Dest) (b : Bytes) : (m.send d b).drp = m.drp := rfl
@[simp] theorem Mod.send_lio (m : Mod) (d : Dest) (b : Bytes) : (m.send d b).lio = m.lio := rfl
@[simp] theorem Mod.send_jade (m : Mod) (d : Dest) (b : Bytes) : (m.send d b).jade = m.jade := rfl
@[simp] theorem Mod.send_amber (m : Mod) (d : Dest) (b : Bytes) : (m.send d b).amber = m.amber := rfl
@[simp] theorem Mod.send_power (m : Mod) (d : Dest) (b : Bytes) : (m.send d b).power = m.power := rfl
@[simp] theorem Mod.send_time (m : Mod) (d : Dest) (b : Bytes) : (m.send d b).time = m.time := rfl
@[simp] theorem Mod.send_phcfg (m : Mod) (d : Dest) (b : Bytes) : (m.send d b).phcfg = m.phcfg := rfl
@[simp] theorem Mod.send_pair (m : Mod) (d : Dest) (b : Bytes) : (m.send d b).pair = m.pair := rfl
@[simp] theorem Mod.send_nodes (m : Mod) (d : Dest) (b : Bytes) : (m.send d b).nodes = m.nodes := rfl
@[simp] theorem Mod.send_stars (m : Mod) (d : Dest) (b : Bytes) : (m.send d b).stars = m.stars := rfl

@[simp] theorem Mod.put_clock (m : Mod) (e : Evt) : (m.put e).clock = m.clock := rfl
@[simp] theorem Mod.put_free (m : Mod) (e : Evt) : (m.put e).free = m.free := rfl
@[simp] theorem Mod.put_full (m : Mod) (e : Evt) : (m.put e).full = m.full := rfl
@[simp] theorem Mod.put_sid (m : Mod) (e : Evt) : (m.put e).sid = m.sid := rfl
@[simp] theorem Mod.put_service (m : Mod) (e : Evt) : (m.put e).service = m.service := rfl
@[simp] theorem Mod.put_role (m : Mod) (e : Evt) : (m.put e).role = m.role := rfl
@[simp] theorem Mod.put_heldCause (m : Mod) (e : Evt) : (m.put e).heldCause = m.heldCause := rfl
@[simp] theorem Mod.put_heldAt (m : Mod) (e : Evt) : (m.put e).heldAt = m.heldAt := rfl
@[simp] theorem Mod.put_everActive (m : Mod) (e : Evt) : (m.put e).everActive = m.everActive := rfl
@[simp] theorem Mod.put_bootAt (m : Mod) (e : Evt) : (m.put e).bootAt = m.bootAt := rfl
@[simp] theorem Mod.put_cycle (m : Mod) (e : Evt) : (m.put e).cycle = m.cycle := rfl
@[simp] theorem Mod.put_cycleTime (m : Mod) (e : Evt) : (m.put e).cycleTime = m.cycleTime := rfl
@[simp] theorem Mod.put_cutAt (m : Mod) (e : Evt) : (m.put e).cutAt = m.cutAt := rfl
@[simp] theorem Mod.put_stopCut (m : Mod) (e : Evt) : (m.put e).stopCut = m.stopCut := rfl
@[simp] theorem Mod.put_ph (m : Mod) (e : Evt) : (m.put e).ph = m.ph := rfl
@[simp] theorem Mod.put_handed (m : Mod) (e : Evt) : (m.put e).handed = m.handed := rfl
@[simp] theorem Mod.put_outWait (m : Mod) (e : Evt) : (m.put e).outWait = m.outWait := rfl
@[simp] theorem Mod.put_overruns (m : Mod) (e : Evt) : (m.put e).overruns = m.overruns := rfl
@[simp] theorem Mod.put_winAt (m : Mod) (e : Evt) : (m.put e).winAt = m.winAt := rfl
@[simp] theorem Mod.put_winLast (m : Mod) (e : Evt) : (m.put e).winLast = m.winLast := rfl
@[simp] theorem Mod.put_runAt (m : Mod) (e : Evt) : (m.put e).runAt = m.runAt := rfl
@[simp] theorem Mod.put_sealedAt (m : Mod) (e : Evt) : (m.put e).sealedAt = m.sealedAt := rfl
@[simp] theorem Mod.put_lanes (m : Mod) (e : Evt) : (m.put e).lanes = m.lanes := rfl
@[simp] theorem Mod.put_links (m : Mod) (e : Evt) : (m.put e).links = m.links := rfl
@[simp] theorem Mod.put_minority (m : Mod) (e : Evt) : (m.put e).minority = m.minority := rfl
@[simp] theorem Mod.put_minNow (m : Mod) (e : Evt) : (m.put e).minNow = m.minNow := rfl
@[simp] theorem Mod.put_devStreak (m : Mod) (e : Evt) : (m.put e).devStreak = m.devStreak := rfl
@[simp] theorem Mod.put_diffStreak (m : Mod) (e : Evt) : (m.put e).diffStreak = m.diffStreak := rfl
@[simp] theorem Mod.put_gateStreak (m : Mod) (e : Evt) : (m.put e).gateStreak = m.gateStreak := rfl
@[simp] theorem Mod.put_rotation (m : Mod) (e : Evt) : (m.put e).rotation = m.rotation := rfl
@[simp] theorem Mod.put_bistWait (m : Mod) (e : Evt) : (m.put e).bistWait = m.bistWait := rfl
@[simp] theorem Mod.put_copy (m : Mod) (e : Evt) : (m.put e).copy = m.copy := rfl
@[simp] theorem Mod.put_books (m : Mod) (e : Evt) : (m.put e).books = m.books := rfl
@[simp] theorem Mod.put_digAgain (m : Mod) (e : Evt) : (m.put e).digAgain = m.digAgain := rfl
@[simp] theorem Mod.put_restart (m : Mod) (e : Evt) : (m.put e).restart = m.restart := rfl
@[simp] theorem Mod.put_lcWait (m : Mod) (e : Evt) : (m.put e).lcWait = m.lcWait := rfl
@[simp] theorem Mod.put_confirm (m : Mod) (e : Evt) : (m.put e).confirm = m.confirm := rfl
@[simp] theorem Mod.put_procs (m : Mod) (e : Evt) : (m.put e).procs = m.procs := rfl
@[simp] theorem Mod.put_obx (m : Mod) (e : Evt) : (m.put e).obx = m.obx := rfl
@[simp] theorem Mod.put_kst (m : Mod) (e : Evt) : (m.put e).kst = m.kst := rfl
@[simp] theorem Mod.put_drp (m : Mod) (e : Evt) : (m.put e).drp = m.drp := rfl
@[simp] theorem Mod.put_lio (m : Mod) (e : Evt) : (m.put e).lio = m.lio := rfl
@[simp] theorem Mod.put_jade (m : Mod) (e : Evt) : (m.put e).jade = m.jade := rfl
@[simp] theorem Mod.put_power (m : Mod) (e : Evt) : (m.put e).power = m.power := rfl
@[simp] theorem Mod.put_time (m : Mod) (e : Evt) : (m.put e).time = m.time := rfl
@[simp] theorem Mod.put_phcfg (m : Mod) (e : Evt) : (m.put e).phcfg = m.phcfg := rfl
@[simp] theorem Mod.put_pair (m : Mod) (e : Evt) : (m.put e).pair = m.pair := rfl
@[simp] theorem Mod.put_nodes (m : Mod) (e : Evt) : (m.put e).nodes = m.nodes := rfl
@[simp] theorem Mod.put_stars (m : Mod) (e : Evt) : (m.put e).stars = m.stars := rfl
@[simp] theorem Mod.put_sent (m : Mod) (e : Evt) : (m.put e).sent = m.sent := rfl

@[simp] theorem Mod.advance_clock (m : Mod) (t : Nat) : (m.advance t).clock = max m.clock t := rfl
@[simp] theorem Mod.send_sent (m : Mod) (d : Dest) (b : Bytes) : (m.send d b).sent = m.sent ++ [⟨m.clock, d, b⟩] := rfl

/-! ### Commands and the step -/

/-- What a command does: its effect on the module at its instant, and nothing to the queue. -/
@[simp] theorem State.at_next (s : State) (t : Nat) (f : Mod → Mod) : s.at t f = .next ⟨s.pending, f (s.m.advance t)⟩ := rfl

@[simp] theorem step_cons (s : State) (c : Instr) (rest : List Instr) (h : s.pending = c :: rest) :
    step s = exec c { s with pending := rest } := by
  unfold step; rw [h]

@[simp] theorem step_idle (s : State) (h : s.pending = []) : step s = .next s.tick := by
  unfold step; rw [h]

@[simp] theorem State.tick_pending (s : State) : s.tick.pending = s.pending := rfl
@[simp] theorem State.tick_m (s : State) : s.tick.m = s.m.advance (s.m.clock + 1) := rfl

end Sys2Proof.Machine
end

