-- ==== Sys2Proof/Laws/Beryl.lean ====
section
/-!
SUPPORT. What Beryl's shared operations can do: an answer changes no plane, a decision at the head of the pipeline answers once, a
retry of nothing does nothing, and the commands of a Beryl that does not fault change its lane only.
-/
namespace Sys2Proof.Machine

@[simp] theorem Beryl.answer_el (b : Beryl) (r : Rsp) (i h : Bool) : (b.answer r i h).el = b.el := by rfl
@[simp] theorem Beryl.answer_rt (b : Beryl) (r : Rsp) (i h : Bool) : (b.answer r i h).rt = b.rt := by rfl
@[simp] theorem Beryl.answer_ws (b : Beryl) (r : Rsp) (i h : Bool) : (b.answer r i h).ws = b.ws := by rfl
@[simp] theorem Beryl.answer_regs (b : Beryl) (r : Rsp) (i h : Bool) : (b.answer r i h).regs = b.regs := by rfl
@[simp] theorem Beryl.answer_tags (b : Beryl) (r : Rsp) (i h : Bool) : (b.answer r i h).tags = b.tags := by rfl
@[simp] theorem Beryl.answer_accepted (b : Beryl) (r : Rsp) (i h : Bool) : (b.answer r i h).accepted = b.accepted := by rfl
@[simp] theorem Beryl.countAnswer_el (b : Beryl) (st : Nat) : (b.countAnswer st).el = b.el := by rfl
@[simp] theorem Beryl.countAnswer_rt (b : Beryl) (st : Nat) : (b.countAnswer st).rt = b.rt := by rfl
@[simp] theorem Beryl.countAnswer_ws (b : Beryl) (st : Nat) : (b.countAnswer st).ws = b.ws := by rfl
@[simp] theorem Beryl.countAnswer_answers (b : Beryl) (st : Nat) : (b.countAnswer st).answers = b.answers := by rfl
@[simp] theorem Beryl.countAnswer_accepted (b : Beryl) (st : Nat) : (b.countAnswer st).accepted = b.accepted := by rfl
@[simp] theorem Beryl.countAnswer_tags (b : Beryl) (st : Nat) : (b.countAnswer st).tags = b.tags := by rfl
@[simp] theorem Beryl.countAnswer_lastKey (b : Beryl) (st : Nat) : (b.countAnswer st).lastKey = b.lastKey := by rfl
@[simp] theorem Beryl.countAnswer_reqCons (b : Beryl) (st : Nat) : (b.countAnswer st).regs.reqCons = b.regs.reqCons := by rfl
@[simp] theorem Beryl.countAnswer_faulted (b : Beryl) (st : Nat) : (b.countAnswer st).regs.faulted = b.regs.faulted := by rfl

/-- What the answers to descriptors already judged leave alone, and that they only add answers. -/
theorem Beryl.flushPre_spec (b : Beryl) :
    b.flushPre.el = b.el ∧ b.flushPre.rt = b.rt ∧ b.flushPre.ws = b.ws ∧ b.flushPre.tags = b.tags ∧ b.flushPre.lastKey = b.lastKey ∧
      b.flushPre.regs.faulted = b.regs.faulted ∧ b.flushPre.regs.reqCons = b.regs.reqCons ∧
      ∃ more, b.flushPre.answers = b.answers ++ more := by
  have h : ∀ (l : List Accepted) (b : Beryl),
      let f := l.foldl (fun (b : Beryl) a =>
        let st := a.pre.getD stBADOP
        (b.answer (mkRsp a.desc (.plain st none16) false) true (st != stNOTREADY && st != stTAGDUP)).countAnswer st) b
      f.el = b.el ∧ f.rt = b.rt ∧ f.ws = b.ws ∧ f.tags = b.tags ∧ f.lastKey = b.lastKey ∧ f.regs.faulted = b.regs.faulted ∧
        f.regs.reqCons = b.regs.reqCons ∧ ∃ more, f.answers = b.answers ++ more := by
    intro l
    induction l with
    | nil => intro b; simp
    | cons a l ih =>
      intro b
      obtain ⟨h1, h2, h3, h4, h5, h6, h7, more, h8⟩ := ih
        ((b.answer (mkRsp a.desc (.plain (a.pre.getD stBADOP) none16) false) true
          (a.pre.getD stBADOP != stNOTREADY && a.pre.getD stBADOP != stTAGDUP)).countAnswer (a.pre.getD stBADOP))
      refine ⟨h1, h2, h3, h4, h5, h6, h7, ?_⟩
      simp only [List.foldl_cons]
      rw [h8]
      exact ⟨_, List.append_assoc _ _ _⟩
  exact h _ { b with accepted := b.accepted.dropWhile (·.pre.isSome) }

@[simp] theorem Beryl.flushPre_el (b : Beryl) : b.flushPre.el = b.el := b.flushPre_spec.1
@[simp] theorem Beryl.flushPre_rt (b : Beryl) : b.flushPre.rt = b.rt := b.flushPre_spec.2.1
@[simp] theorem Beryl.flushPre_ws (b : Beryl) : b.flushPre.ws = b.ws := b.flushPre_spec.2.2.1
@[simp] theorem Beryl.flushPre_tags (b : Beryl) : b.flushPre.tags = b.tags := b.flushPre_spec.2.2.2.1
@[simp] theorem Beryl.flushPre_lastKey (b : Beryl) : b.flushPre.lastKey = b.lastKey := b.flushPre_spec.2.2.2.2.1
@[simp] theorem Beryl.flushPre_faulted (b : Beryl) : b.flushPre.regs.faulted = b.regs.faulted := b.flushPre_spec.2.2.2.2.2.1
@[simp] theorem Beryl.flushPre_reqCons (b : Beryl) : b.flushPre.regs.reqCons = b.regs.reqCons := b.flushPre_spec.2.2.2.2.2.2.1
theorem Beryl.flushPre_answers (b : Beryl) : ∃ more, b.flushPre.answers = b.answers ++ more := b.flushPre_spec.2.2.2.2.2.2.2

/-- A pipeline whose head is still to be decided is left as it is. -/
theorem Beryl.flushPre_pass (b : Beryl) (h : ∀ a ∈ b.accepted.head?, a.pre = none) : b.flushPre = b := by
  cases b with
  | mk el rt ws regs latched lastKey ord accepted answers tags sweepRun sweepReady published =>
    cases accepted with
    | nil => rfl
    | cons a r =>
      have : a.pre = none := h a rfl
      simp [Beryl.flushPre, List.takeWhile, List.dropWhile, this]

/-- Acceptance by the status of the first step that fails (R63, R67). -/
theorem Beryl.accept_of (b : Beryl) (d : Desc) (st : Option Nat) (h : b.preStatus d = st) :
    b.accept d =
      { b with accepted := b.accepted ++ [⟨d, st⟩]
               tags := if st = some 0x16 ∨ st = some 0x1C then b.tags else d.tag :: b.tags
               lastKey := if st = some 0x16 ∨ st = some 0x1C ∨ st = some 0x13 then b.lastKey else d.key } := by
  subst h
  unfold Beryl.accept
  by_cases h1 : b.preStatus d = some 0x16 <;> by_cases h2 : b.preStatus d = some 0x1C <;> by_cases h3 : b.preStatus d = some 0x13 <;>
    simp [h1, h2, h3, stNOTREADY, stTAGDUP, stORDER]

/-- The statuses of the first four steps. -/
theorem Beryl.preStatus_cases (b : Beryl) (d : Desc) (st : Nat) (h : b.preStatus d = some st) :
    st = 0x16 ∨ st = 0x1C ∨ st = 0x13 ∨ st = 0x14 := by
  unfold Beryl.preStatus at h
  repeat' split at h
  all_goals simp_all [stNOTREADY, stTAGDUP, stORDER, stBADOP]

/-- Without entries in the pending set, and without anything released, no retry changes anything. -/
@[simp] theorem Beryl.retryAll_nil (d : Stn) (n : Nat) (b : Beryl) : Beryl.retryAll d n [] b = b := by cases n <;> rfl
theorem Beryl.retry_none (b : Beryl) (d : Stn) (trig : RRow) (h : b.ws.pend = []) : b.retry d trig = b := by
  simp [Beryl.retry, Beryl.candidates, h]
@[simp] theorem Beryl.retry_zero (b : Beryl) (d : Stn) : b.retry d 0 = b := by
  have h : b.candidates d 0 = [] := by simp [Beryl.candidates]
  unfold Beryl.retry
  rw [h, Beryl.retryAll_nil]

/-- A command of Beryl that does not fault changes its lane only. -/
theorem Mod.berylDo_next (m : Mod) (x : Lane) (f : LaneSt → LaneSt) (hp : (m.lane x).powered = true)
    (hf : (f (m.lane x)).beryl.regs.faulted = false) : m.berylDo x f = m.setLane x (f (m.lane x)) := by
  simp [Mod.berylDo, hp, hf]

/-- So does one that leaves the fault bit as it stands. -/
theorem Mod.berylDo_keep (m : Mod) (x : Lane) (f : LaneSt → LaneSt) (hp : (m.lane x).powered = true)
    (hf : (f (m.lane x)).beryl.regs.faulted = (m.lane x).beryl.regs.faulted) : m.berylDo x f = m.setLane x (f (m.lane x)) := by
  have h : ¬((f (m.lane x)).beryl.regs.faulted = true ∧ (m.lane x).beryl.regs.faulted = false) := by rw [hf]; simp
  simp only [Mod.berylDo, hp, h, if_false, Bool.true_eq_false]

/-- An outcome answered: the planes are the outcome's, and the answer is the first one added. -/
theorem Beryl.conclude_spec (b : Beryl) (x : Desc) (st : Beryl × Verdict) :
    (b.conclude x st).el = st.1.el ∧ (b.conclude x st).rt = st.1.rt ∧ (b.conclude x st).ws = st.1.ws ∧
      (b.conclude x st).regs.faulted = st.1.regs.faulted ∧
      ∃ more, (b.conclude x st).answers = b.answers ++ ⟨{ mkRsp x st.2 false with ord := (b.ord + 1) % 65536 }, true, true⟩ :: more :=
  ⟨rfl, rfl, rfl, rfl, _, by simp [Beryl.conclude, Beryl.countAnswer, Beryl.answer]; rfl⟩

/-- The descriptor at the head of the pipeline is decided. -/
theorem LaneSt.decideOp_of (l : LaneSt) (op : Nat) (d : Desc) (rest : List Accepted) (hf : l.beryl.regs.faulted = false)
    (ha : l.beryl.accepted = ⟨d, none⟩ :: rest) (hop : d.op = op) :
    l.decideOp op =
      { l with beryl := (Beryl.decideOne { l.beryl with accepted := rest } (l.beryl.stn l.dram) l.tcm d).1.flushPre
               tcm := (Beryl.decideOne { l.beryl with accepted := rest } (l.beryl.stn l.dram) l.tcm d).2 } := by
  unfold LaneSt.decideOp
  rw [ha]
  simp only [Option.isSome_none, hop, hf, ne_eq, not_true_eq_false, Bool.false_eq_true, or_self, if_false]
  unfold Beryl.decideHead
  rw [ha]

/-- A decision on the planes: an outcome `o` of one operation, answered, with what stands already judged behind it answered too. -/
theorem Mod.berylDo_decide (m : Mod) (x : Lane) (op : Nat) (d : Desc) (rest : List Accepted) (o : Beryl × Verdict)
    (hp : (m.lane x).powered = true) (hf : (m.lane x).beryl.regs.faulted = false) (ha : (m.lane x).beryl.accepted = ⟨d, none⟩ :: rest)
    (hop : d.op = op) (ho : o.1.regs.faulted = false)
    (h : Beryl.decideOne { (m.lane x).beryl with accepted := rest } ((m.lane x).beryl.stn (m.lane x).dram) (m.lane x).tcm d =
      (Beryl.conclude { (m.lane x).beryl with accepted := rest } d o, (m.lane x).tcm)) :
    let b' := ((m.berylDo x fun l => l.decideOp op).lane x).beryl
    b'.el = o.1.el ∧ b'.rt = o.1.rt ∧ b'.ws = o.1.ws ∧
      ∃ a more, b'.answers = (m.lane x).beryl.answers ++ a :: more ∧ a.rsp.status = o.2.status ∧ a.rsp.who = o.2.who ∧
        a.rsp.splane = o.2.splane ∧ a.rsp.rplane = o.2.rplane ∧ a.rsp.tag = d.tag ∧ a.rsp.unsol = false := by
  have hd := LaneSt.decideOp_of (m.lane x) op d rest hf ha hop
  rw [h] at hd
  obtain ⟨h1, h2, h3, h4, more, h5⟩ := Beryl.conclude_spec { (m.lane x).beryl with accepted := rest } d o
  obtain ⟨more2, h6⟩ := Beryl.flushPre_answers (Beryl.conclude { (m.lane x).beryl with accepted := rest } d o)
  have hfl : ((m.lane x).decideOp op).beryl.regs.faulted = false := by
    rw [hd]; show (Beryl.flushPre _).regs.faulted = false; rw [Beryl.flushPre_faulted, h4, ho]
  have hb : ((m.berylDo x fun l => l.decideOp op).lane x).beryl = (Beryl.conclude { (m.lane x).beryl with accepted := rest } d o).flushPre := by
    rw [Mod.berylDo_next m x _ hp hfl, Mod.lane_setLane_self, hd]
  intro b'
  have hb' : b' = (Beryl.conclude { (m.lane x).beryl with accepted := rest } d o).flushPre := hb
  rw [hb', Beryl.flushPre_el, Beryl.flushPre_rt, Beryl.flushPre_ws, h6, h5]
  exact ⟨h1, h2, h3, _, more ++ more2, by rw [List.append_assoc, List.cons_append], rfl, rfl, rfl, rfl, rfl, rfl⟩

end Sys2Proof.Machine
end

