-- ==== Sys2Proof/Laws/Frame.lean ====
section
/-!
SUPPORT. The frame of every operation on the module: it leaves the core (clock, variant, SID, phase settings, instant of the last
start) alone. A start, power good and the settings taken at a start are the only operations that have no such lemma.
-/
set_option linter.unusedSimpArgs false
namespace Sys2Proof.Machine

@[simp] theorem Mod.core_fold (m : Mod) : (m.clock, m.full, m.sid, m.phcfg, m.bootAt) = m.core := rfl
@[simp] theorem Mod.core_mk clock free full sid service role heldCause heldAt everActive bootAt cycle cycleTime cutAt stopCut ph handed outWait overruns winAt winLast runAt sealedAt lanes links minority minNow devStreak diffStreak gateStreak rotation bistWait copy books digAgain restart lcWait confirm procs obx kst drp lio jade amber power time phcfg pair nodes stars sent :
  Mod.core (Mod.mk clock free full sid service role heldCause heldAt everActive bootAt cycle cycleTime cutAt stopCut ph handed outWait overruns winAt winLast runAt sealedAt lanes links minority minNow devStreak diffStreak gateStreak rotation bistWait copy books digAgain restart lcWait confirm procs obx kst drp lio jade amber power time phcfg pair nodes stars sent) = (clock, full, sid, phcfg, bootAt) := rfl
@[simp] theorem Mod.core_ite (c : Prop) {_ : Decidable c} (a b : Mod) : (if c then a else b).core = if c then a.core else b.core := by
  split <;> rfl
@[simp] theorem Mod.core_foldl {α : Type} (f : Mod → α → Mod) (l : List α) (m : Mod) (h : ∀ m a, (f m a).core = m.core) :
    (l.foldl f m).core = m.core := by
  induction l generalizing m with
  | nil => rfl
  | cons a l ih => simp only [List.foldl_cons, ih, h]
@[simp] theorem Mod.ite_fst_core {α : Type} (c : Prop) {_ : Decidable c} (a b : Mod × α) : (if c then a else b).1.core = if c then a.1.core else b.1.core := by
  split <;> rfl
@[simp] theorem Mod.setLane_core (m : Mod) (x : Lane) (l : LaneSt) : (Mod.setLane m x l).core = m.core := by rfl
@[simp] theorem Mod.modLane_core (m : Mod) (x : Lane) (f : LaneSt → LaneSt) : (Mod.modLane m x f).core = m.core := by rfl
@[simp] theorem Mod.put_core (m : Mod) (e : Evt) : (Mod.put m e).core = m.core := by rfl
@[simp] theorem Mod.puts_core (m : Mod) (es : List Evt) : (Mod.puts m es).core = m.core := by simp [Mod.puts]
@[simp] theorem Mod.send_core (m : Mod) (d : Dest) (b : Bytes) : (Mod.send m d b).core = m.core := by rfl
@[simp] theorem Mod.gates_core (m : Mod) : (Mod.gates m).core = m.core := by simp [Mod.gates]
@[simp] theorem Mod.ringPut_core (p : Path) (i : Item) (m : Mod) (x : Lane) : (Mod.ringPut p i m x).core = m.core := by simp [Mod.ringPut]
@[simp] theorem Mod.deliver_core (m : Mod) (p : Path) (i : Item) : (Mod.deliver m p i).core = m.core := by simp [Mod.deliver]
@[simp] theorem Mod.grnAll_core (m : Mod) (w : Word32) : (Mod.grnAll m w).core = m.core := by rfl
@[simp] theorem Mod.obxOut_core (m : Mod) (o : ObxOut) : (Mod.obxOut m o).core = m.core := by
  unfold Mod.obxOut; split <;> simp
@[simp] theorem Mod.obxOuts_core (m : Mod) (os : List ObxOut) : (Mod.obxOuts m os).core = m.core := by simp [Mod.obxOuts]
@[simp] theorem Mod.drOut_core (m : Mod) (o : DrOut) : (Mod.drOut m o).core = m.core := by
  unfold Mod.drOut; split <;> simp
@[simp] theorem Mod.drOuts_core (m : Mod) (os : List DrOut) : (Mod.drOuts m os).core = m.core := by simp [Mod.drOuts]
@[simp] theorem Mod.pairSend_core (m : Mod) (ty : Nat) (payload : Bytes) : (Mod.pairSend m ty payload).core = m.core := by simp [Mod.pairSend]
@[simp] theorem Mod.ctrl_core (m : Mod) (kind arg : Nat) : (Mod.ctrl m kind arg).core = m.core := by simp [Mod.ctrl]
@[simp] theorem Mod.setService_core (m : Mod) (s : Service) : (Mod.setService m s).core = m.core := by simp [Mod.setService]
@[simp] theorem Mod.countService_core (m : Mod) : (Mod.countService m).core = m.core := by simp [Mod.countService]
@[simp] theorem Mod.lowerCause_core (m : Mod) (cause : Nat) : (Mod.lowerCause m cause).core = m.core := by simp [Mod.lowerCause]
@[simp] theorem Mod.heldRole_core (m : Mod) : (Mod.heldRole m).core = m.core := by
  unfold Mod.heldRole; split
  · simp
  · split <;> simp
@[simp] theorem Mod.enterHeld_core (m : Mod) (cause : Nat) : (Mod.enterHeld m cause).core = m.core := by
  unfold Mod.enterHeld; (repeat' split) <;> simp
@[simp] theorem Mod.tooFew_core (m : Mod) : (Mod.tooFew m).core = m.core := by simp [Mod.tooFew]
@[simp] theorem Mod.shadowFail_core (m : Mod) (x : Lane) : (Mod.shadowFail m x).core = m.core := by
  unfold Mod.shadowFail; simp only; repeat' split
  all_goals simp
@[simp] theorem Mod.silence_core (m : Mod) (x : Lane) (c level unitNo : Nat) : (Mod.silence m x c level unitNo).core = m.core := by simp [Mod.silence]
@[simp] theorem Mod.stopLane_core (m : Mod) (x : Lane) (c unitNo : Nat) : (Mod.stopLane m x c unitNo).core = m.core := by simp [Mod.stopLane]
@[simp] theorem Mod.setLc_core (m : Mod) (s : LcState) (signer : Bytes) : (Mod.setLc m s signer).core = m.core := by rfl
@[simp] theorem Mod.setRole_core (m : Mod) (r : Nat) : (Mod.setRole m r).core = m.core := by rfl
@[simp] theorem Mod.berylDo_core (m : Mod) (x : Lane) (f : LaneSt → LaneSt) : (Mod.berylDo m x f).core = m.core := by simp [Mod.berylDo]
@[simp] theorem Mod.startSwap_core (m : Mod) (fault byMailbox : Bool) : (Mod.startSwap m fault byMailbox).core = m.core := by simp [Mod.startSwap]
@[simp] theorem Mod.bankRequests_core (m : Mod) : (Mod.bankRequests m).core = m.core := by simp [Mod.bankRequests]
@[simp] theorem Mod.loadControllers_core (m : Mod) (x : Lane) : (Mod.loadControllers m x).core = m.core := by rfl
@[simp] theorem Mod.changeOver_core (m : Mod) (w : ChangeWait) : (Mod.changeOver m w).core = m.core := by
  unfold Mod.changeOver
  have h : ∀ (m : Mod) (l : List Lane) (f : Mod → Lane → Mod), (∀ m x, (f m x).core = m.core) → (l.foldl f m).core = m.core :=
    fun m l f hf => Mod.core_foldl f l m hf
  have h1 : ∀ m : Mod, ({ m with jade := { m.jade with staged := [] }, pair := if m.role = roleACTIVE then m.pair.loseHot else m.pair } : Mod).core = m.core :=
    fun _ => rfl
  simp only
  split <;> (try rw [Mod.enterHeld_core]) <;> rw [h1] <;> split <;> (try rw [Mod.loadControllers_core]) <;>
    rw [Mod.bankRequests_core, h _ _ _ (by simp), h _ _ _ (by intro m x; split <;> simp)]
@[simp] theorem Mod.endChange_core (m : Mod) (res : Nat) : (Mod.endChange m res).core = m.core := by
  unfold Mod.endChange; split <;> simp
@[simp] theorem Mod.changeTest_core (m : Mod) : (Mod.changeTest m).core = m.core := by
  unfold Mod.changeTest; split <;> simp
@[simp] theorem Mod.changeCommit_core (m : Mod) (lc : LcState) (anum : Nat) (pl : Bytes) : (Mod.changeCommit m lc anum pl).core = m.core := by
  unfold Mod.changeCommit; simp only; repeat' split
  all_goals simp
@[simp] theorem Mod.exitLane_core (m : Mod) (x : Lane) (c : Nat) : (Mod.exitLane m x c).core = m.core := by simp [Mod.exitLane]
@[simp] theorem Mod.exitLanes_core (m : Mod) : (Mod.exitLanes m).core = m.core := by
  unfold Mod.exitLanes
  rw [Mod.tooFew_core]
  refine Mod.core_foldl _ _ _ fun m x => ?_
  repeat' split
  all_goals simp
@[simp] theorem Mod.startRotation_core (m : Mod) (x : Lane) (k : RotKind) : (Mod.startRotation m x k).core = m.core := by simp [Mod.startRotation]
@[simp] theorem Mod.tryRotation_core (m : Mod) (x : Lane) : (Mod.tryRotation m x).core = m.core := by
  unfold Mod.tryRotation; simp only; repeat' split
  all_goals simp
@[simp] theorem Mod.rotationDue_core (m : Mod) (x : Lane) : (Mod.rotationDue m x).core = m.core := by
  unfold Mod.rotationDue; simp only; repeat' split
  all_goals simp
@[simp] theorem Mod.startRejoin_core (m : Mod) : (Mod.startRejoin m).core = m.core := by
  unfold Mod.startRejoin; split <;> simp
@[simp] theorem Mod.startCommanded_core (m : Mod) : (Mod.startCommanded m).core = m.core := by
  unfold Mod.startCommanded; split <;> simp
@[simp] theorem Mod.startRotations_core (m0 : Mod) : (Mod.startRotations m0).core = m0.core := by
  unfold Mod.startRotations; simp only; repeat' split
  all_goals simp
@[simp] theorem Mod.rotationFail_core (m : Mod) : (Mod.rotationFail m).core = m.core := by
  unfold Mod.rotationFail; split <;> simp
@[simp] theorem Mod.rotStep_core (m : Mod) (x : Lane) (from' to' : RotStep) : (Mod.rotStep m x from' to').core = m.core := by
  unfold Mod.rotStep; split <;> simp
@[simp] theorem Mod.startCopy_core (m : Mod) (x : Lane) : (Mod.startCopy m x).core = m.core := by
  unfold Mod.startCopy; repeat' split
  all_goals simp
@[simp] theorem Mod.copyEqual_core (m : Mod) : (Mod.copyEqual m).core = m.core := by
  unfold Mod.copyEqual; split <;> simp
@[simp] theorem Mod.rejoin_core (m : Mod) : (Mod.rejoin m).core = m.core := by
  unfold Mod.rejoin; simp only; repeat' split
  all_goals simp
@[simp] theorem Mod.digOne_core (m : Mod) (k : Nat) : (Mod.digOne m k).core = m.core := by
  unfold Mod.digOne; split <;> simp
@[simp] theorem Mod.digCompare_core (m : Mod) : (Mod.digCompare m).core = m.core := by simp [Mod.digCompare]
@[simp] theorem Mod.linkFault_core (m : Mod) (n : LinkName) : (Mod.linkFault m n).core = m.core := by simp [Mod.linkFault]
@[simp] theorem Mod.linkRetrain_core (m : Mod) (n : LinkName) (ok : Bool) : (Mod.linkRetrain m n ok).core = m.core := by
  unfold Mod.linkRetrain; simp only; repeat' split
  all_goals simp
@[simp] theorem Mod.cutLane_core (m : Mod) (x : Lane) : (Mod.cutLane m x).core = m.core := by rfl
theorem Mod.served_core (m : Mod) (f : Mod → Mod) (h : (f m).core = m.core) : (Mod.served m f).core = m.core := by
  unfold Mod.served
  split <;> simp [h]
@[simp] theorem Mod.lcDue_core (m : Mod) : (Mod.lcDue m).core = m.core := by
  unfold Mod.lcDue; split <;> simp
@[simp] theorem Mod.boundary_core (m : Mod) : (Mod.boundary m).core = m.core := by
  unfold Mod.boundary
  rw [Mod.gates_core, Mod.lcDue_core, Mod.served_core _ _ (Mod.startRotations_core _), Mod.served_core _ _ (Mod.changeTest_core _),
    Mod.served_core _ _ (Mod.countService_core _), Mod.rejoin_core, Mod.exitLanes_core]
@[simp] theorem Mod.beginCycle_core (m : Mod) : (Mod.beginCycle m).core = m.core := by rfl
@[simp] theorem Mod.inputCut_core (m : Mod) (x : Lane) : (Mod.inputCut m x).core = m.core := by simp [Mod.inputCut]
@[simp] theorem Mod.cutTimeout_core (m : Mod) (x : Lane) : (Mod.cutTimeout m x).core = m.core := by simp [Mod.cutTimeout]
@[simp] theorem Mod.sendFollow_core (m : Mod) (its : List Item) (agreed : Meas) : (Mod.sendFollow m its agreed).core = m.core := by
  unfold Mod.sendFollow; repeat' split
  all_goals simp
@[simp] theorem Mod.countMinority_core (m : Mod) (mins : List Lane) (dev : List (Lane × Nat)) : (Mod.countMinority m mins dev).core = m.core := by simp [Mod.countMinority]
@[simp] theorem Mod.judgeExc_core (m : Mod) : (Mod.judgeExc m).core = m.core := by simp [Mod.judgeExc]
@[simp] theorem Mod.changeMsgs_core (m : Mod) : (Mod.changeMsgs m).core = m.core := by
  unfold Mod.changeMsgs; split <;> simp
@[simp] theorem Mod.runLanes_core (m : Mod) (excs : PerLane (Option ProgExc)) : (Mod.runLanes m excs).core = m.core := by simp [Mod.runLanes]
@[simp] theorem Mod.inputConsensus_core (m : Mod) (excs : PerLane (Option ProgExc)) : (Mod.inputConsensus m excs).core = m.core := by simp [Mod.inputConsensus]
@[simp] theorem Mod.wcetOverrun_core (m : Mod) (x : Lane) (e : ProgExc) : (Mod.wcetOverrun m x e).core = m.core := by simp [Mod.wcetOverrun]
@[simp] theorem Mod.openWindow_core (m : Mod) (v : Bool) : (Mod.openWindow m v).core = m.core := by
  unfold Mod.openWindow; split <;> simp
@[simp] theorem Mod.outputOffer_core (m : Mod) (x : Lane) (sealOk : Bool) : (Mod.outputOffer m x sealOk).core = m.core := by
  unfold Mod.outputOffer; (repeat' split) <;> simp
@[simp] theorem Mod.sliceOutside_core (m : Mod) (s : Nat) (r : SliceRec) (codes : List Nat) (again : Bool) : (Mod.sliceOutside m s r codes again).core = m.core := by simp [Mod.sliceOutside]
@[simp] theorem Mod.kstSend_core (m : Mod) (b : Bytes) : (Mod.kstSend m b).core = m.core := by simp [Mod.kstSend]
@[simp] theorem Mod.driveLocal_core (m : Mod) (x : Lane) (ws : List Nat) : (Mod.driveLocal m x ws).core = m.core := by simp [Mod.driveLocal]
@[simp] theorem Mod.handOver_core (m : Mod) (o : OutSet) : (Mod.handOver m o).core = m.core := by simp [Mod.handOver]
@[simp] theorem Mod.stageOut_core (m : Mod) (x : Lane) (first : Bool) : (Mod.stageOut m x first).core = m.core := by simp [Mod.stageOut]
@[simp] theorem Mod.tail_core (m : Mod) (ins : PerLane SliceIn) : (Mod.tail m ins).core = m.core := by
  unfold Mod.tail; simp only; repeat' split
  all_goals simp
@[simp] theorem Mod.judgeShadow_core (m : Mod) (v : VoteOut) (offers : List (Lane × List Nat)) : (Mod.judgeShadow m v offers).core = m.core := by
  unfold Mod.judgeShadow; split <;> simp
@[simp] theorem Mod.sendSum_core (m : Mod) (sum : Option Nat) : (Mod.sendSum m sum).core = m.core := by simp [Mod.sendSum]
@[simp] theorem Mod.voteRegs_core (m : Mod) (len offers : Nat) (late : List Lane) (v : VoteOut) : (Mod.voteRegs m len offers late v).core = m.core := by rfl
@[simp] theorem Mod.voteClose_core (m : Mod) (ins : PerLane SliceIn) : (Mod.voteClose m ins).core = m.core := by simp [Mod.voteClose]
@[simp] theorem Mod.windowClose_core (m : Mod) (ins : PerLane SliceIn) : (Mod.windowClose m ins).core = m.core := by
  unfold Mod.windowClose; repeat' split
  all_goals simp
@[simp] theorem Mod.phaseOverrun_core (m : Mod) (phase len : Nat) : (Mod.phaseOverrun m phase len).core = m.core := by simp [Mod.phaseOverrun]
@[simp] theorem Mod.handTimeout_core (m : Mod) : (Mod.handTimeout m).core = m.core := by simp [Mod.handTimeout]
@[simp] theorem Mod.erase_core (m : Mod) (s : LcState) : (Mod.erase m s).core = m.core := by simp [Mod.erase]
@[simp] theorem Mod.restartLc_core (m : Mod) : (Mod.restartLc m).core = m.core := by
  unfold Mod.restartLc; split <;> simp
@[simp] theorem Mod.slotReread_core (m : Mod) (sid : Nat) : (Mod.slotReread m sid).core = m.core := by simp [Mod.slotReread]
@[simp] theorem Mod.dupSid_core (m : Mod) (claim ftype : Nat) : (Mod.dupSid m claim ftype).core = m.core := by simp [Mod.dupSid]
@[simp] theorem Mod.jadeWatchdog_core (m : Mod) : (Mod.jadeWatchdog m).core = m.core := by simp [Mod.jadeWatchdog]
@[simp] theorem Mod.laneFails_core (m0 : Mod) (x : Lane) : (Mod.laneFails m0 x).core = m0.core := by
  unfold Mod.laneFails; simp only; repeat' split
  all_goals simp
@[simp] theorem Mod.firmwareLoad_core (m : Mod) (p : Proc) (digestOk : Bool) : (Mod.firmwareLoad m p digestOk).core = m.core := by
  unfold Mod.firmwareLoad; repeat' split
  all_goals simp
@[simp] theorem Mod.controllerTest_core (m : Mod) (p : Proc) (test : Nat) (pass : Bool) : (Mod.controllerTest m p test pass).core = m.core := by simp [Mod.controllerTest]
@[simp] theorem Mod.enableViews_core (m : Mod) (x : Lane) : (Mod.enableViews m x).core = m.core := by rfl
@[simp] theorem Mod.laneStation_core (m : Mod) (x : Lane) : (Mod.laneStation m x).core = m.core := by
  unfold Mod.laneStation; simp only; repeat' split
  all_goals simp
@[simp] theorem Mod.bistFailed_core (m : Mod) (x : Lane) (target test : Nat) : (Mod.bistFailed m x target test).core = m.core := by rfl
@[simp] theorem Mod.laneSelfTest_core (m : Mod) (x : Lane) (fail : Option (Nat × Nat)) (findings : List Finding) : (Mod.laneSelfTest m x fail findings).core = m.core := by
  unfold Mod.laneSelfTest; simp only; repeat' split
  all_goals simp
@[simp] theorem Mod.eccCandidate_core (m : Mod) (x : Lane) (target kind faddr addr : Nat) : (Mod.eccCandidate m x target kind faddr addr).core = m.core := by simp [Mod.eccCandidate]
@[simp] theorem Mod.sliceIncomplete_core (m : Mod) (x : Lane) : (Mod.sliceIncomplete m x).core = m.core := by simp [Mod.sliceIncomplete]
@[simp] theorem Mod.startFailure_core (m : Mod) (noLight : Bool) : (Mod.startFailure m noLight).core = m.core := by
  unfold Mod.startFailure; repeat' split
  all_goals simp
@[simp] theorem Mod.recordExchange_core (m : Mod) : (Mod.recordExchange m).core = m.core := by
  unfold Mod.recordExchange; simp only; repeat' split
  all_goals simp
@[simp] theorem Mod.firstCycle_core (m : Mod) : (Mod.firstCycle m).core = m.core := by simp [Mod.firstCycle]
@[simp] theorem Mod.laneDo_core (m : Mod) (x : Lane) (f : LaneSt → LaneSt) : (Mod.laneDo m x f).core = m.core := by simp [Mod.laneDo]
@[simp] theorem Mod.lockstep_core (m : Mod) (x : Lane) (unitNo : Nat) : (Mod.lockstep m x unitNo).core = m.core := by simp [Mod.lockstep]
@[simp] theorem Mod.comparatorFault_core (m : Mod) (x : Lane) : (Mod.comparatorFault m x).core = m.core := by simp [Mod.comparatorFault]
@[simp] theorem Mod.monitorTrip_core (m : Mod) (x : Lane) (clock : Bool) (dev : Nat) : (Mod.monitorTrip m x clock dev).core = m.core := by simp [Mod.monitorTrip]
@[simp] theorem Mod.garnetCrc_core (m : Mod) (x : Lane) (n : LinkName) (again : Bool) : (Mod.garnetCrc m x n again).core = m.core := by simp [Mod.garnetCrc]
@[simp] theorem Mod.rotationOverdue_core (m : Mod) (x : Lane) : (Mod.rotationOverdue m x).core = m.core := by
  unfold Mod.rotationOverdue; simp only; repeat' split
  all_goals simp
@[simp] theorem Mod.soloDone_core (m : Mod) (x : Lane) (ok : Bool) : (Mod.soloDone m x ok).core = m.core := by simp [Mod.soloDone]
@[simp] theorem Mod.linkDown_core (m : Mod) (x y : Lane) : (Mod.linkDown m x y).core = m.core := by simp [Mod.linkDown]
@[simp] theorem Mod.lanePowerCycle_core (m : Mod) (x : Lane) : (Mod.lanePowerCycle m x).core = m.core := by simp [Mod.lanePowerCycle]
@[simp] theorem Mod.rotationAbandon_core (m : Mod) : (Mod.rotationAbandon m).core = m.core := by
  unfold Mod.rotationAbandon; split <;> simp
@[simp] theorem Mod.gateCount_core (m : Mod) (x : Lane) : (Mod.gateCount m x).core = m.core := by simp [Mod.gateCount]
@[simp] theorem Mod.gateReadback_core (m : Mod) (bad : List Nat) : (Mod.gateReadback m bad).core = m.core := by simp [Mod.gateReadback]
@[simp] theorem Mod.debugHalt_core (m : Mod) (x : Lane) : (Mod.debugHalt m x).core = m.core := by simp [Mod.debugHalt]
@[simp] theorem Mod.toCold_core (m : Mod) : (Mod.toCold m).core = m.core := by simp [Mod.toCold]
@[simp] theorem Mod.diverge_core (m : Mod) : (Mod.diverge m).core = m.core := by simp [Mod.diverge]
@[simp] theorem Mod.followLane_core (m : Mod) (c : CycleIn) (f : FollowRec) (its : List Item) (x : Lane) : (Mod.followLane m c f its x).core = m.core := by simp [Mod.followLane]
@[simp] theorem Mod.followChange_core (m : Mod) : (Mod.followChange m).core = m.core := by
  unfold Mod.followChange; split <;> simp
@[simp] theorem Mod.compareSums_core (m : Mod) : (Mod.compareSums m).core = m.core := by
  unfold Mod.compareSums; repeat' split
  all_goals simp
@[simp] theorem Mod.followRun_core (m : Mod) (f : FollowRec) (its : List Item) (excs : PerLane (Option ProgExc)) (ins : PerLane SliceIn) : (Mod.followRun m f its excs ins).core = m.core := by simp [Mod.followRun]
@[simp] theorem Mod.followTry_core (m : Mod) (f : FollowRec) (excs : PerLane (Option ProgExc)) (ins : PerLane SliceIn) : (Mod.followTry m f excs ins).core = m.core := by
  unfold Mod.followTry; split <;> simp
@[simp] theorem Mod.follow_core (m : Mod) (f : FollowRec) (excs : PerLane (Option ProgExc)) (ins : PerLane SliceIn) : (Mod.follow m f excs ins).core = m.core := by simp [Mod.follow]
@[simp] theorem Mod.fack_core (m : Mod) (c : Nat) : (Mod.fack m c).core = m.core := by
  unfold Mod.fack; simp only; repeat' split
  all_goals simp
@[simp] theorem Mod.fackTimeout_core (m : Mod) : (Mod.fackTimeout m).core = m.core := by
  unfold Mod.fackTimeout; simp only; repeat' split
  all_goals simp
@[simp] theorem Mod.sum_core (m : Mod) (c : Nat) (value : Option Nat) : (Mod.sum m c value).core = m.core := by simp [Mod.sum]
@[simp] theorem Mod.fetch_core (m : Mod) (r : ReplyRef) : (Mod.fetch m r).core = m.core := by
  unfold Mod.fetch; repeat' split
  all_goals simp
@[simp] theorem Mod.itemArrives_core (m : Mod) (i : Item) (excs : PerLane (Option ProgExc)) (ins : PerLane SliceIn) : (Mod.itemArrives m i excs ins).core = m.core := by
  unfold Mod.itemArrives; split <;> simp
@[simp] theorem Mod.delay_core (m : Mod) (es : List (Chan × Nat × Int × Int)) : (Mod.delay m es).core = m.core := by simp [Mod.delay]
@[simp] theorem Mod.stbySend_core (m : Mod) (ch : Chan) : (Mod.stbySend m ch).core = m.core := by simp [Mod.stbySend]
@[simp] theorem Mod.sendCopy_core (m : Mod) (l : LaneSt) : (Mod.sendCopy m l).core = m.core := by simp [Mod.sendCopy]
@[simp] theorem Mod.standbyCopy_core (m : Mod) (src : LaneSt) : (Mod.standbyCopy m src).core = m.core := by
  unfold Mod.standbyCopy; repeat' split
  all_goals simp
@[simp] theorem Mod.sendArp_core (m : Mod) : (Mod.sendArp m).core = m.core := by simp [Mod.sendArp]
@[simp] theorem Mod.sealLast_core (m : Mod) : (Mod.sealLast m).core = m.core := by rfl
@[simp] theorem Mod.lead_core (m : Mod) (n : Nat) (hot : Bool) : (Mod.lead m n hot).core = m.core := by simp [Mod.lead]
@[simp] theorem Mod.grant_core (m : Mod) (ch : Chan) (f : Frame) : (Mod.grant m ch f).core = m.core := by simp [Mod.grant]
@[simp] theorem Mod.swapOffer_core (m : Mod) (at' : Nat) : (Mod.swapOffer m at').core = m.core := by simp [Mod.swapOffer]
@[simp] theorem Mod.swapAccept_core (m : Mod) (n : Nat) : (Mod.swapAccept m n).core = m.core := by
  unfold Mod.swapAccept; split <;> simp
@[simp] theorem Mod.swapEnd_core (m : Mod) : (Mod.swapEnd m).core = m.core := by rfl
@[simp] theorem Mod.swapAbort_core (m : Mod) : (Mod.swapAbort m).core = m.core := by
  unfold Mod.swapAbort; split <;> simp
@[simp] theorem Mod.swapFail_core (m : Mod) : (Mod.swapFail m).core = m.core := by simp [Mod.swapFail]
@[simp] theorem Mod.swapCutStop_core (m : Mod) : (Mod.swapCutStop m).core = m.core := by
  unfold Mod.swapCutStop; split <;> simp
@[simp] theorem Mod.swapCommit_core (m : Mod) : (Mod.swapCommit m).core = m.core := by
  unfold Mod.swapCommit; split <;> simp
@[simp] theorem Mod.swapHandover_core (m : Mod) : (Mod.swapHandover m).core = m.core := by
  unfold Mod.swapHandover; split <;> simp
@[simp] theorem Mod.swapChange_core (m : Mod) : (Mod.swapChange m).core = m.core := by
  unfold Mod.swapChange; split <;> simp
@[simp] theorem Mod.swapRoles_core (m : Mod) : (Mod.swapRoles m).core = m.core := by
  unfold Mod.swapRoles; split <;> simp
@[simp] theorem Mod.autoswap_core (m : Mod) : (Mod.autoswap m).core = m.core := by simp [Mod.autoswap]
@[simp] theorem Mod.swapOverdue_core (m : Mod) : (Mod.swapOverdue m).core = m.core := by simp [Mod.swapOverdue]
@[simp] theorem Mod.faultSwap_core (m : Mod) : (Mod.faultSwap m).core = m.core := by simp [Mod.faultSwap]
@[simp] theorem Mod.relinquishAck_core (m : Mod) : (Mod.relinquishAck m).core = m.core := by
  unfold Mod.relinquishAck; split <;> simp
@[simp] theorem Mod.relinquishLate_core (m : Mod) : (Mod.relinquishLate m).core = m.core := by
  unfold Mod.relinquishLate; split <;> simp
@[simp] theorem Mod.relinquished_core (m : Mod) : (Mod.relinquished m).core = m.core := by simp [Mod.relinquished]
@[simp] theorem Mod.demote_core (m : Mod) : (Mod.demote m).core = m.core := by simp [Mod.demote]
@[simp] theorem Mod.higherClaim_core (m : Mod) (claim : Nat) : (Mod.higherClaim m claim).core = m.core := by simp [Mod.higherClaim]
@[simp] theorem Mod.lcPass_core (m : Mod) (s : LcState) (cycle : Nat) (signer : Bytes) : (Mod.lcPass m s cycle signer).core = m.core := by simp [Mod.lcPass]
@[simp] theorem Mod.ctrlStatus_core (m : Mod) (s : PairStatus) : (Mod.ctrlStatus m s).core = m.core := by simp [Mod.ctrlStatus]
@[simp] theorem Mod.pairLinkFault_core (m : Mod) : (Mod.pairLinkFault m).core = m.core := by
  unfold Mod.pairLinkFault; simp only; repeat' split
  all_goals simp
@[simp] theorem Mod.pairLinkRetrain_core (m : Mod) (ok : Bool) : (Mod.pairLinkRetrain m ok).core = m.core := by simp [Mod.pairLinkRetrain]
@[simp] theorem Mod.obxDo_core (m : Mod) (r : Obx × List ObxOut) : (Mod.obxDo m r).core = m.core := by simp [Mod.obxDo]
@[simp] theorem Mod.switched_core (m : Mod) (bank : Bool) : (Mod.switched m bank).core = m.core := by simp [Mod.switched]
@[simp] theorem Mod.minorStart_core (m : Mod) : (Mod.minorStart m).core = m.core := by simp [Mod.minorStart]
@[simp] theorem Mod.bankSwWrite_core (m : Mod) (x : Lane) (v : Word32) : (Mod.bankSwWrite m x v).core = m.core := by simp [Mod.bankSwWrite]
@[simp] theorem Mod.bankSwitch_core (m : Mod) : (Mod.bankSwitch m).core = m.core := by simp [Mod.bankSwitch]
@[simp] theorem Mod.pollAssemble_core (m : Mod) (ch : Chan) (k : Nat) : (Mod.pollAssemble m ch k).core = m.core := by rfl
@[simp] theorem Mod.pollSend_core (m : Mod) (ch : Chan) (k : Nat) : (Mod.pollSend m ch k).core = m.core := by simp [Mod.pollSend]
@[simp] theorem Mod.replyReceive_core (m : Mod) (ch : Chan) (f : Frame) (second : Option Frame) : (Mod.replyReceive m ch f second).core = m.core := by
  unfold Mod.replyReceive; split <;> simp
@[simp] theorem Mod.echoSend_core (m : Mod) (ch : Chan) (w : Nat) : (Mod.echoSend m ch w).core = m.core := by simp [Mod.echoSend]
@[simp] theorem Mod.echorReceive_core (m : Mod) (ch : Chan) (f : Frame) : (Mod.echorReceive m ch f).core = m.core := by simp [Mod.echorReceive]
@[simp] theorem Mod.markerItem_core (m : Mod) (ch : Chan) : (Mod.markerItem m ch).core = m.core := by simp [Mod.markerItem]
@[simp] theorem Mod.smgtSend_core (m : Mod) (ch : Chan) : (Mod.smgtSend m ch).core = m.core := by simp [Mod.smgtSend]
@[simp] theorem Mod.srptReceive_core (m : Mod) (ch : Chan) (f : Frame) (r : Srpt) : (Mod.srptReceive m ch f r).core = m.core := by simp [Mod.srptReceive]
@[simp] theorem Mod.portReenable_core (m : Mod) (ch : Chan) (k : Nat) : (Mod.portReenable m ch k).core = m.core := by rfl
@[simp] theorem Mod.channelJudge_core (m : Mod) (ch : Chan) (light : Bool) : (Mod.channelJudge m ch light).core = m.core := by
  unfold Mod.channelJudge; simp only; repeat' split
  all_goals simp
@[simp] theorem Mod.setNode_core (m : Mod) (k : Nat) (n : Node) : (Mod.setNode m k n).core = m.core := by rfl
@[simp] theorem Mod.nodeDo_core (m : Mod) (k : Nat) (r : Node × List ObxOut) : (Mod.nodeDo m k r).core = m.core := by simp [Mod.nodeDo]
@[simp] theorem Mod.setStar_core (m : Mod) (ch : Chan) (s : Star) : (Mod.setStar m ch s).core = m.core := by rfl
@[simp] theorem Mod.starDo_core (m : Mod) (ch : Chan) (r : Star × List ObxOut) : (Mod.starDo m ch r).core = m.core := by simp [Mod.starDo]
@[simp] theorem Mod.nodePoll_core (m : Mod) (k : Nat) (ch : Chan) (f : Frame) (i : NodeIn) : (Mod.nodePoll m k ch f i).core = m.core := by simp [Mod.nodePoll]
@[simp] theorem Mod.nodeNpoll_core (m : Mod) (k : Nat) (ch : Chan) (f : Frame) (i : NodeIn) : (Mod.nodeNpoll m k ch f i).core = m.core := by simp [Mod.nodeNpoll]
@[simp] theorem Mod.nodeHpoll_core (m : Mod) (k : Nat) (ch : Chan) (f : Frame) (i : NodeIn) : (Mod.nodeHpoll m k ch f i).core = m.core := by simp [Mod.nodeHpoll]
@[simp] theorem Mod.nodeExpire_core (m : Mod) (k : Nat) : (Mod.nodeExpire m k).core = m.core := by rfl
@[simp] theorem Mod.nodeCyc_core (m : Mod) (k : Nat) (ch : Chan) (f : Frame) : (Mod.nodeCyc m k ch f).core = m.core := by rfl
@[simp] theorem Mod.nodeClaimClear_core (m : Mod) (k : Nat) : (Mod.nodeClaimClear m k).core = m.core := by rfl
@[simp] theorem Mod.nodeCommit_core (m : Mod) (k : Nat) : (Mod.nodeCommit m k).core = m.core := by rfl
@[simp] theorem Mod.nodeSense_core (m : Mod) (k : Nat) (valid : Bool) (tick mhz : Nat) : (Mod.nodeSense m k valid tick mhz).core = m.core := by rfl
@[simp] theorem Mod.nodeReset_core (m : Mod) (k : Nat) : (Mod.nodeReset m k).core = m.core := by rfl
@[simp] theorem Mod.nodeAcyc_core (m : Mod) (k : Nat) (ch : Chan) (f : Frame) (content : Bytes) : (Mod.nodeAcyc m k ch f content).core = m.core := by simp [Mod.nodeAcyc]
@[simp] theorem Mod.starFilter_core (m : Mod) (ch : Chan) (p : SPort) (f : Frame) : (Mod.starFilter m ch p f).core = m.core := by
  unfold Mod.starFilter; split <;> simp
@[simp] theorem Mod.stby_core (m : Mod) (ch : Chan) (p : Nat) (f : Frame) : (Mod.stby m ch p f).core = m.core := by simp [Mod.stby]
@[simp] theorem Mod.starGrant_core (m : Mod) (ch : Chan) : (Mod.starGrant m ch).core = m.core := by simp [Mod.starGrant]
@[simp] theorem Mod.starCold_core (m : Mod) (ch : Chan) (p1 t1 : Nat) (f1 : Frame) (t2 : Nat) (f2 : Frame) : (Mod.starCold m ch p1 t1 f1 t2 f2).core = m.core := by rfl
@[simp] theorem Mod.starSmgt_core (m : Mod) (ch : Chan) (f : Frame) (g : Smgt) : (Mod.starSmgt m ch f g).core = m.core := by simp [Mod.starSmgt]
@[simp] theorem Mod.starPower_core (m : Mod) (ch : Chan) : (Mod.starPower m ch).core = m.core := by rfl
@[simp] theorem Mod.echoAt_core (m : Mod) (w : Who) (ch : Chan) (f : Frame) : (Mod.echoAt m w ch f).core = m.core := by
  unfold Mod.echoAt; split <;> simp
@[simp] theorem Mod.setWhoSync_core (m : Mod) (w : Who) (s : Sync) : (Mod.setWhoSync m w s).core = m.core := by
  unfold Mod.setWhoSync; split <;> simp
@[simp] theorem Mod.syncSend_core (m : Mod) (w : Who) : (Mod.syncSend m w).core = m.core := by
  unfold Mod.syncSend; split <;> simp
@[simp] theorem Mod.hear_core (m : Mod) (ch : Chan) (addr : Nat) : (Mod.hear m ch addr).core = m.core := by
  unfold Mod.hear; repeat' split
  all_goals simp
@[simp] theorem Mod.syncReceive_core (m : Mod) (w : Who) (ch : Chan) (f : Frame) : (Mod.syncReceive m w ch f).core = m.core := by
  unfold Mod.syncReceive; repeat' split
  all_goals simp
@[simp] theorem Mod.offsetCorrect_core (m : Mod) (w : Who) : (Mod.offsetCorrect m w).core = m.core := by
  unfold Mod.offsetCorrect; repeat' split
  all_goals simp
@[simp] theorem Mod.rateCorrect_core (m : Mod) (w : Who) : (Mod.rateCorrect m w).core = m.core := by simp [Mod.rateCorrect]
@[simp] theorem Mod.versionMove_core (m : Mod) (k : Nat) : (Mod.versionMove m k).core = m.core := by simp [Mod.versionMove]
@[simp] theorem Mod.aggregate_core (m : Mod) : (Mod.aggregate m).core = m.core := by simp [Mod.aggregate]
@[simp] theorem Mod.cyclePoint_core (m : Mod) (x : Lane) (k : Nat) : (Mod.cyclePoint m x k).core = m.core := by simp [Mod.cyclePoint]
@[simp] theorem Mod.mayListen_core (m : Mod) : (Mod.mayListen m).core = m.core := by simp [Mod.mayListen]
@[simp] theorem Mod.setTime_core (m : Mod) : (Mod.setTime m).core = m.core := by simp [Mod.setTime]
@[simp] theorem Mod.listenTimeout_core (m : Mod) : (Mod.listenTimeout m).core = m.core := by
  unfold Mod.listenTimeout; split <;> simp
@[simp] theorem Mod.coldSend_core (m : Mod) : (Mod.coldSend m).core = m.core := by
  unfold Mod.coldSend; split <;> simp
@[simp] theorem Mod.coldReceive_core (m : Mod) (f : Frame) : (Mod.coldReceive m f).core = m.core := by
  unfold Mod.coldReceive; split <;> simp
@[simp] theorem Mod.becomeMaster_core (m : Mod) : (Mod.becomeMaster m).core = m.core := by
  unfold Mod.becomeMaster; split <;> simp
@[simp] theorem Mod.cycReceive_core (m : Mod) (ch : Chan) (f : Frame) : (Mod.cycReceive m ch f).core = m.core := by simp [Mod.cycReceive]
@[simp] theorem Mod.tdmDo_core (m : Mod) (x : Lane) (f : Tdm → LaneSpace → Tdm × LaneSpace) : (Mod.tdmDo m x f).core = m.core := by simp [Mod.tdmDo]
@[simp] theorem Mod.tdmCommit_core (m : Mod) (x : Lane) (k : Nat) : (Mod.tdmCommit m x k).core = m.core := by simp [Mod.tdmCommit]
@[simp] theorem Mod.drained_core (m : Mod) (x : Lane) (port : Nat) (b : Bytes) : (Mod.drained m x port b).core = m.core := by simp [Mod.drained]
@[simp] theorem Mod.tdmHandover_core (m : Mod) (x : Lane) (k : Nat) : (Mod.tdmHandover m x k).core = m.core := by
  unfold Mod.tdmHandover; simp only; repeat' split
  all_goals simp
@[simp] theorem Mod.tdmPause_core (m : Mod) (x : Lane) (k n : Nat) : (Mod.tdmPause m x k n).core = m.core := by simp [Mod.tdmPause]
@[simp] theorem Mod.tdmResume_core (m : Mod) (x : Lane) (k : Nat) : (Mod.tdmResume m x k).core = m.core := by simp [Mod.tdmResume]
@[simp] theorem Mod.tdmAbort_core (m : Mod) (x : Lane) (k n : Nat) (powerDown : Bool) : (Mod.tdmAbort m x k n powerDown).core = m.core := by simp [Mod.tdmAbort]
@[simp] theorem Mod.tdmError_core (m : Mod) (x : Lane) (k n code : Nat) : (Mod.tdmError m x k n code).core = m.core := by simp [Mod.tdmError]
@[simp] theorem Mod.tdmCtrl_core (m : Mod) (x : Lane) (v : Word32) : (Mod.tdmCtrl m x v).core = m.core := by simp [Mod.tdmCtrl]
@[simp] theorem Mod.scuDo_core (m : Mod) (x : Lane) (f : Scu → LaneSpace → Scu × LaneSpace) : (Mod.scuDo m x f).core = m.core := by simp [Mod.scuDo]
@[simp] theorem Mod.scuGo_core (m : Mod) (x : Lane) : (Mod.scuGo m x).core = m.core := by simp [Mod.scuGo]
@[simp] theorem Mod.scuDone_core (m : Mod) (x : Lane) (ecc : List Nat) : (Mod.scuDone m x ecc).core = m.core := by simp [Mod.scuDone]
@[simp] theorem Mod.scuBgEnable_core (m : Mod) (x : Lane) : (Mod.scuBgEnable m x).core = m.core := by simp [Mod.scuBgEnable]
@[simp] theorem Mod.scuBgPass_core (m : Mod) (x : Lane) (ecc : List Nat) : (Mod.scuBgPass m x ecc).core = m.core := by simp [Mod.scuBgPass]
@[simp] theorem Mod.modLioView_core (m : Mod) (x : Lane) (f : LioLane → LioLane) : (Mod.modLioView m x f).core = m.core := by rfl
@[simp] theorem Mod.modBrgView_core (m : Mod) (x : Lane) (f : BrgLane → BrgLane) : (Mod.modBrgView m x f).core = m.core := by rfl
@[simp] theorem Mod.modAmbPort_core (m : Mod) (x : Lane) (f : AmbPort → AmbPort) : (Mod.modAmbPort m x f).core = m.core := by rfl
@[simp] theorem Mod.crossCapture_core (m : Mod) (x : Lane) (k : Nat) : (Mod.crossCapture m x k).core = m.core := by
  unfold Mod.crossCapture; split <;> simp
@[simp] theorem Mod.farStopped_core (m : Mod) (x : Lane) (k : Nat) : (Mod.farStopped m x k).core = m.core := by
  unfold Mod.farStopped; split <;> simp
@[simp] theorem Mod.crossTimeout_core (m : Mod) (x : Lane) (k : Nat) (laneStopped : Bool) : (Mod.crossTimeout m x k laneStopped).core = m.core := by simp [Mod.crossTimeout]
@[simp] theorem Mod.crossReset_core (m : Mod) (x : Lane) (k : Nat) (held : Bool) : (Mod.crossReset m x k held).core = m.core := by simp [Mod.crossReset]
@[simp] theorem Mod.amberTake_core (m : Mod) : (Mod.amberTake m).core = m.core := by simp [Mod.amberTake]
@[simp] theorem Mod.amberRefuse_core (m : Mod) (e : Evt) : (Mod.amberRefuse m e).core = m.core := by simp [Mod.amberRefuse]
@[simp] theorem Mod.rateClose_core (m : Mod) (code src : Nat) : (Mod.rateClose m code src).core = m.core := by
  unfold Mod.rateClose; split <;> simp
@[simp] theorem Mod.amberRecover_core (m : Mod) : (Mod.amberRecover m).core = m.core := by simp [Mod.amberRecover]
@[simp] theorem Mod.windowWrite_core (m : Mod) (x : Lane) (off : Nat) (v : Word32) : (Mod.windowWrite m x off v).core = m.core := by simp [Mod.windowWrite]
@[simp] theorem Mod.ambReadErr_core (m : Mod) (x : Lane) : (Mod.ambReadErr m x).core = m.core := by simp [Mod.ambReadErr]
@[simp] theorem Mod.laneTimeCorrect_core (m : Mod) (x : Lane) : (Mod.laneTimeCorrect m x).core = m.core := by simp [Mod.laneTimeCorrect]
@[simp] theorem Mod.rtcSave_core (m : Mod) : (Mod.rtcSave m).core = m.core := by simp [Mod.rtcSave]
@[simp] theorem Mod.ptpMeasure_core (m : Mod) (valid : Bool) (delta : Int) (port : Nat) : (Mod.ptpMeasure m valid delta port).core = m.core := by simp [Mod.ptpMeasure]
@[simp] theorem Mod.opalCrossing_core (m : Mod) (x : Lane) (amp1 mhz1 ph1 amp2 mhz2 ph2 : Nat) : (Mod.opalCrossing m x amp1 mhz1 ph1 amp2 mhz2 ph2).core = m.core := by simp [Mod.opalCrossing]
@[simp] theorem Mod.opalEnable_core (m : Mod) (x : Lane) : (Mod.opalEnable m x).core = m.core := by simp [Mod.opalEnable]
@[simp] theorem Mod.opalSnap_core (m : Mod) (x : Lane) : (Mod.opalSnap m x).core = m.core := by simp [Mod.opalSnap, Mod.laneDo]
@[simp] theorem Mod.opalCommit_core (m : Mod) (x : Lane) (tgt : Nat) (go : Bool) : (Mod.opalCommit m x tgt go).core = m.core := by simp [Mod.opalCommit, Mod.laneDo]
@[simp] theorem Mod.opalHandover_core (m : Mod) (x : Lane) : (Mod.opalHandover m x).core = m.core := by simp [Mod.opalHandover, Mod.laneDo]
@[simp] theorem Mod.opalReadHi_core (m : Mod) (x : Lane) : (Mod.opalReadHi m x).core = m.core := by simp [Mod.opalReadHi, Mod.laneDo]
@[simp] theorem Mod.regWrite_core (m : Mod) (x : Lane) (u : RegUnit) (off : Nat) (v : Word32) : (Mod.regWrite m x u off v).core = m.core := by
  unfold Mod.regWrite; repeat' split
  all_goals simp
@[simp] theorem Mod.itemReceive_core (m : Mod) (p : Path) (cls num seq : Nat) (kind : ItemKind) (body : Bytes) : (Mod.itemReceive m p cls num seq kind body).core = m.core := by simp [Mod.itemReceive]
@[simp] theorem Mod.drpDo_core (m : Mod) (f : Drp → Drp × List DrOut) : (Mod.drpDo m f).core = m.core := by simp [Mod.drpDo]
@[simp] theorem Mod.drpVisit_core (m : Mod) (d : Nat) : (Mod.drpVisit m d).core = m.core := by simp [Mod.drpVisit]
@[simp] theorem Mod.drpAnswer_core (m : Mod) (d : Nat) (tel : Bytes) : (Mod.drpAnswer m d tel).core = m.core := by simp [Mod.drpAnswer]
@[simp] theorem Mod.drpMissing_core (m : Mod) (d : Nat) : (Mod.drpMissing m d).core = m.core := by simp [Mod.drpMissing]
@[simp] theorem Mod.drpOrphans_core (m : Mod) (d : Nat) : (Mod.drpOrphans m d).core = m.core := by simp [Mod.drpOrphans]
@[simp] theorem Mod.drpHoldback_core (m : Mod) (d : Nat) : (Mod.drpHoldback m d).core = m.core := by simp [Mod.drpHoldback]
@[simp] theorem Mod.unpackGo_core (m : Mod) (x : Lane) (n : Nat) : (Mod.unpackGo m x n).core = m.core := by simp [Mod.unpackGo]
@[simp] theorem Mod.drpStop_core (m : Mod) : (Mod.drpStop m).core = m.core := by simp [Mod.drpStop]
@[simp] theorem Mod.drpReadErr_core (m : Mod) (x : Lane) : (Mod.drpReadErr m x).core = m.core := by simp [Mod.drpReadErr]
@[simp] theorem Mod.jadeRead_core (m : Mod) (x : Lane) (ans : Option Nat) : (Mod.jadeRead m x ans).core = m.core := by simp [Mod.jadeRead]
@[simp] theorem Mod.jadeRetry_core (m : Mod) (x : Lane) (ans : Option Nat) : (Mod.jadeRetry m x ans).core = m.core := by
  unfold Mod.jadeRetry; split <;> simp
@[simp] theorem Mod.kstStamped_core (m : Mod) (body : Bytes) : (Mod.kstStamped m body).core = m.core := by
  unfold Mod.kstStamped; split <;> simp
@[simp] theorem Mod.kstFrame_core (m : Mod) (port : Chan) (src seq : Nat) (body : Bytes) : (Mod.kstFrame m port src seq body).core = m.core := by
  unfold Mod.kstFrame
  split
  · rfl
  · rw [Mod.kstStamped_core, Mod.core_mk, Mod.core_fold]
@[simp] theorem Mod.prpSupervision_core (m : Mod) : (Mod.prpSupervision m).core = m.core := by simp [Mod.prpSupervision]
@[simp] theorem Mod.kstLanes_core (m : Mod) (f : Lane → LaneSt → LaneSt) : (Mod.kstLanes m f).core = m.core := by simp [Mod.kstLanes]
@[simp] theorem Mod.kstConnectSend_core (m : Mod) (a : Nat) : (Mod.kstConnectSend m a).core = m.core := by simp [Mod.kstConnectSend]
@[simp] theorem Mod.kstExpire_core (m : Mod) (a : Nat) : (Mod.kstExpire m a).core = m.core := by simp [Mod.kstExpire]
@[simp] theorem Mod.kstPduDo_core (m : Mod) (sel : Bytes → Bool) (a : Nat) (body : Bytes) : (Mod.kstPduDo m sel a body).core = m.core := by
  unfold Mod.kstPduDo; split <;> simp
@[simp] theorem Mod.lioDo_core (m : Mod) (f : Lio → Lio × List Evt) : (Mod.lioDo m f).core = m.core := by simp [Mod.lioDo]
@[simp] theorem Mod.lioSet_core (m : Mod) (f : Lio → Lio) : (Mod.lioSet m f).core = m.core := by simp [Mod.lioSet]
@[simp] theorem Mod.lioSample_core (m : Mod) (ua : List Nat) : (Mod.lioSample m ua).core = m.core := by simp [Mod.lioSample]
@[simp] theorem Mod.lioDebounce_core (m : Mod) (c : Nat) : (Mod.lioDebounce m c).core = m.core := by simp [Mod.lioDebounce]
@[simp] theorem Mod.lioCrossCheck_core (m : Mod) (g : Nat) (ua : List Nat) : (Mod.lioCrossCheck m g ua).core = m.core := by simp [Mod.lioCrossCheck]
@[simp] theorem Mod.lioInject_core (m : Mod) (g : Nat) (bands : List Nat) : (Mod.lioInject m g bands).core = m.core := by simp [Mod.lioInject]
@[simp] theorem Mod.lioTpFault_core (m : Mod) (g : Nat) : (Mod.lioTpFault m g).core = m.core := by simp [Mod.lioTpFault]
@[simp] theorem Mod.lioTpRetry_core (m : Mod) (g : Nat) (good : Bool) : (Mod.lioTpRetry m g good).core = m.core := by simp [Mod.lioTpRetry]
@[simp] theorem Mod.lioDiscrepancy_core (m : Mod) (c : Nat) : (Mod.lioDiscrepancy m c).core = m.core := by simp [Mod.lioDiscrepancy]
@[simp] theorem Mod.lioCountEdge_core (m : Mod) (ch : Nat) : (Mod.lioCountEdge m ch).core = m.core := by simp [Mod.lioCountEdge]
@[simp] theorem Mod.lioPairTimeout_core (m : Mod) (f : Nat) (onA : Bool) : (Mod.lioPairTimeout m f onA).core = m.core := by simp [Mod.lioPairTimeout]
@[simp] theorem Mod.lioHoldExpire_core (m : Mod) (f : Nat) : (Mod.lioHoldExpire m f).core = m.core := by simp [Mod.lioHoldExpire]
@[simp] theorem Mod.lioSlpStart_core (m : Mod) (f : Nat) : (Mod.lioSlpStart m f).core = m.core := by simp [Mod.lioSlpStart]
@[simp] theorem Mod.lioSlpWindow_core (m : Mod) (f : Nat) : (Mod.lioSlpWindow m f).core = m.core := by simp [Mod.lioSlpWindow]
@[simp] theorem Mod.lioSlpSettle_core (m : Mod) (f : Nat) : (Mod.lioSlpSettle m f).core = m.core := by simp [Mod.lioSlpSettle]
@[simp] theorem Mod.lioSnap_core (m : Mod) (x : Lane) : (Mod.lioSnap m x).core = m.core := by simp [Mod.lioSnap]
@[simp] theorem Mod.lioItem_core (m : Mod) : (Mod.lioItem m).core = m.core := by simp [Mod.lioItem]
@[simp] theorem Mod.lioOutTrip_core (m : Mod) (o : Nat) (thermal : Bool) : (Mod.lioOutTrip m o thermal).core = m.core := by simp [Mod.lioOutTrip]
@[simp] theorem Mod.lioBank_core (m : Mod) (b : Nat) (f : Lio → Lio × List Evt) : (Mod.lioBank m b f).core = m.core := by simp [Mod.lioBank]
@[simp] theorem Mod.lioBankTrip_core (m : Mod) (b ma : Nat) : (Mod.lioBankTrip m b ma).core = m.core := by simp [Mod.lioBankTrip]
@[simp] theorem Mod.lioFeedLow_core (m : Mod) (b : Nat) : (Mod.lioFeedLow m b).core = m.core := by simp [Mod.lioFeedLow]
@[simp] theorem Mod.lioFeedBack_core (m : Mod) (b : Nat) : (Mod.lioFeedBack m b).core = m.core := by simp [Mod.lioFeedBack]
@[simp] theorem Mod.lioSwitchTest_core (m : Mod) (slot verdict : Nat) : (Mod.lioSwitchTest m slot verdict).core = m.core := by simp [Mod.lioSwitchTest]
@[simp] theorem Mod.lioDo2Write_core (m : Mod) (x : Lane) (w : Word32) : (Mod.lioDo2Write m x w).core = m.core := by simp [Mod.lioDo2Write]
@[simp] theorem Mod.lioFstartWrite_core (m : Mod) (x : Lane) (v : Word32) : (Mod.lioFstartWrite m x v).core = m.core := by simp [Mod.lioFstartWrite]
@[simp] theorem Mod.lioRefreshTimeout_core (m : Mod) (x : Lane) : (Mod.lioRefreshTimeout m x).core = m.core := by simp [Mod.lioRefreshTimeout]
@[simp] theorem Mod.lioEnergise_core (m : Mod) : (Mod.lioEnergise m).core = m.core := by simp [Mod.lioEnergise]
@[simp] theorem Mod.lioDeenergise_core (m : Mod) : (Mod.lioDeenergise m).core = m.core := by simp [Mod.lioDeenergise]
@[simp] theorem Mod.lioStop_core (m : Mod) : (Mod.lioStop m).core = m.core := by simp [Mod.lioStop]
@[simp] theorem Mod.lioReadErr_core (m : Mod) (x : Lane) : (Mod.lioReadErr m x).core = m.core := by simp [Mod.lioReadErr]
@[simp] theorem Mod.supplyLoss_core (m : Mod) (input status : Nat) : (Mod.supplyLoss m input status).core = m.core := by simp [Mod.supplyLoss]
@[simp] theorem Mod.supplyReturn_core (m : Mod) (input status : Nat) : (Mod.supplyReturn m input status).core = m.core := by simp [Mod.supplyReturn]
@[simp] theorem Mod.pfailAt_core (m : Mod) : (Mod.pfailAt m).core = m.core := by simp [Mod.pfailAt]
@[simp] theorem Mod.shutdown_core (m : Mod) : (Mod.shutdown m).core = m.core := by simp [Mod.shutdown]
@[simp] theorem Mod.domainSleep_core (m : Mod) (g : Nat) : (Mod.domainSleep m g).core = m.core := by
  unfold Mod.domainSleep; repeat' split
  all_goals simp
@[simp] theorem Mod.wake_core (m : Mod) (g : Nat) : (Mod.wake m g).core = m.core := by simp [Mod.wake]
@[simp] theorem Mod.wakeUsed_core (m : Mod) : (Mod.wakeUsed m).core = m.core := by rfl
@[simp] theorem Mod.drainStart_core (m : Mod) (target : Nat) : (Mod.drainStart m target).core = m.core := by simp [Mod.drainStart]
@[simp] theorem Mod.abortXfer_core (m : Mod) (dom n : Nat) (x : Xfer) : (Mod.abortXfer m dom n x).core = m.core := by
  unfold Mod.abortXfer; simp only; repeat' split
  all_goals simp
@[simp] theorem Mod.drainEnd_core (m : Mod) (target : Nat) (left : List (Xfer × Nat)) : (Mod.drainEnd m target left).core = m.core := by
  unfold Mod.drainEnd; repeat' split
  all_goals simp
@[simp] theorem Mod.tempWarning_core (m : Mod) (x : Lane) : (Mod.tempWarning m x).core = m.core := by simp [Mod.tempWarning]
@[simp] theorem Mod.tempTrip_core (m : Mod) (x : Lane) : (Mod.tempTrip m x).core = m.core := by simp [Mod.tempTrip]
@[simp] theorem Mod.cmdIdRead_core (m : Mod) (req : MbReq) : (Mod.cmdIdRead m req).1.core = m.core := by simp [Mod.cmdIdRead]
@[simp] theorem Mod.cmdIdKey_core (m : Mod) (req : MbReq) : (Mod.cmdIdKey m req).1.core = m.core := by simp [Mod.cmdIdKey]
@[simp] theorem Mod.cmdAttest_core (m : Mod) (req : MbReq) : (Mod.cmdAttest m req).1.core = m.core := by simp [Mod.cmdAttest]
@[simp] theorem Mod.cmdAttestRead_core (m : Mod) (req : MbReq) : (Mod.cmdAttestRead m req).1.core = m.core := by
  unfold Mod.cmdAttestRead; split <;> simp
@[simp] theorem Mod.cmdImgList_core (m : Mod) (req : MbReq) : (Mod.cmdImgList m req).1.core = m.core := by simp [Mod.cmdImgList]
@[simp] theorem Mod.reportExpire_core (m : Mod) (tr : Nat) : (Mod.reportExpire m tr).core = m.core := by
  unfold Mod.reportExpire; split <;> simp
@[simp] theorem Mod.cmdLcRead_core (m : Mod) (req : MbReq) : (Mod.cmdLcRead m req).1.core = m.core := by simp [Mod.cmdLcRead]
theorem Mod.applyRoot_core (m m1 : Mod) (k : Token) (h : m.applyRoot k = some m1) : m1.core = m.core := by
  unfold Mod.applyRoot at h
  simp only at h
  repeat' split at h
  all_goals (first | (cases h; rfl) | cases h)
@[simp] theorem Mod.rootToken_core (m : Mod) (k : Token) : (Mod.rootToken m k).1.core = m.core := by
  unfold Mod.rootToken
  simp only
  repeat' split
  all_goals first | rfl | (have := Mod.applyRoot_core _ _ _ ‹m.applyRoot k = some _›; simpa using this)
@[simp] theorem Mod.transition_core (m : Mod) (target : LcState) (op strel bound : Bool) (k : Token) (tr tag : Nat) : (Mod.transition m target op strel bound k tr tag).1.core = m.core := by simp [Mod.transition]
@[simp] theorem Mod.cmdLcSet_core (m : Mod) (req : MbReq) : (Mod.cmdLcSet m req).1.core = m.core := by
  unfold Mod.cmdLcSet; simp only; repeat' split
  all_goals simp
@[simp] theorem Mod.cmdRestart_core (m : Mod) (req : MbReq) : (Mod.cmdRestart m req).1.core = m.core := by
  unfold Mod.cmdRestart; simp only; repeat' split
  all_goals simp
theorem Mod.inSession_core (m : Mod) (req : MbReq) (busy : Bool) (f : Session → Mod × Ans) (h : ∀ s, (f s).1.core = m.core) :
    (Mod.inSession m req busy f).1.core = m.core := by
  unfold Mod.inSession
  repeat' split
  all_goals simp [h]
@[simp] theorem Mod.setSession_core (m : Mod) (s : Option Session) : (Mod.setSession m s).core = m.core := by rfl
@[simp] theorem Mod.mirrored_core (m : Mod) (s : Session) (req : MbReq) (f : Mod × Ans) (h : f.1.core = m.core) :
    (Mod.mirrored m s req f).1.core = m.core := by
  unfold Mod.mirrored
  simp only
  repeat' split
  all_goals simp [h]
@[simp] theorem Mod.cmdUpdOpen_core (m : Mod) (req : MbReq) : (Mod.cmdUpdOpen m req).1.core = m.core := by
  unfold Mod.cmdUpdOpen; split <;> simp
@[simp] theorem Mod.cmdUpdWrite_core (m : Mod) (req : MbReq) : (Mod.cmdUpdWrite m req).1.core = m.core := by
  unfold Mod.cmdUpdWrite
  simp only
  repeat' split
  all_goals first | rfl | skip
  all_goals
    refine Mod.inSession_core _ _ _ _ fun s => ?_
    repeat' split
    all_goals first | rfl | (apply Mod.mirrored_core; simp) | (simp; done)
@[simp] theorem Mod.cmdUpdVerify_core (m : Mod) (req : MbReq) : (Mod.cmdUpdVerify m req).1.core = m.core := by
  unfold Mod.cmdUpdVerify
  simp only
  repeat' split
  all_goals first | rfl | skip
  all_goals
    refine Mod.inSession_core _ _ _ _ fun s => ?_
    repeat' split
    all_goals first | rfl | (apply Mod.mirrored_core; simp) | (simp; done)
@[simp] theorem Mod.activateKeys_core (m : Mod) (b : Blob) : (Mod.activateKeys m b).core = m.core := by rfl
@[simp] theorem Mod.commitAll_core (m : Mod) (s : Session) : (Mod.commitAll m s).core = m.core := by simp [Mod.commitAll]
@[simp] theorem Mod.cmdUpdCommit_core (m : Mod) (req : MbReq) : (Mod.cmdUpdCommit m req).1.core = m.core := by
  unfold Mod.cmdUpdCommit
  simp only
  repeat' split
  all_goals first | rfl | skip
  all_goals
    refine Mod.inSession_core _ _ _ _ fun s => ?_
    repeat' split
    all_goals first | rfl | (apply Mod.mirrored_core; simp) | (simp; done)
@[simp] theorem Mod.cmdUpdAbort_core (m : Mod) (req : MbReq) : (Mod.cmdUpdAbort m req).1.core = m.core := by
  unfold Mod.cmdUpdAbort
  split
  · rfl
  · exact Mod.inSession_core _ _ _ _ fun s => Mod.mirrored_core _ _ _ _ (by simp)
@[simp] theorem Mod.cmdUpdStatus_core (m : Mod) (req : MbReq) : (Mod.cmdUpdStatus m req).1.core = m.core := by
  unfold Mod.cmdUpdStatus; repeat' split
  all_goals simp
@[simp] theorem Mod.cmdImgInfo_core (m : Mod) (req : MbReq) : (Mod.cmdImgInfo m req).1.core = m.core := by
  unfold Mod.cmdImgInfo; simp only; repeat' split
  all_goals simp
@[simp] theorem Mod.cmdChgRead_core (m : Mod) (req : MbReq) : (Mod.cmdChgRead m req).1.core = m.core := by
  unfold Mod.cmdChgRead; split <;> simp
@[simp] theorem Mod.lockIdle_core (m : Mod) : (Mod.lockIdle m).core = m.core := by
  unfold Mod.lockIdle; split <;> simp
@[simp] theorem Mod.tokenExpire_core (m : Mod) : (Mod.tokenExpire m).core = m.core := by rfl
@[simp] theorem Mod.cmdSetRead_core (m : Mod) (req : MbReq) : (Mod.cmdSetRead m req).1.core = m.core := by
  unfold Mod.cmdSetRead; simp only; repeat' split
  all_goals simp
@[simp] theorem Mod.cmdSetWrite_core (m : Mod) (req : MbReq) : (Mod.cmdSetWrite m req).1.core = m.core := by
  unfold Mod.cmdSetWrite; simp only; repeat' split
  all_goals simp
@[simp] theorem Mod.cmdSpsList_core (m : Mod) (req : MbReq) : (Mod.cmdSpsList m req).1.core = m.core := by simp [Mod.cmdSpsList]
@[simp] theorem Mod.cmdSpsConfirm_core (m0 : Mod) (req : MbReq) : (Mod.cmdSpsConfirm m0 req).1.core = m0.core := by
  unfold Mod.cmdSpsConfirm; repeat' split
  all_goals simp
@[simp] theorem Mod.lockoutEnd_core (m : Mod) : (Mod.lockoutEnd m).core = m.core := by simp [Mod.lockoutEnd]
@[simp] theorem Mod.cmdPwrHint_core (m : Mod) (req : MbReq) : (Mod.cmdPwrHint m req).1.core = m.core := by simp [Mod.cmdPwrHint]
@[simp] theorem Mod.cmdPwrStatus_core (m : Mod) (req : MbReq) : (Mod.cmdPwrStatus m req).1.core = m.core := by simp [Mod.cmdPwrStatus]
@[simp] theorem Mod.cmdRecInfo_core (m : Mod) (req : MbReq) : (Mod.cmdRecInfo m req).1.core = m.core := by simp [Mod.cmdRecInfo]
@[simp] theorem Mod.cmdRecRead_core (m : Mod) (req : MbReq) : (Mod.cmdRecRead m req).1.core = m.core := by simp [Mod.cmdRecRead]
@[simp] theorem Mod.drainAmber_core (m : Mod) : (Mod.drainAmber m).core = m.core := by rfl
@[simp] theorem Mod.cmdRecMark_core (m : Mod) (req : MbReq) : (Mod.cmdRecMark m req).1.core = m.core := by simp [Mod.cmdRecMark]
@[simp] theorem Mod.cmdLaneStatus_core (m : Mod) (req : MbReq) : (Mod.cmdLaneStatus m req).1.core = m.core := by simp [Mod.cmdLaneStatus]
@[simp] theorem Mod.cmdSliceRead_core (m : Mod) (req : MbReq) : (Mod.cmdSliceRead m req).1.core = m.core := by
  unfold Mod.cmdSliceRead; simp only; repeat' split
  all_goals simp
@[simp] theorem Mod.bistReport_core (m : Mod) (x : Lane) (fail : Option Nat) : (Mod.bistReport m x fail).core = m.core := by
  unfold Mod.bistReport; split <;> simp
@[simp] theorem Mod.bistService_core (m : Mod) : (Mod.bistService m).core = m.core := by
  unfold Mod.bistService; split <;> simp
@[simp] theorem Mod.bistLane_core (m : Mod) (x : Lane) (fail : Option Nat) : (Mod.bistLane m x fail).core = m.core := by
  unfold Mod.bistLane; repeat' split
  all_goals simp
@[simp] theorem Mod.cmdBistRun_core (m : Mod) (req : MbReq) (fail : Option Nat) : (Mod.cmdBistRun m req fail).1.core = m.core := by
  unfold Mod.cmdBistRun; simp only; repeat' split
  all_goals simp
@[simp] theorem Mod.pollBist_core (m : Mod) (n : Nat) : (Mod.pollBist m n).1.core = m.core := by
  unfold Mod.pollBist; repeat' split
  all_goals simp
@[simp] theorem Mod.cmdRepairRead_core (m : Mod) (req : MbReq) : (Mod.cmdRepairRead m req).1.core = m.core := by
  unfold Mod.cmdRepairRead; simp only; repeat' split
  all_goals simp
@[simp] theorem Mod.cmdRepairFuse_core (m : Mod) (req : MbReq) : (Mod.cmdRepairFuse m req).1.core = m.core := by
  unfold Mod.cmdRepairFuse; simp only; repeat' split
  all_goals simp
@[simp] theorem Mod.cmdLaneReadmit_core (m : Mod) (req : MbReq) : (Mod.cmdLaneReadmit m req).1.core = m.core := by
  unfold Mod.cmdLaneReadmit; simp only; repeat' split
  all_goals simp
@[simp] theorem Mod.cmdLaneSplit_core (m : Mod) (req : MbReq) : (Mod.cmdLaneSplit m req).1.core = m.core := by
  unfold Mod.cmdLaneSplit; simp only; repeat' split
  all_goals simp
@[simp] theorem Mod.cmdLioReset_core (m : Mod) (req : MbReq) : (Mod.cmdLioReset m req).1.core = m.core := by simp [Mod.cmdLioReset]
@[simp] theorem Mod.cmdPortEnable_core (m : Mod) (req : MbReq) : (Mod.cmdPortEnable m req).1.core = m.core := by simp [Mod.cmdPortEnable]
@[simp] theorem Mod.cmdNodeDiag_core (m : Mod) (req : MbReq) : (Mod.cmdNodeDiag m req).1.core = m.core := by simp [Mod.cmdNodeDiag]
@[simp] theorem Mod.pollDiag_core (m : Mod) (req : MbReq) (arg : Nat) : (Mod.pollDiag m req arg).1.core = m.core := by simp [Mod.pollDiag]
@[simp] theorem Mod.cmdObxStatus_core (m : Mod) (req : MbReq) : (Mod.cmdObxStatus m req).1.core = m.core := by simp [Mod.cmdObxStatus]
@[simp] theorem Mod.cmdLioStatus_core (m : Mod) (req : MbReq) : (Mod.cmdLioStatus m req).1.core = m.core := by simp [Mod.cmdLioStatus]
@[simp] theorem Mod.cmdForceList_core (m : Mod) (req : MbReq) : (Mod.cmdForceList m req).1.core = m.core := by simp [Mod.cmdForceList]
@[simp] theorem Mod.cmdVarRead_core (m : Mod) (req : MbReq) : (Mod.cmdVarRead m req).1.core = m.core := by simp [Mod.cmdVarRead]
@[simp] theorem Mod.cmdPlaneRead_core (m : Mod) (req : MbReq) : (Mod.cmdPlaneRead m req).1.core = m.core := by simp [Mod.cmdPlaneRead]
@[simp] theorem Mod.cmdLedTest_core (m : Mod) (req : MbReq) : (Mod.cmdLedTest m req).1.core = m.core := by simp [Mod.cmdLedTest]
@[simp] theorem Mod.cmdTimeRead_core (m : Mod) (req : MbReq) : (Mod.cmdTimeRead m req).1.core = m.core := by simp [Mod.cmdTimeRead]
@[simp] theorem Mod.cmdPtpDomain_core (m : Mod) (req : MbReq) : (Mod.cmdPtpDomain m req).1.core = m.core := by simp [Mod.cmdPtpDomain]
@[simp] theorem Mod.cmdPairStatus_core (m : Mod) (req : MbReq) : (Mod.cmdPairStatus m req).1.core = m.core := by simp [Mod.cmdPairStatus]
@[simp] theorem Mod.cmdSwap_core (m : Mod) (req : MbReq) : (Mod.cmdSwap m req).1.core = m.core := by simp [Mod.cmdSwap]
@[simp] theorem Mod.pollSwap_core (m : Mod) (since arg : Nat) : (Mod.pollSwap m since arg).1.core = m.core := by simp [Mod.pollSwap]
@[simp] theorem Mod.cmdPairReadmit_core (m : Mod) (req : MbReq) : (Mod.cmdPairReadmit m req).1.core = m.core := by simp [Mod.cmdPairReadmit]
@[simp] theorem Mod.pollStage_core (m : Mod) (since : Nat) : (Mod.pollStage m since).1.core = m.core := by simp [Mod.pollStage]
@[simp] theorem Mod.runCmd_core (m : Mod) (cmd : Nat) (req : MbReq) (fail : Option Nat) : (Mod.runCmd m cmd req fail).1.core = m.core := by
  unfold Mod.runCmd; split <;> simp
@[simp] theorem Mod.startCmd_core (m : Mod) (cmd : Nat) (req : MbReq) (fail : Option Nat) : (Mod.startCmd m cmd req fail).1.core = m.core := by
  unfold Mod.startCmd; repeat' split
  all_goals simp
@[simp] theorem Mod.pollCmd_core (m : Mod) (j : MbJob) : (Mod.pollCmd m j).1.core = m.core := by
  unfold Mod.pollCmd; repeat' split
  all_goals simp
@[simp] theorem Mod.modConn_core (m : Mod) (tr : Nat) (f : MbConn → MbConn) : (Mod.modConn m tr f).core = m.core := by rfl
@[simp] theorem Mod.respond_core (m : Mod) (j : MbJob) (status detail holder : Nat) (payload : Bytes) : (Mod.respond m j status detail holder payload).core = m.core := by simp [Mod.respond]
@[simp] theorem Mod.turn_core (m : Mod) (before : List MbJob) (j : MbJob) : (Mod.turn m before j).1.core = m.core := by
  unfold Mod.turn; simp only; repeat' split
  all_goals simp
theorem Mod.turns_core (js kept : List MbJob) (m : Mod) : (Mod.turns js kept m).1.core = m.core := by
  induction js generalizing kept m with
  | nil => rfl
  | cons j r ih =>
    have h := Mod.turn_core m kept j
    unfold Mod.turns
    split <;> simp_all
@[simp] theorem Mod.pump_core (m : Mod) (tr : Nat) : (Mod.pump m tr).core = m.core := by
  simp [Mod.pump, Mod.turns_core]
@[simp] theorem Mod.request_core (m : Mod) (cmd : Nat) (req : MbReq) (fail : Option Nat) : (Mod.request m cmd req fail).core = m.core := by simp [Mod.request]
@[simp] theorem Mod.unknownCommand_core (m : Mod) (code : Nat) (req : MbReq) : (Mod.unknownCommand m code req).core = m.core := by simp [Mod.unknownCommand]
@[simp] theorem Mod.responseSend_core (m0 : Mod) (tr : Nat) : (Mod.responseSend m0 tr).core = m0.core := by
  unfold Mod.responseSend; simp only; repeat' split
  all_goals simp
@[simp] theorem Mod.connectionOpen_core (m : Mod) (tr : Nat) : (Mod.connectionOpen m tr).core = m.core := by simp [Mod.connectionOpen]
@[simp] theorem Mod.connectionLost_core (m : Mod) (tr : Nat) : (Mod.connectionLost m tr).core = m.core := by
  unfold Mod.connectionLost; simp only; repeat' split
  all_goals simp
@[simp] theorem Mod.requestError_core (m : Mod) (tr : Nat) : (Mod.requestError m tr).core = m.core := by simp [Mod.requestError]
@[simp] theorem Mod.forwardTimeout_core (m : Mod) (tr tag : Nat) : (Mod.forwardTimeout m tr tag).core = m.core := by
  unfold Mod.forwardTimeout; split <;> simp
@[simp] theorem Mod.acyr_core (m : Mod) (k : Nat) (payload : Bytes) : (Mod.acyr m k payload).core = m.core := by
  unfold Mod.acyr; simp only; repeat' split
  all_goals simp
@[simp] theorem Mod.changeExpire_core (m : Mod) : (Mod.changeExpire m).core = m.core := by
  unfold Mod.changeExpire; split <;> simp
@[simp] theorem Mod.force_core (m : Mod) (anum : Nat) (body : Bytes) : (Mod.force m anum body).core = m.core := by simp [Mod.force]
@[simp] theorem Mod.commitAs_core (m : Mod) (x : Lane) (anum : Nat) (body : Bytes) : (Mod.commitAs m x anum body).core = m.core := by
  unfold Mod.commitAs
  repeat' split
  all_goals simp
@[simp] theorem Mod.commitCmd_core (m : Mod) (anum : Nat) (body : Bytes) : (Mod.commitCmd m anum body).core = m.core := by
  unfold Mod.commitCmd
  repeat' split
  all_goals simp

end Sys2Proof.Machine
end

