-- ==== Sys2Proof/Laws/PerInstr.lean ====
section
/-!
SUPPORT. The command table gives no row any bits, so no word spells a command: stated of each command (assumption log 15).
-/
namespace Sys2Proof.Laws.NoWord
open Machine

/-- No word of any length spells the command. -/
def Statement (i : Instr) : Prop := ∀ nbits w : Nat, decodeTableWord nbits w ≠ some i

theorem of_table (i : Instr) : Statement i := fun _ _ h => by cases h

theorem itemReceive (p : Path) (cls num seq : Nat) (kind : ItemKind) (body : Bytes) (t : Nat) : Statement (.itemReceive p cls num seq kind body t) := of_table _
theorem inputCut (x : Lane) (t : Nat) : Statement (.inputCut x t) := of_table _
theorem cutWaitTimeout (x : Lane) (t : Nat) : Statement (.cutWaitTimeout x t) := of_table _
theorem inputConsensus (excs : PerLane (Option ProgExc)) (t : Nat) : Statement (.inputConsensus excs t) := of_table _
theorem wcetOverrun (x : Lane) (e : ProgExc) (t : Nat) : Statement (.wcetOverrun x e t) := of_table _
theorem outputOffer (x : Lane) (sealOk : Bool) (t : Nat) : Statement (.outputOffer x sealOk t) := of_table _
theorem voteWindowClose (ins : PerLane SliceIn) (t : Nat) : Statement (.voteWindowClose ins t) := of_table _
theorem phaseOverrun (phase len : Nat) (t : Nat) : Statement (.phaseOverrun phase len t) := of_table _
theorem cycleHandoverTimeout (t : Nat) : Statement (.cycleHandoverTimeout t) := of_table _
theorem lockstepMismatch (x : Lane) (unitNo : Nat) (t : Nat) : Statement (.lockstepMismatch x unitNo t) := of_table _
theorem comparatorDisagree (x : Lane) (t : Nat) : Statement (.comparatorDisagree x t) := of_table _
theorem laneMonitorTrip (x : Lane) (onClock : Bool) (dev : Nat) (t : Nat) : Statement (.laneMonitorTrip x onClock dev t) := of_table _
theorem garnetCrcFail (x : Lane) (n : LinkName) (again : Bool) (t : Nat) : Statement (.garnetCrcFail x n again t) := of_table _
theorem garnetLinkFault (n : LinkName) (t : Nat) : Statement (.garnetLinkFault n t) := of_table _
theorem garnetLinkRetrain (n : LinkName) (ok : Bool) (t : Nat) : Statement (.garnetLinkRetrain n ok t) := of_table _
theorem rotationDue (x : Lane) (t : Nat) : Statement (.rotationDue x t) := of_table _
theorem rotationOverdue (x : Lane) (t : Nat) : Statement (.rotationOverdue x t) := of_table _
theorem coreSoloSelftestDone (x : Lane) (ok : Bool) (t : Nat) : Statement (.coreSoloSelftestDone x ok t) := of_table _
theorem lanePowerCycle (x : Lane) (t : Nat) : Statement (.lanePowerCycle x t) := of_table _
theorem stateCopyStart (x : Lane) (t : Nat) : Statement (.stateCopyStart x t) := of_table _
theorem stateCopyEqual (t : Nat) : Statement (.stateCopyEqual t) := of_table _
theorem rotationAbandon (t : Nat) : Statement (.rotationAbandon t) := of_table _
theorem digestSliceCompare (t : Nat) : Statement (.digestSliceCompare t) := of_table _
theorem grnKeyWrite (x : Lane) (i : Nat) (v : Word32) (t : Nat) : Statement (.grnKeyWrite x i v t) := of_table _
theorem grnKeylockSet (x : Lane) (t : Nat) : Statement (.grnKeylockSet x t) := of_table _
theorem grnErrcapRead (x : Lane) (t : Nat) : Statement (.grnErrcapRead x t) := of_table _
theorem gateReadback (bad : List Nat) (t : Nat) : Statement (.gateReadback bad t) := of_table _
theorem brlReqProdWrite (x : Lane) (v : Nat) (t : Nat) : Statement (.brlReqProdWrite x v t) := of_table _
theorem descriptorAccept (x : Lane) (t : Nat) : Statement (.descriptorAccept x t) := of_table _
theorem set (x : Lane) (t : Nat) : Statement (.set x t) := of_table _
theorem probe (x : Lane) (t : Nat) : Statement (.probe x t) := of_table _
theorem cancel (x : Lane) (t : Nat) : Statement (.cancel x t) := of_table _
theorem trel (x : Lane) (t : Nat) : Statement (.trel x t) := of_table _
theorem dequeue (x : Lane) (t : Nat) : Statement (.dequeue x t) := of_table _
theorem arel (x : Lane) (t : Nat) : Statement (.arel x t) := of_table _
theorem affect (x : Lane) (t : Nat) : Statement (.affect x t) := of_table _
theorem planeWrite (x : Lane) (t : Nat) : Statement (.planeWrite x t) := of_table _
theorem responseWrite (x : Lane) (t : Nat) : Statement (.responseWrite x t) := of_table _
theorem brlRspConsWrite (x : Lane) (v : Nat) (t : Nat) : Statement (.brlRspConsWrite x v t) := of_table _
theorem brlCtrlWrite (x : Lane) (v : Word32) (t : Nat) : Statement (.brlCtrlWrite x v t) := of_table _
theorem load (x : Lane) (t : Nat) : Statement (.load x t) := of_table _
theorem clear (x : Lane) (t : Nat) : Statement (.clear x t) := of_table _
theorem step (x : Lane) (t : Nat) : Statement (.step x t) := of_table _
theorem pendingExpire (x : Lane) (r : Nat) (t : Nat) : Statement (.pendingExpire x r t) := of_table _
theorem areaTimerDue (x : Lane) (a : Nat) (t : Nat) : Statement (.areaTimerDue x a t) := of_table _
theorem routeTrelDue (x : Lane) (r : Nat) (t : Nat) : Statement (.routeTrelDue x r t) := of_table _
theorem overlapTrelDue (x : Lane) (r : Nat) (t : Nat) : Statement (.overlapTrelDue x r t) := of_table _
theorem sweep (x : Lane) (t : Nat) : Statement (.sweep x t) := of_table _
theorem sweepComplete (x : Lane) (t : Nat) : Statement (.sweepComplete x t) := of_table _
theorem fetchTimeout (x : Lane) (t : Nat) : Statement (.fetchTimeout x t) := of_table _
theorem brlErrcapRead (x : Lane) (t : Nat) : Statement (.brlErrcapRead x t) := of_table _
theorem retainMramWrite (x : Lane) (t : Nat) : Statement (.retainMramWrite x t) := of_table _
theorem restartRecordExchange (t : Nat) : Statement (.restartRecordExchange t) := of_table _
theorem firstVotingCycle (t : Nat) : Statement (.firstVotingCycle t) := of_table _
theorem changeCommit (anum : Nat) (body : Bytes) (t : Nat) : Statement (.changeCommit anum body t) := of_table _
theorem changeWaitExpire (t : Nat) : Statement (.changeWaitExpire t) := of_table _
theorem force (anum : Nat) (body : Bytes) (t : Nat) : Statement (.force anum body t) := of_table _
theorem minorCycleStart (t : Nat) : Statement (.minorCycleStart t) := of_table _
theorem pollAssemble (ch : Chan) (k : Nat) (t : Nat) : Statement (.pollAssemble ch k t) := of_table _
theorem pollSend (ch : Chan) (k : Nat) (t : Nat) : Statement (.pollSend ch k t) := of_table _
theorem replyReceive (ch : Chan) (f : Frame) (second : Option Frame) (t : Nat) : Statement (.replyReceive ch f second t) := of_table _
theorem echoSend (ch : Chan) (w : Nat) (t : Nat) : Statement (.echoSend ch w t) := of_table _
theorem echorReceive (ch : Chan) (f : Frame) (t : Nat) : Statement (.echorReceive ch f t) := of_table _
theorem markerItem (ch : Chan) (t : Nat) : Statement (.markerItem ch t) := of_table _
theorem smgtSend (ch : Chan) (t : Nat) : Statement (.smgtSend ch t) := of_table _
theorem srptReceive (ch : Chan) (f : Frame) (rep : Srpt) (t : Nat) : Statement (.srptReceive ch f rep t) := of_table _
theorem syncSend (who : Who) (t : Nat) : Statement (.syncSend who t) := of_table _
theorem syncReceive (who : Who) (ch : Chan) (f : Frame) (t : Nat) : Statement (.syncReceive who ch f t) := of_table _
theorem offsetCorrection (who : Who) (t : Nat) : Statement (.offsetCorrection who t) := of_table _
theorem rateCorrection (who : Who) (t : Nat) : Statement (.rateCorrection who t) := of_table _
theorem channelFail (ch : Chan) (light : Bool) (t : Nat) : Statement (.channelFail ch light t) := of_table _
theorem obxBankswWrite (x : Lane) (v : Word32) (t : Nat) : Statement (.obxBankswWrite x v t) := of_table _
theorem bankSwitch (t : Nat) : Statement (.bankSwitch t) := of_table _
theorem nodeVersionMove (k : Nat) (t : Nat) : Statement (.nodeVersionMove k t) := of_table _
theorem aggregateReport (t : Nat) : Statement (.aggregateReport t) := of_table _
theorem cyclePoint (x : Lane) (k : Nat) (t : Nat) : Statement (.cyclePoint x k t) := of_table _
theorem obxCpWrite (x : Lane) (k : Nat) (v : Word32) (t : Nat) : Statement (.obxCpWrite x k v t) := of_table _
theorem obxErrcapRead (x : Lane) (t : Nat) : Statement (.obxErrcapRead x t) := of_table _
theorem listenTimeout (t : Nat) : Statement (.listenTimeout t) := of_table _
theorem coldSend (t : Nat) : Statement (.coldSend t) := of_table _
theorem coldReceive (f : Frame) (t : Nat) : Statement (.coldReceive f t) := of_table _
theorem becomeMaster (t : Nat) : Statement (.becomeMaster t) := of_table _
theorem nodePollAccept (k : Nat) (ch : Chan) (f : Frame) (i : NodeIn) (t : Nat) : Statement (.nodePollAccept k ch f i t) := of_table _
theorem nodeFreshnessExpire (k : Nat) (t : Nat) : Statement (.nodeFreshnessExpire k t) := of_table _
theorem nodeNpoll (k : Nat) (ch : Chan) (f : Frame) (i : NodeIn) (t : Nat) : Statement (.nodeNpoll k ch f i t) := of_table _
theorem nodeHpoll (k : Nat) (ch : Chan) (f : Frame) (i : NodeIn) (t : Nat) : Statement (.nodeHpoll k ch f i t) := of_table _
theorem nodeCycReceive (k : Nat) (ch : Chan) (f : Frame) (t : Nat) : Statement (.nodeCycReceive k ch f t) := of_table _
theorem nodeHclaimClear (k : Nat) (t : Nat) : Statement (.nodeHclaimClear k t) := of_table _
theorem nodeCommitReached (k : Nat) (t : Nat) : Statement (.nodeCommitReached k t) := of_table _
theorem starFrameFilter (ch : Chan) (p : SPort) (f : Frame) (t : Nat) : Statement (.starFrameFilter ch p f t) := of_table _
theorem portReenable (ch : Chan) (k : Nat) (t : Nat) : Statement (.portReenable ch k t) := of_table _
theorem starGrant (ch : Chan) (t : Nat) : Statement (.starGrant ch t) := of_table _
theorem starColdArbitrate (ch : Chan) (p1 t1 : Nat) (f1 : Frame) (t2 : Nat) (f2 : Frame) (t : Nat) : Statement (.starColdArbitrate ch p1 t1 f1 t2 f2 t) := of_table _
theorem laneTimeCorrect (x : Lane) (t : Nat) : Statement (.laneTimeCorrect x t) := of_table _
theorem rtcSave (t : Nat) : Statement (.rtcSave t) := of_table _
theorem ptpMeasure (valid : Bool) (delta : Int) (port : Nat) (t : Nat) : Statement (.ptpMeasure valid delta port t) := of_table _
theorem opalZeroCrossing (x : Lane) (amp1 mhz1 ph1 amp2 mhz2 ph2 : Nat) (t : Nat) : Statement (.opalZeroCrossing x amp1 mhz1 ph1 amp2 mhz2 ph2 t) := of_table _
theorem opalEnable (x : Lane) (t : Nat) : Statement (.opalEnable x t) := of_table _
theorem oplSnapWrite (x : Lane) (t : Nat) : Statement (.oplSnapWrite x t) := of_table _
theorem oplShcommitWrite (x : Lane) (tgt : Nat) (go : Bool) (t : Nat) : Statement (.oplShcommitWrite x tgt go t) := of_table _
theorem opalHandover (x : Lane) (t : Nat) : Statement (.opalHandover x t) := of_table _
theorem oplPhcHiRead (x : Lane) (t : Nat) : Statement (.oplPhcHiRead x t) := of_table _
theorem oplErrcapRead (x : Lane) (t : Nat) : Statement (.oplErrcapRead x t) := of_table _
theorem inputSample (ua : List Nat) (t : Nat) : Statement (.inputSample ua t) := of_table _
theorem inputDebounceExpire (c : Nat) (t : Nat) : Statement (.inputDebounceExpire c t) := of_table _
theorem crossCheckSample (g : Nat) (ua : List Nat) (t : Nat) : Statement (.crossCheckSample g ua t) := of_table _
theorem thresholdInjection (g : Nat) (bands : List Nat) (t : Nat) : Statement (.thresholdInjection g bands t) := of_table _
theorem tpSupplyFault (g : Nat) (t : Nat) : Statement (.tpSupplyFault g t) := of_table _
theorem tpSupplyRetry (g : Nat) (good : Bool) (t : Nat) : Statement (.tpSupplyRetry g good t) := of_table _
theorem pairDiscrepancy (c : Nat) (t : Nat) : Statement (.pairDiscrepancy c t) := of_table _
theorem countEdge (ch : Nat) (t : Nat) : Statement (.countEdge ch t) := of_table _
theorem pairTimeout (f : Nat) (onA : Bool) (t : Nat) : Statement (.pairTimeout f onA t) := of_table _
theorem sfHoldExpire (f : Nat) (t : Nat) : Statement (.sfHoldExpire f t) := of_table _
theorem slpStart (f : Nat) (t : Nat) : Statement (.slpStart f t) := of_table _
theorem slpWindowExpire (f : Nat) (t : Nat) : Statement (.slpWindowExpire f t) := of_table _
theorem slpSettleExpire (f : Nat) (t : Nat) : Statement (.slpSettleExpire f t) := of_table _
theorem lioSnapWrite (x : Lane) (t : Nat) : Statement (.lioSnapWrite x t) := of_table _
theorem lioInputItem (t : Nat) : Statement (.lioInputItem t) := of_table _
theorem outputCurrentTrip (o : Nat) (thermal : Bool) (t : Nat) : Statement (.outputCurrentTrip o thermal t) := of_table _
theorem bankTrip (b ma : Nat) (t : Nat) : Statement (.bankTrip b ma t) := of_table _
theorem feedUndervoltage (b : Nat) (t : Nat) : Statement (.feedUndervoltage b t) := of_table _
theorem feedReturn (b : Nat) (t : Nat) : Statement (.feedReturn b t) := of_table _
theorem switchTest (slot verdict : Nat) (t : Nat) : Statement (.switchTest slot verdict t) := of_table _
theorem lioDo2Write (x : Lane) (w : Word32) (t : Nat) : Statement (.lioDo2Write x w t) := of_table _
theorem lioFstartWrite (x : Lane) (v : Word32) (t : Nat) : Statement (.lioFstartWrite x v t) := of_table _
theorem laneRefreshTimeout (x : Lane) (t : Nat) : Statement (.laneRefreshTimeout x t) := of_table _
theorem lioEnergise (t : Nat) : Statement (.lioEnergise t) := of_table _
theorem lioDeenergise (t : Nat) : Statement (.lioDeenergise t) := of_table _
theorem lioControllerFault (t : Nat) : Statement (.lioControllerFault t) := of_table _
theorem lioErrcapRead (x : Lane) (t : Nat) : Statement (.lioErrcapRead x t) := of_table _
theorem draipVisit (d : Nat) (t : Nat) : Statement (.draipVisit d t) := of_table _
theorem draipAnswerReceive (d : Nat) (tel : Bytes) (t : Nat) : Statement (.draipAnswerReceive d tel t) := of_table _
theorem draipAnswerTimeout (d : Nat) (t : Nat) : Statement (.draipAnswerTimeout d t) := of_table _
theorem draipOrphan (d : Nat) (t : Nat) : Statement (.draipOrphan d t) := of_table _
theorem draipHoldbackExpire (d : Nat) (t : Nat) : Statement (.draipHoldbackExpire d t) := of_table _
theorem brgUnpGo (x : Lane) (n : Nat) (t : Nat) : Statement (.brgUnpGo x n t) := of_table _
theorem bridgeLockstepFault (t : Nat) : Statement (.bridgeLockstepFault t) := of_table _
theorem brgErrcapRead (x : Lane) (t : Nat) : Statement (.brgErrcapRead x t) := of_table _
theorem jadePortRead (x : Lane) (ans : Option Nat) (t : Nat) : Statement (.jadePortRead x ans t) := of_table _
theorem jadeReadRetry (x : Lane) (ans : Option Nat) (t : Nat) : Statement (.jadeReadRetry x ans t) := of_table _
theorem kstFrameReceive (port : Chan) (src seq : Nat) (body : Bytes) (t : Nat) : Statement (.kstFrameReceive port src seq body t) := of_table _
theorem prpSupervision (t : Nat) : Statement (.prpSupervision t) := of_table _
theorem connectSend (a : Nat) (t : Nat) : Statement (.connectSend a t) := of_table _
theorem connect (a : Nat) (body : Bytes) (t : Nat) : Statement (.connect a body t) := of_table _
theorem accept (a : Nat) (body : Bytes) (t : Nat) : Statement (.accept a body t) := of_table _
theorem close (a : Nat) (body : Bytes) (t : Nat) : Statement (.close a body t) := of_table _
theorem heartbeat (a : Nat) (body : Bytes) (t : Nat) : Statement (.heartbeat a body t) := of_table _
theorem routeOp (a : Nat) (body : Bytes) (t : Nat) : Statement (.routeOp a body t) := of_table _
theorem areaRel (a : Nat) (body : Bytes) (t : Nat) : Statement (.areaRel a body t) := of_table _
theorem linkState (a : Nat) (body : Bytes) (t : Nat) : Statement (.linkState a body t) := of_table _
theorem linkCmd (a : Nat) (body : Bytes) (t : Nat) : Statement (.linkCmd a body t) := of_table _
theorem applicationMessage (a : Nat) (body : Bytes) (t : Nat) : Statement (.applicationMessage a body t) := of_table _
theorem kstTmaxExpire (a : Nat) (t : Nat) : Statement (.kstTmaxExpire a t) := of_table _
theorem follow (f : FollowRec) (excs : PerLane (Option ProgExc)) (ins : PerLane SliceIn) (t : Nat) : Statement (.follow f excs ins t) := of_table _
theorem fack (c : Nat) (t : Nat) : Statement (.fack c t) := of_table _
theorem fackTimeout (t : Nat) : Statement (.fackTimeout t) := of_table _
theorem sum (c : Nat) (value : Option Nat) (t : Nat) : Statement (.sum c value t) := of_table _
theorem fetch (ref : ReplyRef) (t : Nat) : Statement (.fetch ref t) := of_table _
theorem item (i : Item) (excs : PerLane (Option ProgExc)) (ins : PerLane SliceIn) (t : Nat) : Statement (.item i excs ins t) := of_table _
theorem delay (es : List (Chan × Nat × Int × Int)) (t : Nat) : Statement (.delay es t) := of_table _
theorem stbySend (ch : Chan) (t : Nat) : Statement (.stbySend ch t) := of_table _
theorem stby (ch : Chan) (p : Nat) (f : Frame) (t : Nat) : Statement (.stby ch p f t) := of_table _
theorem swapOffer (n : Nat) (t : Nat) : Statement (.swapOffer n t) := of_table _
theorem swapAccept (n : Nat) (t : Nat) : Statement (.swapAccept n t) := of_table _
theorem swapAbort (t : Nat) : Statement (.swapAbort t) := of_table _
theorem swapCutStop (t : Nat) : Statement (.swapCutStop t) := of_table _
theorem swapStarHandover (t : Nat) : Statement (.swapStarHandover t) := of_table _
theorem swapRoleChange (t : Nat) : Statement (.swapRoleChange t) := of_table _
theorem relinquishAck (t : Nat) : Statement (.relinquishAck t) := of_table _
theorem relinquishAckTimeout (t : Nat) : Statement (.relinquishAckTimeout t) := of_table _
theorem standbyDemote (t : Nat) : Statement (.standbyDemote t) := of_table _
theorem lcStatePass (st : LcState) (cycle : Nat) (signer : Bytes) (t : Nat) : Statement (.lcStatePass st cycle signer t) := of_table _
theorem pairCtrlStatus (p : PairStatus) (t : Nat) : Statement (.pairCtrlStatus p t) := of_table _
theorem pairLinkFault (t : Nat) : Statement (.pairLinkFault t) := of_table _
theorem pairLinkRetrain (ok : Bool) (t : Nat) : Statement (.pairLinkRetrain ok t) := of_table _
theorem standbyStateCopy (src : LaneSt) (t : Nat) : Statement (.standbyStateCopy src t) := of_table _
theorem higherClaimReceived (claim : Nat) (t : Nat) : Statement (.higherClaimReceived claim t) := of_table _
theorem grant (ch : Chan) (f : Frame) (t : Nat) : Statement (.grant ch f t) := of_table _
theorem autoswapStart (t : Nat) : Statement (.autoswapStart t) := of_table _
theorem swapOverdue (t : Nat) : Statement (.swapOverdue t) := of_table _
theorem faultSwap (t : Nat) : Statement (.faultSwap t) := of_table _
theorem powerGood (sid x1 x2 : Nat) (storeOk regsOk : Bool) (t : Nat) : Statement (.powerGood sid x1 x2 storeOk regsOk t) := of_table _
theorem slotCodingReread (sid : Nat) (t : Nat) : Statement (.slotCodingReread sid t) := of_table _
theorem dupSidDetect (claim ftype : Nat) (t : Nat) : Statement (.dupSidDetect claim ftype t) := of_table _
theorem jadeBoot (running : Bool) (old : List Nat) (t : Nat) : Statement (.jadeBoot running old t) := of_table _
theorem jadeWatchdog (t : Nat) : Statement (.jadeWatchdog t) := of_table _
theorem firmwareLoad (p : Proc) (digestOk : Bool) (t : Nat) : Statement (.firmwareLoad p digestOk t) := of_table _
theorem controllerStartTest (p : Proc) (test : Nat) (pass : Bool) (t : Nat) : Statement (.controllerStartTest p test pass t) := of_table _
theorem laneSelfTest (x : Lane) (fail : Option (Nat × Nat)) (findings : List Finding) (t : Nat) : Statement (.laneSelfTest x fail findings t) := of_table _
theorem eccCandidate (x : Lane) (target kind faddr addr : Nat) (t : Nat) : Statement (.eccCandidate x target kind faddr addr t) := of_table _
theorem sliceIncomplete (x : Lane) (t : Nat) : Statement (.sliceIncomplete x t) := of_table _
theorem startFailure (noLight : Bool) (t : Nat) : Statement (.startFailure noLight t) := of_table _
theorem lctInjGo (x : Lane) (w : Word32) (both sil : Bool) (lat : Nat) (t : Nat) : Statement (.lctInjGo x w both sil lat t) := of_table _
theorem lctSilclr (x : Lane) (t : Nat) : Statement (.lctSilclr x t) := of_table _
theorem lctErrcapRead (x : Lane) (t : Nat) : Statement (.lctErrcapRead x t) := of_table _
theorem npReadDiscard (x : Lane) (t : Nat) : Statement (.npReadDiscard x t) := of_table _
theorem connectionOpen (tr : Nat) (t : Nat) : Statement (.connectionOpen tr t) := of_table _
theorem connectionLost (tr : Nat) (t : Nat) : Statement (.connectionLost tr t) := of_table _
theorem mailboxResponseSend (tr : Nat) (t : Nat) : Statement (.mailboxResponseSend tr t) := of_table _
theorem partnerForwardTimeout (tr tag : Nat) (t : Nat) : Statement (.partnerForwardTimeout tr tag t) := of_table _
theorem updateLockIdle (t : Nat) : Statement (.updateLockIdle t) := of_table _
theorem attestReportExpire (tr : Nat) (t : Nat) : Statement (.attestReportExpire tr t) := of_table _
theorem tokenExpire (t : Nat) : Statement (.tokenExpire t) := of_table _
theorem idRead (req : MbReq) (t : Nat) : Statement (.idRead req t) := of_table _
theorem idKey (req : MbReq) (t : Nat) : Statement (.idKey req t) := of_table _
theorem attest (req : MbReq) (t : Nat) : Statement (.attest req t) := of_table _
theorem attestRead (req : MbReq) (t : Nat) : Statement (.attestRead req t) := of_table _
theorem imgList (req : MbReq) (t : Nat) : Statement (.imgList req t) := of_table _
theorem lcRead (req : MbReq) (t : Nat) : Statement (.lcRead req t) := of_table _
theorem lcSet (req : MbReq) (t : Nat) : Statement (.lcSet req t) := of_table _
theorem restart (req : MbReq) (t : Nat) : Statement (.restart req t) := of_table _
theorem restartDelayExpire (t : Nat) : Statement (.restartDelayExpire t) := of_table _
theorem updOpen (req : MbReq) (t : Nat) : Statement (.updOpen req t) := of_table _
theorem updWrite (req : MbReq) (t : Nat) : Statement (.updWrite req t) := of_table _
theorem updVerify (req : MbReq) (t : Nat) : Statement (.updVerify req t) := of_table _
theorem updCommit (req : MbReq) (t : Nat) : Statement (.updCommit req t) := of_table _
theorem updAbort (req : MbReq) (t : Nat) : Statement (.updAbort req t) := of_table _
theorem updStatus (req : MbReq) (t : Nat) : Statement (.updStatus req t) := of_table _
theorem imgInfo (req : MbReq) (t : Nat) : Statement (.imgInfo req t) := of_table _
theorem chgRead (req : MbReq) (t : Nat) : Statement (.chgRead req t) := of_table _
theorem setRead (req : MbReq) (t : Nat) : Statement (.setRead req t) := of_table _
theorem setWrite (req : MbReq) (t : Nat) : Statement (.setWrite req t) := of_table _
theorem spsList (req : MbReq) (t : Nat) : Statement (.spsList req t) := of_table _
theorem spsConfirm (req : MbReq) (t : Nat) : Statement (.spsConfirm req t) := of_table _
theorem spsLockoutEnd (t : Nat) : Statement (.spsLockoutEnd t) := of_table _
theorem pwrHint (req : MbReq) (t : Nat) : Statement (.pwrHint req t) := of_table _
theorem pwrStatus (req : MbReq) (t : Nat) : Statement (.pwrStatus req t) := of_table _
theorem recInfo (req : MbReq) (t : Nat) : Statement (.recInfo req t) := of_table _
theorem recRead (req : MbReq) (t : Nat) : Statement (.recRead req t) := of_table _
theorem recMark (req : MbReq) (t : Nat) : Statement (.recMark req t) := of_table _
theorem laneStatus (req : MbReq) (t : Nat) : Statement (.laneStatus req t) := of_table _
theorem sliceRead (req : MbReq) (t : Nat) : Statement (.sliceRead req t) := of_table _
theorem bistRun (req : MbReq) (fail : Option Nat) (t : Nat) : Statement (.bistRun req fail t) := of_table _
theorem repairRead (req : MbReq) (t : Nat) : Statement (.repairRead req t) := of_table _
theorem repairFuse (req : MbReq) (t : Nat) : Statement (.repairFuse req t) := of_table _
theorem laneReadmit (req : MbReq) (t : Nat) : Statement (.laneReadmit req t) := of_table _
theorem laneSplit (req : MbReq) (t : Nat) : Statement (.laneSplit req t) := of_table _
theorem lioReset (req : MbReq) (t : Nat) : Statement (.lioReset req t) := of_table _
theorem portEnable (req : MbReq) (t : Nat) : Statement (.portEnable req t) := of_table _
theorem nodeDiag (req : MbReq) (t : Nat) : Statement (.nodeDiag req t) := of_table _
theorem obxStatus (req : MbReq) (t : Nat) : Statement (.obxStatus req t) := of_table _
theorem lioStatus (req : MbReq) (t : Nat) : Statement (.lioStatus req t) := of_table _
theorem forceList (req : MbReq) (t : Nat) : Statement (.forceList req t) := of_table _
theorem varRead (req : MbReq) (t : Nat) : Statement (.varRead req t) := of_table _
theorem planeRead (req : MbReq) (t : Nat) : Statement (.planeRead req t) := of_table _
theorem ledTest (req : MbReq) (t : Nat) : Statement (.ledTest req t) := of_table _
theorem timeRead (req : MbReq) (t : Nat) : Statement (.timeRead req t) := of_table _
theorem ptpDomain (req : MbReq) (t : Nat) : Statement (.ptpDomain req t) := of_table _
theorem pairStatus (req : MbReq) (t : Nat) : Statement (.pairStatus req t) := of_table _
theorem swap (req : MbReq) (t : Nat) : Statement (.swap req t) := of_table _
theorem pairReadmit (req : MbReq) (t : Nat) : Statement (.pairReadmit req t) := of_table _
theorem tdmCommit (x : Lane) (k : Nat) (t : Nat) : Statement (.tdmCommit x k t) := of_table _
theorem tdmHandover (x : Lane) (k : Nat) (t : Nat) : Statement (.tdmHandover x k t) := of_table _
theorem tdmPause (x : Lane) (k n : Nat) (t : Nat) : Statement (.tdmPause x k n t) := of_table _
theorem tdmResume (x : Lane) (k : Nat) (t : Nat) : Statement (.tdmResume x k t) := of_table _
theorem tdmAbort (x : Lane) (k n : Nat) (powerDown : Bool) (t : Nat) : Statement (.tdmAbort x k n powerDown t) := of_table _
theorem tdmError (x : Lane) (k n code : Nat) (t : Nat) : Statement (.tdmError x k n code t) := of_table _
theorem tdmCtrlWrite (x : Lane) (v : Word32) (t : Nat) : Statement (.tdmCtrlWrite x v t) := of_table _
theorem tdmErrcapRead (x : Lane) (t : Nat) : Statement (.tdmErrcapRead x t) := of_table _
theorem scuFgGo (x : Lane) (t : Nat) : Statement (.scuFgGo x t) := of_table _
theorem scuFgDone (x : Lane) (ecc : List Nat) (t : Nat) : Statement (.scuFgDone x ecc t) := of_table _
theorem scuBgEnable (x : Lane) (t : Nat) : Statement (.scuBgEnable x t) := of_table _
theorem scuBgPass (x : Lane) (ecc : List Nat) (t : Nat) : Statement (.scuBgPass x ecc t) := of_table _
theorem scuErrcapRead (x : Lane) (t : Nat) : Statement (.scuErrcapRead x t) := of_table _
theorem crossingTimeout (x : Lane) (k : Nat) (laneStopped : Bool) (t : Nat) : Statement (.crossingTimeout x k laneStopped t) := of_table _
theorem crossingReset (x : Lane) (k : Nat) (held : Bool) (t : Nat) : Statement (.crossingReset x k held t) := of_table _
theorem amberRecordWrite (t : Nat) : Statement (.amberRecordWrite t) := of_table _
theorem amberIntakeRefuse (e : Evt) (t : Nat) : Statement (.amberIntakeRefuse e t) := of_table _
theorem rateWindowClose (code src : Nat) (t : Nat) : Statement (.rateWindowClose code src t) := of_table _
theorem amberRecovery (t : Nat) : Statement (.amberRecovery t) := of_table _
theorem amberWindowWrite (x : Lane) (off : Nat) (v : Word32) (t : Nat) : Statement (.amberWindowWrite x off v t) := of_table _
theorem ambErrcapRead (x : Lane) (t : Nat) : Statement (.ambErrcapRead x t) := of_table _
theorem supplyInputLoss (input status : Nat) (t : Nat) : Statement (.supplyInputLoss input status t) := of_table _
theorem supplyInputReturn (input status : Nat) (t : Nat) : Statement (.supplyInputReturn input status t) := of_table _
theorem pfail (t : Nat) : Statement (.pfail t) := of_table _
theorem shutdownLevel (t : Nat) : Statement (.shutdownLevel t) := of_table _
theorem domainSleep (g : Nat) (t : Nat) : Statement (.domainSleep g t) := of_table _
theorem wakeEvent (g : Nat) (t : Nat) : Statement (.wakeEvent g t) := of_table _
theorem powerDownDrain (target : Nat) (t : Nat) : Statement (.powerDownDrain target t) := of_table _
theorem drainTimeout (target : Nat) (left : List (Xfer × Nat)) (t : Nat) : Statement (.drainTimeout target left t) := of_table _
theorem dieTempWarning (x : Lane) (t : Nat) : Statement (.dieTempWarning x t) := of_table _
theorem dieTempTrip (x : Lane) (t : Nat) : Statement (.dieTempTrip x t) := of_table _
theorem registerWrite (x : Lane) (u : RegUnit) (off : Nat) (v : Word32) (t : Nat) : Statement (.registerWrite x u off v t) := of_table _
theorem cycReceive (ch : Chan) (f : Frame) (t : Nat) : Statement (.cycReceive ch f t) := of_table _
theorem echo (who : Who) (ch : Chan) (f : Frame) (t : Nat) : Statement (.echo who ch f t) := of_table _
theorem smgt (ch : Chan) (f : Frame) (g : Smgt) (t : Nat) : Statement (.smgt ch f g t) := of_table _
theorem acyc (k : Nat) (ch : Chan) (f : Frame) (content : Bytes) (t : Nat) : Statement (.acyc k ch f content t) := of_table _
theorem acyrReceive (k : Nat) (body : Bytes) (t : Nat) : Statement (.acyrReceive k body t) := of_table _
theorem relinquishReceived (t : Nat) : Statement (.relinquishReceived t) := of_table _
theorem nodeSenseInputChange (k : Nat) (valid : Bool) (tick mhz : Nat) (t : Nat) : Statement (.nodeSenseInputChange k valid tick mhz t) := of_table _
theorem nodeReset (k : Nat) (t : Nat) : Statement (.nodeReset k t) := of_table _
theorem starPowerUp (ch : Chan) (t : Nat) : Statement (.starPowerUp ch t) := of_table _
theorem mailboxRequestError (tr : Nat) (t : Nat) : Statement (.mailboxRequestError tr t) := of_table _
theorem unknownCommandCode (code : Nat) (req : MbReq) (t : Nat) : Statement (.unknownCommandCode code req t) := of_table _
theorem debugHalt (x : Lane) (t : Nat) : Statement (.debugHalt x t) := of_table _

end Sys2Proof.Laws.NoWord
end

