-- ==== Sys2Proof/Machine/Flags.lean ====
section
/-!
DEFINITION. The interrupt lines of a lane's units: a unit's line is up while a bit of its IRQ register is set that its IRQ_EN register
enables (the register tables of each unit).
-/
namespace Sys2Proof.Machine

/-- IRQ and IRQ_EN of a unit as lane `x` sees it. -/
def Mod.irqRegs (m : Mod) (x : Lane) : RegUnit → Word32 × Word32
  | .brl => ((m.lane x).beryl.regs.irq, (m.lane x).beryl.regs.irqEn)
  | .grn => ((m.lane x).grn.irq, (m.lane x).grn.irqEn)
  | .opl => ((m.lane x).opal.irq, (m.lane x).opal.irqEn)
  | .tdm => ((m.lane x).tdm.irq, (m.lane x).tdm.irqEn)
  | .scu => ((m.lane x).scu.irq, (m.lane x).scu.irqEn)
  | .amb => ((m.amber.port.get x).irq, (m.amber.port.get x).irqEn)
  | .lio => ((m.lio.lanes.get x).irq, (m.lio.lanes.get x).irqEn)
  | .obx => ((m.lane x).obx.irq, (m.lane x).obx.irqEn)
  | .brg => ((m.drp.lanes.get x).irq, (m.drp.lanes.get x).irqEn)
  | .lct => ((m.lane x).lct.irq, (m.lane x).lct.irqEn)

/-- Whether a unit interrupts lane `x`. -/
def Mod.irqLine (m : Mod) (x : Lane) (u : RegUnit) : Bool := (m.irqRegs x u).1 &&& (m.irqRegs x u).2 != 0

end Sys2Proof.Machine
end

