-- ==== Sys2Proof/Machine/Leds.lean ====
section
/-!
DEFINITION. What the front panel shows: the status LEDs as functions of the state (19_connectors_and_ratings.md R488).
-/
namespace Sys2Proof.Machine

/-- How an LED shows; slow is 1 Hz, fast is 4 Hz. `test` is the LED test: every colour, one after another. -/
inductive Light where
  | off | green | greenSlow | yellow | yellowSlow | yellowFast | red | redSlow | test
  deriving DecidableEq, Repr

/-- The status LEDs. -/
inductive Led where
  | pwr | state | role | lane (x : Lane) | obx (ch : Chan) | lcs | svc
  deriving DecidableEq, Repr

def Mod.ledPwr (m : Mod) : Light :=
  if m.power.pfail then .red
  else if m.power.x1.inRange && m.power.x2.inRange then .green
  else if m.power.x1.inRange || m.power.x2.inRange then .greenSlow
  else .off

/-- ROM service shows before the service state (DEDUCED, assumption log 92). -/
def Mod.ledState (m : Mod) : Light :=
  if m.jade.mode = .romService then .redSlow
  else match m.service with
    | .full => .green
    | .reduced => .greenSlow
    | .held => .red
    | .starting => if m.power.slotBad then .yellowFast else .yellow

def Mod.ledRole (m : Mod) : Light :=
  if m.role = roleACTIVE then .green else if m.role = roleHOT then .yellow else if m.role = roleCOLD then .yellowSlow else .off

def Mod.ledLane (m : Mod) (x : Lane) : Light :=
  let l := m.lane x
  if l.heldOut then .red
  else if l.powered = false then .off
  else if l.voting then .green
  else if l.shadow || m.rotation.any (·.lane == x) then .yellow
  else .off

def Mod.ledObx (m : Mod) (ch : Chan) : Light :=
  match (m.obx.ch ch).state with
  | 1 => .yellow
  | 2 => .green
  | 3 => .red
  | _ => .off

def Mod.ledLcs (m : Mod) : Light :=
  match m.jade.lc with
  | .operate => .off
  | .commission | .maintain => .yellow
  | .lab | .manufacture => .red
  | .retired => .redSlow

/-- A report of the repair condition of R367 is open: HELD, a held-out lane, a failed link, pair link or supply input, a failed Opbex channel,
a standby held cold, a lost interface. An overdue rotation has a colour of its own (DEDUCED,
assumption log 92). -/
def Mod.repairOpen (m : Mod) : Bool :=
  m.service == .held || Lane.all.any (fun x => (m.lane x).heldOut)
    || [LinkName.ab, .bc, .ca].any (fun n => (m.links.get n).st == 3)
    || (m.pair.partner.isSome && !m.pair.linkUp)
    || !m.power.x1.inRange || !m.power.x2.inRange
    || (m.obx.ch .a).state == 3 || (m.obx.ch .b).state == 3
    || m.pair.heldCold || (m.inService && m.lostIfc != 0)

def Mod.ledSvc (m : Mod) : Light :=
  if m.repairOpen then .red
  else if m.pair.overdueAt.isSome || Lane.all.any (fun x => (m.books.get x).overdue) then .yellow
  else .off

/-- What an LED shows; all of them are in test while a LED_TEST runs. -/
def Mod.led (m : Mod) (d : Led) : Light :=
  if m.jade.ledUntil.any (fun t => decide (m.clock < t)) then .test
  else match d with
    | .pwr => m.ledPwr
    | .state => m.ledState
    | .role => m.ledRole
    | .lane x => m.ledLane x
    | .obx ch => m.ledObx ch
    | .lcs => m.ledLcs
    | .svc => m.ledSvc

end Sys2Proof.Machine
end

