-- ==== Sys2Proof/Machine/Operands.lean ====
section
/-!
DEFINITION. The ranges of what commands name: numbers of nodes, channels, routes, registers, and the formats of what they carry.
-/
namespace Sys2Proof.Machine

def isByte (n : Nat) : Bool := decide (n < 256)
def isWord16 (n : Nat) : Bool := decide (n < 65536)
def isNibble (n : Nat) : Bool := decide (n < 16)
/-- An index of eight: a group of test-pulse inputs, a counting input, a cycle point, a transposer channel, a key word. -/
def isIdx8 (n : Nat) : Bool := decide (n < 8)
/-- A count of 12 bits (10_older_interfaces_and_bridging.md, BRG_UNP_CTL.N). -/
def isCount12 (n : Nat) : Bool := decide (n < 4096)
/-- A node number (07_opbex.md R187). -/
def isNode (k : Nat) : Bool := decide (1 ≤ k ∧ k ≤ 1024)
/-- A participant of the synchronisation that is a node has a node number. -/
def isWho : Who → Bool
  | .node k => isNode k
  | .mod | .star _ => true
/-- A frame's body is whole bytes of at least a common header (07_opbex.md R192) and its FCS has 32 bits. -/
def isFrame (f : Frame) : Bool := decide (f.fcs < 2 ^ 32)
/-- A route number (02_station_image.md R37). -/
def isRoute (r : Nat) : Bool := decide (r < 4096)
/-- An operating area (03_route_admission.md R60). -/
def isArea (a : Nat) : Bool := decide (a < 256)
/-- A ring index (03_route_admission.md, BRL_REQ_PROD). -/
def isRingIdx (v : Nat) : Bool := decide (v < 1024)
/-- A tick of a supply cycle (08_phase_and_time.md R242). -/
def isTick (n : Nat) : Bool := decide (n < 1024)
/-- A local input, output, output bank, safety function (09_local_safety_io.md R257, R282). -/
def isInput (c : Nat) : Bool := decide (c < 96)
def isOutput (o : Nat) : Bool := decide (o < 48)
def isBank (b : Nat) : Bool := decide (b < 4)
def isFn (f : Nat) : Bool := decide (f < 16)
/-- A gate, 0 to 47 HS and 48 to 95 LS; a switch test slot (R174, R275). -/
def isGate (g : Nat) : Bool := decide (g < 96)
/-- A switch test verdict: passed, failed, none (R275). -/
def isVerdict (v : Nat) : Bool := decide (v ≤ 2)
/-- One sample per channel. -/
def isSamples (n : Nat) (l : List Nat) : Bool := l.length == n
/-- A Draip device, 32 × port + device (10_older_interfaces_and_bridging.md R294). -/
def isDevice (d : Nat) : Bool := decide (d < 256)
/-- One of two ports. -/
def isPort2 (p : Nat) : Bool := decide (p < 2)
/-- A slot identifier of 5 bits; a claim number of 64 (19_connectors_and_ratings.md R492; 07_opbex.md R203). -/
def isSid (s : Nat) : Bool := decide (s < 32)
def isClaim (c : Nat) : Bool := decide (c < 2 ^ 64)
/-- A supply status (18_power_domains.md R474); an input, 1 or 2. -/
def isSupply (s : Nat) : Bool := decide (s < 4)
def isInputNo (i : Nat) : Bool := decide (i < 2)
/-- A mailbox transport (14_jade_mailboxes.md R395), and a request on one with a TAG of a byte and at most 4,064 bytes (R398). -/
def isTransport (tr : Nat) : Bool := decide (1 ≤ tr ∧ tr ≤ 3)
def isReq (r : MbReq) : Bool := isTransport r.tr && isByte r.tag && decide (r.payload.length ≤ 4064)
/-- A crossing of a lane (16_movers_checks_crossings.md R456). -/
def isCrossing (k : Nat) : Bool := decide (k < 12)
/-- An error code of TDM_ERRCAP, and of the memory words a scan corrected or gave up on (16_movers_checks_crossings.md R447, R452). -/
def isTdmErr (c : Nat) : Bool := decide (1 ≤ c ∧ c ≤ 6)
def isEcc (c : Nat) : Bool := decide (1 ≤ c ∧ c ≤ 3)
/-- A word offset in a register region; in the Amber window (17_amber_recorder.md R471). -/
def isRegOff (o : Nat) : Bool := decide (o % 4 = 0 ∧ o < 0x1000)
def isWindowOff (o : Nat) : Bool := decide (o % 4 = 0 ∧ o < 0x8000)
/-- A record source (17_amber_recorder.md R461), and a record on offer. -/
def isSrc (s : Nat) : Bool := decide (s < 10)
def isEvt (e : Evt) : Bool := isWord16 e.code && isSrc e.src && decide (e.param.length ≤ 36)
/-- A program exception kind (04_interlocking_programs.md R99). -/
def isExc (e : ProgExc) : Bool := isWord16 e.prog && isByte e.kind
/-- A phase of R17. -/
def isPhase (p : Nat) : Bool := decide (p ≤ 4)
/-- A unit number of R381. -/
def isUnitNo (u : Nat) : Bool := isByte u
/-- The classes and contents that the items of a path have (01_one_logic_cycle.md R19). -/
def isClass (p : Path) (cls : Nat) : Bool := p.classes.contains cls
def isKind (p : Path) (k : ItemKind) : Bool := p.kinds.contains k

end Sys2Proof.Machine
end

