-- ==== Sys2Proof/WellFormed.lean ====
section
/-!
DEFINITION. Well-formed commands: every operand lies in the range its chapter gives it. A command that is not well formed names
something the module does not have; the meanings are total on it all the same.
-/
namespace Sys2Proof
open Machine

/-- Every operand of a command lies in the range its chapter gives it. -/
def Instr.wf : Instr → Bool
  | .itemReceive p cls _ _ kind _ _ => isClass p cls && isKind p kind
  | .inputCut _ _ => true
  | .cutWaitTimeout _ _ => true
  | .inputConsensus _ _ => true
  | .wcetOverrun _ e _ => isExc e
  | .outputOffer _ _ _ => true
  | .voteWindowClose _ _ => true
  | .phaseOverrun phase _ _ => isPhase phase
  | .cycleHandoverTimeout _ => true
  | .lockstepMismatch _ unitNo _ => isUnitNo unitNo
  | .comparatorDisagree _ _ => true
  | .laneMonitorTrip _ _ dev _ => isWord16 dev
  | .garnetCrcFail _ _ _ _ => true
  | .garnetLinkFault _ _ => true
  | .garnetLinkRetrain _ _ _ => true
  | .rotationDue _ _ => true
  | .rotationOverdue _ _ => true
  | .coreSoloSelftestDone _ _ _ => true
  | .lanePowerCycle _ _ => true
  | .stateCopyStart _ _ => true
  | .stateCopyEqual _ => true
  | .rotationAbandon _ => true
  | .digestSliceCompare _ => true
  | .grnKeyWrite _ w _ _ => isIdx8 w
  | .grnKeylockSet _ _ => true
  | .grnErrcapRead _ _ => true
  | .gateReadback bad _ => bad.all isGate
  | .brlReqProdWrite _ v _ => isRingIdx v
  | .descriptorAccept _ _ => true
  | .set _ _ => true
  | .probe _ _ => true
  | .cancel _ _ => true
  | .trel _ _ => true
  | .dequeue _ _ => true
  | .arel _ _ => true
  | .affect _ _ => true
  | .planeWrite _ _ => true
  | .responseWrite _ _ => true
  | .brlRspConsWrite _ v _ => isRingIdx v
  | .brlCtrlWrite _ _ _ => true
  | .load _ _ => true
  | .clear _ _ => true
  | .step _ _ => true
  | .pendingExpire _ r _ => isRoute r
  | .areaTimerDue _ a _ => isArea a
  | .routeTrelDue _ r _ => isRoute r
  | .overlapTrelDue _ r _ => isRoute r
  | .sweep _ _ => true
  | .sweepComplete _ _ => true
  | .fetchTimeout _ _ => true
  | .brlErrcapRead _ _ => true
  | .retainMramWrite _ _ => true
  | .restartRecordExchange _ => true
  | .firstVotingCycle _ => true
  | .changeCommit anum _ _ => isWord16 anum
  | .changeWaitExpire _ => true
  | .force anum _ _ => isWord16 anum
  | .minorCycleStart _ => true
  | .pollAssemble _ k _ => isNode k
  | .pollSend _ k _ => isNode k
  | .replyReceive _ f second _ => isFrame f && second.all isFrame
  | .echoSend _ _ _ => true
  | .echorReceive _ f _ => isFrame f
  | .markerItem _ _ => true
  | .smgtSend _ _ => true
  | .srptReceive _ f _ _ => isFrame f
  | .syncSend who _ => isWho who
  | .syncReceive who _ f _ => isWho who && isFrame f
  | .offsetCorrection who _ => isWho who
  | .rateCorrection who _ => isWho who
  | .channelFail _ _ _ => true
  | .obxBankswWrite _ _ _ => true
  | .bankSwitch _ => true
  | .nodeVersionMove k _ => isNode k
  | .aggregateReport _ => true
  | .cyclePoint _ k _ => isIdx8 k
  | .obxCpWrite _ k _ _ => isIdx8 k
  | .obxErrcapRead _ _ => true
  | .listenTimeout _ => true
  | .coldSend _ => true
  | .coldReceive f _ => isFrame f
  | .becomeMaster _ => true
  | .nodePollAccept k _ f _ _ => isNode k && isFrame f
  | .nodeFreshnessExpire k _ => isNode k
  | .nodeNpoll k _ f _ _ => isNode k && isFrame f
  | .nodeHpoll k _ f _ _ => isNode k && isFrame f
  | .nodeCycReceive k _ f _ => isNode k && isFrame f
  | .nodeHclaimClear k _ => isNode k
  | .nodeCommitReached k _ => isNode k
  | .starFrameFilter _ _ f _ => isFrame f
  | .portReenable _ _ _ => true
  | .starGrant _ _ => true
  | .starColdArbitrate _ _ _ f1 _ f2 _ => isFrame f1 && isFrame f2
  | .laneTimeCorrect _ _ => true
  | .rtcSave _ => true
  | .ptpMeasure _ _ port _ => isPort2 port
  | .opalZeroCrossing _ _ _ ph1 _ _ ph2 _ => isTick ph1 && isTick ph2
  | .opalEnable _ _ => true
  | .oplSnapWrite _ _ => true
  | .oplShcommitWrite _ tgt _ _ => isWord16 tgt
  | .opalHandover _ _ => true
  | .oplPhcHiRead _ _ => true
  | .oplErrcapRead _ _ => true
  | .inputSample ua _ => isSamples 96 ua
  | .inputDebounceExpire c _ => isInput c
  | .crossCheckSample g ua _ => isIdx8 g && isSamples 12 ua
  | .thresholdInjection g bands _ => isIdx8 g && isSamples 12 bands
  | .tpSupplyFault g _ => isIdx8 g
  | .tpSupplyRetry g _ _ => isIdx8 g
  | .pairDiscrepancy c _ => isInput c
  | .countEdge ch _ => isIdx8 ch
  | .pairTimeout f _ _ => isFn f
  | .sfHoldExpire f _ => isFn f
  | .slpStart f _ => isFn f
  | .slpWindowExpire f _ => isFn f
  | .slpSettleExpire f _ => isFn f
  | .lioSnapWrite _ _ => true
  | .lioInputItem _ => true
  | .outputCurrentTrip o _ _ => isOutput o
  | .bankTrip b _ _ => isBank b
  | .feedUndervoltage b _ => isBank b
  | .feedReturn b _ => isBank b
  | .switchTest slot verdict _ => isGate slot && isVerdict verdict
  | .lioDo2Write _ _ _ => true
  | .lioFstartWrite _ _ _ => true
  | .laneRefreshTimeout _ _ => true
  | .lioEnergise _ => true
  | .lioDeenergise _ => true
  | .lioControllerFault _ => true
  | .lioErrcapRead _ _ => true
  | .draipVisit d _ => isDevice d
  | .draipAnswerReceive d _ _ => isDevice d
  | .draipAnswerTimeout d _ => isDevice d
  | .draipOrphan d _ => isDevice d
  | .draipHoldbackExpire d _ => isDevice d
  | .brgUnpGo _ n _ => isCount12 n
  | .bridgeLockstepFault _ => true
  | .brgErrcapRead _ _ => true
  | .jadePortRead _ _ _ => true
  | .jadeReadRetry _ _ _ => true
  | .kstFrameReceive _ _ seq _ _ => isWord16 seq
  | .prpSupervision _ => true
  | .connectSend a _ => isWord16 a
  | .connect a _ _ => isWord16 a
  | .accept a _ _ => isWord16 a
  | .close a _ _ => isWord16 a
  | .heartbeat a _ _ => isWord16 a
  | .routeOp a _ _ => isWord16 a
  | .areaRel a _ _ => isWord16 a
  | .linkState a _ _ => isWord16 a
  | .linkCmd a _ _ => isWord16 a
  | .applicationMessage a _ _ => isWord16 a
  | .kstTmaxExpire a _ => isWord16 a
  | .follow _ _ _ _ => true
  | .fack _ _ => true
  | .fackTimeout _ => true
  | .sum _ _ _ => true
  | .fetch ref _ => isNode ref.node
  | .item _ _ _ _ => true
  | .delay es _ => es.all fun e => isNode e.2.1
  | .stbySend _ _ => true
  | .stby _ p f _ => isPort2 p && isFrame f
  | .swapOffer _ _ => true
  | .swapAccept _ _ => true
  | .swapAbort _ => true
  | .swapCutStop _ => true
  | .swapStarHandover _ => true
  | .swapRoleChange _ => true
  | .relinquishAck _ => true
  | .relinquishAckTimeout _ => true
  | .standbyDemote _ => true
  | .lcStatePass _ _ _ _ => true
  | .pairCtrlStatus _ _ => true
  | .pairLinkFault _ => true
  | .pairLinkRetrain _ _ => true
  | .standbyStateCopy _ _ => true
  | .higherClaimReceived claim _ => isClaim claim
  | .grant _ f _ => isFrame f
  | .autoswapStart _ => true
  | .swapOverdue _ => true
  | .faultSwap _ => true
  | .powerGood sid x1 x2 _ _ _ => isSid sid && isSupply x1 && isSupply x2
  | .slotCodingReread sid _ => isSid sid
  | .dupSidDetect claim ftype _ => isClaim claim && isByte ftype
  | .jadeBoot _ _ _ => true
  | .jadeWatchdog _ => true
  | .firmwareLoad _ _ _ => true
  | .controllerStartTest _ test _ _ => isByte test
  | .laneSelfTest _ _ _ _ => true
  | .eccCandidate _ _ kind _ _ _ => isByte kind
  | .sliceIncomplete _ _ => true
  | .startFailure _ _ => true
  | .lctInjGo _ _ _ _ lat _ => isNibble lat
  | .lctSilclr _ _ => true
  | .lctErrcapRead _ _ => true
  | .npReadDiscard _ _ => true
  | .connectionOpen tr _ => isTransport tr
  | .connectionLost tr _ => isTransport tr
  | .mailboxResponseSend tr _ => isTransport tr
  | .partnerForwardTimeout tr tag _ => isTransport tr && isWord16 tag
  | .updateLockIdle _ => true
  | .attestReportExpire tr _ => isTransport tr
  | .tokenExpire _ => true
  | .idRead req _ => isReq req
  | .idKey req _ => isReq req
  | .attest req _ => isReq req
  | .attestRead req _ => isReq req
  | .imgList req _ => isReq req
  | .lcRead req _ => isReq req
  | .lcSet req _ => isReq req
  | .restart req _ => isReq req
  | .restartDelayExpire _ => true
  | .updOpen req _ => isReq req
  | .updWrite req _ => isReq req
  | .updVerify req _ => isReq req
  | .updCommit req _ => isReq req
  | .updAbort req _ => isReq req
  | .updStatus req _ => isReq req
  | .imgInfo req _ => isReq req
  | .chgRead req _ => isReq req
  | .setRead req _ => isReq req
  | .setWrite req _ => isReq req
  | .spsList req _ => isReq req
  | .spsConfirm req _ => isReq req
  | .spsLockoutEnd _ => true
  | .pwrHint req _ => isReq req
  | .pwrStatus req _ => isReq req
  | .recInfo req _ => isReq req
  | .recRead req _ => isReq req
  | .recMark req _ => isReq req
  | .laneStatus req _ => isReq req
  | .sliceRead req _ => isReq req
  | .bistRun req _ _ => isReq req
  | .repairRead req _ => isReq req
  | .repairFuse req _ => isReq req
  | .laneReadmit req _ => isReq req
  | .laneSplit req _ => isReq req
  | .lioReset req _ => isReq req
  | .portEnable req _ => isReq req
  | .nodeDiag req _ => isReq req
  | .obxStatus req _ => isReq req
  | .lioStatus req _ => isReq req
  | .forceList req _ => isReq req
  | .varRead req _ => isReq req
  | .planeRead req _ => isReq req
  | .ledTest req _ => isReq req
  | .timeRead req _ => isReq req
  | .ptpDomain req _ => isReq req
  | .pairStatus req _ => isReq req
  | .swap req _ => isReq req
  | .pairReadmit req _ => isReq req
  | .tdmCommit _ k _ => isIdx8 k
  | .tdmHandover _ k _ => isIdx8 k
  | .tdmPause _ k _ _ => isIdx8 k
  | .tdmResume _ k _ => isIdx8 k
  | .tdmAbort _ k _ _ _ => isIdx8 k
  | .tdmError _ k _ code _ => isIdx8 k && isTdmErr code
  | .tdmCtrlWrite _ _ _ => true
  | .tdmErrcapRead _ _ => true
  | .scuFgGo _ _ => true
  | .scuFgDone _ ecc _ => ecc.all isEcc
  | .scuBgEnable _ _ => true
  | .scuBgPass _ ecc _ => ecc.all isEcc
  | .scuErrcapRead _ _ => true
  | .crossingTimeout _ k _ _ => isCrossing k
  | .crossingReset _ k _ _ => isCrossing k
  | .amberRecordWrite _ => true
  | .amberIntakeRefuse e _ => isEvt e
  | .rateWindowClose code src _ => isWord16 code && isSrc src
  | .amberRecovery _ => true
  | .amberWindowWrite _ off _ _ => isWindowOff off
  | .ambErrcapRead _ _ => true
  | .supplyInputLoss input status _ => isInputNo input && isSupply status
  | .supplyInputReturn input status _ => isInputNo input && isSupply status
  | .pfail _ => true
  | .shutdownLevel _ => true
  | .domainSleep _ _ => true
  | .wakeEvent _ _ => true
  | .powerDownDrain _ _ => true
  | .drainTimeout _ _ _ => true
  | .dieTempWarning _ _ => true
  | .dieTempTrip _ _ => true
  | .registerWrite _ _ off _ _ => isRegOff off
  | .cycReceive _ f _ => isFrame f
  | .echo who _ f _ => isWho who && isFrame f
  | .smgt _ f _ _ => isFrame f
  | .acyc k _ f _ _ => isNode k && isFrame f
  | .acyrReceive k _ _ => isNode k
  | .relinquishReceived _ => true
  | .nodeSenseInputChange k _ tick _ _ => isNode k && isTick tick
  | .nodeReset k _ => isNode k
  | .starPowerUp _ _ => true
  | .mailboxRequestError tr _ => isTransport tr
  | .unknownCommandCode code req _ => isWord16 code && isReq req
  | .debugHalt _ _ => true

end Sys2Proof
end

