-- ==== Sys2Proof/Tests/Slice0.lean ====
section
/-!
SUPPORT. The model's own tests: a well-formedness smoke test per check, worked examples of the spec, and for every statement with
hypotheses a named witness (`wit_<statement>`): concrete states and operands that meet the hypotheses of each of its clauses.
-/
namespace Sys2Proof.Tests
open Sys2Proof.Machine
set_option Elab.async false
/-- A state with an empty queue. -/
def st (m : Mod) : Machine.State := { pending := [], m := m }
/-- A powered lane, out of reset. -/
def up : LaneSt := { LaneSt.reset with powered := true, released := true, stopped := false }
/-- A module whose lanes are powered. -/
def m1 : Mod := { Mod.reset with lanes := PerLane.const up }
def s1 : Machine.State := st m1
/-- Every lane of a module alike. -/
def all (l : LaneSt) : Machine.State := st { Mod.reset with lanes := PerLane.const l }

/-! Movers -/
def dCopy : TdmDesc := ⟨1, 1, 0x20000000, 0x20000100, 0, 4⟩
def chan0 (c : TdmChan) : Machine.State := all { up with tdm := { Tdm.reset with ctrl := 1, ch := Tdm.reset.ch.set 0 c } }
def cArmed : TdmChan := { TdmChan.reset with shadow := dCopy, commit := true }
def cRun : TdmChan := { TdmChan.reset with active := dCopy, st := .running }
def scuIn (u : Scu) : Machine.State := all { up with scu := u }
def fgJob : Scu := { Scu.reset with cfg := 0x80000204, len := 1, start := 0x20000000, exp := 0x20001000 }

/-! Amber and power -/
def amb (a : Amber) : Machine.State := st { m1 with amber := a }
def rec0 (code : Nat) : Rec := ⟨code, 0, 0, 0, 0, 3, 0, 0, 4, []⟩
def buf0 (r : Rec) : List Intake := Amber.reset.intake.set 0 { Intake.empty with buf := [r] }
def ambRdy : Amber := { Amber.reset with ready := true }
def win0 : RateWin := ⟨0x0010, 0, 0, 1, 1, 0, 0⟩
def ambPort (c p : Word32) : Machine.State := amb { ambRdy with port := PerLane.const { AmbPort.reset with ctrl := c, ppage := p } }
def pwr (p : Power) : Machine.State := st { m1 with power := p }
def pwrOn : Power := { Power.reset with good := true, x1 := ⟨1, true⟩, domains := List.replicate 12 true, ethm := .running, host := .running }

/-! Mailboxes -/
/-- Bytes from numbers. -/
def by' (l : List Nat) : Bytes := l.map (BitVec.ofNat 8)
/-- A voting lane with its key locked. -/
def vot : LaneSt := { up with voting := true, grn := { up.grn with ctrl := 5 } }
/-- A module in service as ACTIVE, its three lanes voting. -/
def svc : Mod := { m1 with lanes := PerLane.const vot, service := .full, role := 4, everActive := true, power := pwrOn }
def rqT (tr : Nat) (p : List Nat) : MbReq := ⟨tr, 5, false, false, false, none, 0, 0, by' p⟩
def rq (p : List Nat) : MbReq := rqT 1 p
def conn1 : MbConn := { MbConn.reset with isOpen := true }
def jadeIn (lc : LcState) : Jade := { Jade.reset with mode := .running, lc0 := .of lc 1, lc1 := .of lc 1, conn1 := conn1 }
/-- A module in service whose first mailbox connection is open. -/
def mb (lc : LcState) : Mod := { svc with jade := jadeIn lc }
def mbj (f : Jade → Jade) : Machine.State := st { mb .maintain with jade := f (jadeIn .maintain) }
def rsp0 : MbResp := ⟨0x0101, 5, 0, 0, 0, []⟩
def job0 : MbJob := ⟨0x0101, rq [], true, 0, true, 0, false, false⟩
def ses0 : Session := ⟨1, 9, false, 0, []⟩
def rep0 : Report := ⟨7, 0, []⟩
/-- A STATION image of one variable, VID 7, four bytes, forceable. -/
def img0 : Blob :=
  ⟨0x8000, Mem.wr (Mem.wr (Mem.wr (Mem.wr (Mem.wr (Mem.wr [] 0x3000 2 1) 0x3010 2 9) 0x3018 8 0x1000) 0x4004 4 1) 0x4040 4 7) 0x4048 8 0x00040200⟩
def peer0 : PairStatus := ⟨0x10305, 3, false, 0, [], [], true, 4, 0, 0, false, none, 0⟩
def chg0 : ChangeResult := ⟨1, 1, 1, 0, 0, 0, 0, 0, 0, 0, 0, 0, []⟩
/-- A held life-cycle token of the operator root, for this module with LCCOUNT 1. -/
def tok (target from' : LcState) : Token :=
  ⟨List.replicate 48 0, by' [1, target.code, from'.code, 1, 0, 0, 0, 0] ++ leBytes 8 serialNo ++ leBytes 4 1, 3, [], 0⟩
def lcReq (target : LcState) : MbReq := rq ([target.code, 0, 0, 0] ++ List.replicate 48 0)
def mbTok (lc : LcState) (k : Token) : Machine.State := st { mb lc with jade := { jadeIn lc with tokens := [k] } }
/-- A session of transport 1 with the given images. -/
def sesI (i : SMap UpdImage) : Session := ⟨1, 9, false, 0, i⟩
def mbSes (lc : LcState) (i : SMap UpdImage) : Machine.State := st { mb lc with jade := { jadeIn lc with session := some (sesI i) } }
def rqS (p : List Nat) : MbReq := { rq p with session := 9 }
def blob3 : UpdImage := ⟨⟨3, []⟩, true⟩
def acyMod (j : List MbJob) : Machine.State :=
  st { mb .operate with jade := { jadeIn .operate with conn1 := { conn1 with jobs := j } }, obx := { Obx.reset with acycFor := some (7, 1 * 256 + 5) } }
def job70A : MbJob := ⟨0x070A, rq [], true, 0, false, 0, true, false⟩
/-- A module that may change over. -/
def swapOk : Mod :=
  let p := { svc.pair with linkUp := true, partner := some peer0, partnerHot := true, hotCycles := 16 }
  { mb .operate with pair := p, obx := { Obx.reset with chA := { Obx.reset.chA with state := 2 }, chB := { Obx.reset.chB with state := 2 } } }
/-- The check value text 0000-0000-0000-0000. -/
def cvZero : List Nat := [48,48,48,48,45,48,48,48,48,45,48,48,48,48,45,48,48,48,48,0]
/-- A memory from fields: address, length, value. -/
def memOf (l : List (Nat × Nat × Nat)) : Mem := l.foldl (fun m w => Mem.wr m w.1 w.2.1 w.2.2) []
/-- A schedule bank from fields of its entries: node, offset, length, value. -/
def bankOf (h : List (Nat × Nat × Nat)) (l : List (Nat × Nat × Nat × Nat)) : ObxBank :=
  ⟨0x8040, memOf (h ++ l.map fun e => (0x40 + 32 * (e.1 - 1) + e.2.1, e.2.2.1, e.2.2.2))⟩
def oNodes : Obx := { Obx.reset with bank0 := bankOf [] [(2, 0, 1, 1), (511, 0, 1, 1)] }

/-! Beryl -/
/-- A station of routes 3 and 4, which exclude each other: 3 locks element 5 and is approached over element 8, 4 has overlap 2 of elements
7 and 9. -/
def stn0 : Mem :=
  memOf [(17408 * 3 + 2048, 4, 0x20), (17408 * 3 + 2048 * 5, 4, 0x20), (17408 * 3 + 0x4000, 4, 0x10), (17408 * 4 + 0x4000, 4, 0x08),
    (0x08900000 + 64 * 3, 4, 0xFFFF0101), (0x08900000 + 64 * 3 + 4, 4, 0x00020001), (0x08900000 + 64 * 3 + 8, 4, 60000),
    (0x08900000 + 64 * 3 + 12, 4, 30000), (0x08900000 + 64 * 3 + 16, 4, 0x01020000),
    (0x08900000 + 64 * 4, 4, 0x00020101), (0x08900000 + 64 * 4 + 4, 4, 0x00070006), (0x08940000 + 256, 4, 0x00020007),
    (0x08940000 + 260, 4, 5000), (0x08940000 + 272, 4, 0x00090007), (0x08980000, 4, 0x00088005), (0x10000000 + 2048 * 8, 4, 0x100),
    (0x12000000 + 2048 * 3, 4, 0x40)]
def bry (b : Beryl) : Machine.State := all { up with beryl := b, dram := stn0 }
def bry0 : Beryl := { Beryl.reset with regs := { BerylRegs.reset with ctrl := 1, loaded := true, wrkLo := 0x10000000, reqRing := 0x1004, rspRing := 0x2004 } }
def desc0 (op r : Nat) : Desc := ⟨op, 9, false, 2, 1, r, 5, 1, 0, 0, 0, false⟩
/-- A Beryl with one accepted descriptor. -/
def bryD (d : Desc) (rt : RPlanes) : Beryl := { bry0 with accepted := [⟨d, none⟩], tags := [9], rt := rt }
def rpl : RPlanes := RPlanes.zero
def ans0 : Answer := ⟨⟨0, 9, 1, false, 3, 0, 0, 0, 0, 1, 0⟩, true, true⟩
def stnd : Stn := ⟨stn0, 0, 0x10000000⟩
/-- The ring's first descriptor at TCM 0x1000. -/
def ring1 (d : Desc) (b : Beryl) : Machine.State :=
  all { up with beryl := { b with regs := { b.regs with reqProd := 1 } }, tcm := Mem.wr [] 0x1000 32 d.word, dram := stn0 }

/-! The cycle -/
def cutL : LaneSt := { vot with cut := some [0, 0, 0, 0, 0, 0] }
def cyc (ph : CyclePh) (l : LaneSt) (f : Mod → Mod) : Machine.State := st (f { svc with ph := ph, handed := false, lanes := PerLane.const l })
def pe0 : ProgExc := ⟨1, 2, none, 0⟩
def tdmHeld : Tdm := { Tdm.reset with ctrl := 1, ch := Tdm.reset.ch.set 0 { TdmChan.reset with active := { dCopy with } } }
def off0 : List Nat := [1, 2, 3]

/-! Lanes -/
def up' : LaneSt := { vot with comparator := true }
def links (n : Nat) : GLinks := ⟨⟨n, none⟩, ⟨2, none⟩, ⟨2, none⟩⟩
def rotAt (k : RotStep) : Rotation := ⟨.b, .schedule, k, 7⟩
def rotM (k : RotStep) : Machine.State := st { svc with service := .reduced, rotation := some (rotAt k), lanes := ⟨vot, { vot with voting := false }, vot⟩ }
def joinL : LaneSt := { vot with voting := false, test := { vot.test with selfOk := true, stationOk := true } }
def copy0 : Copy := ⟨.a, .b, 3, true, false, 1, 0, true⟩
def copyM (c : Option Copy) : Machine.State :=
  st { svc with service := .reduced, copy := c, links := links 2, lanes := ⟨{ vot with tcm := memOf [(4, 4, 9)] }, joinL, vot⟩ }
def sdgM (va vb vc : Nat) : Machine.State :=
  st { svc with lanes := ⟨{ vot with sdg := [(4, va)] }, { vot with sdg := [(4, vb)] }, { vot with sdg := [(4, vc)] }⟩ }

/-! Retained data, change, forces -/
def hand0 : Hand := ⟨6, 77, [0, 7935], 5⟩
def rdyL : LaneSt := { joinL with grn := { up.grn with ctrl := 5 } }
def startM (f : Mod → Mod) : Machine.State :=
  st (f { m1 with lanes := PerLane.const rdyL, role := 4, power := pwrOn, jade := jadeIn .operate })
def assoc3 (roles : Nat) : AssocRec := ⟨3, 1, roles, 1, 2, 0, true, 1, 3, 1000, 1000, []⟩
def cmsL (roles : Nat) (f : List Force) : LaneSt := { vot with lc := .maintain, kst := { vot.kst with recs := [assoc3 roles] }, rt := { vot.rt with forces := f } }
def cms (roles : Nat) (f : List Force) : Machine.State := st { svc with lanes := PerLane.const (cmsL roles f) }
def chW (u : Nat) : ChangeWait := ⟨1, 1, u, [], 3⟩
def chM (u : Nat) : Machine.State :=
  st { svc with cycleTime := 50, lanes := PerLane.const { vot with rt := { vot.rt with change := some (chW u) } } }
def fBody (fop kind key v : Nat) : Bytes := leBytes 1 fop ++ leBytes 1 kind ++ leBytes 2 0 ++ leBytes 4 key ++ leBytes 8 v ++ leBytes 8 0
/-- Lanes with a staged image, and a CHANGE_COMMIT body that names it. -/
def blobS : Blob := ⟨3, []⟩
def stgM : Machine.State := st { svc with lanes := PerLane.const { cmsL 4 [] with staged := some blobS } }
def stgBody : Bytes := by' [1, 0, 0, 0, 1, 0, 0, 0, 0, 0, 0, 0, 0, 0, 0, 0] ++ blobS.digest

/-! Opbex -/
def frm (b : Bytes) : Frame := ⟨b, crc32c b⟩
/-- A frame with the link seal of its sender. -/
def sealF (b : Bytes) : Frame := frm (linkSealed (Config.farLinkKey (faddr b)) b)
/-- A schedule of nodes 2 and 511 of class 1 with windows 0 and 5, and the module of SID 0 as synchronisation source 0, nodes 2 and 511 as
sources 1 and 2. -/
def bk0 : ObxBank :=
  bankOf [(0x10, 2, 0xF000), (0x12, 2, 2), (0x14, 2, 511)] [(2, 0, 1, 1), (2, 5, 2, 0x0303), (2, 8, 4, 0x00640064), (511, 0, 1, 1), (511, 2, 2, 5)]
def oRun : Obx :=
  { Obx.reset with running := true, started := true, master := true, bank0 := bk0, mcn := 7, claim := 0x10100,
                   chA := { ObxCh.reset with state := 2 }, chB := { ObxCh.reset with state := 2 } }
def ob (o : Obx) : Machine.State := st { svc with obx := o }
/-- The start of minor cycle 7. -/
def t7 : Nat := 28000000
def rply (k mcn : Nat) : Bytes := fhead 0x11 3 k ++ leBytes 4 mcn ++ leBytes 4 5 ++ leBytes 20 0
def echor (addr win : Nat) : Frame := sealF (fhead 0x41 3 addr ++ leBytes 4 7 ++ leBytes 8 0 ++ leBytes 2 win ++ leBytes 6 0)
def srptF (ch : Chan) : Frame := sealF (fhead 0x51 3 (starAddr ch) ++ leBytes 4 7)
def oEcho (e : SMap (Nat × Nat)) : Obx := { oRun with chA := { oRun.chA with echoes := e } }
def oOff (r : List Nat) : Obx := { oRun with chA := { oRun.chA with nodes := [(2, { NodeCh.reset with portOff := some 3, reenabled := r })] } }
def svcM : Machine.State := st { svc with lanes := PerLane.const { vot with rt := { vot.rt with verNext := [(2, 3)] } }, obx := oRun }
def syn (j : Nat) (addr : Nat) : Frame := sealF (fhead 0x20 3 addr ++ leBytes 4 7 ++ leBytes 1 j ++ leBytes 3 0 ++ leBytes 20 0)
def oDs (ds : SMap (Int × Chan)) : Obx := { oRun with sync := { Sync.reset with ds := ds, loss := 7 } }
def cold0 : Cold := ⟨5, 16, 5⟩
def coldF (claim : Nat) : Frame := sealF (fhead 0x32 3 0xF001 ++ leBytes 8 claim ++ leBytes 12 0)
def oCold (c : Cold) : Obx := { Obx.reset with cold := some c, claim := 0x10100 }
def cycF (sid : Nat) : Frame := frm (cycFrame sid 9 (0x10100 + sid) 4 0 0 36000000)

/-! Far ends -/
def nd0 : Node := { Node.reset with base := some t7, mcn := 7, cycAt := t7, hclaim := 0x10300 }
def ndc (c : List NodeChan) : Node := { nd0 with chans := c }
def nds (nd : Node) : Machine.State := st { svc with obx := oRun, nodes := [(2, nd)] }
def pollF (ty mcn : Nat) : Frame := frm (fhead ty 3 2 ++ leBytes 8 0x10400 ++ leBytes 4 mcn ++ leBytes 4 5 ++ leBytes 6 0 ++ by' [0x10, 0x70] ++ leBytes 36 0)
def nin0 : NodeIn := ⟨[], 0, true, none⟩
/-- A frame of the module in SID 0 to a far end. -/
def modF (ty to' n : Nat) : Frame := frm (linkSealed (Config.farLinkKey 0xF000) (fhead ty 3 to' ++ leBytes 4 7 ++ leBytes n 0))
def star0 : Star := { Star.reset with first := true, base := some t7, mcn := 7, hclaim := 0x10100, lastCyc := some 5 }
def strs (x : Star) : Machine.State := st { svc with obx := oRun, stars := PerChan.const x }
def smgtF : Frame := frm (smgtFrame 0 7 ⟨[], false⟩ (Config.farLinkKey 0xF000))
def opl (o : Opal) : Machine.State := st { svc with obx := oRun, lanes := PerLane.const { vot with opal := o } }
def oplEn : Opal := { Opal.reset with ctrl := 1, phi := ⟨1024 * 7, 0, 1, 20000⟩ }

/-! Local I/O -/
/-- A station protection setting: pair 13 and 14, counting inputs 0 and 1 with speed function 0, point function 1 on the pair, output 3. -/
def sps0 : Bytes :=
  Mem.bytes (memOf [(2, 2, 200), (0x40, 8, 0x00000000FF000002), (0x48, 8, 0x00000000FF000002), (0x40 + 8 * 13, 8, 0x01F400010E140A01),
    (0x40 + 8 * 14, 8, 0x01F400010D140A01), (0x340 + 24, 4, 0x01000101), (0x4C0, 8, 0x006403E800010001), (0x4C0 + 0xC, 4, 100000),
    (0x4C0 + 0x10, 4, 1000), (0x4C0 + 0x14, 2, 5), (0x4E0, 4, 0x000E0D02), (0x4E8, 4, 5000), (0x4EC, 4, 300)]) 0 1728
def in1 (state band : Nat) : InChan := { InChan.reset with state := state, band := band }
def lio0 (x : InChan) : Lio :=
  { Lio.reset with sps := sps0, active := true, frameStart := 0, ins := ((Lio.reset.ins.set 13 x).set 0 (in1 0 2)).set 1 (in1 0 2), tp := Lio.reset.tp.set 1 ⟨1, false, 3⟩ }
def liom (l : Lio) : Machine.State := st { svc with lio := l }
def lioFn (f : Nat) (q : SfState) : Machine.State :=
  liom { lio0 (in1 0 2) with banks := PerLane.const { LioBank.reset with fns := LioBank.reset.fns.set f q } }
def lioOut (x : OutChan) : Machine.State := liom { lio0 (in1 0 2) with outs := Lio.reset.outs.set 3 x }
def outC (state : Nat) : OutChan := { OutChan.reset with state := state }
def lioHsL : LioLane := { LioLane.reset with hs := 8, ls := 8, do0 := 0x00080008, refreshed := true, lastRefresh := 5 }
def lioHs : Lio :=
  { lio0 (in1 0 2) with outs := Lio.reset.outs.set 3 (outC 1), feed := List.replicate 4 ⟨1, 0⟩, lanes := PerLane.const lioHsL }
def ua13 (v : Nat) : List Nat := List.replicate 13 2000 ++ [v] ++ List.replicate 82 2000

/-! Draip and KST -/
def brt0 : Mem :=
  memOf [(2, 2, 2), (8, 4, 0x100), (0xC, 4, 0x200), (0x10, 4, 0x400), (0x14, 4, 0x500), (0x18, 4, 0x600), (0x100, 8, 0x0000006400000001),
    (0x200, 8, 0x0000123400000001), (0x208, 4, 0x00020000), (0x400, 2, 0x0201), (0x408, 2, 0x0240), (0x40C, 4, 0)]
def drp0 (dv : DrDev) : Drp := { Drp.reset with tables := brt0, mapOk := true, active := true, safeImg := true, devs := [(0, dv)] }
def tel1 : Bytes := by' [0x80, 1, 9, 2, 5, 6] ++ leBytes 4 (tchk 0x1234 (by' [0x80, 1, 9, 2, 5, 6]))
def drAll (b : Drp) : Drp := { b with lanes := PerLane.const { BrgLane.reset with ctrl := 3 } }
def drm (b : Drp) : Machine.State := st { svc with drp := drAll b }
def drL (l : LaneDrp) : Machine.State := st { svc with drp := drAll (drp0 DrDev.reset), lanes := PerLane.const { vot with drp := l } }
def mapE : MapEnt := ⟨0, 0, 1, 1, 0, 32, 0, 1, 1, 0, 3, 0⟩
def readL (k : Option (Nat × Nat)) : Machine.State := st { svc with lanes := PerLane.const { vot with lct := { vot.lct with read := k } } }
/-- An association of one seal; INIT end or not. -/
def asc (i : Bool) (cls : Nat) (roles : Nat) : AssocRec := ⟨3, cls, roles, 1, 2, 1, i, 1, 3, 1000, 1000, []⟩
def kas (i : Bool) (cls roles : Nat) (e : Assoc) : LaneSt := { vot with kst := { vot.kst with recs := [asc i cls roles], assocs := [(3, e)] } }
def kasM (l : LaneSt) (r : AssocRec) : Machine.State :=
  st { svc with lanes := PerLane.const l, kst := { KstPorts.reset with recs := [r], up := PerChan.const true } }
def asO (st : AssocSt) (ver : Nat) : Assoc := { Assoc.reset with st := st, ver := ver }
/-- A PDU of the peer of association 3, sealed by its lane A. -/
def pdu (l : LaneSt) (ver ptype mt : Nat) (p : Bytes) : Bytes :=
  let x := leBytes 1 ver ++ leBytes 1 ptype ++ leBytes 2 3 ++ leBytes 4 2 ++ leBytes 4 1 ++ leBytes 4 1 ++ leBytes 2 mt ++ leBytes 2 p.length ++ leBytes 8 9 ++ leBytes 8 0 ++ p
  x ++ by' [0, 0xFF, 0, 0] ++ keySeal (l.keyOf 4 12) x kstCustom ++ leBytes 8 0

/-! The pair -/
/-- A partner of a role, not transmitting, in service state FULL. -/
def prt (role : Nat) : PairStatus := ⟨0x10001 + 256 * role, 3, false, 0, [], [], true, 4, 0, 0, false, none, 0⟩
def pairUp (role : Nat) : Pair := { Pair.reset with linkUp := true, present := true, partner := some (prt role) }
/-- A standby that follows its partner. -/
def sbyM (role : Nat) (f : Pair → Pair) : Mod :=
  let p := { pairUp 4 with following := some 3 }
  { svc with role := role, handed := true, pair := f p, obx := { oRun with master := false } }
def sby (role : Nat) (f : Pair → Pair) : Machine.State := st (sbyM role f)
def acvM (f : Pair → Pair) : Mod := { svc with handed := true, pair := f { pairUp 3 with partnerHot := true, hotCycles := 16 }, obx := oRun, jade := jadeIn .operate }
def acv (f : Pair → Pair) : Machine.State := st (acvM f)
/-- A reply that a standby holds or fetches, and a follow record sealed by lanes A and B. -/
def itm1 : Item := ⟨7, 7, 2, 5, .reply, by' [1, 2]⟩
def fol (refs : List ReplyRef) : FollowRec :=
  let b := (⟨4, 50, [], [], [], refs, [], 0, 1, [], []⟩ : FollowRec).bytes
  ⟨4, 50, [], [], [], refs, [], 0, 1, keySeal (vot.keyOf 1 0) b customPAIR, keySeal (vot.keyOf 1 1) b customPAIR⟩
def folBad : FollowRec := { fol [] with seal1 := [] }
def noExc : PerLane (Option ProgExc) := PerLane.const none
def noIns : PerLane SliceIn := PerLane.const ⟨[], 10⟩
def set4 : OutSet := ⟨4, [], [], [], [], []⟩
/-- A STANDBY-COLD module whose lanes are ready, and its matching partner. -/
def coldM : Mod :=
  let q := { prt 4 with station := (vot.image).digest, sps := spsValue [], lcState := (jadeIn .operate).lc.code }
  { m1 with lanes := PerLane.const rdyL, role := 2, power := pwrOn, jade := jadeIn .operate, pair := { pairUp 4 with partner := some q } }
def actM : Mod :=
  let q := { prt 2 with station := (vot.image).digest, sps := spsValue [], lcState := (jadeIn .operate).lc.code }
  { acvM id with pair := { pairUp 2 with partner := some q } }
def srcL : LaneSt := { vot with tcm := memOf [(4, 4, 9)] }
/-- A GRANT of star A for the standby's claim. -/
def grantF (role mcn arg0 : Nat) : Frame := frm (claimFrame 0x31 (starAddr .a) ((sbyM role id).claimNum role) mcn arg0 1 (Config.farLinkKey (starAddr .a)))
def stbyF : Frame := frm (claimFrame 0x30 (modAddr 1) 0x10301 7 0 0 (Config.farLinkKey (modAddr 1)))
def swp (m : Nat) (s : SwapStage) : Swap := ⟨m, s, 0x20401, false, false⟩
def swpA (m : Nat) (s : SwapStage) : Machine.State := acv fun p => { p with swap := some (swp m s) }

/-! Start-up -/
def bootM (f : Jade → Jade) : Mod := { m1 with power := pwrOn, jade := f { Jade.reset with lc0 := .of .operate 1, lc1 := .of .operate 1 } }
def boot (f : Jade → Jade) : Machine.State := st (bootM f)
def ldP (p : Proc) (s : ProcSt) : Machine.State :=
  st { m1 with power := pwrOn, jade := jadeIn .operate, procs := Procs.reset.set p s, lanes := PerLane.const { up with released := false } }
def tstL : LaneSt := { up with released := true }
def tstS (l : LaneSt) : Machine.State := st { m1 with power := pwrOn, jade := jadeIn .operate, procs := Procs.reset.set .laneB .running, lanes := PerLane.const l }
def fnd : Finding := ⟨5, 1, 77⟩
def fuse2 : List RepairEnt := [⟨5, 1, 0, 1, 1, 0⟩, ⟨5, 1, 1, 1, 2, 0⟩]
def strt (f : Mod → Mod) : Machine.State := st (f { m1 with power := pwrOn, jade := jadeIn .operate })
def lct1 (c : Word32) : Machine.State := all { vot with silent := true, lct := { Lct.reset with ctrl := c } }
/-- Point ends 5 and 7 with LOCK-SAFE set, and a PLANE_WRITE at the head of the pipeline. -/
def dPw (p m : Nat) : Desc := { desc0 0x10 0 with arg0 := p, arg1 := m, arg2 := 0xFFFFFFFF }
def brySafe (d : Desc) : Machine.State :=
  all { up with beryl := { bryD d rpl with el := { EPlanes.zero with lockSafe := bitE 5 ||| bitE 7 } }, dram := Mem.wr (Mem.wr stn0 (0x08800000 + 160) 1 2) (0x08800000 + 224) 1 2 }

/-! ### What holds of frames and PDUs whatever the keys are -/
theorem keySeal_length (k x c : Bytes) : (keySeal k x c).length = 8 := by simp [keySeal, Config.kmac256, Config.digestBytes]
theorem link_of {a a' : Nat} {b : Bytes} (h : a = a') : linkOk (Config.farLinkKey a) (linkSealed (Config.farLinkKey a') b) = true := by
  subst h
  simp [linkOk, sealedBy, linkSealed, keySeal_length]
theorem frm_ok {b : Bytes} : (frm b).ok = true := by simp [Frame.ok, frm]
theorem good_of {b : Bytes} {ty : Nat} (h : (ftype b == ty && flenOk b && fverOk b) = true) : (frm b).good ty = true := by
  simp only [Frame.good, frm_ok, Bool.true_and]; exact h
theorem and2 {a b : Bool} (ha : a = true) (hb : b = true) : (a && b) = true := by rw [ha, hb]; rfl
theorem module_of {bk : ObxBank} {b : Bytes} {j : Nat} (hj : j < 8) (h : 0xF000 ≤ bk.syncSrc j ∧ bk.syncSrc j < 0xF100)
    (hl : linkOk (Config.farLinkKey (bk.syncSrc j)) b = true) : fromModule bk b = true := by
  simp only [fromModule, List.any_eq_true, List.mem_range]
  exact ⟨j, hj, by simp [h, hl]⟩
theorem err_of {ε α : Type} [DecidableEq ε] {x : Except ε α} {e : ε} (h : (match x with | .error e' => decide (e' = e) | .ok _ => false) = true) : x = .error e := by
  cases x <;> simp_all
theorem ok_of {ε α : Type} [DecidableEq α] {x : Except ε α} {a : α} (h : (match x with | .ok a' => decide (a' = a) | .error _ => false) = true) : x = .ok a := by
  cases x <;> simp_all
theorem unconfirmed {l : LaneSt} (h : (l.mram.rd (confirmAt + 28) 4 == crc32c (l.mram.bytes confirmAt 28)) = false) : l.confirmed = false := by
  simp only [LaneSt.confirmed, h, Bool.and_false]
theorem pduOk_of {r : AssocRec} {x : Assoc} {cls now : Nat} {vk : Nat → Bytes} {b : Bytes} (h1 : r.pseals = 1)
    (hs : Bytes.sub b (0x24 + pduMlen b + 4) 8 = keySeal (vk (Bytes.le b (0x24 + pduMlen b) 1 % 4)) (b.take (0x24 + pduMlen b)) kstCustom)
    (h : pduOk { r with pseals := 1 } x cls now vk b = true ∨ (pduShape x b && pduCtlLen r b && pduSrc b == r.peerId && pduDst b == r.localId && cls == r.cls
      && (!(pduType b == 3 || (pduType b == 4 && x.st != .closed))
        || decide (1 ≤ (pduSeq b + 4294967296 - x.lastSeq) % 4294967296 ∧ (pduSeq b + 4294967296 - x.lastSeq) % 4294967296 ≤ 256))
      && decide ((if x.st = .closed then 0 else x.lastTs) < pduTs b)
      && (pduType b == 1 || decide (pduEcho b ≤ now ∧ x.lastEcho ≤ pduEcho b ∧ now - pduEcho b ≤ r.tmax * 1000000))
      && ptypeAccepted r.init x.st (pduType b)) = true) : pduOk r x cls now vk b = true := by
  have hk : pduSealed r vk b = true := by simp [pduSealed, h1, hs]
  rcases h with h | h
  · cases r; subst h1; exact h
  · simp only [pduOk, hk, Bool.and_true]; exact h

theorem le8 (v : Nat) (h : v < 2 ^ 64) : Bytes.nat (leBytes 8 v) = v := by
  have e : ∀ i, (byteOf v i).toNat = v / 256 ^ i % 256 := by
    intro i
    simp [byteOf, Nat.shiftRight_eq_div_pow, Nat.pow_mul]
  simp only [leBytes, List.range, List.range.loop, List.map, Bytes.nat, e]
  omega
theorem tok_names {a b : LcState} : (tok a b).names serialNo 1 = true := by
  have h : Bytes.le (tok a b).body 8 8 = serialNo := by
    show Bytes.nat (leBytes 8 serialNo) = serialNo
    exact le8 _ (by unfold serialNo; omega)
  have h2 : Bytes.le (tok a b).body 0x10 4 = 1 := by rfl
  simp [Token.names, h, h2]
theorem follow_fit {m : Mod} {f : FollowRec} (h : ∀ x, (m.lane x).followSealOk f = true) :
    (List.filter (fun x => !(m.lane x).followSealOk f) m.running).length < 2 := by
  have e : (List.filter (fun x => !(m.lane x).followSealOk f) m.running) = [] := List.filter_eq_nil_iff.2 (by simp [h])
  rw [e]; decide
theorem seal_of {l : LaneSt} {f : FollowRec} (h : (decide (f.lane1 % 16 < 3 ∧ f.lane2 % 16 < 3) && f.lane1 % 16 != f.lane2 % 16) = true)
    (h1 : f.seal1 = keySeal (l.keyOf 1 (f.lane1 % 16)) f.bytes customPAIR) (h2 : f.seal2 = keySeal (l.keyOf 1 (f.lane2 % 16)) f.bytes customPAIR) :
    l.followSealOk f = true := by
  simp only [LaneSt.followSealOk, ← h1, ← h2, h, beq_self_eq_true, Bool.and_self]
theorem fits {l : Lane → LaneSt} {refs : List ReplyRef} (h : ∀ x, (l x).keys.used = none) (x : Lane) : (l x).followSealOk (fol refs) = true :=
  seal_of (by rfl) (by rw [LaneSt.keyOf, h]; rfl) (by rw [LaneSt.keyOf, h]; rfl)
theorem pair_of {m : Mod} {x : Lane} {q : PairStatus} (h1 : (m.pair.linkUp && m.pair.present) = true) (h2 : m.pair.partner = some q)
    (h3 : q.pcc = (m.lane x).pcc) (h4 : q.station = (m.lane x).image.digest) (h5 : q.sps = spsValue (m.lane x).sps)
    (h6 : (q.confirmed && q.lcState == m.jade.lc.code) = true) : m.pairMatches x = true := by
  simp only [Bool.and_eq_true] at h1 h6
  simp [Mod.pairMatches, h1, h2, h3, h4, h5, h6.1, beq_iff_eq.1 h6.2]
theorem no_sps {l : LaneSt} (h : l.sps = []) : (l.confirmed || l.sps == []) = true := by simp [h]
theorem commit_of {m : Mod} {lc : LcState} {d : Bytes} {b : Blob} (h : (lc == .commission || lc == .maintain) = true)
    (h1 : (m.voters.any fun x => (m.lane x).stageFail.isSome) = false) (h2 : ∀ x, (m.lane x).staged = some b) (h3 : 2 ≤ m.voters.length) (h4 : b.digest = d) :
    m.commitRefused lc 1 d = none := by
  have e : m.stagedLanes d = m.voters := by simp [Mod.stagedLanes, h2, h4]
  have n : ¬ m.voters.length < 2 := by omega
  simp [Mod.commitRefused, h, h1, e, n]
theorem wit_BerylRegisterCommandsChangeOneRegister :
    (∃ (s : State) (x : Lane), (s.m.lane x).powered = true) ∧
    (∃ (s : State) (x : Lane), (s.m.lane x).powered = true) :=
  ⟨⟨(bry bry0), .b, by decide +kernel⟩,
   ⟨(bry { bry0 with regs := { bry0.regs with errcap := 7 } }), .b, by decide +kernel⟩⟩

theorem wit_DescriptorIsJudgedInTheOrderOfTheRule :
    (∃ (s : State) (x : Lane) (n : Nat), (s.m.lane x).powered = true ∧ (s.m.lane x).beryl.regs.faulted = false ∧ (s.m.lane x).beryl.regs.hold = false ∧ ringSize (s.m.lane x).beryl.regs.reqRing 8 = some n ∧ idx10 (s.m.lane x).beryl.regs.reqProd ≠ idx10 (s.m.lane x).beryl.regs.reqCons ∧ (s.m.lane x).beryl.inflight < 256 ∧ (s.m.lane x).beryl.rspFree = true ∧ ringBase (s.m.lane x).beryl.regs.reqRing + 32 * (idx10 (s.m.lane x).beryl.regs.reqCons % n) + 32 ≤ 8388608 ∧ (∀ a ∈ (s.m.lane x).beryl.accepted.head?, a.pre = none)) :=
  ⟨(ring1 (desc0 1 3) bry0), .b, 16, by decide +kernel⟩

theorem wit_ResponseIsWrittenIntoTheRing :
    (∃ (s : State) (x : Lane) (n : Nat) (a : Answer) (rest : List Answer), (s.m.lane x).powered = true ∧ (s.m.lane x).beryl.regs.faulted = false ∧ (s.m.lane x).beryl.answers = a :: rest ∧ ringSize (s.m.lane x).beryl.regs.rspRing 9 = some n ∧ (s.m.lane x).beryl.rspFree = true ∧ ringBase (s.m.lane x).beryl.regs.rspRing + 16 * (idx10 (s.m.lane x).beryl.regs.rspProd % n) + 16 ≤ 8388608) :=
  ⟨(bry { bry0 with answers := [ans0], tags := [9] }), .b, 16, ans0, [], by decide +kernel⟩

theorem wit_AdmissionExcludesConflicts :
    (∃ (d : Stn) (v : View) (cls : Nat) (r : Nat) (pa : RRow), (routeVerdict d v cls r pa).status = stOK) ∧
    (∃ (d : Stn) (v : View) (cls : Nat) (r : Nat) (pa : RRow), (routeVerdict d v cls r pa).status = stOK) :=
  ⟨⟨stnd, View.zero, 2, 3, 0, by decide +kernel⟩,
   ⟨stnd, View.zero, 2, 4, 0, by decide +kernel⟩⟩

theorem wit_SetCommitsOrQueuesOrRefuses :
    (∃ (s : State) (x : Lane) (d : Desc) (rest : List Accepted), (s.m.lane x).powered = true ∧ (s.m.lane x).beryl.regs.faulted = false ∧ (s.m.lane x).beryl.accepted = { desc := d, pre := none } :: rest ∧ d.op = 1 ∧ d.arg0 ≤ 3600 ∧ (routeVerdict ((s.m.lane x).beryl.stn (s.m.lane x).dram) (s.m.lane x).beryl.view d.cls d.route (s.m.lane x).beryl.rt.pending).status = stOK ∧ takeOf ((s.m.lane x).beryl.stn (s.m.lane x).dram) (s.m.lane x).beryl.view d.route = 0) ∧
    (∃ (s : State) (x : Lane) (d : Desc) (rest : List Accepted), (s.m.lane x).powered = true ∧ (s.m.lane x).beryl.regs.faulted = false ∧ (s.m.lane x).beryl.accepted = { desc := d, pre := none } :: rest ∧ d.op = 1 ∧ d.arg0 ≤ 3600 ∧ (routeVerdict ((s.m.lane x).beryl.stn (s.m.lane x).dram) (s.m.lane x).beryl.view d.cls d.route (s.m.lane x).beryl.rt.pending).status ≠ stOK ∧ ((routeVerdict ((s.m.lane x).beryl.stn (s.m.lane x).dram) (s.m.lane x).beryl.view d.cls d.route (s.m.lane x).beryl.rt.pending).status = stCONFLICT ∨ (routeVerdict ((s.m.lane x).beryl.stn (s.m.lane x).dram) (s.m.lane x).beryl.view d.cls d.route (s.m.lane x).beryl.rt.pending).status = stCONFLICTPENDING → d.queue = false)) ∧
    (∃ (s : State) (x : Lane) (d : Desc) (rest : List Accepted), (s.m.lane x).powered = true ∧ (s.m.lane x).beryl.regs.faulted = false ∧ (s.m.lane x).beryl.accepted = { desc := d, pre := none } :: rest ∧ d.op = 1 ∧ d.arg0 ≤ 3600 ∧ ((routeVerdict ((s.m.lane x).beryl.stn (s.m.lane x).dram) (s.m.lane x).beryl.view d.cls d.route (s.m.lane x).beryl.rt.pending).status = stCONFLICT ∨ (routeVerdict ((s.m.lane x).beryl.stn (s.m.lane x).dram) (s.m.lane x).beryl.view d.cls d.route (s.m.lane x).beryl.rt.pending).status = stCONFLICTPENDING) ∧ d.queue = true ∧ ((s.m.lane x).beryl.stn (s.m.lane x).dram).rQueueOk d.route = true ∧ (routeVerdict ((s.m.lane x).beryl.stn (s.m.lane x).dram) (s.m.lane x).beryl.view d.cls d.route (s.m.lane x).beryl.rt.pending).who ≠ d.route) ∧
    (∃ (s : State) (x : Lane) (d : Desc) (rest : List Accepted), (s.m.lane x).powered = true ∧ (s.m.lane x).beryl.regs.faulted = false ∧ (s.m.lane x).beryl.accepted = { desc := d, pre := none } :: rest ∧ d.op = 7) :=
  ⟨⟨(bry (bryD (desc0 1 3) rpl)), .b, (desc0 1 3), [], by decide +kernel⟩,
   ⟨(bry (bryD (desc0 1 3) { rpl with set := bitR 4 })), .b, (desc0 1 3), [], by decide +kernel⟩,
   ⟨(bry (bryD { desc0 1 3 with queue := true } { rpl with set := bitR 4 })), .b, { desc0 1 3 with queue := true }, [], by decide +kernel⟩,
   ⟨(bry (bryD (desc0 7 3) { rpl with set := bitR 4 })), .b, (desc0 7 3), [], by decide +kernel⟩⟩

theorem wit_TimedReleaseFollowsItsRule :
    (∃ (s : State) (x : Lane) (d : Desc) (rest : List Accepted), (s.m.lane x).powered = true ∧ (s.m.lane x).beryl.regs.faulted = false ∧ (s.m.lane x).beryl.accepted = { desc := d, pre := none } :: rest ∧ d.op = 3 ∧ 4095 < d.route) ∧
    (∃ (s : State) (x : Lane) (d : Desc) (rest : List Accepted), (s.m.lane x).powered = true ∧ (s.m.lane x).beryl.regs.faulted = false ∧ (s.m.lane x).beryl.accepted = { desc := d, pre := none } :: rest ∧ d.op = 3 ∧ d.route ≤ 4095 ∧ ((s.m.lane x).beryl.stn (s.m.lane x).dram).rKind d.route = 0) ∧
    (∃ (s : State) (x : Lane) (d : Desc) (rest : List Accepted), (s.m.lane x).powered = true ∧ (s.m.lane x).beryl.regs.faulted = false ∧ (s.m.lane x).beryl.accepted = { desc := d, pre := none } :: rest ∧ d.op = 3 ∧ d.route ≤ 4095 ∧ ((s.m.lane x).beryl.stn (s.m.lane x).dram).rKind d.route ≠ 0 ∧ BitVec.getLsbD (s.m.lane x).beryl.rt.set d.route = false) ∧
    (∃ (s : State) (x : Lane) (d : Desc) (rest : List Accepted), (s.m.lane x).powered = true ∧ (s.m.lane x).beryl.regs.faulted = false ∧ (s.m.lane x).beryl.accepted = { desc := d, pre := none } :: rest ∧ d.op = 3 ∧ d.route ≤ 4095 ∧ ((s.m.lane x).beryl.stn (s.m.lane x).dram).rKind d.route ≠ 0 ∧ BitVec.getLsbD (s.m.lane x).beryl.rt.set d.route = true ∧ BitVec.getLsbD (s.m.lane x).beryl.rt.sigClear d.route = true) ∧
    (∃ (s : State) (x : Lane) (d : Desc) (rest : List Accepted), (s.m.lane x).powered = true ∧ (s.m.lane x).beryl.regs.faulted = false ∧ (s.m.lane x).beryl.accepted = { desc := d, pre := none } :: rest ∧ d.op = 3 ∧ d.route ≤ 4095 ∧ ((s.m.lane x).beryl.stn (s.m.lane x).dram).rKind d.route ≠ 0 ∧ BitVec.getLsbD (s.m.lane x).beryl.rt.set d.route = true ∧ BitVec.getLsbD (s.m.lane x).beryl.rt.sigClear d.route = false ∧ BitVec.getLsbD (s.m.lane x).beryl.rt.locked d.route = false ∧ BitVec.getLsbD (s.m.lane x).beryl.rt.lockSafe d.route = false) ∧
    (∃ (s : State) (x : Lane) (d : Desc) (rest : List Accepted), (s.m.lane x).powered = true ∧ (s.m.lane x).beryl.regs.faulted = false ∧ (s.m.lane x).beryl.accepted = { desc := d, pre := none } :: rest ∧ d.op = 3 ∧ d.route ≤ 4095 ∧ ((s.m.lane x).beryl.stn (s.m.lane x).dram).rKind d.route ≠ 0 ∧ BitVec.getLsbD (s.m.lane x).beryl.rt.set d.route = true ∧ BitVec.getLsbD (s.m.lane x).beryl.rt.sigClear d.route = false ∧ (BitVec.getLsbD (s.m.lane x).beryl.rt.locked d.route = true ∨ BitVec.getLsbD (s.m.lane x).beryl.rt.lockSafe d.route = true)) :=
  ⟨⟨(bry (bryD (desc0 3 4096) rpl)), .b, (desc0 3 4096), [], by decide +kernel⟩,
   ⟨(bry (bryD (desc0 3 4095) rpl)), .b, (desc0 3 4095), [], by decide +kernel⟩,
   ⟨(bry (bryD (desc0 3 3) rpl)), .b, (desc0 3 3), [], by decide +kernel⟩,
   ⟨(bry (bryD (desc0 3 3) { rpl with set := bitR 3, sigClear := bitR 3 })), .b, (desc0 3 3), [], by decide +kernel⟩,
   ⟨(bry (bryD (desc0 3 3) { rpl with set := bitR 3 })), .b, (desc0 3 3), [], by decide +kernel⟩,
   ⟨(bry (bryD (desc0 3 3) { rpl with set := bitR 3, locked := bitR 3 })), .b, (desc0 3 3), [], by decide +kernel⟩⟩

theorem wit_OtherBerylOperationsTakeEffect :
    (∃ (s : State) (x : Lane) (d : Desc) (rest : List Accepted), (s.m.lane x).powered = true ∧ (s.m.lane x).beryl.regs.faulted = false ∧ (s.m.lane x).beryl.accepted = { desc := d, pre := none } :: rest ∧ d.op = 2 ∧ d.route ≤ 4095 ∧ ((s.m.lane x).beryl.stn (s.m.lane x).dram).rKind d.route ≠ 0 ∧ BitVec.getLsbD (s.m.lane x).beryl.rt.set d.route = true ∧ BitVec.getLsbD (s.m.lane x).beryl.rt.sigClear d.route = false ∧ BitVec.getLsbD (s.m.lane x).beryl.rt.lockSafe d.route = false ∧ BitVec.getLsbD (s.m.lane x).beryl.rt.locked d.route = true ∧ ((s.m.lane x).beryl.stn (s.m.lane x).dram).approachRow d.route &&& (s.m.lane x).beryl.el.occ ≠ 0) ∧
    (∃ (s : State) (x : Lane) (d : Desc) (rest : List Accepted), (s.m.lane x).powered = true ∧ (s.m.lane x).beryl.regs.faulted = false ∧ (s.m.lane x).beryl.accepted = { desc := d, pre := none } :: rest ∧ d.op = 2 ∧ d.route ≤ 4095 ∧ ((s.m.lane x).beryl.stn (s.m.lane x).dram).rKind d.route ≠ 0 ∧ BitVec.getLsbD (s.m.lane x).beryl.rt.set d.route = true ∧ BitVec.getLsbD (s.m.lane x).beryl.rt.sigClear d.route = false ∧ BitVec.getLsbD (s.m.lane x).beryl.rt.lockSafe d.route = false ∧ (BitVec.getLsbD (s.m.lane x).beryl.rt.locked d.route = false ∨ ((s.m.lane x).beryl.stn (s.m.lane x).dram).approachRow d.route &&& (s.m.lane x).beryl.el.occ = 0) ∧ (s.m.lane x).beryl.ws.pend = []) ∧
    (∃ (s : State) (x : Lane) (d : Desc) (rest : List Accepted), (s.m.lane x).powered = true ∧ (s.m.lane x).beryl.regs.faulted = false ∧ (s.m.lane x).beryl.accepted = { desc := d, pre := none } :: rest ∧ d.op = 2 ∧ d.route ≤ 4095 ∧ ((s.m.lane x).beryl.stn (s.m.lane x).dram).rKind d.route ≠ 0 ∧ BitVec.getLsbD (s.m.lane x).beryl.rt.set d.route = false) ∧
    (∃ (s : State) (x : Lane) (d : Desc) (rest : List Accepted) (e : PendEntry), (s.m.lane x).powered = true ∧ (s.m.lane x).beryl.regs.faulted = false ∧ (s.m.lane x).beryl.accepted = { desc := d, pre := none } :: rest ∧ d.op = 4 ∧ d.route ≤ 4095 ∧ ((s.m.lane x).beryl.stn (s.m.lane x).dram).rKind d.route ≠ 0 ∧ (s.m.lane x).beryl.ws.pend = [e] ∧ e.desc.route = d.route) ∧
    (∃ (s : State) (x : Lane) (d : Desc) (rest : List Accepted), (s.m.lane x).powered = true ∧ (s.m.lane x).beryl.regs.faulted = false ∧ (s.m.lane x).beryl.accepted = { desc := d, pre := none } :: rest ∧ d.op = 6 ∧ d.arg0 ≤ 16383) ∧
    (∃ (s : State) (x : Lane) (d : Desc) (rest : List Accepted), (s.m.lane x).powered = true ∧ (s.m.lane x).beryl.regs.faulted = false ∧ (s.m.lane x).beryl.accepted = { desc := d, pre := none } :: rest ∧ d.op = 16 ∧ bits d.arg0 7 0 = 16 ∧ bits d.arg0 23 8 < 512) :=
  ⟨⟨(bry { bryD (desc0 2 3) { rpl with set := bitR 3, locked := bitR 3 } with el := { EPlanes.zero with occ := bitE 8 } }), .b, (desc0 2 3), [], by decide +kernel⟩,
   ⟨(bry (bryD (desc0 2 3) { rpl with set := bitR 3, locked := bitR 3 })), .b, (desc0 2 3), [], by decide +kernel⟩,
   ⟨(bry (bryD (desc0 2 3) rpl)), .b, (desc0 2 3), [], by decide +kernel⟩,
   ⟨(bry { bryD (desc0 4 3) { rpl with pending := bitR 3 } with ws := { BerylStore.zero with pend := [⟨desc0 1 3, 7⟩] } }), .b, (desc0 4 3), [], ⟨desc0 1 3, 7⟩, by decide +kernel⟩,
   ⟨(bry (bryD { desc0 6 0 with arg0 := 16383, arg2 := 0x100 } rpl)), .b, { desc0 6 0 with arg0 := 16383, arg2 := 0x100 }, [], by decide +kernel⟩,
   ⟨(bry (bryD { desc0 0x10 0 with arg0 := 16 + 0x1FF00, arg1 := 0xFFFFFFFF, arg2 := 0xF0 } rpl)), .b, { desc0 0x10 0 with arg0 := 16 + 0x1FF00, arg1 := 0xFFFFFFFF, arg2 := 0xF0 }, [], by decide +kernel⟩⟩

theorem wit_AreaTimersAndLockSafePointEnds :
    (∃ (s : State) (x : Lane) (d : Desc) (rest : List Accepted), (s.m.lane x).powered = true ∧ (s.m.lane x).beryl.regs.faulted = false ∧ (s.m.lane x).beryl.accepted = { desc := d, pre := none } :: rest ∧ d.op = 5 ∧ d.arg0 ≤ 255 ∧ 60000 ≤ d.arg1 ∧ d.arg1 ≤ 3600000) ∧
    (∃ (s : State) (x : Lane) (d : Desc) (rest : List Accepted), (s.m.lane x).powered = true ∧ (s.m.lane x).beryl.regs.faulted = false ∧ (s.m.lane x).beryl.accepted = { desc := d, pre := none } :: rest ∧ d.op = 5 ∧ (255 < d.arg0 ∨ d.arg1 < 60000 ∨ 3600000 < d.arg1)) ∧
    (∃ (s : State) (x : Lane) (d : Desc) (rest : List Accepted) (e : Nat), (s.m.lane x).powered = true ∧ (s.m.lane x).beryl.regs.faulted = false ∧ (s.m.lane x).beryl.accepted = { desc := d, pre := none } :: rest ∧ d.op = 16 ∧ (bits d.arg0 7 0 = 7 ∨ bits d.arg0 7 0 = 8) ∧ bits d.arg0 23 8 < 512 ∧ e / 32 = bits d.arg0 23 8 ∧ (d.arg1 &&& d.arg2).testBit (e % 32) = true ∧ isPoint (((s.m.lane x).beryl.stn (s.m.lane x).dram).eType e) = true ∧ BitVec.getLsbD (s.m.lane x).beryl.el.lockSafe e = true) :=
  ⟨⟨(bry (bryD { desc0 5 0 with arg0 := 255, arg1 := 60000 } rpl)), .a, { desc0 5 0 with arg0 := 255, arg1 := 60000 }, [], by decide +kernel⟩,
   ⟨(bry (bryD { desc0 5 0 with arg0 := 256, arg1 := 60000 } rpl)), .a, { desc0 5 0 with arg0 := 256, arg1 := 60000 }, [], by decide +kernel⟩,
   ⟨(brySafe (dPw 7 0xA0)), .a, (dPw 7 0xA0), [], 5, by decide +kernel⟩⟩

theorem wit_BerylCommandsAndTimersTakeEffect :
    (∃ (s : State) (x : Lane), (s.m.lane x).powered = true ∧ (s.m.lane x).beryl.regs.faulted = false ∧ (s.m.lane x).beryl.regs.hold = true ∧ (s.m.lane x).beryl.idle = true) ∧
    (∃ (s : State) (x : Lane), (s.m.lane x).powered = true ∧ (s.m.lane x).beryl.regs.faulted = false ∧ (s.m.lane x).beryl.regs.hold = true ∧ (s.m.lane x).beryl.idle = true) ∧
    (∃ (s : State) (x : Lane), (s.m.lane x).powered = true ∧ (s.m.lane x).beryl.regs.faulted = false ∧ ((s.m.lane x).beryl.regs.hold = false ∨ (s.m.lane x).beryl.idle = false)) ∧
    (∃ (s : State) (x : Lane), (s.m.lane x).powered = true ∧ (s.m.lane x).beryl.regs.faulted = false ∧ ((s.m.lane x).beryl.regs.hold = false ∨ (s.m.lane x).beryl.idle = false)) ∧
    (∃ (s : State) (x : Lane) (p : Nat), (s.m.lane x).powered = true ∧ (s.m.lane x).beryl.regs.faulted = false ∧ (s.m.lane x).beryl.sweepRun = none ∧ (s.m.lane x).beryl.freeStage = some p) ∧
    (∃ (s : State) (x : Lane) (w : SweepRun), (s.m.lane x).powered = true ∧ (s.m.lane x).beryl.regs.faulted = false ∧ (s.m.lane x).beryl.sweepRun = some w) ∧
    (∃ (s : State) (x : Lane) (r : Nat), (s.m.lane x).powered = true ∧ (s.m.lane x).beryl.regs.faulted = false ∧ (s.m.lane x).beryl.ws.arun.getLsbD r = true ∧ isDue (s.m.lane x).beryl.nowMs (SMap.get 0 (s.m.lane x).beryl.ws.adl r) = true) ∧
    (∃ (s : State) (x : Lane) (r : Nat), (s.m.lane x).powered = true ∧ (s.m.lane x).beryl.regs.faulted = false ∧ ((s.m.lane x).beryl.ws.arun.getLsbD r = false ∨ isDue (s.m.lane x).beryl.nowMs (SMap.get 0 (s.m.lane x).beryl.ws.adl r) = false)) ∧
    (∃ (s : State) (x : Lane) (r : Nat) (e : PendEntry), (s.m.lane x).powered = true ∧ (s.m.lane x).beryl.regs.faulted = false ∧ (s.m.lane x).beryl.ws.pend = [e] ∧ e.desc.route = r ∧ isDue (s.m.lane x).beryl.nowMs e.deadline = true) ∧
    (∃ (s : State) (x : Lane) (r : Nat), (s.m.lane x).powered = true ∧ (s.m.lane x).beryl.regs.faulted = false ∧ (s.m.lane x).beryl.ws.pend = [] ∧ BitVec.getLsbD (s.m.lane x).beryl.rt.set r = true ∧ BitVec.getLsbD (s.m.lane x).beryl.rt.trel r = true ∧ isDue (s.m.lane x).beryl.nowMs (SMap.get 0 (s.m.lane x).beryl.ws.rdl r) = true) ∧
    (∃ (s : State) (x : Lane) (r : Nat), (s.m.lane x).powered = true ∧ (s.m.lane x).beryl.regs.faulted = false ∧ (s.m.lane x).beryl.ws.pend = [] ∧ BitVec.getLsbD (s.m.lane x).beryl.rt.ovlSet r = true ∧ BitVec.getLsbD (s.m.lane x).beryl.rt.ovlTrel r = true ∧ isDue (s.m.lane x).beryl.nowMs (SMap.get 0 (s.m.lane x).beryl.ws.odl (((s.m.lane x).beryl.stn (s.m.lane x).dram).rOvl r)) = true) :=
  ⟨⟨(bry { bry0 with regs := { bry0.regs with ctrl := 3 } }), .b, by decide +kernel⟩,
   ⟨(bry { bry0 with regs := { bry0.regs with ctrl := 3 }, el := { EPlanes.zero with occ := 5 } }), .b, by decide +kernel⟩,
   ⟨(bry bry0), .b, by decide +kernel⟩,
   ⟨(bry { bryD (desc0 1 3) rpl with regs := { bry0.regs with ctrl := 3 } }), .b, by decide +kernel⟩,
   ⟨(bry { bry0 with sweepReady := [⟨0, 1⟩] }), .b, 1, by decide +kernel⟩,
   ⟨(bry { bry0 with sweepRun := some ⟨1, 0⟩ }), .b, ⟨1, 0⟩, by decide +kernel⟩,
   ⟨(bry { bry0 with ws := { BerylStore.zero with arun := 8 }, el := { EPlanes.zero with lockSafe := 0xC0 } }), .b, 3, by decide +kernel⟩,
   ⟨(bry { bry0 with ws := { BerylStore.zero with arun := 8, adl := [(3, 1)] }, el := { EPlanes.zero with lockSafe := 0xC0 } }), .b, 3, by decide +kernel⟩,
   ⟨(bry { bry0 with rt := { rpl with pending := bitR 3 }, ws := { BerylStore.zero with pend := [⟨desc0 1 3, 0⟩] } }), .b, 3, ⟨desc0 1 3, 0⟩, by decide +kernel⟩,
   ⟨(bry { bry0 with rt := { rpl with set := bitR 4, trel := bitR 4 } }), .b, 4, by decide +kernel⟩,
   ⟨(bry { bry0 with rt := { rpl with set := bitR 4, ovlSet := bitR 4, ovlTrel := bitR 4 }, ws := { BerylStore.zero with ovown := [(2, 4)] } }), .b, 4, by decide +kernel⟩⟩

theorem wit_ItemReachesEachLaneOnce :
    (∃ (p : Machine.Path) (cls : Nat) (kind : ItemKind), p.classes.contains cls = true ∧ p.kinds.contains kind = true) :=
  ⟨.obxA, 7, .reply, by decide +kernel⟩

theorem wit_CyclePhasesFollowTheirCommands :
    (∃ (s : State) (x : Lane), s.m.cycles = true ∧ s.m.running.contains x = true ∧ s.m.ph = CyclePh.cut ∧ (s.m.lane x).cut = none) ∧
    (∃ (s : State) (x : Lane) (t : Nat), s.m.cycles = true ∧ s.m.running.contains x = true ∧ s.m.ph = CyclePh.idle ∧ s.m.stopCut = false ∧ s.m.handed = true ∧ (s.m.lane x).voting = true ∧ (s.m.advance t).boundary.cycles = true ∧ (s.m.advance t).boundary.beginCycle.running.contains x = true) ∧
    (∃ (s : State) (x : Lane) (t : Nat), s.m.cycles = true ∧ s.m.ph = CyclePh.cut ∧ s.m.running.contains x = true ∧ (s.m.lane x).cut.isSome = true ∧ s.m.cutAt + 20000 ≤ t ∧ (s.m.lane x).lacks s.m.cutCounts = true) ∧
    (∃ (s : State) (x : Lane), s.m.inService = true ∧ s.m.ph = CyclePh.run ∧ s.m.running.contains x = true ∧ (s.m.lane x).offer = none ∧ (s.m.lane x).rt.exc = none ∧ (s.m.lane x).voting = true ∧ s.m.winAt = none) ∧
    (∃ (s : State) (x : Lane) (e : ProgExc), s.m.inService = true ∧ s.m.ph = CyclePh.run ∧ s.m.running.contains x = true ∧ (s.m.lane x).offer = none ∧ ((s.m.modLane x fun l => l.progExc x.idx { prog := e.prog, kind := 2, iid := e.iid, off := e.off }).commonExc = false)) ∧
    (∃ (s : State) (phase : Nat) (len : Nat), s.m.inService = true ∧ phase ≤ 4 ∧ phaseBound (s.m.service == Service.full) phase < len) ∧
    (∃ (s : State) (phase : Nat) (len : Nat), len ≤ phaseBound (s.m.service == Service.full) phase) ∧
    (∃ (s : State) (t : Nat), s.m.cycles = true ∧ s.m.handed = false ∧ (s.m.cutAt + if s.m.service = Service.full then 10000000 else 20000000) ≤ t) :=
  ⟨⟨(cyc .cut vot id), .b, by decide +kernel⟩,
   ⟨(cyc .idle vot fun m => { m with handed := true }), .b, 5, by decide +kernel⟩,
   ⟨(cyc .cut cutL fun m => { m with lanes := ⟨cutL, { cutL with cut := some [1, 0, 0, 0, 0, 0] }, { cutL with cut := some [1, 0, 0, 0, 0, 0] }⟩ }), .a, 20000, by decide +kernel⟩,
   ⟨(cyc .run cutL id), .b, by decide +kernel⟩,
   ⟨(cyc .run cutL id), .b, pe0, by decide +kernel⟩,
   ⟨(cyc .run cutL id), 4, 99999999, by decide +kernel⟩,
   ⟨(cyc .run cutL id), 4, 0, by decide +kernel⟩,
   ⟨(cyc .run cutL id), 10000000, by decide +kernel⟩⟩

theorem wit_ConsensusAndVoteEndTheirPhase :
    (∃ (s : State), s.m.cycles = true ∧ s.m.ph = CyclePh.cut ∧ ((s.m.present.all fun x => (s.m.lane x).cut.isSome) = true) ∧ (((List.filter (fun x => (s.m.lane x).cut.isSome) s.m.running).any fun x => (s.m.lane x).lacks s.m.cutCounts) = false)) ∧
    (∃ (s : State) (t : Nat) (w : Nat), s.m.inService = true ∧ (s.m.ph = CyclePh.run → s.m.commonExc = false) ∧ s.m.winAt = some w ∧ ((s.m.present.all fun x => (s.m.lane x).offer.isSome) = true ∨ w + 20000 ≤ (s.m.advance t).clock)) ∧
    (∃ (s : State), s.m.inService = true ∧ s.m.ph = CyclePh.run ∧ s.m.commonExc = true) :=
  ⟨⟨(cyc .cut cutL id), by decide +kernel⟩,
   ⟨(cyc .window { cutL with offer := some off0 } fun m => { m with winAt := some 3 }), 5, 3, by decide +kernel⟩,
   ⟨(cyc .run { cutL with rt := { cutL.rt with exc := some (1, 2) } } id), by decide +kernel⟩⟩

theorem wit_VotedUnitsRestOnTwoEqualOffers :
    (∃ (offers : List (Lane × List Nat)) (u : Nat) (x : Lane), x ∈ agreeing offers u) ∧
    (∃ (offers : List (Lane × List Nat)), (vote offers).held = false ∧ offers.length = 3) ∧
    (∃ (offers : List (Lane × List Nat)), (vote offers).held = false) :=
  ⟨⟨[(.a, off0), (.b, off0), (.c, [1, 9, 3])], 1, .b, by decide +kernel⟩,
   ⟨[(.a, off0), (.b, off0), (.c, [1, 9, 3])], by decide +kernel⟩,
   ⟨[(.a, off0), (.b, off0)], by decide +kernel⟩⟩

theorem wit_LaneFaultsTakeTheLaneOffTheGates :
    (∃ (s : State) (x : Lane), (s.m.lane x).comparator = true ∧ (s.m.lane x).released = true) ∧
    (∃ (s : State) (x : Lane), (s.m.lane x).powered = true) ∧
    (∃ (s : State) (x : Lane), (s.m.lane x).powered = true ∧ (s.m.lane x).released = true ∧ ((s.m.lane x).latch = LcState.lab ∨ (s.m.lane x).latch = LcState.manufacture)) ∧
    (∃ (s : State) (x : Lane), (s.m.lane x).latch ≠ LcState.lab ∧ (s.m.lane x).latch ≠ LcState.manufacture) :=
  ⟨⟨(st { svc with lanes := PerLane.const up' }), .b, by decide +kernel⟩,
   ⟨(st svc), .b, by decide +kernel⟩,
   ⟨(st { svc with lanes := PerLane.const { vot with latch := .lab } }), .b, by decide +kernel⟩,
   ⟨(st { svc with lanes := PerLane.const { vot with latch := .operate } }), .b, by decide +kernel⟩⟩

theorem wit_GarnetLinksFailAndRetrain :
    (∃ (s : State) (n : LinkName), (s.m.links.get n).st = 2 ∧ (s.m.links.get n).st ≠ 3 ∧ s.m.service = Service.full ∧ s.m.voters.length = 3 ∧ s.m.links.failed = 0) ∧
    (∃ (s : State) (n : LinkName), (s.m.links.get n).st ≠ 3 ∧ s.m.inService = true ∧ s.m.links.failed = 1) ∧
    (∃ (s : State) (n : LinkName) (t : Nat) (w : Nat), (s.m.links.get n).st = 3 ∧ (s.m.links.get n).retrainAt = some w ∧ w ≤ t) :=
  ⟨⟨(st { svc with links := links 2 }), .ab, by decide +kernel⟩,
   ⟨(st { svc with links := links 3 }), .ca, by decide +kernel⟩,
   ⟨(st { svc with links := ⟨⟨3, some 5⟩, ⟨2, none⟩, ⟨2, none⟩⟩ }), .ab, 5, 5, by decide +kernel⟩⟩

theorem wit_RotationStepsFollowTheTable :
    (∃ (s : State) (x : Lane), s.m.rotReady = true ∧ (s.m.lane x).voting = true ∧ s.m.ph = CyclePh.idle ∧ (s.m.books.get x).due = none ∧ (s.m.books.get x).restart = none) ∧
    (∃ (s : State) (x : Lane) (t : Nat) (d : Nat), (s.m.books.get x).due = some d ∧ (s.m.books.get x).overdue = false ∧ d + 14400000000000 ≤ t) ∧
    (∃ (s : State) (x : Lane) (r : Rotation), s.m.rotation = some r ∧ r.lane = x ∧ r.step = RotStep.split) ∧
    (∃ (s : State) (x : Lane) (r : Rotation), s.m.rotation = some r ∧ r.lane = x ∧ r.step = RotStep.solo) ∧
    (∃ (s : State) (t : Nat) (r : Rotation), s.m.rotation = some r ∧ r.since + 45000000000 ≤ t) ∧
    (∃ (s : State) (t : Nat) (r : Rotation), s.m.rotation = some r ∧ t < r.since + 45000000000 ∧ s.m.clock ≤ t) :=
  ⟨⟨(st svc), .b, by decide +kernel⟩,
   ⟨(st { svc with books := PerLane.const { RotBook.reset with due := some 4 } }), .b, 14400000000004, 4, by decide +kernel⟩,
   ⟨(rotM .split), .b, (rotAt .split), by decide +kernel⟩,
   ⟨(rotM .solo), .b, (rotAt .solo), by decide +kernel⟩,
   ⟨(rotM .tested), 45000000007, (rotAt .tested), by decide +kernel⟩,
   ⟨(rotM .split), 45000000006, (rotAt .split), by decide +kernel⟩⟩

theorem wit_StateCopyMakesTheLanesEqual :
    (∃ (s : State) (x : Lane) (y : Lane), s.m.inService = true ∧ s.m.copy = none ∧ s.m.joinable x = true ∧ s.m.rotation = none ∧ s.m.voters.head? = some y) ∧
    (∃ (s : State) (c : Copy), s.m.copy = some c ∧ c.equal = false ∧ s.m.ph = CyclePh.idle ∧ s.m.inService = true ∧ c.src ≠ c.dst) :=
  ⟨⟨(copyM none), .b, .a, by decide +kernel⟩,
   ⟨(copyM (some copy0)), copy0, by decide +kernel⟩⟩

theorem wit_DivergentLanesLeave :
    (∃ (s : State) (k : Nat) (va : Nat) (vb : Nat) (vc : Nat), s.m.inService = true ∧ s.m.present = [Lane.a, Lane.b, Lane.c] ∧ s.m.lanes.a.sdg = [(k, va)] ∧ s.m.lanes.b.sdg = [(k, vb)] ∧ s.m.lanes.c.sdg = [(k, vc)]) ∧
    (∃ (s : State), s.m.full = true) :=
  ⟨⟨(sdgM 1 2 2), 4, 1, 2, 2, by decide +kernel⟩,
   ⟨(st svc), by decide +kernel⟩⟩

theorem wit_RetainWriteLeavesTheOtherCopy :
    (∃ (s : State) (x : Lane), (s.m.lane x).powered = true ∧ (s.m.lane x).rt.hand = none) ∧
    (∃ (s : State) (x : Lane) (h : Hand), (s.m.lane x).powered = true ∧ (s.m.lane x).rt.hand = some h ∧ (∀ k ∈ h.lines, k < 7936) ∧ h.cycle < 2 ^ 64) :=
  ⟨⟨(st svc), .b, by decide +kernel⟩,
   ⟨(st { svc with lanes := PerLane.const { vot with rt := { vot.rt with hand := some hand0 }, mram := memOf [(0x100, 4, 7), (0x408000, 4, 9)] } }), .b, hand0, by decide +kernel⟩⟩

theorem wit_AgreedRecordNeedsTwoEqualLanes :
    (∃ (s : State), s.m.service = Service.starting) :=
  ⟨(startM id), by decide +kernel⟩

theorem wit_FirstVotingCycleIsWarmOrCold :
    (∃ (s : State), s.m.service = Service.starting ∧ s.m.role = roleACTIVE ∧ s.m.power.slotBad = false ∧ s.m.power.dupSid = false ∧ (2 ≤ (List.filter (fun x => BitVec.getLsbD (s.m.lane x).grn.ctrl 2) s.m.ready).length) ∧ s.m.jade.lc.cycles = true ∧ s.m.full = true ∧ s.m.jade.lc = LcState.operate ∧ (∃ x ∈ List.filter (fun x => BitVec.getLsbD (s.m.lane x).grn.ctrl 2) s.m.ready, (s.m.lane x).confirmed = false)) ∧
    (∃ (s : State), s.m.service = Service.starting ∧ s.m.role = roleACTIVE ∧ s.m.power.slotBad = false ∧ s.m.power.dupSid = false ∧ (2 ≤ (List.filter (fun x => BitVec.getLsbD (s.m.lane x).grn.ctrl 2) s.m.ready).length) ∧ s.m.jade.lc.cycles = true ∧ (s.m.full = false ∨ s.m.jade.lc ≠ LcState.operate ∨ ∀ x ∈ List.filter (fun x => BitVec.getLsbD (s.m.lane x).grn.ctrl 2) s.m.ready, (s.m.lane x).confirmed = true)) :=
  ⟨⟨(startM id), by decide +kernel, by decide +kernel, by decide +kernel, by decide +kernel, by decide +kernel, by decide +kernel, by decide +kernel, by decide +kernel, ⟨.a, by decide +kernel, unconfirmed (by decide +kernel)⟩⟩,
   ⟨(startM fun m => { m with full := false }), by decide +kernel⟩⟩

theorem wit_ChangeCommitStartsTheSearchOrIsRefused :
    (∃ (s : State) (anum : Nat) (body : Bytes) (x : Lane) (a : AssocRec), s.m.voters.head? = some x ∧ (s.m.lane x).kst.recOf anum = some a ∧ a.canCommission = true ∧ s.m.commitRefused s.m.lcLane (Bytes.le body 4 1) (Bytes.sub body 16 48) = none) ∧
    (∃ (s : State) (anum : Nat) (body : Bytes) (x : Lane) (a : AssocRec) (r : Nat), s.m.voters.head? = some x ∧ (s.m.lane x).kst.recOf anum = some a ∧ a.canCommission = true ∧ s.m.commitRefused s.m.lcLane (Bytes.le body 4 1) (Bytes.sub body 16 48) = some r) ∧
    (∃ (s : State) (body : Bytes), s.m.lcLane ≠ LcState.commission ∧ s.m.lcLane ≠ LcState.maintain ∧ Bytes.le body 4 1 = 1) ∧
    (∃ (s : State) (anum : Nat) (x : Lane) (a : AssocRec), s.m.voters.head? = some x ∧ (s.m.lane x).kst.recOf anum = some a ∧ a.canCommission = false) ∧
    (∃ (s : State) (w : ChangeWait), ((List.filterMap (fun y => (s.m.lane y).rt.change) s.m.voters).head? = some w) ∧ w.until' ≤ s.m.cycleTime) ∧
    (∃ (s : State) (w : ChangeWait), ((List.filterMap (fun y => (s.m.lane y).rt.change) s.m.voters).head? = some w) ∧ s.m.cycleTime < w.until') :=
  ⟨⟨stgM, 3, stgBody, .a, (assoc3 4), by decide +kernel, by decide +kernel, by decide +kernel, commit_of (b := blobS) (by decide +kernel) (by decide +kernel) (fun x => by cases x <;> rfl) (by decide +kernel) rfl⟩,
   ⟨(cms 4 []), 3, (by' [1,0,0,0,1]), .a, (assoc3 4), resLANES, by decide +kernel⟩,
   ⟨(st svc), (by' [1,0,0,0,1]), by decide +kernel⟩,
   ⟨(cms 3 []), 3, .a, (assoc3 3), by decide +kernel⟩,
   ⟨(chM 50), (chW 50), by decide +kernel⟩,
   ⟨(chM 51), (chW 51), by decide +kernel⟩⟩

theorem wit_ForceChangesTheTableOrAnswersWhy :
    (∃ (s : State) (anum : Nat) (x : Lane) (a : AssocRec), x ∈ s.m.running ∧ (s.m.lane x).kst.recOf anum = some a ∧ a.canCommission = false) ∧
    (∃ (s : State) (anum : Nat) (x : Lane) (a : AssocRec), x ∈ s.m.running ∧ (s.m.lane x).kst.recOf anum = some a ∧ a.canCommission = true ∧ s.m.lcLane ≠ LcState.commission ∧ s.m.lcLane ≠ LcState.maintain) ∧
    (∃ (s : State) (anum : Nat) (body : Bytes) (x : Lane) (a : AssocRec), x ∈ s.m.running ∧ (s.m.lane x).kst.recOf anum = some a ∧ a.canCommission = true ∧ (s.m.lcLane = LcState.commission ∨ s.m.lcLane = LcState.maintain) ∧ (s.m.lane x).forceUnknown body = true) ∧
    (∃ (s : State) (anum : Nat) (body : Bytes) (x : Lane) (a : AssocRec), x ∈ s.m.running ∧ (s.m.lane x).kst.recOf anum = some a ∧ a.canCommission = true ∧ (s.m.lcLane = LcState.commission ∨ s.m.lcLane = LcState.maintain) ∧ (s.m.lane x).forceUnknown body = false ∧ Bytes.le body 0 1 = 3) ∧
    (∃ (s : State) (anum : Nat) (body : Bytes) (x : Lane) (a : AssocRec), x ∈ s.m.running ∧ (s.m.lane x).kst.recOf anum = some a ∧ a.canCommission = true ∧ (s.m.lcLane = LcState.commission ∨ s.m.lcLane = LcState.maintain) ∧ (s.m.lane x).forceUnknown body = false ∧ Bytes.le body 0 1 = 2 ∧ (∃ f ∈ (s.m.lane x).rt.forces, f.kind = Bytes.le body 1 1 ∧ f.key = Bytes.le body 4 4)) ∧
    (∃ (s : State) (anum : Nat) (body : Bytes) (x : Lane) (a : AssocRec), x ∈ s.m.running ∧ (s.m.lane x).kst.recOf anum = some a ∧ a.canCommission = true ∧ (s.m.lcLane = LcState.commission ∨ s.m.lcLane = LcState.maintain) ∧ (s.m.lane x).forceUnknown body = false ∧ Bytes.le body 0 1 = 2 ∧ (∀ f ∈ (s.m.lane x).rt.forces, ¬(f.kind = Bytes.le body 1 1 ∧ f.key = Bytes.le body 4 4))) ∧
    (∃ (s : State) (anum : Nat) (body : Bytes) (x : Lane) (a : AssocRec), x ∈ s.m.running ∧ (s.m.lane x).kst.recOf anum = some a ∧ a.canCommission = true ∧ (s.m.lcLane = LcState.commission ∨ s.m.lcLane = LcState.maintain) ∧ (s.m.lane x).forceUnknown body = false ∧ Bytes.le body 0 1 = 1 ∧ Bytes.le body 1 1 = 2 ∧ Bytes.le body 8 8 < 2 ^ 32 ∧ (s.m.lane x).rt.forces.length < 256) ∧
    (∃ (s : State) (anum : Nat) (body : Bytes) (x : Lane) (a : AssocRec), x ∈ s.m.running ∧ (s.m.lane x).kst.recOf anum = some a ∧ a.canCommission = true ∧ (s.m.lcLane = LcState.commission ∨ s.m.lcLane = LcState.maintain) ∧ (s.m.lane x).forceUnknown body = false ∧ Bytes.le body 0 1 = 1 ∧ Bytes.le body 1 1 = 2 ∧ 2 ^ 32 ≤ Bytes.le body 8 8) :=
  ⟨⟨(cms 3 []), 3, .b, (assoc3 3), by decide +kernel⟩,
   ⟨(st { svc with lanes := PerLane.const { cmsL 4 [] with lc := .operate } }), 3, .b, (assoc3 4), by decide +kernel⟩,
   ⟨(cms 4 []), 3, (fBody 4 2 7 9), .b, (assoc3 4), by decide +kernel⟩,
   ⟨(cms 4 [⟨2, 7, 1, 1⟩]), 3, (fBody 3 0 0 0), .b, (assoc3 4), by decide +kernel⟩,
   ⟨(cms 4 [⟨2, 7, 1, 1⟩, ⟨2, 8, 1, 1⟩]), 3, (fBody 2 2 7 0), .b, (assoc3 4), by decide +kernel⟩,
   ⟨(cms 4 [⟨2, 8, 1, 1⟩]), 3, (fBody 2 2 7 0), .b, (assoc3 4), by decide +kernel⟩,
   ⟨(cms 4 [⟨2, 8, 1, 1⟩]), 3, (fBody 1 2 7 0xFFFFFFFF), .b, (assoc3 4), by decide +kernel⟩,
   ⟨(cms 4 [⟨2, 8, 1, 1⟩]), 3, (fBody 1 2 7 0x100000000), .b, (assoc3 4), by decide +kernel⟩⟩

theorem wit_MasterRunsTheMinorCycle :
    (∃ (s : State) (t : Nat), s.m.obx.running = true ∧ s.m.obx.t0 + 4000000 * s.m.obx.nextN ≤ s.m.obx.net (s.m.advance t).clock) ∧
    (∃ (s : State) (t : Nat), s.m.obx.running = true ∧ s.m.obx.net (s.m.advance t).clock < s.m.obx.t0 + 4000000 * s.m.obx.nextN) ∧
    (∃ (s : State) (ch : Chan) (k : Nat) (t : Nat), s.m.obx.polls ch k = true ∧ s.m.obx.pollOff ch k - 5000 ≤ (s.m.advance t).obx.off (s.m.advance t).clock) ∧
    (∃ (s : State) (ch : Chan) (k : Nat) (t : Nat) (f : Bytes), (s.m.obx.ch ch).polls.find k = some f ∧ s.m.obx.master = true ∧ s.m.obx.pollOff ch k ≤ (s.m.advance t).obx.off (s.m.advance t).clock) ∧
    (∃ (s : State) (t : Nat), s.m.obx.started = true ∧ 3880000 ≤ (s.m.advance t).obx.off (s.m.advance t).clock) ∧
    (∃ (s : State), s.m.obx.master = true ∧ s.m.obx.started = true) ∧
    (∃ (s : State), s.m.obx.master = true ∧ s.m.obx.started = true) :=
  ⟨⟨(ob oRun), 32000000, by decide +kernel⟩,
   ⟨(ob oRun), 31999999, by decide +kernel⟩,
   ⟨(ob oRun), .a, 2, 28100000, by decide +kernel⟩,
   ⟨(ob { oRun with chA := { oRun.chA with polls := [(2, [1])] } }), .a, 2, 28100000, [1], by decide +kernel⟩,
   ⟨(ob { oRun with chA := { oRun.chA with expected := [2, 511], replied := [2] } }), 31880000, by decide +kernel⟩,
   ⟨(ob { oRun with chA := { oRun.chA with enables := [2] } }), by decide +kernel⟩,
   ⟨(ob oRun), by decide +kernel⟩⟩

theorem wit_FirstGoodReplyReachesTheLanes :
    (∃ (s : State) (f : Frame), (f.good 16 || f.good 17) = true ∧ s.m.obx.replyOk f.body = true ∧ faddr f.body ∉ s.m.obx.passed) ∧
    (∃ (s : State) (f : Frame), (f.good 16 || f.good 17) = true ∧ s.m.obx.replyOk f.body = true ∧ faddr f.body ∈ s.m.obx.passed) ∧
    (∃ (f : Frame), (f.good 16 || f.good 17) = false) ∧
    (∃ (s : State) (f : Frame), (f.good 16 || f.good 17) = true ∧ s.m.obx.replyOk f.body = false) ∧
    (∃ (s : State) (f : Frame), (f.good 16 || f.good 17) = true ∧ s.m.obx.replyOk f.body = true ∧ s.m.obx.master = true) :=
  ⟨⟨(st { svc with obx := oRun, lanes := PerLane.const { vot with obx := { vot.obx with ctrl := 1 } } }), (frm (rply 2 7)), by decide +kernel⟩,
   ⟨(ob { oRun with passed := [2] }), (frm (rply 2 7)), by decide +kernel⟩,
   ⟨⟨rply 2 7, 0⟩, by decide +kernel⟩,
   ⟨(ob oRun), (frm (rply 2 8)), by decide +kernel⟩,
   ⟨(ob oRun), (frm (rply 2 7)), by decide +kernel⟩⟩

theorem wit_ChannelsAndPortsAreJudged :
    (∃ (s : State) (ch : Chan) (f : Frame) (sent : Nat), f.good 65 = true ∧ linkOk (Config.farLinkKey (faddr f.body)) f.body = true ∧ (s.m.obx.ch ch).echoes.find (echoWin f.body) = some (0, sent) ∧ faddr f.body = starAddr ch) ∧
    (∃ (s : State) (ch : Chan) (f : Frame) (k : Nat) (sent : Nat), f.good 65 = true ∧ linkOk (Config.farLinkKey (faddr f.body)) f.body = true ∧ (s.m.obx.ch ch).echoes.find (echoWin f.body) = some (k, sent) ∧ k ≠ 0 ∧ faddr f.body = k) ∧
    (∃ (ch : Chan) (f : Frame), f.good 81 = true ∧ linkOk (Config.farLinkKey (faddr f.body)) f.body = true ∧ faddr f.body = starAddr ch) ∧
    (∃ (s : State) (ch : Chan) (t : Nat) (k : Nat) (w : Nat), ((s.m.obx.ch ch).node k).portOff = some w ∧ ((s.m.obx.ch ch).node k).ordered = false ∧ s.m.obx.master = true ∧ w + 10000000000 ≤ (s.m.advance t).clock ∧ ((List.filter (fun x => decide ((s.m.advance t).clock < x + 3600000000000)) ((s.m.obx.ch ch).node k).reenabled).length < 3)) ∧
    (∃ (s : State) (ch : Chan) (t : Nat) (k : Nat), (3 ≤ (List.filter (fun x => decide ((s.m.advance t).clock < x + 3600000000000)) ((s.m.obx.ch ch).node k).reenabled).length)) ∧
    (∃ (s : State) (ch : Chan) (light : Bool), s.m.obx.master = true ∧ (s.m.obx.ch ch).state = 2 ∧ ((s.m.obx.ch ch).srpt = false ∧ (s.m.obx.ch ch).echo0 = false ∨ light = true)) ∧
    (∃ (s : State) (ch : Chan), s.m.obx.master = true ∧ (s.m.obx.ch ch).state = 3 ∧ (s.m.obx.ch ch).srpt = true ∧ 9 * (s.m.obx.ch ch).expected.length ≤ 10 * (s.m.obx.ch ch).replied.length) :=
  ⟨⟨(ob (oEcho [(0, (0, 28000000))])), .a, (echor 0xF100 0), 28000000, good_of (by decide +kernel), link_of (by decide +kernel), by decide +kernel, by decide +kernel⟩,
   ⟨(ob (oEcho [(3, (2, 28000000))])), .a, (echor 2 3), 2, 28000000, good_of (by decide +kernel), link_of (by decide +kernel), by decide +kernel, by decide +kernel, by decide +kernel⟩,
   ⟨.a, (srptF .a), good_of (by decide +kernel), link_of (by decide +kernel), by decide +kernel⟩,
   ⟨(ob (oOff [1, 2])), .a, 10000000003, 2, 3, by decide +kernel⟩,
   ⟨(ob (oOff [1, 2, 3])), .a, 10000000003, 2, by decide +kernel⟩,
   ⟨(ob oRun), .a, false, by decide +kernel⟩,
   ⟨(ob { oRun with chA := { oRun.chA with state := 3, srpt := true, expected := [1,2,3,4,5,6,7,8,9,10], replied := [1,2,3,4,5,6,7,8,9] } }), .a, by decide +kernel⟩⟩

theorem wit_BanksVersionsAndCyclePoints :
    (∃ (s : State) (x : Lane), (s.m.lane x).powered = true) ∧
    (∃ (s : State) (t : Nat) (b : Nat), s.m.obx.running = true ∧ s.m.obx.t0 + 4000000 * s.m.obx.nextN ≤ s.m.obx.net (s.m.advance t).clock ∧ s.m.obx.swAt = some b ∧ b ≤ s.m.obx.nextN) ∧
    (∃ (s : State) (x : Lane) (k : Nat) (w : Nat), x ∈ s.m.running ∧ (s.m.lane x).rt.verNext.find k = some w ∧ (s.m.lane x).rt.nevtFrom < s.m.obx.mcn - s.m.obx.mcn % s.m.obx.majL) ∧
    (∃ (s : State) (x : Lane), x ∈ s.m.running ∧ (s.m.lane x).rt.nevtFrom < s.m.obx.mcn - s.m.obx.mcn % s.m.obx.majL) ∧
    (∃ (s : State) (x : Lane) (t : Nat) (k : Nat), s.m.obx.started = true ∧ 0 ≤ s.m.obx.off (s.m.advance t).clock ∧ k < 8 ∧ (s.m.lane x).powered = true ∧ (s.m.lane x).obx.fires k s.m.obx.mcn s.m.obx.majL ((s.m.obx.off (s.m.advance t).clock).toNat / 1000) = true) :=
  ⟨⟨(ob oRun), .b, by decide +kernel⟩,
   ⟨(ob { oRun with swAt := some 8 }), 32000000, 8, by decide +kernel⟩,
   ⟨svcM, .b, 2, 3, by decide +kernel⟩,
   ⟨svcM, .b, by decide +kernel⟩,
   ⟨(st { svc with obx := oRun, lanes := PerLane.const { vot with obx := { vot.obx with ctrl := 2, cps := [0x80000002], cpcnt := 0xFFFFFFFF } } }), .b, 28002652, 0, by decide +kernel⟩⟩

theorem wit_ClocksFollowTheFaultTolerantAverage :
    (∃ (s : State) (w : Who) (t : Nat) (n : Nat) (off : Int) (j : Nat), (s.m.advance t).whoAt w = some (n, off) ∧ s.m.obx.bk.syncIdx (s.m.whoAddr w) = some j ∧ (∀ (c : Chan), ↑(syncOff j) - s.m.whoDelay c w ≤ off)) ∧
    (∃ (s : State) (w : Who) (t : Nat) (n : Nat) (off : Int) (f : Frame), (s.m.advance t).whoAt w = some (n, off) ∧ f.good 32 = true ∧ linkOk (Config.farLinkKey (faddr f.body)) f.body = true ∧ Bytes.le f.body 8 1 ≤ 7 ∧ s.m.obx.bk.syncSrc (Bytes.le f.body 8 1) = faddr f.body ∧ faddr f.body ≠ 0 ∧ faddr f.body ≠ s.m.whoAddr w) ∧
    (∃ (s : State) (w : Who) (t : Nat) (n : Nat) (off : Int), (s.m.advance t).whoAt w = some (n, off) ∧ 3940000 ≤ off) :=
  ⟨⟨(ob oRun), .mod, 30702000, 7, 2702000, 0, by decide +kernel, by decide +kernel, by intro c; cases c <;> decide +kernel⟩,
   ⟨(ob oRun), .mod, 30732000, 7, 2732000, (syn 2 511), by decide +kernel, good_of (by decide +kernel), link_of (by decide +kernel), by decide +kernel, by decide +kernel, by decide +kernel, by decide +kernel⟩,
   ⟨(ob (oDs [])), .mod, 31940000, 7, 3940000, by decide +kernel⟩⟩

theorem wit_ColdStartEndsWithOneMaster :
    (∃ (s : State) (t : Nat) (u : Nat), s.m.obx.listenSince = some u ∧ u + 40000000 ≤ (s.m.advance t).clock ∧ s.m.service = Service.starting ∧ s.m.sid < 32) ∧
    (∃ (s : State) (t : Nat) (u : Nat), s.m.obx.listenSince = some u ∧ (s.m.advance t).clock < u + 40000000) ∧
    (∃ (s : State) (t : Nat) (c : Cold), s.m.obx.cold = some c ∧ (c.sent = 0 ∨ c.lastAt + 1000 * (1000 + 50 * (s.m.sid % 16)) ≤ (s.m.advance t).clock)) ∧
    (∃ (s : State) (f : Frame) (c : Cold), s.m.obx.cold = some c ∧ f.good 50 = true ∧ linkOk (Config.farLinkKey (faddr f.body)) f.body = true ∧ (claimOf (cfClaim f.body)).sid ≠ s.m.sid ∧ s.m.obx.claim < cfClaim f.body) ∧
    (∃ (s : State) (f : Frame) (c : Cold), s.m.obx.cold = some c ∧ f.good 50 = true ∧ linkOk (Config.farLinkKey (faddr f.body)) f.body = true ∧ (claimOf (cfClaim f.body)).sid ≠ s.m.sid ∧ cfClaim f.body ≤ s.m.obx.claim) ∧
    (∃ (s : State) (t : Nat) (c : Cold), s.m.obx.cold = some c ∧ 16 ≤ c.sent ∧ c.since + 20000000 ≤ (s.m.advance t).clock) ∧
    (∃ (s : State) (t : Nat) (c : Cold), s.m.obx.cold = some c ∧ (c.sent < 16 ∨ (s.m.advance t).clock < c.since + 20000000)) ∧
    (∃ (s : State) (f : Frame), f.good 1 = true ∧ (claimOf (cycClaim f.body)).sid ≠ s.m.sid ∧ s.m.role ≠ roleACTIVE ∧ (s.m.obx.listenSince.isSome = true ∨ s.m.obx.cold.isSome = true)) :=
  ⟨⟨(st { m1 with obx := { Obx.reset with listenSince := some 5 } }), 40000005, 5, by decide +kernel⟩,
   ⟨(st { m1 with obx := { Obx.reset with listenSince := some 5 } }), 40000004, 5, by decide +kernel⟩,
   ⟨(st { m1 with obx := oCold ⟨5, 0, 5⟩ }), 5, ⟨5, 0, 5⟩, by decide +kernel⟩,
   ⟨(st { m1 with obx := oCold cold0 }), (coldF 0x10101), cold0, by decide +kernel, good_of (by decide +kernel), link_of (by decide +kernel), by decide +kernel, by decide +kernel⟩,
   ⟨(st { m1 with obx := oCold cold0 }), (coldF 0x00101), cold0, by decide +kernel, good_of (by decide +kernel), link_of (by decide +kernel), by decide +kernel, by decide +kernel⟩,
   ⟨(st { m1 with obx := oCold cold0 }), 20000005, cold0, by decide +kernel⟩,
   ⟨(st { m1 with obx := oCold cold0 }), 20000004, cold0, by decide +kernel⟩,
   ⟨(st { m1 with obx := { oRun with started := false, master := false, listenSince := some 5 } }), (cycF 1), by decide +kernel⟩⟩

theorem wit_NodeObeysOnlyPollsThatPass :
    (∃ (s : State) (k : Nat) (f : Frame) (t : Nat) (mc : Nat) (off : Nat), (s.m.node k).now (s.m.advance t).clock = some (mc, off) ∧ (s.m.node k).check1 s.m.obx.bk k 2 f = true) ∧
    (∃ (s : State) (k : Nat) (f : Frame) (t : Nat) (mc : Nat) (off : Nat), (s.m.node k).now (s.m.advance t).clock = some (mc, off) ∧ (s.m.node k).check1 s.m.obx.bk k 2 f = false ∧ (s.m.node k).check1 s.m.obx.bk k 3 f = true) ∧
    (∃ (s : State) (k : Nat) (f : Frame) (t : Nat) (mc : Nat) (off : Nat), (s.m.node k).now (s.m.advance t).clock = some (mc, off) ∧ (s.m.node k).check1 s.m.obx.bk k 4 f = true ∧ (s.m.node k).check23 mc f.body = true) ∧
    (∃ (s : State) (k : Nat) (f : Frame) (t : Nat) (mc : Nat) (off : Nat), (s.m.node k).now (s.m.advance t).clock = some (mc, off) ∧ (s.m.node k).check1 s.m.obx.bk k 4 f = true ∧ (s.m.node k).check23 mc f.body = false) :=
  ⟨⟨(nds nd0), 2, (pollF 2 7), 28100000, 7, 100000, by decide +kernel⟩,
   ⟨(nds nd0), 2, (pollF 3 7), 28100000, 7, 100000, by decide +kernel⟩,
   ⟨(nds nd0), 2, (pollF 4 7), 28100000, 7, 100000, by decide +kernel⟩,
   ⟨(nds nd0), 2, (pollF 4 8), 28100000, 7, 100000, by decide +kernel⟩⟩

theorem wit_NodeTimersAndFramesTakeEffect :
    (∃ (s : State) (k : Nat) (t : Nat) (p : Nat × Nat), (s.m.node k).now (s.m.advance t).clock = some p ∧ s.m.obx.bk.cls k ≠ 0 ∧ s.m.obx.bk.fto k ≤ (s.m.node k).count s.m.obx.bk k (s.m.advance t).clock) ∧
    (∃ (s : State) (k : Nat) (t : Nat), (s.m.node k).count s.m.obx.bk k (s.m.advance t).clock < s.m.obx.bk.fto k) ∧
    (∃ (s : State) (k : Nat) (f : Frame), f.good 1 = true ∧ (s.m.node k).base = none) ∧
    (∃ (s : State) (k : Nat) (f : Frame), f.good 1 = true ∧ (cycFlags f.body).testBit 1 = false ∧ (s.m.node k).base.isSome = true) ∧
    (∃ (s : State) (k : Nat) (t : Nat), (s.m.node k).base.isSome = true ∧ (s.m.node k).cycAt + 1000000000 ≤ (s.m.advance t).clock) ∧
    (∃ (s : State) (k : Nat) (t : Nat), (s.m.advance t).clock < (s.m.node k).cycAt + 1000000000) ∧
    (∃ (s : State) (k : Nat) (n : Nat) (target : Nat) (cmd : Nat), n < (s.m.node k).chans.length ∧ ((s.m.node k).chans.getD n NodeChan.reset).pend = some (target, cmd)) ∧
    (∃ (s : State) (k : Nat) (f : Frame), f.good 64 = true ∧ faddr f.body = k ∧ fromModule s.m.obx.bk f.body = true ∧ (s.m.node k).base.isSome = true) ∧
    (∃ (s : State) (k : Nat) (f : Frame), f.good 96 = true ∧ faddr f.body = k ∧ fromModule s.m.obx.bk f.body = true ∧ (s.m.node k).base.isSome = true) ∧
    (∃ (s : State) (k : Nat), (s.m.node k).sense = false) ∧
    (∃ (s : State) (k : Nat), (s.m.node k).sense = true) :=
  ⟨⟨(nds nd0), 2, 40100000, (10, 100000), by decide +kernel⟩,
   ⟨(nds { nd0 with freshAt := 7 }), 2, 28100000, by decide +kernel⟩,
   ⟨(nds Node.reset), 2, (cycF 0), by decide +kernel⟩,
   ⟨(nds nd0), 2, (cycF 0), by decide +kernel⟩,
   ⟨(nds nd0), 2, 1028000000, by decide +kernel⟩,
   ⟨(nds nd0), 2, 1027999999, by decide +kernel⟩,
   ⟨(nds (ndc [⟨some 16, 0x70, some (0, 16), false⟩])), 2, 0, 0, 16, by decide +kernel⟩,
   ⟨(nds nd0), 2, (modF 0x40 2 16), good_of (by decide +kernel), by decide +kernel, module_of (j := 0) (by decide) (by decide +kernel) (link_of (by decide +kernel)), by decide +kernel⟩,
   ⟨(nds nd0), 2, (modF 0x60 2 16), good_of (by decide +kernel), by decide +kernel, module_of (j := 0) (by decide) (by decide +kernel) (link_of (by decide +kernel)), by decide +kernel⟩,
   ⟨(nds nd0), 2, by decide +kernel⟩,
   ⟨(nds { nd0 with sense := true }), 2, by decide +kernel⟩⟩

theorem wit_StarKeepsTheWindows :
    (∃ (s : State) (ch : Chan) (k : Nat), (((s.m.star ch).port (SPort.nodePort k)).disabled = true ∨ (s.m.star ch).base = none)) ∧
    (∃ (s : State) (ch : Chan) (k : Nat) (t : Nat) (off : Nat), ((s.m.star ch).port (SPort.nodePort k)).disabled = false ∧ (s.m.star ch).now (s.m.advance t).clock = some ((s.m.star ch).mcn, off) ∧ (∀ w ∈ (s.m.star ch).nodeWindows s.m.obx.bk k, off < w.1 ∨ w.2 ≤ off)) ∧
    (∃ (s : State) (ch : Chan) (k : Nat) (t : Nat) (f : Frame) (off : Nat), ((s.m.star ch).port (SPort.nodePort k)).disabled = false ∧ (s.m.star ch).now (s.m.advance t).clock = some ((s.m.star ch).mcn, off) ∧ k ∈ (s.m.star ch).polled ∧ s.m.obx.bk.open' k ≤ off ∧ off + (List.length f.body + 12) * 8 ≤ s.m.obx.bk.open' k + 2500 ∧ f.ok = true ∧ flenOk f.body = true) ∧
    (∃ (s : State) (ch : Chan) (t : Nat) (mc : Nat) (off : Nat) (claim : Nat) (q : Nat) (last : Nat), (s.m.star ch).now (s.m.advance t).clock = some (mc, off) ∧ (s.m.star ch).stby = some (claim, q) ∧ (s.m.star ch).lastCyc = some last ∧ 2 ≤ mc - last ∧ 2800000 + 20000 * ch.idx ≤ off) ∧
    (∃ (s : State) (ch : Chan) (t : Nat) (mc : Nat) (off : Nat) (claim : Nat) (q : Nat) (last : Nat), (s.m.star ch).now (s.m.advance t).clock = some (mc, off) ∧ (s.m.star ch).stby = some (claim, q) ∧ (s.m.star ch).lastCyc = some last ∧ mc - last < 2) ∧
    (∃ (s : State) (ch : Chan) (f : Frame) (t1 : Nat) (t2 : Nat) (g : Frame), (s.m.star ch).first = false ∧ f.ok = true ∧ g.ok = true ∧ flenOk f.body = true ∧ flenOk g.body = true ∧ (ftype f.body = 1 ∨ ftype f.body = 50) ∧ (ftype g.body = 1 ∨ ftype g.body = 50) ∧ t1 < t2 ∧ t2 < t1 + (List.length f.body + 12) * 8) ∧
    (∃ (s : State) (ch : Chan) (f : Frame) (t1 : Nat) (t2 : Nat) (g : Frame), (s.m.star ch).first = false ∧ f.ok = true ∧ g.ok = true ∧ flenOk f.body = true ∧ flenOk g.body = true ∧ (ftype f.body = 1 ∨ ftype f.body = 50) ∧ (ftype g.body = 1 ∨ ftype g.body = 50) ∧ t1 = t2 ∧ coldClaim f.body < coldClaim g.body) ∧
    (∃ (s : State) (ch : Chan) (f : Frame), f.good 80 = true ∧ linkOk (Config.farLinkKey (faddr f.body)) f.body = true ∧ (s.m.star ch).first = true) ∧
    (∃ (s : State) (ch : Chan) (f : Frame), f.good 64 = true ∧ linkOk (Config.farLinkKey (faddr f.body)) f.body = true ∧ (s.m.star ch).first = true) :=
  ⟨⟨(strs Star.reset), .a, 2, by decide +kernel⟩,
   ⟨(strs { star0 with polled := [2] }), .a, 2, 28102500, 102500, by decide +kernel⟩,
   ⟨(strs { star0 with polled := [2] }), .a, 2, 28102148, (frm (rply 2 7)), 102148, by decide +kernel⟩,
   ⟨(strs { star0 with stby := some (0x10101, 1) }), .b, 30820000, 7, 2820000, 0x10101, 1, 5, by decide +kernel⟩,
   ⟨(strs { star0 with stby := some (0x10101, 1), lastCyc := some 6 }), .b, 30820000, 7, 2820000, 0x10101, 1, 6, by decide +kernel⟩,
   ⟨(strs Star.reset), .a, (coldF 0x10101), 100, 451, (coldF 0x10200), by decide +kernel, frm_ok, frm_ok, by decide +kernel, by decide +kernel, by decide +kernel, by decide +kernel, by decide +kernel, by decide +kernel⟩,
   ⟨(strs Star.reset), .a, (coldF 0x10101), 100, 100, (coldF 0x10200), by decide +kernel, frm_ok, frm_ok, by decide +kernel, by decide +kernel, by decide +kernel, by decide +kernel, by decide +kernel, by decide +kernel⟩,
   ⟨(strs { star0 with ports := [(3, ⟨3, true⟩), (512, ⟨3, true⟩)], reports := [2, 511] }), .a, smgtF, good_of (by decide +kernel), link_of (by decide +kernel), by decide +kernel⟩,
   ⟨(strs star0), .b, (modF 0x40 0xF000 16), good_of (by decide +kernel), link_of (by decide +kernel), by decide +kernel⟩⟩

theorem wit_TimeFollowsItsSources :
    (∃ (s : State) (x : Lane), (s.m.lane x).powered = true ∧ s.m.obx.running = true) ∧
    (∃ (s : State), s.m.power.good = true) ∧
    (∃ (s : State), s.m.jade.mode = JadeMode.running) :=
  ⟨⟨(ob { oRun with sync := { Sync.reset with total := -500000 } }), .b, by decide +kernel⟩,
   ⟨(st svc), by decide +kernel⟩,
   ⟨(st (mb .operate)), by decide +kernel⟩⟩

theorem wit_PhaseNeverDecreasesAtACrossing :
    (∃ (s : State) (x : Lane), (s.m.lane x).powered = true ∧ (s.m.lane x).opal.en = true) ∧
    (∃ (s : State) (x : Lane), (s.m.lane x).powered = true ∧ (s.m.lane x).opal.en = false) :=
  ⟨⟨(opl oplEn), .b, by decide +kernel⟩,
   ⟨(opl Opal.reset), .b, by decide +kernel⟩⟩

theorem wit_OpalRegistersActTogether :
    (∃ (s : State) (x : Lane), (s.m.lane x).powered = true) ∧
    (∃ (s : State) (x : Lane) (t : Nat), (s.m.lane x).powered = true ∧ (s.m.lane x).opal.shArmed = true ∧ ((s.m.lane x).opal.cycleAt (s.m.advance t).clock + 65536 - (s.m.lane x).opal.shTgt) % 65536 < 32768) ∧
    (∃ (s : State) (x : Lane) (t : Nat), (s.m.lane x).powered = true ∧ 32768 ≤ ((s.m.lane x).opal.cycleAt (s.m.advance t).clock + 65536 - (s.m.lane x).opal.shTgt) % 65536) ∧
    (∃ (s : State) (x : Lane), (s.m.lane x).powered = true) :=
  ⟨⟨(opl oplEn), .b, by decide +kernel⟩,
   ⟨(opl { oplEn with shArmed := true, shTgt := 7 }), .b, 20000000, by decide +kernel⟩,
   ⟨(opl { oplEn with shArmed := true, shTgt := 9 }), .b, 20000000, by decide +kernel⟩,
   ⟨(opl { oplEn with errcap := 7 }), .b, by decide +kernel⟩⟩

theorem wit_InputChannelsFollowTheirStates :
    (∃ (s : State), s.m.full = false) ∧
    (∃ (s : State) (t : Nat) (c : Nat), s.m.full = true ∧ s.m.lio.active = true ∧ s.m.lio.ctlflt = false ∧ c < s.m.lio.ins.length ∧ c < 96 ∧ s.m.lio.inUse c ≠ 0 ∧ (s.m.lio.inCh c).state ≠ 7 ∧ (s.m.lio.darkSlot (c / 12) (s.m.advance t).clock).isSome = true) ∧
    (∃ (s : State) (t : Nat) (c : Nat), s.m.full = true ∧ s.m.lio.active = true ∧ s.m.lio.ctlflt = false ∧ c < s.m.lio.ins.length ∧ c < 96 ∧ s.m.lio.inUse c ≠ 0 ∧ (s.m.lio.inCh c).state ≠ 7 ∧ s.m.lio.darkSlot (c / 12) (s.m.advance t).clock = none) ∧
    (∃ (s : State) (t : Nat) (c : Nat) (ua : List Nat), s.m.full = true ∧ s.m.lio.active = true ∧ s.m.lio.ctlflt = false ∧ c < s.m.lio.ins.length ∧ c < 96 ∧ s.m.lio.inUse c ≠ 0 ∧ (s.m.lio.inCh c).state ≠ 7 ∧ s.m.lio.darkSlot (c / 12) (s.m.advance t).clock = none ∧ (s.m.lio.inCh c).prev1Dark = true ∧ (s.m.lio.inCh c).prev1 < 1000 ∧ 1000 < (s.m.lio.inCh c).prev2 ∧ 1000 < ua.getD c 0 ∧ (s.m.lio.inCh c).state ≤ 4) ∧
    (∃ (s : State) (c : Nat), s.m.full = true ∧ s.m.lio.active = true ∧ s.m.lio.ctlflt = false ∧ c < s.m.lio.ins.length ∧ c < 96 ∧ s.m.lio.inUse c ≠ 0 ∧ (s.m.lio.inCh c).state ≠ 7 ∧ (s.m.lio.inCh c).state = stON ∧ (s.m.lio.inCh c).fresh = false ∧ (s.m.lio.inCh c).band = bandOFF) ∧
    (∃ (s : State) (c : Nat), s.m.full = true ∧ s.m.lio.active = true ∧ s.m.lio.ctlflt = false ∧ c < s.m.lio.ins.length ∧ c < 96 ∧ s.m.lio.inUse c ≠ 0 ∧ (s.m.lio.inCh c).state ≠ 7 ∧ (s.m.lio.inCh c).state = stOFF ∧ (s.m.lio.inCh c).fresh = false ∧ (s.m.lio.inCh c).band = bandON) ∧
    (∃ (s : State) (t : Nat) (c : Nat), s.m.full = true ∧ s.m.lio.active = true ∧ s.m.lio.ctlflt = false ∧ c < s.m.lio.ins.length ∧ c < 96 ∧ s.m.lio.inUse c ≠ 0 ∧ (s.m.lio.inCh c).state ≠ 7 ∧ ((s.m.lio.inCh c).state = stON ∨ (s.m.lio.inCh c).state = stOFF) ∧ (s.m.lio.inCh c).fresh = false ∧ (s.m.lio.inCh c).band = bandBREAK ∧ 5 ≤ ((s.m.advance t).clock - (s.m.lio.inCh c).since) / 1000000) ∧
    (∃ (s : State) (c : Nat), s.m.full = true ∧ s.m.lio.active = true ∧ s.m.lio.ctlflt = false ∧ c < s.m.lio.ins.length ∧ c < 96 ∧ s.m.lio.inUse c ≠ 0 ∧ (s.m.lio.inCh c).state ≠ 7 ∧ ((s.m.lio.inCh c).state = stBREAK ∨ (s.m.lio.inCh c).state = stINVALID) ∧ (s.m.lio.inCh c).fresh = false ∧ (s.m.lio.inCh c).band = bandON) ∧
    (∃ (s : State) (c : Nat) (g : Nat) (ua : List Nat), s.m.full = true ∧ s.m.lio.active = true ∧ s.m.lio.ctlflt = false ∧ c < s.m.lio.ins.length ∧ c < 96 ∧ s.m.lio.inUse c ≠ 0 ∧ (s.m.lio.inCh c).state ≠ 7 ∧ c / 12 = g ∧ 1000 ≤ ua.getD (c % 12) 0 ∧ (s.m.lio.inCh c).state ≤ 4) ∧
    (∃ (s : State) (c : Nat) (g : Nat) (ua : List Nat), s.m.full = true ∧ s.m.lio.active = true ∧ s.m.lio.ctlflt = false ∧ c < s.m.lio.ins.length ∧ c < 96 ∧ s.m.lio.inUse c ≠ 0 ∧ (s.m.lio.inCh c).state ≠ 7 ∧ c / 12 = g ∧ g < s.m.lio.tp.length ∧ ((s.m.lio.tpSup g).state = 1 ∨ (s.m.lio.tpSup g).state = 2) ∧ (s.m.lio.tpSup g).level < 8 ∧ ua.getD (c % 12) bandBREAK ≠ injectBand (s.m.lio.tpSup g).level) ∧
    (∃ (s : State) (c : Nat) (g : Nat), s.m.full = true ∧ s.m.lio.active = true ∧ s.m.lio.ctlflt = false ∧ c < s.m.lio.ins.length ∧ c < 96 ∧ s.m.lio.inUse c ≠ 0 ∧ (s.m.lio.inCh c).state ≠ 7 ∧ c / 12 = g ∧ g < s.m.lio.tp.length ∧ (s.m.lio.inCh c).state ≤ 2) ∧
    (∃ (s : State) (c : Nat) (g : Nat), s.m.full = true ∧ s.m.lio.active = true ∧ s.m.lio.ctlflt = false ∧ c < s.m.lio.ins.length ∧ c < 96 ∧ s.m.lio.inUse c ≠ 0 ∧ (s.m.lio.inCh c).state ≠ 7 ∧ g < s.m.lio.tp.length ∧ (s.m.lio.tpSup g).state = 3) ∧
    (∃ (s : State) (t : Nat) (c : Nat) (since : Nat), s.m.full = true ∧ s.m.lio.active = true ∧ s.m.lio.ctlflt = false ∧ c < s.m.lio.ins.length ∧ c < 96 ∧ s.m.lio.inUse c ≠ 0 ∧ (s.m.lio.inCh c).state ≠ 7 ∧ s.m.lio.pairOut.find c = some since ∧ s.m.lio.inF c 6 2 * 1000000 < (s.m.advance t).clock - since ∧ (s.m.lio.inCh c).state ≤ 5 ∧ (∀ q ∈ s.m.lio.pairs, q.1 = c ∨ q.2 = c → (s.m.lio.inCh q.1).band ≠ bandOFF)) ∧
    (∃ (s : State) (t : Nat) (c : Nat) (since : Nat), s.m.full = true ∧ s.m.lio.active = true ∧ s.m.lio.ctlflt = false ∧ c < s.m.lio.ins.length ∧ c < 96 ∧ s.m.lio.inUse c ≠ 0 ∧ (s.m.lio.inCh c).state ≠ 7 ∧ s.m.lio.pairOut.find c = some since ∧ (s.m.advance t).clock - since ≤ s.m.lio.inF c 6 2 * 1000000) :=
  ⟨⟨(st { svc with full := false }), by decide +kernel⟩,
   ⟨(liom (lio0 (in1 0 2))), 6000000, 13, by decide +kernel⟩,
   ⟨(liom (lio0 { in1 0 2 with cand := 3, candRun := 2 })), 5, 13, by decide +kernel⟩,
   ⟨(liom (lio0 { in1 4 2 with prev1Dark := true, prev1 := 999, prev2 := 1001 })), 5, 13, (ua13 1001), by decide +kernel⟩,
   ⟨(liom (lio0 (in1 1 2))), 13, by decide +kernel⟩,
   ⟨(liom (lio0 (in1 0 3))), 13, by decide +kernel⟩,
   ⟨(liom (lio0 (in1 0 0))), 5000000, 13, by decide +kernel⟩,
   ⟨(liom (lio0 (in1 3 3))), 13, by decide +kernel⟩,
   ⟨(liom (lio0 (in1 4 3))), 13, 1, [0, 1000], by decide +kernel⟩,
   ⟨(liom (lio0 { in1 1 3 with wrongLv := 8 })), 13, 1, [0, 3], by decide +kernel⟩,
   ⟨(liom (lio0 (in1 2 3))), 13, 1, by decide +kernel⟩,
   ⟨(liom { lio0 (in1 2 3) with tp := Lio.reset.tp.set 1 ⟨3, true, 0⟩ }), 13, 1, by decide +kernel⟩,
   ⟨(liom { lio0 (in1 1 3) with pairOut := [(13, 0)] }), 500000001, 13, 0, by decide +kernel⟩,
   ⟨(liom { lio0 (in1 1 3) with pairOut := [(13, 0)] }), 500000000, 13, 0, by decide +kernel⟩⟩

theorem wit_CountersAndSafetyFunctions :
    (∃ (s : State) (y : Lane) (t : Nat) (ch : Nat), s.m.full = true ∧ s.m.lio.active = true ∧ s.m.lio.ctlflt = false ∧ ch < 8 ∧ ch < (s.m.lio.banks.get y).counts.length ∧ s.m.lio.inUse ch = 2 ∧ s.m.lio.inPulse 0 (s.m.advance t).clock = true) ∧
    (∃ (s : State) (y : Lane) (t : Nat) (ch : Nat), s.m.full = true ∧ s.m.lio.active = true ∧ s.m.lio.ctlflt = false ∧ ch < 8 ∧ ch < (s.m.lio.banks.get y).counts.length ∧ s.m.lio.inUse ch = 2 ∧ s.m.lio.inPulse 0 (s.m.advance t).clock = false) ∧
    (∃ (s : State) (y : Lane) (t : Nat) (ch : Nat) (f : Nat) (o : Nat), s.m.full = true ∧ s.m.lio.active = true ∧ s.m.lio.ctlflt = false ∧ ch < 8 ∧ ch < (s.m.lio.banks.get y).counts.length ∧ s.m.lio.inUse ch = 2 ∧ s.m.lio.inPulse 0 (s.m.advance t).clock = false ∧ f < (s.m.lio.banks.get y).fns.length ∧ s.m.lio.fnKind f = 1 ∧ s.m.lio.fnF f 2 1 = ch ∧ s.m.lio.fnF f 1 1 ≠ ch ∧ ((s.m.lio.banks.get y).fns.getD f SfState.reset).openA = some o ∧ (s.m.advance t).clock / 1000 - o ≤ s.m.lio.fnF f 6 2 * 1000 ∧ 0 < (s.m.advance t).clock / 1000 - o ∧ s.m.lio.darkBetween (o * 1000) (s.m.advance t).clock = false) ∧
    (∃ (s : State) (y : Lane) (t : Nat) (f : Nat) (o : Nat), s.m.full = true ∧ f < (s.m.lio.banks.get y).fns.length ∧ ((s.m.lio.banks.get y).fns.getD f SfState.reset).openA = some o ∧ s.m.lio.fnF f 6 2 * 1000 < (s.m.advance t).clock / 1000 - o) ∧
    (∃ (s : State) (y : Lane) (t : Nat) (f : Nat), s.m.full = true ∧ f < (s.m.lio.banks.get y).fns.length ∧ ((s.m.lio.banks.get y).fns.getD f SfState.reset).recent = true ∧ s.m.lio.fnF f 16 4 * 1000000 < (s.m.advance t).clock - ((s.m.lio.banks.get y).fns.getD f SfState.reset).lastPair) ∧
    (∃ (s : State) (y : Lane) (t : Nat) (f : Nat), s.m.full = true ∧ f < (s.m.lio.banks.get y).fns.length ∧ ((s.m.lio.banks.get y).fns.getD f SfState.reset).recent = true ∧ (s.m.advance t).clock - ((s.m.lio.banks.get y).fns.getD f SfState.reset).lastPair ≤ s.m.lio.fnF f 16 4 * 1000000) ∧
    (∃ (s : State) (y : Lane) (f : Nat), s.m.full = true ∧ f < (s.m.lio.banks.get y).fns.length ∧ s.m.lio.fnKind f = 2 ∧ f < 16 ∧ s.m.lio.startMaj f = true ∧ s.m.lio.startSeen.testBit f = false) ∧
    (∃ (s : State) (y : Lane) (t : Nat) (f : Nat), s.m.full = true ∧ f < (s.m.lio.banks.get y).fns.length ∧ ((s.m.lio.banks.get y).fns.getD f SfState.reset).inWindow = true ∧ s.m.lio.fnF f 8 4 * 1000000 ≤ (s.m.advance t).clock - ((s.m.lio.banks.get y).fns.getD f SfState.reset).winStart) ∧
    (∃ (s : State) (y : Lane) (t : Nat) (f : Nat) (n : Nat), s.m.full = true ∧ f < (s.m.lio.banks.get y).fns.length ∧ ((s.m.lio.banks.get y).fns.getD f SfState.reset).endN = false ∧ ((s.m.lio.banks.get y).fns.getD f SfState.reset).nSince = some n ∧ s.m.lio.fnF f 12 4 * 1000000 ≤ (s.m.advance t).clock - n) ∧
    (∃ (s : State) (x : Lane), s.m.full = true ∧ (s.m.lane x).powered = true) :=
  ⟨⟨(lioFn 0 SfState.reset), .b, 1100000, 0, by decide +kernel⟩,
   ⟨(lioFn 0 SfState.reset), .b, 5, 0, by decide +kernel⟩,
   ⟨(lioFn 0 { SfState.reset with openA := some 100 }), .b, 104000, 1, 0, 100, by decide +kernel⟩,
   ⟨(lioFn 0 { SfState.reset with openA := some 100, unpA := 2 }), .b, 100101000, 0, 100, by decide +kernel⟩,
   ⟨(lioFn 0 { SfState.reset with recent := true, dir := 1 }), .b, 1000000001, 0, by decide +kernel⟩,
   ⟨(lioFn 0 { SfState.reset with recent := true, dir := 1 }), .b, 1000000000, 0, by decide +kernel⟩,
   ⟨(st { svc with lio := { lio0 (in1 0 2) with lanes := PerLane.const { LioLane.reset with fstart := 2, refreshed := true } } }), .b, 1, by decide +kernel⟩,
   ⟨(lioFn 1 { SfState.reset with inWindow := true }), .b, 5000000000, 1, by decide +kernel⟩,
   ⟨(lioFn 1 { SfState.reset with nSince := some 0, inWindow := true }), .b, 300000000, 1, 0, by decide +kernel⟩,
   ⟨(lioFn 1 SfState.reset), .a, by decide +kernel⟩⟩

theorem wit_LocalIoRunsOnlyInTheActiveModule :
    (∃ (s : State), s.m.full = true ∧ s.m.role = roleACTIVE ∧ s.m.inService = true ∧ s.m.lio.active = false ∧ s.m.lio.ctlflt = false) ∧
    (∃ (s : State), s.m.role ≠ roleACTIVE) ∧
    (∃ (s : State), s.m.full = true ∧ s.m.role ≠ roleACTIVE ∧ s.m.lio.active = true) ∧
    (∃ (s : State), s.m.full = true ∧ s.m.lio.ctlflt = false) ∧
    (∃ (s : State), s.m.full = true ∧ s.m.lio.ctlflt = false) ∧
    (∃ (s : State) (x : Lane), s.m.full = true ∧ (s.m.lane x).powered = true) :=
  ⟨⟨(liom { lio0 (in1 1 3) with active := false }), by decide +kernel⟩,
   ⟨(st { svc with role := 2, lio := lio0 (in1 0 2) }), by decide +kernel⟩,
   ⟨(st { svc with role := 2, lio := lioHs }), by decide +kernel⟩,
   ⟨(liom lioHs), by decide +kernel⟩,
   ⟨(liom { lioHs with itemCnt := 0xFFFFFFFF }), by decide +kernel⟩,
   ⟨(liom lioHs), .b, by decide +kernel⟩⟩

theorem wit_OutputChannelsFollowTheirStates :
    (∃ (s : State) (o : Nat), s.m.full = true ∧ o < s.m.lio.outs.length ∧ (s.m.lio.outCh o).state ≤ 2) ∧
    (∃ (s : State) (o : Nat), s.m.full = true ∧ o < s.m.lio.outs.length ∧ 3 ≤ (s.m.lio.outCh o).state) ∧
    (∃ (s : State) (o : Nat) (b : Nat), s.m.full = true ∧ o < s.m.lio.outs.length ∧ b < 4 ∧ b < s.m.lio.feed.length) ∧
    (∃ (s : State) (o : Nat) (b : Nat), s.m.full = true ∧ o < s.m.lio.outs.length ∧ b < 4 ∧ b < s.m.lio.feed.length) ∧
    (∃ (s : State) (o : Nat) (b : Nat), s.m.full = true ∧ o < s.m.lio.outs.length ∧ b < 4 ∧ b < s.m.lio.feed.length ∧ (s.m.lio.feed.getD b FeedBank.reset).state = 2) ∧
    (∃ (s : State) (o : Nat) (slot : Nat), s.m.full = true ∧ o < s.m.lio.outs.length ∧ s.m.lio.ctlflt = false ∧ s.m.lio.outUsed o = true ∧ s.m.lio.outF o 3 1 = 1 ∧ o < 48 ∧ slot / 2 = o ∧ (s.m.lio.outCh o).testWait = false) ∧
    (∃ (s : State) (o : Nat) (slot : Nat), s.m.full = true ∧ o < s.m.lio.outs.length ∧ s.m.lio.ctlflt = false ∧ s.m.lio.outUsed o = true ∧ s.m.lio.outF o 3 1 = 1 ∧ o < 48 ∧ slot / 2 = o ∧ (s.m.lio.outCh o).testWait = true ∧ (s.m.lio.outCh o).state ≤ 3) ∧
    (∃ (s : State) (o : Nat) (slot : Nat), s.m.full = true ∧ o < s.m.lio.outs.length ∧ s.m.lio.ctlflt = false ∧ s.m.lio.outUsed o = true ∧ s.m.lio.outF o 3 1 = 1 ∧ o < 48 ∧ slot / 2 = o ∧ (s.m.lio.outCh o).state = 3 ∧ (s.m.lio.outCh o).resetReq = false) ∧
    (∃ (s : State) (o : Nat) (slot : Nat), s.m.full = true ∧ o < s.m.lio.outs.length ∧ s.m.lio.ctlflt = false ∧ s.m.lio.outUsed o = true ∧ s.m.lio.outF o 3 1 = 1 ∧ o < 48 ∧ slot / 2 = o ∧ (s.m.lio.outCh o).state = 3 ∧ (s.m.lio.outCh o).resetReq = true ∧ 1 ≤ (s.m.lio.outCh o).passed) ∧
    (∃ (s : State) (o : Nat) (slot : Nat), s.m.full = true ∧ o < s.m.lio.outs.length ∧ s.m.lio.ctlflt = false ∧ s.m.lio.outUsed o = true ∧ s.m.lio.outF o 3 1 = 1 ∧ o < 48 ∧ slot / 2 = o) :=
  ⟨⟨(lioOut (outC 2)), 3, by decide +kernel⟩,
   ⟨(lioOut (outC 3)), 3, by decide +kernel⟩,
   ⟨(lioOut (outC 1)), 3, 0, by decide +kernel⟩,
   ⟨(lioOut (outC 5)), 3, 0, by decide +kernel⟩,
   ⟨(liom { lio0 (in1 0 2) with outs := Lio.reset.outs.set 3 (outC 5), feed := Lio.reset.feed.set 0 ⟨2, 0⟩ }), 3, 0, by decide +kernel⟩,
   ⟨(lioOut (outC 1)), 3, 6, by decide +kernel⟩,
   ⟨(lioOut { outC 1 with testWait := true }), 3, 7, by decide +kernel⟩,
   ⟨(lioOut { outC 3 with inhibited := true }), 3, 7, by decide +kernel⟩,
   ⟨(lioOut { outC 3 with inhibited := true, resetReq := true, passed := 1 }), 3, 7, by decide +kernel⟩,
   ⟨(lioOut (outC 1)), 3, 7, by decide +kernel⟩⟩

theorem wit_OutputsNeedTwoLiveLanes :
    (∃ (s : State) (x : Lane), s.m.full = true ∧ (s.m.lane x).powered = true) ∧
    (∃ (s : State) (x : Lane) (t : Nat), s.m.full = true ∧ ((s.m.lio.lanes.get x).refreshed = false ∨ s.m.lio.tsilMs * 1000000 ≤ (s.m.advance t).clock - (s.m.lio.lanes.get x).lastRefresh)) :=
  ⟨⟨(liom lioHs), .b, by decide +kernel⟩,
   ⟨(liom lioHs), .b, 200000005, by decide +kernel⟩⟩

theorem wit_BridgeVisitsAndDelivers :
    (∃ (s : State) (d : Nat), s.m.full = true ∧ s.m.drp.active = true ∧ s.m.drp.ctlflt = false ∧ s.m.drp.mapOk = true ∧ s.m.drp.brt.devUsed d = true) ∧
    (∃ (s : State), s.m.full = true ∧ (s.m.drp.active = false ∨ s.m.drp.ctlflt = true)) ∧
    (∃ (s : State) (d : Nat) (x : Lane) (tel : Bytes) (n : Nat) (rest : List DrStep), s.m.full = true ∧ s.m.drp.active = true ∧ s.m.drp.ctlflt = false ∧ (s.m.drp.dev d).agenda = DrStep.poll n :: rest ∧ telValid s.m.drp.brt d tel = true ∧ telNum tel = n ∧ s.m.takes Path.draip x = true ∧ (s.m.lane x).tdm.portHeld 4 = false) ∧
    (∃ (s : State) (d : Nat) (tel : Bytes) (n : Nat) (rest : List DrStep), s.m.full = true ∧ s.m.drp.active = true ∧ s.m.drp.ctlflt = false ∧ (s.m.drp.dev d).agenda = DrStep.poll n :: rest ∧ telValid s.m.drp.brt d tel = false) ∧
    (∃ (s : State) (d : Nat) (n : Nat) (rest : List DrStep), s.m.full = true ∧ s.m.drp.active = true ∧ s.m.drp.ctlflt = false ∧ (s.m.drp.dev d).agenda = DrStep.poll n :: rest) ∧
    (∃ (s : State) (d : Nat) (t : Nat) (e : DrEvent), s.m.full = true ∧ e ∈ (s.m.drp.dev d).events ∧ e.since + 2 * s.m.drp.brt.dcyc (d / 32) * 1000000 ≤ (s.m.advance t).clock) :=
  ⟨⟨(drm (drp0 DrDev.reset)), 0, by decide +kernel⟩,
   ⟨(drm { drp0 DrDev.reset with ctlflt := true }), by decide +kernel⟩,
   ⟨(drm (drp0 { DrDev.reset with agenda := [.poll 1, .status] })), 0, .b, tel1, 1, [.status], by decide +kernel⟩,
   ⟨(drm (drp0 { DrDev.reset with agenda := [.poll 1, .status] })), 0, [1], 1, [.status], by decide +kernel⟩,
   ⟨(drm (drp0 { DrDev.reset with agenda := [.poll 1] })), 0, 1, [], by decide +kernel⟩,
   ⟨(drm (drp0 { DrDev.reset with events := [⟨3, 1, 9, 5⟩] })), 0, 200000005, ⟨3, 1, 9, 5⟩, by decide +kernel⟩⟩

theorem wit_LanesUnpackAndReadAcrossTheirPorts :
    (∃ (s : State) (x : Lane), s.m.full = true ∧ x ∈ s.m.running) ∧
    (∃ (s : State) (x : Lane), s.m.full = true ∧ BitVec.getLsbD (s.m.drp.lanes.get x).ctrl 1 = true ∧ (s.m.lane x).powered = true ∧ (s.m.lane x).drp.accepted = []) ∧
    (∃ (s : State) (x : Lane), s.m.full = true ∧ BitVec.getLsbD (s.m.drp.lanes.get x).ctrl 1 = true ∧ (s.m.lane x).powered = true) ∧
    (∃ (s : State) (e : MapEnt), s.m.full = true ∧ e.kind = 1 ∧ e.flags = 0 ∧ e.mul = 1 ∧ e.div = 1 ∧ e.off = 0) ∧
    (∃ (s : State), s.m.full = true ∧ s.m.drp.ctlflt = false) ∧
    (∃ (s : State) (x : Lane), s.m.full = true ∧ s.m.jadeReads x = true ∧ (s.m.lane x).lct.read = none) ∧
    (∃ (s : State), s.m.full = true ∧ s.m.inService = true ∧ s.m.ph ≠ CyclePh.idle) ∧
    (∃ (s : State) (t : Nat) (x : Lane) (k : Nat) (since : Nat), s.m.full = true ∧ (s.m.lane x).lct.read = some (k, since) ∧ since + 2000 ≤ (s.m.advance t).clock ∧ 63 ≤ k) ∧
    (∃ (s : State) (t : Nat) (x : Lane) (k : Nat) (since : Nat), s.m.full = true ∧ (s.m.lane x).lct.read = some (k, since) ∧ since + 2000 ≤ (s.m.advance t).clock ∧ k < 63) :=
  ⟨⟨(drL { LaneDrp.reset with devs := [(0, { LaneDev.reset with held := [⟨1, 9, 0, 0, 0, []⟩] })] }), .b, by decide +kernel⟩,
   ⟨(drL LaneDrp.reset), .b, by decide +kernel⟩,
   ⟨(drL { LaneDrp.reset with accepted := [⟨0, 1, 0, 0, []⟩, ⟨0, 1, 0, 1, []⟩] }), .b, by decide +kernel⟩,
   ⟨(drL LaneDrp.reset), mapE, by decide +kernel⟩,
   ⟨(drm { drp0 DrDev.reset with ports := [⟨1, true, 4, 4⟩] }), by decide +kernel⟩,
   ⟨(readL none), .b, by decide +kernel⟩,
   ⟨(cyc .run vot id), by decide +kernel⟩,
   ⟨(readL (some (63, 5))), 2005, .b, 63, 5, by decide +kernel⟩,
   ⟨(readL (some (62, 5))), 2005, .b, 62, 5, by decide +kernel⟩⟩

theorem wit_KstPortsAndAssociationTimers :
    (∃ (s : State) (port : Chan) (src : Nat) (seq : Nat) (body : Bytes) (rec' : AssocRec), s.m.kst.up.get port = true ∧ (src, seq) ∉ s.m.kst.seen ∧ s.m.kst.stamp body = some rec') ∧
    (∃ (s : State) (port : Chan) (src : Nat) (seq : Nat), (s.m.kst.up.get port = false ∨ (src, seq) ∈ s.m.kst.seen)) ∧
    (∃ (s : State) (t : Nat), s.m.kst.superDue (s.m.advance t).clock = true) ∧
    (∃ (s : State) (t : Nat) (u : Nat), s.m.kst.superAt = some u ∧ (s.m.advance t).clock < u + 2000000000) ∧
    (∃ (s : State) (x : Lane) (r : AssocRec) (a : Nat), x ∈ s.m.running ∧ (s.m.lane x).kst.recOf a = some r ∧ r.init = true ∧ ((s.m.lane x).kst.assoc a).st = AssocSt.closed ∧ (∀ (u : Nat), ((s.m.lane x).kst.assoc a).connectAt = some u → u + 1000000000 ≤ (s.m.lane x).rt.ctime)) ∧
    (∃ (s : State) (x : Lane) (r : AssocRec) (a : Nat), x ∈ s.m.running ∧ (s.m.lane x).kst.recOf a = some r ∧ (r.init = false ∨ ((s.m.lane x).kst.assoc a).st ≠ AssocSt.closed)) ∧
    (∃ (s : State) (x : Lane) (r : AssocRec) (a : Nat), x ∈ s.m.running ∧ (s.m.lane x).kst.recOf a = some r ∧ ((s.m.lane x).kst.assoc a).st = AssocSt.open' ∧ ((s.m.lane x).kst.assoc a).acceptedAt + r.tmax * 1000000 ≤ (s.m.lane x).rt.ctime) ∧
    (∃ (s : State) (x : Lane) (r : AssocRec) (a : Nat), x ∈ s.m.running ∧ (s.m.lane x).kst.recOf a = some r ∧ (s.m.lane x).rt.ctime < ((s.m.lane x).kst.assoc a).acceptedAt + r.tmax * 1000000) :=
  ⟨⟨(kasM vot (asc true 1 7)), .a, 4, 9, (pdu vot 1 3 0 []), (asc true 1 7), by decide +kernel⟩,
   ⟨(st svc), .a, 4, 9, by decide +kernel⟩,
   ⟨(st { svc with kst := { KstPorts.reset with superAt := some 5, up := ⟨true, false⟩ } }), 2000000005, by decide +kernel⟩,
   ⟨(st { svc with kst := { KstPorts.reset with superAt := some 5 } }), 2000000004, 5, by decide +kernel⟩,
   ⟨(kasM (kas true 1 7 Assoc.reset) (asc true 1 7)), .b, (asc true 1 7), 3, by decide +kernel⟩,
   ⟨(kasM (kas false 1 7 Assoc.reset) (asc false 1 7)), .b, (asc false 1 7), 3, by decide +kernel⟩,
   ⟨(kasM { kas true 1 7 (asO .open' 2) with rt := { vot.rt with ctime := 1000000000 } } (asc true 1 7)), .b, (asc true 1 7), 3, by decide +kernel⟩,
   ⟨(kasM { kas true 1 7 (asO .open' 2) with rt := { vot.rt with ctime := 999999999 } } (asc true 1 7)), .b, (asc true 1 7), 3, by decide +kernel⟩⟩

theorem wit_AcceptedPdusTakeEffect :
    (∃ (s : State) (x : Lane) (a : Nat) (body : Bytes) (r : AssocRec) (q : AssocRec), x ∈ s.m.running ∧ (List.find? (fun z => z.anum == a) s.m.kst.recs = some q) ∧ (s.m.lane x).kst.recOf a = some r ∧ pduType body = 1 ∧ (pduOk r ((s.m.lane x).kst.assoc a) q.cls (s.m.obx.t0 + 4000000 * ((s.m.lane x).rt.amc + 1)) (fun y => (s.m.lane x).keyOf 4 (4 * a + y)) body = false)) ∧
    (∃ (s : State) (x : Lane) (a : Nat) (body : Bytes) (r : AssocRec) (q : AssocRec), x ∈ s.m.running ∧ (List.find? (fun z => z.anum == a) s.m.kst.recs = some q) ∧ (s.m.lane x).kst.recOf a = some r ∧ pduType body = 1 ∧ (pduOk r ((s.m.lane x).kst.assoc a) q.cls (s.m.obx.t0 + 4000000 * ((s.m.lane x).rt.amc + 1)) (fun y => (s.m.lane x).keyOf 4 (4 * a + y)) body = true) ∧ version r (Bytes.le (pduPayload body) 0 1) (Bytes.le (pduPayload body) 1 1) = none) ∧
    (∃ (s : State) (x : Lane) (a : Nat) (body : Bytes) (r : AssocRec) (q : AssocRec) (v : Nat), x ∈ s.m.running ∧ (List.find? (fun z => z.anum == a) s.m.kst.recs = some q) ∧ (s.m.lane x).kst.recOf a = some r ∧ pduType body = 1 ∧ (pduOk r ((s.m.lane x).kst.assoc a) q.cls (s.m.obx.t0 + 4000000 * ((s.m.lane x).rt.amc + 1)) (fun y => (s.m.lane x).keyOf 4 (4 * a + y)) body = true) ∧ version r (Bytes.le (pduPayload body) 0 1) (Bytes.le (pduPayload body) 1 1) = some v ∧ (r.cls ≠ 2 ∨ Bytes.le (pduPayload body) 2 4 = r.lsig true)) ∧
    (∃ (s : State) (x : Lane) (a : Nat) (body : Bytes) (r : AssocRec) (q : AssocRec), x ∈ s.m.running ∧ (List.find? (fun z => z.anum == a) s.m.kst.recs = some q) ∧ (s.m.lane x).kst.recOf a = some r ∧ pduType body = 2 ∧ (pduOk r ((s.m.lane x).kst.assoc a) q.cls (s.m.obx.t0 + 4000000 * ((s.m.lane x).rt.amc + 1)) (fun y => (s.m.lane x).keyOf 4 (4 * a + y)) body = true)) ∧
    (∃ (s : State) (x : Lane) (a : Nat) (body : Bytes) (r : AssocRec) (q : AssocRec), x ∈ s.m.running ∧ (List.find? (fun z => z.anum == a) s.m.kst.recs = some q) ∧ (s.m.lane x).kst.recOf a = some r ∧ pduType body = 4 ∧ (pduOk r ((s.m.lane x).kst.assoc a) q.cls (s.m.obx.t0 + 4000000 * ((s.m.lane x).rt.amc + 1)) (fun y => (s.m.lane x).keyOf 4 (4 * a + y)) body = true)) ∧
    (∃ (s : State) (x : Lane) (a : Nat) (body : Bytes) (r : AssocRec) (q : AssocRec), x ∈ s.m.running ∧ (List.find? (fun z => z.anum == a) s.m.kst.recs = some q) ∧ (s.m.lane x).kst.recOf a = some r ∧ pduType body = 3 ∧ (pduOk r ((s.m.lane x).kst.assoc a) q.cls (s.m.obx.t0 + 4000000 * ((s.m.lane x).rt.amc + 1)) (fun y => (s.m.lane x).keyOf 4 (4 * a + y)) body = true) ∧ mtypeOk ((s.m.lane x).kst.assoc a) body = true ∧ pduMtype body = 0) ∧
    (∃ (s : State) (x : Lane) (a : Nat) (body : Bytes) (r : AssocRec) (q : AssocRec), x ∈ s.m.running ∧ (List.find? (fun z => z.anum == a) s.m.kst.recs = some q) ∧ (s.m.lane x).kst.recOf a = some r ∧ pduType body = 3 ∧ (pduOk r ((s.m.lane x).kst.assoc a) q.cls (s.m.obx.t0 + 4000000 * ((s.m.lane x).rt.amc + 1)) (fun y => (s.m.lane x).keyOf 4 (4 * a + y)) body = true) ∧ mtypeOk ((s.m.lane x).kst.assoc a) body = true ∧ pduMtype body = 1 ∧ r.canRoute = true) ∧
    (∃ (s : State) (x : Lane) (a : Nat) (body : Bytes) (r : AssocRec) (q : AssocRec), x ∈ s.m.running ∧ (List.find? (fun z => z.anum == a) s.m.kst.recs = some q) ∧ (s.m.lane x).kst.recOf a = some r ∧ pduType body = 3 ∧ (pduOk r ((s.m.lane x).kst.assoc a) q.cls (s.m.obx.t0 + 4000000 * ((s.m.lane x).rt.amc + 1)) (fun y => (s.m.lane x).keyOf 4 (4 * a + y)) body = true) ∧ mtypeOk ((s.m.lane x).kst.assoc a) body = true ∧ pduMtype body = 1 ∧ r.canRoute = false) ∧
    (∃ (s : State) (x : Lane) (a : Nat) (body : Bytes) (r : AssocRec) (q : AssocRec), x ∈ s.m.running ∧ (List.find? (fun z => z.anum == a) s.m.kst.recs = some q) ∧ (s.m.lane x).kst.recOf a = some r ∧ pduType body = 3 ∧ (pduOk r ((s.m.lane x).kst.assoc a) q.cls (s.m.obx.t0 + 4000000 * ((s.m.lane x).rt.amc + 1)) (fun y => (s.m.lane x).keyOf 4 (4 * a + y)) body = true) ∧ mtypeOk ((s.m.lane x).kst.assoc a) body = true ∧ pduMtype body = 2 ∧ r.canArel = true ∧ (s.m.lane x).kst.inbox.length < 256) ∧
    (∃ (s : State) (x : Lane) (a : Nat) (body : Bytes) (r : AssocRec) (q : AssocRec), x ∈ s.m.running ∧ (List.find? (fun z => z.anum == a) s.m.kst.recs = some q) ∧ (s.m.lane x).kst.recOf a = some r ∧ pduType body = 3 ∧ (pduOk r ((s.m.lane x).kst.assoc a) q.cls (s.m.obx.t0 + 4000000 * ((s.m.lane x).rt.amc + 1)) (fun y => (s.m.lane x).keyOf 4 (4 * a + y)) body = true) ∧ mtypeOk ((s.m.lane x).kst.assoc a) body = true ∧ pduMtype body = 2 ∧ r.canArel = false) ∧
    (∃ (s : State) (x : Lane) (a : Nat) (body : Bytes) (r : AssocRec) (q : AssocRec), x ∈ s.m.running ∧ (List.find? (fun z => z.anum == a) s.m.kst.recs = some q) ∧ (s.m.lane x).kst.recOf a = some r ∧ pduType body = 3 ∧ (pduOk r ((s.m.lane x).kst.assoc a) q.cls (s.m.obx.t0 + 4000000 * ((s.m.lane x).rt.amc + 1)) (fun y => (s.m.lane x).keyOf 4 (4 * a + y)) body = true) ∧ mtypeOk ((s.m.lane x).kst.assoc a) body = true ∧ pduMtype body = 16 ∧ r.cls = 2 ∧ (s.m.lane x).rt.links = []) ∧
    (∃ (s : State) (x : Lane) (a : Nat) (body : Bytes) (r : AssocRec) (q : AssocRec), x ∈ s.m.running ∧ (List.find? (fun z => z.anum == a) s.m.kst.recs = some q) ∧ (s.m.lane x).kst.recOf a = some r ∧ pduType body = 3 ∧ (pduOk r ((s.m.lane x).kst.assoc a) q.cls (s.m.obx.t0 + 4000000 * ((s.m.lane x).rt.amc + 1)) (fun y => (s.m.lane x).keyOf 4 (4 * a + y)) body = true) ∧ mtypeOk ((s.m.lane x).kst.assoc a) body = true ∧ pduMtype body = 17 ∧ r.cls = 2 ∧ (s.m.lane x).kst.inbox.length < 256) ∧
    (∃ (s : State) (x : Lane) (a : Nat) (body : Bytes) (r : AssocRec) (q : AssocRec), x ∈ s.m.running ∧ (List.find? (fun z => z.anum == a) s.m.kst.recs = some q) ∧ (s.m.lane x).kst.recOf a = some r ∧ pduType body = 3 ∧ (pduOk r ((s.m.lane x).kst.assoc a) q.cls (s.m.obx.t0 + 4000000 * ((s.m.lane x).rt.amc + 1)) (fun y => (s.m.lane x).keyOf 4 (4 * a + y)) body = true) ∧ mtypeOk ((s.m.lane x).kst.assoc a) body = true ∧ 256 ≤ pduMtype body ∧ pduMtype body ≤ 32767 ∧ (s.m.lane x).kst.inbox.length < 256) ∧
    (∃ (s : State) (x : Lane) (a : Nat) (body : Bytes) (r : AssocRec) (q : AssocRec), x ∈ s.m.running ∧ (List.find? (fun z => z.anum == a) s.m.kst.recs = some q) ∧ (s.m.lane x).kst.recOf a = some r ∧ pduType body = 3 ∧ (pduOk r ((s.m.lane x).kst.assoc a) q.cls (s.m.obx.t0 + 4000000 * ((s.m.lane x).rt.amc + 1)) (fun y => (s.m.lane x).keyOf 4 (4 * a + y)) body = true) ∧ mtypeOk ((s.m.lane x).kst.assoc a) body = true ∧ 256 ≤ pduMtype body ∧ pduMtype body ≤ 32767 ∧ 256 ≤ (s.m.lane x).kst.inbox.length) :=
  ⟨⟨(kasM (kas false 1 7 Assoc.reset) (asc false 1 7)), .b, 3, (pdu vot 1 1 0 [1, 2]), (asc false 1 7), (asc false 1 7), by decide +kernel⟩,
   ⟨(kasM (kas false 1 7 Assoc.reset) (asc false 1 7)), .b, 3, (pdu vot 0 1 0 [4, 9]), (asc false 1 7), (asc false 1 7), by decide +kernel, by decide +kernel, by decide +kernel, by decide +kernel, pduOk_of (by decide +kernel) (by rfl) (Or.inr (by decide +kernel)), by decide +kernel⟩,
   ⟨(kasM (kas false 1 7 Assoc.reset) (asc false 1 7)), .b, 3, (pdu vot 0 1 0 [1, 2]), (asc false 1 7), (asc false 1 7), 2, by decide +kernel, by decide +kernel, by decide +kernel, by decide +kernel, pduOk_of (by decide +kernel) (by rfl) (Or.inr (by decide +kernel)), by decide +kernel, by decide +kernel⟩,
   ⟨(kasM (kas true 1 7 Assoc.reset) (asc true 1 7)), .b, 3, (pdu vot 2 2 0 [2]), (asc true 1 7), (asc true 1 7), by decide +kernel, by decide +kernel, by decide +kernel, by decide +kernel, pduOk_of (by decide +kernel) (by rfl) (Or.inr (by decide +kernel))⟩,
   ⟨(kasM (kas true 1 7 (asO .open' 2)) (asc true 1 7)), .b, 3, (pdu vot 2 4 0 [2]), (asc true 1 7), (asc true 1 7), by decide +kernel, by decide +kernel, by decide +kernel, by decide +kernel, pduOk_of (by decide +kernel) (by rfl) (Or.inr (by decide +kernel))⟩,
   ⟨(kasM (kas false 1 7 (asO .connecting 2)) (asc false 1 7)), .b, 3, (pdu vot 2 3 0 []), (asc false 1 7), (asc false 1 7), by decide +kernel, by decide +kernel, by decide +kernel, by decide +kernel, pduOk_of (by decide +kernel) (by rfl) (Or.inr (by decide +kernel)), by decide +kernel, by decide +kernel⟩,
   ⟨(kasM (kas false 1 7 (asO .connecting 2)) (asc false 1 7)), .b, 3, (pdu vot 2 3 1 [1, 0, 7, 0, 0, 0, 0, 0]), (asc false 1 7), (asc false 1 7), by decide +kernel, by decide +kernel, by decide +kernel, by decide +kernel, pduOk_of (by decide +kernel) (by rfl) (Or.inr (by decide +kernel)), by decide +kernel, by decide +kernel, by decide +kernel⟩,
   ⟨(kasM (kas false 1 6 (asO .open' 2)) (asc false 1 6)), .b, 3, (pdu vot 2 3 1 [1, 0, 7, 0, 0, 0, 0, 0]), (asc false 1 6), (asc false 1 6), by decide +kernel, by decide +kernel, by decide +kernel, by decide +kernel, pduOk_of (by decide +kernel) (by rfl) (Or.inr (by decide +kernel)), by decide +kernel, by decide +kernel, by decide +kernel⟩,
   ⟨(kasM (kas false 1 6 (asO .open' 2)) (asc false 1 6)), .b, 3, (pdu vot 2 3 2 [1, 0, 7, 0, 0, 0, 0, 0]), (asc false 1 6), (asc false 1 6), by decide +kernel, by decide +kernel, by decide +kernel, by decide +kernel, pduOk_of (by decide +kernel) (by rfl) (Or.inr (by decide +kernel)), by decide +kernel, by decide +kernel, by decide +kernel, by decide +kernel⟩,
   ⟨(kasM (kas false 1 1 (asO .open' 2)) (asc false 1 1)), .b, 3, (pdu vot 2 3 2 [1, 0, 7, 0, 0, 0, 0, 0]), (asc false 1 1), (asc false 1 1), by decide +kernel, by decide +kernel, by decide +kernel, by decide +kernel, pduOk_of (by decide +kernel) (by rfl) (Or.inr (by decide +kernel)), by decide +kernel, by decide +kernel, by decide +kernel⟩,
   ⟨(kasM (kas false 2 1 (asO .open' 2)) (asc false 2 1)), .b, 3, (pdu vot 2 3 0x10 [0, 0, 0, 0]), (asc false 2 1), (asc false 2 1), by decide +kernel, by decide +kernel, by decide +kernel, by decide +kernel, pduOk_of (by decide +kernel) (by rfl) (Or.inr (by decide +kernel)), by decide +kernel, by decide +kernel, by decide +kernel, by decide +kernel⟩,
   ⟨(kasM (kas false 2 1 (asO .open' 2)) (asc false 2 1)), .b, 3, (pdu vot 2 3 0x11 [0, 0, 0, 0]), (asc false 2 1), (asc false 2 1), by decide +kernel, by decide +kernel, by decide +kernel, by decide +kernel, pduOk_of (by decide +kernel) (by rfl) (Or.inr (by decide +kernel)), by decide +kernel, by decide +kernel, by decide +kernel, by decide +kernel⟩,
   ⟨(kasM (kas false 2 1 (asO .open' 2)) (asc false 2 1)), .b, 3, (pdu vot 2 3 0x7FFF [1, 2]), (asc false 2 1), (asc false 2 1), by decide +kernel, by decide +kernel, by decide +kernel, by decide +kernel, pduOk_of (by decide +kernel) (by rfl) (Or.inr (by decide +kernel)), by decide +kernel, by decide +kernel, by decide +kernel, by decide +kernel⟩,
   ⟨(kasM { kas false 2 1 (asO .open' 2) with kst := { (kas false 2 1 (asO .open' 2)).kst with inbox := List.replicate 256 ⟨0, 0, 0, 0, 0, 0, []⟩ } } (asc false 2 1)), .b, 3, (pdu vot 2 3 0x100 []), (asc false 2 1), (asc false 2 1), by decide +kernel, by decide +kernel, by decide +kernel, by decide +kernel, pduOk_of (by decide +kernel) (by rfl) (Or.inr (by decide +kernel)), by decide +kernel, by decide +kernel, by decide +kernel, by decide +kernel⟩⟩

set_option maxRecDepth 8192 in
theorem wit_FollowRecordsAreCheckedRunAndCompared :
    (∃ (s : State) (f : FollowRec), s.m.isStandby = true ∧ s.m.pair.linkUp = true ∧ s.m.pair.follows = true ∧ s.m.service ≠ Service.held ∧ s.m.pair.waitFetch = none ∧ (2 ≤ (List.filter (fun x => !(s.m.lane x).followSealOk f) s.m.running).length)) ∧
    (∃ (s : State), s.m.isStandby = true ∧ s.m.pair.linkUp = true ∧ s.m.pair.follows = true ∧ s.m.service ≠ Service.held ∧ s.m.pair.waitFetch.isSome = true) ∧
    (∃ (s : State) (f : FollowRec) (r : ReplyRef), s.m.isStandby = true ∧ s.m.pair.linkUp = true ∧ s.m.pair.follows = true ∧ s.m.service ≠ Service.held ∧ s.m.pair.waitFetch = none ∧ ((List.filter (fun x => !(s.m.lane x).followSealOk f) s.m.running).length < 2) ∧ resolve f.refs s.m.heldReplies = Except.error r) ∧
    (∃ (s : State) (f : FollowRec) (its : List Item), s.m.isStandby = true ∧ s.m.pair.linkUp = true ∧ s.m.pair.follows = true ∧ s.m.service ≠ Service.held ∧ s.m.pair.waitFetch = none ∧ ((List.filter (fun x => !(s.m.lane x).followSealOk f) s.m.running).length < 2) ∧ resolve f.refs s.m.heldReplies = Except.ok its) ∧
    (∃ (s : State) (t : Nat) (i : Item) (r : ReplyRef) (g : FollowRec), s.m.pair.linkUp = true ∧ s.m.pair.waitFetch = some g ∧ (s.m.advance t).clock < s.m.pair.recordSentAt + 200000 ∧ resolve g.refs (s.m.heldReplies ++ [i]) = Except.error r) ∧
    (∃ (s : State) (t : Nat) (i : Item) (its : List Item) (g : FollowRec), s.m.pair.linkUp = true ∧ s.m.pair.waitFetch = some g ∧ (s.m.advance t).clock < s.m.pair.recordSentAt + 200000 ∧ resolve g.refs (s.m.heldReplies ++ [i]) = Except.ok its) ∧
    (∃ (s : State) (t : Nat) (g : FollowRec), s.m.pair.waitFetch = some g ∧ s.m.pair.recordSentAt + 200000 ≤ (s.m.advance t).clock) ∧
    (∃ (s : State) (c : Nat), s.m.role = roleACTIVE ∧ s.m.pair.fackFor = some c ∧ s.m.outWait = none) ∧
    (∃ (s : State) (c : Nat) (o : OutSet), s.m.role = roleACTIVE ∧ s.m.pair.fackFor = some c ∧ s.m.outWait = some o ∧ o.cycle = c) ∧
    (∃ (s : State) (t : Nat) (o : OutSet), s.m.role = roleACTIVE ∧ s.m.pair.fackFor.isSome = true ∧ s.m.pair.recordSentAt + 500000 ≤ (s.m.advance t).clock ∧ s.m.outWait = some o) ∧
    (∃ (s : State) (t : Nat) (c : Nat) (own : Option Nat) (value : Option Nat), s.m.isStandby = true ∧ s.m.pair.linkUp = true ∧ s.m.pair.follows = true ∧ s.m.service ≠ Service.held ∧ (s.m.pair.waitFetch.isSome && decide (s.m.pair.recordSentAt + 200000 ≤ (s.m.advance t).clock)) = false ∧ s.m.pair.ownSum = some (c, own) ∧ value = none) ∧
    (∃ (s : State) (t : Nat) (c : Nat) (own : Option Nat) (value : Option Nat) (v : Nat), s.m.isStandby = true ∧ s.m.pair.linkUp = true ∧ s.m.pair.follows = true ∧ s.m.service ≠ Service.held ∧ (s.m.pair.waitFetch.isSome && decide (s.m.pair.recordSentAt + 200000 ≤ (s.m.advance t).clock)) = false ∧ s.m.pair.ownSum = some (c, own) ∧ value = some v ∧ own ≠ some v) ∧
    (∃ (s : State) (t : Nat) (c : Nat) (own : Option Nat) (value : Option Nat) (v : Nat), s.m.isStandby = true ∧ s.m.pair.linkUp = true ∧ s.m.pair.follows = true ∧ s.m.service ≠ Service.held ∧ (s.m.pair.waitFetch.isSome && decide (s.m.pair.recordSentAt + 200000 ≤ (s.m.advance t).clock)) = false ∧ s.m.pair.ownSum = some (c, own) ∧ value = some v ∧ own = some v ∧ s.m.role = roleCOLD) ∧
    (∃ (s : State) (r : ReplyRef) (i : Item), s.m.role = roleACTIVE ∧ s.m.pair.linkUp = true ∧ List.find? r.ok s.m.pair.keptItems = some i) ∧
    (∃ (s : State), s.m.isStandby = true ∧ s.m.pair.linkUp = true) ∧
    (∃ (s : State) (x : Lane) (q : PairStatus), s.m.role = roleACTIVE ∧ s.m.inService = true ∧ s.m.ph = CyclePh.idle ∧ s.m.pair.follows = false ∧ s.m.voters.head? = some x ∧ s.m.pairMatches x = true ∧ s.m.pair.partner = some q ∧ (claimOf q.claim).role = roleCOLD) ∧
    (∃ (s : State) (x : Lane), s.m.role = roleCOLD ∧ s.m.service = Service.starting ∧ s.m.pair.heldCold = false ∧ (2 ≤ (List.filter (fun y => BitVec.getLsbD (s.m.lane y).grn.ctrl 2) s.m.ready).length) ∧ (x ∈ List.filter (fun y => BitVec.getLsbD (s.m.lane y).grn.ctrl 2) s.m.ready) ∧ (((List.filter (fun y => BitVec.getLsbD (s.m.lane y).grn.ctrl 2) s.m.ready).all fun y => s.m.pairMatches y && ((s.m.lane y).confirmed || (s.m.lane y).sps == [])) = true)) :=
  ⟨⟨(sby 3 id), folBad, by decide +kernel⟩,
   ⟨(sby 3 fun p => { p with waitFetch := some (fol []) }), by decide +kernel⟩,
   ⟨(sby 3 id), (fol [refOf itm1]), (refOf itm1), by decide +kernel, by decide +kernel, by decide +kernel, by decide +kernel, by decide +kernel, follow_fit (fits fun _ => by cases ‹Lane› <;> rfl), err_of (by decide +kernel)⟩,
   ⟨(sby 3 id), (fol []), [], by decide +kernel, by decide +kernel, by decide +kernel, by decide +kernel, by decide +kernel, follow_fit (fits fun _ => by cases ‹Lane› <;> rfl), ok_of (by decide +kernel)⟩,
   ⟨(sby 3 fun p => { p with waitFetch := some (fol [refOf { itm1 with seq := 6 }]) }), 5, itm1, (refOf { itm1 with seq := 6 }), (fol [refOf { itm1 with seq := 6 }]), by decide +kernel, rfl, by decide +kernel, err_of (by decide +kernel)⟩,
   ⟨(sby 3 fun p => { p with waitFetch := some (fol [refOf itm1]) }), 199999, itm1, [itm1], (fol [refOf itm1]), by decide +kernel, rfl, by decide +kernel, ok_of (by decide +kernel)⟩,
   ⟨(sby 3 fun p => { p with waitFetch := some (fol [refOf itm1]) }), 200000, (fol [refOf itm1]), rfl, by decide +kernel⟩,
   ⟨(acv fun p => { p with fackFor := some 4 }), 4, by decide +kernel⟩,
   ⟨(st { acvM (fun p => { p with fackFor := some 4 }) with outWait := some set4, handed := false }), 4, set4, by decide +kernel⟩,
   ⟨(st { acvM (fun p => { p with fackFor := some 4 }) with outWait := some set4, handed := false }), 500000, set4, by decide +kernel⟩,
   ⟨(sby 3 fun p => { p with ownSum := some (4, some 7) }), 5, 4, (some 7), none, by decide +kernel⟩,
   ⟨(sby 3 fun p => { p with ownSum := some (4, some 7) }), 5, 4, (some 7), (some 8), 8, by decide +kernel⟩,
   ⟨(sby 2 fun p => { p with ownSum := some (4, some 7), matches' := 15 }), 5, 4, (some 7), (some 7), 7, by decide +kernel⟩,
   ⟨(acv fun p => { p with keptItems := [itm1] }), (refOf itm1), itm1, by decide +kernel⟩,
   ⟨(sby 3 id), by decide +kernel⟩,
   ⟨(st actM), .a, { prt 2 with station := (vot.image).digest, sps := spsValue [], lcState := (jadeIn .operate).lc.code }, by decide +kernel, by decide +kernel, by decide +kernel, by decide +kernel, by decide +kernel, pair_of (by decide +kernel) rfl rfl rfl rfl rfl, rfl, by decide +kernel⟩,
   ⟨(st coldM), .c, by decide +kernel, by decide +kernel, by decide +kernel, by decide +kernel, by decide +kernel, List.all_eq_true.2 fun y _ => and2 (pair_of (by decide +kernel) rfl (by cases y <;> rfl) (by cases y <;> rfl) (by cases y <;> rfl) rfl) (no_sps (by cases y <;> rfl))⟩⟩

theorem wit_TakeoverAndSwapFollowTheirSequence :
    (∃ (s : State) (ch : Chan) (f : Frame), (f.good 49 && faddr f.body == starAddr ch && linkOk (Config.farLinkKey (starAddr ch)) f.body) = true ∧ s.m.isStandby = true ∧ s.m.service ≠ Service.held ∧ cfClaim f.body = s.m.claimNum s.m.role ∧ 2 ≤ cfArg0 f.body ∧ s.m.pair.grantOk (s.m.claimNum s.m.role) (cfClaim f.body) (cfMcn f.body) (cfArg0 f.body) (cfArg1 f.body) s.m.obx.t0 = true) ∧
    (∃ (s : State) (ch : Chan) (f : Frame), (f.good 49 && faddr f.body == starAddr ch && linkOk (Config.farLinkKey (starAddr ch)) f.body) = true ∧ s.m.isStandby = true ∧ s.m.service ≠ Service.held ∧ cfClaim f.body = s.m.claimNum s.m.role ∧ 2 ≤ cfArg0 f.body ∧ s.m.pair.grantOk (s.m.claimNum s.m.role) (cfClaim f.body) (cfMcn f.body) (cfArg0 f.body) (cfArg1 f.body) s.m.obx.t0 = false) ∧
    (∃ (s : State), s.m.isStandby = true ∧ s.m.obx.running = true ∧ s.m.obx.started = true) ∧
    (∃ (s : State) (ch : Chan) (f : Frame), (f.good 48 && linkOk (Config.farLinkKey (faddr f.body)) f.body) = true ∧ (s.m.star ch).first = true) ∧
    (∃ (s : State) (n : Nat), s.m.role = roleHOT ∧ s.m.pair.linkUp = true ∧ s.m.service ≠ Service.held ∧ s.m.rotation = none ∧ s.m.copy = none ∧ s.m.jade.session = none ∧ s.m.obx.mcn + 3 ≤ n) ∧
    (∃ (s : State) (n : Nat) (w : Swap), s.m.pair.swap = some w ∧ s.m.role = roleACTIVE ∧ w.stage = SwapStage.offered ∧ (claimOf n).role = roleACTIVE ∧ (claimOf n).sid = partnerSid s.m.sid ∧ s.m.obx.claim < n) ∧
    (∃ (s : State) (w : Swap), s.m.pair.swap = some w ∧ w.stage ≠ SwapStage.committed) ∧
    (∃ (s : State) (w : Swap), s.m.pair.swap = some w ∧ w.stage = SwapStage.committed) ∧
    (∃ (s : State) (w : Swap), s.m.pair.swap = some w ∧ s.m.role = roleACTIVE ∧ w.m ≤ s.m.obx.mcn + 2 ∧ w.stage = SwapStage.accepted) ∧
    (∃ (s : State) (w : Swap), s.m.pair.swap = some w ∧ s.m.role = roleACTIVE ∧ w.m ≤ s.m.obx.mcn + 2 ∧ w.stage = SwapStage.offered) ∧
    (∃ (s : State) (w : Swap), s.m.pair.swap = some w ∧ s.m.role = roleACTIVE ∧ w.m ≤ s.m.obx.mcn + 1 ∧ w.stage = SwapStage.cutStopped ∧ s.m.ph = CyclePh.idle ∧ s.m.handed = true ∧ s.m.pair.linkUp = true ∧ s.m.pair.partnerHot = true ∧ s.m.obx.master = true ∧ s.m.obx.started = true) ∧
    (∃ (s : State) (w : Swap), s.m.pair.swap = some w ∧ s.m.role = roleACTIVE ∧ w.m ≤ s.m.obx.mcn + 1 ∧ w.stage = SwapStage.cutStopped ∧ (s.m.ph ≠ CyclePh.idle ∨ s.m.pair.linkUp = false ∨ s.m.pair.partnerHot = false)) ∧
    (∃ (s : State) (w : Swap), s.m.pair.swap = some w ∧ s.m.role = roleACTIVE ∧ w.m ≤ s.m.obx.mcn ∧ w.stage = SwapStage.committed ∧ (∀ x ∈ s.m.voters, (s.m.lane x).rt.change = none)) ∧
    (∃ (s : State) (w : Swap), s.m.pair.swap = some w ∧ s.m.role = roleACTIVE ∧ w.m ≤ s.m.obx.mcn ∧ w.stage ≠ SwapStage.committed) ∧
    (∃ (s : State) (w : Swap), s.m.pair.swap = some w ∧ s.m.role = roleHOT ∧ w.m ≤ s.m.obx.mcn ∧ (∀ x ∈ s.m.voters, (s.m.lane x).rt.change = none)) ∧
    (∃ (s : State) (t : Nat), s.m.role = roleACTIVE ∧ Bytes.nat (s.m.jade.setting s.m.sid 4) = 1 ∧ (s.m.advance t).autoswapAt ≤ (s.m.advance t).now ∧ (s.m.advance t).now ≤ (s.m.advance t).autoswapAt + 14400000000000 ∧ s.m.pair.autoTriedAt = none ∧ (s.m.advance t).swapBlocked false = false) ∧
    (∃ (s : State) (t : Nat), s.m.role = roleACTIVE ∧ Bytes.nat (s.m.jade.setting s.m.sid 4) = 1 ∧ (s.m.advance t).autoswapAt ≤ (s.m.advance t).now ∧ (s.m.advance t).now ≤ (s.m.advance t).autoswapAt + 14400000000000 ∧ s.m.pair.autoTriedAt = none ∧ (s.m.advance t).swapBlocked false = true) ∧
    (∃ (s : State) (t : Nat), s.m.role = roleACTIVE ∧ s.m.pair.lastChange + 604800000000000 ≤ (s.m.advance t).now ∧ s.m.pair.overdueAt = none) ∧
    (∃ (s : State) (q : PairStatus), s.m.role = roleACTIVE ∧ s.m.inService = true ∧ s.m.swapHindered false = false ∧ s.m.pair.partner = some q ∧ s.m.lostIfc &&& q.health = 0 ∧ s.m.lostIfc ≠ 0) ∧
    (∃ (s : State) (q : PairStatus), s.m.role = roleACTIVE ∧ s.m.inService = true ∧ s.m.swapHindered false = false ∧ s.m.pair.partner = some q ∧ s.m.lostIfc &&& q.health = 0 ∧ s.m.lostIfc = 0) :=
  ⟨⟨(sby 3 id), .a, (grantF 3 7 3), and2 (and2 (good_of (by decide +kernel)) (by decide +kernel)) (link_of (by decide +kernel)), by decide +kernel, by decide +kernel, by decide +kernel, by decide +kernel, by decide +kernel⟩,
   ⟨(sby 3 fun p => { p with seenA := some 5 }), .a, (grantF 3 7 3), and2 (and2 (good_of (by decide +kernel)) (by decide +kernel)) (link_of (by decide +kernel)), by decide +kernel, by decide +kernel, by decide +kernel, by decide +kernel, by decide +kernel⟩,
   ⟨(sby 3 id), by decide +kernel⟩,
   ⟨(strs star0), .b, stbyF, and2 (good_of (by decide +kernel)) (link_of (by decide +kernel)), by decide +kernel⟩,
   ⟨(sby 3 id), 10, by decide +kernel⟩,
   ⟨(swpA 10 .offered), 0x20401, (swp 10 .offered), by decide +kernel⟩,
   ⟨(swpA 10 .cutStopped), (swp 10 .cutStopped), by decide +kernel⟩,
   ⟨(swpA 10 .committed), (swp 10 .committed), by decide +kernel⟩,
   ⟨(swpA 9 .accepted), (swp 9 .accepted), by decide +kernel⟩,
   ⟨(swpA 9 .offered), (swp 9 .offered), by decide +kernel⟩,
   ⟨(swpA 8 .cutStopped), (swp 8 .cutStopped), by decide +kernel⟩,
   ⟨(acv fun p => { p with swap := some (swp 8 .cutStopped), partnerHot := false }), (swp 8 .cutStopped), by decide +kernel⟩,
   ⟨(swpA 7 .committed), (swp 7 .committed), by decide +kernel⟩,
   ⟨(swpA 7 .accepted), (swp 7 .accepted), by decide +kernel⟩,
   ⟨(sby 3 fun p => { p with swap := some (swp 7 .accepted) }), (swp 7 .accepted), by decide +kernel⟩,
   ⟨(st { acvM id with jade := { jadeIn .operate with inForce := [(4, by' [1])] } }), 547200000000000, by decide +kernel⟩,
   ⟨(st { acvM id with jade := { jadeIn .operate with inForce := [(4, by' [1])] }, service := .reduced }), 547200000000000, by decide +kernel⟩,
   ⟨(acv id), 604800000000000, by decide +kernel⟩,
   ⟨(st { acvM id with lio := { Lio.reset with ctlflt := true } }), (prt 3), by decide +kernel⟩,
   ⟨(st { acvM id with kst := { KstPorts.reset with up := PerChan.const true } }), (prt 3), by decide +kernel⟩⟩

theorem wit_ClaimsAndLinkEventsSetTheRoles :
    (∃ (s : State) (t : Nat) (u : Nat), s.m.pair.relinquishAt = some u ∧ s.m.role = roleACTIVE ∧ s.m.service = Service.held ∧ (s.m.advance t).clock ≤ u + 1000000 ∧ u + 1000000 ≤ (s.m.advance t).clock) ∧
    (∃ (s : State) (t : Nat) (u : Nat), s.m.pair.relinquishAt = some u ∧ s.m.role = roleACTIVE ∧ s.m.service = Service.held ∧ u + 1000000 < (s.m.advance t).clock) ∧
    (∃ (s : State), s.m.role = roleHOT ∧ s.m.pair.linkUp = true ∧ s.m.isStandby = true ∧ s.m.role ≠ roleACTIVE) ∧
    (∃ (s : State) (q : PairStatus), s.m.pair.linkUp = true ∧ (claimOf q.claim).sid = partnerSid s.m.sid ∧ s.m.role = roleACTIVE) ∧
    (∃ (s : State) (q : PairStatus), s.m.pair.linkUp = true ∧ (claimOf q.claim).sid ≠ partnerSid s.m.sid) ∧
    (∃ (s : State), s.m.pair.linkUp = true ∧ s.m.role = roleACTIVE ∧ s.m.pair.swap = none) ∧
    (∃ (s : State) (t : Nat) (u : Nat), s.m.pair.linkUp = false ∧ s.m.pair.retrainAt = some u ∧ s.m.power.good = true ∧ u ≤ (s.m.advance t).clock) ∧
    (∃ (s : State) (t : Nat) (u : Nat), s.m.pair.linkUp = false ∧ s.m.pair.retrainAt = some u ∧ s.m.power.good = true ∧ (s.m.advance t).clock < u) ∧
    (∃ (s : State) (claim : Nat), s.m.role = roleACTIVE ∧ s.m.service ≠ Service.held ∧ higherActive claim (s.m.claimNum roleACTIVE) = true) ∧
    (∃ (s : State) (claim : Nat), (s.m.role ≠ roleACTIVE ∨ higherActive claim (s.m.claimNum roleACTIVE) = false)) :=
  ⟨⟨(st { acvM (fun p => { p with relinquishAt := some 9 }) with service := .held }), 1000009, 9, by decide +kernel⟩,
   ⟨(st { acvM (fun p => { p with relinquishAt := some 9 }) with service := .held }), 1000010, 9, by decide +kernel⟩,
   ⟨(sby 3 id), by decide +kernel⟩,
   ⟨(acv id), (prt 2), by decide +kernel⟩,
   ⟨(acv id), { prt 2 with claim := 0x10302 }, by decide +kernel⟩,
   ⟨(acv id), by decide +kernel⟩,
   ⟨(acv fun p => { p with linkUp := false, retrainAt := some 5 }), 5, 5, by decide +kernel⟩,
   ⟨(acv fun p => { p with linkUp := false, retrainAt := some 5 }), 4, 5, by decide +kernel⟩,
   ⟨(acv id), 0x20401, by decide +kernel⟩,
   ⟨(acv id), 0x400, by decide +kernel⟩⟩

theorem wit_StartUpLoadsAndTestsInOrder :
    (∃ (s : State) (x1 : Nat) (x2 : Nat), s.m.power.good = false ∧ (x1 = 1 ∨ x1 = 2 ∨ x2 = 1 ∨ x2 = 2)) ∧
    (∃ (s : State) (a : Bool) (b : Bool), (s.m.power.good = true ∨ a = false ∨ b = false)) ∧
    (∃ (s : State) (sid : Nat), s.m.power.good = true ∧ sid % 32 ≠ s.m.power.sidRead) ∧
    (∃ (s : State) (claim : Nat), (claimOf claim).sid = s.m.sid ∧ s.m.obx.listenSince.isSome = true ∧ s.m.role ≠ roleACTIVE) ∧
    (∃ (s : State) (claim : Nat), (claimOf claim).sid = s.m.sid ∧ s.m.obx.listenSince.isSome = true ∧ s.m.role = roleACTIVE) ∧
    (∃ (s : State) (t : Nat), s.m.power.good = true ∧ s.m.jade.mode = JadeMode.off ∧ ({ s.m.advance t with jade := s.m.jade.activate } : Mod).imageOk 1 = false ∧ (match (({ s.m.advance t with jade := s.m.jade.activate } : Mod).jade.img 1).fallback with | some b => ({ s.m.advance t with jade := s.m.jade.activate } : Mod).bootOk 1 b | none => false) = false) ∧
    (∃ (s : State), s.m.power.good = true ∧ s.m.jade.mode = JadeMode.off) ∧
    (∃ (s : State), s.m.power.good = true ∧ s.m.jade.mode ≠ JadeMode.romService) ∧
    (∃ (s : State) (p : Proc), s.m.jade.mode = JadeMode.running ∧ s.m.full = true ∧ (∀ (x : Lane), p.lane? = some x → (s.m.lane x).powered = true ∧ (s.m.lane x).heldOut = false) ∧ (s.m.procs.get p = ProcSt.inReset ∨ s.m.procs.get p = ProcSt.mismatch)) ∧
    (∃ (s : State) (p : Proc), s.m.jade.mode = JadeMode.running ∧ s.m.full = true ∧ (∀ (x : Lane), p.lane? = some x → (s.m.lane x).powered = true ∧ (s.m.lane x).heldOut = false) ∧ s.m.procs.get p = ProcSt.inReset) ∧
    (∃ (s : State) (p : Proc), s.m.jade.mode = JadeMode.running ∧ s.m.full = true ∧ (∀ (x : Lane), p.lane? = some x → (s.m.lane x).powered = true ∧ (s.m.lane x).heldOut = false) ∧ s.m.procs.get p = ProcSt.mismatch) ∧
    (∃ (s : State) (p : Proc), p.lane? = none ∧ s.m.procs.get p = ProcSt.running) ∧
    (∃ (s : State) (p : Proc), p.lane? = none ∧ s.m.procs.get p = ProcSt.running) ∧
    (∃ (s : State) (x : Lane), (s.m.lane x).powered = true ∧ (s.m.lane x).released = true ∧ (s.m.lane x).test.selfOk = false ∧ s.m.procs.get (procOf x) = ProcSt.running ∧ s.m.rotation = none) ∧
    (∃ (s : State) (t : Nat) (x : Lane) (g : Finding) (gs : List Finding), (s.m.lane x).powered = true ∧ (s.m.lane x).released = true ∧ (s.m.lane x).test.selfOk = false ∧ s.m.procs.get (procOf x) = ProcSt.running ∧ s.m.rotation = none ∧ repairAll (s.m.lane x).test.fuses (repairEnts (s.m.lane x).mram) 1 ((s.m.advance t).laneTime x / 1000000000 % 2 ^ 32) (g :: gs) = none) ∧
    (∃ (s : State), s.m.service = Service.starting ∧ s.m.power.good = true ∧ s.m.jade.mode = JadeMode.running) :=
  ⟨⟨Machine.State.reset, 1, 0, by decide +kernel⟩,
   ⟨(boot id), true, true, by decide +kernel⟩,
   ⟨(boot id), 35, by decide +kernel⟩,
   ⟨(st { bootM id with obx := { Obx.reset with listenSince := some 3 } }), 0x10400, by decide +kernel⟩,
   ⟨(st { bootM id with role := 4, obx := { Obx.reset with listenSince := some 3 } }), 0x10400, by decide +kernel⟩,
   ⟨(boot id), 5, by decide +kernel, by decide +kernel, by decide +kernel, by decide +kernel⟩,
   ⟨(boot id), by decide +kernel⟩,
   ⟨(boot fun j => { j with restarts := [0, 1, 2], mode := .running }), by decide +kernel⟩,
   ⟨(ldP .laneB .inReset), .laneB, by decide +kernel⟩,
   ⟨(ldP .obxA .inReset), .obxA, by decide +kernel⟩,
   ⟨(ldP .laneC .mismatch), .laneC, by decide +kernel⟩,
   ⟨(ldP .bridge .running), .bridge, by decide +kernel⟩,
   ⟨(ldP .obxB .running), .obxB, by decide +kernel⟩,
   ⟨(tstS tstL), .b, by decide +kernel⟩,
   ⟨(tstS { tstL with test := { tstL.test with fuses := fuse2 } }), 5, .b, fnd, [], by decide +kernel⟩,
   ⟨(strt id), by decide +kernel⟩⟩

theorem wit_LaneTestOperationsTakeEffect :
    (∃ (s : State) (x : Lane) (t : Nat) (target : Nat) (addr : Nat), (s.m.lane x).powered = true ∧ ((List.filter (fun e => e.1 == target && e.2.1 == addr) (List.filter (fun e => decide ((s.m.advance t).clock < e.2.2 + 86400000000000)) (s.m.lane x).test.ecc ++ [(target, addr, (s.m.advance t).clock)])).length < 3)) ∧
    (∃ (s : State) (x : Lane) (t : Nat) (target : Nat) (faddr : Nat) (addr : Nat), (s.m.lane x).powered = true ∧ (3 ≤ (List.filter (fun e => e.1 == target && e.2.1 == addr) (List.filter (fun e => decide ((s.m.advance t).clock < e.2.2 + 86400000000000)) (s.m.lane x).test.ecc ++ [(target, addr, (s.m.advance t).clock)])).length) ∧ (repairEnts (s.m.lane x).mram).length < 256 ∧ (∀ e ∈ repairEnts (s.m.lane x).mram, e.target = target → e.faddr ≠ faddr)) ∧
    (∃ (s : State) (x : Lane), (s.m.lane x).powered = true ∧ s.m.inService = true ∧ (s.m.lane x).voting = true ∧ (s.m.lane x).test.slices.length = 32 ∧ (s.m.lane x).test.incomplete.length = 32) ∧
    (∃ (s : State) (x : Lane), (s.m.lane x).powered = true ∧ BitVec.getLsbD (s.m.lane x).lct.ctrl 0 = true) ∧
    (∃ (s : State) (x : Lane), (s.m.lane x).powered = true ∧ BitVec.getLsbD (s.m.lane x).lct.ctrl 0 = false) ∧
    (∃ (s : State) (x : Lane), (s.m.lane x).powered = true ∧ BitVec.getLsbD (s.m.lane x).lct.ctrl 0 = true) ∧
    (∃ (s : State) (x : Lane), (s.m.lane x).powered = true) :=
  ⟨⟨(all vot), .b, 5, 7, 100, by decide +kernel⟩,
   ⟨(all { vot with test := { vot.test with ecc := [(7, 100, 1), (7, 100, 2)] } }), .b, 86400000000000, 7, 9, 100, by decide +kernel⟩,
   ⟨(st { svc with cycle := 37 }), .b, by decide +kernel⟩,
   ⟨(lct1 3), .b, by decide +kernel⟩,
   ⟨(lct1 2), .b, by decide +kernel⟩,
   ⟨(lct1 1), .b, by decide +kernel⟩,
   ⟨(all { vot with lct := { Lct.reset with errcap := 0x10203 } }), .b, by decide +kernel⟩⟩

theorem wit_RequestsAreTakenOrTurnedAway :
    (∃ (s : State) (tr : Nat), (tr = 1 ∨ tr = 2) ∧ s.m.jade.mode ≠ JadeMode.off ∧ (s.m.jade.conn tr).isOpen = false ∧ s.m.power.sect tr = SectSt.running ∧ (tr = 2 → s.m.power.slotBad = false)) ∧
    (∃ (s : State), s.m.power.slotBad = true) ∧
    (∃ (s : State) (tr : Nat), (tr = 1 ∨ tr = 2) ∧ (s.m.jade.conn tr).isOpen = true ∧ s.m.jade.restart = none) ∧
    (∃ (s : State) (tr : Nat), (tr = 1 ∨ tr = 2) ∧ s.m.connOpen tr = true ∧ s.m.jade.restart = none) ∧
    (∃ (s : State) (tr : Nat) (r : MbResp) (rest : List MbResp), s.m.connOpen tr = true ∧ (s.m.jade.conn tr).jobs = [] ∧ (s.m.jade.conn tr).ready = r :: rest ∧ (s.m.jade.conn tr).written < (s.m.jade.conn tr).rspcons + 256 ∧ s.m.jade.restart = none) ∧
    (∃ (s : State) (tr : Nat) (r : MbResp) (rest : List MbResp), s.m.connOpen tr = true ∧ (s.m.jade.conn tr).jobs = [] ∧ (s.m.jade.conn tr).ready = r :: rest ∧ (s.m.jade.conn tr).rspcons + 256 ≤ (s.m.jade.conn tr).written) ∧
    (∃ (s : State) (code : Nat) (req : MbReq), s.m.connOpen req.tr = true ∧ (s.m.jade.conn req.tr).jobs = [] ∧ cmdInfo code = none ∧ (∀ r ∈ (s.m.jade.conn req.tr).ready, r.tag ≠ req.tag)) ∧
    (∃ (s : State) (code : Nat) (req : MbReq) (r : MbResp), s.m.connOpen req.tr = true ∧ (s.m.jade.conn req.tr).jobs = [] ∧ cmdInfo code = none ∧ r ∈ (s.m.jade.conn req.tr).ready ∧ r.tag = req.tag) ∧
    (∃ (s : State) (req : MbReq), s.m.connOpen req.tr = true ∧ (s.m.jade.conn req.tr).jobs = [] ∧ (∀ r ∈ (s.m.jade.conn req.tr).ready, r.tag ≠ req.tag) ∧ req.partner = true ∧ req.tr = 3 ∧ s.m.jade.mode = JadeMode.running) ∧
    (∃ (s : State) (req : MbReq), s.m.connOpen req.tr = true ∧ (s.m.jade.conn req.tr).jobs = [] ∧ (∀ r ∈ (s.m.jade.conn req.tr).ready, r.tag ≠ req.tag) ∧ req.partner = true ∧ req.tr ≠ 3 ∧ s.m.pair.linkUp = false) ∧
    (∃ (s : State) (req : MbReq) (a : PeerAns), s.m.connOpen req.tr = true ∧ (s.m.jade.conn req.tr).jobs = [] ∧ (∀ r ∈ (s.m.jade.conn req.tr).ready, r.tag ≠ req.tag) ∧ req.partner = true ∧ req.tr ≠ 3 ∧ s.m.pair.linkUp = true ∧ req.peer = some a) ∧
    (∃ (s : State) (req : MbReq), s.m.connOpen req.tr = true ∧ (s.m.jade.conn req.tr).jobs = [] ∧ (∀ r ∈ (s.m.jade.conn req.tr).ready, r.tag ≠ req.tag) ∧ req.partner = true ∧ req.tr ≠ 3 ∧ s.m.pair.linkUp = true ∧ req.peer = none) ∧
    (∃ (s : State) (req : MbReq), s.m.connOpen req.tr = true ∧ (s.m.jade.conn req.tr).jobs = [] ∧ (∀ r ∈ (s.m.jade.conn req.tr).ready, r.tag ≠ req.tag) ∧ req.partner = false ∧ s.m.jade.mode = JadeMode.romService) ∧
    (∃ (s : State) (req : MbReq), s.m.connOpen req.tr = true ∧ (s.m.jade.conn req.tr).jobs = [] ∧ (∀ r ∈ (s.m.jade.conn req.tr).ready, r.tag ≠ req.tag) ∧ req.partner = false ∧ s.m.jade.mode = JadeMode.running ∧ s.m.jade.lc ≠ LcState.lab) ∧
    (∃ (s : State) (req : MbReq), s.m.connOpen req.tr = true ∧ (s.m.jade.conn req.tr).jobs = [] ∧ (∀ r ∈ (s.m.jade.conn req.tr).ready, r.tag ≠ req.tag) ∧ req.partner = false ∧ s.m.jade.mode = JadeMode.running ∧ req.tr = 3) ∧
    (∃ (s : State) (req : MbReq), s.m.connOpen req.tr = true ∧ (s.m.jade.conn req.tr).jobs = [] ∧ (∀ r ∈ (s.m.jade.conn req.tr).ready, r.tag ≠ req.tag) ∧ req.partner = false ∧ s.m.jade.mode = JadeMode.running ∧ req.tr ≠ 3 ∧ s.m.jade.lc ≠ LcState.retired ∧ s.m.inService = false) ∧
    (∃ (s : State) (tr : Nat) (t : Nat) (k : MbJob), (s.m.jade.conn tr).jobs = [k] ∧ k.forwarded = true ∧ k.started = true ∧ k.req.tr = tr ∧ k.lost = false ∧ (tr = 1 ∨ tr = 2 ∨ tr = 3) ∧ k.since + 2000000000 ≤ (s.m.advance t).clock) ∧
    (∃ (s : State) (tr : Nat) (t : Nat) (k : MbJob), (s.m.jade.conn tr).jobs = [k] ∧ k.forwarded = true ∧ k.started = true ∧ k.req.tr = tr ∧ k.lost = false ∧ (tr = 1 ∨ tr = 2 ∨ tr = 3) ∧ (s.m.advance t).clock < k.since + 2000000000) ∧
    (∃ (s : State) (t : Nat) (e : Session), s.m.jade.session = some e ∧ e.lastAt + 600000000000 ≤ (s.m.advance t).clock) ∧
    (∃ (s : State) (t : Nat) (e : Session), s.m.jade.session = some e ∧ (s.m.advance t).clock < e.lastAt + 600000000000) ∧
    (∃ (s : State) (tr : Nat) (t : Nat) (r : Report), s.m.jade.reports.find tr = some r ∧ r.at' + 600000000000 ≤ (s.m.advance t).clock) ∧
    (∃ (s : State) (t : Nat) (r : RestartReq) (u : Nat), s.m.jade.restart = some r ∧ r.sentAt = some u ∧ u + 100000000 ≤ (s.m.advance t).clock) ∧
    (∃ (s : State) (t : Nat) (r : RestartReq) (u : Nat), s.m.jade.restart = some r ∧ r.sentAt = some u ∧ (s.m.advance t).clock < u + 100000000) ∧
    (∃ (s : State) (t : Nat), s.m.confirm.lockUntil ≠ 0 ∧ s.m.confirm.lockUntil ≤ (s.m.advance t).clock) ∧
    (∃ (s : State) (t : Nat), s.m.confirm.lockUntil ≠ 0 ∧ (s.m.advance t).clock < s.m.confirm.lockUntil) :=
  ⟨⟨(mbj fun j => { j with conn1 := MbConn.reset }), 1, by decide +kernel⟩,
   ⟨(st { mb .operate with power := { pwrOn with slotBad := true } }), by decide +kernel⟩,
   ⟨(mbj fun j => { j with conn1 := { conn1 with jobs := [job0], ready := [rsp0] } }), 1, by decide +kernel⟩,
   ⟨(st (mb .operate)), 1, by decide +kernel⟩,
   ⟨(mbj fun j => { j with conn1 := { conn1 with written := 255, ready := [rsp0] } }), 1, rsp0, [], by decide +kernel⟩,
   ⟨(mbj fun j => { j with conn1 := { conn1 with written := 256, ready := [rsp0] } }), 1, rsp0, [], by decide +kernel⟩,
   ⟨(st (mb .operate)), 0xFFFF, (rq []), by decide +kernel⟩,
   ⟨(mbj fun j => { j with conn1 := { conn1 with ready := [rsp0] } }), 0, (rq []), rsp0, by decide +kernel⟩,
   ⟨(st { mb .operate with pair := { Pair.reset with linkUp := true } }), { rqT 3 [] with partner := true }, by decide +kernel⟩,
   ⟨(st (mb .operate)), { rq [] with partner := true }, by decide +kernel⟩,
   ⟨(st { mb .operate with pair := { Pair.reset with linkUp := true } }), { rq [] with partner := true, peer := some ⟨0, 0, [1]⟩ }, ⟨0, 0, [1]⟩, by decide +kernel⟩,
   ⟨(st { mb .operate with pair := { Pair.reset with linkUp := true } }), { rq [] with partner := true }, by decide +kernel⟩,
   ⟨(mbj fun j => { j with mode := .romService }), (rq []), by decide +kernel⟩,
   ⟨(st (mb .operate)), (rq []), by decide +kernel⟩,
   ⟨(st { mb .operate with pair := { Pair.reset with linkUp := true } }), (rqT 3 []), by decide +kernel⟩,
   ⟨(st { mb .operate with service := .held }), (rq []), by decide +kernel⟩,
   ⟨(mbj fun j => { j with conn1 := { conn1 with jobs := [job0] } }), 1, 2000000000, job0, by decide +kernel⟩,
   ⟨(mbj fun j => { j with conn1 := { conn1 with jobs := [job0] } }), 1, 1999999999, job0, by decide +kernel⟩,
   ⟨(mbj fun j => { j with session := some ses0 }), 600000000000, ses0, by decide +kernel⟩,
   ⟨(mbj fun j => { j with session := some ses0 }), 599999999999, ses0, by decide +kernel⟩,
   ⟨(mbj fun j => { j with reports := [(1, rep0)] }), 1, 600000000000, rep0, by decide +kernel⟩,
   ⟨(mbj fun j => { j with restart := some ⟨2, 1, 5, some 0⟩ }), 100000000, ⟨2, 1, 5, some 0⟩, 0, by decide +kernel⟩,
   ⟨(mbj fun j => { j with restart := some ⟨2, 1, 5, some 0⟩ }), 99999999, ⟨2, 1, 5, some 0⟩, 0, by decide +kernel⟩,
   ⟨(st { mb .operate with confirm := ⟨3, 9⟩ }), 9, by decide +kernel⟩,
   ⟨(st { mb .operate with confirm := ⟨3, 9⟩ }), 8, by decide +kernel⟩⟩

theorem wit_ReadCommandsAnswerTheirRecords :
    (∃ (s : State) (req : MbReq), req.payload = [] ∧ s.m.connOpen req.tr = true ∧ (s.m.jade.conn req.tr).jobs = [] ∧ (∀ r ∈ (s.m.jade.conn req.tr).ready, r.tag ≠ req.tag) ∧ req.partner = false ∧ req.rsv = false ∧ (req.session = 0 ∨ 770 ≤ 257 ∧ 257 ≤ 774) ∧ (Option.any (fun i => s.m.turnAway i req.tr == 0) (cmdInfo 257) = true) ∧ (req.session = 0 ∨ 770 ≤ 258 ∧ 258 ≤ 774) ∧ (Option.any (fun i => s.m.turnAway i req.tr == 0) (cmdInfo 258) = true) ∧ (req.session = 0 ∨ 770 ≤ 261 ∧ 261 ≤ 774) ∧ (Option.any (fun i => s.m.turnAway i req.tr == 0) (cmdInfo 261) = true) ∧ (req.session = 0 ∨ 770 ≤ 513 ∧ 513 ≤ 774) ∧ (Option.any (fun i => s.m.turnAway i req.tr == 0) (cmdInfo 513) = true) ∧ (req.session = 0 ∨ 770 ≤ 774 ∧ 774 ≤ 774) ∧ (Option.any (fun i => s.m.turnAway i req.tr == 0) (cmdInfo 774) = true) ∧ s.m.jade.session = none ∧ (req.session = 0 ∨ 770 ≤ 1282 ∧ 1282 ≤ 774) ∧ (Option.any (fun i => s.m.turnAway i req.tr == 0) (cmdInfo 1282) = true) ∧ (req.session = 0 ∨ 770 ≤ 1537 ∧ 1537 ≤ 774) ∧ (Option.any (fun i => s.m.turnAway i req.tr == 0) (cmdInfo 1537) = true) ∧ (req.session = 0 ∨ 770 ≤ 1793 ∧ 1793 ≤ 774) ∧ (Option.any (fun i => s.m.turnAway i req.tr == 0) (cmdInfo 1793) = true) ∧ (req.session = 0 ∨ 770 ≤ 1804 ∧ 1804 ≤ 774) ∧ (Option.any (fun i => s.m.turnAway i req.tr == 0) (cmdInfo 1804) = true) ∧ s.m.full = true ∧ (req.session = 0 ∨ 770 ≤ 2305 ∧ 2305 ≤ 774) ∧ (Option.any (fun i => s.m.turnAway i req.tr == 0) (cmdInfo 2305) = true)) ∧
    (∃ (s : State) (req : MbReq), req.payload ≠ [] ∧ s.m.connOpen req.tr = true ∧ (s.m.jade.conn req.tr).jobs = [] ∧ (∀ r ∈ (s.m.jade.conn req.tr).ready, r.tag ≠ req.tag) ∧ req.partner = false ∧ req.rsv = false ∧ (req.session = 0 ∨ 770 ≤ 257 ∧ 257 ≤ 774) ∧ (Option.any (fun i => s.m.turnAway i req.tr == 0) (cmdInfo 257) = true)) ∧
    (∃ (s : State) (req : MbReq), s.m.connOpen req.tr = true ∧ (s.m.jade.conn req.tr).jobs = [] ∧ (∀ r ∈ (s.m.jade.conn req.tr).ready, r.tag ≠ req.tag) ∧ req.partner = false ∧ req.rsv = false ∧ (req.session = 0 ∨ 770 ≤ 260 ∧ 260 ≤ 774) ∧ (Option.any (fun i => s.m.turnAway i req.tr == 0) (cmdInfo 260) = true) ∧ List.length req.payload = 12 ∧ s.m.jade.reports.find req.tr = none) ∧
    (∃ (s : State) (req : MbReq) (t : Nat) (r : Report), s.m.connOpen req.tr = true ∧ (s.m.jade.conn req.tr).jobs = [] ∧ (∀ r ∈ (s.m.jade.conn req.tr).ready, r.tag ≠ req.tag) ∧ req.partner = false ∧ req.rsv = false ∧ (req.session = 0 ∨ 770 ≤ 260 ∧ 260 ≤ 774) ∧ (Option.any (fun i => s.m.turnAway i req.tr == 0) (cmdInfo 260) = true) ∧ List.length req.payload = 12 ∧ s.m.jade.reports.find req.tr = some r ∧ r.rid = Bytes.le req.payload 0 4 ∧ (s.m.advance t).clock < r.at' + 600000000000 ∧ Bytes.le req.payload 8 2 ≤ 4032 ∧ Bytes.le req.payload 10 2 = 0 ∧ Bytes.le req.payload 4 4 + Bytes.le req.payload 8 2 ≤ 11479) ∧
    (∃ (s : State) (req : MbReq) (t : Nat) (r : Report), s.m.connOpen req.tr = true ∧ (s.m.jade.conn req.tr).jobs = [] ∧ (∀ r ∈ (s.m.jade.conn req.tr).ready, r.tag ≠ req.tag) ∧ req.partner = false ∧ req.rsv = false ∧ (req.session = 0 ∨ 770 ≤ 260 ∧ 260 ≤ 774) ∧ (Option.any (fun i => s.m.turnAway i req.tr == 0) (cmdInfo 260) = true) ∧ List.length req.payload = 12 ∧ s.m.jade.reports.find req.tr = some r ∧ r.rid = Bytes.le req.payload 0 4 ∧ (s.m.advance t).clock < r.at' + 600000000000 ∧ (4032 < Bytes.le req.payload 8 2 ∨ 11479 < Bytes.le req.payload 4 4 + Bytes.le req.payload 8 2)) ∧
    (∃ (s : State) (req : MbReq) (e : Session), req.payload = [] ∧ s.m.connOpen req.tr = true ∧ (s.m.jade.conn req.tr).jobs = [] ∧ (∀ r ∈ (s.m.jade.conn req.tr).ready, r.tag ≠ req.tag) ∧ req.partner = false ∧ req.rsv = false ∧ (req.session = 0 ∨ 770 ≤ 774 ∧ 774 ≤ 774) ∧ (Option.any (fun i => s.m.turnAway i req.tr == 0) (cmdInfo 774) = true) ∧ s.m.jade.session = some e) ∧
    (∃ (s : State) (req : MbReq) (b : Blob), s.m.connOpen req.tr = true ∧ (s.m.jade.conn req.tr).jobs = [] ∧ (∀ r ∈ (s.m.jade.conn req.tr).ready, r.tag ≠ req.tag) ∧ req.partner = false ∧ req.rsv = false ∧ (req.session = 0 ∨ 770 ≤ 775 ∧ 775 ≤ 774) ∧ (Option.any (fun i => s.m.turnAway i req.tr == 0) (cmdInfo 775) = true) ∧ List.length req.payload = 4 ∧ 1 ≤ Bytes.le req.payload 0 1 ∧ Bytes.le req.payload 0 1 ≤ 8 ∧ Bytes.le req.payload 1 1 = 0 ∧ Bytes.le req.payload 2 2 = 0 ∧ (s.m.jade.img (Bytes.le req.payload 0 1)).running = some b) ∧
    (∃ (s : State) (req : MbReq), s.m.connOpen req.tr = true ∧ (s.m.jade.conn req.tr).jobs = [] ∧ (∀ r ∈ (s.m.jade.conn req.tr).ready, r.tag ≠ req.tag) ∧ req.partner = false ∧ req.rsv = false ∧ (req.session = 0 ∨ 770 ≤ 775 ∧ 775 ≤ 774) ∧ (Option.any (fun i => s.m.turnAway i req.tr == 0) (cmdInfo 775) = true) ∧ List.length req.payload = 4 ∧ 1 ≤ Bytes.le req.payload 0 1 ∧ Bytes.le req.payload 0 1 ≤ 8 ∧ Bytes.le req.payload 1 1 = 0 ∧ Bytes.le req.payload 2 2 = 0 ∧ (s.m.jade.img (Bytes.le req.payload 0 1)).running = none) ∧
    (∃ (s : State) (req : MbReq), s.m.connOpen req.tr = true ∧ (s.m.jade.conn req.tr).jobs = [] ∧ (∀ r ∈ (s.m.jade.conn req.tr).ready, r.tag ≠ req.tag) ∧ req.partner = false ∧ req.rsv = false ∧ (req.session = 0 ∨ 770 ≤ 776 ∧ 776 ≤ 774) ∧ (Option.any (fun i => s.m.turnAway i req.tr == 0) (cmdInfo 776) = true) ∧ List.length req.payload = 8 ∧ (s.m.lane s.m.reader).rt.result = none) ∧
    (∃ (s : State) (req : MbReq) (r : ChangeResult), s.m.connOpen req.tr = true ∧ (s.m.jade.conn req.tr).jobs = [] ∧ (∀ r ∈ (s.m.jade.conn req.tr).ready, r.tag ≠ req.tag) ∧ req.partner = false ∧ req.rsv = false ∧ (req.session = 0 ∨ 770 ≤ 776 ∧ 776 ≤ 774) ∧ (Option.any (fun i => s.m.turnAway i req.tr == 0) (cmdInfo 776) = true) ∧ List.length req.payload = 8 ∧ (s.m.lane s.m.reader).rt.result = some r ∧ Bytes.le req.payload 4 2 ≤ 4032 ∧ Bytes.le req.payload 6 2 = 0 ∧ Bytes.le req.payload 0 4 + Bytes.le req.payload 4 2 ≤ List.length r.bytes) ∧
    (∃ (s : State) (req : MbReq) (i : Nat × Bool × List LcState), s.m.connOpen req.tr = true ∧ (s.m.jade.conn req.tr).jobs = [] ∧ (∀ r ∈ (s.m.jade.conn req.tr).ready, r.tag ≠ req.tag) ∧ req.partner = false ∧ req.rsv = false ∧ (req.session = 0 ∨ 770 ≤ 1025 ∧ 1025 ≤ 774) ∧ (Option.any (fun i => s.m.turnAway i req.tr == 0) (cmdInfo 1025) = true) ∧ List.length req.payload = 4 ∧ Bytes.le req.payload 2 2 = 0 ∧ settingInfo (Bytes.le req.payload 0 2) = some i) ∧
    (∃ (s : State) (req : MbReq), s.m.connOpen req.tr = true ∧ (s.m.jade.conn req.tr).jobs = [] ∧ (∀ r ∈ (s.m.jade.conn req.tr).ready, r.tag ≠ req.tag) ∧ req.partner = false ∧ req.rsv = false ∧ (req.session = 0 ∨ 770 ≤ 1025 ∧ 1025 ≤ 774) ∧ (Option.any (fun i => s.m.turnAway i req.tr == 0) (cmdInfo 1025) = true) ∧ List.length req.payload = 4 ∧ Bytes.le req.payload 2 2 = 0 ∧ settingInfo (Bytes.le req.payload 0 2) = none) ∧
    (∃ (s : State) (req : MbReq), s.m.connOpen req.tr = true ∧ (s.m.jade.conn req.tr).jobs = [] ∧ (∀ r ∈ (s.m.jade.conn req.tr).ready, r.tag ≠ req.tag) ∧ req.partner = false ∧ req.rsv = false ∧ (req.session = 0 ∨ 770 ≤ 1027 ∧ 1027 ≤ 774) ∧ (Option.any (fun i => s.m.turnAway i req.tr == 0) (cmdInfo 1027) = true) ∧ s.m.full = false) ∧
    (∃ (s : State) (req : MbReq), s.m.connOpen req.tr = true ∧ (s.m.jade.conn req.tr).jobs = [] ∧ (∀ r ∈ (s.m.jade.conn req.tr).ready, r.tag ≠ req.tag) ∧ req.partner = false ∧ req.rsv = false ∧ (req.session = 0 ∨ 770 ≤ 1027 ∧ 1027 ≤ 774) ∧ (Option.any (fun i => s.m.turnAway i req.tr == 0) (cmdInfo 1027) = true) ∧ s.m.full = true ∧ List.length req.payload = 4 ∧ Bytes.le req.payload 0 2 ≤ 1728 ∧ Bytes.le req.payload 2 2 = 0) ∧
    (∃ (s : State) (req : MbReq), s.m.connOpen req.tr = true ∧ (s.m.jade.conn req.tr).jobs = [] ∧ (∀ r ∈ (s.m.jade.conn req.tr).ready, r.tag ≠ req.tag) ∧ req.partner = false ∧ req.rsv = false ∧ (req.session = 0 ∨ 770 ≤ 1538 ∧ 1538 ≤ 774) ∧ (Option.any (fun i => s.m.turnAway i req.tr == 0) (cmdInfo 1538) = true) ∧ List.length req.payload = 8 ∧ Bytes.le req.payload 5 1 = 0 ∧ (Bytes.le req.payload 4 1 = 0 ∨ 63 < Bytes.le req.payload 4 1)) ∧
    (∃ (s : State) (req : MbReq), s.m.connOpen req.tr = true ∧ (s.m.jade.conn req.tr).jobs = [] ∧ (∀ r ∈ (s.m.jade.conn req.tr).ready, r.tag ≠ req.tag) ∧ req.partner = false ∧ req.rsv = false ∧ (req.session = 0 ∨ 770 ≤ 1538 ∧ 1538 ≤ 774) ∧ (Option.any (fun i => s.m.turnAway i req.tr == 0) (cmdInfo 1538) = true) ∧ List.length req.payload = 8 ∧ Bytes.le req.payload 5 1 = 0 ∧ 1 ≤ Bytes.le req.payload 4 1 ∧ Bytes.le req.payload 4 1 ≤ 63 ∧ s.m.amber.count = 0 ∧ seqLater s.m.amber.oldest (Bytes.le req.payload 0 4) = false) ∧
    (∃ (s : State) (req : MbReq) (x : Lane), s.m.connOpen req.tr = true ∧ (s.m.jade.conn req.tr).jobs = [] ∧ (∀ r ∈ (s.m.jade.conn req.tr).ready, r.tag ≠ req.tag) ∧ req.partner = false ∧ req.rsv = false ∧ (req.session = 0 ∨ 770 ≤ 1794 ∧ 1794 ≤ 774) ∧ (Option.any (fun i => s.m.turnAway i req.tr == 0) (cmdInfo 1794) = true) ∧ List.length req.payload = 4 ∧ laneOf (Bytes.le req.payload 0 1) = some x ∧ Bytes.le req.payload 1 1 ≤ 31 ∧ Bytes.le req.payload 2 2 = 0) ∧
    (∃ (s : State) (req : MbReq) (x : Lane), s.m.connOpen req.tr = true ∧ (s.m.jade.conn req.tr).jobs = [] ∧ (∀ r ∈ (s.m.jade.conn req.tr).ready, r.tag ≠ req.tag) ∧ req.partner = false ∧ req.rsv = false ∧ (req.session = 0 ∨ 770 ≤ 1796 ∧ 1796 ≤ 774) ∧ (Option.any (fun i => s.m.turnAway i req.tr == 0) (cmdInfo 1796) = true) ∧ List.length req.payload = 4 ∧ laneOf (Bytes.le req.payload 0 1) = some x ∧ repairBytes (s.m.lane x).mram = none) ∧
    (∃ (s : State) (req : MbReq) (x : Lane) (b : Bytes), s.m.connOpen req.tr = true ∧ (s.m.jade.conn req.tr).jobs = [] ∧ (∀ r ∈ (s.m.jade.conn req.tr).ready, r.tag ≠ req.tag) ∧ req.partner = false ∧ req.rsv = false ∧ (req.session = 0 ∨ 770 ≤ 1796 ∧ 1796 ≤ 774) ∧ (Option.any (fun i => s.m.turnAway i req.tr == 0) (cmdInfo 1796) = true) ∧ List.length req.payload = 4 ∧ laneOf (Bytes.le req.payload 0 1) = some x ∧ repairBytes (s.m.lane x).mram = some b ∧ Bytes.le req.payload 1 1 = 0 ∧ Bytes.le req.payload 2 2 ≤ List.length b) ∧
    (∃ (s : State) (req : MbReq), s.m.connOpen req.tr = true ∧ (s.m.jade.conn req.tr).jobs = [] ∧ (∀ r ∈ (s.m.jade.conn req.tr).ready, r.tag ≠ req.tag) ∧ req.partner = false ∧ req.rsv = false ∧ (req.session = 0 ∨ 770 ≤ 1803 ∧ 1803 ≤ 774) ∧ (Option.any (fun i => s.m.turnAway i req.tr == 0) (cmdInfo 1803) = true) ∧ List.length req.payload = 4 ∧ 1 ≤ Bytes.le req.payload 0 2 ∧ Bytes.le req.payload 2 2 ≤ 1000 ∧ Bytes.le req.payload 0 2 + Bytes.le req.payload 2 2 ≤ 1001) ∧
    (∃ (s : State) (req : MbReq), s.m.connOpen req.tr = true ∧ (s.m.jade.conn req.tr).jobs = [] ∧ (∀ r ∈ (s.m.jade.conn req.tr).ready, r.tag ≠ req.tag) ∧ req.partner = false ∧ req.rsv = false ∧ (req.session = 0 ∨ 770 ≤ 1804 ∧ 1804 ≤ 774) ∧ (Option.any (fun i => s.m.turnAway i req.tr == 0) (cmdInfo 1804) = true) ∧ s.m.full = false) ∧
    (∃ (s : State) (req : MbReq), s.m.ph ≠ CyclePh.idle ∧ s.m.connOpen req.tr = true ∧ (s.m.jade.conn req.tr).jobs = [] ∧ (∀ r ∈ (s.m.jade.conn req.tr).ready, r.tag ≠ req.tag) ∧ req.partner = false ∧ req.rsv = false ∧ (req.session = 0 ∨ 770 ≤ 2049 ∧ 2049 ≤ 774) ∧ (Option.any (fun i => s.m.turnAway i req.tr == 0) (cmdInfo 2049) = true) ∧ List.length req.payload = 4 ∧ Bytes.le req.payload 2 2 = 0) ∧
    (∃ (s : State) (req : MbReq), s.m.ph = CyclePh.idle ∧ s.m.connOpen req.tr = true ∧ (s.m.jade.conn req.tr).jobs = [] ∧ (∀ r ∈ (s.m.jade.conn req.tr).ready, r.tag ≠ req.tag) ∧ req.partner = false ∧ req.rsv = false ∧ (req.session = 0 ∨ 770 ≤ 2049 ∧ 2049 ≤ 774) ∧ (Option.any (fun i => s.m.turnAway i req.tr == 0) (cmdInfo 2049) = true) ∧ List.length req.payload = 4 ∧ Bytes.le req.payload 2 2 = 0 ∧ (s.m.lane s.m.reader).rt.forces = []) ∧
    (∃ (s : State) (req : MbReq) (v : Nat), s.m.ph = CyclePh.idle ∧ s.m.connOpen req.tr = true ∧ (s.m.jade.conn req.tr).jobs = [] ∧ (∀ r ∈ (s.m.jade.conn req.tr).ready, r.tag ≠ req.tag) ∧ req.partner = false ∧ req.rsv = false ∧ (req.session = 0 ∨ 770 ≤ 2050 ∧ 2050 ≤ 774) ∧ (Option.any (fun i => s.m.turnAway i req.tr == 0) (cmdInfo 2050) = true) ∧ Bytes.le req.payload 0 2 = 1 ∧ List.length req.payload = 8 ∧ Bytes.le req.payload 2 2 = 0 ∧ (s.m.lane s.m.reader).varValue (Bytes.le req.payload 4 4) = some v) ∧
    (∃ (s : State) (req : MbReq), s.m.ph = CyclePh.idle ∧ s.m.connOpen req.tr = true ∧ (s.m.jade.conn req.tr).jobs = [] ∧ (∀ r ∈ (s.m.jade.conn req.tr).ready, r.tag ≠ req.tag) ∧ req.partner = false ∧ req.rsv = false ∧ (req.session = 0 ∨ 770 ≤ 2050 ∧ 2050 ≤ 774) ∧ (Option.any (fun i => s.m.turnAway i req.tr == 0) (cmdInfo 2050) = true) ∧ Bytes.le req.payload 0 2 = 1 ∧ List.length req.payload = 8 ∧ Bytes.le req.payload 2 2 = 0 ∧ (s.m.lane s.m.reader).varValue (Bytes.le req.payload 4 4) = none) ∧
    (∃ (s : State) (req : MbReq), s.m.ph = CyclePh.idle ∧ s.m.connOpen req.tr = true ∧ (s.m.jade.conn req.tr).jobs = [] ∧ (∀ r ∈ (s.m.jade.conn req.tr).ready, r.tag ≠ req.tag) ∧ req.partner = false ∧ req.rsv = false ∧ (req.session = 0 ∨ 770 ≤ 2051 ∧ 2051 ≤ 774) ∧ (Option.any (fun i => s.m.turnAway i req.tr == 0) (cmdInfo 2051) = true) ∧ List.length req.payload = 4 ∧ Bytes.le req.payload 1 3 = 0 ∧ Bytes.le req.payload 0 1 < 32) ∧
    (∃ (s : State) (req : MbReq), s.m.ph = CyclePh.idle ∧ s.m.connOpen req.tr = true ∧ (s.m.jade.conn req.tr).jobs = [] ∧ (∀ r ∈ (s.m.jade.conn req.tr).ready, r.tag ≠ req.tag) ∧ req.partner = false ∧ req.rsv = false ∧ (req.session = 0 ∨ 770 ≤ 2051 ∧ 2051 ≤ 774) ∧ (Option.any (fun i => s.m.turnAway i req.tr == 0) (cmdInfo 2051) = true) ∧ List.length req.payload = 4 ∧ Bytes.le req.payload 1 3 = 0 ∧ 128 ≤ Bytes.le req.payload 0 1 ∧ Bytes.le req.payload 0 1 ≤ 143) ∧
    (∃ (s : State) (req : MbReq) (q : PairStatus), req.payload = [] ∧ s.m.connOpen req.tr = true ∧ (s.m.jade.conn req.tr).jobs = [] ∧ (∀ r ∈ (s.m.jade.conn req.tr).ready, r.tag ≠ req.tag) ∧ req.partner = false ∧ req.rsv = false ∧ (req.session = 0 ∨ 770 ≤ 2561 ∧ 2561 ≤ 774) ∧ (Option.any (fun i => s.m.turnAway i req.tr == 0) (cmdInfo 2561) = true) ∧ s.m.pair.partner = some q) :=
  ⟨⟨(st (mb .operate)), (rq []), by decide +kernel⟩,
   ⟨(st (mb .operate)), (rq [0]), by decide +kernel⟩,
   ⟨(st (mb .operate)), (rq [7,0,0,0,0,0,0,0,1,0,0,0]), by decide +kernel⟩,
   ⟨(mbj fun j => { j with reports := [(1, rep0)] }), (rq [7,0,0,0, 0x17,0x1D,0,0, 0xC0,0x0F,0,0]), 5, rep0, by decide +kernel⟩,
   ⟨(mbj fun j => { j with reports := [(1, rep0)] }), (rq [7,0,0,0, 0x18,0x1D,0,0, 0xC0,0x0F,0,0]), 5, rep0, by decide +kernel⟩,
   ⟨(mbj fun j => { j with session := some ses0 }), (rq []), ses0, by decide +kernel⟩,
   ⟨(mbj fun j => { j with imgs := [(5, ⟨some img0, none, none, 0⟩)] }), (rq [5,0,0,0]), img0, by decide +kernel⟩,
   ⟨(st (mb .operate)), (rq [8,0,0,0]), by decide +kernel⟩,
   ⟨(st (mb .operate)), (rq [0,0,0,0,0,0,0,0]), by decide +kernel⟩,
   ⟨(st { mb .operate with lanes := PerLane.const { vot with rt := { vot.rt with result := some chg0 } } }), (rq [0,0,0,0,8,0,0,0]), chg0, by decide +kernel⟩,
   ⟨(st (mb .operate)), (rq [1,0,0,0]), (4, false, [.commission]), by decide +kernel⟩,
   ⟨(st (mb .operate)), (rq [5,0,0,0]), by decide +kernel⟩,
   ⟨(st { mb .operate with full := false }), (rq [0,0,0,0]), by decide +kernel⟩,
   ⟨(st (mb .operate)), (rq [0xC0,6,0,0]), by decide +kernel⟩,
   ⟨(st (mb .operate)), (rq [0,0,0,0,64,0,0,0]), by decide +kernel⟩,
   ⟨(st (mb .operate)), (rq [0,0,0,0,63,0,0xFF,0xFF]), by decide +kernel⟩,
   ⟨(st (mb .operate)), (rq [2,31,0,0]), .c, by decide +kernel⟩,
   ⟨(st { mb .operate with lanes := PerLane.const { vot with mram := Mem.wr [] 0x410000 2 0x1FF } }), (rq [1,0,0,0]), .b, by decide +kernel⟩,
   ⟨(st { mb .operate with lanes := PerLane.const { vot with mram := repairWrite [] [] } }), (rq [1,0,64,0]), .b, ((repairBytes (repairWrite [] [])).getD []), by decide +kernel⟩,
   ⟨(st (mb .operate)), (rq [1,0,0xE8,3]), by decide +kernel⟩,
   ⟨(st { mb .operate with full := false }), (rq []), by decide +kernel⟩,
   ⟨(st { mb .operate with ph := .run }), (rq [0,0,0,0]), by decide +kernel⟩,
   ⟨(st (mb .operate)), (rq [0,0,0,0]), by decide +kernel⟩,
   ⟨(st { mb .operate with lanes := PerLane.const { vot with img := some img0 } }), (rq [1,0,0,0,7,0,0,0]), 0, by decide +kernel⟩,
   ⟨(st { mb .operate with lanes := PerLane.const { vot with img := some img0 } }), (rq [1,0,0,0,8,0,0,0]), by decide +kernel⟩,
   ⟨(st (mb .operate)), (rq [31,0,0,0]), by decide +kernel⟩,
   ⟨(st (mb .operate)), (rq [0x8F,0,0,0]), by decide +kernel⟩,
   ⟨(st { mb .operate with pair := { Pair.reset with partner := some peer0 } }), (rq []), peer0, by decide +kernel⟩⟩

set_option maxRecDepth 8192 in
theorem wit_ActingCommandsChangeWhatTheyName :
    (∃ (s : State) (req : MbReq), s.m.connOpen req.tr = true ∧ (s.m.jade.conn req.tr).jobs = [] ∧ (∀ r ∈ (s.m.jade.conn req.tr).ready, r.tag ≠ req.tag) ∧ req.partner = false ∧ req.rsv = false ∧ (req.session = 0 ∨ 770 ≤ 259 ∧ 259 ≤ 774) ∧ (Option.any (fun i => s.m.turnAway i req.tr == 0) (cmdInfo 259) = true) ∧ List.length req.payload = 32) ∧
    (∃ (s : State) (req : MbReq) (e : Session), s.m.connOpen req.tr = true ∧ (s.m.jade.conn req.tr).jobs = [] ∧ (∀ r ∈ (s.m.jade.conn req.tr).ready, r.tag ≠ req.tag) ∧ req.partner = false ∧ req.rsv = false ∧ (req.session = 0 ∨ 770 ≤ 514 ∧ 514 ≤ 774) ∧ (Option.any (fun i => s.m.turnAway i req.tr == 0) (cmdInfo 514) = true) ∧ List.length req.payload = 52 ∧ s.m.jade.session = some e) ∧
    (∃ (s : State) (req : MbReq) (t : Nat) (target : LcState) (k : Token) (op : Bool) (st : Bool), s.m.connOpen req.tr = true ∧ (s.m.jade.conn req.tr).jobs = [] ∧ (∀ r ∈ (s.m.jade.conn req.tr).ready, r.tag ≠ req.tag) ∧ req.partner = false ∧ req.rsv = false ∧ (req.session = 0 ∨ 770 ≤ 514 ∧ 514 ≤ 774) ∧ (Option.any (fun i => s.m.turnAway i req.tr == 0) (cmdInfo 514) = true) ∧ List.length req.payload = 52 ∧ s.m.jade.session = none ∧ lcOf (Bytes.le req.payload 0 1) = some target ∧ Bytes.le req.payload 1 3 = 0 ∧ s.m.jade.lc ≠ LcState.retired ∧ (List.find? (fun k => k.digest == Bytes.sub req.payload 4 48 && decide ((s.m.advance t).clock < k.at' + 600000000000)) s.m.jade.tokens = some k) ∧ k.names serialNo s.m.jade.lcCount = true ∧ k.kind = 1 ∧ k.target = target.code ∧ k.rootsel = 3 ∧ op = true ∧ (List.find? (fun r => r.1 == s.m.jade.lc && r.2.1 == target) lcTable = some (s.m.jade.lc, target, op, st, true)) ∧ k.from' = s.m.jade.lc.code ∧ s.m.inService = true ∧ s.m.role ≠ roleHOT ∧ (s.m.role = roleACTIVE → s.m.pair.partnerHot = false) ∧ (target = LcState.operate → s.m.operateBar = 0)) ∧
    (∃ (s : State) (req : MbReq) (t : Nat) (target : LcState) (k : Token) (op : Bool) (st : Bool), s.m.connOpen req.tr = true ∧ (s.m.jade.conn req.tr).jobs = [] ∧ (∀ r ∈ (s.m.jade.conn req.tr).ready, r.tag ≠ req.tag) ∧ req.partner = false ∧ req.rsv = false ∧ (req.session = 0 ∨ 770 ≤ 514 ∧ 514 ≤ 774) ∧ (Option.any (fun i => s.m.turnAway i req.tr == 0) (cmdInfo 514) = true) ∧ List.length req.payload = 52 ∧ s.m.jade.session = none ∧ lcOf (Bytes.le req.payload 0 1) = some target ∧ Bytes.le req.payload 1 3 = 0 ∧ s.m.jade.lc ≠ LcState.retired ∧ (List.find? (fun k => k.digest == Bytes.sub req.payload 4 48 && decide ((s.m.advance t).clock < k.at' + 600000000000)) s.m.jade.tokens = some k) ∧ k.names serialNo s.m.jade.lcCount = true ∧ k.kind = 1 ∧ k.target = target.code ∧ k.rootsel = 3 ∧ op = true ∧ (List.find? (fun r => r.1 == s.m.jade.lc && r.2.1 == target) lcTable = some (s.m.jade.lc, target, op, st, false)) ∧ k.from' = s.m.jade.lc.code ∧ target ≠ LcState.operate ∧ (s.m.jade.lc = LcState.operate → s.m.service = Service.held)) ∧
    (∃ (s : State) (req : MbReq) (t : Nat) (target : LcState) (k : Token) (op : Bool), s.m.connOpen req.tr = true ∧ (s.m.jade.conn req.tr).jobs = [] ∧ (∀ r ∈ (s.m.jade.conn req.tr).ready, r.tag ≠ req.tag) ∧ req.partner = false ∧ req.rsv = false ∧ (req.session = 0 ∨ 770 ≤ 514 ∧ 514 ≤ 774) ∧ (Option.any (fun i => s.m.turnAway i req.tr == 0) (cmdInfo 514) = true) ∧ List.length req.payload = 52 ∧ s.m.jade.session = none ∧ lcOf (Bytes.le req.payload 0 1) = some target ∧ Bytes.le req.payload 1 3 = 0 ∧ s.m.jade.lc ≠ LcState.retired ∧ (List.find? (fun k => k.digest == Bytes.sub req.payload 4 48 && decide ((s.m.advance t).clock < k.at' + 600000000000)) s.m.jade.tokens = some k) ∧ k.names serialNo s.m.jade.lcCount = true ∧ k.kind = 1 ∧ k.target = target.code ∧ k.rootsel = 3 ∧ op = true ∧ s.m.jade.lc ≠ target ∧ ((List.find? (fun r => r.1 == s.m.jade.lc && r.2.1 == target) lcTable).isSome = true) ∧ k.from' ≠ s.m.jade.lc.code) ∧
    (∃ (s : State) (req : MbReq), s.m.connOpen req.tr = true ∧ (s.m.jade.conn req.tr).jobs = [] ∧ (∀ r ∈ (s.m.jade.conn req.tr).ready, r.tag ≠ req.tag) ∧ req.partner = false ∧ req.rsv = false ∧ (req.session = 0 ∨ 770 ≤ 515 ∧ 515 ≤ 774) ∧ (Option.any (fun i => s.m.turnAway i req.tr == 0) (cmdInfo 515) = true) ∧ List.length req.payload = 4 ∧ Bytes.le req.payload 0 1 = 1 ∧ Bytes.le req.payload 1 3 = 0 ∧ s.m.jade.session = none ∧ s.m.jade.lc = LcState.operate ∧ s.m.service ≠ Service.held ∧ s.m.role = roleACTIVE) ∧
    (∃ (s : State) (req : MbReq), s.m.connOpen req.tr = true ∧ (s.m.jade.conn req.tr).jobs = [] ∧ (∀ r ∈ (s.m.jade.conn req.tr).ready, r.tag ≠ req.tag) ∧ req.partner = false ∧ req.rsv = false ∧ (req.session = 0 ∨ 770 ≤ 515 ∧ 515 ≤ 774) ∧ (Option.any (fun i => s.m.turnAway i req.tr == 0) (cmdInfo 515) = true) ∧ List.length req.payload = 4 ∧ Bytes.le req.payload 0 1 = 1 ∧ Bytes.le req.payload 1 3 = 0 ∧ s.m.jade.session = none ∧ s.m.jade.lc ≠ LcState.operate ∧ s.m.jade.restart = none) ∧
    (∃ (s : State) (req : MbReq), s.m.connOpen req.tr = true ∧ (s.m.jade.conn req.tr).jobs = [] ∧ (∀ r ∈ (s.m.jade.conn req.tr).ready, r.tag ≠ req.tag) ∧ req.partner = false ∧ req.rsv = false ∧ (req.session = 0 ∨ 770 ≤ 769 ∧ 769 ≤ 774) ∧ (Option.any (fun i => s.m.turnAway i req.tr == 0) (cmdInfo 769) = true) ∧ List.length req.payload = 4 ∧ Bytes.le req.payload 0 1 = 0 ∧ Bytes.le req.payload 1 3 = 0 ∧ s.m.jade.session = none) ∧
    (∃ (s : State) (req : MbReq) (e : Session), s.m.connOpen req.tr = true ∧ (s.m.jade.conn req.tr).jobs = [] ∧ (∀ r ∈ (s.m.jade.conn req.tr).ready, r.tag ≠ req.tag) ∧ req.partner = false ∧ req.rsv = false ∧ (req.session = 0 ∨ 770 ≤ 769 ∧ 769 ≤ 774) ∧ (Option.any (fun i => s.m.turnAway i req.tr == 0) (cmdInfo 769) = true) ∧ List.length req.payload = 4 ∧ Bytes.le req.payload 0 1 = 0 ∧ Bytes.le req.payload 1 3 = 0 ∧ s.m.jade.session = some e) ∧
    (∃ (s : State) (req : MbReq) (e : Session) (b : UpdImage), s.m.jade.session = some e ∧ e.holder = req.tr ∧ e.id = req.session ∧ e.prop = false ∧ s.m.connOpen req.tr = true ∧ (s.m.jade.conn req.tr).jobs = [] ∧ (∀ r ∈ (s.m.jade.conn req.tr).ready, r.tag ≠ req.tag) ∧ req.partner = false ∧ req.rsv = false ∧ (req.session = 0 ∨ 770 ≤ 770 ∧ 770 ≤ 774) ∧ (Option.any (fun i => s.m.turnAway i req.tr == 0) (cmdInfo 770) = true) ∧ 8 ≤ List.length req.payload ∧ 1 ≤ Bytes.le req.payload 0 1 ∧ Bytes.le req.payload 0 1 ≤ 8 ∧ Bytes.le req.payload 1 3 = 0 ∧ s.m.jade.lc ≠ LcState.retired ∧ e.images.find (Bytes.le req.payload 0 1) = some b ∧ Bytes.le req.payload 4 4 = b.data.len ∧ Bytes.le req.payload 4 4 ≠ 0) ∧
    (∃ (s : State) (req : MbReq) (e : Session) (b : UpdImage), s.m.jade.session = some e ∧ e.holder = req.tr ∧ e.id = req.session ∧ e.prop = false ∧ s.m.connOpen req.tr = true ∧ (s.m.jade.conn req.tr).jobs = [] ∧ (∀ r ∈ (s.m.jade.conn req.tr).ready, r.tag ≠ req.tag) ∧ req.partner = false ∧ req.rsv = false ∧ (req.session = 0 ∨ 770 ≤ 770 ∧ 770 ≤ 774) ∧ (Option.any (fun i => s.m.turnAway i req.tr == 0) (cmdInfo 770) = true) ∧ 8 ≤ List.length req.payload ∧ 1 ≤ Bytes.le req.payload 0 1 ∧ Bytes.le req.payload 0 1 ≤ 8 ∧ Bytes.le req.payload 1 3 = 0 ∧ s.m.jade.lc ≠ LcState.retired ∧ e.images.find (Bytes.le req.payload 0 1) = some b ∧ Bytes.le req.payload 4 4 ≠ b.data.len ∧ Bytes.le req.payload 4 4 ≠ 0) ∧
    (∃ (s : State) (req : MbReq) (e : Session) (b : UpdImage), s.m.jade.session = some e ∧ e.holder = req.tr ∧ e.id = req.session ∧ e.prop = false ∧ s.m.connOpen req.tr = true ∧ (s.m.jade.conn req.tr).jobs = [] ∧ (∀ r ∈ (s.m.jade.conn req.tr).ready, r.tag ≠ req.tag) ∧ req.partner = false ∧ req.rsv = false ∧ (req.session = 0 ∨ 770 ≤ 771 ∧ 771 ≤ 774) ∧ (Option.any (fun i => s.m.turnAway i req.tr == 0) (cmdInfo 771) = true) ∧ List.length req.payload = 4 ∧ Bytes.le req.payload 1 3 = 0 ∧ e.images.find (Bytes.le req.payload 0 1) = some b) ∧
    (∃ (s : State) (req : MbReq) (e : Session), s.m.jade.session = some e ∧ e.holder = req.tr ∧ e.id = req.session ∧ e.prop = false ∧ s.m.connOpen req.tr = true ∧ (s.m.jade.conn req.tr).jobs = [] ∧ (∀ r ∈ (s.m.jade.conn req.tr).ready, r.tag ≠ req.tag) ∧ req.partner = false ∧ req.rsv = false ∧ (req.session = 0 ∨ 770 ≤ 772 ∧ 772 ≤ 774) ∧ (Option.any (fun i => s.m.turnAway i req.tr == 0) (cmdInfo 772) = true) ∧ List.length req.payload = 4 ∧ Bytes.le req.payload 1 3 = 0 ∧ Bytes.le req.payload 0 1 = 1 ∧ s.m.commitBar e 1 ≠ 0) ∧
    (∃ (s : State) (req : MbReq) (e : Session) (ty : Nat) (b : UpdImage), s.m.jade.session = some e ∧ e.holder = req.tr ∧ e.id = req.session ∧ e.prop = false ∧ s.m.connOpen req.tr = true ∧ (s.m.jade.conn req.tr).jobs = [] ∧ (∀ r ∈ (s.m.jade.conn req.tr).ready, r.tag ≠ req.tag) ∧ req.partner = false ∧ req.rsv = false ∧ (req.session = 0 ∨ 770 ≤ 772 ∧ 772 ≤ 774) ∧ (Option.any (fun i => s.m.turnAway i req.tr == 0) (cmdInfo 772) = true) ∧ List.length req.payload = 4 ∧ Bytes.le req.payload 1 3 = 0 ∧ Bytes.le req.payload 0 1 = 1 ∧ s.m.commitBar e 1 = 0 ∧ e.images = [(ty, b)] ∧ 1 ≤ ty ∧ ty ≤ 6) ∧
    (∃ (s : State) (req : MbReq) (e : Session), s.m.jade.session = some e ∧ e.holder = req.tr ∧ e.id = req.session ∧ e.prop = false ∧ s.m.connOpen req.tr = true ∧ (s.m.jade.conn req.tr).jobs = [] ∧ (∀ r ∈ (s.m.jade.conn req.tr).ready, r.tag ≠ req.tag) ∧ req.partner = false ∧ req.rsv = false ∧ (req.session = 0 ∨ 770 ≤ 772 ∧ 772 ≤ 774) ∧ (Option.any (fun i => s.m.turnAway i req.tr == 0) (cmdInfo 772) = true) ∧ List.length req.payload = 4 ∧ Bytes.le req.payload 1 3 = 0 ∧ Bytes.le req.payload 0 1 = 2 ∧ s.m.jade.lc = LcState.operate ∧ s.m.commitBar e 2 = 0) ∧
    (∃ (s : State) (req : MbReq) (e : Session), s.m.jade.session = some e ∧ e.holder = req.tr ∧ e.id = req.session ∧ e.prop = false ∧ s.m.connOpen req.tr = true ∧ (s.m.jade.conn req.tr).jobs = [] ∧ (∀ r ∈ (s.m.jade.conn req.tr).ready, r.tag ≠ req.tag) ∧ req.partner = false ∧ req.rsv = false ∧ (req.session = 0 ∨ 770 ≤ 773 ∧ 773 ≤ 774) ∧ (Option.any (fun i => s.m.turnAway i req.tr == 0) (cmdInfo 773) = true) ∧ req.payload = []) ∧
    (∃ (s : State) (req : MbReq) (i : Nat × Bool × List LcState), s.m.connOpen req.tr = true ∧ (s.m.jade.conn req.tr).jobs = [] ∧ (∀ r ∈ (s.m.jade.conn req.tr).ready, r.tag ≠ req.tag) ∧ req.partner = false ∧ req.rsv = false ∧ (req.session = 0 ∨ 770 ≤ 1026 ∧ 1026 ≤ 774) ∧ (Option.any (fun i => s.m.turnAway i req.tr == 0) (cmdInfo 1026) = true) ∧ List.length req.payload = 4 + Bytes.le req.payload 2 2 ∧ settingInfo (Bytes.le req.payload 0 2) = some i ∧ i.2.2.contains s.m.jade.lc = true ∧ req.tr ≠ 3 ∧ i.2.1 = false ∧ Bytes.le req.payload 2 2 = i.1 ∧ settingOk (Bytes.le req.payload 0 2) (List.drop 4 req.payload) = true) ∧
    (∃ (s : State) (req : MbReq) (i : Nat × Bool × List LcState), s.m.connOpen req.tr = true ∧ (s.m.jade.conn req.tr).jobs = [] ∧ (∀ r ∈ (s.m.jade.conn req.tr).ready, r.tag ≠ req.tag) ∧ req.partner = false ∧ req.rsv = false ∧ (req.session = 0 ∨ 770 ≤ 1026 ∧ 1026 ≤ 774) ∧ (Option.any (fun i => s.m.turnAway i req.tr == 0) (cmdInfo 1026) = true) ∧ List.length req.payload = 4 + Bytes.le req.payload 2 2 ∧ settingInfo (Bytes.le req.payload 0 2) = some i ∧ i.2.2.contains s.m.jade.lc = true ∧ req.tr ≠ 3 ∧ i.2.1 = false ∧ (Bytes.le req.payload 2 2 ≠ i.1 ∨ settingOk (Bytes.le req.payload 0 2) (List.drop 4 req.payload) = false)) ∧
    (∃ (s : State) (req : MbReq) (v : Bytes), s.m.connOpen req.tr = true ∧ (s.m.jade.conn req.tr).jobs = [] ∧ (∀ r ∈ (s.m.jade.conn req.tr).ready, r.tag ≠ req.tag) ∧ req.partner = false ∧ req.rsv = false ∧ (req.session = 0 ∨ 770 ≤ 1028 ∧ 1028 ≤ 774) ∧ (Option.any (fun i => s.m.turnAway i req.tr == 0) (cmdInfo 1028) = true) ∧ s.m.full = true ∧ cvOf req.payload = some v ∧ s.m.confirm.lockUntil = 0 ∧ s.m.present.length < 2) ∧
    (∃ (s : State) (req : MbReq) (v : Bytes), s.m.connOpen req.tr = true ∧ (s.m.jade.conn req.tr).jobs = [] ∧ (∀ r ∈ (s.m.jade.conn req.tr).ready, r.tag ≠ req.tag) ∧ req.partner = false ∧ req.rsv = false ∧ (req.session = 0 ∨ 770 ≤ 1028 ∧ 1028 ≤ 774) ∧ (Option.any (fun i => s.m.turnAway i req.tr == 0) (cmdInfo 1028) = true) ∧ s.m.full = true ∧ cvOf req.payload = some v ∧ s.m.confirm.lockUntil = 0 ∧ 2 ≤ s.m.present.length) ∧
    (∃ (s : State) (req : MbReq), s.m.connOpen req.tr = true ∧ (s.m.jade.conn req.tr).jobs = [] ∧ (∀ r ∈ (s.m.jade.conn req.tr).ready, r.tag ≠ req.tag) ∧ req.partner = false ∧ req.rsv = false ∧ (req.session = 0 ∨ 770 ≤ 1281 ∧ 1281 ≤ 774) ∧ (Option.any (fun i => s.m.turnAway i req.tr == 0) (cmdInfo 1281) = true) ∧ List.length req.payload = 8 ∧ isGroup true (Bytes.le req.payload 0 1) = true ∧ Bytes.le req.payload 1 3 = 0 ∧ isGroup s.m.full (Bytes.le req.payload 0 1) = true) ∧
    (∃ (s : State) (req : MbReq), s.m.connOpen req.tr = true ∧ (s.m.jade.conn req.tr).jobs = [] ∧ (∀ r ∈ (s.m.jade.conn req.tr).ready, r.tag ≠ req.tag) ∧ req.partner = false ∧ req.rsv = false ∧ (req.session = 0 ∨ 770 ≤ 1281 ∧ 1281 ≤ 774) ∧ (Option.any (fun i => s.m.turnAway i req.tr == 0) (cmdInfo 1281) = true) ∧ List.length req.payload = 8 ∧ isGroup true (Bytes.le req.payload 0 1) = true ∧ Bytes.le req.payload 1 3 = 0 ∧ isGroup s.m.full (Bytes.le req.payload 0 1) = false) ∧
    (∃ (s : State) (req : MbReq), s.m.connOpen req.tr = true ∧ (s.m.jade.conn req.tr).jobs = [] ∧ (∀ r ∈ (s.m.jade.conn req.tr).ready, r.tag ≠ req.tag) ∧ req.partner = false ∧ req.rsv = false ∧ (req.session = 0 ∨ 770 ≤ 1539 ∧ 1539 ≤ 774) ∧ (Option.any (fun i => s.m.turnAway i req.tr == 0) (cmdInfo 1539) = true) ∧ List.length req.payload = 36) ∧
    (∃ (s : State) (req : MbReq) (x : Lane), s.m.connOpen req.tr = true ∧ (s.m.jade.conn req.tr).jobs = [] ∧ (∀ r ∈ (s.m.jade.conn req.tr).ready, r.tag ≠ req.tag) ∧ req.partner = false ∧ req.rsv = false ∧ (req.session = 0 ∨ 770 ≤ 1795 ∧ 1795 ≤ 774) ∧ (Option.any (fun i => s.m.turnAway i req.tr == 0) (cmdInfo 1795) = true) ∧ List.length req.payload = 8 ∧ targetOk (Bytes.le req.payload 0 4) = true ∧ Bytes.le req.payload 4 1 = 1 ∧ Bytes.le req.payload 5 3 = 0 ∧ laneOf (bits (Bytes.le req.payload 0 4) 31 28) = some x ∧ s.m.jade.lc = LcState.maintain ∧ s.m.bistWait = none) ∧
    (∃ (s : State) (req : MbReq) (x : Lane), s.m.connOpen req.tr = true ∧ (s.m.jade.conn req.tr).jobs = [] ∧ (∀ r ∈ (s.m.jade.conn req.tr).ready, r.tag ≠ req.tag) ∧ req.partner = false ∧ req.rsv = false ∧ (req.session = 0 ∨ 770 ≤ 1795 ∧ 1795 ≤ 774) ∧ (Option.any (fun i => s.m.turnAway i req.tr == 0) (cmdInfo 1795) = true) ∧ List.length req.payload = 8 ∧ targetOk (Bytes.le req.payload 0 4) = true ∧ Bytes.le req.payload 4 1 = 1 ∧ Bytes.le req.payload 5 3 = 0 ∧ laneOf (bits (Bytes.le req.payload 0 4) 31 28) = some x ∧ s.m.jade.lc = LcState.maintain ∧ s.m.bistWait.isSome = true) ∧
    (∃ (s : State) (req : MbReq) (fail : Option Nat) (x : Lane), s.m.connOpen req.tr = true ∧ (s.m.jade.conn req.tr).jobs = [] ∧ (∀ r ∈ (s.m.jade.conn req.tr).ready, r.tag ≠ req.tag) ∧ req.partner = false ∧ req.rsv = false ∧ (req.session = 0 ∨ 770 ≤ 1795 ∧ 1795 ≤ 774) ∧ (Option.any (fun i => s.m.turnAway i req.tr == 0) (cmdInfo 1795) = true) ∧ List.length req.payload = 8 ∧ targetOk (Bytes.le req.payload 0 4) = true ∧ Bytes.le req.payload 4 1 = 1 ∧ Bytes.le req.payload 5 3 = 0 ∧ laneOf (bits (Bytes.le req.payload 0 4) 31 28) = some x ∧ s.m.jade.lc = LcState.lab ∧ fail = none) ∧
    (∃ (s : State) (req : MbReq) (x : Lane), List.length req.payload = 4 ∧ laneOf (Bytes.le req.payload 0 1) = some x ∧ Bytes.le req.payload 1 3 = 0 ∧ s.m.connOpen req.tr = true ∧ (s.m.jade.conn req.tr).jobs = [] ∧ (∀ r ∈ (s.m.jade.conn req.tr).ready, r.tag ≠ req.tag) ∧ req.partner = false ∧ req.rsv = false ∧ (req.session = 0 ∨ 770 ≤ 1797 ∧ 1797 ≤ 774) ∧ (Option.any (fun i => s.m.turnAway i req.tr == 0) (cmdInfo 1797) = true) ∧ s.m.jade.lc = LcState.manufacture) ∧
    (∃ (s : State) (req : MbReq) (x : Lane), List.length req.payload = 4 ∧ laneOf (Bytes.le req.payload 0 1) = some x ∧ Bytes.le req.payload 1 3 = 0 ∧ s.m.connOpen req.tr = true ∧ (s.m.jade.conn req.tr).jobs = [] ∧ (∀ r ∈ (s.m.jade.conn req.tr).ready, r.tag ≠ req.tag) ∧ req.partner = false ∧ req.rsv = false ∧ (req.session = 0 ∨ 770 ≤ 1797 ∧ 1797 ≤ 774) ∧ (Option.any (fun i => s.m.turnAway i req.tr == 0) (cmdInfo 1797) = true) ∧ s.m.jade.lc = LcState.maintain ∧ s.m.rotation = none ∧ (req.session = 0 ∨ 770 ≤ 1798 ∧ 1798 ≤ 774) ∧ (Option.any (fun i => s.m.turnAway i req.tr == 0) (cmdInfo 1798) = true) ∧ (s.m.lane x).heldOut = false) ∧
    (∃ (s : State) (req : MbReq) (x : Lane), List.length req.payload = 4 ∧ laneOf (Bytes.le req.payload 0 1) = some x ∧ Bytes.le req.payload 1 3 = 0 ∧ s.m.connOpen req.tr = true ∧ (s.m.jade.conn req.tr).jobs = [] ∧ (∀ r ∈ (s.m.jade.conn req.tr).ready, r.tag ≠ req.tag) ∧ req.partner = false ∧ req.rsv = false ∧ (req.session = 0 ∨ 770 ≤ 1798 ∧ 1798 ≤ 774) ∧ (Option.any (fun i => s.m.turnAway i req.tr == 0) (cmdInfo 1798) = true) ∧ (s.m.lane x).heldOut = true) ∧
    (∃ (s : State) (req : MbReq) (x : Lane), s.m.connOpen req.tr = true ∧ (s.m.jade.conn req.tr).jobs = [] ∧ (∀ r ∈ (s.m.jade.conn req.tr).ready, r.tag ≠ req.tag) ∧ req.partner = false ∧ req.rsv = false ∧ (req.session = 0 ∨ 770 ≤ 1799 ∧ 1799 ≤ 774) ∧ (Option.any (fun i => s.m.turnAway i req.tr == 0) (cmdInfo 1799) = true) ∧ List.length req.payload = 4 ∧ laneOf (Bytes.le req.payload 0 1) = some x ∧ Bytes.le req.payload 1 1 ≤ 1 ∧ Bytes.le req.payload 2 2 = 0) ∧
    (∃ (s : State) (req : MbReq), s.m.connOpen req.tr = true ∧ (s.m.jade.conn req.tr).jobs = [] ∧ (∀ r ∈ (s.m.jade.conn req.tr).ready, r.tag ≠ req.tag) ∧ req.partner = false ∧ req.rsv = false ∧ (req.session = 0 ∨ 770 ≤ 1800 ∧ 1800 ≤ 774) ∧ (Option.any (fun i => s.m.turnAway i req.tr == 0) (cmdInfo 1800) = true) ∧ s.m.full = true ∧ List.length req.payload = 4 ∧ Bytes.le req.payload 2 2 = 0 ∧ Bytes.le req.payload 0 1 ≤ 1 ∧ Bytes.le req.payload 1 1 < if Bytes.le req.payload 0 1 = 0 then 96 else 48) ∧
    (∃ (s : State) (req : MbReq), s.m.connOpen req.tr = true ∧ (s.m.jade.conn req.tr).jobs = [] ∧ (∀ r ∈ (s.m.jade.conn req.tr).ready, r.tag ≠ req.tag) ∧ req.partner = false ∧ req.rsv = false ∧ (req.session = 0 ∨ 770 ≤ 1800 ∧ 1800 ≤ 774) ∧ (Option.any (fun i => s.m.turnAway i req.tr == 0) (cmdInfo 1800) = true) ∧ s.m.full = true ∧ List.length req.payload = 4 ∧ Bytes.le req.payload 2 2 = 0 ∧ 1 < Bytes.le req.payload 0 1) ∧
    (∃ (s : State) (req : MbReq), s.m.connOpen req.tr = true ∧ (s.m.jade.conn req.tr).jobs = [] ∧ (∀ r ∈ (s.m.jade.conn req.tr).ready, r.tag ≠ req.tag) ∧ req.partner = false ∧ req.rsv = false ∧ (req.session = 0 ∨ 770 ≤ 1801 ∧ 1801 ≤ 774) ∧ (Option.any (fun i => s.m.turnAway i req.tr == 0) (cmdInfo 1801) = true) ∧ List.length req.payload = 4 ∧ Bytes.le req.payload 0 1 = 0 ∧ Bytes.le req.payload 1 1 = 0 ∧ Bytes.le req.payload 2 2 ∈ s.m.obx.bk.used) ∧
    (∃ (s : State) (req : MbReq), s.m.connOpen req.tr = true ∧ (s.m.jade.conn req.tr).jobs = [] ∧ (∀ r ∈ (s.m.jade.conn req.tr).ready, r.tag ≠ req.tag) ∧ req.partner = false ∧ req.rsv = false ∧ (req.session = 0 ∨ 770 ≤ 1801 ∧ 1801 ≤ 774) ∧ (Option.any (fun i => s.m.turnAway i req.tr == 0) (cmdInfo 1801) = true) ∧ List.length req.payload = 4 ∧ Bytes.le req.payload 0 1 = 0 ∧ Bytes.le req.payload 1 1 = 0 ∧ Bytes.le req.payload 2 2 ∉ s.m.obx.bk.used) ∧
    (∃ (s : State) (req : MbReq), s.m.connOpen req.tr = true ∧ (s.m.jade.conn req.tr).jobs = [] ∧ (∀ r ∈ (s.m.jade.conn req.tr).ready, r.tag ≠ req.tag) ∧ req.partner = false ∧ req.rsv = false ∧ (req.session = 0 ∨ 770 ≤ 1802 ∧ 1802 ≤ 774) ∧ (Option.any (fun i => s.m.turnAway i req.tr == 0) (cmdInfo 1802) = true) ∧ List.length req.payload = 4 ∧ Bytes.le req.payload 2 1 = 0 ∧ s.m.obx.acycFor = none ∧ Bytes.le req.payload 0 2 ∈ s.m.obx.bk.used) ∧
    (∃ (s : State) (req : MbReq), s.m.connOpen req.tr = true ∧ (s.m.jade.conn req.tr).jobs = [] ∧ (∀ r ∈ (s.m.jade.conn req.tr).ready, r.tag ≠ req.tag) ∧ req.partner = false ∧ req.rsv = false ∧ (req.session = 0 ∨ 770 ≤ 1802 ∧ 1802 ≤ 774) ∧ (Option.any (fun i => s.m.turnAway i req.tr == 0) (cmdInfo 1802) = true) ∧ List.length req.payload = 4 ∧ Bytes.le req.payload 2 1 = 0 ∧ s.m.obx.acycFor = none ∧ Bytes.le req.payload 0 2 ∉ s.m.obx.bk.used) ∧
    (∃ (s : State) (k : Nat) (tr : Nat) (tag : Nat) (d : MbJob), s.m.obx.acycFor = some (k, tr * 256 + tag) ∧ tag < 256 ∧ (tr = 1 ∨ tr = 2) ∧ (s.m.jade.conn tr).jobs = [d] ∧ d.cmd = 1802 ∧ d.started = true ∧ d.req.tag = tag ∧ d.req.tr = tr ∧ d.lost = false) ∧
    (∃ (s : State) (req : MbReq), s.m.connOpen req.tr = true ∧ (s.m.jade.conn req.tr).jobs = [] ∧ (∀ r ∈ (s.m.jade.conn req.tr).ready, r.tag ≠ req.tag) ∧ req.partner = false ∧ req.rsv = false ∧ (req.session = 0 ∨ 770 ≤ 2052 ∧ 2052 ≤ 774) ∧ (Option.any (fun i => s.m.turnAway i req.tr == 0) (cmdInfo 2052) = true) ∧ req.payload = [] ∧ (req.session = 0 ∨ 770 ≤ 2562 ∧ 2562 ≤ 774) ∧ (Option.any (fun i => s.m.turnAway i req.tr == 0) (cmdInfo 2562) = true) ∧ s.m.pair.swap = none ∧ s.m.swapBar ≠ 0) ∧
    (∃ (s : State) (req : MbReq), s.m.connOpen req.tr = true ∧ (s.m.jade.conn req.tr).jobs = [] ∧ (∀ r ∈ (s.m.jade.conn req.tr).ready, r.tag ≠ req.tag) ∧ req.partner = false ∧ req.rsv = false ∧ (req.session = 0 ∨ 770 ≤ 2306 ∧ 2306 ≤ 774) ∧ (Option.any (fun i => s.m.turnAway i req.tr == 0) (cmdInfo 2306) = true) ∧ List.length req.payload = 4 ∧ Bytes.le req.payload 1 3 = 0 ∧ Bytes.le req.payload 0 1 ≤ 127) ∧
    (∃ (s : State) (req : MbReq), s.m.connOpen req.tr = true ∧ (s.m.jade.conn req.tr).jobs = [] ∧ (∀ r ∈ (s.m.jade.conn req.tr).ready, r.tag ≠ req.tag) ∧ req.partner = false ∧ req.rsv = false ∧ (req.session = 0 ∨ 770 ≤ 2306 ∧ 2306 ≤ 774) ∧ (Option.any (fun i => s.m.turnAway i req.tr == 0) (cmdInfo 2306) = true) ∧ List.length req.payload = 4 ∧ Bytes.le req.payload 1 3 = 0 ∧ 127 < Bytes.le req.payload 0 1) ∧
    (∃ (s : State) (req : MbReq), s.m.connOpen req.tr = true ∧ (s.m.jade.conn req.tr).jobs = [] ∧ (∀ r ∈ (s.m.jade.conn req.tr).ready, r.tag ≠ req.tag) ∧ req.partner = false ∧ req.rsv = false ∧ (req.session = 0 ∨ 770 ≤ 2562 ∧ 2562 ≤ 774) ∧ (Option.any (fun i => s.m.turnAway i req.tr == 0) (cmdInfo 2562) = true) ∧ req.payload = [] ∧ s.m.pair.swap = none ∧ s.m.swapBar = 0) ∧
    (∃ (s : State) (req : MbReq), s.m.connOpen req.tr = true ∧ (s.m.jade.conn req.tr).jobs = [] ∧ (∀ r ∈ (s.m.jade.conn req.tr).ready, r.tag ≠ req.tag) ∧ req.partner = false ∧ req.rsv = false ∧ (req.session = 0 ∨ 770 ≤ 2563 ∧ 2563 ≤ 774) ∧ (Option.any (fun i => s.m.turnAway i req.tr == 0) (cmdInfo 2563) = true) ∧ req.payload = []) :=
  ⟨⟨(st (mb .operate)), (rq (List.replicate 32 0)), by decide +kernel⟩,
   ⟨(mbSes .operate []), (lcReq .maintain), (sesI []), by decide +kernel⟩,
   ⟨(mbTok .maintain (tok .commission .maintain)), (lcReq .commission), 5, .commission, (tok .commission .maintain), true, false, by decide +kernel, by decide +kernel, by decide +kernel, by decide +kernel, by decide +kernel, by decide +kernel, by decide +kernel, by decide +kernel, by decide +kernel, by decide +kernel, by decide +kernel, by decide +kernel, by rfl, tok_names, by decide +kernel, by decide +kernel, by decide +kernel, by decide +kernel, by decide +kernel, by decide +kernel, by decide +kernel, by decide +kernel, by decide +kernel, by decide +kernel⟩,
   ⟨(mbTok .commission (tok .retired .commission)), (lcReq .retired), 5, .retired, (tok .retired .commission), true, true, by decide +kernel, by decide +kernel, by decide +kernel, by decide +kernel, by decide +kernel, by decide +kernel, by decide +kernel, by decide +kernel, by decide +kernel, by decide +kernel, by decide +kernel, by decide +kernel, by rfl, tok_names, by decide +kernel, by decide +kernel, by decide +kernel, by decide +kernel, by decide +kernel, by decide +kernel, by decide +kernel, by decide +kernel⟩,
   ⟨(mbTok .maintain (tok .commission .operate)), (lcReq .commission), 5, .commission, (tok .commission .operate), true, by decide +kernel, by decide +kernel, by decide +kernel, by decide +kernel, by decide +kernel, by decide +kernel, by decide +kernel, by decide +kernel, by decide +kernel, by decide +kernel, by decide +kernel, by decide +kernel, by rfl, tok_names, by decide +kernel, by decide +kernel, by decide +kernel, by decide +kernel, by decide +kernel, by decide +kernel, by decide +kernel⟩,
   ⟨(st (mb .operate)), (rq [1,0,0,0]), by decide +kernel⟩,
   ⟨(st (mb .maintain)), (rq [1,0,0,0]), by decide +kernel⟩,
   ⟨(st (mb .operate)), (rq [0,0,0,0]), by decide +kernel⟩,
   ⟨(mbSes .operate []), (rq [0,0,0,0]), (sesI []), by decide +kernel⟩,
   ⟨(mbSes .operate [(1, blob3)]), (rqS [1,0,0,0,3,0,0,0,9]), (sesI [(1, blob3)]), blob3, by decide +kernel⟩,
   ⟨(mbSes .operate [(1, blob3)]), (rqS [1,0,0,0,4,0,0,0,9]), (sesI [(1, blob3)]), blob3, by decide +kernel⟩,
   ⟨(mbSes .operate [(1, blob3)]), (rqS [1,0,0,0]), (sesI [(1, blob3)]), blob3, by decide +kernel⟩,
   ⟨(mbSes .operate [(1, { blob3 with verified := false })]), (rqS [1,0,0,0]), (sesI [(1, { blob3 with verified := false })]), by decide +kernel⟩,
   ⟨(mbSes .operate [(1, blob3)]), (rqS [1,0,0,0]), (sesI [(1, blob3)]), 1, blob3, by decide +kernel⟩,
   ⟨(mbSes .operate [(5, blob3)]), (rqS [2,0,0,0]), (sesI [(5, blob3)]), by decide +kernel⟩,
   ⟨(mbSes .operate [(5, blob3)]), (rqS []), (sesI [(5, blob3)]), by decide +kernel⟩,
   ⟨(st (mb .commission)), (rq [1,0,4,0,0x58,2,0,0]), (4, false, [.commission]), by decide +kernel⟩,
   ⟨(st (mb .commission)), (rq [1,0,4,0,0x59,2,0,0]), (4, false, [.commission]), by decide +kernel⟩,
   ⟨(st { mb .commission with lanes := ⟨vot, { vot with silent := true }, { vot with silent := true }⟩ }), (rq cvZero), (by' [0,0,0,0,0,0,0,0]), by decide +kernel⟩,
   ⟨(st (mb .commission)), (rq cvZero), (by' [0,0,0,0,0,0,0,0]), by decide +kernel⟩,
   ⟨(st (mb .operate)), (rq [2,0,0,0,9,0,0,0]), by decide +kernel⟩,
   ⟨(st { mb .operate with full := false }), (rq [0x17,0,0,0,9,0,0,0]), by decide +kernel⟩,
   ⟨(st (mb .operate)), (rq (List.replicate 36 7)), by decide +kernel⟩,
   ⟨(st (mb .maintain)), (rq [0xFF,0xFF,0,0x13,1,0,0,0]), .b, by decide +kernel⟩,
   ⟨(st { mb .maintain with bistWait := some (.a, 3) }), (rq [0xFF,0xFF,0,0x13,1,0,0,0]), .b, by decide +kernel⟩,
   ⟨(st (mb .lab)), (rq [0xFF,0xFF,0,0x13,1,0,0,0]), none, .b, by decide +kernel⟩,
   ⟨(st (mb .manufacture)), (rq [1,0,0,0]), .b, by decide +kernel⟩,
   ⟨(st (mb .maintain)), (rq [1,0,0,0]), .b, by decide +kernel⟩,
   ⟨(st { mb .maintain with lanes := PerLane.const { vot with heldOut := true } }), (rq [1,0,0,0]), .b, by decide +kernel⟩,
   ⟨(st (mb .lab)), (rq [1,1,0,0]), .b, by decide +kernel⟩,
   ⟨(st (mb .operate)), (rq [0,95,0,0]), by decide +kernel⟩,
   ⟨(st (mb .operate)), (rq [2,0,0,0]), by decide +kernel⟩,
   ⟨(st { mb .operate with obx := oNodes }), (rq [0,0,0xFF,1]), by decide +kernel⟩,
   ⟨(st (mb .operate)), (rq [0,0,0xFF,1]), by decide +kernel⟩,
   ⟨(st { mb .operate with obx := oNodes }), (rq [0xFF,1,0,3]), by decide +kernel⟩,
   ⟨(st (mb .operate)), (rq [0xFF,1,0,3]), by decide +kernel⟩,
   ⟨(acyMod [job70A]), 7, 1, 5, job70A, by decide +kernel⟩,
   ⟨(st (mb .operate)), (rq []), by decide +kernel⟩,
   ⟨(st (mb .maintain)), (rq [127,0,0,0]), by decide +kernel⟩,
   ⟨(st (mb .maintain)), (rq [128,0,0,0]), by decide +kernel⟩,
   ⟨(st swapOk), (rq []), by decide +kernel⟩,
   ⟨(st (mb .maintain)), (rq []), by decide +kernel⟩⟩

theorem wit_MoversChecksAndCrossings :
    (∃ (s : State) (x : Lane) (k : Nat), (s.m.lane x).powered = true ∧ (s.m.lane x).tdm.ch.length = 8 ∧ k < 8) ∧
    (∃ (s : State) (x : Lane) (k : Nat), (s.m.lane x).powered = true ∧ (s.m.lane x).tdm.ch.length = 8 ∧ k < 8 ∧ (s.m.lane x).tdm.en = false) ∧
    (∃ (s : State) (x : Lane) (k : Nat), (s.m.lane x).powered = true ∧ (s.m.lane x).tdm.ch.length = 8 ∧ k < 8 ∧ (s.m.lane x).tdm.en = true ∧ (((s.m.lane x).tdm.chan k).st = TdmSt.idle ∨ ((s.m.lane x).tdm.chan k).st = TdmSt.aborted) ∧ ((s.m.lane x).tdm.chan k).commit = true ∧ ((s.m.lane x).tdm.chan k).shadow.valid = true ∧ ((s.m.lane x).tdm.chan k).pause = false) ∧
    (∃ (s : State) (x : Lane) (k : Nat), (s.m.lane x).powered = true ∧ (s.m.lane x).tdm.ch.length = 8 ∧ k < 8 ∧ (s.m.lane x).tdm.en = true ∧ (((s.m.lane x).tdm.chan k).st = TdmSt.idle ∨ ((s.m.lane x).tdm.chan k).st = TdmSt.aborted) ∧ ((s.m.lane x).tdm.chan k).commit = true ∧ ((s.m.lane x).tdm.chan k).shadow.valid = false) ∧
    (∃ (s : State) (x : Lane) (k : Nat) (d : LaneSpace), (s.m.lane x).powered = true ∧ (s.m.lane x).tdm.ch.length = 8 ∧ k < 8 ∧ (s.m.lane x).tdm.en = true ∧ ((s.m.lane x).tdm.chan k).st = TdmSt.running ∧ ((s.m.lane x).tdm.chan k).active.opc = 1 ∧ ((s.m.lane x).tdm.chan k).commit = false ∧ (s.m.lane x).space.units ((s.m.lane x).tdm.chan k).active ((s.m.lane x).tdm.chan k).done ((s.m.lane x).tdm.chan k).remain = (d, ((s.m.lane x).tdm.chan k).done + ((s.m.lane x).tdm.chan k).remain, none)) ∧
    (∃ (s : State) (x : Lane) (k : Nat) (d : LaneSpace) (n : Nat), (s.m.lane x).powered = true ∧ (s.m.lane x).tdm.ch.length = 8 ∧ k < 8 ∧ ((s.m.lane x).tdm.chan k).st = TdmSt.running ∧ (s.m.lane x).space.units ((s.m.lane x).tdm.chan k).active ((s.m.lane x).tdm.chan k).done (min n ((s.m.lane x).tdm.chan k).remain) = (d, ((s.m.lane x).tdm.chan k).done + min n ((s.m.lane x).tdm.chan k).remain, none)) ∧
    (∃ (s : State) (x : Lane) (k : Nat) (d : LaneSpace) (n : Nat), (s.m.lane x).powered = true ∧ (s.m.lane x).tdm.ch.length = 8 ∧ k < 8 ∧ ((s.m.lane x).tdm.chan k).st = TdmSt.running ∧ (s.m.lane x).space.units ((s.m.lane x).tdm.chan k).active ((s.m.lane x).tdm.chan k).done (min n ((s.m.lane x).tdm.chan k).remain) = (d, ((s.m.lane x).tdm.chan k).done + min n ((s.m.lane x).tdm.chan k).remain, none) ∧ (s.m.lane x).portWait = []) ∧
    (∃ (s : State) (x : Lane) (k : Nat) (d : LaneSpace) (n : Nat) (code : Nat), (s.m.lane x).powered = true ∧ (s.m.lane x).tdm.ch.length = 8 ∧ k < 8 ∧ ((s.m.lane x).tdm.chan k).st = TdmSt.running ∧ (s.m.lane x).space.units ((s.m.lane x).tdm.chan k).active ((s.m.lane x).tdm.chan k).done (min n ((s.m.lane x).tdm.chan k).remain) = (d, ((s.m.lane x).tdm.chan k).done + min n ((s.m.lane x).tdm.chan k).remain, none) ∧ code ≠ 1) ∧
    (∃ (s : State) (x : Lane) (k : Nat), (s.m.lane x).powered = true ∧ (s.m.lane x).tdm.ch.length = 8 ∧ k < 8 ∧ ((s.m.lane x).tdm.chan k).st = TdmSt.running ∧ (s.m.lane x).lct.fault = 0#32) ∧
    (∃ (s : State) (x : Lane) (k : Nat), (s.m.lane x).powered = true ∧ (s.m.lane x).tdm.ch.length = 8 ∧ k < 8 ∧ (s.m.lane x).portWait = [] ∧ ((s.m.lane x).tdm.chan k).st = TdmSt.paused ∧ ((s.m.lane x).tdm.chan k).remain ≠ 0) ∧
    (∃ (s : State) (x : Lane) (k : Nat) (v : Word32), (s.m.lane x).powered = true ∧ (s.m.lane x).tdm.ch.length = 8 ∧ k < 8 ∧ BitVec.getLsbD v 0 = true ∧ (s.m.lane x).portWait = []) ∧
    (∃ (s : State) (x : Lane) (k : Nat) (v : Word32), (s.m.lane x).powered = true ∧ (s.m.lane x).tdm.ch.length = 8 ∧ k < 8 ∧ BitVec.getLsbD v 0 = false) ∧
    (∃ (s : State) (x : Lane) (k : Nat), (s.m.lane x).powered = true ∧ (s.m.lane x).tdm.ch.length = 8 ∧ k < 8 ∧ BitVec.getLsbD (s.m.lane x).scu.ctrl 0 = false) ∧
    (∃ (s : State) (x : Lane) (k : Nat), (s.m.lane x).powered = true ∧ (s.m.lane x).tdm.ch.length = 8 ∧ k < 8 ∧ (s.m.lane x).scu.fgBusy = false) ∧
    (∃ (s : State) (x : Lane) (k : Nat), (s.m.lane x).powered = true ∧ (s.m.lane x).tdm.ch.length = 8 ∧ k < 8 ∧ (s.m.lane x).scu.fgBusy = true) ∧
    (∃ (s : State) (x : Lane) (k : Nat) (v : Nat) (e : Bytes), (s.m.lane x).powered = true ∧ (s.m.lane x).tdm.ch.length = 8 ∧ k < 8 ∧ (s.m.lane x).scu.fgBusy = true ∧ bits (BitVec.toNat (s.m.lane x).scu.len) 23 0 = 1 ∧ bit (BitVec.toNat (s.m.lane x).scu.cfg) 10 = false ∧ bit (BitVec.toNat (s.m.lane x).scu.cfg) 9 = true ∧ BitVec.getLsbD (s.m.lane x).scu.mis 31 = false ∧ (s.m.lane x).space.blockValue (s.m.lane x).scu.start (2 ^ bits (BitVec.toNat (s.m.lane x).scu.cfg) 4 0) (bit (BitVec.toNat (s.m.lane x).scu.cfg) 8) (s.m.lane x).scu.seq 0 = Except.ok v ∧ (s.m.lane x).space.block (s.m.lane x).scu.exp 8 = Except.ok e ∧ Bytes.nat e = v) ∧
    (∃ (s : State) (x : Lane) (k : Nat) (v : Nat) (e : Bytes), (s.m.lane x).powered = true ∧ (s.m.lane x).tdm.ch.length = 8 ∧ k < 8 ∧ (s.m.lane x).scu.fgBusy = true ∧ bits (BitVec.toNat (s.m.lane x).scu.len) 23 0 = 1 ∧ bit (BitVec.toNat (s.m.lane x).scu.cfg) 10 = false ∧ bit (BitVec.toNat (s.m.lane x).scu.cfg) 9 = true ∧ BitVec.getLsbD (s.m.lane x).scu.mis 31 = false ∧ (s.m.lane x).space.blockValue (s.m.lane x).scu.start (2 ^ bits (BitVec.toNat (s.m.lane x).scu.cfg) 4 0) (bit (BitVec.toNat (s.m.lane x).scu.cfg) 8) (s.m.lane x).scu.seq 0 = Except.ok v ∧ (s.m.lane x).space.block (s.m.lane x).scu.exp 8 = Except.ok e ∧ Bytes.nat e ≠ v) ∧
    (∃ (s : State) (x : Lane) (k : Nat), (s.m.lane x).powered = true ∧ (s.m.lane x).tdm.ch.length = 8 ∧ k < 8 ∧ BitVec.getLsbD (s.m.lane x).scu.ctrl 0 = true) ∧
    (∃ (s : State) (x : Lane) (k : Nat), (s.m.lane x).powered = true ∧ (s.m.lane x).tdm.ch.length = 8 ∧ k < 8 ∧ BitVec.getLsbD (s.m.lane x).lct.inReset k = true) ∧
    (∃ (s : State) (x : Lane) (k : Nat), (s.m.lane x).powered = true ∧ (s.m.lane x).tdm.ch.length = 8 ∧ k < 8 ∧ BitVec.getLsbD (s.m.lane x).lct.inReset k = false ∧ (s.m.lane x).lct.fault = 0#32) :=
  ⟨⟨s1, .a, 3, by decide +kernel⟩,
   ⟨s1, .b, 7, by decide +kernel⟩,
   ⟨(chan0 cArmed), .a, 0, by decide +kernel⟩,
   ⟨(chan0 { cArmed with shadow := TdmDesc.zero }), .a, 0, by decide +kernel⟩,
   ⟨(chan0 cRun), .a, 0, ((all up).m.lane .a).space, by decide +kernel⟩,
   ⟨(chan0 cRun), .a, 0, ((all up).m.lane .a).space, 1, by decide +kernel⟩,
   ⟨(chan0 cRun), .a, 0, ((all up).m.lane .a).space, 0, by decide +kernel⟩,
   ⟨(chan0 cRun), .a, 0, ((all up).m.lane .a).space, 1, 2, by decide +kernel⟩,
   ⟨(chan0 cRun), .a, 0, by decide +kernel⟩,
   ⟨(chan0 { cRun with st := .paused, pause := true }), .a, 0, by decide +kernel⟩,
   ⟨(chan0 cRun), .a, 0, 3#32, by decide +kernel⟩,
   ⟨(chan0 cRun), .a, 0, 2#32, by decide +kernel⟩,
   ⟨s1, .c, 0, by decide +kernel⟩,
   ⟨s1, .a, 0, by decide +kernel⟩,
   ⟨(scuIn fgJob), .a, 0, by decide +kernel⟩,
   ⟨(scuIn { fgJob with cfg := 0x80000304, exp := 0x20000000 }), .a, 0, (crc64 0 (List.replicate 16 0)), (List.replicate 8 0), by decide +kernel, by decide +kernel, by decide +kernel, by decide +kernel, by decide +kernel, by decide +kernel, by decide +kernel, by decide +kernel, ok_of (by decide +kernel), ok_of (by decide +kernel), by decide +kernel⟩,
   ⟨(scuIn fgJob), .a, 0, (crc64 0x20000000 (List.replicate 16 0)), (List.replicate 8 0), by decide +kernel, by decide +kernel, by decide +kernel, by decide +kernel, by decide +kernel, by decide +kernel, by decide +kernel, by decide +kernel, ok_of (by decide +kernel), ok_of (by decide +kernel), by decide +kernel⟩,
   ⟨(scuIn { Scu.reset with ctrl := 1 }), .c, 0, by decide +kernel⟩,
   ⟨(all { up with lct := { Lct.reset with inReset := 0x80 } }), .c, 7, by decide +kernel⟩,
   ⟨s1, .c, 7, by decide +kernel⟩⟩

theorem wit_AmberWritesSuppressesAndRefuses :
    (∃ (s : State), s.m.amber.ready = false) ∧
    (∃ (s : State) (i : Nat) (r : Rec) (rs : List Rec), s.m.amber.ready = true ∧ s.m.amber.intake.length = 10 ∧ s.m.amber.nextSource = some i ∧ (s.m.amber.intake.getD i Intake.empty).buf = r :: rs ∧ (s.m.amber.intake.getD i Intake.empty).owed = 0 ∧ recLim r.code = none) ∧
    (∃ (s : State) (t : Nat) (i : Nat) (r : Rec) (rs : List Rec) (lim : Nat) (w : RateWin), s.m.amber.ready = true ∧ s.m.amber.intake.length = 10 ∧ s.m.amber.nextSource = some i ∧ (s.m.amber.intake.getD i Intake.empty).buf = r :: rs ∧ (s.m.amber.intake.getD i Intake.empty).owed = 0 ∧ recLim r.code = some lim ∧ s.m.amber.win r.code r.src = some w ∧ (s.m.advance t).now < w.start + 1000000000 ∧ lim ≤ w.count) ∧
    (∃ (s : State) (e : Evt), s.m.amber.intake.length = 10 ∧ s.m.amber.takes (min e.src 9) = false) ∧
    (∃ (s : State) (e : Evt), s.m.amber.intake.length = 10 ∧ s.m.amber.takes (min e.src 9) = true) ∧
    (∃ (s : State) (t : Nat) (code : Nat) (src : Nat) (w : RateWin), s.m.amber.win code src = some w ∧ s.m.amber.ready = true ∧ w.suppressed ≠ 0 ∧ w.start + 1000000000 ≤ (s.m.advance t).now) ∧
    (∃ (s : State) (t : Nat) (code : Nat) (src : Nat) (w : RateWin), s.m.amber.win code src = some w ∧ (s.m.advance t).now < w.start + 1000000000) ∧
    (∃ (s : State), s.m.power.good = true ∧ s.m.amber.ready = false) ∧
    (∃ (s : State), s.m.power.good = true ∧ s.m.amber.ready = false ∧ s.m.amber.store = [] ∧ s.m.amber.ctl0.valid = true ∧ s.m.amber.ctl1.valid = false) ∧
    (∃ (s : State), s.m.power.good = true ∧ s.m.amber.ready = false ∧ s.m.amber.store = [] ∧ s.m.amber.ctl0.valid = false ∧ s.m.amber.ctl1.valid = false) ∧
    (∃ (s : State) (x : Lane) (off : Nat), (s.m.lane x).powered = true ∧ off < 32768 ∧ off % 4 = 0 ∧ BitVec.getLsbD (s.m.amber.port.get x).ctrl 1 = true ∧ BitVec.toNat (s.m.amber.port.get x).ppage ≤ 130) ∧
    (∃ (s : State) (x : Lane) (off : Nat), (s.m.lane x).powered = true ∧ off < 32768 ∧ off % 4 = 0 ∧ BitVec.getLsbD (s.m.amber.port.get x).ctrl 1 = true ∧ 130 < BitVec.toNat (s.m.amber.port.get x).ppage) ∧
    (∃ (s : State) (x : Lane) (off : Nat), (s.m.lane x).powered = true ∧ off < 32768 ∧ off % 4 = 0 ∧ BitVec.getLsbD (s.m.amber.port.get x).ctrl 1 = false) ∧
    (∃ (s : State) (x : Lane), (s.m.lane x).powered = true) :=
  ⟨⟨s1, by decide +kernel⟩,
   ⟨(amb { ambRdy with intake := buf0 (rec0 1) }), 0, (rec0 1), [], by decide +kernel⟩,
   ⟨(amb { ambRdy with intake := buf0 (rec0 0x10), rates := [win0] }), 5, 0, (rec0 0x10), [], 1, win0, by decide +kernel⟩,
   ⟨s1, (mkEvt 1 0 3 0 []), by decide +kernel⟩,
   ⟨s1, (mkEvt 1 3 3 0 []), by decide +kernel⟩,
   ⟨(amb { ambRdy with rates := [win0] }), 2000000000, 0x10, 0, win0, by decide +kernel⟩,
   ⟨(amb { ambRdy with rates := [win0] }), 5, 0x10, 0, win0, by decide +kernel⟩,
   ⟨(pwr pwrOn), by decide +kernel⟩,
   ⟨(st { m1 with power := pwrOn, amber := { Amber.reset with ctl0 := ctlOf 7 8, ctl1 := ⟨0, 0, 1⟩ } }), by decide +kernel⟩,
   ⟨(st { m1 with power := pwrOn, amber := { Amber.reset with ctl0 := ⟨0, 0, 1⟩, ctl1 := ⟨0, 0, 1⟩ } }), by decide +kernel⟩,
   ⟨(ambPort 2 0x82), .a, 0x7FFC, by decide +kernel⟩,
   ⟨(ambPort 2 0x83), .a, 0, by decide +kernel⟩,
   ⟨(ambPort 1 0), .b, 4, by decide +kernel⟩,
   ⟨s1, .c, by decide +kernel⟩⟩

theorem wit_PowerFollowsSuppliesHintsAndDrains :
    (∃ (s : State) (input : Nat) (st : Nat), (input = 1 ∨ input = 2) ∧ s.m.power.shutdown = false ∧ (st = 0 ∨ st = 3) ∧ (s.m.power.supply input).inRange = true) ∧
    (∃ (s : State) (input : Nat) (st : Nat), (input = 1 ∨ input = 2) ∧ s.m.power.shutdown = false ∧ (st = 1 ∨ st = 2) ∧ (s.m.power.supply input).inRange = false) ∧
    (∃ (s : State), s.m.power.good = true ∧ s.m.power.x1.inRange = false ∧ s.m.power.x2.inRange = false ∧ s.m.service ≠ Service.held) ∧
    (∃ (s : State), (s.m.power.x1.inRange = true ∨ s.m.power.x2.inRange = true)) ∧
    (∃ (s : State), s.m.power.pfail = true ∧ s.m.power.shutdown = false) ∧
    (∃ (s : State) (g : Nat), s.m.power.good = true ∧ isGroup s.m.full g = true ∧ s.m.maySleep g = true ∧ s.m.power.sect g ≠ SectSt.off ∧ s.m.hint g < 100) ∧
    (∃ (s : State) (g : Nat), s.m.power.good = true ∧ isGroup s.m.full g = true ∧ s.m.maySleep g = true ∧ s.m.power.sect g ≠ SectSt.off ∧ 100 ≤ s.m.hint g ∧ s.m.hint g < 5000) ∧
    (∃ (s : State) (g : Nat), s.m.power.good = true ∧ isGroup s.m.full g = true ∧ s.m.maySleep g = true ∧ s.m.power.sect g ≠ SectSt.off ∧ 5000 ≤ s.m.hint g ∧ s.m.power.draining (256 + g) = false) ∧
    (∃ (s : State) (g : Nat), s.m.power.good = true ∧ isGroup s.m.full g = true ∧ s.m.power.ports.length = 8 ∧ s.m.power.banks.length = 4) ∧
    (∃ (s : State) (target : Nat), s.m.power.good = true ∧ s.m.mayDrain target = true ∧ s.m.power.draining target = false) ∧
    (∃ (s : State) (target : Nat), s.m.power.good = true ∧ s.m.power.draining target = true) ∧
    (∃ (s : State) (t : Nat) (target : Nat) (d : Drain) (left : List (Xfer × Nat)), s.m.power.good = true ∧ (List.find? (fun e => e.target == target) s.m.power.drains = some d) ∧ left ≠ [] ∧ (s.m.advance t).clock < d.since + 200000) ∧
    (∃ (s : State) (target : Nat) (d : Drain), s.m.power.good = true ∧ (List.find? (fun e => e.target == target) s.m.power.drains = some d) ∧ target = 256 + 1) ∧
    (∃ (s : State) (target : Nat) (d : Drain) (x : Lane), s.m.power.good = true ∧ (List.find? (fun e => e.target == target) s.m.power.drains = some d) ∧ laneOfDomain target = some x ∧ s.m.power.domains.length = 12) ∧
    (∃ (s : State) (t : Nat) (target : Nat) (d : Drain), s.m.power.good = true ∧ (List.find? (fun e => e.target == target) s.m.power.drains = some d) ∧ target = 256 + 1 ∧ d.since + 200000 ≤ (s.m.advance t).clock) ∧
    (∃ (s : State) (x : Lane), (s.m.lane x).powered = true ∧ (s.m.lane x).released = true ∧ (s.m.lane x).lct.fault = 0#32) :=
  ⟨⟨(pwr pwrOn), 1, 3, by decide +kernel⟩,
   ⟨(pwr pwrOn), 2, 2, by decide +kernel⟩,
   ⟨(pwr { pwrOn with x1 := ⟨0, false⟩ }), by decide +kernel⟩,
   ⟨(pwr pwrOn), by decide +kernel⟩,
   ⟨(pwr { pwrOn with pfail := true, good := false }), by decide +kernel⟩,
   ⟨(pwr pwrOn), 2, by decide +kernel⟩,
   ⟨(st { m1 with power := pwrOn, jade := { Jade.reset with hints := [(2, 100)] } }), 2, by decide +kernel⟩,
   ⟨(st { m1 with power := pwrOn, jade := { Jade.reset with hints := [(1, 5000)] } }), 1, by decide +kernel⟩,
   ⟨(pwr pwrOn), 0x17, by decide +kernel⟩,
   ⟨(pwr pwrOn), 1, by decide +kernel⟩,
   ⟨(pwr { pwrOn with drains := [⟨1, 0⟩] }), 1, by decide +kernel⟩,
   ⟨(pwr { pwrOn with drains := [⟨0x101, 0⟩] }), 5, 0x101, ⟨0x101, 0⟩, [(.jadePort, 0)], by decide +kernel⟩,
   ⟨(pwr { pwrOn with drains := [⟨0x101, 0⟩] }), 0x101, ⟨0x101, 0⟩, by decide +kernel⟩,
   ⟨(pwr { pwrOn with drains := [⟨3, 0⟩] }), 3, ⟨3, 0⟩, .b, by decide +kernel⟩,
   ⟨(pwr { pwrOn with drains := [⟨0x101, 0⟩] }), 200000, 0x101, ⟨0x101, 0⟩, by decide +kernel⟩,
   ⟨s1, .a, by decide +kernel⟩⟩

theorem wit_RegisterWritesFollowTheirAccessType :
    (∃ (s : State) (x : Lane), (s.m.lane x).powered = false) ∧
    (∃ (s : State), s.m.full = false) ∧
    (∃ (s : State) (x : Lane) (i : Nat), (s.m.lane x).powered = true ∧ i < 8 ∧ BitVec.getLsbD (s.m.lane x).grn.ctrl 2 = false ∧ (s.m.lane x).split = false) ∧
    (∃ (s : State) (x : Lane), (s.m.lane x).powered = true ∧ BitVec.getLsbD (s.m.lane x).grn.ctrl 2 = true) ∧
    (∃ (s : State) (x : Lane), (s.m.lane x).powered = true ∧ BitVec.getLsbD (s.m.lane x).beryl.regs.ctrl 0 = false ∧ (s.m.lane x).opal.en = false ∧ (s.m.lane x).scu.fgBusy = false ∧ (s.m.lane x).voting = false ∧ BitVec.getLsbD (s.m.lane x).lct.ctrl 0 = false ∧ s.m.full = true) ∧
    (∃ (s : State) (x : Lane), (s.m.lane x).powered = true ∧ BitVec.getLsbD (s.m.lane x).beryl.regs.ctrl 0 = true) ∧
    (∃ (s : State) (x : Lane), (s.m.lane x).powered = true ∧ (s.m.lane x).opal.en = true) ∧
    (∃ (s : State) (x : Lane) (k : Nat), (s.m.lane x).powered = true ∧ k < 8) ∧
    (∃ (s : State) (x : Lane), (s.m.lane x).powered = true ∧ (s.m.lane x).scu.fgBusy = true) ∧
    (∃ (s : State) (x : Lane), (s.m.lane x).powered = true ∧ (s.m.lane x).voting = true) ∧
    (∃ (s : State) (x : Lane) (off : Nat) (u : RegUnit), (s.m.lane x).powered = true ∧ (off = 0 ∨ off = 8 ∨ 768 ≤ off) ∧ u ≠ RegUnit.lio ∧ u ≠ RegUnit.brg ∧ u ≠ RegUnit.amb) ∧
    (∃ (s : State) (x : Lane) (w : BrgLane), (s.m.lane x).powered = true ∧ s.m.full = true ∧ s.m.drp.lanes.get x = w ∧ BitVec.getLsbD w.ctrl 1 = true) ∧
    (∃ (s : State) (x : Lane) (w : BrgLane), (s.m.lane x).powered = true ∧ s.m.full = true ∧ s.m.drp.lanes.get x = w ∧ BitVec.getLsbD w.ctrl 1 = false) :=
  ⟨⟨(st Mod.reset), .a, by decide +kernel⟩,
   ⟨(st { m1 with full := false }), by decide +kernel⟩,
   ⟨s1, .a, 7, by decide +kernel⟩,
   ⟨(all { up with grn := { up.grn with ctrl := 4 } }), .a, by decide +kernel⟩,
   ⟨s1, .a, by decide +kernel⟩,
   ⟨(all { up with beryl := { up.beryl with regs := { up.beryl.regs with ctrl := 1 } } }), .a, by decide +kernel⟩,
   ⟨(all { up with opal := { up.opal with ctrl := 1 } }), .a, by decide +kernel⟩,
   ⟨s1, .a, 7, by decide +kernel⟩,
   ⟨(scuIn fgJob), .a, by decide +kernel⟩,
   ⟨(all { up with voting := true }), .a, by decide +kernel⟩,
   ⟨s1, .a, 0x300, .tdm, by decide +kernel⟩,
   ⟨(st { m1 with drp := { Drp.reset with lanes := PerLane.const { BrgLane.reset with ctrl := 2 } } }), .a, { BrgLane.reset with ctrl := 2 }, by decide +kernel⟩,
   ⟨s1, .a, BrgLane.reset, by decide +kernel⟩⟩


/-! ### Ill-formed commands: one term for each check of WellFormed -/
theorem test_wf_isClass : Instr.wf (.itemReceive .lio 1 0 0 .localInput [] 0) = false := by decide
theorem test_wf_isKind : Instr.wf (.itemReceive .obxA 7 0 0 .telegram [] 0) = false := by decide
theorem test_wf_isExc : Instr.wf (.wcetOverrun .a ⟨65536, 0, none, 0⟩ 0) = false := by decide
theorem test_wf_isPhase : Instr.wf (.phaseOverrun 5 0 0) = false := by decide
theorem test_wf_isUnitNo : Instr.wf (.lockstepMismatch .a 256 0) = false := by decide
theorem test_wf_isWord16 : Instr.wf (.laneMonitorTrip .b true 65536 0) = false := by decide
theorem test_wf_isIdx8 : Instr.wf (.grnKeyWrite .c 8 0 0) = false := by decide
theorem test_wf_isGate : Instr.wf (.gateReadback [96] 0) = false := by decide
theorem test_wf_isRingIdx : Instr.wf (.brlReqProdWrite .a 1024 0) = false := by decide
theorem test_wf_isRoute : Instr.wf (.pendingExpire .a 4096 0) = false := by decide
theorem test_wf_isArea : Instr.wf (.areaTimerDue .a 256 0) = false := by decide
theorem test_wf_isNode_zero : Instr.wf (.pollAssemble .a 0 0) = false := by decide
theorem test_wf_isNode_above : Instr.wf (.pollAssemble .a 1025 0) = false := by decide
theorem test_wf_isFrame : Instr.wf (.replyReceive .a ⟨[], 2 ^ 32⟩ none 0) = false := by decide
theorem test_wf_isWho : Instr.wf (.syncSend (.node 0) 0) = false := by decide
theorem test_wf_isPort2 : Instr.wf (.ptpMeasure true 0 2 0) = false := by decide
theorem test_wf_isTick : Instr.wf (.opalZeroCrossing .a 0 0 1024 0 0 0 0) = false := by decide
theorem test_wf_isSamples : Instr.wf (.inputSample [] 0) = false := by decide
theorem test_wf_isInput : Instr.wf (.inputDebounceExpire 96 0) = false := by decide
theorem test_wf_isFn : Instr.wf (.pairTimeout 16 true 0) = false := by decide
theorem test_wf_isOutput : Instr.wf (.outputCurrentTrip 48 true 0) = false := by decide
theorem test_wf_isBank : Instr.wf (.bankTrip 4 0 0) = false := by decide
theorem test_wf_isVerdict : Instr.wf (.switchTest 0 3 0) = false := by decide
theorem test_wf_isDevice : Instr.wf (.draipVisit 256 0) = false := by decide
theorem test_wf_isCount12 : Instr.wf (.brgUnpGo .a 4096 0) = false := by decide
theorem test_wf_isClaim : Instr.wf (.higherClaimReceived (2 ^ 64) 0) = false := by decide
theorem test_wf_isSid : Instr.wf (.powerGood 32 0 0 true true 0) = false := by decide
theorem test_wf_isSupply : Instr.wf (.powerGood 0 4 0 true true 0) = false := by decide
theorem test_wf_isByte : Instr.wf (.dupSidDetect 0 256 0) = false := by decide
theorem test_wf_isNibble : Instr.wf (.lctInjGo .a 0 false false 16 0) = false := by decide
theorem test_wf_isTransport : Instr.wf (.connectionOpen 0 0) = false := by decide
theorem test_wf_isReq : Instr.wf (.idRead (rqT 4 []) 0) = false := by decide
theorem test_wf_isTdmErr : Instr.wf (.tdmError .a 0 0 7 0) = false := by decide
theorem test_wf_isEcc : Instr.wf (.scuFgDone .a [4] 0) = false := by decide
theorem test_wf_isCrossing : Instr.wf (.crossingTimeout .a 12 false 0) = false := by decide
theorem test_wf_isEvt : Instr.wf (.amberIntakeRefuse ⟨0, 10, 0, 0, 0, 0, []⟩ 0) = false := by decide
theorem test_wf_isSrc : Instr.wf (.rateWindowClose 0 10 0) = false := by decide
theorem test_wf_isWindowOff : Instr.wf (.amberWindowWrite .a 0x8000 0 0) = false := by decide
theorem test_wf_isInputNo : Instr.wf (.supplyInputLoss 2 0 0) = false := by decide
theorem test_wf_isRegOff : Instr.wf (.registerWrite .a .scu 2 0 0) = false := by decide
theorem test_wf_accepts : Instr.wf (.itemReceive .obxA 7 12 1 .reply [] 0) = true ∧ Instr.wf (.pollAssemble .a 1024 0) = true
    ∧ Instr.wf (.registerWrite .a .scu 0xFFC 0 0) = true := by decide

/-! ### The worked examples and tables of the spec -/
/-- R20's worked example: counts 41,207, 41,209 and 41,208 give the cut count 41,208. -/
theorem test_cut_median : median3 41207 41209 41208 = 41208 := by decide
/-- Harlow Cross, node 3 in window 0 on both channels (07_opbex.md, worked example after R197). -/
def harlow : Obx :=
  let mem := Mem.wr (Mem.wr (Mem.wr (Mem.wr [] 8 2 1450) 10 2 1620) (0x80 + 8) 2 20800) (0x80 + 10) 2 22400
  { Obx.reset with bank0 := { ObxBank.empty with mem := mem } }
theorem test_poll_instant_a : harlow.pollOff .a 3 = 56442 := by decide
theorem test_poll_instant_b : harlow.pollOff .b 3 = 53072 := by decide
/-- R225's worked example: eight values, the extremes discarded, truncated to 70. -/
theorem test_ft_average : ftAverage [0, 180, -40, 310, 95, -2600, 60, 130] = some 70 := by decide
theorem test_ft_average_sorted : sortInt [0, 180, -40, 310, 95, -2600, 60, 130] = [-2600, -40, 0, 60, 95, 130, 180, 310] := by decide
/-- R228: 1,000 + 50 × (SID mod 16) µs. -/
theorem test_cold_period : coldPeriod 0x12 = 1100 := by decide
/-- 02_station_image.md, worked example after R48: the PR row of route 5 with point ends 100 and 101. -/
theorem test_relation_row : (Stn.rel ⟨Mem.wr [] 0x1640C 4 0x30, 0, 0⟩ 5 2).toNat = 2 ^ 100 + 2 ^ 101 := by decide +kernel
/-- 02_station_image.md, worked example after R57: the transposed PN row of E-index 100 names routes 0, 1 and 2. -/
theorem test_transposed_row : (Stn.trow ⟨Mem.wr [] 0x04464200 4 7, 0, 0⟩ 100 1).toNat = 7 := by decide +kernel
/-- 03_route_admission.md, worked example after R85: the OVL column of route 4 stands at 0x0840_1200. -/
theorem test_ovl_column : (Stn.ovlCol ⟨Mem.wr [] 0x08401200 4 8, 0, 0⟩ 4).toNat = 8 := by decide +kernel
/-- 03_route_admission.md, the two conflicting requests: QUEUED with TAG 0x12, OP 1, route 1, WHO 5. -/
theorem test_response_words : Rsp.word ⟨1, 0x12, 1, false, 1, 5, 0, 0, 0, 0, 0⟩ = 0x0005000100011201 := by decide
/-- 07_opbex.md R203: the claim (EPOCH, ROLE, SID), EPOCH uppermost. -/
theorem test_claim : (claimOf 0x0000000000050112).epoch = 5 := by decide

/-- The table of R488: no input, STARTING, no claim, channels down. -/
theorem test_leds_at_reset : [Led.pwr, .state, .role, .obx .a].map (Mod.reset.led) = [.off, .yellow, .off, .off] := by decide

/-- R488: HELD, ACTIVE, a voting lane, a held-out lane, one input. -/
theorem test_leds_held :
    (({ Mod.reset with service := .held, role := roleACTIVE } : Mod).led .state,
     ({ Mod.reset with role := roleACTIVE } : Mod).led .role,
     (Mod.reset.setLane .a { LaneSt.reset with powered := true, voting := true }).led (.lane .a),
     (Mod.reset.setLane .b { LaneSt.reset with heldOut := true }).led (.lane .b),
     ({ Mod.reset with power := Mod.reset.power.setSupply 1 ⟨1, true⟩ } : Mod).led .pwr) = (.red, .green, .green, .red, .greenSlow) := by
  decide
/-- A step from a sound state (StepKeepsTheModuleSound). -/
theorem wit_StepKeepsTheModuleSound : Machine.State.reset.m.Sound ∧ ∃ u, Machine.step Machine.State.reset = .next u :=
  ⟨⟨by decide, by decide⟩, ⟨_, rfl⟩⟩

end Sys2Proof.Tests
end

