-- ==== Sys2Proof/Proofs/Items.lean ====
section
/-!
SUPPORT and the settled statements on reset and on items: how a command that acts at its instant completes,
and what an item does to the lanes (01_one_logic_cycle.md R18, R19).
-/
namespace Sys2Proof.Machine

/-- A command that acts on the module at its instant completes with what the action makes of the module. -/
theorem Completes.of_at {c : Instr} {s : State} {t : Nat} {f : Mod → Mod} {P : Mod → Prop} (h : exec c s = s.at t f)
    (hp : P (f (s.m.advance t))) : Completes c s P :=
  ⟨⟨s.pending, f (s.m.advance t)⟩, h, rfl, hp⟩

theorem Lane.mem_all (x : Lane) : x ∈ Lane.all := by cases x <;> decide

/-! ### The rings of a lane -/

@[simp] theorem Rings.get_set_self (r : Rings) (p : Path) (v : Ring) : (r.set p v).get p = v := by cases p <;> rfl
theorem Rings.get_set_ne (r : Rings) (p q : Path) (v : Ring) (h : q ≠ p) : (r.set p v).get q = r.get q := by
  cases p <;> cases q <;> simp_all [Rings.get, Rings.set]

/-- A held port keeps the item waiting (R445). -/
theorem LaneSt.take_held (l : LaneSt) (p : Path) (i : Item) (h : l.tdm.portHeld p.port = true) :
    l.take p i = { l with portWait := l.portWait ++ [(p, i)] } := by
  simp [LaneSt.take, h]

/-- An open port lets the item join its ring. -/
theorem LaneSt.take_rings (l : LaneSt) (p : Path) (i : Item) (h : l.tdm.portHeld p.port = false) :
    (l.take p i).rings = l.rings.push p i := by
  simp [LaneSt.take, h, LaneSt.setSpace]

/-! ### Delivery to the lanes -/

/-- Whether a lane takes items of a path rests on that lane, the local I/O and the bridge. -/
theorem Mod.takes_congr (m n : Mod) (p : Path) (x : Lane) (hl : m.lane x = n.lane x) (hio : m.lio = n.lio) (hd : m.drp = n.drp) :
    m.takes p x = n.takes p x := by
  simp [Mod.takes, hl, hio, hd]

theorem Mod.ringPut_lanes_only (p : Path) (i : Item) (m : Mod) (x : Lane) :
    Mod.ringPut p i m x = { m with lanes := (Mod.ringPut p i m x).lanes } := by
  unfold Mod.ringPut
  split <;> rfl

theorem Mod.ringPut_lane_self (p : Path) (i : Item) (m : Mod) (x : Lane) :
    (Mod.ringPut p i m x).lane x = if m.takes p x then (m.lane x).take p i else m.lane x := by
  unfold Mod.ringPut
  split <;> simp

theorem Mod.ringPut_lane_ne (p : Path) (i : Item) (m : Mod) (x y : Lane) (h : y ≠ x) : (Mod.ringPut p i m x).lane y = m.lane y := by
  unfold Mod.ringPut
  split
  · exact Mod.lane_modLane_ne m x y _ h
  · rfl

theorem Mod.ringPut_takes_ne (p q : Path) (i : Item) (m : Mod) (x y : Lane) (h : y ≠ x) :
    (Mod.ringPut p i m x).takes q y = m.takes q y :=
  Mod.takes_congr _ _ q y (Mod.ringPut_lane_ne p i m x y h) (congrArg Mod.lio (Mod.ringPut_lanes_only p i m x) :)
    (congrArg Mod.drp (Mod.ringPut_lanes_only p i m x) :)

theorem Mod.foldl_ringPut_lane_not_mem (p : Path) (i : Item) (y : Lane) (xs : List Lane) (m : Mod) (h : y ∉ xs) :
    (xs.foldl (Mod.ringPut p i) m).lane y = m.lane y := by
  induction xs generalizing m with
  | nil => rfl
  | cons x xs ih =>
    obtain ⟨hne, hxs⟩ := List.ne_and_not_mem_of_not_mem_cons h
    rw [List.foldl_cons, ih _ hxs, Mod.ringPut_lane_ne p i m x y hne]

theorem Mod.foldl_ringPut_lane (p : Path) (i : Item) (y : Lane) (xs : List Lane) (m : Mod) (hd : xs.Nodup) (h : y ∈ xs) :
    (xs.foldl (Mod.ringPut p i) m).lane y = if m.takes p y then (m.lane y).take p i else m.lane y := by
  induction xs generalizing m with
  | nil => cases h
  | cons x xs ih =>
    obtain ⟨hx, hxs⟩ := List.nodup_cons.mp hd
    rw [List.foldl_cons]
    by_cases hy : y = x
    · subst hy
      rw [Mod.foldl_ringPut_lane_not_mem p i y xs _ hx, Mod.ringPut_lane_self]
    · rw [ih _ hxs ((List.mem_cons.mp h).resolve_left hy), Mod.ringPut_takes_ne p p i m x y hy, Mod.ringPut_lane_ne p i m x y hy]

/-- Each lane gets the item once, by itself, if it takes items of the path (R18). -/
theorem Mod.deliver_lane (m : Mod) (p : Path) (i : Item) (x : Lane) :
    (m.deliver p i).lane x = if m.takes p x then (m.lane x).take p i else m.lane x :=
  Mod.foldl_ringPut_lane p i x Lane.all m (by decide) (Lane.mem_all x)

/-- A delivery changes nothing outside the lanes. -/
theorem Mod.deliver_lanes_only (m : Mod) (p : Path) (i : Item) : m.deliver p i = { m with lanes := (m.deliver p i).lanes } := by
  simp only [Mod.deliver, Lane.all, List.foldl_cons, List.foldl_nil]
  rw [Mod.ringPut_lanes_only, Mod.ringPut_lanes_only, Mod.ringPut_lanes_only]

@[simp] theorem Mod.deliver_service (m : Mod) (p : Path) (i : Item) : (m.deliver p i).service = m.service :=
  (congrArg Mod.service (m.deliver_lanes_only p i) :)
@[simp] theorem Mod.deliver_cycle (m : Mod) (p : Path) (i : Item) : (m.deliver p i).cycle = m.cycle :=
  (congrArg Mod.cycle (m.deliver_lanes_only p i) :)
@[simp] theorem Mod.deliver_sent (m : Mod) (p : Path) (i : Item) : (m.deliver p i).sent = m.sent :=
  (congrArg Mod.sent (m.deliver_lanes_only p i) :)

theorem exec_itemReceive (p : Path) (cls num seq : Nat) (kind : ItemKind) (body : Bytes) (t : Nat) (s : State) :
    exec (.itemReceive p cls num seq kind body t) s = s.at t fun m => m.itemReceive p cls num seq kind body := rfl

/-- An item that its path carries is delivered, stamped with the arrival minor cycle (R19). -/
theorem Mod.itemReceive_of_carried (m : Mod) (p : Path) (cls num seq : Nat) (kind : ItemKind) (body : Bytes)
    (hc : p.classes.contains cls = true) (hk : p.kinds.contains kind = true) :
    m.itemReceive p cls num seq kind body = m.deliver p ⟨m.obx.mcn, cls, num, seq, kind, body⟩ :=
  if_pos ⟨hc, hk⟩

/-- Settles O58: the reset state is a literal, and each clause reads one of its fields. -/
theorem resetLeavesTheModuleDown : Obligations.ResetLeavesTheModuleDown := by
  unfold Obligations.ResetLeavesTheModuleDown
  have hlane (x : Lane) : State.reset.m.lane x = LaneSt.reset := PerLane.get_const _ x
  refine ⟨rfl, rfl, rfl, rfl, rfl, rfl, rfl, rfl, rfl, rfl, rfl, rfl, fun x => ?_, by decide, by decide⟩
  rw [hlane x]
  exact ⟨rfl, rfl, rfl, rfl, rfl, rfl⟩

/-- Settles O10: the delivery treats each lane by itself, and a lane that takes the item either pushes it or lets it wait at its port. -/
theorem itemReachesEachLaneOnce : Obligations.ItemReachesEachLaneOnce := by
  unfold Obligations.ItemReachesEachLaneOnce
  intro s p cls num seq kind body t hc hk i
  refine Completes.of_at (exec_itemReceive p cls num seq kind body t s) ?_
  have hitem : (s.m.advance t).itemReceive p cls num seq kind body = (s.m.advance t).deliver p i :=
    Mod.itemReceive_of_carried _ p cls num seq kind body hc hk
  rw [hitem]
  have hlane (x : Lane) : ((s.m.advance t).deliver p i).lane x = if s.m.takes p x then (s.m.lane x).take p i else s.m.lane x :=
    Mod.deliver_lane (s.m.advance t) p i x
  refine ⟨fun x hx hopen => ?_, fun x hx hheld => ?_, fun x hx => ?_, Mod.deliver_service _ _ _, Mod.deliver_cycle _ _ _,
    Mod.deliver_sent _ _ _⟩
  · have hrings : (((s.m.advance t).deliver p i).lane x).rings = (s.m.lane x).rings.push p i := by
      rw [hlane x, if_pos hx, LaneSt.take_rings _ p i hopen]
    rw [hrings]
    simp only [Rings.push, Rings.get_set_self, true_and]
    exact fun q hq => Rings.get_set_ne _ p q _ hq
  · exact (hlane x).trans ((if_pos hx).trans (LaneSt.take_held _ p i hheld))
  · exact (hlane x).trans (if_neg (by simp [hx]))

end Sys2Proof.Machine
end

