-- ==== Sys2Proof/Proofs/LocalGates.lean ====
section
/-!
SUPPORT and the settled statement on the gates of the local outputs: interrupts change no gate, a majority gate is two live commands,
and an output that follows its gates is ON only where both gates are (09_local_safety_io.md R276 to R278).
-/
namespace Sys2Proof.Machine

/-! ### Records change nothing but Amber -/

theorem Mod.puts_amber_only (m : Mod) (es : List Evt) : m.puts es = { m with amber := (m.puts es).amber } := by
  induction es generalizing m with
  | nil => rfl
  | cons e es ih => exact (ih (m.put e)).trans rfl

@[simp] theorem Mod.puts_lio (m : Mod) (es : List Evt) : (m.puts es).lio = m.lio := (congrArg Mod.lio (m.puts_amber_only es) :)

/-- An action of the local I/O leaves its new state in the module. -/
theorem Mod.lioDo_lio (m : Mod) (f : Lio → Lio × List Evt) (h : m.full = true) : (m.lioDo f).lio = (f m.lio).1 := by
  simp [Mod.lioDo, h]

/-! ### Interrupts -/

@[simp] theorem Lio.raise_lanes (l : Lio) (w : Word32) (x : Lane) :
    (l.raise w).lanes.get x = { l.lanes.get x with irq := (l.lanes.get x).irq ||| w } := by
  simp [Lio.raise]
@[simp] theorem Lio.raise_live (l : Lio) (w : Word32) (can : PerLane Bool) (x : Lane) : (l.raise w).live can x = l.live can x := by
  simp [Lio.live]

@[simp] theorem Lio.raise_zero (l : Lio) : l.raise 0 = l := by
  simp [Lio.raise, PerLane.map]

theorem Lio.raise_raise (l : Lio) (v w : Word32) : (l.raise v).raise w = l.raise (v ||| w) := by
  simp [Lio.raise, PerLane.map, BitVec.or_assoc]

/-- The records of a change of channel states come with interrupts and nothing else. -/
theorem Lio.changes_raise (old new : Lio) : ∃ w, (Lio.changes old new).1 = new.raise w := by
  unfold Lio.changes
  simp only
  split <;> split
  · exact ⟨0, new.raise_zero.symm⟩
  · exact ⟨_, rfl⟩
  · exact ⟨_, rfl⟩
  · exact ⟨_, new.raise_raise _ _⟩

/-! ### The gates -/

/-- A lane's command of one switch of each output. -/
def LioLane.command (v : LioLane) (hs : Bool) : Nat := if hs then v.hs else v.ls

/-- The lanes that count at a gate: live, and their command is on. -/
def Lio.commanding (l : Lio) (can : PerLane Bool) (hs : Bool) (o : Nat) : List Lane :=
  Lane.all.filter fun y => l.live can y && ((l.lanes.get y).command hs).testBit o

theorem Lio.gateIn_testBit (l : Lio) (can : PerLane Bool) (x : Lane) (hs : Bool) (o : Nat) :
    (l.gateIn can x hs).testBit o = (l.live can x && ((l.lanes.get x).command hs).testBit o) := by
  unfold Lio.gateIn LioLane.command
  cases l.live can x <;> simp

/-- A majority gate is on exactly where two live lanes command it (R28). -/
theorem Lio.gateOut_testBit (l : Lio) (can : PerLane Bool) (hs : Bool) (o : Nat) :
    (l.gateOut can hs).testBit o = true ↔ 2 ≤ (l.commanding can hs o).length := by
  have two_of_three (f : Lane → Bool) : (f .a && f .b || f .b && f .c || f .a && f .c) = true ↔ 2 ≤ (Lane.all.filter f).length := by
    cases ha : f .a <;> cases hb : f .b <;> cases hc : f .c <;> simp [Lane.all, ha, hb, hc]
  rw [Lio.commanding, ← two_of_three]
  simp only [Lio.gateOut, Nat.testBit_or, Nat.testBit_and, Lio.gateIn_testBit]

/-! ### Outputs that follow their gates -/

/-- An output is ON by its own state only where it is used, energised, outside LOCAL-SAFE, not inhibited and both gates are on. -/
theorem Lio.outFollow_on (l : Lio) (can : PerLane Bool) (o : Nat) (x : OutChan) (h : (l.outFollow can o x).state = 1) :
    l.outUsed o = true ∧ l.active = true ∧ l.lsafe = false ∧ (l.outFollow can o x).inhibited = false ∧
      (l.gateOut can true).testBit o = true ∧ (l.gateOut can false).testBit o = true := by
  unfold Lio.outFollow at h ⊢
  split at h
  · simp at h
  split at h
  · omega
  split at h
  · simp at h
  split at h
  · split at h <;> simp at h
  simp_all

/-- A channel after following: one of the controller's channels followed, or none at all. -/
theorem Lio.follow_outCh (l : Lio) (can : PerLane Bool) (o : Nat) :
    (l.follow can).outCh o = OutChan.reset ∨ ∃ x, (l.follow can).outCh o = l.outFollow can o x := by
  simp only [Lio.outCh, Lio.follow, List.getD_eq_getElem?_getD, List.getElem?_mapIdx]
  cases l.outs[o]? with
  | none => exact Or.inl rfl
  | some x => exact Or.inr ⟨x, rfl⟩

/-- How every action on the gates ends: LOCAL-SAFE as it then stands, the outputs brought to their gates, interrupts raised. -/
def Lio.followed (l : Lio) (can : PerLane Bool) (safe : Bool) (w : Word32) : Lio := (({ l with lsafe := safe } : Lio).follow can).raise w

section
variable (l : Lio) (can : PerLane Bool) (safe : Bool) (w : Word32)

@[simp] theorem Lio.followed_lanes (x : Lane) :
    (l.followed can safe w).lanes.get x = { l.lanes.get x with irq := (l.lanes.get x).irq ||| w } :=
  Lio.raise_lanes _ w x
@[simp] theorem Lio.followed_lsafe : (l.followed can safe w).lsafe = safe := rfl
@[simp] theorem Lio.followed_live (x : Lane) : (l.followed can safe w).live can x = l.live can x := by
  simp [Lio.live]
@[simp] theorem Lio.followed_liveCount : (l.followed can safe w).liveCount can = l.liveCount can := by
  simp [Lio.liveCount, funext (Lio.followed_live l can safe w)]
theorem Lio.followed_commanding (hs : Bool) (o : Nat) :
    (l.followed can safe w).commanding can hs o = ({ l with lsafe := safe } : Lio).commanding can hs o := by
  simp only [Lio.commanding, LioLane.command, Lio.followed_live, Lio.followed_lanes]
  rfl

/-- An ON output has two live lanes behind each of its switches (R28, R278). -/
theorem Lio.on_of_followed (o : Nat) (h : ((l.followed can safe w).outCh o).state = 1) :
    2 ≤ ((l.followed can safe w).commanding can true o).length ∧ 2 ≤ ((l.followed can safe w).commanding can false o).length ∧
      (l.followed can safe w).outUsed o = true ∧ (l.followed can safe w).active = true ∧ safe = false ∧
      ((l.followed can safe w).outCh o).inhibited = false := by
  rw [Lio.followed_commanding, Lio.followed_commanding, ← Lio.gateOut_testBit, ← Lio.gateOut_testBit]
  have hch : (l.followed can safe w).outCh o = (({ l with lsafe := safe } : Lio).follow can).outCh o := rfl
  rw [hch] at h ⊢
  obtain hx | ⟨x, hx⟩ := Lio.follow_outCh { l with lsafe := safe } can o
  · rw [hx] at h
    cases h
  · rw [hx] at h ⊢
    obtain ⟨hused, hact, hsafe, hinh, hhs, hls⟩ := Lio.outFollow_on { l with lsafe := safe } can o x h
    exact ⟨hhs, hls, hused, hact, hsafe, hinh⟩
end

/-! ### Refreshing a lane and missing a refresh -/

@[simp] theorem Lio.watchLive_lanes (l : Lio) (can : PerLane Bool) (t : Nat) : (l.watchLive can t).lanes = l.lanes := by
  unfold Lio.watchLive
  repeat' split
  all_goals rfl
@[simp] theorem Lio.watchLive_lsafe (l : Lio) (can : PerLane Bool) (t : Nat) : (l.watchLive can t).lsafe = l.lsafe := by
  unfold Lio.watchLive
  repeat' split
  all_goals rfl
@[simp] theorem Lio.watchLive_live (l : Lio) (can : PerLane Bool) (t : Nat) (x : Lane) : (l.watchLive can t).live can x = l.live can x := by
  simp [Lio.live]
@[simp] theorem Lio.watchLive_liveCount (l : Lio) (can : PerLane Bool) (t : Nat) : (l.watchLive can t).liveCount can = l.liveCount can := by
  simp [Lio.liveCount, funext (Lio.watchLive_live l can t)]

/-- The instant since which too few lanes are live stands while they are too few. -/
theorem Lio.watchLive_below (l : Lio) (can : PerLane Bool) (t since : Nat) (hb : l.belowSince = some since) (hl : l.liveCount can < 2) :
    l.watchLive can t = l := by
  rw [Lio.watchLive, if_neg (Nat.not_le.mpr hl), hb]

@[simp] theorem Lio.raise_gateIn (l : Lio) (w : Word32) (can : PerLane Bool) (x : Lane) (hs : Bool) :
    (l.raise w).gateIn can x hs = l.gateIn can x hs := by
  simp [Lio.gateIn]
@[simp] theorem Lio.raise_gateOut (l : Lio) (w : Word32) (can : PerLane Bool) (hs : Bool) : (l.raise w).gateOut can hs = l.gateOut can hs := by
  simp [Lio.gateOut]
theorem Lio.raise_outFollow (l : Lio) (w : Word32) (can : PerLane Bool) : (l.raise w).outFollow can = l.outFollow can := by
  funext o x
  unfold Lio.outFollow
  simp only [Lio.raise_gateOut]
  rfl
theorem Lio.raise_follow (l : Lio) (w : Word32) (can : PerLane Bool) : (l.raise w).follow can = (l.follow can).raise w := by
  unfold Lio.follow
  rw [Lio.raise_outFollow]
  rfl

/-- The end of an action that follows the gates: what it made of the controller, followed, with some interrupts raised on the way. -/
theorem Lio.changes_follow (old new : Lio) (v : Word32) (can : PerLane Bool) :
    ∃ w, (Lio.changes old ((new.raise v).follow can)).1 = (new.follow can).raise w := by
  obtain ⟨w, hw⟩ := Lio.changes_raise old ((new.raise v).follow can)
  exact ⟨v ||| w, by rw [hw, Lio.raise_follow, Lio.raise_raise]⟩

/-- The same where LOCAL-SAFE changes, with its interrupt, on a condition. -/
theorem Lio.changes_follow_lsafe (old new : Lio) (can : PerLane Bool) (c b : Bool) (v : Word32) :
    ∃ w, (Lio.changes old ((if c then ({ new with lsafe := b } : Lio).raise v else new).follow can)).1 =
      new.followed can (if c then b else new.lsafe) w := by
  cases c with
  | true => exact Lio.changes_follow old { new with lsafe := b } v can
  | false =>
    have h := Lio.changes_follow old new 0 can
    rwa [Lio.raise_zero] at h

/-- The controller with lane `x` refreshed by a write of LIO_DO2 (R277). -/
def Lio.refresh (l : Lio) (x : Lane) (t : Nat) (w : Word32) : Lio :=
  { l with lanes := l.lanes.set x { ({ l.lanes.get x with do2 := w } : LioLane).present with lastRefresh := t, refreshed := true } }

/-- The controller with lane `x` not refreshed in time (R277). -/
def Lio.expire (l : Lio) (x : Lane) : Lio := { l with lanes := l.lanes.set x { l.lanes.get x with refreshed := false } }

theorem Lio.refresh_live_ne (l : Lio) (x y : Lane) (t : Nat) (w : Word32) (can : PerLane Bool) (h : y ≠ x) :
    (l.refresh x t w).live can y = l.live can y := by
  simp [Lio.live, Lio.refresh, PerLane.get_set_ne _ x y _ h]

theorem Lio.expire_live (l : Lio) (x y : Lane) (can : PerLane Bool) :
    (l.expire x).live can y = (decide (y ≠ x) && l.live can y) := by
  by_cases h : y = x
  · subst h
    simp [Lio.live, Lio.expire]
  · simp [Lio.live, Lio.expire, PerLane.get_set_ne _ x y _ h, h]

theorem Lio.expire_liveCount (l : Lio) (x : Lane) (can : PerLane Bool) :
    (l.expire x).liveCount can = (Lane.all.filter fun y => decide (y ≠ x) && l.live can y).length := by
  rw [Lio.liveCount, funext fun y => l.expire_live x y can]

/-- What a write of LIO_DO2 makes of the controller (R277, R278): LOCAL-SAFE ends where two lanes are live. -/
theorem Lio.do2Write_eq (l : Lio) (can : PerLane Bool) (x : Lane) (t : Nat) (w : Word32) :
    ∃ safe v, (l.do2Write can x t w).1 = ((l.refresh x t w).watchLive can t).followed can safe v ∧
      (l.lsafe = true → (safe = false ↔ 2 ≤ (l.refresh x t w).liveCount can)) := by
  obtain ⟨v, hv⟩ := Lio.changes_follow_lsafe l ((l.refresh x t w).watchLive can t) can
    (((l.refresh x t w).watchLive can t).lsafe && decide (2 ≤ ((l.refresh x t w).watchLive can t).liveCount can)) false lioLSAFE
  refine ⟨_, v, hv, fun hl => ?_⟩
  have hsafe : (l.refresh x t w).lsafe = true := hl
  simp [hsafe]

/-- Whether a lane has missed its refresh (R277): it stands expired, or its last refresh is TSIL ago. -/
def Lio.missed (l : Lio) (x : Lane) (t : Nat) : Prop :=
  (l.lanes.get x).refreshed = false ∨ l.tsilMs * 1000000 ≤ t - (l.lanes.get x).lastRefresh

/-- Whether LOCAL-SAFE is entered (R278): too few lanes have been live for TSIL. -/
def Lio.enters (l : Lio) (t tsil : Nat) : Bool :=
  match l.belowSince with
  | some s0 => !l.lsafe && decide (t - s0 ≥ tsil)
  | none => false

theorem Lio.enters_or_safe (l : Lio) (t tsil since : Nat) (hs : l.belowSince = some since) (ht : tsil ≤ t - since) :
    (if l.enters t tsil then true else l.lsafe) = true := by
  simp [Lio.enters, hs, ht]

/-- What a missed refresh makes of the controller (R277, R278): LOCAL-SAFE once too few lanes were live for TSIL. -/
theorem Lio.refreshTimeout_eq (l : Lio) (can : PerLane Bool) (x : Lane) (t : Nat) (hm : l.missed x t) :
    ∃ safe v, (l.refreshTimeout can x t).1 = ((l.expire x).watchLive can t).followed can safe v ∧
      ∀ since, ((l.expire x).watchLive can t).belowSince = some since → l.tsilMs * 1000000 ≤ t - since → safe = true := by
  have hstale : ((l.lanes.get x).refreshed && decide (t - (l.lanes.get x).lastRefresh < l.tsilMs * 1000000)) = false := by
    obtain hm | hm := hm
    · simp [hm]
    · simp [Nat.not_lt.mpr hm]
  obtain ⟨v, hv⟩ := Lio.changes_follow_lsafe l ((l.expire x).watchLive can t) can
    (((l.expire x).watchLive can t).enters t (l.tsilMs * 1000000)) true lioLSAFE
  refine ⟨_, v, ?_, fun since hs ht => Lio.enters_or_safe _ t _ since hs ht⟩
  rw [← hv]
  simp only [Lio.refreshTimeout, hstale]
  rfl

/-- The upper third of the presented commands is LIO_DO2 (R291). -/
theorem LioLane.present_hs_high (v : LioLane) : v.present.hs / 2 ^ 32 = v.do2.toNat % 65536 := by
  simp only [LioLane.present, Nat.shiftLeft_eq]
  omega
theorem LioLane.present_ls_high (v : LioLane) : v.present.ls / 2 ^ 32 = v.do2.toNat / 65536 := by
  have h0 := v.do0.isLt
  have h1 := v.do1.isLt
  simp only [LioLane.present, Nat.shiftLeft_eq]
  omega

/-! ### The commands -/

theorem exec_lioDo2Write (x : Lane) (w : Word32) (t : Nat) (s : State) :
    exec (.lioDo2Write x w t) s = s.at t fun m => m.lioDo2Write x w := rfl
theorem exec_laneRefreshTimeout (x : Lane) (t : Nat) (s : State) :
    exec (.laneRefreshTimeout x t) s = s.at t fun m => m.lioRefreshTimeout x := rfl
theorem exec_lioFstartWrite (x : Lane) (v : Word32) (t : Nat) (s : State) :
    exec (.lioFstartWrite x v t) s = s.at t fun m => m.lioFstartWrite x v := rfl

theorem Mod.lioDo2Write_lio (m : Mod) (x : Lane) (w : Word32) (hf : m.full = true) (hp : (m.lane x).powered = true) :
    (m.lioDo2Write x w).lio = (m.lio.do2Write m.can x m.clock w).1 := by
  rw [Mod.lioDo2Write, if_pos hp, Mod.lioDo_lio m _ hf]
theorem Mod.lioRefreshTimeout_lio (m : Mod) (x : Lane) (hf : m.full = true) :
    (m.lioRefreshTimeout x).lio = (m.lio.refreshTimeout m.can x m.clock).1 :=
  Mod.lioDo_lio m _ hf
theorem Mod.lioFstartWrite_lio (m : Mod) (x : Lane) (v : Word32) (hf : m.full = true) (hp : (m.lane x).powered = true) :
    (m.lioFstartWrite x v).lio = m.lio.fstartWrite x v := by
  rw [Mod.lioFstartWrite, if_pos hp, Mod.lioSet, if_pos hf]

/-- Settles O40: every action ends by following the gates, and an output that follows is ON only behind two live commands on each side. -/
theorem outputsNeedTwoLiveLanes : Obligations.OutputsNeedTwoLiveLanes := by
  unfold Obligations.OutputsNeedTwoLiveLanes
  intro s x w t hfull m0 l now two
  refine ⟨fun hp => Completes.of_at (exec_lioDo2Write x w t s) ?_, fun hmiss => Completes.of_at (exec_laneRefreshTimeout x t s) ?_,
    fun hp v => Completes.of_at (exec_lioFstartWrite x v t s) ?_⟩
  · obtain ⟨safe, v, heq, hsafe⟩ := l.do2Write_eq s.m.can x now w
    have hlio : (m0.lioDo2Write x w).lio = _ := (Mod.lioDo2Write_lio m0 x w hfull hp).trans heq
    have hlane : (l.refresh x now w).lanes.get x =
        { ({ l.lanes.get x with do2 := w } : LioLane).present with lastRefresh := now, refreshed := true } := PerLane.get_set_self _ _ _
    rw [hlio]
    simp only [Lio.followed_lanes, Lio.watchLive_lanes, hlane, Lio.followed_lsafe, Lio.followed_liveCount, Lio.watchLive_liveCount,
      Lio.followed_live, Lio.watchLive_live]
    refine ⟨rfl, trivial, trivial, LioLane.present_hs_high _, LioLane.present_ls_high _, fun o ho => ?_, hsafe,
      fun y hy => Lio.refresh_live_ne l x y now w _ hy⟩
    obtain ⟨hhs, hls, hused, hact, hoff, hinh⟩ := Lio.on_of_followed _ s.m.can safe v o ho
    exact ⟨hhs, hls, hused, hact, hoff, hinh⟩
  · obtain ⟨safe, v, heq, hsafe⟩ := l.refreshTimeout_eq s.m.can x now hmiss
    have hlio : (m0.lioRefreshTimeout x).lio = _ := (Mod.lioRefreshTimeout_lio m0 x hfull).trans heq
    have on (o : Nat) := Lio.on_of_followed ((l.expire x).watchLive s.m.can now) s.m.can safe v o
    rw [hlio]
    refine ⟨?_, fun since hb hfew ht => ?_, fun o ho => ?_⟩
    · simp [Lio.expire_live]
    · have hbelow : (l.expire x).watchLive s.m.can now = l.expire x :=
        Lio.watchLive_below _ _ now since hb (by rwa [Lio.expire_liveCount])
      have hs : safe = true := hsafe since (by rw [hbelow]; exact hb) ht
      refine ⟨hs, fun o ho => ?_⟩
      obtain ⟨-, -, -, -, hoff, -⟩ := on o ho
      rw [hs] at hoff
      cases hoff
    · obtain ⟨hhs, hls, -⟩ := on o ho
      exact ⟨hhs, hls⟩
  · have hlio : (m0.lioFstartWrite x v).lio = l.fstartWrite x v := Mod.lioFstartWrite_lio m0 x v hfull hp
    rw [hlio]
    exact ⟨by simp [Lio.fstartWrite], rfl⟩

end Sys2Proof.Machine
end

