-- ==== Sys2Proof/Proofs/Held.lean ====
section
/-!
SUPPORT. The service state, the phase and the vote window under the operations that commands share, and what silence and entry into HELD do
to a lane (06_lanes_and_voting.md R152, R154, R179; 12_faults_and_guarantees.md R363, R501).
-/
namespace Sys2Proof.Machine

/-! ### Service state, phase and vote window -/

/-- What the operations of a cycle leave alone unless the module enters HELD: the service state, the phase, and the vote window with the
instant of its opening. -/
def Mod.stage (m : Mod) : Service × CyclePh × Option Nat := (m.service, m.ph, m.winAt)

/-- A module in HELD between cycles: no phase runs and no vote window is open. -/
def heldStage : Service × CyclePh × Option Nat := (.held, .idle, none)

theorem Mod.stage_foldl {α : Type} (f : Mod → α → Mod) (xs : List α) (m : Mod) (h : ∀ m a, (f m a).stage = m.stage) :
    (xs.foldl f m).stage = m.stage := by
  induction xs generalizing m with
  | nil => rfl
  | cons a xs ih => rw [List.foldl_cons, ih, h]

/-- From `m` to `m'` the stage stands, or the module went into HELD. -/
def Mod.Went (m m' : Mod) : Prop := m'.stage = m.stage ∨ m'.stage = heldStage

theorem Mod.Went.of_eq {m m' : Mod} (h : m'.stage = m.stage) : m.Went m' := Or.inl h

theorem Mod.Went.trans {m m' m'' : Mod} (h : m.Went m') (h' : m'.Went m'') : m.Went m'' := by
  obtain h' | h' := h'
  · exact h.imp h'.trans h'.trans
  · exact Or.inr h'

theorem Mod.Went.foldl {α : Type} (f : Mod → α → Mod) (xs : List α) (m : Mod) (h : ∀ m a, Mod.Went m (f m a)) : m.Went (xs.foldl f m) := by
  induction xs generalizing m with
  | nil => exact .of_eq rfl
  | cons a xs ih => exact (h m a).trans (ih (f m a))

section
variable (m : Mod) (x : Lane)

@[simp] theorem Mod.setLane_stage (l : LaneSt) : (m.setLane x l).stage = m.stage := rfl
@[simp] theorem Mod.modLane_stage (f : LaneSt → LaneSt) : (m.modLane x f).stage = m.stage := rfl
@[simp] theorem Mod.puts_stage (es : List Evt) : (m.puts es).stage = m.stage := Mod.stage_foldl _ es m fun _ _ => rfl
@[simp] theorem Mod.pairSend_stage (ty : Nat) (b : Bytes) : (m.pairSend ty b).stage = m.stage := by
  unfold Mod.pairSend
  split <;> rfl
@[simp] theorem Mod.gates_stage : m.gates.stage = m.stage := by
  simp only [Mod.gates, Mod.puts_stage]
  rfl
@[simp] theorem Mod.lowerCause_stage (cause : Nat) : (m.lowerCause cause).stage = m.stage := by
  unfold Mod.lowerCause
  split <;> rfl
end

/-! ### Entry into HELD -/

theorem Mod.gates_lio_amber_only (m : Mod) : m.gates = { m with lio := m.gates.lio, amber := m.gates.amber } := by
  have h := Mod.puts_amber_only { m with lio := (Lio.changes m.lio ((m.lio.watchLive m.can m.clock).follow m.can)).1 }
    (Lio.changes m.lio ((m.lio.watchLive m.can m.clock).follow m.can)).2
  unfold Mod.gates
  simp only
  rw [h]

@[simp] theorem Mod.gates_lanes (m : Mod) : m.gates.lanes = m.lanes := (congrArg Mod.lanes m.gates_lio_amber_only :)
@[simp] theorem Mod.gates_lane (m : Mod) (x : Lane) : m.gates.lane x = m.lane x := congrArg (PerLane.get · x) m.gates_lanes

@[simp] theorem Mod.gates_heldCause (m : Mod) : m.gates.heldCause = m.heldCause := (congrArg Mod.heldCause m.gates_lio_amber_only :)
@[simp] theorem Mod.gates_handed (m : Mod) : m.gates.handed = m.handed := (congrArg Mod.handed m.gates_lio_amber_only :)
@[simp] theorem Mod.gates_outWait (m : Mod) : m.gates.outWait = m.outWait := (congrArg Mod.outWait m.gates_lio_amber_only :)

/-- What HELD does to the role leaves everything but the role, the pair and what is sent. -/
theorem Mod.heldRole_only (m : Mod) :
    m.heldRole = { m with role := m.heldRole.role, pair := m.heldRole.pair, sent := m.heldRole.sent } := by
  unfold Mod.heldRole Mod.ctrl Mod.pairSend
  repeat' split
  all_goals rfl

@[simp] theorem Mod.heldRole_stage (m : Mod) : m.heldRole.stage = m.stage := (congrArg Mod.stage m.heldRole_only :)
@[simp] theorem Mod.heldRole_lanes (m : Mod) : m.heldRole.lanes = m.lanes := (congrArg Mod.lanes m.heldRole_only :)
@[simp] theorem Mod.heldRole_heldCause (m : Mod) : m.heldRole.heldCause = m.heldCause := (congrArg Mod.heldCause m.heldRole_only :)
@[simp] theorem Mod.heldRole_handed (m : Mod) : m.heldRole.handed = m.handed := (congrArg Mod.handed m.heldRole_only :)
@[simp] theorem Mod.heldRole_outWait (m : Mod) : m.heldRole.outWait = m.outWait := (congrArg Mod.outWait m.heldRole_only :)

@[simp] theorem Mod.setService_lanes (m : Mod) (s : Service) : (m.setService s).lanes = m.lanes := by
  unfold Mod.setService
  split <;> rfl

/-- A module that is HELD already keeps its cause or takes a lower one (R501). -/
theorem Mod.enterHeld_again (m : Mod) (cause : Nat) (h : m.service = .held) : m.enterHeld cause = m.lowerCause cause := if_pos h

/-- Entry into HELD (R363, R501): the cycle ends with nothing to hand over, and every lane is held. -/
theorem Mod.enterHeld_first (m : Mod) (cause : Nat) (h : m.service ≠ .held) :
    (m.enterHeld cause).stage = heldStage ∧ (m.enterHeld cause).heldCause = cause ∧ (m.enterHeld cause).handed = true ∧
      (m.enterHeld cause).outWait = none ∧ (m.enterHeld cause).lanes = m.lanes.map LaneSt.hold := by
  simp only [Mod.enterHeld, if_neg h, Mod.heldRole_stage, Mod.gates_stage, Mod.heldRole_heldCause, Mod.gates_heldCause,
    Mod.heldRole_handed, Mod.gates_handed, Mod.heldRole_outWait, Mod.gates_outWait, Mod.heldRole_lanes, Mod.gates_lanes,
    Mod.put_lanes, Mod.setService_lanes, and_true]
  simp [Mod.stage, heldStage, Mod.setService, h]

theorem Mod.enterHeld_service (m : Mod) (cause : Nat) : (m.enterHeld cause).service = .held := by
  by_cases h : m.service = .held
  · rw [m.enterHeld_again cause h]
    exact (congrArg Prod.fst (m.lowerCause_stage cause)).trans h
  · exact congrArg Prod.fst (m.enterHeld_first cause h).1

theorem Mod.inService_ne_held (m : Mod) (h : m.inService = true) : m.service ≠ .held := by
  intro hs
  simp [Mod.inService, hs] at h

/-- Out of service means gone into HELD, for a module that was in service. -/
theorem Mod.Went.held {m m' : Mod} (h : m.Went m') (hs : m.inService = true) (hn : m'.inService = false) : m'.stage = heldStage := by
  refine h.resolve_left fun h => ?_
  have hsame : m'.service = m.service := congrArg Prod.fst h
  have hin : m'.inService = m.inService := by simp only [Mod.inService, hsame]
  rw [hin, hs] at hn
  cases hn

/-- A module that was in service and now enters HELD, for the first time or again, is between cycles. -/
theorem Mod.Went.enterHeld {m m' : Mod} (h : m.Went m') (hs : m.inService = true) (cause : Nat) :
    (m'.enterHeld cause).stage = heldStage := by
  by_cases hh : m'.service = .held
  · rw [m'.enterHeld_again cause hh, Mod.lowerCause_stage]
    exact h.held hs (by simp [Mod.inService, hh])
  · exact (m'.enterHeld_first cause hh).1

/-- A module that went on from `m` between cycles is between cycles. -/
theorem Mod.Went.idle {m m' : Mod} (h : m.Went m') (hw : m.winAt = none) (hp : m.ph = .idle) : m'.winAt = none ∧ m'.ph = .idle := by
  obtain h | h := h <;> simp only [Mod.stage, heldStage, Prod.mk.injEq] at h <;> obtain ⟨-, hph, hwin⟩ := h
  · exact ⟨hwin.trans hw, hph.trans hp⟩
  · exact ⟨hwin, hph⟩

/-- Too few counting lanes hold the module, else nothing happens (R175, R180). -/
theorem Mod.tooFew_cases (m : Mod) : m.tooFew = m ∨ ∃ cause, m.service ≠ .held ∧ m.tooFew = m.enterHeld cause := by
  unfold Mod.tooFew
  split
  case isTrue h => exact Or.inr ⟨_, m.inService_ne_held h.1, rfl⟩
  case isFalse => exact Or.inl rfl

/-- From `m` to `m'` the stage of the cycle stands, the other lanes stand, and lane `x` votes and runs its programs as before. -/
def Mod.Beside (x : Lane) (m m' : Mod) : Prop :=
  m'.stage = m.stage ∧ (∀ y, y ≠ x → m'.lane y = m.lane y) ∧ (m'.lane x).voting = (m.lane x).voting ∧ (m'.lane x).rt = (m.lane x).rt

theorem Mod.Beside.of_lanes {x : Lane} {m m' : Mod} (hs : m'.stage = m.stage) (hl : m'.lanes = m.lanes) : m.Beside x m' := by
  have h (y : Lane) : m'.lane y = m.lane y := congrArg (PerLane.get · y) hl
  exact ⟨hs, fun y _ => h y, by rw [h], by rw [h]⟩

theorem Mod.Beside.of_setLane {x : Lane} (m : Mod) (l : LaneSt) (hv : l.voting = (m.lane x).voting) (hr : l.rt = (m.lane x).rt) :
    m.Beside x (m.setLane x l) :=
  ⟨rfl, fun y hy => m.lane_setLane_ne x y l hy, by rw [m.lane_setLane_self, hv], by rw [m.lane_setLane_self, hr]⟩

theorem Mod.Beside.trans {x : Lane} {m m' m'' : Mod} (h : m.Beside x m') (h' : m'.Beside x m'') : m.Beside x m'' := by
  obtain ⟨hs, hl, hv, hr⟩ := h
  obtain ⟨hs', hl', hv', hr'⟩ := h'
  exact ⟨hs'.trans hs, fun y hy => (hl' y hy).trans (hl y hy), hv'.trans hv, hr'.trans hr⟩

/-- A failed shadow cycle ends the shadow of its lane, or holds the lane out (R179). -/
theorem Mod.shadowFail_beside (m : Mod) (x : Lane) : m.Beside x (m.shadowFail x) := by
  unfold Mod.shadowFail
  split
  case h_1 => exact .of_lanes rfl rfl
  case h_2 c _ =>
    split
    · exact .of_lanes rfl rfl
    extract_lets m1 day l exits m2
    have hend : m.Beside x m1 := .of_setLane m _ rfl rfl
    split
    · exact hend.trans (.of_lanes rfl rfl)
    have hout : m.Beside x m2 := hend.trans
      ((Mod.Beside.of_setLane m1 { l with exits := exits, heldOut := true, released := false, stopped := true } rfl rfl).trans
        (.of_lanes rfl rfl))
    split
    · split <;> exact hout.trans (.of_lanes rfl rfl)
    · exact hout.trans (.of_lanes rfl rfl)

/-! ### Silence (R154) -/

/-- A lane that drives no gate: it does not vote, or it is silent. -/
def LaneSt.off (l : LaneSt) : Prop := l.voting = false ∨ l.silent = true

theorem Mod.can_of_off (m : Mod) (x : Lane) (h : (m.lane x).off) : m.can.get x = false := by
  rw [Mod.can, PerLane.get_map]
  obtain h | h := h
  all_goals
    rw [Mod.lane] at h
    simp [h]

theorem LaneSt.hold_voting (l : LaneSt) : l.hold.voting = false := by
  unfold LaneSt.hold LaneSt.abortChange
  split <;> rfl
theorem LaneSt.hold_exc (l : LaneSt) : l.hold.rt.exc = l.rt.exc := by
  unfold LaneSt.hold LaneSt.abortChange
  split <;> rfl
theorem LaneSt.leave_silent (l : LaneSt) (c : Nat) : (l.leave c).silent = l.silent := by
  unfold LaneSt.leave
  split <;> rfl
theorem LaneSt.leave_rt (l : LaneSt) (c : Nat) : (l.leave c).rt = l.rt := by
  unfold LaneSt.leave
  split <;> rfl

theorem Mod.tooFew_lane (m : Mod) (y : Lane) : m.tooFew.lane y = m.lane y ∨ m.tooFew.lane y = (m.lane y).hold := by
  obtain h | ⟨cause, hs, h⟩ := m.tooFew_cases
  · exact Or.inl (by rw [h])
  · obtain ⟨-, -, -, -, hl⟩ := m.enterHeld_first cause hs
    exact Or.inr (by rw [h, Mod.lane, hl, PerLane.get_map]; rfl)

theorem Mod.tooFew_went (m : Mod) : m.Went m.tooFew := by
  obtain h | ⟨cause, hs, h⟩ := m.tooFew_cases
  · exact Or.inl (by rw [h])
  · exact Or.inr (by rw [h]; exact (m.enterHeld_first cause hs).1)

/-- What silence does inside its lane. -/
def LaneSt.silenced (l : LaneSt) (c level unitNo : Nat) : LaneSt := (l.noteFault c level unitNo).quiet

section
variable (l : LaneSt) (c level unitNo : Nat)

@[simp] theorem LaneSt.silenced_silent : (l.silenced c level unitNo).silent = true := rfl
@[simp] theorem LaneSt.silenced_voting : (l.silenced c level unitNo).voting = l.voting := by
  unfold LaneSt.silenced LaneSt.quiet LaneSt.noteFault
  split <;> rfl
@[simp] theorem LaneSt.silenced_rt : (l.silenced c level unitNo).rt = l.rt := by
  unfold LaneSt.silenced LaneSt.quiet LaneSt.noteFault
  split <;> rfl
end

section
variable (m : Mod) (x y : Lane) (c level unitNo : Nat)

/-- Silence by what the lane was before: a counting lane leaves, a lane in shadow fails its shadow cycle, else only the gates follow. -/
theorem Mod.silence_cases :
    m.silence x c level unitNo = (m.setLane x ((m.lane x).silenced c level unitNo)).gates ∨
    m.silence x c level unitNo = (m.setLane x (((m.lane x).silenced c level unitNo).leave c)).gates.tooFew ∨
    (m.lane x).voting = false ∧
      m.silence x c level unitNo = (m.setLane x ((m.lane x).silenced c level unitNo)).gates.shadowFail x := by
  have hset (l : LaneSt) (f : LaneSt → LaneSt) : (m.setLane x l).modLane x f = m.setLane x (f l) := by cases x <;> rfl
  unfold Mod.silence
  extract_lets l m1
  split
  · exact Or.inl rfl
  split
  · exact Or.inr (Or.inl (by rw [hset]; rfl))
  split
  · exact Or.inr (Or.inr ⟨by simp_all [l], rfl⟩)
  · exact Or.inl rfl

/-- Silence of a lane either leaves the stage of the cycle, or the module with too few lanes left is HELD. -/
theorem Mod.silence_went : m.Went (m.silence x c level unitNo) := by
  obtain h | h | ⟨-, h⟩ := m.silence_cases x c level unitNo <;> rw [h]
  · exact Or.inl (by simp)
  · exact (Mod.Went.of_eq (by simp)).trans (Mod.tooFew_went _)
  · exact Or.inl ((Mod.shadowFail_beside _ x).1.trans (by simp))

/-- Another lane is left as it is, or held with the module. -/
theorem Mod.silence_lane_ne (hy : y ≠ x) :
    (m.silence x c level unitNo).lane y = m.lane y ∨ (m.silence x c level unitNo).lane y = (m.lane y).hold := by
  obtain h | h | ⟨-, h⟩ := m.silence_cases x c level unitNo <;> rw [h]
  · exact Or.inl (by simp [Mod.lane_setLane_ne _ x y _ hy])
  · simpa [Mod.lane_setLane_ne _ x y _ hy] using Mod.tooFew_lane (m.setLane x (((m.lane x).silenced c level unitNo).leave c)).gates y
  · obtain ⟨-, hl, -⟩ := Mod.shadowFail_beside (m.setLane x ((m.lane x).silenced c level unitNo)).gates x
    exact Or.inl ((hl y hy).trans (by simp [Mod.lane_setLane_ne _ x y _ hy]))

/-- The lane itself drives no gate any more and keeps its program exception. -/
theorem Mod.silence_self :
    ((m.silence x c level unitNo).lane x).off ∧ ((m.silence x c level unitNo).lane x).rt.exc = (m.lane x).rt.exc := by
  obtain h | h | ⟨hv, h⟩ := m.silence_cases x c level unitNo <;> rw [h]
  · simp [LaneSt.off]
  · obtain h | h := Mod.tooFew_lane (m.setLane x (((m.lane x).silenced c level unitNo).leave c)).gates x
    · simp [h, LaneSt.off, LaneSt.leave_silent, LaneSt.leave_rt]
    · simp [h, LaneSt.off, LaneSt.hold_voting, LaneSt.hold_exc, LaneSt.leave_rt]
  · obtain ⟨-, -, hvot, hrt⟩ := Mod.shadowFail_beside (m.setLane x ((m.lane x).silenced c level unitNo)).gates x
    simp [LaneSt.off, hvot, hrt, hv]

/-- A lane that drives no gate drives none after any silence. -/
theorem Mod.silence_off (h : (m.lane y).off) : ((m.silence x c level unitNo).lane y).off := by
  by_cases hy : y = x
  · subst hy
    exact (m.silence_self y c level unitNo).1
  · obtain hl | hl := m.silence_lane_ne x y c level unitNo hy <;> rw [hl]
    · exact h
    · exact Or.inl (m.lane y).hold_voting

/-- Silence leaves every lane's program exception. -/
theorem Mod.silence_exc : ((m.silence x c level unitNo).lane y).rt.exc = (m.lane y).rt.exc := by
  by_cases hy : y = x
  · subst hy
    exact (m.silence_self y c level unitNo).2
  · obtain hl | hl := m.silence_lane_ne x y c level unitNo hy <;> rw [hl]
    exact (m.lane y).hold_exc
end

end Sys2Proof.Machine
end

