-- ==== Sys2Proof/Proofs/CyclePhases.lean ====
section
/-!
SUPPORT and the settled statement on the phases of a cycle: the cut, the wait for its items, offers, run time and hand-over
(01_one_logic_cycle.md R15 to R20, R99; 06_lanes_and_voting.md R170).
-/
namespace Sys2Proof.Machine

/-! ### The lanes of a cycle -/

theorem Mod.mem_running_iff (m : Mod) (x : Lane) :
    x ∈ m.running ↔ ((m.lane x).voting = true ∨ (m.lane x).shadow = true) ∧ (m.lane x).partakes = true := by
  simp [Mod.running, Lane.mem_all x]

/-! ### The cut (R20) -/

theorem Mod.cutLane_lane_self (m : Mod) (x : Lane) :
    ((m.cutLane x).lane x).cut = some (Path.all.map fun p => ((m.lane x).rings.get p).count) ∧
      ((m.cutLane x).lane x).reading = m.laneTime x ∧ ((m.cutLane x).lane x).rings = (m.lane x).rings := by
  simp only [Mod.cutLane, Mod.lane_setLane_self]
  trivial

theorem Mod.cutLane_lane_ne (m : Mod) (x y : Lane) (h : y ≠ x) : (m.cutLane x).lane y = m.lane y :=
  Mod.lane_setLane_ne _ x y _ h

/-- A cut touches its lane and the lane's snapshot of the local I/O only. -/
theorem Mod.cutLane_cycle (m : Mod) (x : Lane) :
    (m.cutLane x).cycle = m.cycle ∧ (m.cutLane x).ph = m.ph ∧ (m.cutLane x).handed = m.handed ∧ (m.cutLane x).cutAt = m.cutAt :=
  ⟨rfl, rfl, rfl, rfl⟩

/-- A lane in the cut phase that has not cut yet cuts. -/
theorem Mod.inputCut_in_cut (m : Mod) (x : Lane) (hc : m.cycles = true) (hr : m.running.contains x = true) (hp : m.ph = .cut)
    (hn : (m.lane x).cut = none) : m.inputCut x = m.cutLane x := by
  simp [Mod.inputCut, hc, hp, hn, List.contains_iff_mem.mp hr]

/-- A new cycle has the next number, is in its cut, not handed over, and its cut was at this instant (R15). -/
theorem Mod.beginCycle_cycle (m : Mod) :
    m.beginCycle.cycle = m.cycle + 1 ∧ m.beginCycle.ph = .cut ∧ m.beginCycle.handed = false ∧ m.beginCycle.cutAt = m.clock :=
  ⟨rfl, rfl, rfl, rfl⟩
theorem Mod.beginCycle_cycles (m : Mod) : m.beginCycle.cycles = m.cycles := rfl
theorem Mod.beginCycle_lane_cut (m : Mod) (x : Lane) : (m.beginCycle.lane x).cut = none := by
  simp [Mod.beginCycle, Mod.lane]

/-- The first cut of a module whose boundary leaves it in service begins the next cycle (R15). -/
theorem Mod.inputCut_begins (m : Mod) (x : Lane) (hc : m.cycles = true) (hr : m.running.contains x = true) (hp : m.ph = .idle)
    (hs : m.stopCut = false) (hh : m.handed = true) (hv : (m.lane x).voting = true) (hb : m.boundary.cycles = true)
    (hbr : m.boundary.beginCycle.running.contains x = true) : m.inputCut x = m.boundary.beginCycle.cutLane x := by
  unfold Mod.inputCut
  generalize m.boundary = b at hb hbr ⊢
  have hph : b.beginCycle.ph = .cut := rfl
  simp [hc, List.contains_iff_mem.mp hr, hp, hs, hh, hv, hb, hph, b.beginCycle_cycles, b.beginCycle_lane_cut x,
    List.contains_iff_mem.mp hbr]

theorem Mod.boundary_clock (m : Mod) : m.boundary.clock = m.clock := by
  have h := m.boundary_core
  simp only [Mod.core, Prod.mk.injEq] at h
  exact h.1

/-- A lane whose items have not come in time falls silent (R20). -/
theorem Mod.cutTimeout_late (m : Mod) (x : Lane) (hc : m.cycles = true) (hp : m.ph = .cut) (hr : m.running.contains x = true)
    (hcut : (m.lane x).cut.isSome = true) (ht : m.cutAt + 20000 ≤ m.clock) (hl : (m.lane x).lacks m.cutCounts = true) :
    m.cutTimeout x = m.silence x 5 5 4 := by
  have hne : (m.lane x).cut ≠ none := Option.isSome_iff_ne_none.mp hcut
  simp [Mod.cutTimeout, hc, hp, List.contains_iff_mem.mp hr, hne, Nat.not_lt.mpr ht, hl]

/-! ### Program exceptions (R99) -/

/-- What becomes of one lane where no common exception stands: it is silenced if its program was stopped. -/
def Mod.judgeLane (m : Mod) (x : Lane) : Mod := if (m.lane x).rt.exc.isSome then m.silence x 4 5 0 else m

theorem Mod.judgeExc_eq (m : Mod) : m.judgeExc = if m.commonExc then m else m.running.foldl Mod.judgeLane m := rfl

theorem Mod.judgeLane_went (m : Mod) (x : Lane) : m.Went (m.judgeLane x) := by
  unfold Mod.judgeLane
  split
  · exact m.silence_went x 4 5 0
  · exact .of_eq rfl

theorem Mod.judgeLane_off (m : Mod) (x y : Lane) (h : (m.lane y).off) : ((m.judgeLane x).lane y).off := by
  unfold Mod.judgeLane
  split
  · exact m.silence_off x y 4 5 0 h
  · exact h

theorem Mod.judgeLane_exc (m : Mod) (x y : Lane) : ((m.judgeLane x).lane y).rt.exc = (m.lane y).rt.exc := by
  unfold Mod.judgeLane
  split
  · exact m.silence_exc x y 4 5 0
  · rfl

theorem Mod.foldl_judgeLane_off (xs : List Lane) (m : Mod) (x : Lane) (h : (m.lane x).off) : ((xs.foldl Mod.judgeLane m).lane x).off := by
  induction xs generalizing m with
  | nil => exact h
  | cons y ys ih => exact ih _ (m.judgeLane_off y x h)

theorem Mod.foldl_judgeLane_stopped (xs : List Lane) (m : Mod) (x : Lane) (hx : x ∈ xs) (he : (m.lane x).rt.exc.isSome = true) :
    ((xs.foldl Mod.judgeLane m).lane x).off := by
  induction xs generalizing m with
  | nil => cases hx
  | cons y ys ih =>
    rw [List.foldl_cons]
    by_cases hy : x = y
    · subst hy
      have hself : m.judgeLane x = m.silence x 4 5 0 := if_pos he
      exact Mod.foldl_judgeLane_off ys _ x (by rw [hself]; exact (m.silence_self x 4 5 0).1)
    · exact ih _ ((List.mem_cons.mp hx).resolve_left hy) (by rwa [Mod.judgeLane_exc])

/-- A program exception leaves the lane in its cycle. -/
theorem LaneSt.progExc_cycle (l : LaneSt) (me : Nat) (e : ProgExc) :
    (l.progExc me e).voting = l.voting ∧ (l.progExc me e).shadow = l.shadow ∧ (l.progExc me e).partakes = l.partakes :=
  ⟨rfl, rfl, rfl⟩

/-- A lane stopped alone is silenced with its exception (R99). -/
theorem Mod.wcetOverrun_off (m : Mod) (x : Lane) (e : ProgExc) (hs : m.inService = true) (hp : m.ph = .run)
    (hr : m.running.contains x = true) (ho : (m.lane x).offer = none)
    (hc : (m.modLane x fun l => l.progExc x.idx { e with kind := 2 }).commonExc = false) : ((m.wcetOverrun x e).lane x).off := by
  have hgo : m.wcetOverrun x e = (m.modLane x fun l => l.progExc x.idx { e with kind := 2 }).judgeExc := by
    simp [Mod.wcetOverrun, hs, hp, List.contains_iff_mem.mp hr, ho]
  rw [hgo, Mod.judgeExc_eq, hc]
  refine Mod.foldl_judgeLane_stopped _ _ x ?_ ?_
  · have hrun := (m.mem_running_iff x).mp (List.contains_iff_mem.mp hr)
    obtain ⟨hv, hs, hp⟩ := (m.lane x).progExc_cycle x.idx { e with kind := 2 }
    rwa [Mod.mem_running_iff, Mod.lane_modLane_self, hv, hs, hp]
  · rw [Mod.lane_modLane_self]
    rfl

/-! ### Offers (R170) -/

/-- A running lane may offer while its program stands and the window is open, or it may open the window. -/
theorem Mod.outputOffer_first (m : Mod) (x : Lane) (ok : Bool) (hs : m.inService = true) (hp : m.ph = .run)
    (hr : m.running.contains x = true) (ho : (m.lane x).offer = none) (he : (m.lane x).rt.exc = none) (hv : (m.lane x).voting = true)
    (hw : m.winAt = none) :
    m.outputOffer x ok =
      if ok then { m.setLane x { m.lane x with offer := some ((m.lane x).summary m.cycleIn), offerAt := m.clock } with
        winAt := some m.clock, ph := .window }
      else (m.modLane x fun l => l.grnError 5 3).silence x 0xA 3 4 := by
  cases ok with
  | true => simp [Mod.outputOffer, hs, hp, List.contains_iff_mem.mp hr, ho, he, hv, hw, Mod.openWindow]
  | false => simp [Mod.outputOffer, hs, hp, List.contains_iff_mem.mp hr, ho, he, hv, hw]

/-! ### Overruns (R17) -/

theorem Mod.phaseOverrun_over (m : Mod) (phase len : Nat) (hs : m.inService = true) (hp : phase ≤ 4)
    (hl : phaseBound (m.service == .full) phase < len) :
    m.phaseOverrun phase len = m.puts (m.voters.map fun x => mkEvt 0x0004 x.idx 7 0 (leBytes 1 phase ++ leBytes 4 len)) := by
  simp [Mod.phaseOverrun, hs, Nat.not_lt.mpr hp, Nat.not_le.mpr hl]

theorem Mod.phaseOverrun_within (m : Mod) (phase len : Nat) (hl : len ≤ phaseBound (m.service == .full) phase) :
    m.phaseOverrun phase len = m := by
  simp [Mod.phaseOverrun, hl]

theorem Mod.handTimeout_late (m : Mod) (hc : m.cycles = true) (hh : m.handed = false)
    (ht : m.cutAt + (if m.service = .full then 10000000 else 20000000) ≤ m.clock) : m.handTimeout = m.enterHeld 1 := by
  simp [Mod.handTimeout, hc, hh, Nat.not_lt.mpr ht]

/-! ### The commands -/

theorem exec_inputCut (x : Lane) (t : Nat) (s : State) : exec (.inputCut x t) s = s.at t fun m => m.inputCut x := rfl
theorem exec_cutWaitTimeout (x : Lane) (t : Nat) (s : State) : exec (.cutWaitTimeout x t) s = s.at t fun m => m.cutTimeout x := rfl
theorem exec_outputOffer (x : Lane) (ok : Bool) (t : Nat) (s : State) :
    exec (.outputOffer x ok t) s = s.at t fun m => m.outputOffer x ok := rfl
theorem exec_wcetOverrun (x : Lane) (e : ProgExc) (t : Nat) (s : State) :
    exec (.wcetOverrun x e t) s = s.at t fun m => m.wcetOverrun x e := rfl
theorem exec_phaseOverrun (phase len t : Nat) (s : State) :
    exec (.phaseOverrun phase len t) s = s.at t fun m => m.phaseOverrun phase len := rfl
theorem exec_cycleHandoverTimeout (t : Nat) (s : State) : exec (.cycleHandoverTimeout t) s = s.at t fun m => m.handTimeout := rfl

/-- Settles O11: each clause is the branch of its command that its conditions choose. -/
theorem cyclePhasesFollowTheirCommands : Obligations.CyclePhasesFollowTheirCommands := by
  unfold Obligations.CyclePhasesFollowTheirCommands
  intro s x t m0 l
  have hclock (n : Nat) (h : n ≤ t) : n ≤ m0.clock := Nat.le_trans h (Nat.le_max_right _ _)
  refine ⟨fun hc hr hp hn => Completes.of_at (exec_inputCut x t s) ?_,
    fun hc hr hp hs hh hv hb hbr => Completes.of_at (exec_inputCut x t s) ?_,
    fun hc hp hr hcut ht hl => Completes.of_at (exec_cutWaitTimeout x t s) ?_,
    fun hs hp hr ho he hv hw => ⟨?_, Completes.of_at (exec_outputOffer x false t s) ?_⟩,
    fun e hs hp hr ho hc => Completes.of_at (exec_wcetOverrun x e t s) ?_,
    fun phase len hs hp hl => ?_, fun phase len hl => ?_,
    fun hc hh ht => Completes.of_at (exec_cycleHandoverTimeout t s) ?_⟩
  · have hcut : m0.inputCut x = m0.cutLane x := m0.inputCut_in_cut x hc hr hp hn
    rw [hcut]
    obtain ⟨h1, h2, h3⟩ := m0.cutLane_lane_self x
    exact ⟨h1, h2, hp, h3, fun y hy => m0.cutLane_lane_ne x y hy⟩
  · have hcut : m0.inputCut x = m0.boundary.beginCycle.cutLane x := m0.inputCut_begins x hc hr hp hs hh hv hb hbr
    rw [hcut]
    obtain ⟨h1, h2, h3, h4⟩ := m0.boundary.beginCycle.cutLane_cycle x
    obtain ⟨h5, h6, h7, h8⟩ := m0.boundary.beginCycle_cycle
    refine ⟨h1.trans h5, h2.trans h6, h3.trans h7, h4.trans (h8.trans m0.boundary_clock), ?_⟩
    rw [(m0.boundary.beginCycle.cutLane_lane_self x).1]
    rfl
  · have hsil : m0.cutTimeout x = m0.silence x 5 5 4 := m0.cutTimeout_late x hc hp hr hcut (hclock _ ht) hl
    rw [hsil]
    exact Mod.can_of_off _ x (m0.silence_self x 5 5 4).1
  · rw [exec_outputOffer, State.at_next]
    exact congrArg (fun m => Host.Outcome.next (State.mk s.pending m)) (m0.outputOffer_first x true hs hp hr ho he hv hw)
  · have hsil : m0.outputOffer x false = (m0.modLane x fun l => l.grnError 5 3).silence x 0xA 3 4 :=
      m0.outputOffer_first x false hs hp hr ho he hv hw
    rw [hsil]
    exact Mod.can_of_off _ x (Mod.silence_self _ x 0xA 3 4).1
  · exact Mod.can_of_off _ x (m0.wcetOverrun_off x e hs hp hr ho hc)
  · rw [exec_phaseOverrun, State.at_next]
    exact congrArg (fun m => Host.Outcome.next (State.mk s.pending m)) (m0.phaseOverrun_over phase len hs hp hl)
  · rw [exec_phaseOverrun, State.at_next]
    exact congrArg (fun m => Host.Outcome.next (State.mk s.pending m)) (m0.phaseOverrun_within phase len hl)
  · have hheld : m0.handTimeout = m0.enterHeld 1 := m0.handTimeout_late hc hh (hclock _ ht)
    have hin : m0.inService = true := (Bool.and_eq_true_iff.mp hc).1
    obtain ⟨hst, hcause, hhand, hout, hlanes⟩ := m0.enterHeld_first 1 (m0.inService_ne_held hin)
    rw [hheld]
    refine ⟨congrArg Prod.fst hst, hcause, hhand, hout, fun y => ?_⟩
    rw [Mod.lane, hlanes, PerLane.get_map]
    exact LaneSt.hold_voting _

end Sys2Proof.Machine
end

