-- ==== Sys2Proof/Proofs/ConsensusAndVote.lean ====
section
/-!
SUPPORT and the settled statement on the end of consensus and of the vote: every operation on the way leaves the stage of the cycle alone
unless the module goes into HELD (01_one_logic_cycle.md R24, R30, R99; 06_lanes_and_voting.md R163 to R171, R503).
-/
namespace Sys2Proof.Machine

section
variable (m : Mod)

/-! ### Consensus and program run -/

@[simp] theorem Mod.countMinority_stage (mins : List Lane) (dev : List (Lane × Nat)) : (m.countMinority mins dev).stage = m.stage := by
  refine Mod.stage_foldl _ _ m fun m x => ?_
  extract_lets n old ds m1 m2
  have h2 : m2.stage = m.stage := by
    unfold m2
    split <;> rfl
  split <;> exact h2

theorem Mod.judgeExc_went : m.Went m.judgeExc := by
  rw [Mod.judgeExc_eq]
  split
  · exact .of_eq rfl
  · exact .foldl _ _ m Mod.judgeLane_went

/-- Consensus of a cycle whose lanes have cut and hold their items ends in the program run or in HELD (R163, R503). -/
theorem Mod.inputConsensus_ends (excs : PerLane (Option ProgExc)) (hc : m.cycles = true) (hp : m.ph = .cut)
    (hcut : (m.present.all fun x => (m.lane x).cut.isSome) = true)
    (hl : ((m.running.filter fun x => (m.lane x).cut.isSome).any fun x => (m.lane x).lacks m.cutCounts) = false) :
    (m.inputConsensus excs).service = .held ∨ (m.inputConsensus excs).ph = .run := by
  have hin : m.inService = true := (Bool.and_eq_true_iff.mp hc).1
  have hgo : ¬(m.cycles = false ∨ m.ph ≠ .cut ∨ (m.present.all fun x => (m.lane x).cut.isSome) = false ∨
      ((m.running.filter fun x => (m.lane x).cut.isSome).any fun x => (m.lane x).lacks m.cutCounts) = true) := by
    simp [hc, hp, hcut, hl]
  unfold Mod.inputConsensus
  extract_lets parts cnt run old sps am prevTime lead ct m1 ph c m2 its o agreedLane clean devs fill m3 m4 m5 m6 late m7 m8 m9 m10 m11
  rw [if_neg hgo]
  have h2 : m2.stage = m.stage := Mod.stage_foldl _ _ m1 fun _ _ => rfl
  have h4 : m4.stage = m2.stage := rfl
  have h5 : m5.stage = m4.stage := by
    unfold m5
    split <;> rfl
  have h6 : m6.stage = m5.stage := by
    unfold m6
    split
    · exact m5.countMinority_stage _ _
    · rfl
  have h7 : m7.stage = m6.stage := by
    unfold m7
    split <;> rfl
  have h8 : m7.Went m8 := by
    unfold m8
    split
    · refine .foldl _ _ m7 fun m x => ?_
      split
      · exact m.silence_went x 7 5 4
      · exact .of_eq rfl
    · exact .of_eq rfl
  have hwent : m.Went m8 := (Mod.Went.of_eq (h7.trans (h6.trans (h5.trans (h4.trans h2))))).trans h8
  split
  case isTrue hout =>
    split
    · exact Or.inl (m8.enterHeld_service 4)
    · exact Or.inl (congrArg Prod.fst (hwent.held hin hout))
  split
  · exact Or.inl (m8.enterHeld_service 4)
  · obtain h | h := Mod.judgeExc_went { m11 with ph := .run, runAt := m11.clock }
    · exact Or.inr (congrArg (·.2.1) h)
    · exact Or.inl (congrArg Prod.fst h)

/-! ### The tail -/

@[simp] theorem Mod.sendSum_stage (sum : Option Nat) : (m.sendSum sum).stage = m.stage := by
  unfold Mod.sendSum
  repeat' split
  · rfl
  · simp
  · rfl
@[simp] theorem Mod.stageOut_stage (x : Lane) (first : Bool) : (m.stageOut x first).stage = m.stage := by
  simp [Mod.stageOut]
@[simp] theorem Mod.voteRegs_stage (len offers : Nat) (late : List Lane) (v : VoteOut) : (m.voteRegs len offers late v).stage = m.stage := rfl
theorem Mod.sliceOutside_stage (s : Nat) (r : SliceRec) (codes : List Nat) (again : Bool) :
    (m.sliceOutside s r codes again).stage = m.stage := by
  unfold Mod.sliceOutside
  simp only
  repeat' split
  · rfl
  · rfl
  · simp only [Mod.puts_stage]; rfl
  · simp only [Mod.puts_stage]; rfl
  · refine (Mod.stage_foldl _ _ _ fun m g => ?_).trans rfl
    simp only [Mod.puts_stage]; rfl
  · refine (Mod.stage_foldl _ _ _ fun m g => ?_).trans rfl
    simp only [Mod.puts_stage]; rfl

theorem Mod.tail_went (ins : PerLane SliceIn) : m.Went (m.tail ins) := by
  unfold Mod.tail
  extract_lets vs n s again before m1 m2 m3 m4
  have h1 : m1.stage = m.stage := Mod.stage_foldl _ _ m fun _ _ => rfl
  have h2 : m2.stage = m1.stage := Mod.stage_foldl _ _ m1 fun m x => m.stageOut_stage x _
  have h3 : m3.stage = m2.stage := by
    unfold m3
    split
    · exact Mod.sliceOutside_stage ..
    · rfl
  have h4 : m4.stage = m3.stage := Mod.stage_foldl _ _ m3 fun m x => by split <;> rfl
  refine (Mod.Went.of_eq (h4.trans (h3.trans (h2.trans h1)))).trans (.foldl _ _ m4 fun m x => ?_)
  split
  · exact m.silence_went x 8 5 8
  · exact .of_eq rfl

/-! ### The close of the window -/

/-- A closed window leaves the cycle idle, and a vote without agreement holds the module (R170, R171). -/
theorem Mod.voteClose_ends (ins : PerLane SliceIn) (hs : m.inService = true) :
    (m.voteClose ins).winAt = none ∧ (m.voteClose ins).ph = .idle ∧
      ((vote (m.present.filterMap fun x => ((m.lane x).offer).map fun o => (x, o))).held = true → (m.voteClose ins).service = .held) := by
  unfold Mod.voteClose
  extract_lets offers late v len mask m0 m1 m2 m3 m4 q m5 m6 m7
  have hwent : m.Went m1 := .foldl _ _ m0 fun m x => (Mod.Went.of_eq rfl).trans (Mod.silence_went _ x 6 5 4)
  split
  case isTrue =>
    have hheld : ((m1.sendSum none).enterHeld 2).stage = heldStage :=
      (hwent.trans (.of_eq (m1.sendSum_stage none))).enterHeld hs 2
    simp only [Mod.stage, heldStage, Prod.mk.injEq] at hheld
    obtain ⟨hservice, hph, hwin⟩ := hheld
    exact ⟨hwin, hph, fun _ => hservice⟩
  case isFalse hv =>
    split
    case isTrue hn =>
      have hheld : (m1.sendSum none).stage = heldStage := (m1.sendSum_stage none).trans (hwent.held hs hn)
      simp only [Mod.stage, heldStage, Prod.mk.injEq] at hheld
      obtain ⟨hservice, hph, hwin⟩ := hheld
      exact ⟨hwin, hph, fun _ => hservice⟩
    case isFalse =>
      obtain ⟨hwin, hph⟩ := (Mod.tail_went { m7 with ph := .idle, winAt := none } ins).idle rfl rfl
      exact ⟨hwin, hph, fun h => absurd h hv⟩

/-- The window closes once every present lane has offered, or after 20 µs (R170). -/
theorem Mod.windowClose_due (ins : PerLane SliceIn) (w : Nat) (hs : m.inService = true) (he : m.ph = .run → m.commonExc = false)
    (hw : m.winAt = some w) (hd : (m.present.all fun x => (m.lane x).offer.isSome) = true ∨ w + 20000 ≤ m.clock) :
    m.windowClose ins = m.voteClose ins := by
  have hexc : ¬(m.ph = .run ∧ m.commonExc = true) := fun ⟨hp, hc⟩ => absurd hc (by simp [he hp])
  unfold Mod.windowClose
  rw [if_neg (by simp [hs]), if_neg hexc, hw]
  exact if_pos hd

/-- A common program exception ends the cycle in HELD (R99). -/
theorem Mod.windowClose_commonExc (ins : PerLane SliceIn) (hs : m.inService = true) (hp : m.ph = .run) (hc : m.commonExc = true) :
    m.windowClose ins = m.enterHeld 5 := by
  simp [Mod.windowClose, hs, hp, hc]

end

/-! ### The commands -/

theorem exec_inputConsensus (excs : PerLane (Option ProgExc)) (t : Nat) (s : State) :
    exec (.inputConsensus excs t) s = s.at t fun m => m.inputConsensus excs := rfl
theorem exec_voteWindowClose (ins : PerLane SliceIn) (t : Nat) (s : State) :
    exec (.voteWindowClose ins t) s = s.at t fun m => m.windowClose ins := rfl

/-- Settles O12: consensus and vote leave the stage of the cycle alone on the way to their last step, unless the module goes into HELD. -/
theorem consensusAndVoteEndTheirPhase : Obligations.ConsensusAndVoteEndTheirPhase := by
  unfold Obligations.ConsensusAndVoteEndTheirPhase
  intro s t m0
  refine ⟨fun excs hc hp hcut hl => Completes.of_at (exec_inputConsensus excs t s) (m0.inputConsensus_ends excs hc hp hcut hl),
    fun ins w hs he hw hd => Completes.of_at (exec_voteWindowClose ins t s) ?_,
    fun ins hs hp hc => Completes.of_at (exec_voteWindowClose ins t s) ?_⟩
  · have hclose : m0.windowClose ins = m0.voteClose ins := m0.windowClose_due ins w hs he hw hd
    rw [hclose]
    exact m0.voteClose_ends ins hs
  · have hheld : m0.windowClose ins = m0.enterHeld 5 := m0.windowClose_commonExc ins hs hp hc
    rw [hheld]
    exact ⟨m0.enterHeld_service 5, (m0.enterHeld_first 5 (m0.inService_ne_held hs)).2.1⟩

end Sys2Proof.Machine
end

