-- ==== Sys2Proof/Proofs/MemStretch.lean ====
section
/-!
SUPPORT. Stretches of byte memory: the cells of a stretch settle every number, byte string and byte read from it, a write or a copy leaves the
cells of a disjoint stretch alone, and a number written is read back (00_scope.md R7). Nothing here asks for the canonical form.
-/
namespace Sys2Proof.Machine

/-- The cells of the `n` bytes from `a`. -/
def Mem.within (m : Mem) (a n : Nat) : Mem := m.filter fun c => decide (a ≤ c.1 ∧ c.1 < a + n)

/-! ### What is read from a stretch rests on its cells -/

theorem Mem.rd_within (m : Mem) (a n : Nat) : (m.within a n).rd a n = m.rd a n := by
  simp only [Mem.rd, Mem.within, List.foldl_filter, decide_eq_true_eq]
  congr 1
  funext acc c
  split <;> rfl

theorem Mem.getB_within (m : Mem) (a : Nat) : (m.within a 1).getB a = m.getB a := by
  rw [Mem.within, Mem.getB_filter m (fun k => decide (a ≤ k ∧ k < a + 1)), if_pos (by simp)]

theorem Mem.within_append (l r : Mem) (a n : Nat) : Mem.within (l ++ r) a n = l.within a n ++ r.within a n := List.filter_append ..

theorem Mem.within_eq_nil (m : Mem) (a n : Nat) (h : ∀ c ∈ m, c.1 < a ∨ a + n ≤ c.1) : m.within a n = [] :=
  List.filter_eq_nil_iff.mpr fun c hc => by
    have hout := h c hc
    simp only [decide_eq_true_eq]
    omega

/-- A filter that lets through every cell of the stretch. -/
theorem Mem.within_filter (m : Mem) (p : Host.Cell → Bool) (a n : Nat) (h : ∀ c : Host.Cell, a ≤ c.1 ∧ c.1 < a + n → p c = true) :
    Mem.within (m.filter p) a n = m.within a n := by
  rw [Mem.within, List.filter_filter, Mem.within]
  refine List.filter_congr fun c _ => ?_
  by_cases hc : a ≤ c.1 ∧ c.1 < a + n
  · rw [h c hc, Bool.and_true]
  · rw [decide_eq_false hc, Bool.false_and]

theorem Mem.within_within (m : Mem) {a n b k : Nat} (hb : a ≤ b) (hk : b + k ≤ a + n) : (m.within a n).within b k = m.within b k :=
  m.within_filter _ b k fun _ hc => decide_eq_true (by omega)

section
variable {m m' : Mem} {a n : Nat} (h : m.within a n = m'.within a n)
include h

theorem Mem.rd_congr : m.rd a n = m'.rd a n := by rw [← Mem.rd_within, h, Mem.rd_within]

theorem Mem.bytes_congr : m.bytes a n = m'.bytes a n := by simp only [Mem.bytes, Mem.rd_congr h]

theorem Mem.within_sub {b k : Nat} (hb : a ≤ b) (hk : b + k ≤ a + n) : m.within b k = m'.within b k := by
  rw [← m.within_within hb hk, h, m'.within_within hb hk]

end

theorem Mem.getB_congr {m m' : Mem} {a : Nat} (h : m.within a 1 = m'.within a 1) : m.getB a = m'.getB a := by
  rw [← Mem.getB_within, h, Mem.getB_within]

/-! ### Writes and copies leave a disjoint stretch alone -/

section
variable (m f : Mem) (a n v src : Nat) {b k : Nat} (hd : b + k ≤ a ∨ a + n ≤ b)
include hd

theorem Mem.within_between_out (mid : Mem) (hr : ∀ c ∈ mid, a ≤ c.1 ∧ c.1 < a + n) :
    Mem.within (m.filter (fun c => decide (c.1 < a)) ++ mid ++ m.filter (fun c => decide (a + n ≤ c.1))) b k = m.within b k := by
  have hmid : mid.within b k = [] := mid.within_eq_nil b k fun c hc => by have := hr c hc; omega
  rw [Mem.within_append, Mem.within_append, hmid, List.append_nil]
  rcases hd with hd | hd
  · rw [m.within_filter _ b k fun c hc => by simp only [decide_eq_true_eq]; omega,
      Mem.within_eq_nil (m.filter _) b k fun c hc => by have := of_decide_eq_true (List.mem_filter.mp hc).2; omega, List.append_nil]
  · rw [Mem.within_eq_nil (m.filter _) b k fun c hc => by have := of_decide_eq_true (List.mem_filter.mp hc).2; omega,
      m.within_filter _ b k fun c hc => by simp only [decide_eq_true_eq]; omega, List.nil_append]

theorem Mem.within_wr_out : (m.wr a n v).within b k = m.within b k :=
  m.within_between_out a n hd _ fun c hc => ⟨(Mem.mem_cellsOf a n v c hc).1, (Mem.mem_cellsOf a n v c hc).2.1⟩

theorem Mem.within_splice_out : (m.splice f src a n).within b k = m.within b k :=
  m.within_between_out a n hd _ (Mem.mem_moved f src a n)

theorem Mem.within_clear_out : (m.clear a n).within b k = m.within b k := by
  simpa [Mem.clear] using m.within_between_out a n hd [] (by simp)

theorem Mem.rd_wr_out : (m.wr a n v).rd b k = m.rd b k := Mem.rd_congr (m.within_wr_out a n v hd)

theorem Mem.bytes_wr_out : (m.wr a n v).bytes b k = m.bytes b k := Mem.bytes_congr (m.within_wr_out a n v hd)

end

theorem Mem.within_foldl {α : Type} (f : Mem → α → Mem) (xs : List α) (m : Mem) (b k : Nat)
    (h : ∀ m, ∀ x ∈ xs, (f m x).within b k = m.within b k) : (xs.foldl f m).within b k = m.within b k := by
  induction xs generalizing m with
  | nil => rfl
  | cons x xs ih => rw [List.foldl_cons, ih _ fun m y hy => h m y (List.mem_cons_of_mem x hy), h m x List.mem_cons_self]

/-! ### A number written is read back -/

theorem byteOf_toNat (v i : Nat) : (byteOf v i).toNat = v / 2 ^ (8 * i) % 256 := by
  simp [byteOf, Nat.shiftRight_eq_div_pow]

/-- One more byte of a number, little-endian (R7). -/
theorem mod_succ_byte (v n : Nat) : v % 2 ^ (8 * (n + 1)) = v % 2 ^ (8 * n) + (byteOf v n).toNat <<< (8 * n) := by
  rw [byteOf_toNat, Nat.shiftLeft_eq, Nat.mul_succ, Nat.pow_add, Nat.mod_mul, Nat.mul_comm (2 ^ (8 * n))]

theorem Mem.rd_concat (m : Mem) (a n i : Nat) (v : Byte) (h : i < n) : Mem.rd (m ++ [(a + i, v)]) a n = m.rd a n + v.toNat <<< (8 * i) := by
  simp [Mem.rd, h]

theorem Mem.rd_cellsOf (a n v k : Nat) (h : n ≤ k) : (Mem.cellsOf a n v).rd a k = v % 2 ^ (8 * n) := by
  induction n with
  | zero => simp [Mem.cellsOf, Mem.rd, Nat.mod_one]
  | succ n ih =>
    rw [Mem.cellsOf_succ, mod_succ_byte, ← ih (by omega)]
    split
    next hz => simp [hz]
    next => exact Mem.rd_concat _ a k n _ (by omega)

theorem Mem.within_wr_self (m : Mem) (a n v : Nat) : (m.wr a n v).within a n = Mem.cellsOf a n v := by
  rw [Mem.wr, Mem.within_append, Mem.within_append,
    Mem.within_eq_nil (m.filter _) a n fun c hc => by have := of_decide_eq_true (List.mem_filter.mp hc).2; omega,
    Mem.within_eq_nil (m.filter _) a n fun c hc => by have := of_decide_eq_true (List.mem_filter.mp hc).2; omega,
    List.nil_append, List.append_nil]
  refine List.filter_eq_self.mpr fun c hc => decide_eq_true ?_
  obtain ⟨hlow, hhigh, -⟩ := Mem.mem_cellsOf a n v c hc
  exact ⟨hlow, hhigh⟩

theorem Mem.rd_wr_self (m : Mem) (a n v : Nat) (h : v < 2 ^ (8 * n)) : (m.wr a n v).rd a n = v := by
  rw [← Mem.rd_within, Mem.within_wr_self, Mem.rd_cellsOf a n v n (Nat.le_refl _), Nat.mod_eq_of_lt h]

end Sys2Proof.Machine
end

