-- ==== Sys2Proof/Proofs/RetainWrite.lean ====
section
/-!
SUPPORT and the settled statement on the write of a retain copy: what the lock store copy, the lines and block checks and the header leave
alone, and that both checks then hold (04_interlocking_programs.md R118, R119; 05_change_while_running.md R123, R124).
-/
namespace Sys2Proof.Machine

theorem crc32c_lt (bs : Bytes) : crc32c bs < 2 ^ (8 * 4) := BitVec.isLt _
theorem hdrCrc_lt (m : Mem) (c : Nat) : hdrCrc m c < 2 ^ (8 * 4) := crc32c_lt _
theorem lockHdrCrc_lt (m : Mem) (c : Nat) : lockHdrCrc m c < 2 ^ (8 * 4) := crc32c_lt _
theorem lockBodyCrc_lt (m : Mem) (c : Nat) : lockBodyCrc m c < 2 ^ (8 * 4) := crc32c_lt _

theorem lockLen_eq : lockLen = 0x1C00 := rfl

/-- The retain area lies below the lock store (R466). -/
theorem hdrAt_le (c : Nat) : hdrAt c ≤ 0x800 := by unfold hdrAt; omega
theorem le_lockAt (c : Nat) : 0x400000 ≤ lockAt c := Nat.le_add_right _ _

/-! ### The checks under a write outside what they cover -/

section
variable (m : Mem) (c : Nat) (a n v : Nat)

theorem hdrCrc_wr_out (hd : hdrAt c + 0x7FC ≤ a ∨ a + n ≤ hdrAt c) : hdrCrc (m.wr a n v) c = hdrCrc m c := by
  rw [hdrCrc, m.bytes_wr_out a n v hd, hdrCrc]

theorem lockHdrCrc_wr_out (hd : lockAt c + 0x3C ≤ a ∨ a + n ≤ lockAt c) : lockHdrCrc (m.wr a n v) c = lockHdrCrc m c := by
  rw [lockHdrCrc, m.bytes_wr_out a n v hd, lockHdrCrc]

theorem lockBodyCrc_wr_out (hd : lockAt c + 0x40 + lockLen ≤ a ∨ a + n ≤ lockAt c + 0x40) :
    lockBodyCrc (m.wr a n v) c = lockBodyCrc m c := by
  rw [lockBodyCrc, m.bytes_wr_out a n v hd, lockBodyCrc]

end

theorem lockValid_congr {m m' : Mem} {c : Nat} (h : m.within (lockAt c) 0x1C40 = m'.within (lockAt c) 0x1C40) :
    lockValid m c = lockValid m' c := by
  have hhdr := Mem.bytes_congr (Mem.within_sub h (b := lockAt c) (k := 0x3C) (Nat.le_refl _) (by omega))
  have hbody := Mem.bytes_congr (Mem.within_sub h (b := lockAt c + 0x40) (k := lockLen) (by omega) (by have := lockLen_eq; omega))
  have hcrc := Mem.rd_congr (Mem.within_sub h (b := lockAt c + 0x3C) (k := 4) (by omega) (by omega))
  have hbcrc := Mem.rd_congr (Mem.within_sub h (b := lockAt c + 0x20) (k := 4) (by omega) (by omega))
  simp only [lockValid, lockHdrCrc, lockBodyCrc, hhdr, hbody, hcrc, hbcrc]

/-! ### The lock store copy (R123, R124) -/

/-- The lock store copy before its two checks. -/
def lockFields (m : Mem) (h : Hand) (imgd : Nat) : Mem :=
  ((((m.clear (lockAt h.cycle) 0x40).wr (lockAt h.cycle + 0x40) lockLen h.lock).wr (lockAt h.cycle) 8 h.cycle).wr (lockAt h.cycle + 8) 8
    h.ctime).wr (lockAt h.cycle + 0x10) 16 imgd

/-- The lock store copy before the check of its header. -/
def lockChecked (m : Mem) (h : Hand) (imgd : Nat) : Mem :=
  (lockFields m h imgd).wr (lockAt h.cycle + 0x20) 4 (lockBodyCrc (lockFields m h imgd) h.cycle)

section
variable (m : Mem) (h : Hand) (imgd : Nat)

theorem lockWrite_eq :
    lockWrite m h imgd = (lockChecked m h imgd).wr (lockAt h.cycle + 0x3C) 4 (lockHdrCrc (lockChecked m h imgd) h.cycle) := rfl

theorem lockWrite_within_out {b k : Nat} (hd : b + k ≤ lockAt h.cycle ∨ lockAt h.cycle + 0x1C40 ≤ b) :
    (lockWrite m h imgd).within b k = m.within b k := by
  have hlen := lockLen_eq
  simp (disch := omega) only [lockWrite_eq, lockChecked, lockFields, Mem.within_wr_out, Mem.within_clear_out]

theorem lockWrite_cycle (hc : h.cycle < 2 ^ 64) : (lockWrite m h imgd).rd (lockAt h.cycle) 8 = h.cycle := by
  simp (disch := omega) only [lockWrite_eq, lockChecked, lockFields, Mem.rd_wr_out]
  exact Mem.rd_wr_self _ _ 8 _ hc

theorem lockWrite_hdrCrc :
    (lockWrite m h imgd).rd (lockAt h.cycle + 0x3C) 4 = lockHdrCrc (lockWrite m h imgd) h.cycle := by
  rw [lockWrite_eq, Mem.rd_wr_self _ _ 4 _ (lockHdrCrc_lt _ _), lockHdrCrc_wr_out _ _ _ _ _ (by omega)]

theorem lockWrite_bodyCrc :
    (lockWrite m h imgd).rd (lockAt h.cycle + 0x20) 4 = lockBodyCrc (lockWrite m h imgd) h.cycle := by
  rw [lockWrite_eq, Mem.rd_wr_out _ _ _ _ (by omega), lockBodyCrc_wr_out _ _ _ _ _ (by omega), lockChecked,
    Mem.rd_wr_self _ _ 4 _ (lockBodyCrc_lt _ _), lockBodyCrc_wr_out _ _ _ _ _ (by omega)]

theorem lockWrite_valid : lockValid (lockWrite m h imgd) h.cycle = true := by
  simp [lockValid, lockWrite_hdrCrc, lockWrite_bodyCrc]

end

/-! ### The retain header (step 4 of R119) -/

/-- The header of a copy before its check. -/
def hdrFields (m : Mem) (h : Hand) (imgd rsegLen : Nat) : Mem :=
  (((m.wr (hdrAt h.cycle) 8 h.cycle).wr (hdrAt h.cycle + 8) 8 h.ctime).wr (hdrAt h.cycle + 0x10) 16 imgd).wr (hdrAt h.cycle + 0x20) 4 rsegLen

/-- The header of a copy with its check. -/
def hdrWrite (m : Mem) (h : Hand) (imgd rsegLen : Nat) : Mem :=
  (hdrFields m h imgd rsegLen).wr (hdrAt h.cycle + 0x7FC) 4 (hdrCrc (hdrFields m h imgd rsegLen) h.cycle)

section
variable (m : Mem) (h : Hand) (imgd rsegLen : Nat)

theorem hdrWrite_within_out {b k : Nat} (hd : b + k ≤ hdrAt h.cycle ∨ hdrAt h.cycle + 0x800 ≤ b) :
    (hdrWrite m h imgd rsegLen).within b k = m.within b k := by
  simp (disch := omega) only [hdrWrite, hdrFields, Mem.within_wr_out]

theorem hdrWrite_cycle (hc : h.cycle < 2 ^ 64) : recCycle (hdrWrite m h imgd rsegLen) h.cycle = h.cycle := by
  simp (disch := omega) only [recCycle, hdrWrite, hdrFields, Mem.rd_wr_out]
  exact Mem.rd_wr_self _ _ 8 _ hc

theorem hdrWrite_hdrCrc :
    (hdrWrite m h imgd rsegLen).rd (hdrAt h.cycle + 0x7FC) 4 = hdrCrc (hdrWrite m h imgd rsegLen) h.cycle := by
  rw [hdrWrite, Mem.rd_wr_self _ _ 4 _ (hdrCrc_lt _ _), hdrCrc_wr_out _ _ _ _ _ (by omega)]

/-- The header leaves the lock store as it is. -/
theorem hdrWrite_within_lock {b k : Nat} (hb : 0x400000 ≤ b) : (hdrWrite m h imgd rsegLen).within b k = m.within b k := by
  have hle := hdrAt_le h.cycle
  exact hdrWrite_within_out m h imgd rsegLen (by omega)

end

/-! ### The whole write (steps 2 to 4 of R119) -/

/-- The blocks of 64 KiB that a hand-over touches. -/
def Hand.touched (h : Hand) : List Nat := (List.range 31).filter fun b => h.lines.any fun k => k / 256 == b

/-- A lane's MRAM with the lines of a hand-over and the checks of the blocks they touch. -/
def LaneSt.linesWritten (l : LaneSt) (h : Hand) : Mem :=
  h.touched.foldl (fun m b => m.wr (hdrAt h.cycle + 0x40 + 8 * b) 8 (l.dram.crc64 b (shadowBase h.cycle + 65536 * b) 65536))
    (copyLines l.mram l.dram (shadowBase h.cycle) (copyAt h.cycle) h.lines)

/-- A lane's MRAM after a hand-over: lines, lock store copy, header. -/
def LaneSt.handWritten (l : LaneSt) (h : Hand) : Mem :=
  hdrWrite (lockWrite (l.linesWritten h) h l.image.imgd) h l.image.imgd l.image.rsegLen

/-- A stretch that no byte of the copies of cycle `c` lies in (R118, R123). -/
def ApartFromCopy (c b k : Nat) : Prop :=
  (b + k ≤ hdrAt c ∨ hdrAt c + 0x800 ≤ b) ∧ (b + k ≤ copyAt c ∨ copyAt c + 0x1F0000 ≤ b) ∧ (b + k ≤ lockAt c ∨ lockAt c + 0x4000 ≤ b)

/-- The copies of the other index, and all that lies above the lock store, are apart from the copies of cycle `c`. -/
theorem apartFromCopy_of_other {c a : Nat}
    (h : (hdrAt (c + 1) ≤ a ∧ a < hdrAt (c + 1) + 0x800) ∨ (copyAt (c + 1) ≤ a ∧ a < copyAt (c + 1) + 0x1F0000) ∨
      (lockAt (c + 1) ≤ a ∧ a < lockAt (c + 1) + 0x4000) ∨ 0x408000 ≤ a) : ApartFromCopy c a 1 := by
  unfold ApartFromCopy
  rcases Nat.mod_two_eq_zero_or_one c with hc | hc
  · have hn : (c + 1) % 2 = 1 := by omega
    simp [hdrAt, copyAt, lockAt, hc, hn] at h ⊢
    omega
  · have hn : (c + 1) % 2 = 0 := by omega
    simp [hdrAt, copyAt, lockAt, hc, hn] at h ⊢
    omega

theorem copyLines_within_out (dst src : Mem) (from' to' : Nat) (ls : List Nat) {b k : Nat} (hls : ∀ i ∈ ls, i < 7936)
    (hd : b + k ≤ to' ∨ to' + 0x1F0000 ≤ b) : (copyLines dst src from' to' ls).within b k = dst.within b k :=
  Mem.within_foldl _ ls dst b k fun m i hi => by
    have hlt := hls i hi
    exact m.within_splice_out src (to' + 256 * i) 256 (from' + 256 * i) (by omega)

section
variable (l : LaneSt) (h : Hand)

theorem LaneSt.retainWrite_none (hn : l.rt.hand = none) : l.retainWrite = l := by
  simp [LaneSt.retainWrite, hn]

theorem LaneSt.retainWrite_some (hs : l.rt.hand = some h) :
    l.retainWrite =
      { l with mram := l.handWritten h, rt := { l.rt with hand := none }
               recPcc0 := if h.cycle % 2 = 0 then l.pcc else l.recPcc0, recPcc1 := if h.cycle % 2 = 0 then l.recPcc1 else l.pcc } := by
  unfold LaneSt.retainWrite
  rw [hs]
  rfl

theorem LaneSt.linesWritten_within_out {b k : Nat} (hls : ∀ i ∈ h.lines, i < 7936) (hap : ApartFromCopy h.cycle b k) :
    (l.linesWritten h).within b k = l.mram.within b k := by
  obtain ⟨hhdr, hcopy, -⟩ := hap
  refine (Mem.within_foldl _ h.touched _ b k fun m i hi => ?_).trans (copyLines_within_out _ _ _ _ _ hls hcopy)
  have hlt : i < 31 := List.mem_range.mp (List.mem_filter.mp hi).1
  exact m.within_wr_out _ 8 _ (by omega)

/-- A hand-over leaves every stretch apart from its copies alone. -/
theorem LaneSt.handWritten_within_out {b k : Nat} (hls : ∀ i ∈ h.lines, i < 7936) (hap : ApartFromCopy h.cycle b k) :
    (l.handWritten h).within b k = l.mram.within b k := by
  have hlines := l.linesWritten_within_out h hls hap
  obtain ⟨hhdr, -, hlock⟩ := hap
  rw [LaneSt.handWritten, hdrWrite_within_out _ _ _ _ hhdr, lockWrite_within_out _ _ _ (by omega), hlines]

theorem LaneSt.handWritten_lockCycle (hc : h.cycle < 2 ^ 64) : (l.handWritten h).rd (lockAt h.cycle) 8 = h.cycle :=
  (Mem.rd_congr (hdrWrite_within_lock _ h _ _ (le_lockAt _))).trans (lockWrite_cycle _ h _ hc)

theorem LaneSt.handWritten_lockValid : lockValid (l.handWritten h) h.cycle = true :=
  (lockValid_congr (hdrWrite_within_lock _ h _ _ (le_lockAt _))).trans (lockWrite_valid _ h _)

end

/-! ### The command -/

theorem Mod.laneDo_of_powered (m : Mod) (x : Lane) (f : LaneSt → LaneSt) (h : (m.lane x).powered = true) :
    m.laneDo x f = m.setLane x (f (m.lane x)) := if_pos h

theorem exec_retainMramWrite (x : Lane) (t : Nat) (s : State) (h : (s.m.lane x).powered = true) :
    exec (.retainMramWrite x t) s = s.at t fun m => m.setLane x (s.m.lane x).retainWrite :=
  congrArg (fun m => (.next { s with m := m } : Result)) ((s.m.advance t).laneDo_of_powered x LaneSt.retainWrite h)

/-- Settles O19: each of the three writes stays inside the copies of its cycle, and each check is written after what it covers. -/
theorem retainWriteLeavesTheOtherCopy : Obligations.RetainWriteLeavesTheOtherCopy := by
  unfold Obligations.RetainWriteLeavesTheOtherCopy
  intro s x t hpow l
  have hexec := exec_retainMramWrite x t s hpow
  refine ⟨fun hnone => ?_, fun h hhand hlines hcycle => Completes.of_at hexec ?_⟩
  · rw [hexec, LaneSt.retainWrite_none _ hnone]
    rfl
  · rw [Mod.lane_setLane_self, LaneSt.retainWrite_some _ h hhand]
    exact ⟨rfl, rfl, rfl, rfl, hdrWrite_cycle _ h _ _ hcycle, hdrWrite_hdrCrc _ h _ _, l.handWritten_lockCycle h hcycle,
      l.handWritten_lockValid h, fun a ha => Mem.getB_congr (l.handWritten_within_out h hlines (apartFromCopy_of_other ha))⟩

end Sys2Proof.Machine
end

