-- ==== Sys2Proof/Proofs/RestartRecord.lean ====
section
/-!
SUPPORT and the settled statement on the agreed record: which lanes offer a cycle with equal fingerprints, that the record is the highest
cycle that two lanes so offer, and what the exchange leaves alone (05_change_while_running.md R125).
-/
namespace Sys2Proof.Machine

/-! ### Offers -/

/-- What the lanes that passed their tests offer. -/
def Mod.offers (m : Mod) : List (Lane × List (Nat × Nat)) := m.ready.map fun x => (x, (m.lane x).candidates)

theorem mem_sameOffer (offers : List (Lane × List (Nat × Nat))) (c : Nat × Nat) (x : Lane) :
    x ∈ sameOffer offers c ↔ ∃ cs, (x, cs) ∈ offers ∧ c ∈ cs := by
  simp [sameOffer]

theorem Mod.mem_sameOffer_offers (m : Mod) (c : Nat × Nat) (x : Lane) :
    x ∈ sameOffer m.offers c ↔ x ∈ m.ready ∧ c ∈ (m.lane x).candidates := by
  simp only [mem_sameOffer, Mod.offers, List.mem_map, Prod.mk.injEq]
  constructor
  · rintro ⟨cs, ⟨y, hy, rfl, rfl⟩, hc⟩
    exact ⟨hy, hc⟩
  · exact fun ⟨hx, hc⟩ => ⟨_, ⟨x, hx, rfl, rfl⟩, hc⟩

/-- A list with two different members has two at least. -/
theorem two_le_length {α : Type} {x y : α} {xs : List α} (hne : x ≠ y) (hx : x ∈ xs) (hy : y ∈ xs) : 2 ≤ xs.length := by
  match xs with
  | [] => cases hx
  | [a] => exact absurd ((List.mem_singleton.mp hx).trans (List.mem_singleton.mp hy).symm) hne
  | _ :: _ :: _ => exact Nat.le_add_left 2 _

/-- Two lanes that offer the same are two in the list of those that offer it. -/
theorem two_le_sameOffer {offers : List (Lane × List (Nat × Nat))} {c : Nat × Nat} {x y : Lane} (hne : x ≠ y)
    (hx : x ∈ sameOffer offers c) (hy : y ∈ sameOffer offers c) : 2 ≤ (sameOffer offers c).length :=
  two_le_length hne hx hy

/-! ### The choice of the record -/

/-- The candidates that at least two lanes offer. -/
def sharedOffers (offers : List (Lane × List (Nat × Nat))) : List (Nat × Nat) :=
  (offers.flatMap (·.2)).filter fun c => decide (2 ≤ (sameOffer offers c).length)

theorem mem_sharedOffers (offers : List (Lane × List (Nat × Nat))) (c : Nat × Nat) :
    c ∈ sharedOffers offers ↔ 2 ≤ (sameOffer offers c).length := by
  simp only [sharedOffers, List.mem_filter, decide_eq_true_eq, and_iff_right_iff_imp]
  intro h
  obtain ⟨x, hx⟩ := List.exists_mem_of_length_pos (Nat.lt_of_lt_of_le Nat.zero_lt_two h)
  obtain ⟨cs, hmem, hc⟩ := (mem_sameOffer offers c x).mp hx
  exact List.mem_flatMap.mpr ⟨_, hmem, hc⟩

/-- The candidate of the higher cycle, the first where the cycles are the same. -/
def higherCycle (a c : Nat × Nat) : Nat × Nat := if a.1 < c.1 then c else a

theorem higherCycle_eq_or (a c : Nat × Nat) : higherCycle a c = a ∨ higherCycle a c = c := by
  unfold higherCycle
  split
  · exact Or.inr rfl
  · exact Or.inl rfl

theorem le_higherCycle (a c : Nat × Nat) : a.1 ≤ (higherCycle a c).1 ∧ c.1 ≤ (higherCycle a c).1 := by
  unfold higherCycle
  split <;> omega

/-- The running choice ends with a candidate of the list, of the highest cycle. -/
theorem foldl_higherCycle (x : Nat × Nat) (cs : List (Nat × Nat)) :
    cs.foldl higherCycle x ∈ x :: cs ∧ ∀ c ∈ x :: cs, c.1 ≤ (cs.foldl higherCycle x).1 := by
  induction cs generalizing x with
  | nil => simp
  | cons d ds ih =>
    obtain ⟨hmem, hmax⟩ := ih (higherCycle x d)
    obtain ⟨hx, hd⟩ := le_higherCycle x d
    have hbest := hmax _ List.mem_cons_self
    simp only [List.foldl_cons, List.mem_cons, forall_eq_or_imp]
    refine ⟨?_, Nat.le_trans hx hbest, Nat.le_trans hd hbest, fun c hc => hmax c (List.mem_cons_of_mem _ hc)⟩
    obtain hmem | hmem := List.mem_cons.mp hmem
    · exact (higherCycle_eq_or x d).imp hmem.trans fun h => Or.inl (hmem.trans h)
    · exact Or.inr (Or.inr hmem)

theorem agreedRecord_of_shared {offers : List (Lane × List (Nat × Nat))} {x : Nat × Nat} {cs : List (Nat × Nat)}
    (h : sharedOffers offers = x :: cs) :
    agreedRecord offers = some ((cs.foldl higherCycle x).1, sameOffer offers (cs.foldl higherCycle x)) := by
  unfold sharedOffers at h
  simp only [agreedRecord, h]
  rfl

/-- The agreed record is offered with equal fingerprints by the lanes that hold it, two at least, and no higher cycle is so offered. -/
theorem agreedRecord_some {offers : List (Lane × List (Nat × Nat))} {n : Nat} {ls : List Lane} (h : agreedRecord offers = some (n, ls)) :
    2 ≤ ls.length ∧ (∃ f, ls = sameOffer offers (n, f)) ∧ ∀ c, 2 ≤ (sameOffer offers c).length → c.1 ≤ n := by
  cases hs : sharedOffers offers with
  | nil =>
    unfold sharedOffers at hs
    simp [agreedRecord, hs] at h
  | cons x cs =>
    rw [agreedRecord_of_shared hs] at h
    obtain ⟨rfl, rfl⟩ := Prod.mk.inj (Option.some.inj h)
    obtain ⟨hmem, hmax⟩ := foldl_higherCycle x cs
    rw [← hs] at hmem hmax
    exact ⟨(mem_sharedOffers offers _).mp hmem, ⟨_, rfl⟩, fun c hc => hmax c ((mem_sharedOffers offers c).mpr hc)⟩

/-- Without an agreed record no candidate is offered by two lanes. -/
theorem agreedRecord_none {offers : List (Lane × List (Nat × Nat))} (h : agreedRecord offers = none) (c : Nat × Nat) :
    ¬ 2 ≤ (sameOffer offers c).length := by
  cases hs : sharedOffers offers with
  | nil => simp [← mem_sharedOffers, hs]
  | cons x cs => simp [agreedRecord_of_shared hs] at h

/-! ### The exchange -/

theorem Mod.recordExchange_of_some (m : Mod) (hs : m.service = .starting) {n : Nat} {ls : List Lane}
    (h : agreedRecord m.offers = some (n, ls)) :
    ∃ tm, m.recordExchange = { m with restart := { m.restart with record := some (n, tm), holders := ls, exchanged := true } } := by
  unfold Mod.offers at h
  simp only [Mod.recordExchange, hs, ne_eq, not_true_eq_false, if_false, h]
  exact ⟨_, rfl⟩

theorem Mod.recordExchange_of_none (m : Mod) (hs : m.service = .starting) (h : agreedRecord m.offers = none) :
    m.recordExchange = { m with restart := { m.restart with record := none, holders := [], exchanged := true } } := by
  unfold Mod.offers at h
  simp only [Mod.recordExchange, hs, ne_eq, not_true_eq_false, if_false, h]

theorem exec_restartRecordExchange (t : Nat) (s : State) :
    exec (.restartRecordExchange t) s = s.at t fun m => m.recordExchange := rfl

/-- Settles O20: the record is the highest of the candidates that two lanes offer, and its holders are the lanes that offer it. -/
theorem agreedRecordNeedsTwoEqualLanes : Obligations.AgreedRecordNeedsTwoEqualLanes := by
  unfold Obligations.AgreedRecordNeedsTwoEqualLanes
  intro s t hs
  refine Completes.of_at (exec_restartRecordExchange t s) ?_
  have hoffer (c : Nat × Nat) (x : Lane) : x ∈ sameOffer (s.m.advance t).offers c ↔ x ∈ s.m.ready ∧ c ∈ (s.m.lane x).candidates :=
    (s.m.advance t).mem_sameOffer_offers c x
  have hshared (x y : Lane) (c f : Nat) (hx : x ∈ s.m.ready) (hy : y ∈ s.m.ready) (hne : x ≠ y)
      (hcx : (c, f) ∈ (s.m.lane x).candidates) (hcy : (c, f) ∈ (s.m.lane y).candidates) :
      2 ≤ (sameOffer (s.m.advance t).offers (c, f)).length :=
    two_le_sameOffer hne ((hoffer (c, f) x).mpr ⟨hx, hcx⟩) ((hoffer (c, f) y).mpr ⟨hy, hcy⟩)
  cases hrec : agreedRecord (s.m.advance t).offers with
  | none =>
    rw [Mod.recordExchange_of_none (s.m.advance t) hs hrec]
    refine ⟨rfl, rfl, hs, nofun, fun _ => rfl, fun x y c f hx hy hne hcx hcy => ?_⟩
    exact absurd (hshared x y c f hx hy hne hcx hcy) (agreedRecord_none hrec (c, f))
  | some r =>
    obtain ⟨n, ls⟩ := r
    obtain ⟨tm, hex⟩ := Mod.recordExchange_of_some (s.m.advance t) hs hrec
    obtain ⟨htwo, ⟨f, rfl⟩, hmax⟩ := agreedRecord_some hrec
    rw [hex]
    refine ⟨rfl, rfl, hs, ?_, nofun, fun x y c g hx hy hne hcx hcy => ⟨n, tm, rfl, hmax _ (hshared x y c g hx hy hne hcx hcy)⟩⟩
    rintro c tm' ⟨rfl⟩
    exact ⟨htwo, f, hoffer (n, f)⟩

end Sys2Proof.Machine
end

