-- ==== Sys2Proof/Proofs/EachLane.lean ====
section
/-!
SUPPORT. What a fold keeps, and that a command that goes through lanes one by one changes each of them by itself.
-/
namespace Sys2Proof.Machine

/-- What no step of a fold changes stands after it. -/
theorem foldl_keeps {σ α β : Type} (p : σ → β) (f : σ → α → σ) (xs : List α) (s : σ) (h : ∀ s a, p (f s a) = p s) :
    p (xs.foldl f s) = p s := by
  induction xs generalizing s with
  | nil => rfl
  | cons a xs ih => rw [List.foldl_cons, ih, h]

/-- A fold over different lanes changes each of them once, and no other. -/
theorem Mod.foldl_modLane_lane (g : Lane → LaneSt → LaneSt) (y : Lane) (xs : List Lane) (m : Mod) (hd : xs.Nodup) :
    (xs.foldl (fun m x => m.modLane x (g x)) m).lane y = if y ∈ xs then g y (m.lane y) else m.lane y := by
  induction xs generalizing m with
  | nil => rfl
  | cons x xs ih =>
    obtain ⟨hx, hxs⟩ := List.nodup_cons.mp hd
    rw [List.foldl_cons, ih _ hxs]
    by_cases hy : y = x
    · subst hy
      rw [if_neg hx, if_pos List.mem_cons_self, m.lane_modLane_self]
    · simp [m.lane_modLane_ne x y _ hy, hy]

theorem Mod.running_nodup (m : Mod) : m.running.Nodup := List.Pairwise.filter _ (by decide)

end Sys2Proof.Machine
end

