-- ==== Sys2Proof/Proofs/FirstCycle.lean ====
section
/-!
SUPPORT and the settled statement on the first voting cycle: what a restart makes of a lane's runtime, which lanes the first cycle starts
with, and what the change of service state and the gates leave alone (05_change_while_running.md R121, R125 to R130, R134;
09_local_safety_io.md R289; 13_startup_and_self_test.md R372).
-/
namespace Sys2Proof.Machine

/-! ### The runtime of a restarted lane (R127, R128, R130) -/

section
variable (l : LaneSt)

@[simp] theorem LaneSt.putInst_rt (o n v : Nat) : (l.putInst o n v).rt = l.rt := by
  unfold LaneSt.putInst
  split <;> rfl
@[simp] theorem LaneSt.initInst_rt (i : Nat) : (l.initInst i).rt = l.rt := by
  simp [LaneSt.initInst]
@[simp] theorem LaneSt.initInsts_rt : l.initInsts.rt = l.rt :=
  foldl_keeps LaneSt.rt _ _ _ LaneSt.initInst_rt
@[simp] theorem LaneSt.restoreVars_rt (k : Nat) : (l.restoreVars k).rt = l.rt := by
  unfold LaneSt.restoreVars
  rw [foldl_keeps LaneSt.rt _ _ _ fun _ _ => by simp, foldl_keeps LaneSt.rt _ _ _ fun _ _ => by simp]
@[simp] theorem LaneSt.clearRequests_rt : l.clearRequests.rt = l.rt :=
  foldl_keeps LaneSt.rt _ _ _ fun _ _ => by simp
@[simp] theorem LaneSt.startBeryl_rt (mode k : Nat) : (l.startBeryl mode k).rt = l.rt := rfl

/-- A restarted lane runs on a fresh runtime: a settle cycle, no force (R130, R134, R143). -/
theorem LaneSt.restart_rt (rec' : Option Nat) (cycle : Nat) :
    (l.restart rec' cycle).rt.settle = true ∧ (l.restart rec' cycle).rt.forces = [] := by
  unfold LaneSt.restart LaneSt.markAll
  cases rec' <;> simp [LaneSt.freshRun, Rt.reset]
end

/-! ### The change of service state -/

theorem Mod.setService_only (m : Mod) (v : Service) : m.setService v = { m with service := v, amber := (m.setService v).amber } := by
  unfold Mod.setService
  split
  next h => subst h; rfl
  next => rfl

/-! ### Who starts, and how -/

section
variable (m : Mod)

/-- The lanes that passed their tests and whose slice is made ready. -/
def Mod.starters : List Lane := m.ready.filter fun x => (m.lane x).grn.ctrl.getLsbD 2

/-- The starters that hold the agreed record. -/
def Mod.warmStarters : List Lane := m.starters.filter fun x => m.restart.holders.contains x

/-- Whether the start is warm: a record of an age allowed, on two lanes (R121, R125). -/
def Mod.startsWarm : Bool := m.warmAge.isSome && decide (2 ≤ m.warmStarters.length)

/-- The lanes that vote in the first cycle. -/
def Mod.firstVoters : List Lane := if m.startsWarm then m.warmStarters else m.starters

/-- The number of the first cycle (assumption log 69). -/
def Mod.firstNumber : Nat := if m.startsWarm then (m.restart.record.map (·.1)).getD 0 else 0

/-- A lane that votes in the first cycle. -/
def Mod.firstLane (l : LaneSt) : LaneSt :=
  let l1 := l.restart (if m.startsWarm then some (m.firstNumber % 2) else none) m.firstNumber
  { l1 with voting := true, silent := false, grn := { l1.grn with ctrl := l1.grn.ctrl ||| 1#32 }
            opal := { l1.opal.bringUp m.phcfg m.clock m.now with offset := 0 } }

theorem Mod.starters_length_le : m.starters.length ≤ 3 :=
  Nat.le_trans (List.length_filter_le _ _) (List.length_filter_le _ _)

theorem Mod.firstVoters_length_le : m.firstVoters.length ≤ 3 := by
  unfold Mod.firstVoters
  split
  · exact Nat.le_trans (List.length_filter_le _ _) m.starters_length_le
  · exact m.starters_length_le

/-- The module may start: nothing but the confirmation records can keep it from its first cycle (R31, R121, R372). -/
def Mod.MayStart : Prop :=
  m.service = .starting ∧ m.role = roleACTIVE ∧ m.power.slotBad = false ∧ m.power.dupSid = false ∧ 2 ≤ m.starters.length ∧
    m.jade.lc.cycles = true

/-- A starter lacks its confirmation record where one is asked for (R289). -/
def Mod.Unconfirmed : Prop := m.full = true ∧ m.jade.lc = .operate ∧ ∃ x ∈ m.starters, (m.lane x).confirmed = false

/-- The module at the start of its first cycle, before the record of its service state and the gates. -/
def Mod.started : Mod :=
  { m with lanes := m.lanes.mapL fun x l => if m.firstVoters.contains x then m.firstLane l else l
           cycle := m.firstNumber, cycleTime := m.now, jade := m.jade.firstRun, everActive := true
           restart := { m.restart with kind := if m.startsWarm then 1 else 2, cold := false, fresh := false } }

theorem Mod.unconfirmed_iff :
    m.Unconfirmed ↔ m.full = true ∧ m.jade.lc = .operate ∧ (m.starters.any fun x => !(m.lane x).confirmed) = true := by
  simp [Mod.Unconfirmed]

theorem Mod.firstCycle_eq :
    ∃ e, m.firstCycle =
      if m.service ≠ .starting ∨ m.role ≠ roleACTIVE ∨ m.power.slotBad = true ∨ m.power.dupSid = true ∨ m.starters.length < 2 ∨
        m.jade.lc.cycles = false then m
      else if m.full = true ∧ m.jade.lc = .operate ∧ (m.starters.any fun x => !(m.lane x).confirmed) = true then m.enterHeld 0xF
      else ((m.started.setService (if 3 ≤ m.firstVoters.length then .full else .reduced)).put e).gates :=
  ⟨_, rfl⟩

theorem Mod.MayStart.not_waits {m : Mod} (hm : m.MayStart) :
    ¬(m.service ≠ .starting ∨ m.role ≠ roleACTIVE ∨ m.power.slotBad = true ∨ m.power.dupSid = true ∨ m.starters.length < 2 ∨
      m.jade.lc.cycles = false) := by
  obtain ⟨hs, hr, hb, hd, h2, hc⟩ := hm
  simp [hs, hr, hb, hd, hc, Nat.not_lt.mpr h2]

theorem Mod.firstCycle_unconfirmed (hm : m.MayStart) (hu : m.Unconfirmed) : m.firstCycle = m.enterHeld 0xF := by
  obtain ⟨e, he⟩ := m.firstCycle_eq
  rw [he, if_neg hm.not_waits, if_pos (m.unconfirmed_iff.mp hu)]

/-- Beside its service state the first cycle leaves the started module as it is, but for the local I/O and Amber. -/
theorem Mod.firstCycle_only (hm : m.MayStart) (hu : ¬ m.Unconfirmed) :
    m.firstCycle =
      { m.started with service := if 3 ≤ m.firstVoters.length then .full else .reduced, lio := m.firstCycle.lio
                       amber := m.firstCycle.amber } := by
  obtain ⟨e, he⟩ := m.firstCycle_eq
  rw [he, if_neg hm.not_waits, if_neg (hu ∘ m.unconfirmed_iff.mpr), Mod.gates_lio_amber_only, Mod.put, Mod.setService_only]

theorem Mod.started_lane (x : Lane) :
    m.started.lane x = if x ∈ m.firstVoters then m.firstLane (m.lane x) else m.lane x := by
  simp [Mod.started, Mod.lane]

theorem Mod.firstLane_votes (l : LaneSt) :
    (m.firstLane l).voting = true ∧ (m.firstLane l).silent = false ∧ (m.firstLane l).rt.settle = true ∧ (m.firstLane l).rt.forces = [] :=
  ⟨rfl, rfl, l.restart_rt _ _⟩
end

/-! ### The module in its first cycle -/

section
variable (m : Mod) (hm : m.MayStart) (hu : ¬ m.Unconfirmed)
include hm hu

theorem Mod.firstCycle_service : m.firstCycle.service = if m.firstVoters.length = 3 then .full else .reduced := by
  have hle := m.firstVoters_length_le
  have hiff : 3 ≤ m.firstVoters.length ↔ m.firstVoters.length = 3 := ⟨fun h => Nat.le_antisymm hle h, fun h => Nat.le_of_eq h.symm⟩
  refine (congrArg Mod.service (m.firstCycle_only hm hu)).trans ?_
  simp only [hiff]

theorem Mod.firstCycle_lane (x : Lane) : m.firstCycle.lane x = m.started.lane x :=
  (congrArg (·.lane x) (m.firstCycle_only hm hu) :)

theorem Mod.firstCycle_voter (x : Lane) (hx : x ∈ m.firstVoters) : m.firstCycle.lane x = m.firstLane (m.lane x) := by
  rw [m.firstCycle_lane hm hu, m.started_lane, if_pos hx]

theorem Mod.firstCycle_other (x : Lane) (hx : x ∉ m.firstVoters) : m.firstCycle.lane x = m.lane x := by
  rw [m.firstCycle_lane hm hu, m.started_lane, if_neg hx]

theorem Mod.firstCycle_restart :
    m.firstCycle.restart.kind = (if m.startsWarm then 1 else 2) ∧ m.firstCycle.everActive = true ∧ m.firstCycle.cycle = m.firstNumber := by
  rw [m.firstCycle_only hm hu]
  exact ⟨rfl, rfl, rfl⟩
end

theorem Mod.firstNumber_cold (m : Mod) (hw : m.startsWarm = false) : m.firstNumber = 0 := by
  simp [Mod.firstNumber, hw]

theorem Mod.firstNumber_warm (m : Mod) (hw : m.startsWarm = true) {c tm : Nat} (hrec : m.restart.record = some (c, tm)) :
    m.firstNumber = c := by
  simp [Mod.firstNumber, hw, hrec]

theorem exec_firstVotingCycle (t : Nat) (s : State) : exec (.firstVotingCycle t) s = s.at t fun m => m.firstCycle := rfl

/-- Settles O21: a module that may start either lacks a confirmation record and is held, or starts with the voters of its first cycle. -/
theorem firstVotingCycleIsWarmOrCold : Obligations.FirstVotingCycleIsWarmOrCold := by
  unfold Obligations.FirstVotingCycleIsWarmOrCold
  intro s t m0 rs hs hr hb hd h2 hc
  have hm : m0.MayStart := ⟨hs, hr, hb, hd, h2, hc⟩
  refine ⟨fun hf ho hx => Completes.of_at (exec_firstVotingCycle t s) ?_,
    fun hconf => Completes.of_at (exec_firstVotingCycle t s) ?_⟩
  · have hheld : m0.firstCycle = m0.enterHeld 0xF := m0.firstCycle_unconfirmed hm ⟨hf, ho, hx⟩
    have hns : m0.service ≠ .held := by rw [show m0.service = .starting from hs]; nofun
    obtain ⟨-, hcause, -, -, hlanes⟩ := m0.enterHeld_first 0xF hns
    rw [hheld]
    refine ⟨m0.enterHeld_service 0xF, hcause, fun y => ?_⟩
    rw [Mod.lane, hlanes, PerLane.get_map]
    exact LaneSt.hold_voting _
  · have hu : ¬ m0.Unconfirmed := by
      rintro ⟨hf, ho, x, hx, hcf⟩
      obtain h | h | h := hconf
      · exact absurd (hf.symm.trans h) nofun
      · exact h ho
      · exact absurd (hcf.symm.trans (h x hx)) nofun
    obtain ⟨hkind, hever, hcycle⟩ := m0.firstCycle_restart hm hu
    refine ⟨m0.firstCycle_service hm hu, hkind, hever, fun x hx => ?_, m0.firstCycle_other hm hu,
      fun hw => hcycle.trans (m0.firstNumber_cold hw), fun hw c tm hrec => hcycle.trans (m0.firstNumber_warm hw hrec)⟩
    rw [m0.firstCycle_voter hm hu x hx]
    exact m0.firstLane_votes _

end Sys2Proof.Machine
end

