-- ==== Sys2Proof/Proofs/OnlineChange.lean ====
section
/-!
SUPPORT and the settled statement on the commit of an online change: how a lane ends a change, and the branches of a commit and of
the end of its wait (05_change_while_running.md R137, R138, R148; 10_older_interfaces_and_bridging.md R322).
-/
namespace Sys2Proof.Machine

/-! ### A lane ends a change (R137, R148) -/

section
variable (l : LaneSt) (anum : Nat) (r : ChangeResult)

theorem LaneSt.endChange_rt : (l.endChange anum r).rt = { l.rt with change := none, result := some r } := by
  unfold LaneSt.endChange
  extract_lets l1
  split <;> rfl

theorem LaneSt.endChange_region : (l.endChange anum r).region = l.region := by
  unfold LaneSt.endChange
  extract_lets l1
  split <;> rfl
end

/-! ### A commit (R137) -/

/-- What the lanes wait for after a commit: a wait of 300 s where none is given, of an hour at most. -/
def Mod.waitOf (m : Mod) (anum : Nat) (body : Bytes) : ChangeWait :=
  ⟨Bytes.le body 0 4, Bytes.le body 4 1,
    m.cycleTime + (if Bytes.le body 8 4 = 0 then 300 else min (Bytes.le body 8 4) 3600) * 1000000000, Bytes.sub body 0x10 48, anum⟩

section
variable (m : Mod) (lc : LcState) (anum : Nat) (body : Bytes)

theorem Mod.changeCommit_accepted (h : m.commitRefused lc (Bytes.le body 4 1) (Bytes.sub body 0x10 48) = none) :
    m.changeCommit lc anum body =
      { m with lanes := m.lanes.map fun l =>
          if l.voting then { l with rt := { l.rt with change := some (m.waitOf anum body) } } else l } := by
  simp only [Mod.changeCommit, h]
  rfl

/-- The result of a refused commit: the refusal, and for CHECK the check that the staging of a lane failed (R148). -/
def Mod.commitRefusal (r : Nat) : ChangeResult :=
  { bareResult (m.waitOf anum body) r with
    check := if r = resCHECK then (m.voters.filterMap fun x => (m.lane x).stageFail.map (·.1)).head?.getD 0 else 0 }

/-- A refused commit ends in every voting lane with a result that names the refusal. -/
theorem Mod.changeCommit_refused {r : Nat} (h : m.commitRefused lc (Bytes.le body 4 1) (Bytes.sub body 0x10 48) = some r) (y : Lane) :
    (m.changeCommit lc anum body).lane y =
      if (m.lane y).voting then (m.lane y).endChange anum (m.commitRefusal anum body r) else m.lane y := by
  simp only [Mod.changeCommit, h, Mod.lane_put]
  exact PerLane.get_map _ _ y

/-- Outside COMMISSION and MAINTAIN no change is made in place (R137). -/
theorem Mod.commitRefused_state (digest : Bytes) (hc : lc ≠ .commission) (hm : lc ≠ .maintain) :
    m.commitRefused lc 1 digest = some resSTATE := by
  simp [Mod.commitRefused, hc, hm]

theorem Mod.commitCmd_eq {x : Lane} {a : AssocRec} (hx : m.voters.head? = some x) (ha : (m.lane x).kst.recOf anum = some a) :
    m.commitCmd anum body =
      if a.canCommission then m.changeCommit m.lcLane anum body
      else m.running.foldl (fun (m : Mod) y => m.modLane y fun l => l.stage { kstRoleEvt anum 0x42 with src := y.idx }) m := by
  simp only [Mod.commitCmd, hx, Mod.commitAs, ha]

/-- A commit without the commissioning role leaves nothing but a record (R322). -/
theorem Mod.foldl_stage_change (e : Lane → Evt) (y : Lane) :
    ((m.running.foldl (fun (m : Mod) x => m.modLane x fun l => l.stage (e x)) m).lane y).rt.change = (m.lane y).rt.change ∧
      ((m.running.foldl (fun (m : Mod) x => m.modLane x fun l => l.stage (e x)) m).lane y).rt.result = (m.lane y).rt.result := by
  rw [Mod.foldl_modLane_lane (fun x l => l.stage (e x)) y _ m m.running_nodup]
  split <;> exact ⟨rfl, rfl⟩
end

/-! ### The end of a wait (R138) -/

section
variable (m : Mod) {w : ChangeWait} (hw : (m.voters.filterMap fun y => (m.lane y).rt.change).head? = some w)
include hw

theorem Mod.endChange_lane (res : Nat) (y : Lane) :
    (m.endChange res).lane y =
      match (m.lane y).rt.change with
      | some v => (m.lane y).endChange v.anum (bareResult w res)
      | none => m.lane y := by
  simp only [Mod.endChange, hw, Mod.lane_put]
  exact PerLane.get_map _ _ y

theorem Mod.endChange_staged (res : Nat) : (m.endChange res).jade.staged = [] := by
  simp only [Mod.endChange, hw, Mod.put_jade]

/-- After the end of a change no lane waits, and those that waited keep the result (R148). -/
theorem Mod.endChange_ends (res : Nat) (y : Lane) :
    ((m.endChange res).lane y).rt.change = none ∧
      ∀ v, (m.lane y).rt.change = some v → ((m.endChange res).lane y).rt.result = some (bareResult w res) := by
  rw [m.endChange_lane hw]
  cases hc : (m.lane y).rt.change with
  | none => exact ⟨hc, nofun⟩
  | some v =>
    simp only [LaneSt.endChange_rt]
    simp

theorem Mod.changeExpire_eq : m.changeExpire = if w.until' ≤ m.cycleTime then m.endChange resROUTES else m := by
  simp only [Mod.changeExpire, hw]
end

theorem exec_changeCommit (anum : Nat) (body : Bytes) (t : Nat) (s : State) :
    exec (.changeCommit anum body t) s = s.at t fun m => m.commitCmd anum body := rfl
theorem exec_changeWaitExpire (t : Nat) (s : State) : exec (.changeWaitExpire t) s = s.at t fun m => m.changeExpire := rfl

/-- Settles O22: a commit takes the branch that its association's role and the first refusal choose, and a wait ends at its instant. -/
theorem changeCommitStartsTheSearchOrIsRefused : Obligations.ChangeCommitStartsTheSearchOrIsRefused := by
  unfold Obligations.ChangeCommitStartsTheSearchOrIsRefused
  intro s t anum body x a m0 way digest wait
  refine ⟨fun hx ha hrole => ?_, fun hc hm hway => ?_,
    fun hx ha hrole => Completes.of_at (exec_changeCommit anum body t s) fun y => ?_,
    fun w hw hpast => Completes.of_at (exec_changeWaitExpire t s) ?_, fun w hw hfuture => ?_⟩
  · have hcmd : m0.commitCmd anum body = m0.changeCommit m0.lcLane anum body := (m0.commitCmd_eq anum body hx ha).trans (if_pos hrole)
    refine ⟨fun hnone => ?_, fun r hr => Completes.of_at (exec_changeCommit anum body t s) fun y => ?_⟩
    · rw [exec_changeCommit, State.at_next]
      exact congrArg (fun m => Host.Outcome.next (State.mk s.pending m)) (hcmd.trans (m0.changeCommit_accepted _ anum body hnone))
    · have hy : (m0.commitCmd anum body).lane y =
          if (s.m.lane y).voting then (s.m.lane y).endChange anum (m0.commitRefusal anum body r) else s.m.lane y :=
        (congrArg (·.lane y) hcmd).trans (m0.changeCommit_refused _ anum body hr y)
      rw [hy]
      refine ⟨fun hv => if_neg (by simp [hv]), fun hv => ?_⟩
      rw [if_pos hv, LaneSt.endChange_rt, LaneSt.endChange_region]
      exact ⟨rfl, rfl, rfl⟩
  · rw [hway]
    exact s.m.commitRefused_state _ _ hc hm
  · have hcmd := (m0.commitCmd_eq anum body hx ha).trans (if_neg (by simp [hrole]))
    rw [show (s.m.advance t).commitCmd anum body = _ from hcmd]
    exact m0.foldl_stage_change (fun y => { kstRoleEvt anum 0x42 with src := y.idx }) y
  · have hend : m0.changeExpire = m0.endChange resROUTES := (m0.changeExpire_eq hw).trans (if_pos hpast)
    rw [hend]
    exact ⟨m0.endChange_staged hw _, m0.endChange_ends hw _⟩
  · rw [exec_changeWaitExpire, State.at_next]
    exact congrArg (fun m => Host.Outcome.next (State.mk s.pending m)) ((m0.changeExpire_eq hw).trans (if_neg (Nat.not_le.mpr hfuture)))

end Sys2Proof.Machine
end

