-- ==== Sys2Proof/Proofs/Forces.lean ====
section
/-!
SUPPORT and the settled statement on forces: the status and the table of each form of a FORCE message, and that every lane that runs takes
it by itself in the life-cycle state the lanes held before (05_change_while_running.md R144 to R146).
-/
namespace Sys2Proof.Machine

/-! ### The status that applies first (R145) -/

/-- A lane with another force table. -/
def LaneSt.withForces (l : LaneSt) (fs : List Force) : LaneSt := { l with rt := { l.rt with forces := fs } }

/-- The force table without the forces of a kind and key. -/
def LaneSt.otherForces (l : LaneSt) (kind key : Nat) : List Force := l.rt.forces.filter fun f => !(f.kind == kind && f.key == key)

/-- A set: the force table after it, and its status (R145). -/
def LaneSt.setForce (l : LaneSt) (b : Bytes) : LaneSt × Nat :=
  let kind := Bytes.le b 1 1
  let key := Bytes.le b 4 4
  let value := Bytes.le b 8 8
  let rest := l.otherForces kind key
  let j := (l.image.varOf key).getD 0
  let limit := if kind = 1 then 2 ^ (8 * l.image.vSize j) else 2 ^ 32
  let l1 := l.withForces (rest ++ [⟨kind, key, value, if kind = 2 then Bytes.le b 0x10 4 else 0⟩])
  let held := if kind = 1 then l1.holdForces else l1
  if kind = 1 ∧ (l.image.vForceable j = false ∨ l.image.vType j = 0x10) then (l.withForces l.rt.forces, 2)
  else if limit ≤ value then (l.withForces l.rt.forces, 6)
  else if rest.length = l.rt.forces.length ∧ 256 ≤ l.rt.forces.length then (l.withForces l.rt.forces, 4)
  else (held, 0)

theorem LaneSt.otherForces_length_iff (l : LaneSt) (kind key : Nat) :
    (l.otherForces kind key).length = l.rt.forces.length ↔ ∀ f ∈ l.rt.forces, ¬(f.kind = kind ∧ f.key = key) := by
  simp only [LaneSt.otherForces, List.length_filter_eq_length_iff, Bool.not_eq_true', ← Bool.not_eq_true, Bool.and_eq_true, beq_iff_eq]

section
variable (l : LaneSt) {lc : LcState} {b : Bytes}

theorem LaneSt.force_state (hc : lc ≠ .commission) (hm : lc ≠ .maintain) : l.force lc b = (l.withForces l.rt.forces, 1) :=
  if_pos ⟨hc, hm⟩

variable (hlc : lc = .commission ∨ lc = .maintain)
include hlc

/-- What FORCE does in a life-cycle state that allows forces. -/
theorem LaneSt.force_allowed :
    l.force lc b =
      if l.forceUnknown b then (l.withForces l.rt.forces, 3)
      else if Bytes.le b 0 1 = 3 then (l.withForces [], 0)
      else if Bytes.le b 0 1 = 2 then
        if (l.otherForces (Bytes.le b 1 1) (Bytes.le b 4 4)).length = l.rt.forces.length then (l.withForces l.rt.forces, 5)
        else (l.withForces (l.otherForces (Bytes.le b 1 1) (Bytes.le b 4 4)), 0)
      else l.setForce b := by
  refine if_neg fun ⟨hc, hm⟩ => ?_
  exact hlc.elim hc hm

theorem LaneSt.force_unknown (hu : l.forceUnknown b = true) : l.force lc b = (l.withForces l.rt.forces, 3) := by
  rw [l.force_allowed hlc, if_pos hu]

variable (hu : l.forceUnknown b = false)
include hu

theorem LaneSt.force_clearAll (hf : Bytes.le b 0 1 = 3) : l.force lc b = (l.withForces [], 0) := by
  rw [l.force_allowed hlc, if_neg (by simp [hu]), if_pos hf]

theorem LaneSt.force_clear (hf : Bytes.le b 0 1 = 2) (h : ∃ f ∈ l.rt.forces, f.kind = Bytes.le b 1 1 ∧ f.key = Bytes.le b 4 4) :
    l.force lc b = (l.withForces (l.otherForces (Bytes.le b 1 1) (Bytes.le b 4 4)), 0) := by
  obtain ⟨f, hmem, hkey⟩ := h
  have hlen := fun hl => (l.otherForces_length_iff _ _).mp hl f hmem hkey
  rw [l.force_allowed hlc, if_neg (by simp [hu]), if_neg (by omega), if_pos hf, if_neg hlen]

theorem LaneSt.force_clear_absent (hf : Bytes.le b 0 1 = 2)
    (h : ∀ f ∈ l.rt.forces, ¬(f.kind = Bytes.le b 1 1 ∧ f.key = Bytes.le b 4 4)) : l.force lc b = (l.withForces l.rt.forces, 5) := by
  rw [l.force_allowed hlc, if_neg (by simp [hu]), if_neg (by omega), if_pos hf, if_pos ((l.otherForces_length_iff _ _).mpr h)]

theorem LaneSt.force_set (hf : Bytes.le b 0 1 = 1) : l.force lc b = l.setForce b := by
  rw [l.force_allowed hlc, if_neg (by simp [hu]), if_neg (by omega), if_neg (by omega)]
end

/-! ### A set on a word of the output image (R144) -/

section
variable (l : LaneSt) {b : Bytes} (hk : Bytes.le b 1 1 = 2)
include hk

/-- The table takes the new force behind the others. -/
theorem LaneSt.setForce_word (hv : Bytes.le b 8 8 < 2 ^ 32) (hn : l.rt.forces.length < 256) :
    l.setForce b =
      (l.withForces (l.otherForces 2 (Bytes.le b 4 4) ++ [⟨2, Bytes.le b 4 4, Bytes.le b 8 8, Bytes.le b 0x10 4⟩]), 0) := by
  have hroom (p : Prop) : ¬(p ∧ 256 ≤ l.rt.forces.length) := by omega
  simp only [LaneSt.setForce, hk, if_neg (Nat.not_le.mpr hv), if_neg (hroom _), Nat.reduceEqDiff, false_and, if_false, if_true]

theorem LaneSt.setForce_word_range (hv : 2 ^ 32 ≤ Bytes.le b 8 8) : l.setForce b = (l.withForces l.rt.forces, 6) := by
  simp only [LaneSt.setForce, hk, if_pos hv, Nat.reduceEqDiff, false_and, if_false]
end

/-! ### The life-cycle state stands -/

/-- What the lanes' life-cycle state rests on in a lane: whether it votes, and its own state. -/
def LaneSt.standing (l : LaneSt) : Bool × LcState := (l.voting, l.lc)

theorem LaneSt.wrInstRaw_standing (l : LaneSt) (o n v : Nat) : (l.wrInstRaw o n v).standing = l.standing := by
  unfold LaneSt.wrInstRaw
  extract_lets b ls rt
  split <;> rfl

theorem LaneSt.holdForces_standing (l : LaneSt) : l.holdForces.standing = l.standing := by
  refine foldl_keeps LaneSt.standing _ _ l fun l f => ?_
  split
  · exact l.wrInstRaw_standing _ _ _
  · rfl

theorem LaneSt.setForce_standing (l : LaneSt) (b : Bytes) : (l.setForce b).1.standing = l.standing := by
  unfold LaneSt.setForce
  extract_lets kind key value rest j limit l1 held
  have hheld : held.standing = l.standing := by
    unfold held
    split
    · exact l1.holdForces_standing
    · rfl
  split
  · rfl
  split
  · rfl
  split
  · rfl
  · exact hheld

theorem LaneSt.force_standing (l : LaneSt) (lc : LcState) (b : Bytes) : (l.force lc b).1.standing = l.standing := by
  by_cases hlc : lc = .commission ∨ lc = .maintain
  · rw [l.force_allowed hlc]
    split
    · rfl
    split
    · rfl
    split
    · split <;> rfl
    · exact l.setForce_standing b
  · obtain ⟨hc, hm⟩ := not_or.mp hlc
    rw [l.force_state hc hm]
    rfl

theorem LaneSt.forceCmd_standing (l : LaneSt) (me : Nat) (lc : LcState) (anum : Nat) (b : Bytes) :
    (l.forceCmd me lc anum b).standing = l.standing := by
  unfold LaneSt.forceCmd
  split
  · rfl
  split
  · exact l.force_standing lc b
  · rfl

theorem Mod.lcLane_congr {m m' : Mod} (h : ∀ x, (m'.lane x).standing = (m.lane x).standing) : m'.lcLane = m.lcLane := by
  have hv (x : Lane) : (m'.lane x).voting = (m.lane x).voting := congrArg Prod.fst (h x)
  have hvoters : m'.voters = m.voters := by simp only [Mod.voters, hv]
  rw [Mod.lcLane, Mod.lcLane, hvoters]
  exact congrArg Prod.snd (h _)

theorem Mod.modLane_lcLane (m : Mod) (x : Lane) (f : LaneSt → LaneSt) (h : (f (m.lane x)).standing = (m.lane x).standing) :
    (m.modLane x f).lcLane = m.lcLane := by
  refine Mod.lcLane_congr fun y => ?_
  by_cases hy : y = x
  · subst hy
    rwa [Mod.lane_modLane_self]
  · rw [m.lane_modLane_ne x y f hy]

/-! ### Each lane that runs takes the message (R145) -/

theorem Mod.foldl_forceCmd (anum : Nat) (b : Bytes) (xs : List Lane) (m : Mod) :
    xs.foldl (fun (m : Mod) x => m.modLane x fun l => l.forceCmd x.idx m.lcLane anum b) m =
      xs.foldl (fun (m' : Mod) x => m'.modLane x fun l => l.forceCmd x.idx m.lcLane anum b) m := by
  induction xs generalizing m with
  | nil => rfl
  | cons x xs ih => rw [List.foldl_cons, ih, m.modLane_lcLane x _ ((m.lane x).forceCmd_standing _ _ _ _), List.foldl_cons]

theorem Mod.force_lane (m : Mod) (anum : Nat) (b : Bytes) (x : Lane) (hx : x ∈ m.running) :
    (m.force anum b).lane x = (m.lane x).forceCmd x.idx m.lcLane anum b := by
  rw [Mod.force, Mod.foldl_forceCmd, Mod.foldl_modLane_lane (fun x l => l.forceCmd x.idx m.lcLane anum b) x _ m m.running_nodup, if_pos hx]

/-! ### The command -/

theorem LaneSt.forceCmd_unentitled (l : LaneSt) (me : Nat) (lc : LcState) {anum : Nat} (b : Bytes) {a : AssocRec}
    (ha : l.kst.recOf anum = some a) (hr : a.canCommission = false) :
    l.forceCmd me lc anum b =
      ({ l with kst := l.kst.data anum 0xC1 (forceResult 7 b) } : LaneSt).stage { kstRoleEvt anum 0x41 with src := me } := by
  simp [LaneSt.forceCmd, ha, hr]

theorem LaneSt.forceCmd_entitled (l : LaneSt) (me : Nat) {lc : LcState} {anum : Nat} {b : Bytes} {a : AssocRec}
    (ha : l.kst.recOf anum = some a) (hr : a.canCommission = true) {fs : List Force} {st : Nat}
    (hf : l.force lc b = (l.withForces fs, st)) :
    l.forceCmd me lc anum b = { l.withForces fs with kst := l.kst.data anum 0xC1 (forceResult st b) } := by
  simp only [LaneSt.forceCmd, ha, hr, if_true, LaneSt.forceMsg, hf]
  rfl

theorem exec_force (anum : Nat) (body : Bytes) (t : Nat) (s : State) :
    exec (.force anum body t) s = s.at t fun m => m.force anum body := rfl

/-- Settles O23: a lane that runs answers by the role, else by the status that applies first, and its table is the one that goes with it. -/
theorem forceChangesTheTableOrAnswersWhy : Obligations.ForceChangesTheTableOrAnswersWhy := by
  unfold Obligations.ForceChangesTheTableOrAnswersWhy
  intro s t anum body x a hx ha l fop kind key answered
  have hlane : ((s.m.advance t).force anum body).lane x = l.forceCmd x.idx s.m.lcLane anum body :=
    (s.m.advance t).force_lane anum body x hx
  have hfull (hr : a.canCommission = true) {fs : List Force} {st : Nat} (hf : l.force s.m.lcLane body = (l.withForces fs, st)) :
      Completes (.force anum body t) s fun m => (m.lane x).rt.forces = fs ∧ answered st m ∧ (m.lane x).tcm = l.tcm := by
    refine Completes.of_at (exec_force anum body t s) ?_
    unfold answered
    rw [hlane, l.forceCmd_entitled _ ha hr hf]
    exact ⟨rfl, rfl, rfl⟩
  have hanswers (hr : a.canCommission = true) {fs : List Force} {st : Nat} (hf : l.force s.m.lcLane body = (l.withForces fs, st)) :
      Completes (.force anum body t) s fun m => (m.lane x).rt.forces = fs ∧ answered st m := by
    obtain ⟨u, hu, hp, hforces, hanswer, -⟩ := hfull hr hf
    exact ⟨u, hu, hp, hforces, hanswer⟩
  refine ⟨fun hr => Completes.of_at (exec_force anum body t s) ?_, fun hr hc hm => hanswers hr (l.force_state hc hm),
    fun hr hlc => ⟨fun hu => hanswers hr (l.force_unknown hlc hu), fun hu hf => hanswers hr (l.force_clearAll hlc hu hf),
      fun hu hf h => hanswers hr (l.force_clear hlc hu hf h), fun hu hf h => hanswers hr (l.force_clear_absent hlc hu hf h),
      fun hu hf hk hv hn => ?_,
      fun hu hf hk hv => hanswers hr ((l.force_set hlc hu hf).trans (l.setForce_word_range hk hv))⟩⟩
  · unfold answered
    rw [hlane, l.forceCmd_unentitled _ _ _ ha hr]
    exact ⟨rfl, rfl⟩
  · obtain ⟨u, hexec, hp, hforces, hanswer, htcm⟩ := hfull hr ((l.force_set hlc hu hf).trans (l.setForce_word hk hv hn))
    exact ⟨u, hexec, hp, by simp [hforces, key], hanswer, htcm⟩

end Sys2Proof.Machine
end

