-- ==== Sys2Proof/Proofs/VotedUnits.lean ====
section
/-!
SUPPORT and the settled statement on what a vote rests on: the lanes behind a unit's digest, the pair of equal summaries, and the agreed cut
count (01_one_logic_cycle.md R20; 06_lanes_and_voting.md R170, R171).
-/
namespace Sys2Proof.Machine

/-! ### The lanes behind a digest (R171) -/

/-- The offers with the same digest of a unit as a given one. -/
def sameDigest (offers : List (Lane × List Nat)) (u : Nat) (o : Lane × List Nat) : List (Lane × List Nat) :=
  offers.filter fun q => q.2.getD u 0 == o.2.getD u 0

/-- Who agrees on a unit is nobody, or the lanes of an offer whose digest two lanes offer. -/
theorem agreeing_cases (offers : List (Lane × List Nat)) (u : Nat) :
    agreeing offers u = [] ∨
      ∃ o ∈ offers, agreeing offers u = (sameDigest offers u o).map Prod.fst ∧ 2 ≤ (sameDigest offers u o).length := by
  unfold agreeing
  extract_lets ds side
  have hside (o : Lane × List Nat) : side (o.2.getD u 0) = (sameDigest offers u o).map Prod.fst := by
    simp only [side, ds, sameDigest, List.filter_map, List.map_map]
    rfl
  split
  case h_1 s hs =>
    obtain ⟨d, hd, rfl⟩ := List.mem_map.mp (List.mem_of_find?_eq_some hs)
    obtain ⟨o, ho, rfl⟩ := List.mem_map.mp hd
    have htwo : 2 ≤ (side (o.2.getD u 0)).length := of_decide_eq_true (List.find?_some hs :)
    rw [hside, List.length_map] at htwo
    exact Or.inr ⟨o, ho, hside o, htwo⟩
  case h_2 => exact Or.inl rfl

/-- A lane that agrees on a unit offered a digest that two lanes offered. -/
theorem exists_sameDigest_of_mem_agreeing {offers : List (Lane × List Nat)} {u : Nat} {x : Lane} (hx : x ∈ agreeing offers u) :
    ∃ o ∈ offers, o.1 = x ∧ 2 ≤ (sameDigest offers u o).length := by
  obtain h | ⟨o, ho, h, htwo⟩ := agreeing_cases offers u <;> rw [h] at hx
  · cases hx
  · obtain ⟨q, hq, rfl⟩ := List.mem_map.mp hx
    obtain ⟨hmem, heq⟩ := List.mem_filter.mp hq
    have hsame : sameDigest offers u q = sameDigest offers u o := by
      simp only [sameDigest, beq_iff_eq.mp heq]
    exact ⟨q, hmem, rfl, hsame ▸ htwo⟩

/-! ### The vote as a whole (R24, R171) -/

theorem wholePair_iff (offers : List (Lane × List Nat)) :
    wholePair offers = true ↔ ∃ o ∈ offers, ∃ q ∈ offers, o.1.idx < q.1.idx ∧ o.2 = q.2 := by
  simp [wholePair]

/-- A vote that does not lead to HELD had two offers, and three of them hold a pair of equal summaries. -/
theorem vote_not_held {offers : List (Lane × List Nat)} (h : (vote offers).held = false) :
    2 ≤ offers.length ∧ (offers.length ≠ 2 → wholePair offers = true) := by
  obtain ⟨hlen, hpair⟩ := Bool.or_eq_false_iff.mp h
  refine ⟨Nat.not_lt.mp (of_decide_eq_false hlen), fun hne => ?_⟩
  rw [if_neg hne] at hpair
  simpa using hpair

/-! ### The agreed cut count (R20) -/

/-- The count of three lanes is one of theirs, with at most one lane below it and one above. -/
theorem cutCount_three (a b c : Nat) :
    (cutCount [a, b, c] = a ∨ cutCount [a, b, c] = b ∨ cutCount [a, b, c] = c) ∧
      2 ≤ ([a, b, c].filter fun k => decide (k ≤ cutCount [a, b, c])).length ∧
      2 ≤ ([a, b, c].filter fun k => decide (cutCount [a, b, c] ≤ k)).length := by
  have hmid : cutCount [a, b, c] = max (min a b) (min (max a b) c) := rfl
  generalize cutCount [a, b, c] = k at hmid ⊢
  refine ⟨by omega, ?_, ?_⟩
  all_goals
    simp only [← List.countP_eq_length_filter, List.countP_cons, List.countP_nil, decide_eq_true_eq]
    repeat' split
    all_goals omega

/-- Settles O13: the lanes of a unit are one side of the offers, and a vote that goes on found its two offers or its equal pair. -/
theorem votedUnitsRestOnTwoEqualOffers : Obligations.VotedUnitsRestOnTwoEqualOffers := by
  unfold Obligations.VotedUnitsRestOnTwoEqualOffers
  exact ⟨fun _ _ _ hx => exists_sameDigest_of_mem_agreeing hx,
    fun offers hv hlen => (wholePair_iff offers).mp ((vote_not_held hv).2 (by omega)),
    fun _ hv => (vote_not_held hv).1, cutCount_three, fun _ _ => rfl⟩

end Sys2Proof.Machine
end

