-- ==== Sys2Proof/Proofs/LaneFaults.lean ====
section
/-!
SUPPORT and the settled statement on lane faults: how a lane drops out when it falls silent, what it keeps on the way, and the four faults
that silence it (06_lanes_and_voting.md R152 to R156; 16_movers_checks_crossings.md R458).
-/
namespace Sys2Proof.Machine

/-! ### What a lane keeps while it drops out -/

/-- From `l` to `l'` the lane control registers and a debug halt stand, and a stopped core pair is not started. -/
def LaneSt.Stays (l l' : LaneSt) : Prop := l'.lct = l.lct ∧ l'.halted = l.halted ∧ (l.stopped = true → l'.stopped = true)

theorem LaneSt.Stays.refl (l : LaneSt) : l.Stays l := ⟨rfl, rfl, id⟩

theorem LaneSt.Stays.trans {l l' l'' : LaneSt} (h : l.Stays l') (h' : l'.Stays l'') : l.Stays l'' := by
  obtain ⟨hlct, hhalt, hstop⟩ := h
  obtain ⟨hlct', hhalt', hstop'⟩ := h'
  exact ⟨hlct'.trans hlct, hhalt'.trans hhalt, hstop' ∘ hstop⟩

theorem LaneSt.hold_stays (l : LaneSt) : l.Stays l.hold := by
  unfold LaneSt.hold LaneSt.abortChange
  split <;> exact ⟨rfl, rfl, id⟩

theorem LaneSt.leave_stays (l : LaneSt) (c : Nat) : l.Stays (l.leave c) := by
  unfold LaneSt.leave
  split <;> exact ⟨rfl, rfl, id⟩

theorem Mod.puts_lane (m : Mod) (es : List Evt) (x : Lane) : (m.puts es).lane x = m.lane x :=
  (congrArg (Mod.lane · x) (m.puts_amber_only es) :)

theorem Mod.tooFew_stays (m : Mod) (x : Lane) : (m.lane x).Stays (m.tooFew.lane x) := by
  obtain h | h := m.tooFew_lane x <;> rw [h]
  · exact .refl _
  · exact (m.lane x).hold_stays

/-- A failed shadow cycle stops the core pair of a lane that it holds out, and starts none (R179). -/
theorem Mod.shadowFail_stays (m : Mod) (x : Lane) : (m.lane x).Stays ((m.shadowFail x).lane x) := by
  unfold Mod.shadowFail
  split
  case h_1 => exact .refl _
  case h_2 c _ =>
    split
    · exact .refl _
    extract_lets m1 day l exits m2
    have hend : (m.lane x).Stays (m1.lane x) := by
      rw [show m1.lane x = _ from m.lane_modLane_self x _]
      exact ⟨rfl, rfl, id⟩
    split
    · exact hend
    have hout : (m.lane x).Stays (m2.lane x) := by
      rw [show m2.lane x = _ from m1.lane_setLane_self x _]
      exact hend.trans ⟨rfl, rfl, fun _ => rfl⟩
    split
    · split <;> exact hout
    · exact hout

/-! ### How a lane drops out (R154) -/

/-- What follows when lane `x` fell silent with cause `c`, by what it was before: a counting lane leaves, a lane in shadow fails its shadow
cycle, else only the gates follow. -/
def Mod.dropOut (m : Mod) (x : Lane) (before : LaneSt) (c : Nat) : Mod :=
  if before.silent then m.gates
  else if before.voting then ((m.modLane x fun y => y.leave c).gates).tooFew
  else if before.shadow then (m.gates).shadowFail x
  else m.gates

section
variable (m : Mod) (x : Lane) (before : LaneSt) (c : Nat)

theorem Mod.dropOut_stays : (m.lane x).Stays ((m.dropOut x before c).lane x) := by
  unfold Mod.dropOut
  split
  · rw [Mod.gates_lane]
    exact .refl _
  split
  · have hleave : (m.lane x).Stays ((m.modLane x fun y => y.leave c).gates.lane x) := by
      rw [Mod.gates_lane, Mod.lane_modLane_self]
      exact (m.lane x).leave_stays c
    exact hleave.trans (Mod.tooFew_stays _ x)
  split
  · have hfail := m.gates.shadowFail_stays x
    rwa [Mod.gates_lane] at hfail
  · rw [Mod.gates_lane]
    exact .refl _

/-- A silent lane drives no gate once it has dropped out. -/
theorem Mod.dropOut_off (hs : (m.lane x).silent = true) (hv : (m.lane x).voting = before.voting) :
    ((m.dropOut x before c).lane x).off := by
  unfold Mod.dropOut
  split
  · exact Or.inr (by rw [Mod.gates_lane, hs])
  split
  · obtain h | h := Mod.tooFew_lane (m.modLane x fun y => y.leave c).gates x <;> rw [h]
    · exact Or.inr (by simp [LaneSt.leave_silent, hs])
    · exact Or.inl (LaneSt.hold_voting _)
  split
  · obtain ⟨-, -, hvoting, -⟩ := m.gates.shadowFail_beside x
    exact Or.inl (by rw [hvoting, Mod.gates_lane, hv]; simp_all)
  · exact Or.inr (by rw [Mod.gates_lane, hs])
end

/-! ### Silence by a fault (R152 to R154, R458) -/

/-- What LCT_FAULT holds of a cause with its level and unit (R458). -/
def faultWord (c level unitNo : Nat) : Word32 := BitVec.ofNat 32 (c + level <<< 8 + unitNo <<< 16)

/-- The first cause since lane reset is noted (R458). -/
theorem LaneSt.silenced_first (l : LaneSt) (c level unitNo : Nat) (h : l.lct.fault = 0) :
    (l.silenced c level unitNo).lct.fault = faultWord c level unitNo := by
  simp [LaneSt.silenced, LaneSt.quiet, LaneSt.noteFault, h, faultWord]

/-- Silence leaves the monitors' findings and the core pair as they are. -/
theorem LaneSt.silenced_monitors (l : LaneSt) (c level unitNo : Nat) :
    (l.silenced c level unitNo).lct.pgTrip = l.lct.pgTrip ∧ (l.silenced c level unitNo).lct.clkTrip = l.lct.clkTrip ∧
      (l.silenced c level unitNo).lct.clkDev = l.lct.clkDev ∧ (l.silenced c level unitNo).stopped = l.stopped := by
  unfold LaneSt.silenced LaneSt.quiet LaneSt.noteFault
  split <;> exact ⟨rfl, rfl, rfl, rfl⟩

section
variable (m : Mod) (x : Lane) (c level unitNo : Nat)

theorem Mod.silence_eq_dropOut :
    m.silence x c level unitNo = (m.setLane x ((m.lane x).silenced c level unitNo)).dropOut x (m.lane x) c := rfl

theorem Mod.silence_can : (m.silence x c level unitNo).can.get x = false :=
  Mod.can_of_off _ x (m.silence_self x c level unitNo).1

/-- The lane keeps what silence noted in it. -/
theorem Mod.silence_stays : ((m.lane x).silenced c level unitNo).Stays ((m.silence x c level unitNo).lane x) := by
  have h := (m.setLane x ((m.lane x).silenced c level unitNo)).dropOut_stays x (m.lane x) c
  rwa [Mod.lane_setLane_self, ← Mod.silence_eq_dropOut] at h

theorem Mod.silence_fault (h : (m.lane x).lct.fault = 0) :
    ((m.silence x c level unitNo).lane x).lct.fault = faultWord c level unitNo := by
  obtain ⟨hlct, -⟩ := m.silence_stays x c level unitNo
  rw [hlct, LaneSt.silenced_first _ _ _ _ h]
end

/-- A stopped lane: its core pair stands, it drives no gate, and its first cause is noted at level 4 (R152, R153). -/
theorem Mod.stopLane_spec (m : Mod) (x : Lane) (c unitNo : Nat) :
    (m.stopLane x c unitNo).can.get x = false ∧ ((m.stopLane x c unitNo).lane x).stopped = true ∧
      ((m.lane x).lct.fault = 0 → ((m.stopLane x c unitNo).lane x).lct.fault = faultWord c 4 unitNo) := by
  unfold Mod.stopLane
  extract_lets m1 m2 w
  have hlane : m1.lane x = { m.lane x with stopped := true } := m.lane_modLane_self x _
  have hoff : (m2.lane x).off := (m1.silence_self x c 4 unitNo).1
  obtain ⟨-, -, hstop⟩ := m1.silence_stays x c 4 unitNo
  obtain ⟨-, -, -, hstopped⟩ := (m1.lane x).silenced_monitors c 4 unitNo
  refine ⟨Mod.can_of_off _ x ?_, ?_, fun h => ?_⟩ <;> rw [Mod.puts_lane]
  · exact hoff
  · exact hstop (by rw [hstopped, hlane])
  · exact m1.silence_fault x c 4 unitNo (by rw [hlane]; exact h)

/-- A lane with the trip of one of its monitors noted (R154, R458). -/
def LaneSt.tripped (l : LaneSt) (clock : Bool) (dev : Nat) : LaneSt :=
  { l with lct := if clock then { l.lct with clkDev := dev % 65536, stops := min 255 (l.lct.stops + 1), clkTrip := true }
    else { l.lct with pgTrip := true } }

theorem LaneSt.tripped_fault (l : LaneSt) (clock : Bool) (dev : Nat) : (l.tripped clock dev).lct.fault = l.lct.fault := by
  cases clock <;> rfl

theorem Mod.monitorTrip_of_powered (m : Mod) (x : Lane) (clock : Bool) (dev : Nat) (hp : (m.lane x).powered = true) :
    m.monitorTrip x clock dev = (m.modLane x fun l => l.tripped clock dev).silence x (if clock then 9 else 8) 5 8 :=
  if_neg (by simp [hp])

/-- A trip silences the lane, and what the monitor found stays noted (R154). -/
theorem Mod.monitorTrip_spec (m : Mod) (x : Lane) (clock : Bool) (dev : Nat) (hp : (m.lane x).powered = true) :
    (m.monitorTrip x clock dev).can.get x = false ∧
      ((m.monitorTrip x clock dev).lane x).lct.pgTrip = ((m.lane x).tripped clock dev).lct.pgTrip ∧
      ((m.monitorTrip x clock dev).lane x).lct.clkTrip = ((m.lane x).tripped clock dev).lct.clkTrip ∧
      ((m.monitorTrip x clock dev).lane x).lct.clkDev = ((m.lane x).tripped clock dev).lct.clkDev ∧
      ((m.lane x).lct.fault = 0 → ((m.monitorTrip x clock dev).lane x).lct.fault = faultWord (if clock then 9 else 8) 5 8) := by
  rw [m.monitorTrip_of_powered x clock dev hp]
  generalize hm : (m.modLane x fun l => l.tripped clock dev) = m1
  generalize (if clock then 9 else 8) = c
  have hlane : m1.lane x = (m.lane x).tripped clock dev := by rw [← hm, Mod.lane_modLane_self]
  obtain ⟨hlct, -⟩ := m1.silence_stays x c 5 8
  obtain ⟨hpg, hclk, hdev, -⟩ := (m1.lane x).silenced_monitors c 5 8
  rw [← hlane, hlct]
  refine ⟨m1.silence_can x c 5 8, hpg, hclk, hdev, fun h => LaneSt.silenced_first _ c 5 8 ?_⟩
  rw [hlane, LaneSt.tripped_fault, h]

/-! ### A debug halt (R156) -/

theorem Mod.debugHalt_elsewhere (m : Mod) (x : Lane) (hl : (m.lane x).latch ≠ .lab) (hm : (m.lane x).latch ≠ .manufacture) :
    m.debugHalt x = m :=
  if_pos (Or.inr (Or.inr ⟨hl, hm⟩))

/-- A halt that is allowed stops the lane as silence does, with no cause noted (R156). -/
theorem Mod.debugHalt_allowed (m : Mod) (x : Lane) (hp : (m.lane x).powered = true) (hr : (m.lane x).released = true)
    (hl : (m.lane x).latch = .lab ∨ (m.lane x).latch = .manufacture) :
    m.debugHalt x = (m.setLane x { (m.lane x).quiet with halted := true }).dropOut x (m.lane x) exHALT := by
  refine if_neg ?_
  simp only [hp, hr, Bool.true_eq_false, false_or]
  exact fun ⟨hlab, hman⟩ => hl.elim hlab hman

theorem Mod.debugHalt_spec (m : Mod) (x : Lane) (hp : (m.lane x).powered = true) (hr : (m.lane x).released = true)
    (hl : (m.lane x).latch = .lab ∨ (m.lane x).latch = .manufacture) :
    (m.debugHalt x).can.get x = false ∧ ((m.debugHalt x).lane x).halted = true := by
  rw [m.debugHalt_allowed x hp hr hl]
  generalize hm : m.setLane x { (m.lane x).quiet with halted := true } = m1
  have hlane : m1.lane x = { (m.lane x).quiet with halted := true } := by rw [← hm, Mod.lane_setLane_self]
  obtain ⟨-, hhalt, -⟩ := m1.dropOut_stays x (m.lane x) exHALT
  exact ⟨Mod.can_of_off _ x (m1.dropOut_off x (m.lane x) exHALT (by rw [hlane]; rfl) (by rw [hlane]; rfl)), by rw [hhalt, hlane]⟩

/-! ### The commands -/

theorem Mod.lockstep_of_compared (m : Mod) (x : Lane) (unitNo : Nat) (hc : (m.lane x).comparator = true)
    (hr : (m.lane x).released = true) : m.lockstep x unitNo = m.stopLane x 1 unitNo :=
  if_pos (by rw [hc, hr]; rfl)

theorem Mod.comparatorFault_of_compared (m : Mod) (x : Lane) (hc : (m.lane x).comparator = true) (hr : (m.lane x).released = true) :
    m.comparatorFault x = m.stopLane x 2 2 :=
  if_pos (by rw [hc, hr]; rfl)

theorem exec_lockstepMismatch (x : Lane) (unitNo t : Nat) (s : State) :
    exec (.lockstepMismatch x unitNo t) s = s.at t fun m => m.lockstep x unitNo := rfl
theorem exec_comparatorDisagree (x : Lane) (t : Nat) (s : State) :
    exec (.comparatorDisagree x t) s = s.at t fun m => m.comparatorFault x := rfl
theorem exec_laneMonitorTrip (x : Lane) (onClock : Bool) (dev t : Nat) (s : State) :
    exec (.laneMonitorTrip x onClock dev t) s = s.at t fun m => m.monitorTrip x onClock dev := rfl
theorem exec_debugHalt (x : Lane) (t : Nat) (s : State) : exec (.debugHalt x t) s = s.at t fun m => m.debugHalt x := rfl

/-- Settles O14: each fault silences its lane, a silent lane drives no gate when it has dropped out, and what was noted in it stays. -/
theorem laneFaultsTakeTheLaneOffTheGates : Obligations.LaneFaultsTakeTheLaneOffTheGates := by
  unfold Obligations.LaneFaultsTakeTheLaneOffTheGates
  intro s x t l fault
  let m0 := s.m.advance t
  refine ⟨fun n hc hr => Completes.of_at (exec_lockstepMismatch x n t s) ?_,
    fun hc hr => Completes.of_at (exec_comparatorDisagree x t s) ?_,
    fun dev hp => Completes.of_at (exec_laneMonitorTrip x false dev t s) ?_,
    fun dev hp => Completes.of_at (exec_laneMonitorTrip x true dev t s) ?_,
    fun hp hr hl => Completes.of_at (exec_debugHalt x t s) (m0.debugHalt_spec x hp hr hl), fun hl hm => ?_⟩
  · have hstop : m0.lockstep x n = m0.stopLane x 1 n := m0.lockstep_of_compared x n hc hr
    rw [hstop]
    exact m0.stopLane_spec x 1 n
  · have hstop : m0.comparatorFault x = m0.stopLane x 2 2 := m0.comparatorFault_of_compared x hc hr
    rw [hstop]
    exact m0.stopLane_spec x 2 2
  · obtain ⟨hcan, hpg, -, -, hfault⟩ := m0.monitorTrip_spec x false dev hp
    exact ⟨hcan, hpg, hfault⟩
  · obtain ⟨hcan, -, hclk, hdev, hfault⟩ := m0.monitorTrip_spec x true dev hp
    exact ⟨hcan, hclk, hdev, hfault⟩
  · have hstands : m0.debugHalt x = m0 := m0.debugHalt_elsewhere x hl hm
    rw [exec_debugHalt, State.at_next]
    exact congrArg (fun m => Host.Outcome.next (State.mk s.pending m)) hstands

end Sys2Proof.Machine
end

