-- ==== Sys2Proof/Proofs/GarnetLinks.lean ====
section
/-!
SUPPORT and the settled statement on the Garnet links: what a failed frame, a failed link and a retrain leave in the module, and which lanes
are to leave the vote (06_lanes_and_voting.md R160, R161).
-/
namespace Sys2Proof.Machine

/-! ### A lane's place in the vote -/

/-- A lane's place in the vote: whether it counts, and for what cause it is to leave. -/
def LaneSt.place (l : LaneSt) : Bool × Option Nat := (l.voting, l.leaving)

theorem LaneSt.leave_isSome (l : LaneSt) (c : Nat) : (l.leave c).leaving.isSome = true := by
  unfold LaneSt.leave
  split
  case isTrue h => exact h
  case isFalse => rfl

theorem Mod.grnAll_lane (m : Mod) (w : Word32) (x : Lane) : (m.grnAll w).lane x = (m.lane x).grnRaise w :=
  PerLane.get_map m.lanes _ x

@[simp] theorem Mod.grnAll_service (m : Mod) (w : Word32) : (m.grnAll w).service = m.service := rfl
@[simp] theorem Mod.grnAll_links (m : Mod) (w : Word32) : (m.grnAll w).links = m.links := rfl

theorem Mod.modLane_place (m : Mod) (x y : Lane) (f : LaneSt → LaneSt) (h : ∀ l, (f l).place = l.place) :
    ((m.modLane x f).lane y).place = (m.lane y).place := by
  by_cases hy : y = x
  · rw [hy, Mod.lane_modLane_self, h]
  · rw [m.lane_modLane_ne x y f hy]

theorem Mod.voters_congr {m m' : Mod} (h : ∀ x, (m'.lane x).voting = (m.lane x).voting) : m'.voters = m.voters := by
  simp only [Mod.voters, h]

/-- From `m` to `m'` lane `x` is to leave the vote, the other lanes are not on that account, and the service state stands. -/
def Mod.SendsAway (x : Lane) (m m' : Mod) : Prop :=
  (m'.lane x).leaving.isSome = true ∧ (∀ y, y ≠ x → (m'.lane y).leaving = (m.lane y).leaving) ∧ m'.service = m.service

theorem Mod.modLane_leave_sendsAway (m : Mod) (x : Lane) (c : Nat) : m.SendsAway x (m.modLane x fun l => l.leave c) :=
  ⟨by rw [Mod.lane_modLane_self, LaneSt.leave_isSome], fun y hy => by rw [m.lane_modLane_ne x y _ hy], rfl⟩

/-! ### The table of links -/

@[simp] theorem GLinks.get_set_self (g : GLinks) (n : LinkName) (v : GLink) : (g.set n v).get n = v := by cases n <;> rfl

theorem GLinks.failed_eq (g : GLinks) : g.failed = b2n (g.ab.st == 3) + b2n (g.bc.st == 3) + b2n (g.ca.st == 3) := by
  simp only [GLinks.failed, ← List.countP_eq_length_filter, List.countP_cons, List.countP_nil, b2n]
  omega

/-- A link that fails adds one to the failed ones. -/
theorem GLinks.failed_set (g : GLinks) (n : LinkName) (w : Option Nat) (h : (g.get n).st ≠ 3) :
    (g.set n ⟨3, w⟩).failed = g.failed + 1 := by
  have hup : b2n ((g.get n).st == 3) = 0 := by simp [b2n, h]
  have hdown : b2n (3 == 3) = 1 := rfl
  rw [GLinks.failed_eq, GLinks.failed_eq]
  cases n <;> rw [GLinks.get] at hup <;> simp only [GLinks.set, hup, hdown] <;> omega

theorem LinkName.ends_ne (n : LinkName) : n.ends.1 ≠ n.ends.2.1 := by cases n <;> decide

/-! ### A frame that fails its CRC (R160) -/

theorem Mod.garnetCrc_again (m : Mod) (x : Lane) (n : LinkName) (h : (m.links.get n).st = 2) : m.garnetCrc x n true = m.linkFault n :=
  if_neg fun hne => hne h

/-- The first failure of a frame is counted and captured in its lane, and nothing else happens (R160). -/
theorem Mod.garnetCrc_first (m : Mod) (x : Lane) (n : LinkName) (h : (m.links.get n).st = 2) :
    m.garnetCrc x n false = m.modLane x fun l =>
      { l.grnError 1 3 with grn := { (l.grnError 1 3).grn with retry := min 0xFFF (l.grn.retry + 1) } } :=
  if_neg fun hne => hne h

/-! ### A link that fails (R161) -/

/-- The module once the failure of a link is noted: the link failed with its next retrain set, both its ends captured it. -/
def Mod.linkFailed (m : Mod) (n : LinkName) : Mod :=
  (((({ m with links := m.links.set n ⟨3, some (m.clock + 10000000000)⟩ } : Mod).modLane n.ends.1 fun l => l.grnError 2 3).modLane
    n.ends.2.1 fun l => l.grnError 2 3).grnAll irqGrnLINK).put (linkEvt m.src n 3)

section
variable (m : Mod) (n : LinkName)

theorem Mod.linkFailed_links : (m.linkFailed n).links = m.links.set n ⟨3, some (m.clock + 10000000000)⟩ := by
  simp [Mod.linkFailed]
theorem Mod.linkFailed_service : (m.linkFailed n).service = m.service := by simp [Mod.linkFailed]
theorem Mod.linkFailed_inService : (m.linkFailed n).inService = m.inService := by simp only [Mod.inService, Mod.linkFailed_service]

theorem Mod.linkFailed_place (x : Lane) : ((m.linkFailed n).lane x).place = (m.lane x).place := by
  have hraise (l : LaneSt) : (l.grnRaise irqGrnLINK).place = l.place := rfl
  have herror (l : LaneSt) : (l.grnError 2 3).place = l.place := rfl
  rw [Mod.linkFailed, Mod.lane_put, Mod.grnAll_lane, hraise, Mod.modLane_place _ _ x _ herror, Mod.modLane_place _ _ x _ herror]
  rfl

theorem Mod.linkFailed_leaving (x : Lane) : ((m.linkFailed n).lane x).leaving = (m.lane x).leaving :=
  congrArg Prod.snd (m.linkFailed_place n x)

theorem Mod.linkFailed_voters : (m.linkFailed n).voters = m.voters :=
  Mod.voters_congr fun x => congrArg Prod.fst (m.linkFailed_place n x)

variable (hst : (m.links.get n).st ≠ 3)
include hst

/-- What follows a new failure: a second one, or one between the two voting lanes, holds the module; in FULL the later end is to leave. -/
theorem Mod.linkFault_new :
    m.linkFault n =
      if m.inService = false then m.linkFailed n
      else if 2 ≤ m.links.failed + 1 ∨ (m.voters.length < 3 ∧ m.voters.contains n.ends.1 = true ∧ m.voters.contains n.ends.2.1 = true) then
        (m.linkFailed n).enterHeld 6
      else if m.voters.length = 3 then (m.linkFailed n).modLane n.ends.2.1 fun l => l.leave exLINK
      else m.linkFailed n := by
  rw [← m.links.failed_set n (some (m.clock + 10000000000)) hst, ← m.linkFailed_links n, ← m.linkFailed_voters n,
    ← m.linkFailed_inService n]
  exact if_neg hst

/-- The first failure in FULL: the later end of the link is to leave (R161). -/
theorem Mod.linkFault_full (hs : m.service = .full) (hv : m.voters.length = 3) (hf : m.links.failed = 0) :
    m.linkFault n = (m.linkFailed n).modLane n.ends.2.1 fun l => l.leave exLINK := by
  have hin : m.inService = true := by simp [Mod.inService, hs]
  simp [m.linkFault_new n hst, hin, hv, hf]

/-- A second failure holds the module with cause 6 (R161, R501). -/
theorem Mod.linkFault_second (hs : m.inService = true) (hf : m.links.failed = 1) : m.linkFault n = (m.linkFailed n).enterHeld 6 := by
  simp [m.linkFault_new n hst, hs, hf]
end

/-! ### A retrain (R161) -/

section
variable (m : Mod) (n : LinkName) {w : Nat} (hst : (m.links.get n).st = 3) (hw : (m.links.get n).retrainAt = some w) (ht : w ≤ m.clock)
include hst hw ht

theorem Mod.linkRetrain_due (ok : Bool) :
    m.linkRetrain n ok =
      if ok then (({ m with links := m.links.set n ⟨2, none⟩ } : Mod).grnAll irqGrnLINK).put (linkEvt m.src n 2)
      else { m with links := m.links.set n ⟨3, some (m.clock + 10000000000)⟩ } := by
  unfold Mod.linkRetrain
  simp only [hw]
  exact if_neg (by omega)
end

/-! ### The commands -/

theorem exec_garnetCrcFail (x : Lane) (n : LinkName) (again : Bool) (t : Nat) (s : State) :
    exec (.garnetCrcFail x n again t) s = s.at t fun m => m.garnetCrc x n again := rfl
theorem exec_garnetLinkFault (n : LinkName) (t : Nat) (s : State) :
    exec (.garnetLinkFault n t) s = s.at t fun m => m.linkFault n := rfl
theorem exec_garnetLinkRetrain (n : LinkName) (ok : Bool) (t : Nat) (s : State) :
    exec (.garnetLinkRetrain n ok t) s = s.at t fun m => m.linkRetrain n ok := rfl

/-- Settles O15: a new failure is noted in the table and at both ends before its consequences, and a retrain changes that link only. -/
theorem garnetLinksFailAndRetrain : Obligations.GarnetLinksFailAndRetrain := by
  unfold Obligations.GarnetLinksFailAndRetrain
  intro s x n t m0
  refine ⟨fun hst => Completes.of_at (exec_garnetCrcFail x n false t s) ?_, fun hst => ?_,
    fun hst hs hv hf => Completes.of_at (exec_garnetLinkFault n t s) ?_,
    fun hst hs hf => Completes.of_at (exec_garnetLinkFault n t s) ?_,
    fun w hst hw ht => ⟨Completes.of_at (exec_garnetLinkRetrain n true t s) ?_, ?_⟩⟩
  · have hfirst : m0.garnetCrc x n false = _ := m0.garnetCrc_first x n hst
    rw [hfirst, Mod.lane_modLane_self]
    exact ⟨rfl, rfl, rfl, fun y hy => m0.lane_modLane_ne x y _ hy⟩
  · have hagain : m0.garnetCrc x n true = m0.linkFault n := m0.garnetCrc_again x n hst
    rw [exec_garnetCrcFail, exec_garnetLinkFault, State.at_next, State.at_next]
    exact congrArg (fun m => Host.Outcome.next (State.mk s.pending m)) hagain
  · have hfault : m0.linkFault n = _ := m0.linkFault_full n hst hs hv hf
    obtain ⟨hout, hothers, hservice⟩ := (m0.linkFailed n).modLane_leave_sendsAway n.ends.2.1 exLINK
    rw [hfault]
    refine ⟨GLinks.get_set_self _ _ _, hservice.trans hs, hout, fun h => ?_⟩
    rw [hothers _ n.ends_ne, Mod.linkFailed_leaving]
    exact h
  · have hfault : m0.linkFault n = (m0.linkFailed n).enterHeld 6 := m0.linkFault_second n hst hs hf
    have hin : (m0.linkFailed n).inService = true := hs
    rw [hfault]
    exact ⟨Mod.enterHeld_service _ 6, ((m0.linkFailed n).enterHeld_first 6 (Mod.inService_ne_held _ hin)).2.1⟩
  · have hup : m0.linkRetrain n true = _ := m0.linkRetrain_due n hst hw (Nat.le_trans ht (Nat.le_max_right _ _)) true
    rw [hup]
    exact ⟨GLinks.get_set_self _ _ _, rfl⟩
  · have hagain : m0.linkRetrain n false = _ := m0.linkRetrain_due n hst hw (Nat.le_trans ht (Nat.le_max_right _ _)) false
    rw [exec_garnetLinkRetrain, State.at_next]
    exact congrArg (fun m => Host.Outcome.next (State.mk s.pending m)) hagain

end Sys2Proof.Machine
end

