-- ==== Sys2Proof/Proofs/Rotations.lean ====
section
/-!
SUPPORT and the settled statement on the steps of a rotation: a swap that falls due keeps a rotation from starting
(06_lanes_and_voting.md R176; 11_module_pair.md R351).
-/
namespace Sys2Proof.Machine

section
variable (m : Mod) (x : Lane)

/-- No rotation starts while a planned swap is due within 60 s (R176). -/
theorem Mod.rotReady_of_swapDue (h : m.swapDue = true) : m.rotReady = false := by
  simp [Mod.rotReady, h]

/-- An attempt whose start conditions do not hold starts no rotation. -/
theorem Mod.tryRotation_of_not_ready (h : m.rotReady = false) : (m.tryRotation x).rotation = m.rotation := by
  unfold Mod.tryRotation
  simp only [h, Bool.false_and, Bool.false_eq_true, if_false]
  split <;> rfl

/-- A lane that falls due while a planned swap is due starts no rotation: a lane's books are no part of the start conditions. -/
theorem Mod.rotationDue_of_swapDue (h : m.swapDue = true) : (m.rotationDue x).rotation = m.rotation := by
  have hbooks (b : PerLane RotBook) : ({ m with books := b } : Mod).rotReady = false := m.rotReady_of_swapDue h
  unfold Mod.rotationDue
  extract_lets b early m1
  split
  · split
    · exact m.tryRotation_of_not_ready x (m.rotReady_of_swapDue h)
    · rfl
  · split
    · rfl
    split
    · exact m1.tryRotation_of_not_ready x (hbooks _)
    · rfl
end

theorem exec_rotationDue (x : Lane) (t : Nat) (s : State) : exec (.rotationDue x t) s = s.at t fun m => m.rotationDue x := rfl

/-! ### A swap that falls due between two commands (R351) -/

/-- An ACTIVE module in FULL at instant 0, its partner hot and AUTOSWAP at its default: the swap is due on the seventh day. -/
def dayOfSwap : Mod :=
  { Mod.reset with
    service := .full, role := roleACTIVE, pair := { Pair.reset with partnerHot := true }
    lanes := PerLane.const { LaneSt.reset with voting := true } }

/-- ROT_BASE + 4 h on the first day on which 6 days have passed, in ns. -/
def swapInstant : Nat := 540000000000000

theorem dayOfSwap_rotReady : dayOfSwap.rotReady = true := by decide
theorem dayOfSwap_swapDue : (dayOfSwap.advance swapInstant).swapDue = true := by decide

/-- Refutes O16: the start conditions are asked of the module before the clock goes to the command's instant. In `dayOfSwap` they hold,
and at `swapInstant` a planned swap is due, so lane A falls due and no rotation starts. -/
theorem not_rotationStepsFollowTheTable : ¬ Obligations.RotationStepsFollowTheTable := by
  unfold Obligations.RotationStepsFollowTheTable
  intro h
  obtain ⟨hstart, -⟩ := h ⟨[], dayOfSwap⟩ .a swapInstant
  obtain ⟨u, hu, -, hrot, -⟩ := hstart dayOfSwap_rotReady rfl rfl rfl rfl
  rw [exec_rotationDue, State.at_next, Host.Outcome.next.injEq] at hu
  subst hu
  have hnone : ((dayOfSwap.advance swapInstant).rotationDue .a).rotation = none :=
    Mod.rotationDue_of_swapDue _ .a dayOfSwap_swapDue
  rw [hnone] at hrot
  cases hrot

end Sys2Proof.Machine
end

