-- ==== Sys2Proof/Proofs/StateCopy.lean ====
section
/-!
SUPPORT and the settled statement on the state copy: where a copy starts, and what the joining lane holds at the first boundary after the
walk (06_lanes_and_voting.md R178, R179).
-/
namespace Sys2Proof.Machine

/-! ### The start of a copy (R178) -/

theorem Mod.rotStep_of_none (m : Mod) (x : Lane) (from' to' : RotStep) (h : m.rotation = none) : m.rotStep x from' to' = m := by
  simp [Mod.rotStep, h]

/-- Outside a rotation the copy is an extended one, from the earlier voting lane. -/
theorem Mod.startCopy_of_joinable (m : Mod) (x y : Lane) (hs : m.inService = true) (hc : m.copy = none) (hj : m.joinable x = true)
    (hr : m.rotation = none) (hv : m.voters.head? = some y) :
    m.startCopy x = { m with copy := some ⟨y, x, m.clock, true, false, 1, 0, true⟩ } := by
  simp [Mod.startCopy, hs, hc, hj, hv, m.rotStep_of_none x _ _ hr, hr]

/-! ### The first boundary after the walk (R178, R179) -/

section
variable (m : Mod) (x : Lane) (from' to' : RotStep)

/-- A step of a rotation moves the rotation only. -/
theorem Mod.rotStep_only : m.rotStep x from' to' = { m with rotation := (m.rotStep x from' to').rotation } := by
  unfold Mod.rotStep
  repeat' split
  all_goals rfl

theorem Mod.rotStep_lane (y : Lane) : (m.rotStep x from' to').lane y = m.lane y :=
  (congrArg (Mod.lane · y) (m.rotStep_only x from' to') :)
theorem Mod.rotStep_service : (m.rotStep x from' to').service = m.service := (congrArg Mod.service (m.rotStep_only x from' to') :)
end

section
variable (m : Mod) (c : Copy)

/-- The joining lane once its copy set is the source's: it runs in shadow, compared, under the source's clock offset. -/
def Mod.joined : LaneSt :=
  let s := m.lane c.src
  let d := (m.lane c.dst).copyFrom s (c.extended || decide ((m.lane c.dst).img ≠ s.img))
  ({ d with
      shadow := true, silent := false, comparator := true
      opal := { d.opal.bringUp m.phcfg m.clock m.now with offset := s.opal.offset }
      grn := { d.grn with ctrl := d.grn.ctrl ||| 3#32 } } : LaneSt).grnRaise irqGrnCOPYDONE

/-- The module with the joining lane equal to the source, both of them told. -/
def Mod.equalised : Mod := (m.modLane c.src fun l => l.grnRaise irqGrnCOPYDONE).setLane c.dst (m.joined c)

/-- The joining lane holds what the source held, runs in shadow, and votes no more than before. -/
theorem Mod.joined_equal :
    (m.joined c).shadow = true ∧ (m.joined c).tcm = (m.lane c.src).tcm ∧ (m.joined c).beryl.el = (m.lane c.src).beryl.el ∧
      (m.joined c).beryl.rt = (m.lane c.src).beryl.rt ∧ (m.joined c).beryl.ws = (m.lane c.src).beryl.ws ∧
      (m.joined c).rings = (m.lane c.src).rings ∧ (m.joined c).kst = (m.lane c.src).kst ∧
      (m.joined c).rt.forces = (m.lane c.src).rt.forces ∧ (m.joined c).voting = (m.lane c.dst).voting :=
  ⟨rfl, rfl, rfl, rfl, rfl, rfl, rfl, rfl, rfl⟩

theorem Mod.equalised_dst : (m.equalised c).lane c.dst = m.joined c := Mod.lane_setLane_self _ c.dst _

/-- The source is told, and keeps its state. -/
theorem Mod.equalised_src (hne : c.src ≠ c.dst) : (m.equalised c).lane c.src = (m.lane c.src).grnRaise irqGrnCOPYDONE := by
  rw [Mod.equalised, Mod.lane_setLane_ne _ c.dst c.src _ hne, Mod.lane_modLane_self]

theorem Mod.copyEqual_due (hc : m.copy = some c) (he : c.equal = false) (hp : m.ph = .idle) (hs : m.inService = true) :
    m.copyEqual =
      { (m.equalised c).rotStep c.dst .copying .shadow with copy := some { c with equal := true, passes := 0 } } := by
  unfold Mod.copyEqual
  simp only [hc]
  exact if_neg (by simp [he, hp, hs])
end

/-! ### The commands -/

theorem exec_stateCopyStart (x : Lane) (t : Nat) (s : State) : exec (.stateCopyStart x t) s = s.at t fun m => m.startCopy x := rfl
theorem exec_stateCopyEqual (t : Nat) (s : State) : exec (.stateCopyEqual t) s = s.at t fun m => m.copyEqual := rfl

/-- Settles O17: the boundary puts the source's copy set into the joining lane, and tells the source of it. -/
theorem stateCopyMakesTheLanesEqual : Obligations.StateCopyMakesTheLanesEqual := by
  unfold Obligations.StateCopyMakesTheLanesEqual
  intro s x y t m0
  refine ⟨fun hs hc hj hr hv => ?_, fun c hc he hp hs hne => Completes.of_at (exec_stateCopyEqual t s) ?_⟩
  · have hstart : m0.startCopy x = _ := m0.startCopy_of_joinable x y hs hc hj hr hv
    rw [exec_stateCopyStart, State.at_next]
    exact congrArg (fun m => Host.Outcome.next (State.mk s.pending m)) hstart
  · have hequal : m0.copyEqual = _ := m0.copyEqual_due c hc he hp hs
    have hlane (z : Lane) : m0.copyEqual.lane z = (m0.equalised c).lane z := by
      rw [hequal]
      exact Mod.rotStep_lane _ c.dst .copying .shadow z
    have hsrc : (m0.copyEqual.lane c.src).tcm = (m0.lane c.src).tcm := by rw [hlane, m0.equalised_src c hne]; rfl
    have hservice : m0.copyEqual.service = m0.service := by
      rw [hequal]
      exact Mod.rotStep_service (m0.equalised c) c.dst .copying .shadow
    have hdst : m0.copyEqual.lane c.dst = m0.joined c := (hlane c.dst).trans (m0.equalised_dst c)
    obtain ⟨hshadow, htcm, hel, hrt, hws, hrings, hkst, hforces, hvoting⟩ := m0.joined_equal c
    rw [hdst]
    exact ⟨by rw [hequal], hshadow, htcm, hel, hrt, hws, hrings, hkst, hforces, hvoting, hsrc, hservice⟩

end Sys2Proof.Machine
end

