-- ==== Sys2Proof/Proofs/Divergence.lean ====
section
/-!
SUPPORT and the settled statement on lanes that diverge: what the comparison of a digest block and the read-back of the gates make of the
lanes' values (06_lanes_and_voting.md R174, R183).
-/
namespace Sys2Proof.Machine

/-! ### One digest block of three lanes (R183) -/

section
variable (m : Mod) (k : Nat)

/-- Lane `w` is to leave for its value of block `k`, recorded by the earlier of the other two. -/
def Mod.divergent (w : Lane) : Mod :=
  ((m.modLane w fun l => l.leave exDIVERGENT).put (divEvt ((m.voters.filter (· ≠ w)).head?.getD w).idx w k)).grnAll irqGrnMINOR

theorem Mod.divergent_sendsAway (w : Lane) : m.SendsAway w (m.divergent k w) := by
  obtain ⟨hout, hothers, hservice⟩ := m.modLane_leave_sendsAway w exDIVERGENT
  have hraise (l : LaneSt) : (l.grnRaise irqGrnMINOR).leaving = l.leaving := rfl
  have hlane (y : Lane) : ((m.divergent k w).lane y).leaving = ((m.modLane w fun l => l.leave exDIVERGENT).lane y).leaving := by
    rw [Mod.divergent, Mod.grnAll_lane, hraise, Mod.lane_put]
  exact ⟨by rwa [hlane], fun y hy => by rw [hlane, hothers y hy], by rw [Mod.divergent, Mod.grnAll_service, Mod.put_service, hservice]⟩

theorem Mod.digOne_three {x y z : Lane} {a b c : Nat} (h : m.digVals k = [(x, a), (y, b), (z, c)]) :
    m.digOne k =
      if a = b then (if b = c then m else m.divergent k z)
      else if a = c then m.divergent k y
      else if b = c then m.divergent k x
      else m.enterHeld 7 := by
  unfold Mod.digOne
  rw [h]
  rfl

/-! ### The slices of a tail (R182, R183) -/

/-- The module with the compared values gone. -/
def Mod.sdgCleared : Mod := { m with lanes := m.lanes.map fun l => { l with sdg := [] } }

theorem Mod.sdgCleared_lane (x : Lane) : m.sdgCleared.lane x = { m.lane x with sdg := [] } := PerLane.get_map m.lanes _ x

section
variable {va vb vc : Nat} (hp : m.present = [.a, .b, .c]) (ha : (m.lane .a).sdg = [(k, va)]) (hb : (m.lane .b).sdg = [(k, vb)])
  (hc : (m.lane .c).sdg = [(k, vc)])
include hp ha

theorem Mod.digCompare_one (hs : m.inService = true) : m.digCompare = (m.digOne k).sdgCleared := by
  unfold Mod.digCompare
  rw [if_neg (by simp [hs]), hp]
  simp only [ha]
  rfl

include hb hc

theorem Mod.digVals_three : m.digVals k = [(.a, va), (.b, vb), (.c, vc)] := by
  simp [Mod.digVals, hp, ha, hb, hc]
end
end

/-! ### The read-back of the gates (R174) -/

/-- What a lane drives as far as itself goes: the lane's part of the gates' live inputs. -/
def LaneSt.drives (l : LaneSt) : Bool := l.powered && l.released && !l.stopped && l.voting && !l.silent

theorem PerLane.map_set {α β : Type} (p : PerLane α) (f : α → β) (x : Lane) (v : α) (h : f v = f (p.get x)) :
    (p.set x v).map f = p.map f := by
  cases x <;> simp_all [PerLane.set, PerLane.map, PerLane.get]

theorem LaneSt.leave_drives (l : LaneSt) (c : Nat) : (l.leave c).drives = l.drives := by
  unfold LaneSt.leave
  split <;> rfl
theorem LaneSt.leave_voting (l : LaneSt) (c : Nat) : (l.leave c).voting = l.voting := by
  unfold LaneSt.leave
  split <;> rfl

section
variable (m : Mod) (x : Lane)

/-- What the judgement of a lane's gate inputs rests on: the local I/O, which gate inputs can be live, and which lanes count. -/
def Mod.gateView : Lio × PerLane Bool × PerLane Bool := (m.lio, m.can, m.lanes.map LaneSt.voting)

/-- What the judgement of a lane changes: its streak, and for what cause it is to leave. -/
def Mod.gateEntry : Nat × Option Nat := (m.gateStreak.get x, (m.lane x).leaving)

/-- The streak of a lane after a read-back: one more where its gate inputs differ from the other two, else none (R174). -/
def Mod.nextStreak : Nat := if (m.lane x).voting = true ∧ m.lio.gateMinority m.can x = true then m.gateStreak.get x + 1 else 0

theorem Mod.nextStreak_congr {m m' : Mod} {x : Lane} (hv : m'.gateView = m.gateView) (he : m'.gateEntry x = m.gateEntry x) :
    m'.nextStreak x = m.nextStreak x := by
  simp only [Mod.gateView, Mod.gateEntry, Prod.mk.injEq] at hv he
  obtain ⟨hlio, hcan, hvoting⟩ := hv
  have hvoting : (m'.lane x).voting = (m.lane x).voting := by
    simpa [Mod.lane] using congrArg (PerLane.get · x) hvoting
  simp only [Mod.nextStreak, hlio, hcan, hvoting, he.1]

theorem Mod.can_eq_drives : m.can = m.lanes.map fun l => l.drives && m.inService := rfl

theorem Mod.modLane_leave_gateView (c : Nat) : (m.modLane x fun l => l.leave c).gateView = m.gateView := by
  have hcan : (m.modLane x fun l => l.leave c).can = m.can := by
    rw [Mod.can_eq_drives, Mod.can_eq_drives]
    exact PerLane.map_set m.lanes _ x _ (congrArg (· && m.inService) ((m.lane x).leave_drives c))
  have hvoting : (m.modLane x fun l => l.leave c).lanes.map LaneSt.voting = m.lanes.map LaneSt.voting :=
    PerLane.map_set m.lanes _ x _ ((m.lane x).leave_voting c)
  rw [Mod.gateView, Mod.gateView, hcan, hvoting, Mod.modLane_lio]

theorem Mod.grnAll_gateView (w : Word32) : (m.grnAll w).gateView = m.gateView := rfl
theorem Mod.grnAll_gateEntry (w : Word32) : (m.grnAll w).gateEntry x = m.gateEntry x :=
  (congrArg (fun l => (m.gateStreak.get x, l.leaving)) (m.grnAll_lane w x) :)

/-- The lane takes its streak, and is to leave with the third difference in a row. -/
theorem Mod.gateCount_eq :
    m.gateCount x =
      if m.nextStreak x < 3 then { m with gateStreak := m.gateStreak.set x (m.nextStreak x) }
      else (({ m with gateStreak := m.gateStreak.set x (m.nextStreak x) } : Mod).modLane x fun l => l.leave exGATE).grnAll irqGrnMINOR := by
  unfold Mod.gateCount Mod.nextStreak
  cases hv : (m.lane x).voting <;> cases hg : m.lio.gateMinority m.can x <;> simp

/-- The judgement of one lane leaves what the next one rests on. -/
theorem Mod.gateCount_gateView : (m.gateCount x).gateView = m.gateView := by
  rw [Mod.gateCount_eq]
  split
  · rfl
  · rw [Mod.grnAll_gateView, Mod.modLane_leave_gateView]
    rfl

theorem Mod.gateCount_gateEntry_ne (y : Lane) (hy : y ≠ x) : (m.gateCount x).gateEntry y = m.gateEntry y := by
  have hstreak := PerLane.get_set_ne m.gateStreak x y (m.nextStreak x) hy
  rw [Mod.gateCount_eq]
  split
  · simp only [Mod.gateEntry, hstreak]
    rfl
  · rw [Mod.grnAll_gateEntry]
    simp only [Mod.gateEntry, Mod.modLane_gateStreak, hstreak, Mod.lane_modLane_ne _ x y _ hy]
    rfl

/-- From `m` to `m'` lane `x` is judged: it has its next streak, and is to leave if that is the third. -/
def Mod.Judged (m m' : Mod) (x : Lane) : Prop :=
  m'.gateStreak.get x = m.nextStreak x ∧ (3 ≤ m'.gateStreak.get x → (m'.lane x).leaving.isSome = true)

theorem Mod.Judged.of_entry {m n n' : Mod} {x : Lane} (h : m.Judged n x) (he : n'.gateEntry x = n.gateEntry x) : m.Judged n' x := by
  simp only [Mod.gateEntry, Prod.mk.injEq] at he
  obtain ⟨hstreak, hleaving⟩ := he
  unfold Mod.Judged
  rwa [hstreak, hleaving]

theorem Mod.gateCount_judged : m.Judged (m.gateCount x) x := by
  rw [Mod.gateCount_eq]
  split
  case isTrue h =>
    simp only [Mod.Judged, PerLane.get_set_self, true_and]
    exact fun hge => absurd h (Nat.not_lt.mpr hge)
  case isFalse =>
    generalize hm : ({ m with gateStreak := m.gateStreak.set x (m.nextStreak x) } : Mod) = n
    have hn : n.gateStreak.get x = m.nextStreak x := by rw [← hm, PerLane.get_set_self]
    have hleave : m.Judged (n.modLane x fun l => l.leave exGATE) x :=
      ⟨hn, fun _ => by rw [Mod.lane_modLane_self, LaneSt.leave_isSome]⟩
    exact hleave.of_entry (Mod.grnAll_gateEntry _ x _)

theorem Mod.foldl_gateCount_gateEntry (xs : List Lane) (hx : x ∉ xs) : (xs.foldl Mod.gateCount m).gateEntry x = m.gateEntry x := by
  induction xs generalizing m with
  | nil => rfl
  | cons y ys ih =>
    obtain ⟨hne, hys⟩ := List.ne_and_not_mem_of_not_mem_cons hx
    rw [List.foldl_cons, ih _ hys, m.gateCount_gateEntry_ne y x hne]

/-- Each lane is judged once, by what the read-back left. -/
theorem Mod.foldl_gateCount_judged (xs : List Lane) (hd : xs.Nodup) (hx : x ∈ xs) : m.Judged (xs.foldl Mod.gateCount m) x := by
  induction xs generalizing m with
  | nil => cases hx
  | cons y ys ih =>
    obtain ⟨hy, hys⟩ := List.nodup_cons.mp hd
    rw [List.foldl_cons]
    by_cases hxy : x = y
    · subst hxy
      exact (m.gateCount_judged x).of_entry (Mod.foldl_gateCount_gateEntry _ x ys hy)
    · have hrest := ih (m.gateCount y) hys ((List.mem_cons.mp hx).resolve_left hxy)
      rwa [Mod.Judged, Mod.nextStreak_congr (m.gateCount_gateView y) (m.gateCount_gateEntry_ne y x hxy)] at hrest

/-- The module as the read-back leaves it, before the lanes are judged. -/
def Mod.readBack (bad : List Nat) : Mod :=
  ({ m with lio := (m.lio.readback m.can m.clock bad).1 } : Mod).puts (m.lio.readback m.can m.clock bad).2

theorem Mod.gateReadback_full (bad : List Nat) (h : m.full = true) :
    m.gateReadback bad = Lane.all.foldl Mod.gateCount (m.readBack bad) :=
  if_neg (by simp [h])

theorem Mod.readBack_nextStreak (bad : List Nat) :
    (m.readBack bad).nextStreak x =
      if (m.lane x).voting = true ∧ (m.lio.readback m.can m.clock bad).1.gateMinority m.can x = true then m.gateStreak.get x + 1 else 0 := by
  rw [Mod.readBack, Mod.puts_amber_only]
  rfl
end

/-! ### The commands -/

theorem exec_digestSliceCompare (t : Nat) (s : State) : exec (.digestSliceCompare t) s = s.at t fun m => m.digCompare := rfl
theorem exec_gateReadback (bad : List Nat) (t : Nat) (s : State) :
    exec (.gateReadback bad t) s = s.at t fun m => m.gateReadback bad := rfl

/-- What becomes of three lanes that digested one block to `va`, `vb` and `vc`. -/
theorem Mod.digCompare_three (m : Mod) {k va vb vc : Nat} (hs : m.inService = true) (hp : m.present = [.a, .b, .c])
    (ha : (m.lane .a).sdg = [(k, va)]) (hb : (m.lane .b).sdg = [(k, vb)]) (hc : (m.lane .c).sdg = [(k, vc)]) :
    m.digCompare =
      (if va = vb then (if vb = vc then m else m.divergent k .c)
        else if va = vc then m.divergent k .b
        else if vb = vc then m.divergent k .a
        else m.enterHeld 7).sdgCleared := by
  rw [m.digCompare_one k hp ha hs, m.digOne_three k (m.digVals_three k hp ha hb hc)]

/-- Clearing the values touches neither who is to leave nor the service state. -/
theorem Mod.SendsAway.cleared {m m' : Mod} {x : Lane} (h : m.SendsAway x m') : m.SendsAway x m'.sdgCleared := by
  obtain ⟨hout, hothers, hservice⟩ := h
  exact ⟨by rw [Mod.sdgCleared_lane]; exact hout, fun y hy => by rw [Mod.sdgCleared_lane]; exact hothers y hy, hservice⟩

/-- Settles O18: a block of three lanes has one of five outcomes, and each lane's gate inputs are judged once by the same read-back. -/
theorem divergentLanesLeave : Obligations.DivergentLanesLeave := by
  unfold Obligations.DivergentLanesLeave
  intro s t k va vb vc
  let m0 := s.m.advance t
  refine ⟨fun hs hp ha hb hc => Completes.of_at (exec_digestSliceCompare t s) ?_,
    fun bad hfull => Completes.of_at (exec_gateReadback bad t s) fun x => ?_⟩
  · have hcompare : m0.digCompare = _ := m0.digCompare_three hs hp ha hb hc
    rw [hcompare]
    refine ⟨fun x => by rw [Mod.sdgCleared_lane], fun hab hbc => ?_, fun hab hbc => ?_, fun hac hab => ?_, fun hbc hab => ?_,
      fun hab hac hbc => ?_⟩
    · rw [if_pos hab, if_pos hbc]
      exact ⟨rfl, rfl, rfl⟩
    · rw [if_pos hab, if_neg hbc]
      obtain ⟨hout, hothers, hservice⟩ := (m0.divergent_sendsAway k .c).cleared
      exact ⟨hout, hothers .a (by decide), hservice⟩
    · rw [if_neg hab, if_pos hac]
      obtain ⟨hout, hothers, hservice⟩ := (m0.divergent_sendsAway k .b).cleared
      exact ⟨hout, hothers .a (by decide), hservice⟩
    · rw [if_neg hab, if_neg (by omega), if_pos hbc]
      obtain ⟨hout, hothers, hservice⟩ := (m0.divergent_sendsAway k .a).cleared
      exact ⟨hout, hothers .b (by decide), hservice⟩
    · rw [if_neg hab, if_neg hac, if_neg hbc]
      exact ⟨m0.enterHeld_service 7, (m0.enterHeld_first 7 (m0.inService_ne_held hs)).2.1⟩
  · have hread : m0.gateReadback bad = _ := m0.gateReadback_full bad hfull
    have hjudged := (m0.readBack bad).foldl_gateCount_judged x Lane.all (by decide) (Lane.mem_all x)
    rw [Mod.Judged, m0.readBack_nextStreak x bad, ← hread] at hjudged
    exact hjudged

end Sys2Proof.Machine
end

