-- ==== Sys2Proof/Proofs/PhaseCrossing.lean ====
section
/-!
SUPPORT and the settled statement on the phase count: the stages of the evaluation at a zero crossing, what each of them does to Φ, and how
Φ starts (08_phase_and_time.md R243, R244, R245, R247).
-/
namespace Sys2Proof.Machine

/-! ### The anchors of Φ (R244) -/

theorem Phi.at_instant (p : Phi) : p.at p.instant = p.base := by simp [Phi.at]
@[simp] theorem Phi.synthetic_at (freq base t : Nat) : (Phi.synthetic freq base t).at t = base := Phi.at_instant _
@[simp] theorem Phi.measured_at (mhz base t : Nat) (corr : Int) : (Phi.measured mhz base t corr).at t = base := Phi.at_instant _

/-! ### What stands without a step -/

/-- Φ at `t`, which only a step changes, and the windows in force and the configuration, which no crossing changes. -/
def Opal.held (t : Nat) (o : Opal) : Nat × OpalWin × Word32 := (o.phiAt t, o.active, o.cfg)

theorem Opal.held_inj {t : Nat} {o o' : Opal} (h : o'.held t = o.held t) : o'.phiAt t = o.phiAt t ∧ o'.active = o.active ∧ o'.cfg = o.cfg := by
  simpa only [Opal.held, Prod.mk.injEq] using h

section
variable (o : Opal) (t : Nat)

theorem Opal.toSynthetic_held : (o.toSynthetic t).held t = o.held t :=
  Prod.ext (Phi.synthetic_at o.freqSel (o.phiAt t) t) rfl

theorem Opal.measured_held {p : Nat} (mhz : Nat) (corr : Int) (h : p = o.phiAt t) :
    ({ o with phi := Phi.measured mhz p t corr } : Opal).held t = o.held t :=
  Prod.ext ((Phi.measured_at mhz p t corr).trans h) rfl

theorem Opal.raise_irq_self (w : Word32) : (o.raise w).irq &&& w = w := by
  change (o.irq ||| w) &&& w = w
  ext i
  simp +contextual

theorem Opal.raise_irq_of {v : Word32} (w : Word32) (h : o.irq &&& v = v) : (o.raise w).irq &&& v = v := by
  change (o.irq ||| w) &&& v = v
  rw [BitVec.and_comm, BitVec.and_or_distrib_left, BitVec.and_comm v o.irq, h]
  ext i
  simp +contextual
end

/-! ### Steps (R247) -/

/-- From `o`, Φ at `t` goes to what `r` holds: it stands, or takes the reported step of less than a cycle into the locked mode. -/
def Opal.Moves (t : Nat) (o : Opal) (r : Opal × Option Nat) : Prop :=
  r.1.held t = (o.phiAt t + r.2.getD 0, o.active, o.cfg) ∧ r.2.getD 0 < 1024 ∧ (r.2.isSome = true → r.1.mode = 0)

section
variable {t : Nat} {o o' : Opal}

theorem Opal.Moves.stay (h : o'.held t = o.held t) : o.Moves t (o', none) := ⟨h, Nat.zero_lt_succ 1023, nofun⟩

theorem Opal.Moves.congr {r : Opal × Option Nat} (hm : o'.Moves t r) (h : o'.held t = o.held t) : o.Moves t r := by
  obtain ⟨hphi, hactive, hcfg⟩ := Opal.held_inj h
  rwa [Opal.Moves, hphi, hactive, hcfg] at hm

/-- The forward step of `o`, as the evaluation answers it. -/
def Opal.stepped (o : Opal) (t tick mhz : Nat) : Opal × Option Nat := ((o.stepForward t tick mhz).1, some (o.stepForward t tick mhz).2)

theorem Opal.stepped_held (tick mhz : Nat) :
    (o.stepped t tick mhz).1.held t = (o.phiAt t + (o.stepForward t tick mhz).2, o.active, o.cfg) :=
  Prod.ext (Phi.measured_at mhz _ t 0) rfl

theorem Opal.Moves.stepped (tick mhz : Nat) : o.Moves t (o.stepped t tick mhz) :=
  ⟨Opal.stepped_held tick mhz, Nat.mod_lt _ (by decide), fun _ => rfl⟩

/-- The step brings Φ to the measured tick. -/
theorem Opal.stepped_tick (tick mhz : Nat) : (o.stepped t tick mhz).1.phiAt t % 1024 = tick % 1024 := by
  have hphi : (o.stepped t tick mhz).1.phiAt t = o.phiAt t + (tick % 1024 + 1024 - o.phiAt t % 1024) % 1024 :=
    congrArg Prod.fst (Opal.stepped_held tick mhz)
  omega
end

/-! ### The stages of an evaluation -/

section
variable (o : Opal) (t p amp1 mhz1 ph1 amp2 mhz2 ph2 : Nat)

/-- PHS2 after subtraction of PH2OFF. -/
def Opal.phase2 : Nat := (ph2 + 1024 - o.ph2off % 1024) % 1024
/-- PHS1 as it stands after the cycle (R243). -/
def Opal.judged1 : SenseIn :=
  o.in1.cycle (o.inmask.testBit 0) (decide (amp1 ≥ 30) && freqOk o.freqSel mhz1) true amp1 mhz1 (tickDiff ph1 (o.phiAt t))
/-- PHS2 as it stands after the cycle, `in1` being PHS1 (R243). -/
def Opal.judged2 (in1 : SenseIn) : SenseIn :=
  o.in2.cycle (o.inmask.testBit 1) (decide (amp2 ≥ 30) && freqOk o.freqSel mhz2)
    (!in1.valid || decide ((tickDiff (o.phase2 ph2) ph1).natAbs ≤ 16)) amp2 mhz2 (tickDiff (o.phase2 ph2) (o.phiAt t))

/-- The share with its inputs judged; `far` says that they lie more than 16 ticks apart. -/
def Opal.sensed (in1 in2 : SenseIn) (far : Bool) : Opal :=
  let o1 : Opal := { o with in1 := in1, in2 := in2 }
  let o2 := if in1.valid != o.in1.valid || in2.valid != o.in2.valid then o1.raise oplINPUT else o1
  let o3 := if o.in1.valid && !in1.valid then o2.error 0x01 7 else o2
  let o4 := if o.in2.valid && !in2.valid then o3.error 0x02 7 else o3
  { o4 with disagree := if in1.valid && in2.valid && far then o.disagree + 1 else 0 }

/-- PHS1 marked invalid because the inputs disagree: PHS2 is the reference. -/
def Opal.drop1 : Opal := { o with in1 := { o.in1 with valid := false, good := 0 }, ref := 2 }
/-- PHS2 marked invalid because the inputs disagree: PHS1 is the reference. -/
def Opal.drop2 : Opal := { o with in2 := { o.in2 with valid := false, good := 0 }, ref := 1 }

/-- What becomes of inputs that disagree for the fourth cycle, and whether neither is kept; `near1` and `near2` say which lie by Φ. -/
def Opal.reconciled (near1 near2 : Bool) : Opal × Bool :=
  if o.disagree ≥ 4 then
    let oe := ({ o with disagree := 0 } : Opal).error 0x03 7
    if near1 && near2 then ((if oe.ref = 2 then oe.drop1 else oe.drop2), false)
    else if near1 then (oe.drop2, false)
    else if near2 then (oe.drop1, false)
    else ((oe.toSynthetic t).error 0x05 7, true)
  else (o, false)

/-- The reference input by R244: 1 or 2, or 0 where none is valid. -/
def Opal.bestRef : Nat := if o.in1.valid then 1 else if o.in2.valid then 2 else 0

/-- Without a reference the share goes synthetic, or stays so. -/
def Opal.unreferenced : Opal × Option Nat :=
  if o.mode = 1 then ({ o with ref := 0, freqMhz := 0 }, none) else ((o.toSynthetic t).error 0x05 7, none)

/-- The run of cycles in which the reference input, at `tick`, stays within 8 ticks of itself. -/
def Opal.stableRun (ref tick : Nat) : Nat :=
  if ref == o.ref && decide ((tickDiff tick o.flyLast).natAbs ≤ 8) then o.flyStable + 1 else 0
/-- The run of cycles in which the reference input, at `tick`, lies more than 32 ticks from Φ, which is `p`. -/
def Opal.farRun (ref tick : Nat) : Nat :=
  if decide ((tickDiff tick p).natAbs > 32) then (if ref == o.ref then o.jumpRun + 1 else 1) else 0

/-- The flywheel, Φ being `p` and the reference input `ref` at `tick`. -/
def Opal.flywheel (ref tick mhz : Nat) : Opal × Option Nat :=
  let oA : Opal := { o with ref := ref, freqMhz := mhz }
  if !decide ((o.ref = 1 ∧ o.in1.valid) ∨ (o.ref = 2 ∧ o.in2.valid)) then
    ({ oA with mode := 0, jumpRun := 0, flyCycles := 0, flyStable := 0
               phi := Phi.measured mhz p t (max (-4) (min 4 (tickDiff tick p))) }, none)
  else if o.stableRun ref tick ≥ 4 then oA.stepped t tick mhz
  else if o.flyCycles + 1 ≥ 16 then ((oA.toSynthetic t).error 0x05 7, none)
  else ({ oA with flyCycles := o.flyCycles + 1, flyStable := o.stableRun ref tick, flyLast := tick }, none)

/-- The locked mode, Φ being `p` and the reference input `ref` at `tick`: a correction, or the flywheel after a second jump. -/
def Opal.locked (ref tick mhz : Nat) : Opal × Option Nat :=
  let oA : Opal := { o with ref := ref, freqMhz := mhz }
  if decide (o.farRun p ref tick ≥ 2) then
    ((({ oA with mode := 2, jumpRun := 0, flyCycles := 0, flyStable := 0, flyLast := tick, freqMhz := o.freqMhz
                 phi := Phi.measured o.freqMhz p t 0 } : Opal)).error 0x04 7, none)
  else ({ oA with jumpRun := o.farRun p ref tick, phi := Phi.measured mhz p t (max (-4) (min 4 (tickDiff tick p))) }, none)

/-- The share follows the reference input `ref` as its mode says. -/
def Opal.following (ref tick mhz : Nat) : Opal × Option Nat :=
  if o.mode = 1 then ({ o with ref := ref, freqMhz := mhz } : Opal).stepped t tick mhz
  else if o.mode = 2 then o.flywheel t p ref tick mhz
  else o.locked t p ref tick mhz

/-- The phase events of the table of R247, PHS2 being at `ph2` after subtraction of PH2OFF. -/
def Opal.reacted : Opal × Option Nat :=
  if o.bestRef = 0 then o.unreferenced t
  else o.following t p o.bestRef (if o.bestRef = 2 then ph2 else ph1) (if o.bestRef = 2 then mhz2 else mhz1)

/-- A change of mode and a step are reported, `o` being the share before. -/
def Opal.reported (r : Opal × Option Nat) : Opal × PhaseEvent :=
  let o9 := if r.1.mode != o.mode then r.1.raise oplMODE else r.1
  (match r.2 with
    | some _ => o9.raise oplSTEP
    | none => o9, ⟨r.1.mode != o.mode, r.2⟩)

/-- The share once its inputs are judged. -/
def Opal.atCrossing : Opal :=
  let in1 := o.judged1 t amp1 mhz1 ph1
  o.sensed in1 (o.judged2 t ph1 amp2 mhz2 ph2 in1) (decide ((tickDiff (o.phase2 ph2) ph1).natAbs > 16))

/-- The share once its inputs are reconciled. -/
def Opal.atReference : Opal × Bool :=
  (o.atCrossing t amp1 mhz1 ph1 amp2 mhz2 ph2).reconciled t (decide ((tickDiff ph1 (o.phiAt t)).natAbs ≤ 8))
    (decide ((tickDiff (o.phase2 ph2) (o.phiAt t)).natAbs ≤ 8))

/-- The evaluation before its report. -/
def Opal.evaluated : Opal × Option Nat :=
  let q := o.atReference t amp1 mhz1 ph1 amp2 mhz2 ph2
  if q.2 then (q.1, none) else q.1.reacted t (o.phiAt t) mhz1 ph1 mhz2 (o.phase2 ph2)

/-- The model's evaluation, stage by stage. -/
theorem Opal.crossing_eq :
    o.crossing t amp1 mhz1 ph1 amp2 mhz2 ph2 = o.reported (o.evaluated t amp1 mhz1 ph1 amp2 mhz2 ph2) := by
  rfl
end

/-! ### The inputs (R243) -/

/-- An input in use that is valid and passes its first two conditions stays valid. -/
theorem SenseIn.cycle_valid (i : SenseIn) (cond3 : Bool) (amp mhz : Nat) (dev : Int) (h : i.valid = true) :
    (i.cycle true true cond3 amp mhz dev).valid = true := by
  simp [SenseIn.cycle, h]

section
variable (o : Opal) (t amp1 mhz1 ph1 amp2 mhz2 ph2 : Nat) (in1 in2 : SenseIn) (far : Bool)

theorem Opal.judged1_unused (h : o.inmask.testBit 0 = false) : (o.judged1 t amp1 mhz1 ph1).valid = false := by
  rw [Opal.judged1, h]
  rfl

theorem Opal.judged2_unused (h : o.inmask.testBit 1 = false) : (o.judged2 t ph1 amp2 mhz2 ph2 in1).valid = false := by
  rw [Opal.judged2, h]
  rfl

theorem Opal.judged1_kept (hu : o.inmask.testBit 0 = true) (hv : o.in1.valid = true) (ha : 30 ≤ amp1) (hf : freqOk o.freqSel mhz1 = true) :
    (o.judged1 t amp1 mhz1 ph1).valid = true := by
  rw [Opal.judged1, hu, hf, decide_eq_true ha]
  exact o.in1.cycle_valid true amp1 mhz1 _ hv

/-- Judging the inputs changes them, the interrupts, the error capture and the run of disagreement. -/
theorem Opal.sensed_only :
    o.sensed in1 in2 far =
      { o with
        in1 := in1, in2 := in2, irq := (o.sensed in1 in2 far).irq, errcap := (o.sensed in1 in2 far).errcap
        disagree := if in1.valid && in2.valid && far then o.disagree + 1 else 0 } := by
  unfold Opal.sensed
  dsimp only
  split <;> split <;> split <;> rfl

theorem Opal.sensed_held : (o.sensed in1 in2 far).held t = o.held t := by
  rw [Opal.sensed_only]
  rfl

theorem Opal.reconciled_held (near1 near2 : Bool) : (o.reconciled t near1 near2).1.held t = o.held t := by
  unfold Opal.reconciled
  split
  case isFalse => rfl
  case isTrue =>
    have herr : (({ o with disagree := 0 } : Opal).error 0x03 7).held t = o.held t := rfl
    generalize ({ o with disagree := 0 } : Opal).error 0x03 7 = oe at herr
    rw [← herr]
    dsimp only
    split
    · split <;> rfl
    · split
      · rfl
      · split
        · rfl
        · exact oe.toSynthetic_held t

theorem Opal.reconciled_agreeing (near1 near2 : Bool) (h : o.disagree = 0) : o.reconciled t near1 near2 = (o, false) :=
  if_neg (by simp [h])
end

/-! ### The reaction (R247) -/

section
variable {o : Opal} {t p : Nat} (ref tick mhz : Nat)

theorem Opal.unreferenced_moves : o.Moves t (o.unreferenced t) := by
  unfold Opal.unreferenced
  split
  · exact .stay rfl
  · exact .stay (o.toSynthetic_held t)

theorem Opal.flywheel_moves (hp : p = o.phiAt t) : o.Moves t (o.flywheel t p ref tick mhz) := by
  unfold Opal.flywheel
  dsimp only
  split
  · exact .stay (o.measured_held t mhz _ hp)
  · split
    · exact (Opal.Moves.stepped tick mhz).congr rfl
    · split
      · exact .stay (Opal.toSynthetic_held _ t)
      · exact .stay rfl

theorem Opal.locked_moves (hp : p = o.phiAt t) : o.Moves t (o.locked t p ref tick mhz) := by
  unfold Opal.locked
  dsimp only
  split
  · exact .stay (o.measured_held t o.freqMhz 0 hp)
  · exact .stay (o.measured_held t mhz _ hp)

theorem Opal.following_moves (hp : p = o.phiAt t) : o.Moves t (o.following t p ref tick mhz) := by
  unfold Opal.following
  split
  · exact (Opal.Moves.stepped tick mhz).congr rfl
  · split
    · exact Opal.flywheel_moves ref tick mhz hp
    · exact Opal.locked_moves ref tick mhz hp
end

section
variable {o : Opal} {t p : Nat} (mhz1 ph1 mhz2 ph2 : Nat)

theorem Opal.reacted_moves (hp : p = o.phiAt t) : o.Moves t (o.reacted t p mhz1 ph1 mhz2 ph2) := by
  unfold Opal.reacted
  split
  · exact Opal.unreferenced_moves
  · exact Opal.following_moves _ _ _ hp

/-- Without a valid input the share is synthetic. -/
theorem Opal.reacted_without_input (h1 : o.in1.valid = false) (h2 : o.in2.valid = false) :
    (o.reacted t p mhz1 ph1 mhz2 ph2).1.mode = 1 ∧ (o.reacted t p mhz1 ph1 mhz2 ph2).1.ref = 0 := by
  have href : o.bestRef = 0 := by simp [Opal.bestRef, h1, h2]
  rw [Opal.reacted, if_pos href, Opal.unreferenced]
  split
  case isTrue hm => exact ⟨hm, rfl⟩
  case isFalse => exact ⟨rfl, rfl⟩

/-- A synthetic share with PHS1 valid steps to the tick of PHS1. -/
theorem Opal.reacted_first_lock (h1 : o.in1.valid = true) (hm : o.mode = 1) :
    o.reacted t p mhz1 ph1 mhz2 ph2 = ({ o with ref := 1, freqMhz := mhz1 } : Opal).stepped t ph1 mhz1 := by
  have href : o.bestRef = 1 := if_pos h1
  rw [Opal.reacted, href]
  exact if_pos hm
end

/-! ### The evaluation as a whole -/

section
variable (o : Opal) (t amp1 mhz1 ph1 amp2 mhz2 ph2 : Nat)

theorem Opal.atCrossing_held : (o.atCrossing t amp1 mhz1 ph1 amp2 mhz2 ph2).held t = o.held t := o.sensed_held t _ _ _

theorem Opal.atReference_held : (o.atReference t amp1 mhz1 ph1 amp2 mhz2 ph2).1.held t = o.held t :=
  (Opal.reconciled_held _ t _ _).trans (o.atCrossing_held t amp1 mhz1 ph1 amp2 mhz2 ph2)

theorem Opal.evaluated_moves : o.Moves t (o.evaluated t amp1 mhz1 ph1 amp2 mhz2 ph2) := by
  have hheld := o.atReference_held t amp1 mhz1 ph1 amp2 mhz2 ph2
  unfold Opal.evaluated
  dsimp only
  split
  · exact .stay hheld
  · exact (Opal.reacted_moves mhz1 ph1 mhz2 _ (Opal.held_inj hheld).1.symm).congr hheld

/-- With PHS2 out of use nothing disagrees: the share reacts to its inputs as they were judged. -/
theorem Opal.evaluated_without_phs2 (h2 : o.inmask.testBit 1 = false) :
    o.evaluated t amp1 mhz1 ph1 amp2 mhz2 ph2 =
      (o.atCrossing t amp1 mhz1 ph1 amp2 mhz2 ph2).reacted t (o.phiAt t) mhz1 ph1 mhz2 (o.phase2 ph2) := by
  have hagree : (o.atCrossing t amp1 mhz1 ph1 amp2 mhz2 ph2).disagree = 0 := by
    rw [Opal.atCrossing, Opal.sensed_only]
    simp [o.judged2_unused t ph1 amp2 mhz2 ph2 _ h2]
  rw [Opal.evaluated, Opal.atReference, Opal.reconciled_agreeing _ t _ _ hagree]
  rfl

theorem Opal.evaluated_without_inputs (h : o.inmask = 0) :
    (o.evaluated t amp1 mhz1 ph1 amp2 mhz2 ph2).1.mode = 1 ∧ (o.evaluated t amp1 mhz1 ph1 amp2 mhz2 ph2).1.ref = 0 := by
  rw [o.evaluated_without_phs2 t amp1 mhz1 ph1 amp2 mhz2 ph2 (by rw [h]; rfl)]
  apply Opal.reacted_without_input
  · rw [Opal.atCrossing, Opal.sensed_only]
    exact o.judged1_unused t amp1 mhz1 ph1 (by rw [h]; rfl)
  · rw [Opal.atCrossing, Opal.sensed_only]
    exact o.judged2_unused t ph1 amp2 mhz2 ph2 _ (by rw [h]; rfl)

/-- The lock from synthetic on PHS1 alone. -/
theorem Opal.evaluated_first_lock (hi : o.inmask = 1) (hm : o.mode = 1) (hv : o.in1.valid = true) (ha : 30 ≤ amp1)
    (hf : freqOk o.freqSel mhz1 = true) :
    let q := (o.evaluated t amp1 mhz1 ph1 amp2 mhz2 ph2).1
    q.mode = 0 ∧ q.ref = 1 ∧ q.phiAt t % 1024 = ph1 % 1024 := by
  have hin : (o.atCrossing t amp1 mhz1 ph1 amp2 mhz2 ph2).in1.valid = true := by
    rw [Opal.atCrossing, Opal.sensed_only]
    exact o.judged1_kept t amp1 mhz1 ph1 (by rw [hi]; rfl) hv ha hf
  have hmode : (o.atCrossing t amp1 mhz1 ph1 amp2 mhz2 ph2).mode = 1 := by
    rw [Opal.atCrossing, Opal.sensed_only]
    exact hm
  rw [o.evaluated_without_phs2 t amp1 mhz1 ph1 amp2 mhz2 ph2 (by rw [hi]; rfl), Opal.reacted_first_lock mhz1 ph1 mhz2 _ hin hmode]
  exact ⟨rfl, rfl, Opal.stepped_tick ph1 mhz1⟩
end

/-! ### The report -/

section
variable (o : Opal) (r : Opal × Option Nat)

theorem Opal.reported_only : (o.reported r).1 = { r.1 with irq := (o.reported r).1.irq } := by
  unfold Opal.reported
  dsimp only
  split <;> split <;> rfl

theorem Opal.reported_held (t : Nat) : (o.reported r).1.held t = r.1.held t := (congrArg (Opal.held t) (o.reported_only r) :)
theorem Opal.reported_mode : (o.reported r).1.mode = r.1.mode := (congrArg Opal.mode (o.reported_only r) :)
theorem Opal.reported_ref : (o.reported r).1.ref = r.1.ref := (congrArg Opal.ref (o.reported_only r) :)

theorem Opal.reported_change (h : r.1.mode ≠ o.mode) : (o.reported r).1.irq &&& oplMODE = oplMODE := by
  have hself := r.1.raise_irq_self oplMODE
  unfold Opal.reported
  rw [if_pos (bne_iff_ne.mpr h)]
  dsimp only
  split
  · exact Opal.raise_irq_of _ oplSTEP hself
  · exact hself

theorem Opal.reported_step (h : r.2.isSome = true) : (o.reported r).1.irq &&& oplSTEP = oplSTEP := by
  obtain ⟨n, hn⟩ := Option.isSome_iff_exists.mp h
  unfold Opal.reported
  rw [hn]
  exact Opal.raise_irq_self _ oplSTEP
end

/-! ### A crossing of the share -/

section
variable (o : Opal) (t amp1 mhz1 ph1 amp2 mhz2 ph2 : Nat)

/-- Φ stands or takes one forward step, of less than a cycle, into the locked mode; a step and a change of mode are reported. -/
theorem Opal.crossing_moves :
    let q := (o.crossing t amp1 mhz1 ph1 amp2 mhz2 ph2).1
    o.phiAt t ≤ q.phiAt t ∧ q.phiAt t < o.phiAt t + 1024 ∧
      (q.phiAt t ≠ o.phiAt t → q.mode = 0 ∧ q.irq &&& oplSTEP = oplSTEP) ∧ (q.mode ≠ o.mode → q.irq &&& oplMODE = oplMODE) ∧
      q.active = o.active ∧ q.cfg = o.cfg := by
  rw [Opal.crossing_eq]
  obtain ⟨hheld, hlt, hlock⟩ := o.evaluated_moves t amp1 mhz1 ph1 amp2 mhz2 ph2
  generalize o.evaluated t amp1 mhz1 ph1 amp2 mhz2 ph2 = r at hheld hlt hlock
  rw [← o.reported_held r t] at hheld
  simp only [Opal.held, Prod.mk.injEq] at hheld
  obtain ⟨hphi, hactive, hcfg⟩ := hheld
  refine ⟨by omega, by omega, fun hne => ?_, fun hne => o.reported_change r (by rwa [o.reported_mode r] at hne), hactive, hcfg⟩
  have hsome : r.2.isSome = true := by
    cases hr : r.2 with
    | some n => rfl
    | none =>
      rw [hr] at hphi
      exact absurd hphi hne
  exact ⟨(o.reported_mode r).trans (hlock hsome), o.reported_step r hsome⟩

theorem Opal.crossing_without_inputs (h : o.inmask = 0) :
    let q := (o.crossing t amp1 mhz1 ph1 amp2 mhz2 ph2).1
    q.mode = 1 ∧ q.ref = 0 := by
  simp only [Opal.crossing_eq, Opal.reported_mode, Opal.reported_ref]
  exact o.evaluated_without_inputs t amp1 mhz1 ph1 amp2 mhz2 ph2 h

theorem Opal.crossing_first_lock (hi : o.inmask = 1) (hm : o.mode = 1) (hv : o.in1.valid = true) (ha : 30 ≤ amp1)
    (hf : freqOk o.freqSel mhz1 = true) :
    let q := (o.crossing t amp1 mhz1 ph1 amp2 mhz2 ph2).1
    q.mode = 0 ∧ q.ref = 1 ∧ q.phiAt t % 1024 = ph1 % 1024 := by
  have hphi := (Opal.held_inj (o.reported_held (o.evaluated t amp1 mhz1 ph1 amp2 mhz2 ph2) t)).1
  simp only [Opal.crossing_eq, Opal.reported_mode, Opal.reported_ref, hphi]
  exact o.evaluated_first_lock t amp1 mhz1 ph1 amp2 mhz2 ph2 hi hm hv ha hf
end

/-! ### The start of Φ (R245) -/

theorem Opal.enable_en (o : Opal) (t mt : Nat) : (o.enable t mt).en = true := by
  simp [Opal.en, Opal.enable]

theorem Opal.enable_phiAt (o : Opal) (t mt : Nat) : (o.enable t mt).phiAt t = nominalTicks o.freqSel mt :=
  Phi.synthetic_at o.freqSel _ t

/-! ### The commands -/

theorem exec_opalZeroCrossing (x : Lane) (amp1 mhz1 ph1 amp2 mhz2 ph2 t : Nat) (s : State) :
    exec (.opalZeroCrossing x amp1 mhz1 ph1 amp2 mhz2 ph2 t) s = s.at t fun m => m.opalCrossing x amp1 mhz1 ph1 amp2 mhz2 ph2 := rfl
theorem exec_opalEnable (x : Lane) (t : Nat) (s : State) : exec (.opalEnable x t) s = s.at t fun m => m.opalEnable x := rfl

section
variable (m : Mod) (x : Lane)

/-- A crossing changes the share it evaluates, and no other lane and no channel controller. -/
theorem Mod.opalCrossing_enabled (amp1 mhz1 ph1 amp2 mhz2 ph2 : Nat) (hp : (m.lane x).powered = true) (he : (m.lane x).opal.en = true) :
    let m' := m.opalCrossing x amp1 mhz1 ph1 amp2 mhz2 ph2
    (m'.lane x).opal = ((m.lane x).opal.crossing m.clock amp1 mhz1 (ph1 % 1024) amp2 mhz2 (ph2 % 1024)).1 ∧
      m'.obx = m.obx ∧ ∀ y, y ≠ x → m'.lane y = m.lane y := by
  unfold Mod.opalCrossing
  dsimp only
  rw [if_neg (by simp [hp, he])]
  generalize (m.lane x).opal.crossing m.clock amp1 mhz1 (ph1 % 1024) amp2 mhz2 (ph2 % 1024) = r
  split
  · exact ⟨by rw [Mod.lane_put, Mod.lane_setLane_self], rfl, fun y hy => Mod.lane_setLane_ne m x y _ hy⟩
  · exact ⟨by rw [Mod.lane_setLane_self], rfl, fun y hy => Mod.lane_setLane_ne m x y _ hy⟩

theorem Mod.opalEnable_disabled (hp : (m.lane x).powered = true) (he : (m.lane x).opal.en = false) :
    m.opalEnable x = m.setLane x { m.lane x with opal := (m.lane x).opal.enable m.clock (m.laneTime x) } :=
  if_neg (by simp [hp, he])
end

/-- Settles O34: no stage of the evaluation moves Φ but the forward step, which goes into the locked mode and is reported. -/
theorem phaseNeverDecreasesAtACrossing : Obligations.PhaseNeverDecreasesAtACrossing := by
  unfold Obligations.PhaseNeverDecreasesAtACrossing
  intro s x t a1 f1 p1 a2 f2 p2 m0 l now
  refine ⟨fun hp he => Completes.of_at (exec_opalZeroCrossing x a1 f1 p1 a2 f2 p2 t s) ?_,
    fun hp he => Completes.of_at (exec_opalEnable x t s) ?_⟩
  · obtain ⟨hopal, hobx, hothers⟩ := m0.opalCrossing_enabled x a1 f1 p1 a2 f2 p2 hp he
    obtain ⟨hle, hlt, hstep, hchange, hactive, hcfg⟩ := l.opal.crossing_moves now a1 f1 (p1 % 1024) a2 f2 (p2 % 1024)
    have hsynthetic := l.opal.crossing_without_inputs now a1 f1 (p1 % 1024) a2 f2 (p2 % 1024)
    have hlock := l.opal.crossing_first_lock now a1 f1 (p1 % 1024) a2 f2 (p2 % 1024)
    rw [Mod.lane_advance] at hopal
    rw [hopal]
    generalize Opal.crossing _ _ _ _ _ _ _ _ = q at *
    refine ⟨hle, hlt, hstep, hchange, hsynthetic, fun hi hm hv ha hf => ?_, hactive, hcfg, hobx, hothers⟩
    obtain ⟨hmode, href, htick⟩ := hlock hi hm hv ha hf
    exact ⟨hmode, href, htick.trans (Nat.mod_mod p1 1024)⟩
  · have henable : m0.opalEnable x = _ := m0.opalEnable_disabled x hp he
    rw [henable, Mod.lane_setLane_self]
    exact ⟨l.opal.enable_en now (m0.laneTime x), rfl, l.opal.enable_phiAt now (m0.laneTime x)⟩

end Sys2Proof.Machine
end

