-- ==== Sys2Proof/Proofs/LocalOutputs.lean ====
section
/-!
SUPPORT and the settled statement on the output channels: what the end of an action of the controller leaves as the action made it,
and what trips, feed events and switch tests make of an output (09_local_safety_io.md R274 to R276).
-/
namespace Sys2Proof.Machine

/-! ### Channels changed in place -/

section
variable {α : Type} (xs : List α) (d : α)

theorem getD_mapIdx_of_lt (f : Nat → α → α) (i : Nat) (h : i < xs.length) : (xs.mapIdx f).getD i d = f i (xs.getD i d) := by
  simp [List.getD_eq_getElem?_getD, h]
theorem getD_modify_self (f : α → α) (i : Nat) (h : i < xs.length) : (xs.modify i f).getD i d = f (xs.getD i d) := by
  simp [List.getD_eq_getElem?_getD, h]
theorem getD_modify_ne (f : α → α) (i j : Nat) (h : j ≠ i) : (xs.modify i f).getD j d = xs.getD j d := by
  simp [List.getD_eq_getElem?_getD, h.symm]
end

theorem Lio.modOut_outCh (l : Lio) (o : Nat) (f : OutChan → OutChan) (h : o < l.outs.length) : (l.modOut o f).outCh o = f (l.outCh o) :=
  getD_modify_self l.outs OutChan.reset f o h

theorem Lio.mapOuts_outCh (l : Lio) (f : Nat → OutChan → OutChan) (o : Nat) (h : o < l.outs.length) :
    ({ l with outs := l.outs.mapIdx f } : Lio).outCh o = f o (l.outCh o) :=
  getD_mapIdx_of_lt l.outs OutChan.reset f o h

theorem Lio.follow_outCh_of_lt (l : Lio) (can : PerLane Bool) (o : Nat) (h : o < l.outs.length) :
    (l.follow can).outCh o = l.outFollow can o (l.outCh o) :=
  l.mapOuts_outCh (l.outFollow can) o h

/-! ### The end of an action (R265, R266, R285) -/

/-- The pair timers are kept in the input channels and the two pair tables. -/
theorem Lio.watchPairs_only (l : Lio) (t : Nat) :
    l.watchPairs t = { l with ins := (l.watchPairs t).ins, pairOut := (l.watchPairs t).pairOut, pairSafe := (l.watchPairs t).pairSafe } := by
  refine List.foldlRecOn (motive := fun m : Lio => m = { l with ins := m.ins, pairOut := m.pairOut, pairSafe := m.pairSafe })
    l.pairs _ rfl fun m hm p _ => ?_
  rw [hm]
  dsimp only
  repeat' split
  all_goals rfl

/-- The records of an action come with interrupts, and before them only the pair and SLP timers are brought up to date. -/
theorem Lio.done_raise (old new : Lio) (t : Nat) : ∃ w, (Lio.done old new t).1 = ((new.watchPairs t).watchSlp t).raise w :=
  Lio.changes_raise old ((new.watchPairs t).watchSlp t)

section
variable (old new : Lio) (t : Nat)

@[simp] theorem Lio.done_outs : (Lio.done old new t).1.outs = new.outs := by
  obtain ⟨w, hw⟩ := Lio.done_raise old new t
  exact (congrArg Lio.outs hw).trans (congrArg Lio.outs (new.watchPairs_only t) :)
@[simp] theorem Lio.done_feed : (Lio.done old new t).1.feed = new.feed := by
  obtain ⟨w, hw⟩ := Lio.done_raise old new t
  exact (congrArg Lio.feed hw).trans (congrArg Lio.feed (new.watchPairs_only t) :)
@[simp] theorem Lio.done_outCh (o : Nat) : (Lio.done old new t).1.outCh o = new.outCh o := by
  simp only [Lio.outCh, Lio.done_outs]
end

@[simp] theorem Lio.raise_outCh (l : Lio) (w : Word32) (o : Nat) : (l.raise w).outCh o = l.outCh o := rfl
@[simp] theorem Lio.error_outCh (l : Lio) (code level o : Nat) : (l.error code level).outCh o = l.outCh o := rfl
@[simp] theorem Lio.modFeed_outCh (l : Lio) (b : Nat) (f : FeedBank → FeedBank) (o : Nat) : (l.modFeed b f).outCh o = l.outCh o := rfl

/-! ### Fault states of an output (R276) -/

section
variable (x : OutChan) (st fc : Nat)

theorem OutChan.fault_enters (h : x.state ≤ st) (hst : st < 7) : (x.fault st fc).state = st ∧ (x.fault st fc).fcode = fc := by
  have hnot : ¬ (x.state = 7 ∨ x.state > st) := by omega
  simp [OutChan.fault, hnot]
theorem OutChan.fault_of_higher (h : st < x.state) : x.fault st fc = x := by
  simp [OutChan.fault, h]
end

section
variable (l : Lio) (can : PerLane Bool) (o : Nat) (x : OutChan)

/-- A used output in FAULT does not follow its gates. -/
theorem Lio.outFollow_faulty (hu : l.outUsed o = true) (hx : x.state = 3) : l.outFollow can o x = x := by
  simp [Lio.outFollow, hu, hx]

/-- Following its gates takes no output into FAULT or NOFEED. -/
theorem Lio.outFollow_enters_no_fault (st : Nat) (hst : st = 3 ∨ st = 5) (hx : x.state ≠ st) : (l.outFollow can o x).state ≠ st := by
  unfold Lio.outFollow
  split
  · dsimp only; omega
  split
  · exact hx
  split
  · dsimp only; omega
  split
  all_goals
    dsimp only
    split <;> omega

@[simp] theorem Lio.outFollow_inhibited : (l.outFollow can o x).inhibited = x.inhibited := by
  unfold Lio.outFollow
  repeat' split
  all_goals rfl
end

/-! ### Trips and feed events (R274) -/

section
variable (l : Lio) (can : PerLane Bool) (b o t : Nat)

theorem Lio.outTrip_outCh (thermal : Bool) (h : o < l.outs.length) :
    (l.outTrip o t thermal).1.outCh o = { (l.outCh o).fault 2 (if thermal then 0x12 else 0x11) with offSeen := false } := by
  rw [Lio.outTrip, Lio.done_outCh, l.modOut_outCh o _ h]

theorem Lio.bankTrip_outCh (ma : Nat) (h : o < l.outs.length) :
    (l.bankTrip b t ma).1.outCh o =
      if o / 12 = b ∧ (l.outCh o).state = 1 then { l.outCh o with state := 2, fcode := 0x16, offSeen := false } else l.outCh o := by
  rw [Lio.bankTrip, Lio.done_outCh, Lio.error_outCh, Lio.raise_outCh, Lio.modFeed_outCh, l.mapOuts_outCh _ o h]

theorem Lio.bankTrip_feed (ma : Nat) (h : b < l.feed.length) : (l.bankTrip b t ma).1.feed.getD b FeedBank.reset = ⟨3, ma⟩ := by
  rw [Lio.bankTrip, Lio.done_feed]
  exact getD_modify_self l.feed FeedBank.reset _ b h

theorem Lio.feedLow_outCh (h : o < l.outs.length) :
    (l.feedLow b t).1.outCh o = if o / 12 = b then (l.outCh o).fault 5 0x17 else l.outCh o := by
  rw [Lio.feedLow, Lio.done_outCh, Lio.raise_outCh, Lio.modFeed_outCh, l.mapOuts_outCh _ o h]

theorem Lio.feedLow_feed (h : b < l.feed.length) : ((l.feedLow b t).1.feed.getD b FeedBank.reset).state = 2 := by
  rw [Lio.feedLow, Lio.done_feed]
  exact congrArg FeedBank.state (getD_modify_self l.feed FeedBank.reset _ b h)

/-- The controller with bank `b` fed again, before its outputs follow their gates. -/
def Lio.fed : Lio :=
  { (l.modFeed b fun f => { f with state := 1 }).raise lioBANK with
    outs := l.outs.mapIdx fun o x => if o / 12 = b ∧ x.state = 5 then { x with state := 0, fcode := 0 } else x }

theorem Lio.feedBack_of_low (hb : (l.feed.getD b FeedBank.reset).state = 2) :
    l.feedBack can b t = Lio.done l ((l.fed b).follow can) t := by
  rw [Lio.feedBack, if_neg fun h => h hb]
  rfl

theorem Lio.feedBack_outCh (hb : (l.feed.getD b FeedBank.reset).state = 2) (h : o < l.outs.length) :
    (l.feedBack can b t).1.outCh o =
      (l.fed b).outFollow can o (if o / 12 = b ∧ (l.outCh o).state = 5 then { l.outCh o with state := 0, fcode := 0 } else l.outCh o) := by
  have hfed : (l.fed b).outCh o = _ := l.mapOuts_outCh _ o h
  have hlen : o < (l.fed b).outs.length := by simpa [Lio.fed] using h
  rw [l.feedBack_of_low can b t hb, Lio.done_outCh, Lio.follow_outCh_of_lt _ can o hlen, hfed]

theorem Lio.feedBack_feed (hb : (l.feed.getD b FeedBank.reset).state = 2) (h : b < l.feed.length) :
    ((l.feedBack can b t).1.feed.getD b FeedBank.reset).state = 1 := by
  rw [l.feedBack_of_low can b t hb, Lio.done_feed]
  exact congrArg FeedBank.state (getD_modify_self l.feed FeedBank.reset _ b h)
end

/-! ### Switch tests (R275, R276) -/

/-- Whether the controller tests the switches of output `o` in service. -/
def Lio.tests (l : Lio) (o : Nat) : Prop := l.ctlflt = false ∧ l.outUsed o = true ∧ l.outF o 3 1 = 1 ∧ o < 48

/-- What a passed test makes of an output, before it follows its gates. -/
def OutChan.testPassed (x : OutChan) : OutChan :=
  let p := if x.resetReq then x.passed + 1 else 0
  if x.state = 3 ∧ p ≥ 2 then { x with state := 0, fcode := 0, inhibited := false, resetReq := false, passed := 0, testWait := false }
  else { x with testWait := false, passed := p }

/-- What the second failure of a test makes of an output. -/
def OutChan.testFailed (x : OutChan) (slot : Nat) : OutChan :=
  { x.fault 3 (if slot % 2 = 0 then 0x13 else 0x14) with testWait := false, inhibited := true, resetReq := false, passed := 0 }

section
variable (l : Lio) (can : PerLane Bool) (slot t : Nat)

/-- A test of a tested output, by its verdict. -/
theorem Lio.switchTest_eq (verdict : Nat) (h : l.tests (slot / 2)) :
    l.switchTest can slot t verdict =
      if verdict = 0 then Lio.done l ((l.modOut (slot / 2) OutChan.testPassed).follow can) t
      else if verdict = 1 then
        if (l.outCh (slot / 2)).testWait then Lio.done l ((l.modOut (slot / 2) fun x => x.testFailed slot).error 0x04 3) t
        else (l.modOut (slot / 2) fun x => { x with testWait := true }, [])
      else (l, []) := by
  obtain ⟨hc, hu, hk, ho⟩ := h
  have hskip : (l.ctlflt || !l.outUsed (slot / 2) || l.outF (slot / 2) 3 1 != 1 || decide (slot / 2 ≥ 48)) = false := by
    simp [hc, hu, hk, ho]
  unfold Lio.switchTest
  dsimp only
  rw [hskip]
  rfl

section
variable (o : Nat) (hs : slot / 2 = o) (h : l.tests o) (hlen : o < l.outs.length)
include hs h hlen

theorem Lio.switchTest_passed : (l.switchTest can slot t 0).1.outCh o = l.outFollow can o (l.outCh o).testPassed := by
  subst hs
  have hmod : slot / 2 < (l.modOut (slot / 2) OutChan.testPassed).outs.length := by simpa [Lio.modOut] using hlen
  rw [l.switchTest_eq can slot t 0 h, if_pos rfl, Lio.done_outCh, Lio.follow_outCh_of_lt _ can _ hmod, l.modOut_outCh _ _ hlen]
  rfl

theorem Lio.switchTest_failed_first (hw : (l.outCh o).testWait = false) :
    (l.switchTest can slot t 1).1.outCh o = { l.outCh o with testWait := true } := by
  subst hs
  rw [l.switchTest_eq can slot t 1 h, if_neg (by decide), if_pos rfl, hw, if_neg (by decide)]
  exact l.modOut_outCh _ _ hlen

theorem Lio.switchTest_failed_again (hw : (l.outCh o).testWait = true) :
    (l.switchTest can slot t 1).1.outCh o = (l.outCh o).testFailed slot := by
  subst hs
  rw [l.switchTest_eq can slot t 1 h, if_neg (by decide), if_pos rfl, if_pos hw, Lio.done_outCh, Lio.error_outCh]
  exact l.modOut_outCh _ _ hlen
end

theorem Lio.switchTest_no_verdict (h : l.tests (slot / 2)) : l.switchTest can slot t 2 = (l, []) := by
  rw [l.switchTest_eq can slot t 2 h, if_neg (by decide), if_neg (by decide)]
end

/-! ### The commands -/

section
variable (t : Nat) (s : State)

theorem exec_outputCurrentTrip (o : Nat) (thermal : Bool) : exec (.outputCurrentTrip o thermal t) s = s.at t fun m => m.lioOutTrip o thermal := rfl
theorem exec_bankTrip (b ma : Nat) : exec (.bankTrip b ma t) s = s.at t fun m => m.lioBankTrip b ma := rfl
theorem exec_feedUndervoltage (b : Nat) : exec (.feedUndervoltage b t) s = s.at t fun m => m.lioFeedLow b := rfl
theorem exec_feedReturn (b : Nat) : exec (.feedReturn b t) s = s.at t fun m => m.lioFeedBack b := rfl
theorem exec_switchTest (slot verdict : Nat) : exec (.switchTest slot verdict t) s = s.at t fun m => m.lioSwitchTest slot verdict := rfl
end

/-- An action that changes nothing leaves the passing of time. -/
theorem State.at_unchanged (s : State) (t : Nat) (f : Mod → Mod) (h : f (s.m.advance t) = s.m.advance t) :
    s.at t f = .next { s with m := s.m.advance t } := by
  rw [State.at, h]

section
variable (m : Mod)

theorem Mod.lioBank_lio (b : Nat) (f : Lio → Lio × List Evt) (hf : m.full = true) (hb : b < 4) : (m.lioBank b f).lio = (f m.lio).1 := by
  rw [Mod.lioBank, if_pos hb, Mod.lioDo_lio m f hf]

theorem Mod.lioDo_nothing (f : Lio → Lio × List Evt) (h : f m.lio = (m.lio, [])) : m.lioDo f = m := by
  rw [Mod.lioDo, h]
  exact ite_self m
end

/-- Settles O39: each event's effect on one output is the channel the action makes of it, and following the gates keeps FAULT and takes
no output into it. -/
theorem outputChannelsFollowTheirStates : Obligations.OutputChannelsFollowTheirStates := by
  unfold Obligations.OutputChannelsFollowTheirStates
  intro s t o b hfull m0 l x hlen
  have act (f : Lio → Lio × List Evt) : (m0.lioDo f).lio = (f l).1 := Mod.lioDo_lio m0 f hfull
  have bank (hb : b < 4) (f : Lio → Lio × List Evt) : (m0.lioBank b f).lio = (f l).1 := m0.lioBank_lio b f hfull hb
  refine ⟨fun hx thermal => Completes.of_at (exec_outputCurrentTrip t s o thermal) ?_,
    fun hx thermal => Completes.of_at (exec_outputCurrentTrip t s o thermal) ?_,
    fun hb hfeed ma => Completes.of_at (exec_bankTrip t s b ma) ?_,
    fun hb hfeed => Completes.of_at (exec_feedUndervoltage t s b) ?_,
    fun hb hfeed hlow => Completes.of_at (exec_feedReturn t s b) ?_,
    fun hctl hused hkind ho slot hslot => ?_⟩
  · rw [Mod.lioOutTrip, act, l.outTrip_outCh o _ thermal hlen]
    exact x.fault_enters 2 _ hx (by decide)
  · rw [Mod.lioOutTrip, act, l.outTrip_outCh o _ thermal hlen]
    exact (congrArg OutChan.state (x.fault_of_higher 2 _ hx) :)
  · rw [Mod.lioBankTrip, bank hb, l.bankTrip_outCh b o _ ma hlen, l.bankTrip_feed b _ ma hfeed]
    refine ⟨rfl, fun hob hx => ?_, fun hob => if_neg fun h => hob h.1⟩
    rw [if_pos ⟨hob, hx⟩]
    exact ⟨rfl, rfl⟩
  · rw [Mod.lioFeedLow, bank hb, l.feedLow_outCh b o _ hlen]
    refine ⟨l.feedLow_feed b _ hfeed, fun hob hx => ?_⟩
    rw [if_pos hob]
    exact x.fault_enters 5 0x17 hx (by decide)
  · rw [Mod.lioFeedBack, bank hb, l.feedBack_outCh _ b o _ hlow hlen]
    refine ⟨l.feedBack_feed _ b _ hlow hfeed, fun hob => Lio.outFollow_enters_no_fault _ _ _ _ 5 (Or.inr rfl) ?_⟩
    split <;> simp_all
  · have htests : l.tests o := ⟨hctl, hused, hkind, ho⟩
    refine ⟨fun hwait => Completes.of_at (exec_switchTest t s slot 1) ?_, fun hwait hx => Completes.of_at (exec_switchTest t s slot 1) ?_,
      fun hx hreset => Completes.of_at (exec_switchTest t s slot 0) ?_,
      fun hx hreset hpassed => Completes.of_at (exec_switchTest t s slot 0) ?_, ?_⟩
    · rw [Mod.lioSwitchTest, act, l.switchTest_failed_first _ slot _ o hslot htests hlen hwait]
      exact ⟨rfl, rfl⟩
    · rw [Mod.lioSwitchTest, act, l.switchTest_failed_again _ slot _ o hslot htests hlen hwait]
      obtain ⟨hstate, hcode⟩ := x.fault_enters 3 (if slot % 2 = 0 then 0x13 else 0x14) hx (by decide)
      exact ⟨hstate, rfl, hcode⟩
    · have hstays : x.testPassed.state = 3 := by simp [OutChan.testPassed, hreset, hx]
      rw [Mod.lioSwitchTest, act, l.switchTest_passed _ slot _ o hslot htests hlen, l.outFollow_faulty _ o _ hused hstays]
      exact hstays
    · have hleaves : x.testPassed.state = 0 ∧ x.testPassed.inhibited = false := by
        simp [OutChan.testPassed, hreset, hx, hpassed]
      rw [Mod.lioSwitchTest, act, l.switchTest_passed _ slot _ o hslot htests hlen, Lio.outFollow_inhibited]
      exact ⟨l.outFollow_enters_no_fault _ o _ 3 (Or.inl rfl) (by rw [hleaves.1]; decide), hleaves.2⟩
    · subst hslot
      have hnothing : m0.lioSwitchTest slot 2 = m0 := m0.lioDo_nothing _ (l.switchTest_no_verdict _ slot _ htests)
      exact (exec_switchTest t s slot 2).trans (State.at_unchanged s t _ hnothing)

end Sys2Proof.Machine
end

