-- ==== Sys2Proof/Proofs/SafetyFunctions.lean ====
section
/-!
SUPPORT and the settled statement on the counters and the safety functions: what an edge, a timeout and a snapshot make of one bank,
of one function in it and of one lane's view (09_local_safety_io.md R267, R268, R282 to R285).
-/
namespace Sys2Proof.Machine

/-! ### A function in a lane's bank -/

def Lio.fn (l : Lio) (y : Lane) (f : Nat) : SfState := (l.banks.get y).fns.getD f SfState.reset

theorem Lio.modFn_fn (l : Lio) (y : Lane) (f : Nat) (g : SfState → SfState) (h : f < (l.banks.get y).fns.length) :
    (l.modFn f g).fn y f = g (l.fn y f) := by
  rw [Lio.fn, Lio.modFn, PerLane.get_map]
  exact getD_modify_self _ SfState.reset g f h

/-! ### Edges (R267, R282) -/

/-- What an edge on channel `ch` makes of function `f`. -/
def Lio.sfEdgeOn (l : Lio) (ch t f : Nat) (s : SfState) : SfState :=
  if l.fnKind f = 1 ∨ l.fnKind f = 3 then
    if l.fnF f 1 1 = ch then l.sfEdge f true t s else if l.fnF f 2 1 = ch then l.sfEdge f false t s else s
  else s

section
variable (l : Lio) (y : Lane) (ch t f : Nat)

theorem Lio.countEdge_in_pulse (h : l.inPulse 0 t = true) : l.countEdge ch t = l := by
  simp [Lio.countEdge, h]

section
variable (ha : l.active = true) (hc : l.ctlflt = false) (h8 : ch < 8) (hu : l.inUse ch = 2) (hp : l.inPulse 0 t = false)
include ha hc h8 hu hp

/-- An edge that counts reaches every bank (R267). -/
theorem Lio.countEdge_bank :
    (l.countEdge ch t).banks.get y =
      ⟨(l.banks.get y).counts.modify ch fun n => (n + 1) % 2 ^ 32, (l.banks.get y).fns.mapIdx (l.sfEdgeOn ch t)⟩ := by
  have hcounts : (!l.running || decide (ch ≥ 8) || l.inUse ch != 2 || l.inPulse 0 t) = false := by
    simp [Lio.running, ha, hc, h8, hu, hp]
  unfold Lio.countEdge
  rw [hcounts]
  exact PerLane.get_map l.banks _ y

theorem Lio.countEdge_fn (h : f < (l.banks.get y).fns.length) : (l.countEdge ch t).fn y f = l.sfEdgeOn ch t f (l.fn y f) := by
  rw [Lio.fn, l.countEdge_bank y ch t ha hc h8 hu hp]
  exact getD_mapIdx_of_lt _ SfState.reset _ f h
end

/-- An edge on head B that closes a pair opened on head A (R282). -/
theorem Lio.sfEdge_closing (s : SfState) (o : Nat) (ho : s.openA = some o) (hin : t / 1000 - o ≤ l.fnF f 6 2 * 1000)
    (hdark : l.darkBetween (o * 1000) t = false) :
    l.sfEdge f false t s =
      if t / 1000 - o < l.fnF f 0x14 2 then ({ s with openA := none } : SfState).faulted
      else l.sfPair f { s with openA := none, unpA := 0, unpB := 0 } true (t / 1000 - o) t := by
  simp [Lio.sfEdge, ho, hin, hdark]

/-! ### Pairs of a speed function (R283) -/

/-- What a good pair makes of a function's fault: four good pairs in a row clear it. -/
def Lio.goodPair (s : SfState) : SfState :=
  if !l.inputsOk f then { s with goodRun := 0 }
  else { s with goodRun := s.goodRun + 1, fault := s.fault && decide (s.goodRun + 1 < 4) }

/-- A pair of a speed function gives its speed, and a speed above VMAX is a fault. -/
theorem Lio.sfPair_speed (s : SfState) (firstA : Bool) (dt sp : Nat) (h1 : l.fnKind f = 1)
    (hsp : (l.fnF f 4 2 * 1000000 + dt - 1) / dt = sp) :
    l.sfPair f s firstA dt t =
      if l.fnF f 0x0C 4 < sp then ({ s with recent := true, lastPair := t, speed := sp } : SfState).faulted
      else l.goodPair f { s with recent := true, lastPair := t, speed := sp } := by
  simp only [Lio.sfPair, Lio.goodPair, h1, if_true, hsp, gt_iff_lt]

section
variable (s : SfState)

@[simp] theorem Lio.goodPair_openA : (l.goodPair f s).openA = s.openA := by unfold Lio.goodPair; split <;> rfl
@[simp] theorem Lio.goodPair_speed : (l.goodPair f s).speed = s.speed := by unfold Lio.goodPair; split <;> rfl
@[simp] theorem Lio.goodPair_recent : (l.goodPair f s).recent = s.recent := by unfold Lio.goodPair; split <;> rfl
end

theorem Lio.sfPair_speed_result (s : SfState) (firstA : Bool) (dt : Nat) (h1 : l.fnKind f = 1) :
    (l.sfPair f s firstA dt t).openA = s.openA ∧ (l.sfPair f s firstA dt t).speed = (l.fnF f 4 2 * 1000000 + dt - 1) / dt ∧
      (l.sfPair f s firstA dt t).recent = true ∧
      (l.fnF f 0x0C 4 < (l.sfPair f s firstA dt t).speed → (l.sfPair f s firstA dt t).fault = true) := by
  rw [l.sfPair_speed t f s firstA dt _ h1 rfl]
  split
  · exact ⟨rfl, rfl, rfl, fun _ => rfl⟩
  · next hslow =>
    simp only [Lio.goodPair_openA, Lio.goodPair_speed, Lio.goodPair_recent]
    exact ⟨trivial, trivial, trivial, fun h => absurd h hslow⟩
end

/-! ### Timers of a function (R282 to R285) -/

section
variable (l : Lio) (y : Lane) (f t : Nat) (h : f < (l.banks.get y).fns.length)
include h

theorem Lio.pairTimeout_fn (o : Nat) (ho : (l.fn y f).openA = some o) (hlate : l.fnF f 6 2 * 1000 < t / 1000 - o) :
    (l.pairTimeout f true t).fn y f =
      let s' : SfState := { l.fn y f with openA := none, unpA := (l.fn y f).unpA + 1 }
      if (l.fn y f).unpA + 1 = 3 then s'.faulted else s' := by
  rw [Lio.pairTimeout, l.modFn_fn y f _ h]
  simp only [if_true, ho, Nat.not_le.mpr hlate, if_false]

theorem Lio.holdExpire_due (hr : (l.fn y f).recent = true) (hlate : l.fnF f 0x10 4 * 1000000 < t - (l.fn y f).lastPair) :
    (l.holdExpire f t).fn y f = { l.fn y f with recent := false, dir := 0 } := by
  rw [Lio.holdExpire, l.modFn_fn y f _ h]
  simp [hr, hlate]

theorem Lio.holdExpire_early (hearly : t - (l.fn y f).lastPair ≤ l.fnF f 0x10 4 * 1000000) : (l.holdExpire f t).fn y f = l.fn y f := by
  rw [Lio.holdExpire, l.modFn_fn y f _ h]
  simp only [gt_iff_lt, Nat.not_lt.mpr hearly, decide_false, Bool.and_false, Bool.false_eq_true, if_false]

theorem Lio.slpStart_fn (hk : l.fnKind f = 2) (h16 : f < 16) (hm : l.startMaj f = true) (hs : l.startSeen.testBit f = false) :
    (l.slpStart f t).fn y f = { l.fn y f with inWindow := true, timeout := false, winStart := t } ∧
      (l.slpStart f t).startSeen.testBit f = true := by
  rw [Lio.slpStart, if_pos ⟨hk, h16, hm, hs⟩]
  exact ⟨Lio.modFn_fn { l with startSeen := l.startSeen ||| 1 <<< f } y f _ h, by simp [Lio.modFn]⟩

theorem Lio.slpWindow_fn (hw : (l.fn y f).inWindow = true) (hlate : l.fnF f 8 4 * 1000000 ≤ t - (l.fn y f).winStart) :
    (l.slpWindow f t).fn y f = { l.fn y f with inWindow := false, timeout := true } := by
  rw [Lio.slpWindow, l.modFn_fn y f _ h]
  simp [hw, hlate]

theorem Lio.slpSettle_endN (n : Nat) (hend : (l.fn y f).endN = false) (hn : (l.fn y f).nSince = some n)
    (hheld : l.fnF f 0x0C 4 * 1000000 ≤ t - n) :
    ((l.slpSettle f t).fn y f).endN = true ∧ ((l.slpSettle f t).fn y f).inWindow = false ∧
      ((l.slpSettle f t).fn y f).timeout = (l.fn y f).timeout := by
  rw [Lio.slpSettle, l.modFn_fn y f _ h]
  simp [hend, hn, hheld]
end

/-! ### Snapshots (R268) -/

section
variable (l : Lio) (x : Lane) (t : Nat)

theorem Lio.snap_snapCnt : ((l.snap x t).lanes.get x).snapCnt = ((l.lanes.get x).snapCnt + 1) % 65536 := by
  simp [Lio.snap]

theorem Lio.snap_lanes_ne (z : Lane) (hz : z ≠ x) : (l.snap x t).lanes.get z = l.lanes.get z :=
  PerLane.get_set_ne l.lanes x z _ hz

theorem mvEntry_unsigned (v : Nat) (hv : v < 2 ^ 32) : mvEntry v false = v + 2 ^ 32 := by
  rw [mvEntry, Nat.mod_eq_of_lt hv]
  rfl

/-- The window of a lane that snaps holds the count of every counting input in its bank. -/
theorem Lio.snap_count (c : Nat) (hc : c < 8) (hu : l.inUse c = 2) :
    (275 + c, mvEntry ((l.banks.get x).counts.getD c 0) false) ∈ ((l.snap x t).lanes.get x).window := by
  have hentry : (275 + c, mvEntry ((l.banks.get x).counts.getD c 0) false) ∈
      (List.range 8).map fun c => (275 + c, if l.inUse c = 2 then mvEntry ((l.banks.get x).counts.getD c 0) false else 0) :=
    List.mem_map.mpr ⟨c, List.mem_range.mpr hc, by rw [if_pos hu]⟩
  have hvalid : mvEntry ((l.banks.get x).counts.getD c 0) false ≠ 0 := by
    unfold mvEntry
    omega
  rw [Lio.snap, PerLane.get_set_self]
  exact List.mem_filter.mpr ⟨List.mem_append_right _ hentry, bne_iff_ne.mpr hvalid⟩
end

/-! ### The commands -/

section
variable (t : Nat) (s : State)

theorem exec_countEdge (ch : Nat) : exec (.countEdge ch t) s = s.at t fun m => m.lioCountEdge ch := rfl
theorem exec_pairTimeout (f : Nat) (onA : Bool) : exec (.pairTimeout f onA t) s = s.at t fun m => m.lioPairTimeout f onA := rfl
theorem exec_sfHoldExpire (f : Nat) : exec (.sfHoldExpire f t) s = s.at t fun m => m.lioHoldExpire f := rfl
theorem exec_slpStart (f : Nat) : exec (.slpStart f t) s = s.at t fun m => m.lioSlpStart f := rfl
theorem exec_slpWindowExpire (f : Nat) : exec (.slpWindowExpire f t) s = s.at t fun m => m.lioSlpWindow f := rfl
theorem exec_slpSettleExpire (f : Nat) : exec (.slpSettleExpire f t) s = s.at t fun m => m.lioSlpSettle f := rfl
theorem exec_lioSnapWrite (x : Lane) : exec (.lioSnapWrite x t) s = s.at t fun m => m.lioSnap x := rfl
end

/-- An action without records leaves its new state in the module. -/
theorem Mod.lioSet_lio (m : Mod) (f : Lio → Lio) (h : m.full = true) : (m.lioSet f).lio = f m.lio := by
  rw [Mod.lioSet, if_pos h]

theorem Mod.lioSet_nothing (m : Mod) (f : Lio → Lio) (h : f m.lio = m.lio) : m.lioSet f = m := by
  rw [Mod.lioSet, h]
  exact ite_self m

theorem Mod.lioSnap_lio (m : Mod) (x : Lane) (hf : m.full = true) (hp : (m.lane x).powered = true) :
    (m.lioSnap x).lio = m.lio.snap x m.clock := by
  rw [Mod.lioSnap, if_pos hp, Mod.lioSet_lio m _ hf]

/-- Settles O37: an edge, a timeout and a snapshot each act on one channel, one function or one lane, as the rule for it says. -/
theorem countersAndSafetyFunctions : Obligations.CountersAndSafetyFunctions := by
  unfold Obligations.CountersAndSafetyFunctions
  intro s x y t ch f hfull m0 l now fn q
  have act (g : Lio → Lio) : (m0.lioSet g).lio = g l := Mod.lioSet_lio m0 g hfull
  refine ⟨fun ha hc h8 hlen hu => ⟨fun hp => ?_, fun hp => Completes.of_at (exec_countEdge t s ch) ?_,
      fun o hp hf h1 hB hA ho => ?_⟩,
    fun hf => ⟨fun o ho hlate => Completes.of_at (exec_pairTimeout t s f true) ?_,
      fun hr hlate => Completes.of_at (exec_sfHoldExpire t s f) ?_,
      fun hr hearly => Completes.of_at (exec_sfHoldExpire t s f) ?_,
      fun hk h16 hm hs => Completes.of_at (exec_slpStart t s f) ?_,
      fun hw hlate => Completes.of_at (exec_slpWindowExpire t s f) ?_,
      fun n hend hn hheld => Completes.of_at (exec_slpSettleExpire t s f) ?_⟩,
    fun hp => Completes.of_at (exec_lioSnapWrite t s x) ?_⟩
  · exact (exec_countEdge t s ch).trans (State.at_unchanged s t _ (m0.lioSet_nothing _ (l.countEdge_in_pulse ch now hp)))
  · rw [Mod.lioCountEdge, act, l.countEdge_bank y ch _ ha hc h8 hu hp]
    exact ⟨getD_modify_self _ 0 _ ch hlen, fun d hd => getD_modify_ne _ 0 _ ch d hd⟩
  · intro dt hin _ hdark
    refine Completes.of_at (exec_countEdge t s ch) ?_
    have hedge : fn (m0.lioCountEdge ch).lio = l.sfEdge f false now q := by
      rw [Mod.lioCountEdge, act]
      refine (l.countEdge_fn y ch now f ha hc h8 hu hp hf).trans ?_
      rw [Lio.sfEdgeOn, if_pos (Or.inl h1), if_neg hA, if_pos hB]
      rfl
    rw [hedge, l.sfEdge_closing now f q o ho hin hdark]
    by_cases hshort : dt < l.fnF f 0x14 2
    · rw [if_pos hshort]
      exact ⟨rfl, fun _ => ⟨rfl, rfl⟩, fun h => absurd hshort (Nat.not_lt.mpr h)⟩
    · obtain ⟨hopen, hspeed, hrecent, hfast⟩ :=
        l.sfPair_speed_result now f { q with openA := none, unpA := 0, unpB := 0 } true dt h1
      rw [if_neg hshort]
      exact ⟨hopen, fun h => absurd h hshort, fun _ => ⟨hspeed, hrecent, hfast⟩⟩
  · have hfn : fn (m0.lioPairTimeout f true).lio = _ := (congrArg fn (act _)).trans (l.pairTimeout_fn y f now hf o ho hlate)
    rw [hfn]
    dsimp only
    split
    · exact ⟨rfl, rfl, fun _ => rfl⟩
    · next hfew => exact ⟨rfl, rfl, fun h2 => absurd (congrArg (· + 1) h2) hfew⟩
  · have hfn : fn (m0.lioHoldExpire f).lio = _ := (congrArg fn (act _)).trans (l.holdExpire_due y f now hf hr hlate)
    rw [hfn]
    exact ⟨rfl, rfl⟩
  · exact (congrArg fn (act _)).trans (l.holdExpire_early y f now hf hearly)
  · obtain ⟨hfn, hseen⟩ := l.slpStart_fn y f now hf hk h16 hm hs
    have hlio : (m0.lioSlpStart f).lio = l.slpStart f now := act _
    have hstart : fn (l.slpStart f now) = _ := hfn
    rw [hlio, hstart]
    exact ⟨rfl, rfl, rfl, hseen⟩
  · have hfn : fn (m0.lioSlpWindow f).lio = _ := (congrArg fn (act _)).trans (l.slpWindow_fn y f now hf hw hlate)
    rw [hfn]
    exact ⟨rfl, rfl⟩
  · rw [Mod.lioSlpSettle, act]
    exact l.slpSettle_endN y f now hf n hend hn hheld
  · rw [m0.lioSnap_lio x hfull hp]
    refine ⟨l.snap_snapCnt x now, rfl, rfl, fun hu hsmall => ?_, l.snap_lanes_ne x now⟩
    have hcount := l.snap_count x now 0 (by decide) hu
    rwa [mvEntry_unsigned _ hsmall] at hcount

end Sys2Proof.Machine
end

