-- ==== Sys2Proof/Proofs/LocalInputs.lean ====
section
/-!
SUPPORT and the settled statement on the input channels: only a channel in DISC changes by the pair timers, and a second wrong injection
of one level makes of a channel what `InChan.fault` makes of it (09_local_safety_io.md R262, R265, R266).
-/
namespace Sys2Proof.Machine

/-! ### One input channel -/

/-- A change that leaves channel `c` as it is, made of any channel. -/
theorem Lio.modIn_inCh_fixed (l : Lio) (p c : Nat) (f : InChan → InChan) (h : f (l.inCh c) = l.inCh c) : (l.modIn p f).inCh c = l.inCh c := by
  by_cases hp : c = p
  · subst hp
    by_cases hc : c < l.ins.length
    · exact (getD_modify_self l.ins InChan.reset f c hc).trans h
    · simp [Lio.inCh, Lio.modIn, List.getD_eq_getElem?_getD, hc]
  · exact getD_modify_ne l.ins InChan.reset f p c hp

theorem Lio.modIn_both_inCh_fixed (l : Lio) (p q c : Nat) (f : InChan → InChan) (h : f (l.inCh c) = l.inCh c) :
    ((l.modIn p f).modIn q f).inCh c = l.inCh c := by
  have hfirst := l.modIn_inCh_fixed p c f h
  exact ((l.modIn p f).modIn_inCh_fixed q c f (by rw [hfirst, h])).trans hfirst

theorem Lio.mapIns_inCh (l : Lio) (f : Nat → InChan → InChan) (c : Nat) (h : c < l.ins.length) :
    ({ l with ins := l.ins.mapIdx f } : Lio).inCh c = f c (l.inCh c) :=
  getD_mapIdx_of_lt l.ins InChan.reset f c h

/-- The pair timers end DISC and change no channel in another state (R265, R266). -/
theorem Lio.watchPairs_inCh (l : Lio) (t c : Nat) (h : (l.inCh c).state ≠ stDISC) : (l.watchPairs t).inCh c = l.inCh c := by
  refine List.foldlRecOn (motive := fun m : Lio => m.inCh c = l.inCh c) l.pairs _ rfl fun m hm p _ => ?_
  rw [← hm] at h ⊢
  dsimp only
  split
  · split
    · exact Lio.modIn_both_inCh_fixed _ p.1 p.2 c _ (if_neg h)
    · rfl
  · rfl

/-- At the end of an action a channel that is not in DISC is as the action made it. -/
theorem Lio.done_inCh (old new : Lio) (t c : Nat) (x : InChan) (h : new.inCh c = x) (hx : x.state ≠ stDISC) :
    (Lio.done old new t).1.inCh c = x := by
  subst h
  obtain ⟨w, hw⟩ := Lio.done_raise old new t
  exact (congrArg (Lio.inCh · c) hw).trans (new.watchPairs_inCh t c hx)

@[simp] theorem Lio.modTp_inCh (l : Lio) (g : Nat) (f : TpSup → TpSup) (c : Nat) : (l.modTp g f).inCh c = l.inCh c := rfl
@[simp] theorem Lio.ite_error_inCh (l : Lio) (found : Bool) (code level c : Nat) :
    (if found then l.error code level else l).inCh c = l.inCh c := by
  cases found <;> rfl

/-! ### Fault states of an input (R265) -/

section
variable (x : InChan) (st fc : Nat)

theorem InChan.fault_enters (h : x.state ≤ st) (hst : st < 7) : (x.fault st fc).state = st := by
  have hnot : ¬ (x.state = stUNUSED ∨ x.state > st) := by unfold stUNUSED; omega
  rw [InChan.fault, if_neg hnot]
  rfl
theorem InChan.fault_tfail_ne_disc : (x.fault stTFAIL fc).state ≠ stDISC := by
  unfold InChan.fault
  split
  · next h =>
    simp only [stUNUSED, stTFAIL, stDISC] at h ⊢
    omega
  · exact (by decide : stTFAIL ≠ stDISC)
theorem InChan.fault_of_higher (h : st < x.state) : x.fault st fc = x := if_pos (Or.inr h)
end

/-! ### Threshold injections (R262) -/

section
variable (l : Lio) (c t : Nat) (bands : List Nat)
variable (hrun : l.running = true) (hsup : (l.tpSup (c / 12)).state = 1 ∨ (l.tpSup (c / 12)).state = 2) (hc : c < l.ins.length)
  (hu : l.inUse c ≠ 0) (hwrong : bands.getD (c % 12) bandBREAK ≠ injectBand (l.tpSup (c / 12)).level)
  (hagain : (l.inCh c).wrongLv.testBit (l.tpSup (c / 12)).level = true)
include hrun hsup hc hu hwrong hagain

/-- A level that shows a wrong band again makes the channel TFAIL, unless a state of higher code stands. -/
theorem Lio.inject_wrong_again : (l.inject (c / 12) t bands).1.inCh c = { (l.inCh c).fault stTFAIL 5 with rightRun := 0 } := by
  have hgoes : (!l.running || (l.tpSup (c / 12)).state == 0 || (l.tpSup (c / 12)).state == 3) = false := by
    obtain h | h := hsup <;> simp [hrun, h]
  have hnot : ¬ (c / 12 ≠ c / 12 ∨ l.inUse c = 0) := by simp [hu]
  unfold Lio.inject
  rw [hgoes]
  refine Lio.done_inCh _ _ t c _ ?_ ((l.inCh c).fault_tfail_ne_disc 5)
  rw [Lio.ite_error_inCh, Lio.modTp_inCh, l.mapIns_inCh _ c hc, if_neg hnot, if_neg hwrong, if_pos hagain]

/-- A channel of R265's first seven states, OFF to TFAIL, is then in TFAIL. -/
theorem Lio.inject_wrong_again_tfail (hx : (l.inCh c).state ≤ stTFAIL) : ((l.inject (c / 12) t bands).1.inCh c).state = stTFAIL := by
  rw [l.inject_wrong_again c t bands hrun hsup hc hu hwrong hagain]
  exact (l.inCh c).fault_enters stTFAIL 5 hx (by decide)

/-- A channel whose state lies beyond the states of R265 keeps it. -/
theorem Lio.inject_wrong_again_beyond (hx : stTFAIL < (l.inCh c).state) :
    ((l.inject (c / 12) t bands).1.inCh c).state = (l.inCh c).state := by
  rw [l.inject_wrong_again c t bands hrun hsup hc hu hwrong hagain, (l.inCh c).fault_of_higher stTFAIL 5 hx]
end

/-! ### A channel state that R265 does not have -/

/-- An energised controller with DI000 in use, whose channel stands in state 8 and has shown a wrong band at level 0 of its supply. -/
def beyondUnused : Lio :=
  { Lio.reset with
    sps := List.replicate 0x40 0 ++ [1], active := true, tp := Lio.reset.tp.set 0 ⟨1, false, 0⟩
    ins := Lio.reset.ins.set 0 { InChan.reset with state := 8, wrongLv := 1 } }

theorem exec_thresholdInjection (g : Nat) (bands : List Nat) (t : Nat) (s : State) :
    exec (.thresholdInjection g bands t) s = s.at t fun m => m.lioInject g bands := rfl

/-- Refutes O36 in its clause on TFAIL: the statement excludes state 7 of a channel and no other above TFAIL, and in `beyondUnused` DI000
stands in state 8, which R265 does not have. A second wrong injection of level 0 leaves it there, since 8 is above TFAIL. -/
theorem not_inputChannelsFollowTheirStates : ¬ Obligations.InputChannelsFollowTheirStates := by
  unfold Obligations.InputChannelsFollowTheirStates
  intro h
  let m : Mod := { Mod.reset with lio := beyondUnused }
  have hagain : (beyondUnused.inCh 0).wrongLv.testBit (beyondUnused.tpSup 0).level = true := by decide
  have hwrong : ([bandON].getD 0 bandBREAK) ≠ injectBand (beyondUnused.tpSup 0).level := by decide
  have hu : beyondUnused.inUse 0 ≠ 0 := by decide
  obtain ⟨-, hclauses⟩ := h ⟨[], m⟩ 0 0 0 [bandON]
  obtain ⟨-, -, -, -, -, -, -, -, hinject, -⟩ := hclauses rfl rfl rfl (by decide) (by decide) hu (by decide)
  obtain ⟨u, hnext, -, -, htfail, -⟩ := hinject rfl (by decide) (Or.inl (by decide)) (by decide) hwrong
  rw [exec_thresholdInjection, State.at_next, Host.Outcome.next.injEq] at hnext
  subst hnext
  have hkept : (((m.advance 0).lioInject 0 [bandON]).lio.inCh 0).state = 8 := by
    rw [Mod.lioInject, Mod.lioDo_lio _ _ rfl]
    exact beyondUnused.inject_wrong_again_beyond 0 _ [bandON] rfl (Or.inl (by decide)) (by decide) hu hwrong hagain (by decide)
  exact absurd (hkept.symm.trans (htfail hagain)) (by decide)

end Sys2Proof.Machine
end

