-- ==== Sys2Proof/Proofs/KstPorts.lean ====
section
/-!
SUPPORT and the settled statement on the KST ports and the timers of an association: a PRP frame is delivered once, supervision frames
leave every 2 s, and what the commands of the association timers do to each running lane by itself (10_older_interfaces_and_bridging.md
R315, R316, R320, R321, R502).
-/
namespace Sys2Proof.Machine

/-! ### One byte of a byte string -/

theorem Bytes.le_byte {bs : Bytes} {i : Nat} {b : Byte} (h : bs[i]? = some b) : Bytes.le bs i 1 = b.toNat := by
  simp [Bytes.le, List.take_one, List.head?_drop, h, Bytes.nat]

theorem byteOf_zero_toNat (v : Nat) : (byteOf v 0).toNat = v % 256 := by simp [byteOf_toNat]

/-! ### A lane's association table -/

section
variable (l : LaneKst) (a : Nat) (x : Assoc) (m : KstMsg)

@[simp] theorem LaneKst.assoc_setAssoc : (l.setAssoc a x).assoc a = x := SMap.get_set_self ..
@[simp] theorem LaneKst.queue_assoc : (l.queue m).assoc a = l.assoc a := rfl
@[simp] theorem Assoc.close_st : x.close.st = .closed := rfl
end

/-- What a CONNECT says of its sender: its versions, and for CLASS 2 its links (R320). -/
def AssocRec.offer (r : AssocRec) : Bytes := leBytes 1 r.vmin ++ leBytes 1 r.vmax ++ (if r.cls = 2 then leBytes 4 (r.lsig false) else [])

theorem AssocRec.offer_vmin (r : AssocRec) : Bytes.le r.offer 0 1 = r.vmin % 256 :=
  (Bytes.le_byte (b := byteOf r.vmin 0) rfl).trans (byteOf_zero_toNat r.vmin)

theorem AssocRec.offer_vmax (r : AssocRec) : Bytes.le r.offer 1 1 = r.vmax % 256 :=
  (Bytes.le_byte (b := byteOf r.vmax 0) rfl).trans (byteOf_zero_toNat r.vmax)

section
variable {l : LaneKst} {a now : Nat} {r : AssocRec} (hr : l.recOf a = some r)
include hr

theorem LaneKst.connectSend_due (hi : r.init = true) (hc : (l.assoc a).st = .closed)
    (hd : ∀ u, (l.assoc a).connectAt = some u → u + 1000000000 ≤ now) :
    l.connectSend a now = (l.setAssoc a { l.assoc a with connectAt := some now }).queue ⟨a, 1, 0, 0, none, r.offer⟩ := by
  rw [LaneKst.connectSend, hr]
  refine if_pos ⟨hi, hc, ?_⟩
  cases hu : (l.assoc a).connectAt with
  | none => rfl
  | some u => exact decide_eq_true (hd u hu)

theorem LaneKst.connectSend_of_not_closed_init (h : r.init = false ∨ (l.assoc a).st ≠ .closed) : l.connectSend a now = l := by
  rw [LaneKst.connectSend, hr]
  refine if_neg fun ⟨hi, hc, _⟩ => ?_
  rcases h with h | h
  · rw [h] at hi
    cases hi
  · exact h hc

theorem LaneKst.expire_due (ho : (l.assoc a).st = .open') (hd : (l.assoc a).acceptedAt + r.tmax * 1000000 ≤ now) :
    l.expire a now = (l.queue ⟨a, 4, (l.assoc a).ver, 0, none, leBytes 1 3⟩).setAssoc a (l.assoc a).close := by
  rw [LaneKst.expire, hr]
  exact if_pos ⟨ho, hd⟩

theorem LaneKst.expire_early (hd : now < (l.assoc a).acceptedAt + r.tmax * 1000000) : l.expire a now = l := by
  rw [LaneKst.expire, hr]
  exact if_neg fun ⟨_, h⟩ => absurd h (Nat.not_le.mpr hd)

end

/-! ### The lanes that run -/

/-- An event of the association tables reaches each running lane by itself. -/
theorem Mod.kstLanes_running (m : Mod) (f : Lane → LaneSt → LaneSt) {x : Lane} (hx : x ∈ m.running) :
    (m.kstLanes f).lane x = f x (m.lane x) := by
  rw [Mod.kstLanes, Mod.foldl_modLane_lane f x m.running m m.running_nodup, if_pos hx]

theorem Mod.kstConnectSend_kst (m : Mod) (a : Nat) {x : Lane} (hx : x ∈ m.running) :
    ((m.kstConnectSend a).lane x).kst = (m.lane x).kst.connectSend a (m.lane x).rt.ctime := by
  rw [Mod.kstConnectSend, m.kstLanes_running _ hx]

theorem Mod.kstExpire_kst (m : Mod) (a : Nat) {x : Lane} (hx : x ∈ m.running) :
    ((m.kstExpire a).lane x).kst = (m.lane x).kst.expire a (m.lane x).rt.ctime := by
  rw [Mod.kstExpire, m.kstLanes_running _ hx]

/-! ### The ports (R315, R316) -/

@[simp] theorem Mod.deliver_kst (m : Mod) (p : Path) (i : Item) : (m.deliver p i).kst = m.kst := (congrArg Mod.kst (m.deliver_lanes_only p i) :)

/-- A frame once seen is remembered while fewer than 65,536 are. -/
theorem KstPorts.mem_take_seen (k : KstPorts) (src seq : Nat) (h : k.seen.length < 65536) : (src, seq) ∈ (k.take src seq).seen := by
  have hnone : k.seen.length + 1 - 65536 = 0 := Nat.sub_eq_zero_of_le (Nat.succ_le_of_lt h)
  have hall : (k.take src seq).seen = k.seen ++ [(src, seq)] := by rw [KstPorts.take, hnone, List.drop_zero]
  rw [hall]
  exact List.mem_append_right k.seen List.mem_cons_self

theorem KstPorts.take_stamp (k : KstPorts) (src seq : Nat) (b : Bytes) : (k.take src seq).stamp b = k.stamp b := by
  unfold KstPorts.stamp KstPorts.take
  rfl

/-- A duplicate, and a frame on a port that is down, goes no further. -/
theorem Mod.kstFrame_discarded (m : Mod) {port : Chan} {src seq : Nat} (body : Bytes)
    (h : m.kst.up.get port = false ∨ (src, seq) ∈ m.kst.seen) : m.kstFrame port src seq body = m := by
  refine if_pos (h.imp_right fun hs => ?_)
  simpa [KstPorts.fresh] using hs

/-- A first frame is noted, and its PDU delivered with the stamp of its peer. -/
theorem Mod.kstFrame_stamped (m : Mod) {port : Chan} {src seq : Nat} {body : Bytes} {r : AssocRec} (hu : m.kst.up.get port = true)
    (hn : (src, seq) ∉ m.kst.seen) (hr : m.kst.stamp body = some r) :
    m.kstFrame port src seq body
      = ({ m with kst := m.kst.take src seq } : Mod).deliver .kst ⟨m.obx.mcn, r.cls, r.anum, pduSeq body, .pdu, body⟩ := by
  have hfresh : ¬ (m.kst.up.get port = false ∨ m.kst.fresh src seq = false) := by
    simp [hu, KstPorts.fresh, hn]
  rw [Mod.kstFrame, if_neg hfresh, Mod.kstStamped, KstPorts.take_stamp, hr]
  rfl

/-- A lane that is on, its KST port open, gets an item of KST at the end of its ring. -/
theorem Mod.deliver_kst_ring (m : Mod) (i : Item) {x : Lane} (hp : (m.lane x).powered = true) (hh : (m.lane x).tdm.portHeld 2 = false) :
    (((m.deliver .kst i).lane x).rings.get .kst).items = ((m.lane x).rings.get .kst).items ++ [i] := by
  have htakes : m.takes .kst x = true := by simp [Mod.takes, hp]
  rw [m.deliver_lane .kst i x, if_pos htakes, LaneSt.take_rings _ .kst i hh, Rings.push, Rings.get_set_self]

/-- A supervision frame on a port that is up. -/
def Mod.supervise (m : Mod) (c : Chan) : Mod := if m.kst.up.get c then m.send .ethernet (Config.prpSupervision m.sid) else m

theorem Mod.supervise_only (m : Mod) (c : Chan) : m.supervise c = { m with sent := (m.supervise c).sent } := by
  unfold Mod.supervise
  split <;> rfl

theorem Mod.supervise_sent_length (m : Mod) (c : Chan) : (m.supervise c).sent.length = m.sent.length + b2n (m.kst.up.get c) := by
  unfold Mod.supervise
  cases m.kst.up.get c <;> simp [b2n]

theorem Mod.prpSupervision_early (m : Mod) (h : m.kst.superDue m.clock = false) : m.prpSupervision = m := if_pos h

theorem Mod.prpSupervision_due (m : Mod) (h : m.kst.superDue m.clock = true) :
    m.prpSupervision = { (m.supervise .a).supervise .b with kst := { m.kst with superAt := some m.clock } } := by
  have hkst : ((m.supervise .a).supervise .b).kst = m.kst := by rw [Mod.supervise_only, Mod.supervise_only]
  rw [← hkst, Mod.prpSupervision, if_neg (by simp [h])]
  rfl

theorem KstPorts.superDue_early (k : KstPorts) {u t : Nat} (hu : k.superAt = some u) (ht : t < u + 2000000000) : k.superDue t = false := by
  rw [KstPorts.superDue, hu]
  exact decide_eq_false (Nat.not_le.mpr ht)

/-! ### The commands -/

section
variable (t : Nat) (s : State)
theorem exec_kstFrameReceive (port : Chan) (src seq : Nat) (body : Bytes) :
    exec (.kstFrameReceive port src seq body t) s = s.at t fun m => m.kstFrame port src seq body := rfl
theorem exec_prpSupervision : exec (.prpSupervision t) s = s.at t fun m => m.prpSupervision := rfl
theorem exec_connectSend (a : Nat) : exec (.connectSend a t) s = s.at t fun m => m.kstConnectSend a := rfl
theorem exec_kstTmaxExpire (a : Nat) : exec (.kstTmaxExpire a t) s = s.at t fun m => m.kstExpire a := rfl
end

/-- Settles O43: a frame is delivered once because its source and number are remembered, and the association timers act on each running lane
by itself. -/
theorem kstPortsAndAssociationTimers : Obligations.KstPortsAndAssociationTimers := by
  unfold Obligations.KstPortsAndAssociationTimers
  intro s port src seq t body x r m0 l
  have hsend (a : Nat) (hx : x ∈ s.m.running) : ((m0.kstConnectSend a).lane x).kst = l.kst.connectSend a l.rt.ctime :=
    m0.kstConnectSend_kst a hx
  have hexpire (a : Nat) (hx : x ∈ s.m.running) : ((m0.kstExpire a).lane x).kst = l.kst.expire a l.rt.ctime := m0.kstExpire_kst a hx
  refine ⟨fun rec' hup hnew hrec => ?_, fun h => ?_, fun hdue => ?_, fun u hu ht => ?_, fun a hx hr => ⟨fun hi hc hd => ?_, fun h => ?_,
    fun ho hd => ?_, fun hd => ?_⟩⟩
  · refine Completes.of_at (exec_kstFrameReceive t s port src seq body) ?_
    rw [(s.m.advance t).kstFrame_stamped hup hnew hrec, Mod.deliver_kst]
    exact ⟨fun hn => (s.m.advance t).kst.mem_take_seen src seq hn, fun hp hh => Mod.deliver_kst_ring _ _ hp hh⟩
  · rw [exec_kstFrameReceive, State.at_unchanged _ _ _ ((s.m.advance t).kstFrame_discarded body h)]
  · refine Completes.of_at (exec_prpSupervision t s) ?_
    rw [Mod.prpSupervision_due _ hdue]
    refine ⟨rfl, ?_, ?_⟩
    · show ((m0.supervise .a).supervise .b).sent.length = _
      rw [Mod.supervise_sent_length, Mod.supervise_sent_length, Mod.supervise_only]
      rfl
    · show ((m0.supervise .a).supervise .b).lanes = _
      rw [Mod.supervise_only, Mod.supervise_only]
      rfl
  · rw [exec_prpSupervision, State.at_unchanged _ _ _ (Mod.prpSupervision_early _ (KstPorts.superDue_early _ hu ht))]
  · refine Completes.of_at (exec_connectSend t s a) ?_
    rw [hsend a hx, LaneKst.connectSend_due hr hi hc hd, LaneKst.queue_assoc, LaneKst.assoc_setAssoc]
    exact ⟨rfl, hc, r.offer, rfl, r.offer_vmin, r.offer_vmax⟩
  · refine Completes.of_at (exec_connectSend t s a) ?_
    rw [hsend a hx, LaneKst.connectSend_of_not_closed_init hr h]
  · refine Completes.of_at (exec_kstTmaxExpire t s a) ?_
    rw [hexpire a hx, LaneKst.expire_due hr ho hd, LaneKst.assoc_setAssoc]
    exact ⟨rfl, rfl⟩
  · refine Completes.of_at (exec_kstTmaxExpire t s a) ?_
    rw [hexpire a hx, LaneKst.expire_early hr hd]
    exact ⟨rfl, rfl⟩

end Sys2Proof.Machine
end

