-- ==== Sys2Proof/Proofs/KstPdus.lean ====
section
/-!
SUPPORT and the settled statement on accepted PDUs: what one agreed PDU does to the association table of a lane, what it asks of the rest of
the lane, and when it waits for an inbox slot (10_older_interfaces_and_bridging.md R319, R320, R322 to R325, R502).
-/
namespace Sys2Proof.Machine

/-! ### One PDU in the association table -/

theorem LaneKst.recOf_anum {l : LaneKst} {a : Nat} {r : AssocRec} (h : l.recOf a = some r) : r.anum = a :=
  beq_iff_eq.mp (List.find?_some (p := fun z : AssocRec => z.anum == a) h)

section
variable {l : LaneKst} {r : AssocRec} {vk : Nat → Nat → Bytes} {now ct : Nat} {i : Item} (hr : l.recOf i.num = some r)
include hr

theorem LaneKst.pdu_discarded (hok : pduOk r (l.assoc r.anum) i.cls now (vk r.anum) i.body = false) :
    l.pdu vk now ct i = (l.setAssoc r.anum { l.assoc r.anum with discarded := (l.assoc r.anum).discarded + 1 }, []) := by
  rw [LaneKst.pdu, hr]
  exact if_pos hok

theorem LaneKst.noSlot_eq :
    l.noSlot vk now i = (decide (256 ≤ l.inbox.length) && pduOk r (l.assoc r.anum) i.cls now (vk r.anum) i.body
      && mtypeOk (l.assoc r.anum) i.body && needsSlot r i.body) := by
  rw [LaneKst.noSlot, hr]

variable (hok : pduOk r (l.assoc r.anum) i.cls now (vk r.anum) i.body = true)
include hok

theorem LaneKst.pdu_connect (hp : pduType i.body = 1) : l.pdu vk now ct i = (l.connect r ct i.body, []) := by
  simp [LaneKst.pdu, hr, hok, hp]

theorem LaneKst.pdu_accept (hp : pduType i.body = 2) : l.pdu vk now ct i = (l.acceptAns r ct i.body, []) := by
  simp [LaneKst.pdu, hr, hok, hp]

theorem LaneKst.pdu_close (hp : pduType i.body = 4) :
    l.pdu vk now ct i = (if (l.assoc r.anum).st = .closed then l else l.setAssoc r.anum (l.assoc r.anum).close, []) := by
  simp [LaneKst.pdu, hr, hok, hp]

theorem LaneKst.pdu_data (hp : pduType i.body = 3) (hm : mtypeOk (l.assoc r.anum) i.body = true) :
    l.pdu vk now ct i = (l.dataHead r ct i.body).route r i.amc i.body := by
  have hknown : mtypeKnown (l.assoc r.anum) i.body = true := by
    rw [mtypeOk, Bool.and_eq_true] at hm
    exact hm.1
  simp [LaneKst.pdu, hr, hok, hp, hm, hknown]

end

/-! ### CONNECT (R320) -/

section
variable (l : LaneKst) {r : AssocRec} (ct : Nat) {b : Bytes}

theorem LaneKst.connect_no_version (h : version r (Bytes.le (pduPayload b) 0 1) (Bytes.le (pduPayload b) 1 1) = none) :
    l.connect r ct b = (l.setAssoc r.anum (l.assoc r.anum).close).queue ⟨r.anum, 4, 0, 0, some (pduTs b), leBytes 1 1⟩ := by
  simp [LaneKst.connect, h]

theorem LaneKst.connect_answered {v : Nat} (h : version r (Bytes.le (pduPayload b) 0 1) (Bytes.le (pduPayload b) 1 1) = some v)
    (hl : r.cls ≠ 2 ∨ Bytes.le (pduPayload b) 2 4 = r.lsig true) :
    l.connect r ct b = (l.setAssoc r.anum { (l.assoc r.anum).close with
      st := .connecting, ver := v, seqOut := 0, lastSeq := 0, lastTs := pduTs b, acceptedAt := ct }).queue
        ⟨r.anum, 2, v, 0, none, leBytes 1 v⟩ := by
  have hlink : ¬ (r.cls = 2 ∧ Bytes.le (pduPayload b) 2 4 ≠ r.lsig true) := fun ⟨hc, hne⟩ => hl.elim (· hc) hne
  simp only [LaneKst.connect, h]
  exact if_neg hlink

end

/-! ### DATA (R322) -/

section
variable (l : LaneKst) (r : AssocRec) (amc : Nat) {b : Bytes}

@[simp] theorem LaneKst.dataHead_st (ct : Nat) : ((l.dataHead r ct b).assoc r.anum).st = .open' := by
  rw [LaneKst.dataHead, LaneKst.modAssoc, LaneKst.assoc_setAssoc]

theorem roleOk_route : roleOk r 1 = r.canRoute := rfl
theorem roleOk_arel : roleOk r 2 = r.canArel := rfl
theorem roleOk_link (mt : Nat) (hm : mt = 0x10 ∨ mt = 0x11) (hc : r.cls = 2) : roleOk r mt = true := by
  rcases hm with rfl | rfl <;> simp [roleOk, hc]
theorem roleOk_application (mt : Nat) (h : 0x100 ≤ mt) : roleOk r mt = true := by
  have h1 : mt ≠ 1 := by omega
  have h2 : mt ≠ 2 := by omega
  have h3 : ¬ (mt = 0x10 ∨ mt = 0x11) := by omega
  have h4 : ¬ (mt = 0x41 ∨ mt = 0x42) := by omega
  rw [roleOk, if_neg h1, if_neg h2, if_neg h3, if_neg h4]

theorem LaneKst.route_heartbeat (hm : pduMtype b = 0) : l.route r amc b = (l, []) := if_pos hm

theorem LaneKst.route_request (hm : pduMtype b = 1) (hr : r.canRoute = true) :
    l.route r amc b = (l, [.request r.anum r.cls amc (pduSeq b) (Bytes.le (pduPayload b) 0 1) (Bytes.le (pduPayload b) 2 2)
      ((Bytes.le (pduPayload b) 1 1).testBit 0) (Bytes.le (pduPayload b) 4 4)]) := by
  simp [LaneKst.route, hm, roleOk_route, hr]

/-- A ROUTE_OP without the role is answered ROLE and noted (R323). -/
theorem LaneKst.route_refused (hm : pduMtype b = 1) (hr : r.canRoute = false) :
    l.route r amc b = (l.data r.anum 0x81 (routeAnswer (pduSeq b)
      (refusedAnswer 0xE0 (Bytes.le (pduPayload b) 0 1) (Bytes.le (pduPayload b) 2 2))), [.note (kstRoleEvt r.anum 1)]) := by
  simp [LaneKst.route, hm, roleOk_route, hr]

theorem LaneKst.route_arel_refused (hm : pduMtype b = 2) (hr : r.canArel = false) :
    l.route r amc b = (l, [.note (kstRoleEvt r.anum 2)]) := by
  simp [LaneKst.route, hm, roleOk_arel, hr]

theorem LaneKst.route_links (hm : pduMtype b = 0x10) (hc : r.cls = 2) :
    l.route r amc b = (l, (linkRecs r (pduPayload b)).map KstEff.link) := by
  simp [LaneKst.route, hm, roleOk_link r 0x10 (Or.inl rfl) hc]

/-- Every other message goes to the inbox (R322, R324). -/
theorem LaneKst.route_inbox (h0 : pduMtype b ≠ 0) (h1 : pduMtype b ≠ 1) (hl : pduMtype b ≠ 0x10) (hr : roleOk r (pduMtype b) = true) :
    l.route r amc b
      = ({ l with inbox := l.inbox ++ [⟨r.anum, r.cls, r.roles, pduMtype b, pduSeq b, amc, pduPayload b⟩] }, []) := by
  simp [LaneKst.route, h0, h1, hl, hr]

end

/-! ### Which PDUs need an inbox slot (R322, R324) -/

theorem needsSlot_control {r : AssocRec} {b : Bytes} (h : pduType b ≠ 3) : needsSlot r b = false := by
  simp [needsSlot, h]

theorem needsSlot_own_table {r : AssocRec} {b : Bytes} (h : pduMtype b = 0 ∨ pduMtype b = 1 ∨ pduMtype b = 0x10) : needsSlot r b = false := by
  rcases h with h | h | h <;> simp [needsSlot, h]

theorem needsSlot_without_role {r : AssocRec} {b : Bytes} (h : roleOk r (pduMtype b) = false) : needsSlot r b = false := by
  simp [needsSlot, h]

theorem needsSlot_application {r : AssocRec} {b : Bytes} (hp : pduType b = 3) (hl : 0x100 ≤ pduMtype b) (hh : pduMtype b ≤ 0x7FFF) :
    needsSlot r b = true := by
  simp [needsSlot, hp, roleOk_application r _ hl, hl, hh]

/-! ### What a PDU asks of the rest of the lane -/

/-- One effect of an accepted PDU that came in minor cycle `amc`, in the lane of source number `me`. -/
def LaneSt.kstEffect (me amc : Nat) (l : LaneSt) (e : KstEff) : LaneSt :=
  match e with
  | .request a cls amc seq op route q life =>
    { l with rt := { l.rt with requests := l.rt.requests ++ [⟨kstDesc a cls amc seq op route q life, none⟩] } }
  | .link x => { l with rt := { l.rt with links := l.rt.links ++ [⟨x.e, amc, x.rec'⟩] } }
  | .note ev => l.stage { ev with src := me }

theorem LaneSt.kstPdu_eq (l : LaneSt) (me t0 ct : Nat) (i : Item) :
    l.kstPdu me t0 ct i =
      (l.kst.pdu (fun a x => l.keyOf 4 (4 * a + x)) (t0 + 4000000 * (i.amc + 1)) ct i).2.foldl (LaneSt.kstEffect me i.amc)
        { l with kst := (l.kst.pdu (fun a x => l.keyOf 4 (4 * a + x)) (t0 + 4000000 * (i.amc + 1)) ct i).1 } := rfl

theorem LaneSt.kstEffect_kst (me amc : Nat) (l : LaneSt) (e : KstEff) : (l.kstEffect me amc e).kst = l.kst := by cases e <;> rfl

theorem LaneSt.foldl_kstEffect_links (me amc : Nat) (zs : List LinkRec) (l : LaneSt) :
    (zs.map KstEff.link).foldl (LaneSt.kstEffect me amc) l
      = { l with rt := { l.rt with links := l.rt.links ++ zs.map fun z => ⟨z.e, amc, z.rec'⟩ } } := by
  induction zs generalizing l with
  | nil => simp
  | cons z zs ih =>
    rw [List.map_cons, List.foldl_cons, ih]
    simp [LaneSt.kstEffect]

/-- The LINK_STATE records of this minor cycle reach their input records with age 0 (R325). -/
theorem LaneSt.linkWrite_tcm (me : Nat) (zs : List LinkRec) (l : LaneSt) (h : l.rt.links = []) :
    ((zs.map KstEff.link).foldl (LaneSt.kstEffect me l.rt.amc) l).linkWrite.tcm = zs.foldl (fun mem z => recFrom mem z.e 0 z.rec') l.tcm := by
  rw [LaneSt.foldl_kstEffect_links, h]
  simp [LaneSt.linkWrite, List.foldl_map]

@[simp] theorem LaneSt.linkWrite_kst (l : LaneSt) : l.linkWrite.kst = l.kst := rfl

/-! ### One agreed PDU in one lane -/

/-- A PDU of association `a`, agreed in the lane's present cycle. -/
def LaneSt.pduItem (l : LaneSt) (cls a : Nat) (body : Bytes) : Item := ⟨l.rt.amc, cls, a, pduSeq body, .pdu, body⟩

/-- Whether it passes the checks of R319 at the end of its arrival minor cycle. -/
def LaneSt.pduPasses (l : LaneSt) (r : AssocRec) (t0 cls : Nat) (body : Bytes) : Bool :=
  pduOk r (l.kst.assoc r.anum) cls (t0 + 4000000 * (l.rt.amc + 1)) (fun y => l.keyOf 4 (4 * r.anum + y)) body

/-- What it makes of the association table, and what it asks of the rest of the lane. -/
def LaneSt.pduStep (l : LaneSt) (t0 cls a : Nat) (body : Bytes) : LaneKst × List KstEff :=
  l.kst.pdu (fun a x => l.keyOf 4 (4 * a + x)) (t0 + 4000000 * (l.rt.amc + 1)) l.rt.ctime (l.pduItem cls a body)

/-- What the lane makes of it. -/
def LaneSt.pduEvent (l : LaneSt) (me t0 cls a : Nat) (body : Bytes) : LaneSt := l.kstEvent me t0 (l.pduItem cls a body)

theorem Mod.kstPduDo_running (m : Mod) {sel : Bytes → Bool} {a : Nat} {body : Bytes} {q : AssocRec} {x : Lane}
    (hq : (m.kst.recs.find? fun z => z.anum == a) = some q) (hs : sel body = true) (hx : x ∈ m.running) :
    (m.kstPduDo sel a body).lane x = (m.lane x).pduEvent x.idx m.obx.t0 q.cls a body := by
  rw [Mod.kstPduDo, hq]
  show (if sel body = true then _ else m).lane x = _
  rw [if_pos hs, m.kstLanes_running _ hx]
  rfl

section
variable {l : LaneSt} {r : AssocRec} {me t0 cls : Nat} {body : Bytes} (hr : l.kst.recOf r.anum = some r)
include hr

theorem LaneSt.noSlot_pduItem :
    l.kst.noSlot (fun a x => l.keyOf 4 (4 * a + x)) (t0 + 4000000 * (l.rt.amc + 1)) (l.pduItem cls r.anum body)
      = (decide (256 ≤ l.kst.inbox.length) && l.pduPasses r t0 cls body && mtypeOk (l.kst.assoc r.anum) body && needsSlot r body) :=
  LaneKst.noSlot_eq hr

/-- Without a slot the message waits in the items of the next cycle, and the table stands (R324). -/
theorem LaneSt.pduEvent_waits (hf : 256 ≤ l.kst.inbox.length) (hok : l.pduPasses r t0 cls body = true)
    (hm : mtypeOk (l.kst.assoc r.anum) body = true) (hn : needsSlot r body = true) :
    l.pduEvent me t0 cls r.anum body = { l with items := l.items ++ [l.pduItem cls r.anum body] } := by
  refine if_pos ((LaneSt.noSlot_pduItem hr).trans ?_)
  rw [decide_eq_true hf, hok, hm, hn]
  rfl

/-- A PDU that needs no slot, finds one, or fails a check, has its effect. -/
theorem LaneSt.pduEvent_taken (h : l.kst.inbox.length < 256 ∨ l.pduPasses r t0 cls body = false ∨ needsSlot r body = false) :
    l.pduEvent me t0 cls r.anum body = ((l.pduStep t0 cls r.anum body).2.foldl (LaneSt.kstEffect me l.rt.amc)
      { l with kst := (l.pduStep t0 cls r.anum body).1 }).linkWrite := by
  have hslot : ¬ l.kst.noSlot (fun a x => l.keyOf 4 (4 * a + x)) (t0 + 4000000 * (l.rt.amc + 1)) (l.pduItem cls r.anum body) = true := by
    rw [LaneSt.noSlot_pduItem hr]
    rcases h with h | h | h
    · simp [Nat.not_le.mpr h]
    · simp [h]
    · simp [h]
  calc l.pduEvent me t0 cls r.anum body
      = (l.kstPdu me t0 l.rt.ctime (l.pduItem cls r.anum body)).linkWrite := if_neg hslot
    _ = _ := congrArg LaneSt.linkWrite (l.kstPdu_eq me t0 l.rt.ctime _)

theorem LaneSt.pduEvent_kst (h : l.kst.inbox.length < 256 ∨ l.pduPasses r t0 cls body = false ∨ needsSlot r body = false) :
    (l.pduEvent me t0 cls r.anum body).kst = (l.pduStep t0 cls r.anum body).1 := by
  rw [LaneSt.pduEvent_taken hr h, LaneSt.linkWrite_kst]
  exact foldl_keeps LaneSt.kst _ _ _ fun l e => l.kstEffect_kst me _ e

theorem LaneSt.pduStep_discarded (hok : l.pduPasses r t0 cls body = false) :
    l.pduStep t0 cls r.anum body
      = (l.kst.setAssoc r.anum { l.kst.assoc r.anum with discarded := (l.kst.assoc r.anum).discarded + 1 }, []) :=
  LaneKst.pdu_discarded hr hok

theorem LaneSt.pduStep_connect (hp : pduType body = 1) (hok : l.pduPasses r t0 cls body = true) :
    l.pduStep t0 cls r.anum body = (l.kst.connect r l.rt.ctime body, []) :=
  LaneKst.pdu_connect hr hok hp

theorem LaneSt.pduStep_accept (hp : pduType body = 2) (hok : l.pduPasses r t0 cls body = true) :
    l.pduStep t0 cls r.anum body = (l.kst.acceptAns r l.rt.ctime body, []) :=
  LaneKst.pdu_accept hr hok hp

theorem LaneSt.pduStep_close (hp : pduType body = 4) (hok : l.pduPasses r t0 cls body = true) :
    l.pduStep t0 cls r.anum body
      = (if (l.kst.assoc r.anum).st = .closed then l.kst else l.kst.setAssoc r.anum (l.kst.assoc r.anum).close, []) :=
  LaneKst.pdu_close hr hok hp

theorem LaneSt.pduStep_data (hp : pduType body = 3) (hok : l.pduPasses r t0 cls body = true)
    (hm : mtypeOk (l.kst.assoc r.anum) body = true) :
    l.pduStep t0 cls r.anum body = (l.kst.dataHead r l.rt.ctime body).route r l.rt.amc body :=
  LaneKst.pdu_data hr hok hp hm

/-- An accepted DATA PDU: its supervision part, then what the table of R322 says of its message. -/
theorem LaneSt.pduEvent_data {k : LaneKst} {es : List KstEff} (h : l.kst.inbox.length < 256 ∨ needsSlot r body = false)
    (hp : pduType body = 3) (hok : l.pduPasses r t0 cls body = true) (hm : mtypeOk (l.kst.assoc r.anum) body = true)
    (hroute : (l.kst.dataHead r l.rt.ctime body).route r l.rt.amc body = (k, es)) :
    l.pduEvent me t0 cls r.anum body = (es.foldl (LaneSt.kstEffect me l.rt.amc) { l with kst := k }).linkWrite := by
  rw [LaneSt.pduEvent_taken hr (h.imp_right Or.inr), LaneSt.pduStep_data hr hp hok hm, hroute]

/-- A message for the inbox takes the next slot, and the association is open. -/
theorem LaneSt.pduEvent_inbox (hf : l.kst.inbox.length < 256) (hp : pduType body = 3) (hok : l.pduPasses r t0 cls body = true)
    (hm : mtypeOk (l.kst.assoc r.anum) body = true) (h0 : pduMtype body ≠ 0) (h1 : pduMtype body ≠ 1) (hl : pduMtype body ≠ 0x10)
    (hrole : roleOk r (pduMtype body) = true) :
    (l.pduEvent me t0 cls r.anum body).kst.inbox
        = l.kst.inbox ++ [⟨r.anum, r.cls, r.roles, pduMtype body, pduSeq body, l.rt.amc, pduPayload body⟩] ∧
      ((l.pduEvent me t0 cls r.anum body).kst.assoc r.anum).st = .open' := by
  rw [LaneSt.pduEvent_data hr (Or.inl hf) hp hok hm (LaneKst.route_inbox _ r _ h0 h1 hl hrole)]
  exact ⟨rfl, LaneKst.dataHead_st l.kst r l.rt.ctime⟩

end

/-! ### The commands -/

section
variable (a : Nat) (body : Bytes) (t : Nat) (s : State)
theorem exec_connect : exec (.connect a body t) s = s.at t fun m => m.kstPduDo isCONNECT a body := rfl
theorem exec_accept : exec (.accept a body t) s = s.at t fun m => m.kstPduDo isACCEPT a body := rfl
theorem exec_close : exec (.close a body t) s = s.at t fun m => m.kstPduDo isCLOSE a body := rfl
theorem exec_heartbeat : exec (.heartbeat a body t) s = s.at t fun m => m.kstPduDo (isDATA 0) a body := rfl
theorem exec_routeOp : exec (.routeOp a body t) s = s.at t fun m => m.kstPduDo (isDATA 1) a body := rfl
theorem exec_areaRel : exec (.areaRel a body t) s = s.at t fun m => m.kstPduDo (isDATA 2) a body := rfl
theorem exec_linkState : exec (.linkState a body t) s = s.at t fun m => m.kstPduDo (isDATA 0x10) a body := rfl
theorem exec_linkCmd : exec (.linkCmd a body t) s = s.at t fun m => m.kstPduDo (isDATA 0x11) a body := rfl
theorem exec_applicationMessage : exec (.applicationMessage a body t) s = s.at t fun m => m.kstPduDo isAPP a body := rfl
end

theorem isDATA_of {mt : Nat} {b : Bytes} (hp : pduType b = 3) (hm : pduMtype b = mt) : isDATA mt b = true := by
  simp [isDATA, hp, hm]

theorem isAPP_of {b : Bytes} (hp : pduType b = 3) (hl : 0x100 ≤ pduMtype b) (hh : pduMtype b ≤ 0x7FFF) : isAPP b = true := by
  simp [isAPP, hp, hl, hh]

/-- A command of the KST families completes with the agreed PDU's effect in each running lane. -/
theorem Completes.of_pduEvent {c : Instr} {s : State} {t a : Nat} {body : Bytes} {sel : Bytes → Bool} {q : AssocRec} {x : Lane} {P : Mod → Prop}
    (hc : exec c s = s.at t fun m => m.kstPduDo sel a body) (hq : (s.m.kst.recs.find? fun z => z.anum == a) = some q) (hx : x ∈ s.m.running)
    (hs : sel body = true) (hp : ∀ m : Mod, m.lane x = (s.m.lane x).pduEvent x.idx s.m.obx.t0 q.cls a body → P m) : Completes c s P :=
  Completes.of_at hc (hp _ ((s.m.advance t).kstPduDo_running hq hs hx))

/-- Settles O44: the checks decide whether a PDU has any effect, and the effect of one that passes is that of its PTYPE and MTYPE. -/
theorem acceptedPdusTakeEffect : Obligations.AcceptedPdusTakeEffect := by
  unfold Obligations.AcceptedPdusTakeEffect
  intro s x a t body r q hx hq hr
  obtain rfl := LaneKst.recOf_anum hr
  intro l e pl mt ok st data msg
  have hcontrol {n : Nat} (hp : pduType body = n) (hn : n ≠ 3) : needsSlot r body = false := needsSlot_control (hp ▸ hn)
  refine ⟨fun hp hok => ?_, fun hp hok => ⟨fun hv => ?_, fun v hv hl => ?_⟩, fun hp hok => ?_, fun hp hok => ?_, fun ⟨hp, hok, hm⟩ hmt => ?_,
    fun ⟨hp, hok, hm⟩ hmt => ⟨fun hrole => ?_, fun hrole => ?_⟩, fun ⟨hp, hok, hm⟩ hmt hrole hf => ?_, fun ⟨hp, hok, hm⟩ hmt hrole => ?_,
    fun ⟨hp, hok, hm⟩ hmt hc hl => ?_, fun ⟨hp, hok, hm⟩ hmt hc hf => ?_, fun ⟨hp, hok, hm⟩ hlow hhigh => ⟨fun hf => ?_, fun hf => ?_⟩⟩
  · refine Completes.of_pduEvent (exec_connect _ body t s) hq hx (beq_iff_eq.mpr hp) fun m hlane => ?_
    rw [hlane, LaneSt.pduEvent_kst hr (Or.inr (Or.inl hok)), LaneSt.pduStep_discarded hr hok]
    exact ⟨LaneKst.assoc_setAssoc .., rfl⟩
  · refine Completes.of_pduEvent (exec_connect _ body t s) hq hx (beq_iff_eq.mpr hp) fun m hlane => ?_
    simp only [st]
    rw [hlane, LaneSt.pduEvent_kst hr (Or.inr (Or.inr (hcontrol hp (by decide)))), LaneSt.pduStep_connect hr hp hok,
      LaneKst.connect_no_version _ _ hv, LaneKst.queue_assoc, LaneKst.assoc_setAssoc]
    exact ⟨rfl, rfl⟩
  · refine Completes.of_pduEvent (exec_connect _ body t s) hq hx (beq_iff_eq.mpr hp) fun m hlane => ?_
    simp only [st]
    rw [hlane, LaneSt.pduEvent_kst hr (Or.inr (Or.inr (hcontrol hp (by decide)))), LaneSt.pduStep_connect hr hp hok,
      LaneKst.connect_answered _ _ hv hl, LaneKst.queue_assoc, LaneKst.assoc_setAssoc]
    exact ⟨rfl, rfl, rfl⟩
  · refine Completes.of_pduEvent (exec_accept _ body t s) hq hx (beq_iff_eq.mpr hp) fun m hlane => ?_
    simp only [st]
    rw [hlane, LaneSt.pduEvent_kst hr (Or.inr (Or.inr (hcontrol hp (by decide)))), LaneSt.pduStep_accept hr hp hok,
      LaneKst.acceptAns, LaneKst.modAssoc, LaneKst.assoc_setAssoc]
    exact ⟨rfl, rfl⟩
  · refine Completes.of_pduEvent (exec_close _ body t s) hq hx (beq_iff_eq.mpr hp) fun m hlane => ?_
    simp only [st]
    rw [hlane, LaneSt.pduEvent_kst hr (Or.inr (Or.inr (hcontrol hp (by decide)))), LaneSt.pduStep_close hr hp hok]
    split
    next hclosed => exact ⟨hclosed, rfl⟩
    next => exact ⟨by rw [LaneKst.assoc_setAssoc, Assoc.close_st], rfl⟩
  · refine Completes.of_pduEvent (exec_heartbeat _ body t s) hq hx (isDATA_of hp hmt) fun m hlane => ?_
    simp only [st]
    rw [hlane, LaneSt.pduEvent_data hr (Or.inr (needsSlot_own_table (Or.inl hmt))) hp hok hm (LaneKst.route_heartbeat _ r _ hmt)]
    exact ⟨LaneKst.dataHead_st .., rfl, rfl⟩
  · refine Completes.of_pduEvent (exec_routeOp _ body t s) hq hx (isDATA_of hp hmt) fun m hlane => ?_
    rw [hlane, LaneSt.pduEvent_data hr (Or.inr (needsSlot_own_table (Or.inr (Or.inl hmt)))) hp hok hm (LaneKst.route_request _ r _ hmt hrole)]
    exact ⟨rfl, rfl⟩
  · refine Completes.of_pduEvent (exec_routeOp _ body t s) hq hx (isDATA_of hp hmt) fun m hlane => ?_
    rw [hlane, LaneSt.pduEvent_data hr (Or.inr (needsSlot_own_table (Or.inr (Or.inl hmt)))) hp hok hm (LaneKst.route_refused _ r _ hmt hrole)]
    exact ⟨rfl, List.length_append, List.length_append⟩
  · refine Completes.of_pduEvent (exec_areaRel _ body t s) hq hx (isDATA_of hp hmt) fun m hlane => ?_
    rw [hlane]
    exact (LaneSt.pduEvent_inbox hr hf hp hok hm (by omega) (by omega) (by omega) ((congrArg (roleOk r) hmt).trans hrole)).1
  · have hnoRole : roleOk r (pduMtype body) = false := (congrArg (roleOk r) hmt).trans hrole
    refine Completes.of_pduEvent (exec_areaRel _ body t s) hq hx (isDATA_of hp hmt) fun m hlane => ?_
    rw [hlane, LaneSt.pduEvent_data hr (Or.inr (needsSlot_without_role hnoRole)) hp hok hm (LaneKst.route_arel_refused _ r _ hmt hrole)]
    exact ⟨rfl, List.length_append⟩
  · refine Completes.of_pduEvent (exec_linkState _ body t s) hq hx (isDATA_of hp hmt) fun m hlane => ?_
    rw [hlane, LaneSt.pduEvent_data hr (Or.inr (needsSlot_own_table (Or.inr (Or.inr hmt)))) hp hok hm (LaneKst.route_links _ r _ hmt hc)]
    have htcm := LaneSt.linkWrite_tcm x.idx (linkRecs r pl) { l with kst := l.kst.dataHead r l.rt.ctime body } hl
    refine ⟨htcm, ?_⟩
    rw [LaneSt.foldl_kstEffect_links]
    rfl
  · refine Completes.of_pduEvent (exec_linkCmd _ body t s) hq hx (isDATA_of hp hmt) fun m hlane => ?_
    rw [hlane]
    exact (LaneSt.pduEvent_inbox hr hf hp hok hm (by omega) (by omega) (by omega) (roleOk_link r _ (Or.inr hmt) hc)).1
  · refine Completes.of_pduEvent (exec_applicationMessage _ body t s) hq hx (isAPP_of hp hlow hhigh) fun m hlane => ?_
    simp only [st]
    rw [hlane]
    exact LaneSt.pduEvent_inbox hr hf hp hok hm (by omega) (by omega) (by omega) (roleOk_application r _ hlow)
  · refine Completes.of_pduEvent (exec_applicationMessage _ body t s) hq hx (isAPP_of hp hlow hhigh) fun m hlane => ?_
    rw [hlane, LaneSt.pduEvent_waits hr hf hok hm (needsSlot_application hp hlow hhigh)]
    exact ⟨rfl, rfl⟩

end Sys2Proof.Machine
end

