-- ==== Sys2Proof/Proofs/DraipBridge.lean ====
section
/-!
SUPPORT and the settled statement on the bridge's visits: how an exchange is sent, what an answer, a missing answer and an orphan leave of the
bridge and hand to the lanes (10_older_interfaces_and_bridging.md R296 to R298, R302).
-/
namespace Sys2Proof.Machine

/-! ### Folds that hand out things on their way -/

/-- One step of a fold over `xs` that changes a state and hands things out, in order. -/
def handOut {σ α β : Type} (g : σ → α → σ × List β) (acc : σ × List β) (e : α) : σ × List β := ((g acc.1 e).1, acc.2 ++ (g acc.1 e).2)

section
variable {σ α β : Type} (g : σ → α → σ × List β)

theorem foldl_handOut_grows (xs : List α) (acc : σ × List β) : ∃ later, (xs.foldl (handOut g) acc).2 = acc.2 ++ later := by
  induction xs generalizing acc with
  | nil => exact ⟨[], (List.append_nil _).symm⟩
  | cons e xs ih =>
    obtain ⟨later, h⟩ := ih (handOut g acc e)
    exact ⟨(g acc.1 e).2 ++ later, by rw [List.foldl_cons, h, handOut, List.append_assoc]⟩

theorem foldl_handOut_mem {R : β → Prop} (xs : List α) (e : α) (he : e ∈ xs) (h : ∀ s, ∃ o ∈ (g s e).2, R o) (acc : σ × List β) :
    ∃ o ∈ (xs.foldl (handOut g) acc).2, R o := by
  induction xs generalizing acc with
  | nil => cases he
  | cons y ys ih =>
    rw [List.foldl_cons]
    rcases List.mem_cons.mp he with rfl | hy
    · obtain ⟨o, ho, hR⟩ := h acc.1
      obtain ⟨later, hl⟩ := foldl_handOut_grows g ys (handOut g acc e)
      exact ⟨o, by rw [hl]; exact List.mem_append_left _ (List.mem_append_right _ ho), hR⟩
    · exact ih hy _

theorem foldl_handOut_keeps {γ : Type} (p : σ → γ) (h : ∀ s e, p (g s e).1 = p s) (xs : List α) (acc : σ × List β) :
    p (xs.foldl (handOut g) acc).1 = p acc.1 :=
  foldl_keeps (fun acc : σ × List β => p acc.1) (handOut g) xs acc fun acc e => h acc.1 e

end

/-! ### A mover that writes a ring leaves every port as it was -/

/-- A RING channel that writes is running and goes on or stops with an error: no port is held by that (R442, R445, R447). -/
theorem Tdm.ringWrite_portHeld (t : Tdm) (s : LaneSpace) (port q : Nat) (bs : Bytes) (h : t.portHeld q = false) :
    (t.ringWrite s port bs).1.portHeld q = false := by
  have hset (n : Nat) (c : TdmChan) (t' : Tdm) (hc : c.st ≠ .paused) (ht : t'.portHeld q = false) : (t'.setChan n c).portHeld q = false := by
    simp only [Tdm.portHeld, Tdm.setChan, List.any_eq_false] at ht ⊢
    intro y hy
    rcases List.mem_or_eq_of_mem_set hy with hy | rfl
    · exact ht y hy
    · simp [hc]
  unfold Tdm.ringWrite
  split
  next => exact h
  next k hk =>
    have hrun : (t.chan k).st = .running := by
      have := List.find?_some hk
      simp only [Bool.and_eq_true, beq_iff_eq] at this
      exact this.1.1
    have hdone : (t.setChan k { t.chan k with done := (t.chan k).done + bs.length }).portHeld q = false :=
      hset k _ t (by simp [hrun]) h
    dsimp only
    split
    · exact hdone
    · exact hset k _ _ (by simp) hdone

section
variable (l : LaneSt) (p : Path) (i : Item)

@[simp] theorem LaneSt.take_powered : (l.take p i).powered = l.powered := by
  unfold LaneSt.take
  split <;> rfl

theorem LaneSt.take_portHeld (q : Nat) (h : l.tdm.portHeld q = false) : (l.take p i).tdm.portHeld q = false := by
  unfold LaneSt.take
  split
  · exact h
  · exact l.tdm.ringWrite_portHeld _ _ q _ h

/-- What waits in a ring stays there; an item at most joins it. -/
theorem LaneSt.take_grows (q : Path) : ∃ later, ((l.take p i).rings.get q).items = (l.rings.get q).items ++ later := by
  by_cases h : l.tdm.portHeld p.port = true
  · exact ⟨[], by rw [LaneSt.take_held l p i h, List.append_nil]⟩
  · rw [LaneSt.take_rings l p i (by simpa using h), Rings.push]
    by_cases hq : q = p
    · subst hq
      exact ⟨[i], by rw [Rings.get_set_self]⟩
    · exact ⟨[], by rw [Rings.get_set_ne _ _ _ _ hq, List.append_nil]⟩

end

/-! ### What the bridge hands out -/

/-- The items that wait in a lane's Draip ring. -/
def Mod.draipItems (m : Mod) (x : Lane) : List Item := ((m.lane x).rings.get .draip).items

/-- The lane takes items of the bridge, and its port is open. -/
def Mod.draipOpen (m : Mod) (x : Lane) : Prop := m.takes .draip x = true ∧ (m.lane x).tdm.portHeld 4 = false

/-- A telegram on a port: no lane sees it. -/
def DrOut.isLine : DrOut → Bool
  | .line .. => true
  | _ => false

section
variable (m : Mod) (x : Lane)

@[simp] theorem Mod.deliver_drp (p : Path) (i : Item) : (m.deliver p i).drp = m.drp := (congrArg Mod.drp (m.deliver_lanes_only p i) :)
@[simp] theorem Mod.deliver_obx (p : Path) (i : Item) : (m.deliver p i).obx = m.obx := (congrArg Mod.obx (m.deliver_lanes_only p i) :)

@[simp] theorem Mod.drOut_drp (o : DrOut) : (m.drOut o).drp = m.drp := by cases o <;> simp [Mod.drOut]
@[simp] theorem Mod.drOut_obx (o : DrOut) : (m.drOut o).obx = m.obx := by cases o <;> simp [Mod.drOut]

@[simp] theorem Mod.drOuts_drp (os : List DrOut) : (m.drOuts os).drp = m.drp := foldl_keeps Mod.drp Mod.drOut os m fun _ _ => Mod.drOut_drp ..

theorem Mod.drOuts_cons (o : DrOut) (os : List DrOut) : m.drOuts (o :: os) = (m.drOut o).drOuts os := rfl

/-- Telegrams on the ports reach no lane. -/
theorem Mod.drOuts_lines (os : List DrOut) (h : ∀ o ∈ os, o.isLine = true) : (m.drOuts os).lanes = m.lanes := by
  induction os generalizing m with
  | nil => rfl
  | cons o os ih =>
    rw [m.drOuts_cons, ih _ fun o' ho => h o' (List.mem_cons_of_mem o ho)]
    cases o with
    | line => rfl
    | item => exact absurd (h _ List.mem_cons_self) Bool.false_ne_true
    | record => exact absurd (h _ List.mem_cons_self) Bool.false_ne_true

/-- What a lane becomes by one thing the bridge hands out. -/
theorem Mod.drOut_lane (o : DrOut) : (m.drOut o).lane x = m.lane x ∨ ∃ i, (m.drOut o).lane x = (m.lane x).take .draip i := by
  cases o with
  | line => exact Or.inl rfl
  | record => exact Or.inl rfl
  | item num seq kind body =>
    rw [Mod.drOut, m.deliver_lane]
    split
    · exact Or.inr ⟨_, rfl⟩
    · exact Or.inl rfl

theorem Mod.drOut_open (o : DrOut) (h : m.draipOpen x) : (m.drOut o).draipOpen x := by
  obtain ⟨htakes, hport⟩ := h
  rw [Mod.takes, Bool.and_eq_true] at htakes
  unfold Mod.draipOpen
  rw [Mod.takes, Bool.and_eq_true, m.drOut_drp]
  rcases m.drOut_lane x o with hl | ⟨i, hl⟩ <;> rw [hl]
  · exact ⟨htakes, hport⟩
  · exact ⟨⟨(LaneSt.take_powered ..).trans htakes.1, htakes.2⟩, LaneSt.take_portHeld _ _ _ 4 hport⟩

theorem Mod.drOuts_grows (os : List DrOut) : ∃ later, (m.drOuts os).draipItems x = m.draipItems x ++ later := by
  induction os generalizing m with
  | nil => exact ⟨[], (List.append_nil _).symm⟩
  | cons o os ih =>
    obtain ⟨later, h⟩ := ih (m.drOut o)
    have hone : ∃ first, (m.drOut o).draipItems x = m.draipItems x ++ first := by
      unfold Mod.draipItems
      rcases m.drOut_lane x o with hl | ⟨i, hl⟩ <;> rw [hl]
      · exact ⟨[], (List.append_nil _).symm⟩
      · exact LaneSt.take_grows _ _ _ _
    obtain ⟨first, hf⟩ := hone
    exact ⟨first ++ later, by rw [m.drOuts_cons, h, hf, List.append_assoc]⟩

/-- An open lane gets an item of the bridge at the end of its ring. -/
theorem Mod.drOut_item_ring (num seq : Nat) (kind : ItemKind) (body : Bytes) (h : m.draipOpen x) :
    (m.drOut (.item num seq kind body)).draipItems x = m.draipItems x ++ [⟨m.obx.mcn, 4, num, seq, kind, body⟩] := by
  rw [Mod.draipItems, Mod.drOut, m.deliver_lane, if_pos h.1, LaneSt.take_rings _ _ _ h.2, Rings.push, Rings.get_set_self]
  rfl

/-- An item handed out first stands directly behind what waited. -/
theorem Mod.drOuts_item_first (num seq : Nat) (kind : ItemKind) (body : Bytes) (os : List DrOut) (h : m.draipOpen x) :
    ∃ later, (m.drOuts (.item num seq kind body :: os)).draipItems x = m.draipItems x ++ ⟨m.obx.mcn, 4, num, seq, kind, body⟩ :: later := by
  obtain ⟨later, hl⟩ := (m.drOut (.item num seq kind body)).drOuts_grows x os
  exact ⟨later, by rw [m.drOuts_cons, hl, m.drOut_item_ring x num seq kind body h, List.append_assoc, List.singleton_append]⟩

/-- Every item handed out is in the ring of an open lane. -/
theorem Mod.drOuts_item_mem (num seq : Nat) (kind : ItemKind) (body : Bytes) (os : List DrOut) (ho : DrOut.item num seq kind body ∈ os)
    (h : m.draipOpen x) : ⟨m.obx.mcn, 4, num, seq, kind, body⟩ ∈ (m.drOuts os).draipItems x := by
  induction os generalizing m with
  | nil => cases ho
  | cons o os ih =>
    rcases List.mem_cons.mp ho with rfl | hos
    · obtain ⟨later, hl⟩ := m.drOuts_item_first x num seq kind body os h
      rw [hl]
      exact List.mem_append_right _ List.mem_cons_self
    · rw [m.drOuts_cons, ← m.drOut_obx o]
      exact ih _ hos (m.drOut_open x o h)

end

/-! ### One device of the bridge -/

section
variable (b : Drp) (d : Nat) (y : DrDev)

@[simp] theorem Drp.dev_setDev : (b.setDev d y).dev d = y := SMap.get_set_self ..
@[simp] theorem Drp.dev_modDev (f : DrDev → DrDev) : (b.modDev d f).dev d = f (b.dev d) := b.dev_setDev d _
@[simp] theorem Drp.setDev_lanes : (b.setDev d y).lanes = b.lanes := rfl
@[simp] theorem Drp.dev_raise (w : Word32) : (b.raise w).dev d = b.dev d := rfl
@[simp] theorem Drp.dev_error (code level : Nat) : (b.error code level).dev d = b.dev d := rfl
@[simp] theorem Drp.dev_item (num : Nat) (kind : ItemKind) (body : Bytes) : (b.item num kind body).1.dev d = b.dev d := rfl
@[simp] theorem Drp.item_lanes (num : Nat) (kind : ItemKind) (body : Bytes) : (b.item num kind body).1.lanes = b.lanes := rfl
@[simp] theorem Drp.error_errcap (code level : Nat) (x : Lane) :
    ((b.error code level).lanes.get x).errcap = captureErr (b.lanes.get x).errcap code level := by
  simp [Drp.error]
end

/-! ### Sending an exchange (R295, R296) -/

theorem telegram_telSeq (b : Brt) (d tnum tseq : Nat) (data : Bytes) : telSeq (telegram b d tnum tseq data) = tseq % 256 :=
  (Bytes.le_byte (b := BitVec.ofNat 8 tseq) rfl).trans (BitVec.toNat_ofNat ..)

section
variable (b : Drp) (d : Nat)

theorem Drp.sendHead_nil (h : (b.dev d).agenda = []) : b.sendHead d = (b, []) := by
  simp only [Drp.sendHead, h]

/-- The exchange at the head leaves as one telegram with the next TSEQ; the agenda and the age stand. -/
theorem Drp.sendHead_cons (h : (b.dev d).agenda ≠ []) :
    ∃ y tnum data, b.sendHead d = (b.setDev d y, [.line (d / 32) (telegram b.brt d tnum (((b.dev d).txSeq + 1) % 256) data)]) ∧
      y.agenda = (b.dev d).agenda ∧ y.age = (b.dev d).age ∧ y.txSeq = ((b.dev d).txSeq + 1) % 256 := by
  unfold Drp.sendHead
  dsimp only
  split
  next hnil => exact absurd hnil h
  next n rest hc =>
    split
    · exact ⟨_, _, _, rfl, rfl, rfl, rfl⟩
    · exact ⟨_, _, _, rfl, rfl, rfl, rfl⟩
  next n rest hc => exact ⟨_, _, _, rfl, rfl, rfl, rfl⟩
  next rest hc => exact ⟨_, _, _, rfl, rfl, rfl, rfl⟩
  next rest hc => exact ⟨_, _, _, rfl, rfl, rfl, rfl⟩

/-- What the bridge keeps of a device while it sends: agenda and age; nothing goes to the lanes. -/
theorem Drp.sendHead_spec :
    ((b.sendHead d).1.dev d).agenda = (b.dev d).agenda ∧ ((b.sendHead d).1.dev d).age = (b.dev d).age ∧
      (b.sendHead d).1.lanes = b.lanes ∧ ∀ o ∈ (b.sendHead d).2, o.isLine = true := by
  by_cases h : (b.dev d).agenda = []
  · rw [b.sendHead_nil d h]
    exact ⟨rfl, rfl, rfl, nofun⟩
  · obtain ⟨y, tnum, data, heq, hag, hage, -⟩ := b.sendHead_cons d h
    rw [heq, b.dev_setDev]
    exact ⟨hag, hage, rfl, fun o ho => by rw [List.mem_singleton.mp ho]; rfl⟩

/-- The end of an exchange takes it off the agenda; nothing goes to the lanes. -/
theorem Drp.advance_spec :
    ((b.advance d).1.dev d).agenda = (b.dev d).agenda.drop 1 ∧ ((b.advance d).1.dev d).age = (b.dev d).age ∧
      (b.advance d).1.lanes = b.lanes ∧ ∀ o ∈ (b.advance d).2, o.isLine = true := by
  have h := (b.modDev d fun x => { x with agenda := x.agenda.drop 1 }).sendHead_spec d
  rwa [b.dev_modDev] at h

/-- A failed poll is not repeated: the error is captured and the visit goes on (R296). -/
theorem Drp.exchangeFailed_poll {n : Nat} {rest : List DrStep} (code reason : Nat) (h : (b.dev d).agenda = .poll n :: rest) :
    b.exchangeFailed d code reason = (b.error code 7).advance d := by
  rw [Drp.exchangeFailed]
  simp only [Drp.dev_error, h]

theorem Drp.missing_poll {n : Nat} {rest : List DrStep} (ha : b.active = true) (hc : b.ctlflt = false)
    (h : (b.dev d).agenda = .poll n :: rest) : b.missing d = (b.error 2 7).advance d := by
  rw [Drp.missing, if_neg (by simp [ha, hc]), b.exchangeFailed_poll d 2 2 h]

theorem Drp.answer_invalid_poll {n : Nat} {rest : List DrStep} {tel : Bytes} (t : Nat) (ha : b.active = true) (hc : b.ctlflt = false)
    (h : (b.dev d).agenda = .poll n :: rest) (hv : telValid b.brt d tel = false) : b.answer d t tel = (b.error 1 7).advance d := by
  rw [Drp.answer, if_neg (by simp [ha, hc]), if_pos hv, b.exchangeFailed_poll d 1 3 h]

theorem Drp.answer_valid_poll {n : Nat} {rest : List DrStep} {tel : Bytes} (t : Nat) (ha : b.active = true) (hc : b.ctlflt = false)
    (h : (b.dev d).agenda = .poll n :: rest) (hv : telValid b.brt d tel = true) (hn : telNum tel = n) :
    b.answer d t tel = (((b.deliverTel d tel).1.advance d).1, (b.deliverTel d tel).2 ++ ((b.deliverTel d tel).1.advance d).2) := by
  rw [Drp.answer, if_neg (by simp [ha, hc]), if_neg (by simp [hv])]
  simp only [h, hn, if_true]

end

/-! ### Deliveries (R298, R302) -/

/-- What of the bridge a delivery leaves alone: the agenda and the age of the device, and whether a lane's view is enabled. -/
def Drp.view (b : Drp) (d : Nat) (x : Lane) : List DrStep × Nat × Bool := ((b.dev d).agenda, (b.dev d).age, (b.lanes.get x).ctrl.getLsbD 0)

section
variable (b : Drp) (d : Nat) (x : Lane)

theorem Drp.view_modDev (f : DrDev → DrDev) (h : ∀ y, (f y).agenda = y.agenda ∧ (f y).age = y.age) : (b.modDev d f).view d x = b.view d x := by
  rw [Drp.view, b.dev_modDev, (h _).1, (h _).2]
  rfl
@[simp] theorem Drp.view_raise (w : Word32) : (b.raise w).view d x = b.view d x := by
  simp [Drp.view, Drp.raise, Drp.dev]
@[simp] theorem Drp.view_error (code level : Nat) : (b.error code level).view d x = b.view d x := by
  simp [Drp.view, Drp.error, Drp.dev]
@[simp] theorem Drp.view_item (num : Nat) (kind : ItemKind) (body : Bytes) : (b.item num kind body).1.view d x = b.view d x := rfl
@[simp] theorem Drp.view_clearError (d' : Nat) : (b.clearError d').1.view d x = b.view d x := by
  unfold Drp.clearError
  dsimp only
  split <;> rfl

theorem Drp.view_deliverEvent (e : DrEvent) : (b.deliverEvent d e).1.view d x = b.view d x := by
  unfold Drp.deliverEvent
  dsimp only
  split
  next =>
    rw [Drp.view_clearError]
    split
    · rw [Drp.view_modDev, Drp.view_item]
      exact fun _ => ⟨rfl, rfl⟩
    · rw [Drp.view_raise, Drp.view_modDev, Drp.view_item]
      exact fun _ => ⟨rfl, rfl⟩
  next =>
    split
    · rw [Drp.view_modDev, Drp.view_item]
      exact fun _ => ⟨rfl, rfl⟩
    · rw [Drp.view_item]

/-- The bridge once it has noted a telegram as delivered, its age gone back to 0 and the events that waited for it taken. -/
def Drp.noted (tel : Bytes) : Drp :=
  (b.item d .telegram tel).1.setDev d
    { b.dev d with delivered := SMap.set 0 (b.dev d).delivered (telNum tel) (telSeq tel + 1), age := 0,
                   events := (b.dev d).events.filter fun e => !(e.tnum == telNum tel && e.tseq == telSeq tel) }

theorem Drp.deliverTel_eq (tel : Bytes) :
    b.deliverTel d tel = ((b.dev d).events.filter fun e => e.tnum == telNum tel && e.tseq == telSeq tel).foldl
      (handOut fun b' e => b'.deliverEvent d e) (b.noted d tel, (b.item d .telegram tel).2) := rfl

/-- A delivered telegram goes out first and unchanged; the age starts afresh. -/
theorem Drp.deliverTel_spec (tel : Bytes) :
    (b.deliverTel d tel).1.view d x = ((b.dev d).agenda, 0, (b.lanes.get x).ctrl.getLsbD 0) ∧
      ∃ seq later, (b.deliverTel d tel).2 = .item d seq .telegram tel :: later := by
  rw [b.deliverTel_eq]
  refine ⟨?_, ?_⟩
  · rw [foldl_handOut_keeps (fun (b' : Drp) e => b'.deliverEvent d e) (fun b' => b'.view d x) fun b' e => b'.view_deliverEvent d x e]
    simp [Drp.view, Drp.noted]
  · obtain ⟨later, h⟩ := foldl_handOut_grows (fun (b' : Drp) e => b'.deliverEvent d e)
      ((b.dev d).events.filter fun e => e.tnum == telNum tel && e.tseq == telSeq tel) (b.noted d tel, (b.item d .telegram tel).2)
    exact ⟨_, later, h⟩

end

/-! ### Orphans (R302) -/

section
variable (b : Drp) (d : Nat)

/-- An event whose telegram has not come is captured and delivered as an orphan. -/
def Drp.orphan (e : DrEvent) : Drp × List DrOut := (b.error 5 7).item d .event (sideBody (e.ecode ||| 0x80) e.tnum e.tseq)

/-- Whether an event has waited for two Draip cycles. -/
def Drp.late (t : Nat) (e : DrEvent) : Bool := decide (e.since + 2 * b.brt.dcyc (d / 32) * 1000000 ≤ t)

theorem Drp.orphans_eq (t : Nat) :
    b.orphans d t = if (b.dev d).events.filter (b.late d t) = [] then (b, [])
      else ((b.dev d).events.filter (b.late d t)).foldl (handOut fun b' e => b'.orphan d e)
        ((b.setDev d { b.dev d with events := (b.dev d).events.filter fun e => !b.late d t e }).raise brgORPH, []) := rfl

/-- A late event leaves the bridge and is handed out; whether a lane's view is enabled stands. -/
theorem Drp.orphans_late (t : Nat) {e : DrEvent} (he : e ∈ (b.dev d).events) (hl : b.late d t e = true) :
    e ∉ ((b.orphans d t).1.dev d).events ∧ (∃ seq, DrOut.item d seq .event (sideBody (e.ecode ||| 0x80) e.tnum e.tseq) ∈ (b.orphans d t).2) ∧
      ∀ x, ((b.orphans d t).1.lanes.get x).ctrl = (b.lanes.get x).ctrl := by
  have hdue : e ∈ (b.dev d).events.filter (b.late d t) := List.mem_filter.mpr ⟨he, hl⟩
  rw [b.orphans_eq, if_neg (List.ne_nil_of_mem hdue)]
  refine ⟨?_, ?_, fun x => ?_⟩
  · rw [foldl_handOut_keeps (fun (b' : Drp) e => b'.orphan d e) (fun b' => b'.dev d) fun _ _ => rfl, Drp.dev_raise, Drp.dev_setDev]
    simp [hl]
  · have hone (b' : Drp) : ∃ o ∈ (b'.orphan d e).2, ∃ seq, DrOut.item d seq .event (sideBody (e.ecode ||| 0x80) e.tnum e.tseq) = o :=
      ⟨_, List.mem_singleton_self _, _, rfl⟩
    obtain ⟨o, ho, seq, rfl⟩ := foldl_handOut_mem (fun (b' : Drp) e => b'.orphan d e) _ e hdue hone _
    exact ⟨seq, ho⟩
  · rw [foldl_handOut_keeps (fun (b' : Drp) e => b'.orphan d e) (fun b' => (b'.lanes.get x).ctrl) fun b' e' => by simp [Drp.orphan, Drp.error]]
    simp [Drp.raise]

end

/-! ### A visit (R296) -/

/-- The exchanges of a visit: commands, polls in TNUM order, the side-band exchange. -/
def Drp.agenda (b : Drp) (d : Nat) : List DrStep :=
  (if b.safeImg then b.brt.commandTels d else (b.brt.commandTels d).filter (· ∈ (b.dev d).posted)).map DrStep.command
    ++ (b.brt.inputTels d).map DrStep.poll
    ++ (if (b.dev d).msgForm then (if (b.dev d).evcnt = 0 then [] else [DrStep.event]) else [DrStep.status])

theorem Drp.visit_off (b : Drp) (d t : Nat) (h : b.active = false ∨ b.ctlflt = true) : b.visit d t = (b, []) := by
  refine if_neg fun ⟨ha, hc, _⟩ => ?_
  rcases h with h | h
  · simp [h] at ha
  · simp [h] at hc

/-- A visit sets the agenda and sends its first exchange. -/
theorem Drp.visit_used (b : Drp) (d t : Nat) (h : b.active = true ∧ b.ctlflt = false ∧ b.mapOk = true ∧ b.brt.devUsed d = true) :
    ∃ b' : Drp, b.visit d t = b'.sendHead d ∧ (b'.dev d).agenda = b.agenda d ∧ (b'.dev d).txSeq = (b.dev d).txSeq ∧ b'.lanes = b.lanes :=
  ⟨_, if_pos h, by rw [Drp.dev_setDev]; rfl, by rw [Drp.dev_setDev], rfl⟩

/-! ### The bridge in the module -/

section
variable (m : Mod) (f : Drp → Drp × List DrOut)

theorem Mod.drpDo_full (h : m.full = true) : m.drpDo f = ({ m with drp := (f m.drp).1 } : Mod).drOuts (f m.drp).2 := if_pos h

theorem Mod.drpDo_drp (h : m.full = true) : (m.drpDo f).drp = (f m.drp).1 := by
  rw [m.drpDo_full f h, Mod.drOuts_drp]

theorem Mod.drpDo_nothing (h : f m.drp = (m.drp, [])) : m.drpDo f = m := by
  unfold Mod.drpDo
  rw [h]
  split <;> rfl

theorem Mod.drpDo_lanes (hf : m.full = true) (h : ∀ o ∈ (f m.drp).2, o.isLine = true) : (m.drpDo f).lanes = m.lanes := by
  rw [m.drpDo_full f hf, Mod.drOuts_lines _ _ h]

/-- An action of the bridge that leaves a lane's view enabled leaves the lane open. -/
theorem Mod.draipOpen_of_ctrl {b : Drp} {x : Lane} (h : m.draipOpen x)
    (hc : (b.lanes.get x).ctrl.getLsbD 0 = (m.drp.lanes.get x).ctrl.getLsbD 0) : ({ m with drp := b } : Mod).draipOpen x := by
  obtain ⟨htakes, hport⟩ := h
  refine ⟨?_, hport⟩
  rw [Mod.takes, Bool.and_eq_true] at htakes ⊢
  exact ⟨htakes.1, hc.trans htakes.2⟩

end

theorem Mod.drpVisit_off (m : Mod) (d : Nat) (h : m.drp.active = false ∨ m.drp.ctlflt = true) : m.drpVisit d = m :=
  m.drpDo_nothing _ (m.drp.visit_off d m.clock h)

section
variable (d t : Nat) (s : State)
theorem exec_draipVisit : exec (.draipVisit d t) s = s.at t fun m => m.drpVisit d := rfl
theorem exec_draipAnswerReceive (tel : Bytes) : exec (.draipAnswerReceive d tel t) s = s.at t fun m => m.drpAnswer d tel := rfl
theorem exec_draipAnswerTimeout : exec (.draipAnswerTimeout d t) s = s.at t fun m => m.drpMissing d := rfl
theorem exec_draipOrphan : exec (.draipOrphan d t) s = s.at t fun m => m.drpOrphans d := rfl
end

theorem exec_draipVisit_off (d t : Nat) (s : State) (h : s.m.drp.active = false ∨ s.m.drp.ctlflt = true) :
    exec (.draipVisit d t) s = .next { s with m := s.m.advance t } := by
  rw [exec_draipVisit, State.at_unchanged s t (fun m => m.drpVisit d) ((s.m.advance t).drpVisit_off d h)]

/-- A poll that failed: its error captured in every lane's view, the visit goes on, nothing for the lanes. -/
theorem Mod.drpDo_pollFailed (m : Mod) {f : Drp → Drp × List DrOut} {d n code : Nat} {rest : List DrStep} (x : Lane) (hf : m.full = true)
    (ha : (m.drp.dev d).agenda = .poll n :: rest) (h : f m.drp = (m.drp.error code 7).advance d) :
    ((m.drpDo f).drp.dev d).agenda = rest ∧ (m.drpDo f).lanes = m.lanes ∧
      ((m.drpDo f).drp.lanes.get x).errcap = captureErr (m.drp.lanes.get x).errcap code 7 := by
  obtain ⟨hag, -, hlanes, hlines⟩ := (m.drp.error code 7).advance_spec d
  refine ⟨?_, m.drpDo_lanes f hf (by rwa [h]), ?_⟩
  · rw [m.drpDo_drp f hf, h, hag, Drp.dev_error, ha]
    rfl
  · rw [m.drpDo_drp f hf, h, hlanes, Drp.error_errcap]

section
variable (m : Mod) {d : Nat} (x : Lane) (hf : m.full = true)
include hf

/-- A visit of a used device: its agenda, and the first exchange at once. -/
theorem Mod.drpVisit_used (h : m.drp.active = true ∧ m.drp.ctlflt = false ∧ m.drp.mapOk = true ∧ m.drp.brt.devUsed d = true) :
    ((m.drpVisit d).drp.dev d).agenda = m.drp.agenda d ∧ (m.drpVisit d).lanes = m.lanes ∧
      (m.drp.agenda d ≠ [] → ((m.drpVisit d).drp.dev d).txSeq = ((m.drp.dev d).txSeq + 1) % 256 ∧
        ∃ body, (m.drpVisit d).sent = m.sent ++ [⟨m.clock, .draip (d / 32), body⟩] ∧ telSeq body = ((m.drp.dev d).txSeq + 1) % 256) := by
  obtain ⟨b', heq, hagenda, hseq, -⟩ := m.drp.visit_used d m.clock h
  obtain ⟨hag, -, -, hlines⟩ := b'.sendHead_spec d
  have hdo : m.drpVisit d = ({ m with drp := (b'.sendHead d).1 } : Mod).drOuts (b'.sendHead d).2 := by
    rw [← heq]
    exact m.drpDo_full _ hf
  rw [hdo, Mod.drOuts_drp, Mod.drOuts_lines _ _ hlines]
  refine ⟨hag.trans hagenda, rfl, fun hne => ?_⟩
  obtain ⟨y, tnum, data, hsend, -, -, hy⟩ := b'.sendHead_cons d (by rwa [hagenda])
  rw [hsend, Drp.dev_setDev, hy, hseq]
  exact ⟨rfl, _, rfl, (telegram_telSeq ..).trans (Nat.mod_mod ..)⟩

/-- The telegram of a poll goes unchanged to the end of the ring of an open lane. -/
theorem Mod.drpAnswer_delivered {n : Nat} {rest : List DrStep} {tel : Bytes} (ha : m.drp.active = true) (hc : m.drp.ctlflt = false)
    (hag : (m.drp.dev d).agenda = .poll n :: rest) (hv : telValid m.drp.brt d tel = true) (hn : telNum tel = n) (hopen : m.draipOpen x) :
    ((m.drpAnswer d tel).drp.dev d).agenda = rest ∧ ((m.drpAnswer d tel).drp.dev d).age = 0 ∧
      ∃ seq later, (m.drpAnswer d tel).draipItems x = m.draipItems x ++ ⟨m.obx.mcn, 4, d, seq, .telegram, tel⟩ :: later := by
  obtain ⟨hview, seq, later, hout⟩ := m.drp.deliverTel_spec d x tel
  obtain ⟨hagenda, hage, hlanes, -⟩ := (m.drp.deliverTel d tel).1.advance_spec d
  simp only [Drp.view, Prod.mk.injEq] at hview
  obtain ⟨hview_agenda, hview_age, hview_ctrl⟩ := hview
  have hdo := m.drpDo_full (fun b => b.answer d m.clock tel) hf
  rw [m.drp.answer_valid_poll d m.clock ha hc hag hv hn, hout, List.cons_append] at hdo
  rw [Mod.drpAnswer, hdo, Mod.drOuts_drp]
  refine ⟨?_, hage.trans hview_age, seq, ?_⟩
  · rw [hagenda, hview_agenda, hag]
    rfl
  · exact Mod.drOuts_item_first _ x d seq .telegram tel _ (m.draipOpen_of_ctrl hopen (by rw [hlanes, hview_ctrl]))

/-- A late event leaves the bridge, and an open lane gets it as an orphan. -/
theorem Mod.drpOrphans_late {e : DrEvent} (he : e ∈ (m.drp.dev d).events) (hl : m.drp.late d m.clock e = true) :
    e ∉ ((m.drpOrphans d).drp.dev d).events ∧
      (m.draipOpen x → ∃ seq, ⟨m.obx.mcn, 4, d, seq, .event, sideBody (e.ecode ||| 0x80) e.tnum e.tseq⟩ ∈ (m.drpOrphans d).draipItems x) := by
  obtain ⟨hgone, ⟨seq, hitem⟩, hctrl⟩ := m.drp.orphans_late d m.clock he hl
  have hdo := m.drpDo_full (fun b => b.orphans d m.clock) hf
  rw [Mod.drpOrphans, hdo, Mod.drOuts_drp]
  exact ⟨hgone, fun hopen => ⟨seq, Mod.drOuts_item_mem _ x d seq .event _ _ hitem (m.draipOpen_of_ctrl hopen (by rw [hctrl]))⟩⟩

end

/-- Settles O41: every exchange leaves as one telegram, a delivery hands the telegram out first, and the ring of a lane only ever grows. -/
theorem bridgeVisitsAndDelivers : Obligations.BridgeVisitsAndDelivers := by
  unfold Obligations.BridgeVisitsAndDelivers
  intro s d t x tel hfull m0 b dev items works
  refine ⟨fun ha hc hm hu => ?_, exec_draipVisit_off d t s, fun n rest ha hc hag => ⟨fun hv hn hw => ?_, fun hv => ?_, ?_⟩, fun e he hl => ?_⟩
  · exact Completes.of_at (exec_draipVisit d t s) (m0.drpVisit_used hfull ⟨ha, hc, hm, hu⟩)
  · exact Completes.of_at (exec_draipAnswerReceive d t s tel) (m0.drpAnswer_delivered x hfull ha hc hag hv hn hw)
  · exact Completes.of_at (exec_draipAnswerReceive d t s tel)
      (m0.drpDo_pollFailed x hfull hag (b.answer_invalid_poll d m0.clock ha hc hag hv))
  · exact Completes.of_at (exec_draipAnswerTimeout d t s) (m0.drpDo_pollFailed x hfull hag (b.missing_poll d ha hc hag))
  · exact Completes.of_at (exec_draipOrphan d t s) (m0.drpOrphans_late x hfull he (decide_eq_true hl))

end Sys2Proof.Machine
end

