-- ==== Sys2Proof/Proofs/BridgeLanes.lean ====
section
/-!
SUPPORT and the settled statement on what the lanes do with the bridge and with their Jade ports: held-back telegrams, the unpack, a bridged
signal, the lock-step fault, the error capture, and a read that is answered RETRY (10_older_interfaces_and_bridging.md R303, R305, R309,
R314, R328).
-/
namespace Sys2Proof.Machine

/-! ### Held-back telegrams (R303) -/

theorem LaneDrp.expire_held (l : LaneDrp) (b : Brt) (d now : Nat) :
    ((l.expire b d now).dev d).held = (l.dev d).held.filter fun h => decide (now < h.since + 2 * b.dcyc (d / 32) * 1000000) :=
  congrArg LaneDev.held (SMap.get_set_self ..)

theorem Mod.drpHoldback_running (m : Mod) (d : Nat) {x : Lane} (hf : m.full = true) (hx : x ∈ m.running) :
    (m.drpHoldback d).lane x = { m.lane x with drp := (m.lane x).drp.expire (m.lane x).brt d (m.lane x).rt.ctime } := by
  rw [Mod.drpHoldback, if_neg (by simp [hf]),
    Mod.foldl_modLane_lane (fun _ l => { l with drp := l.drp.expire l.brt d l.rt.ctime }) x m.running m m.running_nodup, if_pos hx]

/-! ### The unpack (R305) -/

theorem insertKey_length {α : Type} (k : α → Key) (x : α) (xs : List α) : (insertKey k x xs).length = xs.length + 1 := by
  induction xs with
  | nil => rfl
  | cons y ys ih =>
    rw [insertKey]
    split
    · rfl
    · rw [List.length_cons, ih, List.length_cons]

theorem sortKey_length {α : Type} (k : α → Key) (xs : List α) : (sortKey k xs).length = xs.length := by
  have hfold (acc : List α) : (xs.foldl (fun a x => insertKey k x a) acc).length = acc.length + xs.length := by
    induction xs generalizing acc with
    | nil => rfl
    | cons x xs ih =>
      rw [List.foldl_cons, ih, insertKey_length, List.length_cons]
      omega
  exact (hfold []).trans (Nat.zero_add _)

/-- Panel requests set request numbers; the accepted telegrams stand. -/
theorem LaneSt.panel_accepted (l : LaneSt) (qs : List PanelReq) : (l.panel qs).1.drp.accepted = l.drp.accepted := by
  refine foldl_keeps (fun acc : LaneSt × List ExtReq => acc.1.drp.accepted) _ qs (l, []) fun acc q => ?_
  dsimp only
  split
  · rfl
  · split
    · split <;> rfl
    · rfl

/-- The accepted telegrams in key order. -/
def LaneSt.inOrder (l : LaneSt) : List AccTel := sortKey (fun a : AccTel => ⟨a.amc, 4, a.num, a.seq⟩) l.drp.accepted

/-- The first `n` accepted telegrams passed through the map; the rest stay. -/
def LaneSt.mapped (l : LaneSt) (n : Nat) : LaneSt :=
  { l with tcm := (unpackAll l.brt l.drp l.tcm (l.inOrder.take n)).1, drp := { l.drp with accepted := l.inOrder.drop n } }

/-- The lane after an unpack: the panel requests of the telegrams join its request list (R306). -/
def LaneSt.unpacked (l : LaneSt) (n : Nat) : LaneSt :=
  let pq := (l.mapped n).panel (unpackAll l.brt l.drp l.tcm (l.inOrder.take n)).2
  { pq.1 with rt := { pq.1.rt with requests := pq.1.rt.requests ++ pq.2 } }

theorem LaneSt.unpacked_accepted_length (l : LaneSt) (n : Nat) : (l.unpacked n).drp.accepted.length = l.drp.accepted.length - n := by
  have hacc : (l.unpacked n).drp.accepted = l.inOrder.drop n := LaneSt.panel_accepted ..
  rw [hacc, List.length_drop, LaneSt.inOrder, sortKey_length]

/-- Without an accepted telegram nothing passes the map. -/
theorem LaneSt.unpacked_nothing (l : LaneSt) (n : Nat) (h : l.drp.accepted = []) : (l.unpacked n).tcm = l.tcm := by
  have hnone : l.inOrder = [] := by rw [LaneSt.inOrder, h]; rfl
  rw [LaneSt.unpacked, LaneSt.mapped, hnone, List.take_nil]
  rfl

section
variable (m : Mod) (x : Lane) (n : Nat) (hf : m.full = true) (hc : (m.drp.lanes.get x).ctrl.getLsbD 1 = true)
  (hp : (m.lane x).powered = true)
include hf hc hp

theorem Mod.unpackGo_eq :
    m.unpackGo x n = ({ m with drp := { m.drp with lanes := m.drp.lanes.set x { m.drp.lanes.get x with
      irq := (m.drp.lanes.get x).irq ||| brgUNP, unpCtl := BitVec.ofNat 32 (n % 4096) } } } : Mod).setLane x ((m.lane x).unpacked n) := by
  have hgoes : ¬ (m.full = false ∨ (m.drp.lanes.get x).ctrl.getLsbD 1 = false ∨ (m.lane x).powered = false) := by
    simp only [hf, hc, hp]
    decide
  exact if_neg hgoes

theorem Mod.unpackGo_lane : (m.unpackGo x n).lane x = (m.lane x).unpacked n := by
  rw [m.unpackGo_eq x n hf hc hp, Mod.lane_setLane_self]

theorem Mod.unpackGo_irq : ((m.unpackGo x n).drp.lanes.get x).irq = (m.drp.lanes.get x).irq ||| brgUNP := by
  rw [m.unpackGo_eq x n hf hc hp, Mod.setLane_drp, PerLane.get_set_self]

theorem Mod.unpackGo_others {y : Lane} (hy : y ≠ x) :
    (m.unpackGo x n).lane y = m.lane y ∧ (m.unpackGo x n).drp.lanes.get y = m.drp.lanes.get y := by
  rw [m.unpackGo_eq x n hf hc hp]
  exact ⟨Mod.lane_setLane_ne _ x y _ hy, PerLane.get_set_ne _ x y _ hy⟩

end

/-! ### A bridged signal (R305) -/

theorem satI32_ofNat (u : Nat) : satI32 u = if u ≤ 2147483647 then (u : Int) else 2147483647 := by
  unfold satI32
  split <;> omega

theorem i32_satI32_ofNat (u : Nat) : i32 (satI32 u) = if u ≤ 2147483647 then u else 2147483647 := by
  rw [satI32_ofNat, i32]
  split <;> omega

theorem satI32_ofNat_beq (u : Nat) : (satI32 u == (u : Int)) = decide (u ≤ 2147483647) := by
  rw [satI32_ofNat, Bool.beq_eq_decide_eq, decide_eq_decide]
  split <;> omega

/-- An entry of kind 1 without flags, scale or offset writes its raw field to the signal. -/
theorem unpackEnt_plain (mem : Mem) (e : MapEnt) (data : Bytes) (mode : Nat) (err : Bool) (hk : e.kind = 1) (hfl : e.flags = 0)
    (hm : e.mul = 1) (hd : e.div = 1) (ho : e.off = 0) : unpackEnt mem e data mode err = sigWrite mem e.target (e.raw data) mode err := by
  simp [unpackEnt, hk, hfl, MapEnt.scale, hm, hd, ho]

section
variable (m : Mem) (s : Nat) (v : Int) (mode : Nat) (err : Bool)

theorem sigWrite_value : (sigWrite m s v mode err).rd (bridged s) 4 = i32 (satI32 v) := by
  have hlt : i32 (satI32 v) < 2 ^ (8 * 4) := by unfold i32; omega
  rw [sigWrite, Mem.rd_wr_out _ _ _ _ (Or.inl (Nat.le_refl _)), Mem.rd_wr_self _ _ _ _ hlt]

/-- VALID of a signal is set exactly where its value did not saturate. -/
theorem sigWrite_valid : bit ((sigWrite m s v mode err).rd (bridged s + 4) 4) 0 = (satI32 v == v) := by
  have hb (b : Bool) : b2n b < 2 := by cases b <;> decide
  have hlt : b2n (satI32 v == v) + 2 + 4 * b2n err + 8 * (mode % 8) < 2 ^ (8 * 4) := by
    have := hb (satI32 v == v)
    have := hb err
    omega
  have hodd : (b2n (satI32 v == v) + 2 + 4 * b2n err + 8 * (mode % 8)) % 2 = b2n (satI32 v == v) % 2 := by omega
  rw [sigWrite, Mem.rd_wr_self _ _ _ _ hlt, bit, Nat.testBit_zero, hodd]
  cases satI32 v == v <;> rfl

end

/-! ### The lock-step fault and the error capture (R309, R328) -/

theorem Mod.drpStop_drp (m : Mod) (hf : m.full = true) (hc : m.drp.ctlflt = false) : m.drpStop.drp = m.drp.stop := by
  rw [Mod.drpStop, if_neg (by simp [hf, hc])]
  rfl

theorem Drp.stop_ports (b : Drp) (p : DrPort) (h : p ∈ b.stop.ports) : p.drivers = false ∧ p.state = 2 := by
  obtain ⟨p', -, rfl⟩ := List.mem_map.mp h
  exact ⟨rfl, rfl⟩

section
variable (m : Mod) (x : Lane) (hf : m.full = true) (hp : (m.lane x).powered = true)
include hf hp

theorem Mod.drpReadErr_eq :
    m.drpReadErr x = ({ m with drp := { m.drp with lanes := m.drp.lanes.set x { m.drp.lanes.get x with
      errcapLr := (m.drp.lanes.get x).errcap, errcap := 0 } } } : Mod).modLane x fun l =>
        { l with readData := (m.drp.lanes.get x).errcap.toNat } := by
  exact if_neg (by simp [hf, hp])

theorem Mod.drpReadErr_spec :
    ((m.drpReadErr x).lane x).readData = (m.drp.lanes.get x).errcap.toNat ∧
      (m.drpReadErr x).drp.lanes.get x = { m.drp.lanes.get x with errcapLr := (m.drp.lanes.get x).errcap, errcap := 0 } := by
  rw [m.drpReadErr_eq x hf hp]
  exact ⟨congrArg LaneSt.readData (Mod.lane_modLane_self ..), PerLane.get_set_self ..⟩

end

/-! ### The Jade port (R314) -/

section
variable (m : Mod) (x : Lane)

/-- Outside STARTING and the tail no read is taken. -/
theorem Mod.jadeRead_barred (ans : Option Nat) (hs : m.inService = true) (hp : m.ph ≠ .idle) : m.jadeRead x ans = m := by
  refine if_pos (Or.inl ?_)
  simp [Mod.jadeReads, hs, hp]

theorem Mod.jadeRead_answered (v : Nat) (hr : m.jadeReads x = true) (hn : (m.lane x).lct.read = none) :
    m.jadeRead x (some v) = m.setLane x { m.lane x with readData := v } :=
  if_neg (by simp [hr, hn])

theorem Mod.jadeRead_waits (hr : m.jadeReads x = true) (hn : (m.lane x).lct.read = none) :
    m.jadeRead x none = m.setLane x { m.lane x with lct := { (m.lane x).lct with read := some (0, m.clock) } } :=
  if_neg (by simp [hr, hn])

/-- Lane control once a RETRY is counted. -/
def Lct.retried (c : Lct) : Lct := { c with retry := min 0xFFFF (c.retry + 1) }

variable {k since : Nat} (hr : (m.lane x).lct.read = some (k, since)) (ht : since + 2000 ≤ m.clock) (ans : Option Nat)
include hr ht

theorem Mod.jadeRetry_due :
    (m.jadeRetry x ans).lane x =
      if 64 ≤ k + 1 then
        (({ m.lane x with lct := { (m.lane x).lct.retried with read := none, rderr := min 255 ((m.lane x).lct.rderr + 1) } } : LaneSt).lctRaise
          lctJPORT).lctError 2 3
      else
        match ans with
        | some v => { m.lane x with lct := { (m.lane x).lct.retried with read := none }, readData := v }
        | none => { m.lane x with lct := { (m.lane x).lct.retried with read := some (k + 1, m.clock + 1000) } } := by
  rw [Mod.jadeRetry, hr]
  dsimp only
  rw [if_neg (Nat.not_lt.mpr ht), Mod.lane_modLane_self]
  rfl

/-- The 64th RETRY ends the read with an error. -/
theorem Mod.jadeRetry_last (hk : 63 ≤ k) :
    ((m.jadeRetry x ans).lane x).lct.read = none ∧ ((m.jadeRetry x ans).lane x).lct.rderr = min 255 ((m.lane x).lct.rderr + 1) := by
  rw [m.jadeRetry_due x hr ht ans, if_pos (by omega)]
  exact ⟨rfl, rfl⟩

end

section
variable (m : Mod) (x : Lane) {k since : Nat} (hr : (m.lane x).lct.read = some (k, since)) (ht : since + 2000 ≤ m.clock) (hk : k < 63)
include hr ht hk

theorem Mod.jadeRetry_answered (v : Nat) :
    ((m.jadeRetry x (some v)).lane x).lct.read = none ∧ ((m.jadeRetry x (some v)).lane x).readData = v := by
  rw [m.jadeRetry_due x hr ht, if_neg (by omega)]
  exact ⟨rfl, rfl⟩

theorem Mod.jadeRetry_again : ((m.jadeRetry x none).lane x).lct.read = some (k + 1, m.clock + 1000) := by
  rw [m.jadeRetry_due x hr ht, if_neg (by omega)]

end

/-! ### The commands -/

section
variable (t : Nat) (s : State)
theorem exec_draipHoldbackExpire (d : Nat) : exec (.draipHoldbackExpire d t) s = s.at t fun m => m.drpHoldback d := rfl
theorem exec_brgUnpGo (x : Lane) (n : Nat) : exec (.brgUnpGo x n t) s = s.at t fun m => m.unpackGo x n := rfl
theorem exec_bridgeLockstepFault : exec (.bridgeLockstepFault t) s = s.at t fun m => m.drpStop := rfl
theorem exec_brgErrcapRead (x : Lane) : exec (.brgErrcapRead x t) s = s.at t fun m => m.drpReadErr x := rfl
theorem exec_jadePortRead (x : Lane) (ans : Option Nat) : exec (.jadePortRead x ans t) s = s.at t fun m => m.jadeRead x ans := rfl
theorem exec_jadeReadRetry (x : Lane) (ans : Option Nat) : exec (.jadeReadRetry x ans t) s = s.at t fun m => m.jadeRetry x ans := rfl
end

/-- Settles O42: an unpack takes from the front of the sorted telegrams, a signal is VALID where it did not saturate, a stopped bridge makes no
visit, and a read ends after its 64th RETRY. -/
theorem lanesUnpackAndReadAcrossTheirPorts : Obligations.LanesUnpackAndReadAcrossTheirPorts := by
  unfold Obligations.LanesUnpackAndReadAcrossTheirPorts
  intro s d n t x hfull m0 l v
  refine ⟨fun hx => ?_, fun hc hp hnone => ?_, fun hc hp => ?_, fun mem e data mode err hk hfl hm hd ho => ?_, fun hc => ?_, fun hp => ?_,
    fun hr hn => ⟨fun a => ?_, ?_⟩, fun hs hp a => ?_, fun k since hr ht => ⟨fun hk a => ?_, fun hk a => ?_, fun hk => ?_⟩⟩
  · refine Completes.of_at (exec_draipHoldbackExpire t s d) ?_
    have hlane : (m0.drpHoldback d).lane x = { l with drp := l.drp.expire l.brt d l.rt.ctime } := m0.drpHoldback_running d hfull hx
    rw [hlane]
    exact ⟨l.drp.expire_held l.brt d l.rt.ctime, rfl⟩
  · have hlane : (m0.unpackGo x n).lane x = l.unpacked n := m0.unpackGo_lane x n hfull hc hp
    exact Completes.of_at (exec_brgUnpGo t s x n)
      ⟨(congrArg LaneSt.tcm hlane).trans (l.unpacked_nothing n hnone), m0.unpackGo_irq x n hfull hc hp,
        fun y hy => m0.unpackGo_others x n hfull hc hp hy⟩
  · have hlane : (m0.unpackGo x n).lane x = l.unpacked n := m0.unpackGo_lane x n hfull hc hp
    exact Completes.of_at (exec_brgUnpGo t s x n)
      ⟨(congrArg (fun l' => l'.drp.accepted.length) hlane).trans (l.unpacked_accepted_length n), m0.unpackGo_irq x n hfull hc hp⟩
  · intro raw after
    have hafter : after = sigWrite mem e.target raw mode err := unpackEnt_plain mem e data mode err hk hfl hm hd ho
    rw [hafter, sigWrite_value, sigWrite_valid, i32_satI32_ofNat, satI32_ofNat_beq]
    exact ⟨rfl, rfl⟩
  · refine Completes.of_at (exec_bridgeLockstepFault t s) ?_
    have hdrp : m0.drpStop.drp = s.m.drp.stop := m0.drpStop_drp hfull hc
    show m0.drpStop.drp.ctlflt = true ∧ m0.drpStop.drp.active = false ∧ (∀ p ∈ m0.drpStop.drp.ports, _) ∧ _
    refine ⟨by rw [hdrp]; rfl, by rw [hdrp]; rfl, by rw [hdrp]; exact s.m.drp.stop_ports, ?_⟩
    exact exec_draipVisit_off d t { s with m := m0.drpStop } (Or.inl (by rw [hdrp]; rfl))
  · exact Completes.of_at (exec_brgErrcapRead t s x) (m0.drpReadErr_spec x hfull hp)
  · exact congrArg (fun m => Host.Outcome.next { s with m := m }) (m0.jadeRead_answered x a hr hn)
  · exact congrArg (fun m => Host.Outcome.next { s with m := m }) (m0.jadeRead_waits x hr hn)
  · rw [exec_jadePortRead, State.at_unchanged s t (fun m => m.jadeRead x a) (m0.jadeRead_barred x a hs hp)]
  · exact Completes.of_at (exec_jadeReadRetry t s x a) (m0.jadeRetry_last x hr ht a hk)
  · exact Completes.of_at (exec_jadeReadRetry t s x (some a)) (m0.jadeRetry_answered x hr ht hk a)
  · exact Completes.of_at (exec_jadeReadRetry t s x none) ⟨_, m0.jadeRetry_again x hr ht hk, Nat.le_refl _⟩

end Sys2Proof.Machine
end

