-- ==== Sys2Proof/Proofs/PairLink.lean ====
section
/-!
SUPPORT. What the operations that the commands of the module pair share do and leave alone: frames on the pair link, the gates, the service
state, and becoming STANDBY-COLD (11_module_pair.md R331, R333, R337; 06_lanes_and_voting.md R174, R175).
-/
namespace Sys2Proof.Machine

section
variable (m : Mod)

/-! ### The gates and the service state -/

@[simp] theorem Mod.gates_role : m.gates.role = m.role := (congrArg Mod.role m.gates_lio_amber_only :)
@[simp] theorem Mod.gates_pair : m.gates.pair = m.pair := (congrArg Mod.pair m.gates_lio_amber_only :)
@[simp] theorem Mod.gates_obx : m.gates.obx = m.obx := (congrArg Mod.obx m.gates_lio_amber_only :)
@[simp] theorem Mod.gates_stopCut : m.gates.stopCut = m.stopCut := (congrArg Mod.stopCut m.gates_lio_amber_only :)
@[simp] theorem Mod.gates_service : m.gates.service = m.service := congrArg Prod.fst m.gates_stage

variable (v : Service)
@[simp] theorem Mod.setService_role : (m.setService v).role = m.role := (congrArg Mod.role (m.setService_only v) :)
@[simp] theorem Mod.setService_pair : (m.setService v).pair = m.pair := (congrArg Mod.pair (m.setService_only v) :)
@[simp] theorem Mod.setService_service : (m.setService v).service = v := (congrArg Mod.service (m.setService_only v) :)

/-! ### Frames on the pair link (R331) -/

variable (ty kind arg : Nat) (b : Bytes)

/-- A frame of the module on the pair link, at the instant it leaves. -/
def Mod.pairFramed : Sent := ⟨m.clock, .pair, m.pairFrame ty b⟩

theorem Mod.pairSend_up (h : m.pair.linkUp = true) : m.pairSend ty b = { m with sent := m.sent ++ [m.pairFramed ty b] } := if_pos h

theorem Mod.pairSend_only : m.pairSend ty b = { m with sent := (m.pairSend ty b).sent } := by
  unfold Mod.pairSend
  split <;> rfl

@[simp] theorem Mod.pairSend_pair : (m.pairSend ty b).pair = m.pair := (congrArg Mod.pair (m.pairSend_only ty b) :)
@[simp] theorem Mod.pairSend_lanes : (m.pairSend ty b).lanes = m.lanes := (congrArg Mod.lanes (m.pairSend_only ty b) :)

/-- The payload of a CTRL message. -/
def ctrlPayload : Bytes := leBytes 1 kind ++ leBytes 8 arg

theorem Mod.ctrl_up (h : m.pair.linkUp = true) :
    m.ctrl kind arg = { m with sent := m.sent ++ [m.pairFramed 0x18 (ctrlPayload kind arg)] } := m.pairSend_up _ _ h

theorem Mod.ctrl_only : m.ctrl kind arg = { m with sent := (m.ctrl kind arg).sent } := m.pairSend_only _ _

@[simp] theorem Mod.ctrl_role : (m.ctrl kind arg).role = m.role := (congrArg Mod.role (m.ctrl_only kind arg) :)
@[simp] theorem Mod.ctrl_pair : (m.ctrl kind arg).pair = m.pair := (congrArg Mod.pair (m.ctrl_only kind arg) :)
@[simp] theorem Mod.ctrl_service : (m.ctrl kind arg).service = m.service := (congrArg Mod.service (m.ctrl_only kind arg) :)

/-! ### STANDBY-COLD (R335, R337) -/

@[simp] theorem Mod.toCold_role : m.toCold.role = roleCOLD := by
  unfold Mod.toCold
  dsimp only
  split <;> simp

@[simp] theorem Mod.toCold_pair : m.toCold.pair = m.pair.cold := by
  unfold Mod.toCold
  dsimp only
  split <;> simp

theorem Mod.toCold_service (h : m.inService = true) : m.toCold.service = .starting := by
  unfold Mod.toCold
  dsimp only
  split
  case isTrue => simp
  case isFalse hn => exact absurd h hn

theorem Mod.toCold_voters : m.toCold.voters = [] := by
  have hlane (x : Lane) : (m.toCold.lane x).voting = false := by
    unfold Mod.toCold Mod.lane
    dsimp only
    split <;> simp
  exact List.filter_eq_nil_iff.mpr fun x _ => by rw [hlane x]; exact Bool.false_ne_true

/-- A standby that follows no longer: its next state copy finds nothing counted. -/
def Mod.IsCold : Prop := m.role = roleCOLD ∧ m.pair.follows = false ∧ m.pair.matches' = 0

theorem Mod.diverge_isCold : m.diverge.IsCold := by
  simp [Mod.IsCold, Mod.diverge, Pair.cold, Pair.follows]

end

end Sys2Proof.Machine
end

