-- ==== Sys2Proof/Proofs/PairFollow.lean ====
section
/-!
SUPPORT and the settled statement on following: follow records, items and summaries at the standby, FACK and FETCH at the ACTIVE module,
DELAY and the state copy (11_module_pair.md R332 to R336, R338, R339; 07_opbex.md R217).
-/
namespace Sys2Proof.Machine

section
variable (m : Mod)

/-! ### Follow records (R334) -/

section
variable (f : FollowRec) (excs : PerLane (Option ProgExc)) (ins : PerLane SliceIn)

/-- A module that follows takes a record unless it still waits for the last one or finds the seals wrong. -/
theorem Mod.follow_taken (hs : m.isStandby = true) (hl : m.pair.linkUp = true) (hf : m.pair.follows = true) (hh : m.service ≠ .held) :
    m.follow f excs ins =
      if m.pair.waitFetch.isSome then m.diverge
      else if 2 ≤ (m.running.filter fun x => !((m.lane x).followSealOk f)).length then m.diverge
      else m.followTry f excs ins :=
  if_neg (by simp [hs, hl, hf, hh])

theorem Mod.followTry_missing {r : ReplyRef} (hl : m.pair.linkUp = true) (h : resolve f.refs m.heldReplies = .error r) :
    m.followTry f excs ins = { m with sent := m.sent ++ [m.pairFramed 0x14 r.bytes]
                                      pair := { m.pair with waitFetch := some f, recordSentAt := m.clock } } := by
  simp only [Mod.followTry, h, m.pairSend_up _ _ hl]

theorem Mod.followTry_complete {its : List Item} (hl : m.pair.linkUp = true) (h : resolve f.refs m.heldReplies = .ok its) :
    m.followTry f excs ins =
      ({ m with sent := m.sent ++ [m.pairFramed 0x12 (leBytes 8 f.cycle)] } : Mod).followRun f (its ++ f.items) excs ins := by
  simp only [Mod.followTry, h, m.pairSend_up _ _ hl]

/-- The module keeps an item that it fetched. -/
def Mod.keeping (i : Item) : Mod := { m with pair := { m.pair with keptItems := m.pair.keptItems ++ [i], waitFetch := none } }

theorem Mod.keeping_heldReplies (i : Item) : (m.keeping i).heldReplies = m.heldReplies ++ [i] := by
  have hrun : (m.keeping i).running = m.running := rfl
  unfold Mod.heldReplies
  rw [hrun]
  split
  · exact (List.append_assoc ..).symm
  · rfl

section
variable {g : FollowRec} (hw : m.pair.waitFetch = some g) (i : Item)
include hw

theorem Mod.itemArrives_in_time (ht : m.clock < m.pair.recordSentAt + 200000) :
    m.itemArrives i excs ins = (m.keeping i).followTry g excs ins := by
  have hlate : m.fetchLate = false := by simp [Mod.fetchLate, ht]
  simp only [Mod.itemArrives, hw, hlate]
  rfl

theorem Mod.itemArrives_late (ht : m.pair.recordSentAt + 200000 ≤ m.clock) : m.itemArrives i excs ins = m.diverge := by
  have hlate : m.fetchLate = true := by simp [Mod.fetchLate, hw, ht]
  simp only [Mod.itemArrives, hw, hlate]
  rfl
end
end

/-! ### FACK and FETCH at the ACTIVE module (R333, R334) -/

/-- What the ACTIVE module still owes of a cycle, when it sealed the last set, and what it knows of the pair. -/
def Mod.dues : Bool × Option OutSet × Nat × Pair := (m.handed, m.outWait, m.sealedAt, m.pair)

theorem Mod.puts_dues (es : List Evt) : (m.puts es).dues = m.dues := (congrArg Mod.dues (m.puts_amber_only es) :)

theorem Mod.kstSend_dues (b : Bytes) : (m.kstSend b).dues = m.dues := by
  unfold Mod.kstSend
  dsimp only
  repeat' split
  all_goals rfl

theorem Mod.drOut_dues (o : DrOut) : (m.drOut o).dues = m.dues := by
  cases o with
  | item num seq kind body => exact (congrArg Mod.dues (m.deliver_lanes_only ..) :)
  | line port body => rfl
  | record e => rfl

section
variable (o : OutSet)

/-- The parts of a hand-over in their order: the sealed frames, the PDUs, the bridge's list, the local commands (R25, R27, R28, R309, R318). -/
def Mod.setTaken : Mod := { m with obx := m.obx.takeSet o.cycle (o.frames, o.nulled), handed := true, outWait := none, sealedAt := m.clock }
def Mod.pdusOut : Mod := o.pdus.foldl (fun m p => m.kstSend p.2) m
def Mod.bridgeOut : Mod := if m.full then ({ m with drp := (m.drp.takeList o.bridge).1 } : Mod).drOuts (m.drp.takeList o.bridge).2 else m
def Mod.localsOut : Mod :=
  if m.full then o.locals.foldl (fun n p => n.driveLocal p.1 (if m.lio.ctlflt then [0, 0, 0, p.2.getD 3 0] else p.2)) m else m

theorem Mod.handOver_eq : m.handOver o = (((m.setTaken o).pdusOut o).bridgeOut o).localsOut o := rfl

theorem Mod.pdusOut_dues : (m.pdusOut o).dues = m.dues := foldl_keeps Mod.dues _ _ m fun n p => n.kstSend_dues p.2

theorem Mod.bridgeOut_dues : (m.bridgeOut o).dues = m.dues := by
  unfold Mod.bridgeOut
  split
  · exact foldl_keeps Mod.dues Mod.drOut _ _ Mod.drOut_dues
  · rfl

theorem Mod.localsOut_dues : (m.localsOut o).dues = m.dues := by
  unfold Mod.localsOut
  split
  · exact foldl_keeps Mod.dues _ _ m fun _ _ => Mod.puts_dues _ _
  · rfl

/-- Handing a set over settles what was owed, and the pair hears nothing of it. -/
theorem Mod.handOver_dues : (m.handOver o).dues = (true, none, m.clock, m.pair) := by
  rw [Mod.handOver_eq, Mod.localsOut_dues, Mod.bridgeOut_dues, Mod.pdusOut_dues]
  rfl

theorem Mod.handOver_handed : (m.handOver o).handed = true := congrArg Prod.fst (m.handOver_dues o)
theorem Mod.handOver_outWait : (m.handOver o).outWait = none := congrArg (fun d => d.2.1) (m.handOver_dues o)
theorem Mod.handOver_sealedAt : (m.handOver o).sealedAt = m.clock := congrArg (fun d => d.2.2.1) (m.handOver_dues o)
theorem Mod.handOver_pair : (m.handOver o).pair = m.pair := congrArg (fun d => d.2.2.2) (m.handOver_dues o)

end

/-- The ACTIVE module as FACK of a cycle leaves it. -/
def Mod.acked (c : Nat) : Mod := { m with pair := { m.pair with fackFor := none, facked := some c, hotCycles := m.pair.hotCycles + 1 } }

/-- The ACTIVE module that has missed FACK: its partner is no longer hot. -/
def Mod.unacked : Mod :=
  let n := ({ m with pair := m.pair.loseHot } : Mod).ctrl ctrlDEMOTE (m.claimNum roleACTIVE)
  n.put (mkEvt (Config.otherCode 8 1) n.src 7 0 (leBytes 8 m.cycle))

theorem Mod.unacked_pair : m.unacked.pair = m.pair.loseHot := by simp [Mod.unacked]
theorem Mod.unacked_outWait : m.unacked.outWait = m.outWait := (congrArg Mod.outWait (Mod.ctrl_only { m with pair := m.pair.loseHot } _ _) :)

section
variable (ha : m.role = roleACTIVE)
include ha

section
variable {c : Nat} (hc : m.pair.fackFor = some c)
include hc

theorem Mod.fack_handed (ho : m.outWait = none) : m.fack c = m.acked c := by
  rw [Mod.fack, if_neg (by simp [ha, hc])]
  dsimp only
  split
  case h_1 hq => exact absurd (ho.symm.trans hq) nofun
  case h_2 => rfl

theorem Mod.fack_waiting {o : OutSet} (ho : m.outWait = some o) (hoc : o.cycle = c) : m.fack c = (m.acked c).handOver o := by
  rw [Mod.fack, if_neg (by simp [ha, hc])]
  dsimp only
  split
  case h_1 q hq =>
    obtain rfl : o = q := Option.some.inj (ho.symm.trans hq)
    exact if_pos hoc
  case h_2 hq => exact absurd (ho.symm.trans hq) nofun
end

theorem Mod.fackTimeout_due {o : OutSet} (hf : m.pair.fackFor.isSome = true) (ht : m.pair.recordSentAt + 500000 ≤ m.clock)
    (ho : m.outWait = some o) : m.fackTimeout = m.unacked.handOver o := by
  have hout : m.unacked.outWait = some o := m.unacked_outWait.trans ho
  have hopen : ¬ (m.role ≠ roleACTIVE ∨ m.pair.fackFor.isNone = true ∨ m.clock < m.pair.recordSentAt + 500000) := by
    simp [ha, Option.isSome_iff_ne_none.mp hf, ht]
  rw [Mod.fackTimeout, if_neg hopen]
  dsimp only
  split
  case h_1 q hq => exact congrArg m.unacked.handOver (Option.some.inj (hq.symm.trans hout))
  case h_2 hq => exact absurd (hq.symm.trans hout) nofun

theorem Mod.fetch_kept {r : ReplyRef} {i : Item} (hl : m.pair.linkUp = true) (hi : m.pair.keptItems.find? r.ok = some i) :
    m.fetch r = { m with sent := m.sent ++ [m.pairFramed 0x15 i.bytes] } := by
  rw [Mod.fetch, if_neg (not_not_intro ha)]
  simp only [hi]
  exact m.pairSend_up _ _ hl
end

/-! ### Summaries (R335, R339) -/

/-- SUM of a cycle is in. -/
def Mod.heard (c : Nat) (value : Option Nat) : Mod := { m with pair := { m.pair with peerSum := some (c, value) } }

theorem Mod.sum_heard (c : Nat) (value : Option Nat) (hs : m.isStandby = true) (hf : m.pair.follows = true) (hl : m.pair.linkUp = true)
    (ht : m.fetchLate = false) : m.sum c value = (m.heard c value).compareSums := by
  rw [Mod.sum, if_neg (by simp [hs, hf, hl]), if_neg (by simp [ht])]
  rfl

/-- Both summaries of a cycle are done with. -/
def Mod.compared : Mod := { m with pair := { m.pair with ownSum := none, peerSum := none } }

/-- One more cycle in a row gave equal summaries. -/
def Mod.matched : Mod := { m with pair := { m.pair with ownSum := none, peerSum := none, matches' := m.pair.matches' + 1 } }

/-- The module as STANDBY-HOT, with the service state that its lanes give it. -/
def Mod.hot : Mod :=
  ({ m with role := roleHOT, jade := m.jade.firstRun, obx := { m.obx with claim := m.claimNum roleHOT } } : Mod).setService
    (if 3 ≤ m.voters.length then .full else .reduced)

theorem Mod.hot_role : m.hot.role = roleHOT := Mod.setService_role ..
theorem Mod.hot_pair : m.hot.pair = m.pair := Mod.setService_pair ..
theorem Mod.hot_service : m.hot.service = if 3 ≤ m.voters.length then .full else .reduced := Mod.setService_service ..

section
variable {c : Nat} {own : Option Nat} (ho : m.pair.ownSum = some (c, own))
include ho

theorem Mod.compareSums_flagged (hp : m.pair.peerSum = some (c, none)) : m.compareSums = m.compared := by
  simp only [Mod.compareSums, ho, hp]
  exact if_neg (not_not_intro rfl)

theorem Mod.compareSums_different {v : Nat} (hp : m.pair.peerSum = some (c, some v)) (hv : own ≠ some v) :
    m.compareSums = m.compared.diverge := by
  simp only [Mod.compareSums, ho, hp]
  rw [if_neg (not_not_intro rfl), if_pos hv]
  rfl

theorem Mod.compareSums_equal {v : Nat} (hp : m.pair.peerSum = some (c, some v)) (hv : own = some v) :
    m.compareSums = if m.pair.matches' + 1 < 16 ∨ m.role = roleHOT then m.matched
      else m.matched.hot.ctrl ctrlSTATUS (m.matched.hot.claimNum roleHOT) := by
  simp only [Mod.compareSums, ho, hp]
  rw [if_neg (not_not_intro rfl), if_neg (not_not_intro hv)]
  rfl

/-- The sixteenth match in a row makes a STANDBY-COLD module STANDBY-HOT (R339). -/
theorem Mod.compareSums_counts {v : Nat} (hp : m.pair.peerSum = some (c, some v)) (hv : own = some v) (hr : m.role = roleCOLD) :
    m.compareSums.pair.matches' = m.pair.matches' + 1 ∧
      m.compareSums.role = (if m.pair.matches' + 1 < 16 then roleCOLD else roleHOT) ∧
      (16 ≤ m.pair.matches' + 1 → m.compareSums.service = if 3 ≤ m.voters.length then .full else .reduced) := by
  have hcold : ¬ m.role = roleHOT := fun h => absurd (hr.symm.trans h) (by decide)
  rw [m.compareSums_equal ho hp hv]
  by_cases hn : m.pair.matches' + 1 < 16
  · rw [if_pos (Or.inl hn), if_pos hn]
    exact ⟨rfl, hr, fun h => absurd hn (Nat.not_lt.mpr h)⟩
  · rw [if_neg (not_or.mpr ⟨hn, hcold⟩), if_neg hn, Mod.ctrl_pair, Mod.ctrl_role, Mod.ctrl_service]
    exact ⟨congrArg Pair.matches' m.matched.hot_pair, m.matched.hot_role, fun _ => m.matched.hot_service⟩
end

/-! ### DELAY (R336) -/

theorem Obx.ch_setCh (o : Obx) (ch : Chan) (c : ObxCh) : (o.setCh ch c).ch ch = c := by cases ch <;> rfl

theorem ObxCh.node_setNode_self (c : ObxCh) (k : Nat) (n : NodeCh) : (c.setNode k n).node k = n := SMap.get_set_self ..
theorem ObxCh.node_setNode_ne (c : ObxCh) {j k : Nat} (n : NodeCh) (h : j ≠ k) : (c.setNode k n).node j = c.node j :=
  SMap.get_set_ne _ _ _ _ _ h

theorem Mod.delay_one (ch : Chan) (n : Nat) (dk tau : Int) (hs : m.isStandby = true) (hl : m.pair.linkUp = true) :
    m.delay [(ch, n, dk, tau)] =
      { m with obx := m.obx.setCh ch ((m.obx.ch ch).setNode n { (m.obx.ch ch).node n with dk := dk, tau := tau, known := true }) } :=
  if_neg (by simp [hs, hl])

/-! ### The state copy (R338, R339) -/

theorem Mod.foldl_pairSend_length {α : Type} (ty : Nat) (b : α → Bytes) (xs : List α) (m : Mod) (hl : m.pair.linkUp = true) :
    (xs.foldl (fun n x => n.pairSend ty (b x)) m).sent.length = m.sent.length + xs.length := by
  induction xs generalizing m with
  | nil => rfl
  | cons x xs ih =>
    rw [List.foldl_cons, ih _ (by rwa [Mod.pairSend_pair]), m.pairSend_up _ _ hl, List.length_append, List.length_cons]
    simp only [List.length_cons, List.length_nil]
    omega

/-- The copy set of a lane as it goes out: the pages of its TCM, of its instance data and of Beryl's SRAM. -/
def LaneSt.pages (l : LaneSt) : List (Nat × Nat × Bytes) :=
  copyPages 0 l.tcm ++ copyPages 1 (Mem.splice [] l.dram (instBase l.region) 0 0x2000000) ++ copyPages 2 l.beryl.sram

theorem Mod.sendCopy_eq (l : LaneSt) :
    m.sendCopy l = l.pages.foldl (fun n p => n.pairSend 0x16 (leBytes 1 p.1 ++ leBytes 4 p.2.1 ++ p.2.2)) m := rfl

theorem Mod.sendCopy_lanes (l : LaneSt) : (m.sendCopy l).lanes = m.lanes :=
  foldl_keeps Mod.lanes _ l.pages m fun n _ => n.pairSend_lanes _ _

theorem Mod.sendCopy_cycle (l : LaneSt) : (m.sendCopy l).cycle = m.cycle :=
  foldl_keeps Mod.cycle _ l.pages m fun n _ => (congrArg Mod.cycle (n.pairSend_only _ _) :)

theorem Mod.sendCopy_sent_length (l : LaneSt) (hl : m.pair.linkUp = true) :
    (m.sendCopy l).sent.length = m.sent.length + (copyPages 0 l.tcm).length
      + (copyPages 1 (Mem.splice [] l.dram (instBase l.region) 0 0x2000000)).length + (copyPages 2 l.beryl.sram).length := by
  rw [Mod.sendCopy_eq, Mod.foldl_pairSend_length _ _ l.pages m hl, LaneSt.pages, List.length_append, List.length_append, ← Nat.add_assoc,
    ← Nat.add_assoc]

theorem Mod.linkUp_of_pairMatches {x : Lane} (h : m.pairMatches x = true) : m.pair.linkUp = true := by
  simp only [Mod.pairMatches, Bool.and_eq_true] at h
  exact h.1.1

/-- What R338 asks of an ACTIVE module before it copies the state of lane `x` out. -/
def Mod.MayCopyOut (x : Lane) : Prop :=
  m.role = roleACTIVE ∧ m.inService = true ∧ m.ph = .idle ∧ m.pair.follows = false ∧ m.voters.head? = some x ∧
    m.pairMatches x = true ∧ m.pair.partner.map (fun p => (claimOf p.claim).role) = some roleCOLD

theorem Mod.standbyCopy_out (src : LaneSt) {x : Lane} (h : m.MayCopyOut x) :
    m.standbyCopy src =
      let n := m.sendCopy (m.lane x)
      { n with pair := { n.pair with following := some n.cycle, hotCycles := 0 } } := by
  obtain ⟨ha, hs, hp, hf, hx, hm, hq⟩ := h
  rw [Mod.standbyCopy, if_pos ha]
  simp only [hx]
  exact if_neg (by simp [hs, hm, hp, hf, hq])

/-- A lane of the standby that takes the copy counts from now on. -/
def Mod.taken (src l : LaneSt) : LaneSt :=
  let c := l.copyFrom src true
  { c with img := l.img, sps := l.sps, rings := l.rings, voting := true, shadow := false, silent := false
           grn := { c.grn with ctrl := c.grn.ctrl ||| 1#32 }, opal := l.opal.bringUp m.phcfg m.clock m.now }

/-- What R338 asks of a STANDBY-COLD module before its lanes take a copy in. -/
def Mod.MayCopyIn : Prop :=
  m.role = roleCOLD ∧ m.service = .starting ∧ m.pair.heldCold = false ∧ 2 ≤ m.starters.length ∧
    (m.starters.all fun x => m.pairMatches x && ((m.lane x).confirmed || (m.lane x).sps == [])) = true

/-- The standby whose lanes have taken the copy in. -/
def Mod.copiedIn (src : LaneSt) : Mod :=
  { m with lanes := m.lanes.mapL fun x l => if m.starters.contains x then m.taken src l else l
           cycle := src.rt.cycle, cycleTime := src.rt.ctime
           pair := { m.pair with following := some src.rt.cycle, matches' := 0, ownSum := none, peerSum := none, waitFetch := none } }

theorem Mod.copiedIn_lane (src : LaneSt) {x : Lane} (hx : x ∈ m.starters) : (m.copiedIn src).lane x = m.taken src (m.lane x) :=
  (PerLane.get_mapL ..).trans (if_pos (List.contains_iff_mem.mpr hx))

theorem Mod.standbyCopy_in (src : LaneSt) (h : m.MayCopyIn) : m.standbyCopy src = m.copiedIn src := by
  obtain ⟨hr, hs, hh, hn, hm⟩ := h
  have ha : ¬ m.role = roleACTIVE := by simp [hr, roleACTIVE, roleCOLD]
  rw [Mod.standbyCopy, if_neg ha]
  refine if_neg ?_
  rintro (h | h | h | h | h)
  · exact h hr
  · exact h hs
  · exact absurd (hh.symm.trans h) nofun
  · exact Nat.not_lt.mpr hn h
  · exact absurd (hm.symm.trans h) nofun

end

section
variable (t : Nat) (s : State)
theorem exec_follow (f : FollowRec) (excs : PerLane (Option ProgExc)) (ins : PerLane SliceIn) :
    exec (.follow f excs ins t) s = s.at t fun m => m.follow f excs ins := rfl
theorem exec_item (i : Item) (excs : PerLane (Option ProgExc)) (ins : PerLane SliceIn) :
    exec (.item i excs ins t) s = s.at t fun m => m.itemArrives i excs ins := rfl
theorem exec_fack (c : Nat) : exec (.fack c t) s = s.at t fun m => m.fack c := rfl
theorem exec_fackTimeout : exec (.fackTimeout t) s = s.at t Mod.fackTimeout := rfl
theorem exec_sum (c : Nat) (value : Option Nat) : exec (.sum c value t) s = s.at t fun m => m.sum c value := rfl
theorem exec_fetch (r : ReplyRef) : exec (.fetch r t) s = s.at t fun m => m.fetch r := rfl
theorem exec_delay (es : List (Chan × Nat × Int × Int)) : exec (.delay es t) s = s.at t fun m => m.delay es := rfl
theorem exec_standbyStateCopy (src : LaneSt) : exec (.standbyStateCopy src t) s = s.at t fun m => m.standbyCopy src := rfl
end

/-- Settles O45: each command takes the branch that its conditions choose; hand-over and the frames of the copy leave the pair's bookkeeping
alone. -/
theorem followRecordsAreCheckedRunAndCompared : Obligations.FollowRecordsAreCheckedRunAndCompared := by
  unfold Obligations.FollowRecordsAreCheckedRunAndCompared
  intro s f excs ins t c m0 p standby bad cold frame got
  have htaken (h : standby) : m0.follow f excs ins = if p.waitFetch.isSome then m0.diverge else if 2 ≤ bad then m0.diverge
      else m0.followTry f excs ins := by
    obtain ⟨hs, hl, hf, hh⟩ := h
    exact m0.follow_taken f excs ins hs hl hf hh
  have hup (h : standby) : p.linkUp = true := by
    obtain ⟨-, hl, -⟩ := h
    exact hl
  have htry (h : standby) (hw : p.waitFetch = none) (hb : bad < 2) : m0.follow f excs ins = m0.followTry f excs ins := by
    rw [htaken h, if_neg (by simp [hw]), if_neg (Nat.not_le.mpr hb)]
  refine ⟨fun h hw hb => ?_, fun h hw => ?_, fun r h hw hb hr => ?_, fun its h hw hb hr => ?_, fun i r g hl hw ht hr => ?_,
    fun i its g hl hw ht hr => ?_, fun i g hw ht => ?_, fun ha hc => ⟨fun ho => ?_, fun o ho hoc => ?_⟩, fun o ha hf ht ho => ?_,
    fun own value h ht ho => ?_, fun r i ha hl hi => ?_, fun ch n dk tau hs hl => ?_, fun src x q ha hs hp hf hx hm hq hr => ?_,
    fun src x hr hs hh hn hx hm => ?_⟩
  · refine Completes.of_at (exec_follow t s f excs ins) ?_
    rw [htaken h, if_neg (by simp [hw]), if_pos hb]
    exact m0.diverge_isCold
  · refine Completes.of_at (exec_follow t s f excs ins) ?_
    rw [htaken h, if_pos hw]
    exact m0.diverge_isCold
  · refine Completes.of_at (exec_follow t s f excs ins) ?_
    rw [htry h hw hb, m0.followTry_missing f excs ins (hup h) hr]
    exact ⟨rfl, rfl, rfl, rfl⟩
  · rw [exec_follow, State.at, htry h hw hb, m0.followTry_complete f excs ins (hup h) hr]
    rfl
  · refine Completes.of_at (exec_item t s i excs ins) ?_
    rw [m0.itemArrives_in_time excs ins hw i ht, (m0.keeping i).followTry_missing g excs ins hl ((m0.keeping_heldReplies i).symm ▸ hr)]
    exact ⟨rfl, rfl, rfl⟩
  · rw [exec_item, State.at, m0.itemArrives_in_time excs ins hw i ht,
      (m0.keeping i).followTry_complete g excs ins hl ((m0.keeping_heldReplies i).symm ▸ hr)]
    rfl
  · refine Completes.of_at (exec_item t s i excs ins) ?_
    rw [m0.itemArrives_late excs ins hw i ht]
    exact m0.diverge_isCold
  · rw [exec_fack, State.at, m0.fack_handed ha hc ho]
    rfl
  · refine Completes.of_at (exec_fack t s c) ?_
    rw [m0.fack_waiting ha hc ho hoc, Mod.handOver_pair]
    exact ⟨Mod.handOver_handed _ o, Mod.handOver_outWait _ o, rfl, Mod.handOver_sealedAt _ o⟩
  · refine Completes.of_at (exec_fackTimeout t s) ?_
    rw [m0.fackTimeout_due ha hf ht ho, Mod.handOver_pair, Mod.unacked_pair]
    exact ⟨Mod.handOver_handed _ o, Mod.handOver_outWait _ o, rfl, rfl, rfl⟩
  · obtain ⟨hs, hl, hf, -⟩ := h
    have hheard (value : Option Nat) : m0.sum c value = (m0.heard c value).compareSums := m0.sum_heard c value hs hf hl ht
    refine ⟨fun hv => Completes.of_at (exec_sum t s c value) ?_, fun v hv hne => Completes.of_at (exec_sum t s c value) ?_,
      fun v hv heq hr => Completes.of_at (exec_sum t s c value) ?_⟩ <;> rw [hheard, hv]
    · rw [(m0.heard c none).compareSums_flagged ho rfl]
      exact ⟨rfl, rfl, rfl⟩
    · rw [(m0.heard c (some v)).compareSums_different ho rfl hne]
      exact Mod.diverge_isCold _
    · exact (m0.heard c (some v)).compareSums_counts ho rfl heq hr
  · rw [exec_fetch, State.at, m0.fetch_kept ha hl hi]
    rfl
  · refine Completes.of_at (exec_delay t s _) ?_
    rw [m0.delay_one ch n dk tau hs hl]
    dsimp only
    rw [Obx.ch_setCh, ObxCh.node_setNode_self]
    exact ⟨rfl, rfl, rfl, fun j hj => ObxCh.node_setNode_ne _ _ hj, rfl⟩
  · have hl : p.linkUp = true := m0.linkUp_of_pairMatches hm
    have hcopy : m0.MayCopyOut x := ⟨ha, hs, hp, hf, hx, hm, (congrArg _ hq).trans (congrArg some hr)⟩
    refine Completes.of_at (exec_standbyStateCopy t s src) ?_
    rw [m0.standbyCopy_out src hcopy]
    exact ⟨congrArg some (m0.sendCopy_cycle _), rfl, m0.sendCopy_lanes _, m0.sendCopy_sent_length _ hl⟩
  · have hcopy : m0.MayCopyIn := ⟨hr, hs, hh, hn, hm⟩
    refine Completes.of_at (exec_standbyStateCopy t s src) ?_
    rw [m0.standbyCopy_in src hcopy]
    rw [m0.copiedIn_lane src hx]
    exact ⟨rfl, rfl, rfl, rfl, rfl, rfl, rfl, hr⟩

end Sys2Proof.Machine
end

