-- ==== Sys2Proof/Proofs/PairTakeover.lean ====
section
/-!
SUPPORT and the settled statement on who is ACTIVE: STBY and GRANT, the stages of a swap, and what starts one
(11_module_pair.md R329, R336, R340, R341, R345, R348 to R352; 12_faults_and_guarantees.md R360).
-/
namespace Sys2Proof.Machine

section
variable (m : Mod)

/-! ### Taking the ACTIVE role (R341, R348) -/

theorem Mod.sendArp_only : m.sendArp = { m with sent := m.sendArp.sent } := by
  unfold Mod.sendArp
  dsimp only
  repeat' split
  all_goals rfl

section
variable (n : Nat) (hot : Bool)
@[simp] theorem Mod.lead_role : (m.lead n hot).role = roleACTIVE := (congrArg Mod.role (Mod.sendArp_only _) :)
@[simp] theorem Mod.lead_service : (m.lead n hot).service = m.service := (congrArg Mod.service (Mod.sendArp_only _) :)
@[simp] theorem Mod.lead_obx :
    (m.lead n hot).obx = { m.obx with claim := n, master := true, hpoll := !hot, handover := none, acks := PerChan.const false } :=
  (congrArg Mod.obx (Mod.sendArp_only _) :)
@[simp] theorem Mod.lead_pair :
    (m.lead n hot).pair = { m.pair.store (claimOf n).epoch with following := none, partnerHot := false, hotCycles := 0, fackFor := none,
                                                                waitFetch := none, ownSum := none, peerSum := none, relinquished := false,
                                                                lastChange := m.now, overdueAt := none } :=
  (congrArg Mod.pair (Mod.sendArp_only _) :)
end

/-- Sealing the last set changes the frames to send, and no claim (R341). -/
theorem Mod.sealLast_spec :
    m.sealLast.role = m.role ∧ m.sealLast.service = m.service ∧ m.sealLast.pair = m.pair ∧ m.sealLast.obx.claim = m.obx.claim ∧
      m.sealLast.obx.master = m.obx.master ∧ m.sealLast.obx.hpoll = false :=
  ⟨rfl, rfl, rfl, rfl, rfl, rfl⟩

/-! ### STBY and GRANT (R336, R340) -/

theorem Mod.endChange_only (res : Nat) :
    m.endChange res = { m with lanes := (m.endChange res).lanes, jade := (m.endChange res).jade, amber := (m.endChange res).amber } := by
  unfold Mod.endChange
  split <;> rfl

/-- The claim of the module with a raised EPOCH (R329). -/
def Mod.raisedClaim : Nat := (⟨m.pair.nextEpoch, roleACTIVE, m.sid⟩ : Claim).num

/-- A standby that takes over gives up a change under way and what it has staged. -/
def Mod.cleared : Mod :=
  let n := m.endChange resABORTED
  { n with lanes := n.lanes.map fun l => { l with staged := none, stagedSps := none, stageFail := none }
           pair := { n.pair with swap := none } }

/-- The record of a takeover: the claim taken over and the one raised. -/
def Mod.takeoverEvt (src : Nat) : Evt :=
  mkEvt 0x8001 src 7 0 (leBytes 8 (match m.pair.partner with
    | some p => p.claim
    | none => 0) ++ leBytes 8 m.raisedClaim ++ leBytes 1 (if m.role == roleHOT then 1 else 2))

/-- The standby that a GRANT makes ACTIVE (R341, R345). -/
def Mod.takesOver : Mod :=
  let n := (m.cleared.lead m.raisedClaim (m.role == roleHOT)).put (m.takeoverEvt m.src)
  let k : Mod := { n with pair := { n.pair with changeKind := if m.role == roleHOT then 1 else 2 } }
  if m.role == roleHOT then k.sealLast else k

section
variable (ch : Chan) (f : Frame)

/-- A GRANT of the channel's star that names this standby's claim. -/
def Mod.Granted : Prop :=
  (f.good 0x31 && faddr f.body == starAddr ch && linkOk (Config.farLinkKey (starAddr ch)) f.body) = true ∧ m.isStandby = true ∧
    m.service ≠ .held ∧ cfClaim f.body = m.claimNum m.role ∧ 2 ≤ cfArg0 f.body

theorem Mod.grant_heard (h : m.Granted ch f) :
    m.grant ch f =
      if m.pair.grantOk (m.claimNum m.role) (cfClaim f.body) (cfMcn f.body) (cfArg0 f.body) (cfArg1 f.body) m.obx.t0 = false then
        m.put (mkEvt (Config.otherCode 8 3) m.src 7 0 (leBytes 8 (cfClaim f.body) ++ leBytes 4 (cfArg0 f.body)))
      else m.takesOver := by
  obtain ⟨hk, hs, hh, hc, ha⟩ := h
  refine (if_neg ?_).trans ?_
  · rintro (h | h | h | h | h)
    · exact absurd (hk.symm.trans h) nofun
    · exact absurd (hs.symm.trans h) nofun
    · exact h hc
    · exact Nat.not_lt.mpr ha h
    · exact hh h
  · rfl

theorem Mod.grant_refused (h : m.Granted ch f)
    (hok : m.pair.grantOk (m.claimNum m.role) (cfClaim f.body) (cfMcn f.body) (cfArg0 f.body) (cfArg1 f.body) m.obx.t0 = false) :
    m.grant ch f = m.put (mkEvt (Config.otherCode 8 3) m.src 7 0 (leBytes 8 (cfClaim f.body) ++ leBytes 4 (cfArg0 f.body))) :=
  (m.grant_heard ch f h).trans (if_pos hok)

theorem Mod.grant_taken (h : m.Granted ch f)
    (hok : m.pair.grantOk (m.claimNum m.role) (cfClaim f.body) (cfMcn f.body) (cfArg0 f.body) (cfArg1 f.body) m.obx.t0 = true) :
    m.grant ch f = m.takesOver :=
  (m.grant_heard ch f h).trans (if_neg (by simp [hok]))
end

/-- The standby that took over is ACTIVE under its raised claim, and polls to fetch the state unless it followed (R341, R345). -/
theorem Mod.takesOver_spec :
    m.takesOver.role = roleACTIVE ∧ m.takesOver.obx.claim = m.raisedClaim ∧ m.takesOver.obx.master = true ∧
      m.takesOver.pair.epoch0.epoch = (claimOf m.raisedClaim).epoch ∧ m.takesOver.pair.epoch1 = m.takesOver.pair.epoch0 ∧
      m.takesOver.pair.lastChange = m.now ∧ m.takesOver.obx.hpoll = !(m.role == roleHOT) ∧
      m.takesOver.pair.changeKind = (if m.role = roleHOT then 1 else 2) ∧ m.takesOver.service = m.service := by
  have hnow : m.cleared.now = m.now := by rw [Mod.cleared, Mod.endChange_only]; rfl
  have hservice : m.cleared.service = m.service := by rw [Mod.cleared, Mod.endChange_only]
  unfold Mod.takesOver
  by_cases hr : m.role = roleHOT
  · simp [hr, Mod.sealLast_spec, hnow, hservice, Pair.store, EpochCopy.of]
  · simp [hr, hnow, hservice, Pair.store, EpochCopy.of]

theorem Mod.stbySend_spec (ch : Chan) (hs : m.isStandby = true) (hr : m.obx.running = true) (ht : m.obx.started = true) :
    (m.stbySend ch).pair = m.pair ∧ (m.stbySend ch).lanes = m.lanes ∧ ∃ pcc, (m.stbySend ch).sent = m.sent
      ++ [⟨m.clock, .opbex ch, claimFrame 0x30 (modAddr m.sid) (m.claimNum m.role) (m.obx.mcn % 4294967296) pcc 0
        (Config.farLinkKey (modAddr m.sid))⟩] := by
  rw [Mod.stbySend, if_neg (by simp [hs, hr, ht])]
  exact ⟨rfl, rfl, _, rfl⟩

/-- What the star answers to an STBY. -/
def stbyEcho (ch : Chan) (f : Frame) : Bytes := echoFrame 0x41 (starAddr ch) (cfMcn f.body) 0 0 0xFFFF (Config.farLinkKey (starAddr ch))

theorem Mod.stby_answered (ch : Chan) (port : Nat) (f : Frame) (hk : (f.good 0x30 && linkOk (Config.farLinkKey (faddr f.body)) f.body) = true)
    (hf : (m.star ch).first = true) :
    m.stby ch port f = (m.setStar ch { m.star ch with stby := some (cfClaim f.body, port % 2) }).send (.starTx ch) (stbyEcho ch f) := by
  have hdo : (m.star ch).stbyFrame ch (port % 2) f
      = ({ m.star ch with stby := some (cfClaim f.body, port % 2) }, [.send (.starTx ch) (stbyEcho ch f)]) := if_neg (by simp [hk, hf])
  rw [Mod.stby, hdo]
  rfl

/-! ### The stages of a swap (R349) -/

theorem Mod.swapOffer_accepted (n : Nat) (hr : m.role = roleHOT) (hl : m.pair.linkUp = true) (hs : m.service ≠ .held)
    (hrot : m.rotation = none) (hc : m.copy = none) (hj : m.jade.session = none) (hn : m.obx.mcn + 3 ≤ n) :
    m.swapOffer n = { m with pair := { m.pair.store m.pair.nextEpoch with swap := some ⟨n, .accepted, m.raisedClaim, false, false⟩ }
                             sent := m.sent ++ [m.pairFramed 0x18 (ctrlPayload ctrlACCEPT m.raisedClaim)] } := by
  rw [Mod.swapOffer, if_neg (by simp [hr, hl, hs, hrot, hc, hj, hn])]
  exact Mod.ctrl_up _ _ _ hl

/-- From `m` to `m'` a swap ended with the roles as they were: cuts resume. -/
def Mod.SwapEnded (m m' : Mod) : Prop := m'.pair.swap = none ∧ m'.stopCut = false ∧ m'.obx.handover = none ∧ m'.role = m.role

theorem Mod.swapEnd_ended : m.SwapEnded m.swapEnd := ⟨rfl, rfl, rfl, rfl⟩
theorem Mod.swapFail_ended : m.SwapEnded m.swapFail := ⟨rfl, rfl, rfl, m.ctrl_role _ _⟩

theorem Mod.swapChange_none (h : ∀ x ∈ m.voters, (m.lane x).rt.change = none) : m.swapChange = m := by
  have hnil : (m.voters.filterMap fun x => (m.lane x).rt.change) = [] := List.filterMap_eq_nil_iff.mpr h
  simp only [Mod.swapChange, hnil]
  rfl

/-- The ACTIVE module that stands down in a swap: STANDBY-HOT under its stored EPOCH. -/
def Mod.stoodDown (w : Swap) : Mod :=
  let n := m.setRole roleHOT
  { n with obx := { n.obx with claim := n.claimNum roleHOT, master := false, handover := none, acks := PerChan.const false }, stopCut := false
           pair := { n.pair with swap := none, following := some n.cycle, matches' := 16, partnerHot := false, hotCycles := 0, fackFor := none
                                 ownSum := none, peerSum := none, lastChange := n.now, changeKind := if w.fault then 4 else 3
                                 overdueAt := none } }

/-- The standby that takes the role of its partner in a swap. -/
def Mod.tookRole (w : Swap) (fault : Bool) : Mod :=
  let n := (m.lead w.newClaim true).put (swapEvt m.src w.m fault)
  { n with pair := { n.pair with swap := none, changeKind := if fault then 4 else 3, following := some n.cycle, partnerHot := true } }

theorem Mod.tookRole_spec (w : Swap) (fault : Bool) :
    (m.tookRole w fault).role = roleACTIVE ∧ (m.tookRole w fault).obx.master = true ∧ (m.tookRole w fault).obx.claim = w.newClaim ∧
      (m.tookRole w fault).pair.swap = none ∧ (m.tookRole w fault).pair.partnerHot = true ∧
      (m.tookRole w fault).pair.lastChange = m.now := by
  simp [Mod.tookRole]

/-- The SMGT handover as it is about to go to the stars. -/
def Mod.handing (w : Swap) : Mod := { m with obx := { m.obx with handover := some w.newClaim, acks := PerChan.const false } }

section
variable {w : Swap} (hw : m.pair.swap = some w)
include hw

theorem Mod.swapAccept_offered (n : Nat) (ha : m.role = roleACTIVE) (hs : w.stage = .offered) (hr : (claimOf n).role = roleACTIVE)
    (hsid : (claimOf n).sid = partnerSid m.sid) (hn : m.obx.claim < n) :
    m.swapAccept n = { m with pair := { m.pair.see n with swap := some { w with stage := .accepted, newClaim := n } } } := by
  simp only [Mod.swapAccept, hw]
  exact if_pos ⟨ha, hs, hr, hsid, hn⟩

theorem Mod.swapAbort_eq : m.swapAbort = if w.stage = .committed then m else m.swapEnd := by
  simp only [Mod.swapAbort, hw]

section
variable (ha : m.role = roleACTIVE)
include ha

theorem Mod.swapCutStop_due (hm : w.m ≤ m.obx.mcn + 2) :
    m.swapCutStop =
      if w.stage = .accepted then { m with stopCut := true, pair := { m.pair with swap := some { w with stage := .cutStopped } } }
      else if w.stage = .offered then m.swapFail
      else m := by
  simp only [Mod.swapCutStop, hw]
  exact if_neg (by simp [ha, hm])

section
variable (hm : w.m ≤ m.obx.mcn + 1) (hs : w.stage = .cutStopped)
include hm hs

theorem Mod.swapHandover_ready (hp : m.ph = .idle) (hh : m.handed = true) (hl : m.pair.linkUp = true) (hph : m.pair.partnerHot = true) :
    m.swapHandover = ((m.handing w).smgtSend .a).smgtSend .b := by
  simp only [Mod.swapHandover, hw]
  rw [if_neg (by simp [ha, hm, hs]), if_neg (by simp [hp, hh, hl, hph])]
  rfl

theorem Mod.swapHandover_unready (h : m.ph ≠ .idle ∨ m.pair.linkUp = false ∨ m.pair.partnerHot = false) :
    m.swapHandover = m.swapFail := by
  simp only [Mod.swapHandover, hw]
  rw [if_neg (by simp [ha, hm, hs]), if_pos (h.imp_right Or.inr)]
end
end

theorem Mod.swapRoles_uncommitted (ha : m.role = roleACTIVE) (hm : w.m ≤ m.obx.mcn) (hs : w.stage ≠ .committed) :
    m.swapRoles = m.swapFail := by
  simp only [Mod.swapRoles, hw]
  rw [if_neg (Nat.not_lt.mpr hm), if_pos ha, if_pos hs]

theorem Mod.swapRoles_active (ha : m.role = roleACTIVE) (hm : w.m ≤ m.obx.mcn) (hs : w.stage = .committed)
    (hc : ∀ x ∈ m.voters, (m.lane x).rt.change = none) :
    m.swapRoles = ((m.stoodDown w).put (swapEvt (m.stoodDown w).src w.m w.fault)).gates := by
  simp only [Mod.swapRoles, hw, m.swapChange_none hc]
  rw [if_neg (Nat.not_lt.mpr hm), if_pos ha, if_neg (not_not_intro hs)]
  rfl

theorem Mod.swapRoles_hot (hr : m.role = roleHOT) (hm : w.m ≤ m.obx.mcn) (hc : ∀ x ∈ m.voters, (m.lane x).rt.change = none) :
    ∃ fault, m.swapRoles = (m.tookRole w fault).sealLast := by
  have ha : ¬ m.role = roleACTIVE := fun h => absurd (hr.symm.trans h) (by decide)
  simp only [Mod.swapRoles, hw, m.swapChange_none hc]
  rw [if_neg (Nat.not_lt.mpr hm), if_neg ha, if_pos hr]
  exact ⟨_, rfl⟩

end

/-! ### SMGT (R198) -/

/-- Who is master, and what the handover of the star ports has come to. -/
def Obx.mastery (o : Obx) : Bool × Bool × Option Nat × PerChan Bool := (o.master, o.started, o.handover, o.acks)

theorem Obx.setCh_mastery (o : Obx) (ch : Chan) (c : ObxCh) : (o.setCh ch c).mastery = o.mastery := by cases ch <;> rfl

/-- The master of a started network sends one SMGT to a star. -/
theorem Mod.smgtSend_master (ch : Chan) {h : Option Nat} {acks : PerChan Bool} (hm : m.obx.mastery = (true, true, h, acks)) :
    (m.smgtSend ch).obx.mastery = (true, true, h, acks) ∧ (m.smgtSend ch).sent.length = m.sent.length + 1 ∧
      (m.smgtSend ch).pair = m.pair := by
  obtain ⟨hmaster, hstarted⟩ : m.obx.master = true ∧ m.obx.started = true := by
    simp only [Obx.mastery, Prod.mk.injEq] at hm
    exact ⟨hm.1, hm.2.1⟩
  rw [Mod.smgtSend, Obx.sendSmgt, if_neg (by simp [hmaster, hstarted])]
  exact ⟨(m.obx.setCh_mastery ch _).trans hm, List.length_append, rfl⟩

/-- The handover goes to both stars. -/
theorem Mod.handing_sent (w : Swap) (hm : m.obx.master = true) (hs : m.obx.started = true) :
    let n := ((m.handing w).smgtSend .a).smgtSend .b
    n.obx.handover = some w.newClaim ∧ n.obx.acks = PerChan.const false ∧ n.sent.length = m.sent.length + 2 ∧ n.pair = m.pair := by
  intro n
  have hhanding : (m.handing w).obx.mastery = (true, true, some w.newClaim, PerChan.const false) := by simp [Mod.handing, Obx.mastery, hm, hs]
  obtain ⟨ha, hsentA, hpairA⟩ := (m.handing w).smgtSend_master .a hhanding
  obtain ⟨hb, hsentB, hpairB⟩ := ((m.handing w).smgtSend .a).smgtSend_master .b ha
  exact ⟨congrArg (fun d => d.2.2.1) hb, congrArg (fun d => d.2.2.2) hb, hsentB.trans (congrArg (· + 1) hsentA), hpairB.trans hpairA⟩

/-! ### What starts a swap (R351, R360) -/

theorem Mod.startSwap_up (fault byMailbox : Bool) (hl : m.pair.linkUp = true) :
    m.startSwap fault byMailbox = { m with pair := { m.pair with swap := some ⟨m.obx.mcn + 4, .offered, 0, fault, byMailbox⟩ }
                                           sent := m.sent ++ [m.pairFramed 0x18 (ctrlPayload ctrlOFFER (m.obx.mcn + 4))] } := by
  rw [Mod.startSwap, m.ctrl_up _ _ hl]

theorem Mod.linkUp_of_not_hindered {forChange : Bool} (h : m.swapHindered forChange = false) : m.pair.linkUp = true := by
  simp only [Mod.swapHindered, Bool.or_eq_false_iff, Bool.not_eq_false'] at h
  exact h.2

theorem Mod.linkUp_of_not_blocked {forChange : Bool} (h : m.swapBlocked forChange = false) : m.pair.linkUp = true := by
  simp only [Mod.swapBlocked, Bool.or_eq_false_iff] at h
  exact m.linkUp_of_not_hindered h.2

/-- AUTOSWAP has tried at this instant. -/
def Mod.autoTried : Mod := { m with pair := { m.pair with autoTriedAt := some m.now } }

theorem Mod.autoswap_due (ha : m.role = roleACTIVE) (hon : Bytes.nat (m.jade.setting m.sid 4) = 1) (hfrom : m.autoswapAt ≤ m.now)
    (hto : m.now ≤ m.autoswapAt + 14400000000000) (hn : m.pair.autoTriedAt = none) :
    m.autoswap = if m.swapBlocked false then m.autoTried else m.autoTried.startSwap false false := by
  have hspan : 4 * 3600 * secNs = 14400000000000 := rfl
  simp only [Mod.autoswap, hn]
  exact if_neg (by simp [ha, hon, hfrom, hspan, hto])

theorem Mod.swapOverdue_due (ha : m.role = roleACTIVE) (ht : m.pair.lastChange + 604800000000000 ≤ m.now) (hn : m.pair.overdueAt = none) :
    m.swapOverdue = ({ m with pair := { m.pair with overdueAt := some m.clock } } : Mod).put
      (mkEvt 0x8003 m.src 7 0 (leBytes 8 m.pair.lastChange)) := by
  have hspan : 7 * dayNs = 604800000000000 := rfl
  simp only [Mod.swapOverdue, hn]
  exact if_neg (by simp [ha, hspan, ht])

section
variable {q : PairStatus} (ha : m.role = roleACTIVE) (hs : m.inService = true) (hh : m.swapHindered false = false)
  (hq : m.pair.partner = some q) (hp : m.lostIfc &&& q.health = 0)
include ha hs hh hq hp

theorem Mod.faultSwap_lost (hl : m.lostIfc ≠ 0) : m.faultSwap = m.startSwap true false := by
  simp only [Mod.faultSwap, hq]
  exact if_neg (by simp [ha, hs, hh, hl, hp])
end

theorem Mod.faultSwap_whole (hl : m.lostIfc = 0) : m.faultSwap = m := if_pos (Or.inr (Or.inr (Or.inr (Or.inl hl))))

end

section
variable (t : Nat) (s : State)
theorem exec_grant (ch : Chan) (f : Frame) : exec (.grant ch f t) s = s.at t fun m => m.grant ch f := rfl
theorem exec_stbySend (ch : Chan) : exec (.stbySend ch t) s = s.at t fun m => m.stbySend ch := rfl
theorem exec_stby (ch : Chan) (port : Nat) (f : Frame) : exec (.stby ch port f t) s = s.at t fun m => m.stby ch port f := rfl
theorem exec_swapOffer (n : Nat) : exec (.swapOffer n t) s = s.at t fun m => m.swapOffer n := rfl
theorem exec_swapAccept (n : Nat) : exec (.swapAccept n t) s = s.at t fun m => m.swapAccept n := rfl
theorem exec_swapAbort : exec (.swapAbort t) s = s.at t Mod.swapAbort := rfl
theorem exec_swapCutStop : exec (.swapCutStop t) s = s.at t Mod.swapCutStop := rfl
theorem exec_swapStarHandover : exec (.swapStarHandover t) s = s.at t Mod.swapHandover := rfl
theorem exec_swapRoleChange : exec (.swapRoleChange t) s = s.at t Mod.swapRoles := rfl
theorem exec_autoswapStart : exec (.autoswapStart t) s = s.at t Mod.autoswap := rfl
theorem exec_swapOverdue : exec (.swapOverdue t) s = s.at t Mod.swapOverdue := rfl
theorem exec_faultSwap : exec (.faultSwap t) s = s.at t Mod.faultSwap := rfl
end

/-- Settles O46: a GRANT that names the standby is decided by its conditions, and at its minor cycle each stage of a swap goes on or ends it. -/
theorem takeoverAndSwapFollowTheirSequence : Obligations.TakeoverAndSwapFollowTheirSequence := by
  unfold Obligations.TakeoverAndSwapFollowTheirSequence
  intro s ch f n t m0 p b raised ctrl ended grantFrame
  refine ⟨fun h hok => Completes.of_at (exec_grant t s ch f) ?_, fun h hok => Completes.of_at (exec_grant t s ch f) ?_,
    fun hs hr ht => Completes.of_at (exec_stbySend t s ch) (m0.stbySend_spec ch hs hr ht), fun port hk hf => ?_,
    fun hr hl hs hrot hc hj hn => ?_,
    fun w hw => ⟨fun ha hs hr hsid hn => ?_, fun hs => ?_, fun hs => ?_, fun ha hm hs => ?_, fun ha hm hs => ?_,
      fun ha hm hs hp hh hl hph hma hst => ?_, fun ha hm hs hbad => ?_, fun ha hm hs hc => ?_, fun ha hm hs => ?_, fun hr hm hc => ?_⟩,
    fun ha hon hfrom hto hn => ⟨fun hb => ?_, fun hb => ?_⟩, fun ha ht hn => ?_,
    fun q ha hs hh hq hp => ⟨fun hl => ?_, fun hl => ?_⟩⟩
  · rw [m0.grant_taken ch f h hok]
    exact m0.takesOver_spec
  · rw [m0.grant_refused ch f h hok]
    exact ⟨rfl, rfl, rfl⟩
  · refine Completes.of_at (exec_stby t s ch port f) ?_
    rw [m0.stby_answered ch port f hk hf]
    exact ⟨congrArg Star.stby (PerChan.get_set_self ..), rfl, rfl⟩
  · refine Completes.of_at (exec_swapOffer t s n) ?_
    rw [m0.swapOffer_accepted n hr hl hs hrot hc hj hn]
    exact ⟨rfl, rfl, hr⟩
  · refine Completes.of_at (exec_swapAccept t s n) ?_
    rw [m0.swapAccept_offered hw n ha hs hr hsid hn]
    exact ⟨rfl, ha⟩
  · refine Completes.of_at (exec_swapAbort t s) ?_
    rw [m0.swapAbort_eq hw, if_neg hs]
    exact m0.swapEnd_ended
  · exact (exec_swapAbort t s).trans (State.at_unchanged s t _ ((m0.swapAbort_eq hw).trans (if_pos hs)))
  · refine Completes.of_at (exec_swapCutStop t s) ?_
    rw [m0.swapCutStop_due hw ha hm, if_pos hs]
    exact ⟨rfl, rfl, ha⟩
  · refine Completes.of_at (exec_swapCutStop t s) ?_
    rw [m0.swapCutStop_due hw ha hm, if_neg (by simp [hs]), if_pos hs]
    exact m0.swapFail_ended
  · refine Completes.of_at (exec_swapStarHandover t s) ?_
    rw [m0.swapHandover_ready hw ha hm hs hp hh hl hph]
    exact m0.handing_sent w hma hst
  · refine Completes.of_at (exec_swapStarHandover t s) ?_
    rw [m0.swapHandover_unready hw ha hm hs hbad]
    exact m0.swapFail_ended
  · refine Completes.of_at (exec_swapRoleChange t s) ?_
    rw [m0.swapRoles_active hw ha hm hs hc]
    simp only [Mod.gates_role, Mod.gates_obx, Mod.gates_pair, Mod.gates_stopCut]
    exact ⟨rfl, rfl, rfl, rfl, rfl, rfl⟩
  · refine Completes.of_at (exec_swapRoleChange t s) ?_
    rw [m0.swapRoles_uncommitted hw ha hm hs]
    exact m0.swapFail_ended
  · obtain ⟨fault, hroles⟩ := m0.swapRoles_hot hw hr hm hc
    refine Completes.of_at (exec_swapRoleChange t s) ?_
    rw [hroles]
    exact m0.tookRole_spec w fault
  · refine Completes.of_at (exec_autoswapStart t s) ?_
    rw [m0.autoswap_due ha hon hfrom hto hn, if_neg (by simp [hb]), m0.autoTried.startSwap_up false false (m0.linkUp_of_not_blocked hb)]
    exact ⟨rfl, rfl, ha⟩
  · refine Completes.of_at (exec_autoswapStart t s) ?_
    rw [m0.autoswap_due ha hon hfrom hto hn, if_pos hb]
    exact ⟨rfl, rfl⟩
  · refine Completes.of_at (exec_swapOverdue t s) ?_
    rw [m0.swapOverdue_due ha ht hn]
    exact ⟨rfl, ha, rfl⟩
  · refine Completes.of_at (exec_faultSwap t s) ?_
    rw [m0.faultSwap_lost ha hs hh hq hp hl, m0.startSwap_up true false (m0.linkUp_of_not_hindered hh)]
    exact ⟨rfl, rfl⟩
  · exact (exec_faultSwap t s).trans (State.at_unchanged s t _ (m0.faultSwap_whole hl))

end Sys2Proof.Machine
end

