-- ==== Sys2Proof/Proofs/PairClaims.lean ====
section
/-!
SUPPORT and the settled statement on claims and on the events of the pair link: relinquish, demotion, CTRL reports, a fault of the link and
its retrain, a higher claim (11_module_pair.md R330, R333, R337, R338, R346; 15_lifecycle_identity_update.md R419).
-/
namespace Sys2Proof.Machine

section
variable (m : Mod)

/-! ### Relinquish (R346) -/

/-- The module without the ACTIVE role: it stops sending on Opbex. -/
def Mod.gaveUp : Mod :=
  { m.setRole 0 with obx := { m.obx with master := false, running := false, claim := 0 }
                     pair := { m.pair.loseHot with relinquishAt := none } }

section
variable {u : Nat} (hu : m.pair.relinquishAt = some u)
include hu

theorem Mod.relinquishAck_in_time (ha : m.role = roleACTIVE) (hh : m.service = .held) (ht : m.clock ≤ u + 1000000) :
    m.relinquishAck = m.gaveUp := by
  simp only [Mod.relinquishAck, hu]
  rw [if_neg (by simp [ha, hh, ht])]
  rfl

theorem Mod.relinquishAck_late (ht : u + 1000000 < m.clock) : m.relinquishAck = m := by
  simp only [Mod.relinquishAck, hu]
  exact if_pos (Or.inr (Or.inr ht))

theorem Mod.relinquishLate_due (ht : u + 1000000 ≤ m.clock) :
    m.relinquishLate = { m with pair := { m.pair with relinquishAt := none } } := by
  simp only [Mod.relinquishLate, hu]
  exact if_neg (Nat.not_lt.mpr ht)
end

theorem Mod.relinquished_hot (hr : m.role = roleHOT) (hl : m.pair.linkUp = true) :
    m.relinquished = { m with pair := { m.pair with relinquished := true }
                              sent := m.sent ++ [m.pairFramed 0x18 (ctrlPayload ctrlRELACK (m.claimNum m.role))] } := by
  rw [Mod.relinquished, if_neg (by simp [hr, hl])]
  exact Mod.ctrl_up _ _ _ hl

/-! ### Demotion and life cycle (R333, R419) -/

theorem Mod.demote_standby (hs : m.isStandby = true) (hl : m.pair.linkUp = true) : m.demote = m.toCold := if_neg (by simp [hs, hl])

theorem Mod.lcPass_standby (st : LcState) (cycle : Nat) (signer : Bytes) (hl : m.pair.linkUp = true) (hr : m.role ≠ roleACTIVE) :
    m.lcPass st cycle signer = { m with lcWait := some ⟨st, cycle, signer⟩ } := if_neg (by simp [hl, hr])

/-! ### CTRL reports (R338) -/

theorem Mod.ctrlStatus_stranger (q : PairStatus) (hl : m.pair.linkUp = true) (hq : (claimOf q.claim).sid ≠ partnerSid m.sid) :
    m.ctrlStatus q = ({ m with pair := { m.pair.loseHot with present := false, partner := none } } : Mod).put
      (mkEvt (Config.otherCode 8 4) 3 7 0 (leBytes 1 (claimOf q.claim).sid)) := by
  rw [Mod.ctrlStatus, if_neg (by simp [hl]), if_pos hq]

/-- A report to the ACTIVE module changes what it knows of its partner and of time, and no lane. -/
theorem Mod.ctrlStatus_active (q : PairStatus) (hl : m.pair.linkUp = true) (hq : (claimOf q.claim).sid = partnerSid m.sid)
    (ha : m.role = roleACTIVE) :
    (m.ctrlStatus q).pair.present = true ∧ (m.ctrlStatus q).pair.partner = some q ∧
      (m.ctrlStatus q).pair.partnerHot = ((claimOf q.claim).role == roleHOT) ∧
      (m.ctrlStatus q).pair.epochSeen = max m.pair.epochSeen (q.claim / 65536) ∧
      (m.ctrlStatus q).pair.lastChange = max m.pair.lastChange q.lastChange ∧
      (m.ctrlStatus q).role = roleACTIVE ∧ (m.ctrlStatus q).lanes = m.lanes := by
  have hhot : ¬ (m.role = roleHOT ∧ q.lcState ≠ m.jade.lc.code) := fun h => absurd (ha.symm.trans h.1) (by decide)
  rw [Mod.ctrlStatus, if_neg (by simp [hl]), if_neg (not_not_intro hq)]
  dsimp only
  rw [if_neg hhot]
  exact ⟨rfl, rfl, by simp [ha], rfl, rfl, ha, rfl⟩

/-! ### The link (R337) -/

/-- The pair link as its fault leaves it: it is trained again 10 s later. -/
def Mod.linkDropped : Mod :=
  ({ m with pair := { m.pair with linkUp := false, retrainAt := some (m.clock + 10 * secNs) } } : Mod).put
    (mkEvt (Config.otherCode 8 5) m.src 6 0 [])

theorem Mod.pairLinkFault_standby (hl : m.pair.linkUp = true) (hs : m.isStandby = true) : m.pairLinkFault = m.linkDropped.toCold := by
  have hst : m.linkDropped.isStandby = true := hs
  rw [Mod.pairLinkFault, if_neg (by simp [hl])]
  exact if_pos hst

theorem Mod.pairLinkFault_active (hl : m.pair.linkUp = true) (ha : m.role = roleACTIVE) (hw : m.pair.swap = none) :
    m.pairLinkFault = { m.linkDropped with pair := { m.linkDropped.pair.loseHot with fackFor := m.pair.fackFor } } := by
  have hst : ¬ m.linkDropped.isStandby = true := by simp [Mod.isStandby, Mod.linkDropped, ha, roleACTIVE, roleHOT, roleCOLD]
  rw [Mod.pairLinkFault, if_neg (by simp [hl])]
  refine (if_neg hst).trans ?_
  dsimp only
  split
  case h_1 w hsome => exact absurd (hw.symm.trans hsome) (by simp)
  case h_2 => rfl

section
variable {u : Nat} (hu : m.pair.retrainAt = some u) (ok : Bool)
include hu

theorem Mod.pairLinkRetrain_due (hd : m.pair.linkUp = false) (hp : m.power.good = true) (ht : u ≤ m.clock) :
    m.pairLinkRetrain ok = if ok then { m with pair := { m.pair with linkUp := true, retrainAt := none } }
      else { m with pair := { m.pair with retrainAt := some (m.clock + 10 * secNs) } } := by
  simp only [Mod.pairLinkRetrain, hu]
  exact if_neg (by simp [hd, hp, ht])

theorem Mod.pairLinkRetrain_early (ht : m.clock < u) : m.pairLinkRetrain ok = m := by
  simp only [Mod.pairLinkRetrain, hu]
  exact if_pos (Or.inr (Or.inl (decide_eq_false (Nat.not_le.mpr ht))))
end

/-! ### Higher claims (R330) -/

/-- An ACTIVE module without a hot partner has nobody to relinquish to as it enters HELD (R346). -/
theorem Mod.enterHeld_alone (cause : Nat) (hs : m.service ≠ .held) (ha : m.role = roleACTIVE) (hp : m.pair.partnerHot = false) :
    (m.enterHeld cause).pair = m.pair := by
  simp [Mod.enterHeld, hs, Mod.heldRole, ha, hp, roleACTIVE, roleHOT]

/-- The ACTIVE module as it notes a claim above its own. -/
def Mod.outclaimed (claim : Nat) : Mod :=
  ({ m with pair := (m.pair.see claim).loseHot } : Mod).put (mkEvt (Config.otherCode 8 2) m.src 7 0 (leBytes 8 claim))

/-- The module in HELD, which keeps the role no longer. -/
def Mod.givenWay (claim : Nat) : Mod :=
  let n := (m.outclaimed claim).enterHeld 0xA
  { n.setRole roleCOLD with obx := { n.obx with master := false, claim := n.claimNum roleCOLD } }

theorem Mod.givenWay_spec (claim : Nat) (ha : m.role = roleACTIVE) (hs : m.service ≠ .held) :
    (m.givenWay claim).service = .held ∧ (m.givenWay claim).heldCause = 0xA ∧ (m.givenWay claim).role = roleCOLD ∧
      (m.givenWay claim).obx.master = false ∧ (m.givenWay claim).pair.partnerHot = false ∧
      (m.givenWay claim).pair.epochSeen = max m.pair.epochSeen (claim / 65536) := by
  have hpair : (m.givenWay claim).pair = (m.outclaimed claim).pair := (m.outclaimed claim).enterHeld_alone 0xA hs ha rfl
  obtain ⟨-, hcause, -⟩ := (m.outclaimed claim).enterHeld_first 0xA hs
  rw [hpair]
  exact ⟨(m.outclaimed claim).enterHeld_service 0xA, hcause, rfl, rfl, rfl, rfl⟩

theorem Mod.higherClaim_seen (claim : Nat) (h : m.role ≠ roleACTIVE ∨ higherActive claim (m.claimNum roleACTIVE) = false) :
    m.higherClaim claim = { m with pair := m.pair.see claim } := if_pos h

theorem Mod.higherClaim_higher (claim : Nat) (ha : m.role = roleACTIVE) (h : higherActive claim (m.claimNum roleACTIVE) = true) :
    m.higherClaim claim =
      let n := m.givenWay claim
      if n.full then ({ n with lio := (n.lio.deenergise n.can n.clock).1 } : Mod).puts (n.lio.deenergise n.can n.clock).2 else n :=
  if_neg (by simp [ha, h])

/-- De-energising the outputs leaves everything but the local I/O and the recorder. -/
theorem Mod.higherClaim_only (claim : Nat) (ha : m.role = roleACTIVE) (h : higherActive claim (m.claimNum roleACTIVE) = true) :
    m.higherClaim claim = { m.givenWay claim with lio := (m.higherClaim claim).lio, amber := (m.higherClaim claim).amber } := by
  rw [m.higherClaim_higher claim ha h]
  dsimp only
  split
  · rw [Mod.puts_amber_only]
  · rfl

end

section
variable (t : Nat) (s : State)
theorem exec_relinquishAck : exec (.relinquishAck t) s = s.at t Mod.relinquishAck := rfl
theorem exec_relinquishAckTimeout : exec (.relinquishAckTimeout t) s = s.at t Mod.relinquishLate := rfl
theorem exec_relinquishReceived : exec (.relinquishReceived t) s = s.at t Mod.relinquished := rfl
theorem exec_standbyDemote : exec (.standbyDemote t) s = s.at t Mod.demote := rfl
theorem exec_lcStatePass (st : LcState) (cycle : Nat) (signer : Bytes) :
    exec (.lcStatePass st cycle signer t) s = s.at t fun m => m.lcPass st cycle signer := rfl
theorem exec_pairCtrlStatus (q : PairStatus) : exec (.pairCtrlStatus q t) s = s.at t fun m => m.ctrlStatus q := rfl
theorem exec_pairLinkFault : exec (.pairLinkFault t) s = s.at t Mod.pairLinkFault := rfl
theorem exec_pairLinkRetrain (ok : Bool) : exec (.pairLinkRetrain ok t) s = s.at t fun m => m.pairLinkRetrain ok := rfl
theorem exec_higherClaimReceived (claim : Nat) : exec (.higherClaimReceived claim t) s = s.at t fun m => m.higherClaim claim := rfl
end

/-- Settles O47: each event has one branch that acts, and its conditions are those that choose it. -/
theorem claimsAndLinkEventsSetTheRoles : Obligations.ClaimsAndLinkEventsSetTheRoles := by
  unfold Obligations.ClaimsAndLinkEventsSetTheRoles
  intro s t m0 p cold
  have hcold (m : Mod) (hs : m.inService = s.m.inService) : cold m.toCold :=
    ⟨m.toCold_role, by simp [Pair.cold, Pair.follows], fun h => m.toCold_service (hs.trans h), m.toCold_voters⟩
  refine ⟨fun u hu ha hh => ⟨fun ht => ?_, fun ht => ?_, fun ht => ?_⟩, fun hr hl => ?_, fun hs hl => ?_, fun st cyc signer hl hr => ?_,
    fun q hl hq ha => ?_, fun q hl hq => ?_, fun hl => ⟨fun hs => ?_, fun ha hw => ?_⟩,
    fun u hd hu hp => ⟨fun ht => ?_, fun ht => ?_, fun ok ht => ?_⟩, fun claim ha hh hc => ?_, fun claim h => ?_⟩
  · refine Completes.of_at (exec_relinquishAck t s) ?_
    rw [m0.relinquishAck_in_time hu ha hh ht]
    exact ⟨rfl, rfl, rfl, rfl, rfl, hh⟩
  · exact (exec_relinquishAck t s).trans (State.at_unchanged s t _ (m0.relinquishAck_late hu ht))
  · refine Completes.of_at (exec_relinquishAckTimeout t s) ?_
    rw [m0.relinquishLate_due hu ht]
    exact ⟨ha, hh, rfl⟩
  · refine Completes.of_at (exec_relinquishReceived t s) ?_
    rw [m0.relinquished_hot hr hl]
    refine ⟨rfl, hr, ?_⟩
    rw [show m0.role = roleHOT from hr]
    rfl
  · refine Completes.of_at (exec_standbyDemote t s) ?_
    rw [m0.demote_standby hs hl]
    exact hcold m0 rfl
  · rw [exec_lcStatePass, State.at, m0.lcPass_standby st cyc signer hl hr]
  · exact Completes.of_at (exec_pairCtrlStatus t s q) (m0.ctrlStatus_active q hl hq ha)
  · refine Completes.of_at (exec_pairCtrlStatus t s q) ?_
    rw [m0.ctrlStatus_stranger q hl hq]
    exact ⟨rfl, rfl, rfl, rfl⟩
  · refine Completes.of_at (exec_pairLinkFault t s) ?_
    rw [m0.pairLinkFault_standby hl hs]
    refine ⟨hcold m0.linkDropped rfl, ?_⟩
    rw [Mod.toCold_pair]
    exact ⟨rfl, rfl⟩
  · refine Completes.of_at (exec_pairLinkFault t s) ?_
    rw [m0.pairLinkFault_active hl ha hw]
    exact ⟨rfl, rfl, ha, rfl, rfl, rfl⟩
  · rw [exec_pairLinkRetrain, State.at, m0.pairLinkRetrain_due hu true hd hp ht]
    rfl
  · rw [exec_pairLinkRetrain, State.at, m0.pairLinkRetrain_due hu false hd hp ht]
    rfl
  · exact (exec_pairLinkRetrain t s ok).trans (State.at_unchanged s t _ (m0.pairLinkRetrain_early hu ok ht))
  · refine Completes.of_at (exec_higherClaimReceived t s claim) ?_
    rw [m0.higherClaim_only claim ha hc]
    exact m0.givenWay_spec claim ha hh
  · rw [exec_higherClaimReceived, State.at, m0.higherClaim_seen claim h]
    rfl

end Sys2Proof.Machine
end

