-- ==== Sys2Proof/Proofs/LaneTests.lean ====
section
/-!
SUPPORT and the settled statement on a lane's test operations: corrected words, stopped slices, injections and the lane control registers
(13_startup_and_self_test.md R378, R387, R389, R391; 16_movers_checks_crossings.md R441, R458).
-/
namespace Sys2Proof.Machine

/-! ### Corrected words (R391) -/

section
variable (m : Mod) (x : Lane) (target kind faddr addr : Nat)

/-- The corrections of the last 24 h that a lane knows of with the one made now. -/
def Mod.eccSeen : List (Nat × Nat × Nat) :=
  ((m.lane x).test.ecc.filter fun e => decide (m.clock < e.2.2 + dayNs)) ++ [(target, addr, m.clock)]

/-- How often the word was corrected in the last 24 h. -/
def Mod.eccCount : Nat := ((m.eccSeen x target addr).filter fun e => e.1 == target && e.2.1 == addr).length

/-- The lane that counted the correction. -/
def Mod.eccCounted : LaneSt :=
  let l := m.lane x
  { l with test := { l.test with ecc := m.eccSeen x target addr } }

/-- The repair candidate of the word: it has no spare yet. -/
def Mod.eccEntry : RepairEnt := ⟨target, kind, 0xFF, 5, faddr, m.laneTime x / 1000000000 % 2 ^ 32⟩

variable (hp : (m.lane x).powered = true)
include hp

theorem Mod.eccCandidate_counted (hn : m.eccCount x target addr < 3) :
    m.eccCandidate x target kind faddr addr = m.setLane x (m.eccCounted x target addr) :=
  (if_neg (by simp [hp])).trans (if_pos (Or.inl hn))

/-- The third correction makes the word a candidate, where the record has room and does not hold its place (R391). -/
theorem Mod.eccCandidate_third (hn : 3 ≤ m.eccCount x target addr) (hroom : (repairEnts (m.lane x).mram).length < 256)
    (hnew : ∀ e ∈ repairEnts (m.lane x).mram, e.target = target → e.faddr ≠ faddr) :
    m.eccCandidate x target kind faddr addr =
      (m.setLane x { m.eccCounted x target addr with
          mram := repairWrite (m.lane x).mram (repairEnts (m.lane x).mram ++ [m.eccEntry x target kind faddr]) }).put
        (mkEvt 0xB002 x.idx 2 (bits target 23 16) (m.eccEntry x target kind faddr).bytes) := by
  have hfresh : ¬((repairEnts (m.lane x).mram).any fun e => e.target == target && e.faddr == faddr) = true := by
    simpa using hnew
  exact (if_neg (by simp [hp])).trans (if_neg (not_or.mpr ⟨Nat.not_lt.mpr hn, not_or.mpr ⟨Nat.not_le.mpr hroom, hfresh⟩⟩))
end

/-! ### A slice stopped at 100 µs (R387) -/

section
variable (l : LaneSt) (full : Bool) (s cycle me : Nat)

/-- What a stopped slice gives: no reading, and a duration over the limit. -/
def SliceIn.stopped : SliceIn := ⟨[], 101⟩

theorem sliceResult_stopped_verdict : (sliceResult full s cycle .stopped).verdict = 2 := rfl

/-- The lane once it keeps the stopped slice as one more incomplete round; the fourth in a row is an overrun. -/
def LaneSt.incompleted : LaneSt :=
  let n := l.test.incomplete.getD s 0 + 1
  { l with test := { l.test with slices := l.test.slices.set s (sliceResult full s cycle .stopped), incomplete := l.test.incomplete.set s n
                                 missing := l.test.missing.filter (· ≠ s), bist := if 4 ≤ n then .overrun else l.test.bist } }

/-- A stopped slice has failed no check, so that only the overrun is recorded besides. -/
theorem LaneSt.slice_stopped :
    l.slice full s cycle .stopped me =
      if l.test.incomplete.getD s 0 + 1 = 4 then (l.incompleted full s cycle).stage (mkEvt (Config.otherCode 0xB 1) me 3 8 (leBytes 4 s))
      else l.incompleted full s cycle := by
  simp only [LaneSt.slice, SliceIn.stopped, List.take_nil, List.any_nil]
  rfl

theorem LaneSt.slice_stopped_keeps :
    (l.slice full s cycle .stopped me).test = (l.incompleted full s cycle).test ∧ (l.slice full s cycle .stopped me).voting = l.voting := by
  rw [LaneSt.slice_stopped]
  split <;> exact ⟨rfl, rfl⟩
end

/-- In service a counting lane keeps the slice of the cycle as incomplete. -/
theorem Mod.sliceIncomplete_counting (m : Mod) (x : Lane) (hs : m.inService = true) (hv : (m.lane x).voting = true) :
    m.sliceIncomplete x = m.setLane x ((m.lane x).slice m.full (m.cycle % 32) m.cycle .stopped x.idx) :=
  if_neg (by simp [hs, hv])

/-! ### The lane control unit (R378, R441, R458) -/

section
variable (l : LaneSt)

/-- What an injection gives in test mode (R378); a result other than R378 asks for is captured with level 4 (assumption log 78). -/
theorem LaneSt.inject_tested (w : Word32) (both sil : Bool) (lat : Nat) (ht : l.testMode = true) :
    let l' := l.inject w both sil lat
    l'.lct.inj = w &&& 0x3FFF#32 ∧ l'.lct.injres = BitVec.ofNat 32 (b2n both + 2 * b2n sil + 16 * (lat % 16) + 2 ^ 31) ∧
      l'.silent = (l.silent || sil) ∧ l'.lct.irq.getLsbD 3 = true ∧
      l'.lct.errcap = (if both = true ∧ sil = true ∧ lat ≤ 2 then l.lct.errcap else captureErr l.lct.errcap 4 4) := by
  unfold LaneSt.inject
  rw [if_neg (by simp [ht])]
  by_cases hok : both = true ∧ sil = true ∧ lat ≤ 2
  · simp only [if_pos hok]
    cases sil <;> cases l.silent <;> simp [LaneSt.lctRaise, LaneSt.quiet, lctINJ]
  · simp only [if_neg hok]
    cases sil <;> cases l.silent <;> simp [LaneSt.lctRaise, LaneSt.lctError, LaneSt.quiet, lctINJ]

theorem LaneSt.inject_untested (w : Word32) (both sil : Bool) (lat : Nat) (ht : l.testMode = false) : l.inject w both sil lat = l := if_pos ht

/-- SILCLR lets the core pair of a released lane run again (assumption log 83). -/
theorem LaneSt.silClear_tested (ht : l.testMode = true) : l.silClear = { l with silent := false, stopped := !l.released } := if_pos ht

theorem LaneSt.silClear_untested (ht : l.testMode = false) : l.silClear = l := if_neg (by simp [ht])
end

theorem PerLane.set_get {α : Type} (p : PerLane α) (x : Lane) : p.set x (p.get x) = p := by cases x <;> rfl

/-- An action that leaves its lane as it was leaves the lanes. -/
theorem Mod.laneDo_lanes_of_fixed (m : Mod) (x : Lane) (f : LaneSt → LaneSt) (h : f (m.lane x) = m.lane x) : (m.laneDo x f).lanes = m.lanes := by
  unfold Mod.laneDo
  split
  · rw [Mod.modLane, h]
    exact PerLane.set_get m.lanes x
  · rfl

/-! ### The commands -/

section
variable (x : Lane) (t : Nat) (s : State)
theorem exec_eccCandidate (target kind faddr addr : Nat) :
    exec (.eccCandidate x target kind faddr addr t) s = s.at t fun m => m.eccCandidate x target kind faddr addr := rfl
theorem exec_sliceIncomplete : exec (.sliceIncomplete x t) s = s.at t fun m => m.sliceIncomplete x := rfl
theorem exec_lctInjGo (w : Word32) (both sil : Bool) (lat : Nat) :
    exec (.lctInjGo x w both sil lat t) s = s.at t fun m => m.laneDo x fun l => l.inject w both sil lat := rfl
theorem exec_lctSilclr : exec (.lctSilclr x t) s = s.at t fun m => m.laneDo x LaneSt.silClear := rfl
theorem exec_lctErrcapRead : exec (.lctErrcapRead x t) s = s.at t fun m => m.laneDo x LaneSt.readLctErr := rfl
theorem exec_npReadDiscard : exec (.npReadDiscard x t) s = s.at t fun m => m.laneDo x fun l => l.lctError 5 3 := rfl
end

/-- Settles O49: each operation sets its own lane and nothing else, and the clause says what it makes of that lane. -/
theorem laneTestOperationsTakeEffect : Obligations.LaneTestOperationsTakeEffect := by
  unfold Obligations.LaneTestOperationsTakeEffect
  intro s x t m0 l rest hp
  have hset (l' : LaneSt) : rest (m0.setLane x l') := ⟨rfl, rfl, rfl, fun y hy => m0.lane_setLane_ne x y l' hy⟩
  have hself (l' : LaneSt) : (m0.setLane x l').lane x = l' := m0.lane_setLane_self x l'
  have hdo (f : LaneSt → LaneSt) : m0.laneDo x f = m0.setLane x (f l) := m0.laneDo_of_powered x f hp
  refine ⟨fun target kind faddr addr => ⟨fun hn => ?_, fun hn hroom hnew => ?_⟩, fun hs hv hsl hin => ?_,
    fun w both sil lat => ⟨fun ht => ?_, fun ht => ?_⟩, fun ht => ?_, fun ht => ?_, ?_, ?_⟩
  · refine Completes.of_at (exec_eccCandidate x t s target kind faddr addr) ?_
    rw [m0.eccCandidate_counted x target kind faddr addr hp hn]
    exact ⟨hset _, hself _⟩
  · refine Completes.of_at (exec_eccCandidate x t s target kind faddr addr) ?_
    rw [m0.eccCandidate_third x target kind faddr addr hp hn hroom hnew, Mod.lane_put, hself]
    exact ⟨hset _, rfl, rfl⟩
  · refine Completes.of_at (exec_sliceIncomplete x t s) ?_
    rw [m0.sliceIncomplete_counting x hs hv]
    have hk : s.m.cycle % 32 < 32 := Nat.mod_lt _ (by decide)
    obtain ⟨htest, hvote⟩ := l.slice_stopped_keeps m0.full (s.m.cycle % 32) s.m.cycle x.idx
    rw [hself]
    refine ⟨hset _, ?_, ?_, fun h3 => ?_, hvote.trans hv⟩
    all_goals rw [show ((m0.lane x).slice m0.full (m0.cycle % 32) m0.cycle .stopped x.idx).test = _ from htest]
    · rw [LaneSt.incompleted, List.getD_eq_getElem _ _ (by simp [hsl, hk]), List.getElem_set_self]
      exact sliceResult_stopped_verdict m0.full (s.m.cycle % 32) s.m.cycle
    · rw [LaneSt.incompleted, List.getD_eq_getElem _ _ (by simp [hin, hk]), List.getElem_set_self]
    · exact if_pos (Nat.succ_le_succ h3)
  · refine Completes.of_at (exec_lctInjGo x t s w both sil lat) ?_
    rw [hdo, hself]
    exact ⟨hset _, l.inject_tested w both sil lat ht⟩
  · exact Completes.of_at (exec_lctInjGo x t s w both sil lat) (m0.laneDo_lanes_of_fixed x _ (l.inject_untested w both sil lat ht))
  · refine Completes.of_at (exec_lctSilclr x t s) ?_
    rw [hdo, hself]
    exact ⟨hset _, l.silClear_tested ht⟩
  · exact Completes.of_at (exec_lctSilclr x t s) (m0.laneDo_lanes_of_fixed x _ (l.silClear_untested ht))
  · refine Completes.of_at (exec_lctErrcapRead x t s) ?_
    rw [hdo, hself]
    exact ⟨hset _, rfl⟩
  · refine Completes.of_at (exec_npReadDiscard x t s) ?_
    rw [hdo, hself]
    exact ⟨hset _, rfl⟩

end Sys2Proof.Machine
end

