-- ==== Sys2Proof/Proofs/PowerAndBoot.lean ====
section
/-!
SUPPORT. Power good, the slot coding and the boot of Jade: what each of them sets and what it leaves alone
(13_startup_and_self_test.md R370, R374; 19_connectors_and_ratings.md R492).
-/
namespace Sys2Proof.Machine

/-! ### Power good (R370) -/

section
variable (m : Mod)

/-- A restart leaves the module in STARTING with no role, its processors and its lanes in reset. -/
theorem Mod.restarted_spec :
    m.restarted.service = .starting ∧ m.restarted.role = 0 ∧ m.restarted.procs = Procs.reset ∧ m.restarted.jade.mode = .off ∧
      m.restarted.sid = m.sid ∧ m.restarted.bootAt = m.clock ∧
      ∀ x, (m.restarted.lane x).powered = true ∧ (m.restarted.lane x).released = false ∧ (m.restarted.lane x).voting = false := by
  have hcore (es : List Evt) : ((m.puts es).setService .starting).restartLc.core = m.core := by simp
  have hlane (x : Lane) : ∃ l : LaneSt, m.restarted.lane x = l.restarted := ⟨_, PerLane.get_map _ LaneSt.restarted x⟩
  refine ⟨rfl, rfl, rfl, rfl, congrArg (fun c => c.2.2.1) (hcore _), congrArg Prod.fst (hcore _), fun x => ?_⟩
  obtain ⟨l, hl⟩ := hlane x
  rw [hl]
  exact ⟨rfl, rfl, rfl⟩

variable (sid x1 x2 : Nat)

/-- Power good restarts the module under the SID it reads, and sets its supply beside. -/
theorem Mod.powerGood_restarts (hg : m.power.good = false) (hx : x1 = 1 ∨ x1 = 2 ∨ x2 = 1 ∨ x2 = 2) :
    let m' := m.powerGood sid x1 x2 true true
    m' = { ({ m with sid := sid % 32 } : Mod).restarted with heldCause := m'.heldCause, time := m'.time, amber := m'.amber, power := m'.power } ∧
      m'.power.good = true := by
  have hin : ¬(m.power.good = true ∨ true = false ∨ true = false ∨ (x1 == 1 || x1 == 2 || (x2 == 1 || x2 == 2)) = false) := by
    simp [hg]
    tauto
  unfold Mod.powerGood
  simp only [if_neg hin]
  exact ⟨trivial, trivial⟩

theorem Mod.powerGood_unchanged (storeOk regsOk : Bool) (h : m.power.good = true ∨ storeOk = false ∨ regsOk = false) :
    m.powerGood sid x1 x2 storeOk regsOk = m := if_pos (by tauto)

/-! ### The slot coding (R492) -/

theorem Mod.slotReread_changed (hg : m.power.good = true) (hs : sid % 32 ≠ m.power.sidRead) :
    m.slotReread sid = ({ m with power := { m.power with sidRead := sid % 32 } } : Mod).put
      (mkEvt 0x0010 4 7 0 (leBytes 1 m.sid ++ leBytes 1 (sid % 32))) := if_neg (by simp [hg, hs])

variable (claim ftype : Nat)

/-- A listening module that hears its own SID ends the listening and starts nothing. -/
theorem Mod.dupSid_listening (hc : (claimOf claim).sid = m.sid) (hr : m.role ≠ roleACTIVE) (hl : m.obx.listenSince.isSome = true) :
    m.dupSid claim ftype =
      ({ m with power := { m.power with dupSid := true }, obx := { m.obx with listenSince := none, cold := none, running := false } } : Mod).put
        (mkEvt 0x8005 3 7 0 (leBytes 1 m.sid ++ leBytes 8 claim ++ leBytes 1 ftype)) :=
  if_neg (by simp [hc, hr, Option.isSome_iff_ne_none.mp hl])

theorem Mod.dupSid_active (hr : m.role = roleACTIVE) : m.dupSid claim ftype = m := if_pos (Or.inr (Or.inl hr))
end

/-! ### The images of a start (R374, R430) -/

section
variable (j : Jade)

/-- Making the pending images current touches neither Jade's mode nor its settings. -/
theorem Jade.activate_keeps : j.activate.mode = j.mode ∧ j.activate.settings = j.settings := by
  have hkeeps : (j.activate.mode, j.activate.settings) = (j.mode, j.settings) := by
    unfold Jade.activate
    split
    · exact foldl_keeps (fun j : Jade => (j.mode, j.settings)) _ _ j fun j t => by dsimp only; split <;> rfl
    · rfl
  exact Prod.mk.inj hkeeps

theorem Jade.img_setImg_self (t : Nat) (s : ImgSlot) : (j.setImg t s).img t = s := SMap.get_set_self ..
end

/-! ### The boot of Jade (R374) -/

section
variable (m : Mod)

/-- The module with its pending images made current. -/
def Mod.activated : Mod :=
  { m with jade := m.jade.activate
           restart := { m.restart with fresh := m.restart.fresh || (m.jade.marker && ((m.jade.img 5).pending.isSome || (m.jade.img 6).pending.isSome)) } }

/-- Whether the fallback of the JADE image passes its verification. -/
def Mod.fallbackOk : Bool :=
  match (m.jade.img 1).fallback with
  | some b => m.bootOk 1 b
  | none => false

/-- The module with the JADE image that runs: the verified one, else its fallback, recorded. -/
def Mod.jadeChosen : Mod :=
  if m.imageOk 1 then m
  else
    ({ m with jade := m.jade.setImg 1 { m.jade.img 1 with running := (m.jade.img 1).fallback, fallback := none, pending := none } } : Mod).put
      (mkEvt 0x9002 3 7 0 (leBytes 1 1 ++ leBytes 1 0x0A ++ leBytes 1 0 ++ leBytes 4 noIndex))

theorem Mod.jadeChosen_keeps :
    m.jadeChosen.jade.mode = m.jade.mode ∧ m.jadeChosen.jade.settings = m.jade.settings ∧ m.jadeChosen.lanes = m.lanes := by
  unfold Mod.jadeChosen
  split <;> exact ⟨rfl, rfl, rfl⟩

theorem Mod.jadeChosen_verified (h : m.imageOk 1 = true) : m.jadeChosen = m := if_pos h

theorem Mod.jadeChosen_fallback (h : m.imageOk 1 = false) :
    (m.jadeChosen.jade.img 1).running = (m.jade.img 1).fallback ∧ (m.jadeChosen.jade.img 1).fallback = none := by
  rw [Mod.jadeChosen, if_neg (by simp [h]), Mod.put_jade, Jade.img_setImg_self]
  exact ⟨rfl, rfl⟩

/-- Jade's settings taken into force leave the module's lanes, Jade's mode and its images alone. -/
theorem Mod.takeSettings_nil :
    (m.takeSettings []).jade = { m.jade with inForce := m.jade.settings } ∧ (m.takeSettings []).lanes = m.lanes := by
  have hall : (m.jade.settings.filter fun p => !([] : List Nat).contains p.1) = m.jade.settings := by simp
  unfold Mod.takeSettings
  simp only [List.filter_nil, hall]
  exact ⟨rfl, rfl⟩

/-- Jade reports running: it takes its settings, the ports their associations, and a life-cycle state without a copy is recorded. -/
def Mod.jadeRuns (old : List Nat) : Mod :=
  let m1 := ({ m with jade := { m.jade with mode := .running } } : Mod).takeSettings old
  let k := match m1.jade.keys with
    | some g => { m1.kst with recs := (Config.keyAssocs g.content).map assocRec }
    | none => m1.kst
  let m2 : Mod := { m1 with kst := k }
  if m2.jade.lc0.valid = false ∧ m2.jade.lc1.valid = false then m2.put (mkEvt (Config.otherCode 9 1) 3 7 0 (leBytes 1 6)) else m2

theorem Mod.jadeRuns_nil :
    (m.jadeRuns []).jade = { m.jade with mode := .running, inForce := m.jade.settings } ∧ (m.jadeRuns []).lanes = m.lanes := by
  have htake := ({ m with jade := { m.jade with mode := .running } } : Mod).takeSettings_nil
  unfold Mod.jadeRuns
  dsimp only
  split <;> exact htake

section
variable (running : Bool) (old : List Nat) (hg : m.power.good = true) (ho : m.jade.mode = .off)
include hg ho

/-- With neither a verified image nor a verified fallback Jade stays in ROM service. -/
theorem Mod.jadeBoot_rom (h : m.activated.imageOk 1 = false ∧ m.activated.fallbackOk = false) :
    m.jadeBoot running old = { m.activated with jade := { m.activated.jade with mode := .romService } } :=
  (if_neg (by simp [hg, ho])).trans (if_pos h)

theorem Mod.jadeBoot_image (h : ¬(m.activated.imageOk 1 = false ∧ m.activated.fallbackOk = false)) :
    m.jadeBoot running old = if running = false then m.activated.jadeChosen else m.activated.jadeChosen.jadeRuns old :=
  (if_neg (by simp [hg, ho])).trans (if_neg h)
end

/-- A boot that finds no setting in an older format (R374): ROM service, or the verified image or its fallback, in which Jade then runs. -/
theorem Mod.jadeBoot_nil (running : Bool) (hg : m.power.good = true) (ho : m.jade.mode = .off) :
    let a := m.activated
    let m' := m.jadeBoot running []
    m'.lanes = m.lanes ∧
      (if a.imageOk 1 = false ∧ a.fallbackOk = false then m'.jade.mode = .romService
       else if running = false then m'.jade.mode = .off
       else m'.jade.mode = .running ∧ m'.jade.inForce = m.jade.settings ∧
         (if a.imageOk 1 = true then (m'.jade.img 1).running = (a.jade.img 1).running
          else (m'.jade.img 1).running = (a.jade.img 1).fallback ∧ (m'.jade.img 1).fallback = none)) := by
  intro a m'
  obtain ⟨hmode, hsettings⟩ := m.jade.activate_keeps
  by_cases h : a.imageOk 1 = false ∧ a.fallbackOk = false
  · have heq : m' = _ := m.jadeBoot_rom running [] hg ho h
    rw [if_pos h, heq]
    exact ⟨rfl, rfl⟩
  · have heq : m' = if running = false then a.jadeChosen else a.jadeChosen.jadeRuns [] := m.jadeBoot_image running [] hg ho h
    obtain ⟨hmode', hsettings', hlanes'⟩ := a.jadeChosen_keeps
    rw [if_neg h, heq]
    cases running
    case false => exact ⟨hlanes', hmode'.trans (hmode.trans ho)⟩
    case true =>
      obtain ⟨hjade, hlanes⟩ := a.jadeChosen.jadeRuns_nil
      have himg : (a.jadeChosen.jadeRuns []).jade.img 1 = a.jadeChosen.jade.img 1 := by rw [hjade]; rfl
      simp only [Bool.true_eq_false, if_false, himg]
      refine ⟨hlanes.trans hlanes', by rw [hjade], by rw [hjade]; exact hsettings'.trans hsettings, ?_⟩
      cases hi : a.imageOk 1
      case false => exact a.jadeChosen_fallback hi
      case true => simp [a.jadeChosen_verified hi]

/-- The watchdog restarts Jade and nothing else of the module. -/
theorem Mod.jadeWatchdog_restarts (hg : m.power.good = true) (hr : m.jade.mode ≠ .romService) :
    let rs := (m.jade.restarts.filter fun r => decide (m.clock < r + 600000000000)) ++ [m.clock]
    m.jadeWatchdog =
      ({ m with jade := { m.jade.restarted with restarts := rs, mode := if 3 ≤ rs.length then .romService else .off } } : Mod).put
        (mkEvt (Config.otherCode 9 2) 4 5 0 (leBytes 1 rs.length)) := if_neg (by simp [hg, hr])
end

/-! ### The commands -/

section
variable (t : Nat) (s : State)
theorem exec_powerGood (sid x1 x2 : Nat) (storeOk regsOk : Bool) :
    exec (.powerGood sid x1 x2 storeOk regsOk t) s = s.at t fun m => m.powerGood sid x1 x2 storeOk regsOk := rfl
theorem exec_slotCodingReread (sid : Nat) : exec (.slotCodingReread sid t) s = s.at t fun m => m.slotReread sid := rfl
theorem exec_dupSidDetect (claim ftype : Nat) : exec (.dupSidDetect claim ftype t) s = s.at t fun m => m.dupSid claim ftype := rfl
theorem exec_jadeBoot (running : Bool) (old : List Nat) : exec (.jadeBoot running old t) s = s.at t fun m => m.jadeBoot running old := rfl
theorem exec_jadeWatchdog : exec (.jadeWatchdog t) s = s.at t Mod.jadeWatchdog := rfl
end

end Sys2Proof.Machine
end

