-- ==== Sys2Proof/Proofs/StartTests.lean ====
section
/-!
SUPPORT and the settled statement on start-up: the firmware of a processor, the start test of a controller, the self-test of a lane, and
what follows when a start cannot succeed (13_startup_and_self_test.md R375 to R382, R390; 12_faults_and_guarantees.md R501).
-/
namespace Sys2Proof.Machine

/-! ### Processors -/

@[simp] theorem Procs.get_set_self (ps : Procs) (p : Proc) (st : ProcSt) : (ps.set p st).get p = st := by cases p <;> rfl

section
variable (m : Mod) (x : Lane)

/-- A rotation that fails holds its lane out (R180). -/
theorem Mod.rotationFail_lane {r : Rotation} (h : m.rotation = some r) :
    m.rotationFail.lane r.lane =
      { m.lane r.lane with heldOut := true, released := false, stopped := true, shadow := false, silent := false } := by
  simp only [Mod.rotationFail, h]
  exact m.lane_setLane_self r.lane _

theorem Mod.rotationFail_procs : m.rotationFail.procs = m.procs := by
  unfold Mod.rotationFail
  split <;> rfl

/-- A lane that fails a start step is held out and in reset again, in a rotation or not (R180, R380). -/
theorem Mod.laneFails_spec :
    ((m.laneFails x).lane x).heldOut = true ∧ ((m.laneFails x).lane x).released = false ∧
      ((m.laneFails x).lane x).test = { (m.lane x).test with bist := .failed } ∧ (m.laneFails x).procs = m.procs := by
  let m1 := m.modLane x fun l => { l with test := { l.test with bist := .failed } }
  have hself : m1.lane x = { m.lane x with test := { (m.lane x).test with bist := .failed } } := m.lane_modLane_self x _
  have hout : m1.rotation.map (·.lane) ≠ some x →
      m.laneFails x = m1.modLane x fun l => { l with heldOut := true, released := false, stopped := true } := by
    intro hr
    cases h : m.rotation with
    | none => simp only [Mod.laneFails, m1, Mod.modLane_rotation, h]
    | some r =>
      have hne : r.lane ≠ x := fun he => hr (by simp [m1, h, he])
      simp only [Mod.laneFails, m1, Mod.modLane_rotation, h, if_neg hne]
  by_cases hr : m1.rotation.map (·.lane) = some x
  · obtain ⟨r, hm, rfl⟩ := Option.map_eq_some_iff.mp hr
    have hfail : m.laneFails r.lane = m1.rotationFail := by
      simp only [Mod.laneFails, show (m.modLane r.lane _).rotation = some r from hm, if_pos]
      rfl
    rw [hfail, m1.rotationFail_lane hm, hself, m1.rotationFail_procs]
    exact ⟨rfl, rfl, rfl, rfl⟩
  · rw [hout hr, Mod.lane_modLane_self, hself]
    exact ⟨rfl, rfl, rfl, rfl⟩

theorem Mod.bistFailed_lane (target test : Nat) :
    (m.bistFailed x target test).lane x = { m.lane x with test := { (m.lane x).test with failTgt := target } } :=
  m.lane_modLane_self x fun l => { l with test := { l.test with failTgt := target } }
end

/-! ### Firmware (R375) -/

section
variable (m : Mod) (p : Proc)

/-- Jade can load processor `p` of a FULL variant: it runs, and a lane's processor has its lane powered and not held out. -/
def Mod.MayLoad : Prop :=
  m.jade.mode = .running ∧ m.full = true ∧ ∀ x, p.lane? = some x → (m.lane x).powered = true ∧ (m.lane x).heldOut = false

/-- The second digest that differs: the processor stays out, with its lane. -/
def Mod.digestFailed : Mod :=
  let m1 := ({ m with procs := m.procs.set p .failed } : Mod).put (bistFail 3 p.target 0)
  match p.lane? with
  | some x => m1.laneFails x
  | none => m1

/-- The firmware runs; a lane is out of reset with it. -/
def Mod.firmwareRuns : Mod :=
  let m1 : Mod := { m with procs := m.procs.set p .running }
  match p.lane? with
  | some x =>
    let pcc := match (m.jade.img 2).running with
      | some b => b.pcc
      | none => 0
    let en (v : AmbPort) : AmbPort := { v with ctrl := v.ctrl ||| 1#32 }
    let a : Amber := { m1.amber with port := m1.amber.port.set x (en (m1.amber.port.get x)) }
    (({ m1 with amber := a } : Mod).modLane x fun l => l.start m.jade.lc pcc (Bytes.nat (m.jade.setting m.sid 1))).rotStep x .powered .loaded
  | none => m1

/-- Whether the variant has the processor. -/
def Mod.hasProc : Bool :=
  match p with
  | .lio | .bridge => m.full
  | _ => true

/-- Whether the lane of the processor, where it has one, is on and not held out. -/
def Mod.procFree : Bool :=
  match p.lane? with
  | some x => (m.lane x).powered && !(m.lane x).heldOut
  | none => true

theorem Mod.MayLoad.ready {m : Mod} {p : Proc} (h : m.MayLoad p) : m.hasProc p = true ∧ m.procFree p = true := by
  obtain ⟨-, hfull, hlane⟩ := h
  refine ⟨by unfold Mod.hasProc; split <;> simp [hfull], ?_⟩
  unfold Mod.procFree
  split
  next x hx => simp [hlane x hx]
  next => rfl

/-- Each firmware load: an image that does not verify is not loaded, a first digest that differs is tried again. -/
theorem Mod.firmwareLoad_eq (digestOk : Bool) (hl : m.MayLoad p) (hs : m.procs.get p = .inReset ∨ m.procs.get p = .mismatch) :
    m.firmwareLoad p digestOk =
      if m.imageOk p.image = false then m
      else if digestOk = true then m.firmwareRuns p
      else if m.procs.get p = .inReset then { m with procs := m.procs.set p .mismatch }
      else m.digestFailed p := by
  obtain ⟨hhas, hfree⟩ := hl.ready
  cases hi : m.imageOk p.image
  case false => exact if_pos (by simp [hi])
  case true =>
    have hgo : ¬(m.jade.mode ≠ .running ∨ m.hasProc p = false ∨ m.procFree p = false ∨ m.imageOk p.image = false ∨
        (m.procs.get p ≠ .inReset ∧ m.procs.get p ≠ .mismatch)) := by
      simp only [hl.1, hhas, hfree, hi]
      tauto
    refine (if_neg hgo).trans ?_
    cases digestOk <;> rfl

theorem Mod.firmwareLoad_matching (hl : m.MayLoad p) (hs : m.procs.get p = .inReset ∨ m.procs.get p = .mismatch) :
    m.firmwareLoad p true = if m.imageOk p.image = false then m else m.firmwareRuns p := by
  simp [m.firmwareLoad_eq p true hl hs]

theorem Mod.firmwareLoad_first_mismatch (hl : m.MayLoad p) (hs : m.procs.get p = .inReset) :
    m.firmwareLoad p false = if m.imageOk p.image = false then m else { m with procs := m.procs.set p .mismatch } := by
  simp [m.firmwareLoad_eq p false hl (Or.inl hs), hs]

theorem Mod.firmwareLoad_second_mismatch (hl : m.MayLoad p) (hs : m.procs.get p = .mismatch) :
    m.firmwareLoad p false = if m.imageOk p.image = false then m else m.digestFailed p := by
  simp [m.firmwareLoad_eq p false hl (Or.inr hs), hs]

theorem Mod.firmwareRuns_running : (m.firmwareRuns p).procs.get p = .running := by
  have hprocs : (m.firmwareRuns p).procs = m.procs.set p .running := by
    unfold Mod.firmwareRuns
    dsimp only
    split
    · rw [Mod.rotStep_only]
      rfl
    · rfl
  rw [hprocs, Procs.get_set_self]

/-- A lane that starts has the life-cycle state in force latched, and is compared unless it starts split (R158, R373, R414). -/
theorem Mod.firmwareRuns_lane {x : Lane} (hx : p.lane? = some x) :
    let l' := (m.firmwareRuns p).lane x
    l'.released = true ∧ l'.latch = m.jade.lc ∧ l'.comparator = !((m.lane x).splitNext && m.jade.lc == .lab) ∧ l'.voting = (m.lane x).voting := by
  simp only [Mod.firmwareRuns, hx, Mod.rotStep_lane, Mod.lane_modLane_self]
  exact ⟨rfl, rfl, rfl, rfl⟩

theorem Mod.digestFailed_failed : (m.digestFailed p).procs.get p = .failed := by
  have hprocs : (m.digestFailed p).procs = m.procs.set p .failed := by
    unfold Mod.digestFailed
    dsimp only
    split
    next x _ =>
      obtain ⟨-, -, -, hkept⟩ := (({ m with procs := m.procs.set p .failed } : Mod).put (bistFail 3 p.target 0)).laneFails_spec x
      exact hkept
    next => rfl
  rw [hprocs, Procs.get_set_self]

theorem Mod.digestFailed_lane {x : Lane} (hx : p.lane? = some x) :
    ((m.digestFailed p).lane x).heldOut = true ∧ ((m.digestFailed p).lane x).released = false := by
  simp only [Mod.digestFailed, hx]
  obtain ⟨hheld, hreset, -⟩ := (({ m with procs := m.procs.set p .failed } : Mod).put (bistFail 3 p.target 0)).laneFails_spec x
  exact ⟨hheld, hreset⟩
end

/-! ### The start test of a controller (R376) -/

/-- Listening touches the channel controllers only. -/
theorem Mod.mayListen_only (m : Mod) : m.mayListen = { m with obx := m.mayListen.obx } := by
  unfold Mod.mayListen
  dsimp only
  split <;> rfl

theorem Mod.mayListen_lane (m : Mod) (x : Lane) : m.mayListen.lane x = m.lane x := (congrArg (Mod.lane · x) m.mayListen_only :)
theorem Mod.mayListen_procs (m : Mod) : m.mayListen.procs = m.procs := (congrArg Mod.procs m.mayListen_only :)

theorem Mod.controllerTest_procs (m : Mod) (p : Proc) (test : Nat) (pass : Bool) (hl : p.lane? = none) (hr : m.procs.get p = .running) :
    (m.controllerTest p test pass).procs = m.procs.set p (if pass then .tested else .failed) := by
  unfold Mod.controllerTest
  rw [if_neg (by simp [hl, hr])]
  cases pass <;> rfl

/-! ### The station load of a lane (R371 step 5) -/

/-- What the station load of a lane leaves alone in it: its MRAM, the result of its self-test, and whether it is out of reset. -/
def LaneSt.proven (l : LaneSt) : Mem × Bool × Bool := (l.mram, l.test.selfOk, l.released)

/-- From `m` to `m'` the processors stand, and what is proven of lane `x`. -/
def Mod.Proven (x : Lane) (m m' : Mod) : Prop := m'.procs = m.procs ∧ (m'.lane x).proven = (m.lane x).proven

section
variable (m : Mod) (x : Lane)

theorem Mod.Proven.of_setLane (l : LaneSt) (h : l.proven = (m.lane x).proven) : m.Proven x (m.setLane x l) :=
  ⟨rfl, by rw [m.lane_setLane_self, h]⟩

theorem LaneSt.takeKeys_proven (l : LaneSt) (b : Blob) : (l.takeKeys x b).proven = l.proven := rfl

theorem LaneSt.loadStation_proven (l : LaneSt) (full : Bool) (sid : Nat) (signed : Bool) (b : Blob) (sps : Bytes) :
    (l.loadStation full sid signed b sps).1.proven = l.proven := by
  simp only [LaneSt.loadStation, LaneSt.proven]

theorem Mod.laneStation_proven : m.Proven x (m.laneStation x) := by
  unfold Mod.laneStation
  split
  case h_2 => exact ⟨rfl, rfl⟩
  case h_1 b li _ _ =>
    extract_lets spsImg sps l0 refuse signed r
    have hr : r.1.proven = (m.lane x).proven :=
      (LaneSt.loadStation_proven l0 m.full m.sid signed b sps).trans (LaneSt.takeKeys_proven x _ li)
    clear_value r
    have hrefuse (f : Refused) : m.Proven x (refuse m f) := .of_setLane m x l0 (LaneSt.takeKeys_proven x _ li)
    split
    · exact hrefuse _
    split
    · exact hrefuse _
    split
    · exact hrefuse _
    split
    · exact .of_setLane m x _ hr
    · exact .of_setLane m x _ hr
end

/-! ### The self-test of a lane (R377 to R380, R390) -/

/-- A lane out of reset, with its firmware, whose self-test is still to come, outside a rotation: it runs its START profile. -/
def Mod.SelfTests (m : Mod) (x : Lane) : Prop :=
  (m.lane x).powered = true ∧ (m.lane x).released = true ∧ (m.lane x).test.selfOk = false ∧ m.procs.get (procOf x) = .running ∧ m.rotation = none

/-- The link from lane `x` to a lane that has passed as well is trained. -/
def Mod.trainLink (x : Lane) (m : Mod) (y : Lane) : Mod :=
  if y ≠ x ∧ (m.lane y).test.selfOk = true ∧ (m.links.get (linkOf x y)).st ≠ 3 then { m with links := m.links.set (linkOf x y) ⟨2, none⟩ } else m

theorem Mod.trainLink_keeps (x : Lane) (ys : List Lane) (m : Mod) :
    (ys.foldl (Mod.trainLink x) m).procs = m.procs ∧ (ys.foldl (Mod.trainLink x) m).lanes = m.lanes :=
  Prod.mk.inj <| foldl_keeps (fun m : Mod => (m.procs, m.lanes)) (Mod.trainLink x) ys m fun m y => by
    unfold Mod.trainLink
    split <;> rfl

/-- The lane has passed, with nothing to repair. -/
def Mod.selfPassed (m : Mod) (x : Lane) : Mod :=
  let l := m.lane x
  { m.setLane x { l with test := { l.test with selfOk := true, bist := .passed } } with procs := m.procs.set (procOf x) .tested }

section
variable {m : Mod} {x : Lane} (h : m.SelfTests x)
include h

theorem Mod.SelfTests.runs :
    ¬((m.lane x).powered = false ∨ (m.lane x).released = false ∨ (m.lane x).test.selfOk = true ∨ m.procs.get (procOf x) ≠ .running ∨
      (m.rotation.map (·.lane) = some x ∧ m.rotatingAt x .loaded = false)) := by
  obtain ⟨hp, hr, hs, hproc, hrot⟩ := h
  simp [hp, hr, hs, hproc, hrot]

theorem Mod.SelfTests.no_rotation : m.rotation = none ∧ m.rotatingAt x .loaded = false := by
  obtain ⟨-, -, -, -, hrot⟩ := h
  exact ⟨hrot, by simp [Mod.rotatingAt, hrot]⟩

/-- A failed test other than of memory fails the lane. -/
theorem Mod.laneSelfTest_failed (g : Nat × Nat) : m.laneSelfTest x (some g) [] = (m.bistFailed x g.1 g.2).laneFails x := by
  obtain ⟨-, hrot⟩ := h.no_rotation
  refine (if_neg h.runs).trans ?_
  simp [hrot, repairAll]

/-- A finding for which no spare is left fails the lane (R390). -/
theorem Mod.laneSelfTest_unrepaired (g : Finding) (gs : List Finding)
    (hg : repairAll (m.lane x).test.fuses (repairEnts (m.lane x).mram) 1 (m.laneTime x / 1000000000 % 2 ^ 32) (g :: gs) = none) :
    m.laneSelfTest x none (g :: gs) = (m.bistFailed x g.target 1).laneFails x := by
  obtain ⟨hnone, hrot⟩ := h.no_rotation
  refine (if_neg h.runs).trans ?_
  simp only [hnone, hrot, hg, ite_self, Bool.false_eq_true, if_false]
  rfl

theorem Mod.laneSelfTest_clean : m.laneSelfTest x none [] = (Lane.all.foldl (Mod.trainLink x) (m.selfPassed x)).laneStation x := by
  obtain ⟨hnone, hrot⟩ := h.no_rotation
  have hnew (es : List RepairEnt) : es.filter (fun e => !es.contains e) = [] := by simp [List.filter_eq_nil_iff]
  refine (if_neg h.runs).trans ?_
  simp only [hnone, hrot, repairAll, hnew, ne_eq, not_true, and_false, Bool.false_eq_true, if_false, if_true]
  rfl

/-- A lane that passed keeps its record of repairs and stays out of reset. -/
theorem Mod.laneSelfTest_passed :
    (m.laneSelfTest x none []).procs = m.procs.set (procOf x) .tested ∧
      ((m.laneSelfTest x none []).lane x).proven = ((m.lane x).mram, true, (m.lane x).released) := by
  rw [Mod.laneSelfTest_clean h]
  obtain ⟨hprocs, hproven⟩ := (Lane.all.foldl (Mod.trainLink x) (m.selfPassed x)).laneStation_proven x
  obtain ⟨hprocs', hlanes⟩ := Mod.trainLink_keeps x Lane.all (m.selfPassed x)
  have hlane : (Lane.all.foldl (Mod.trainLink x) (m.selfPassed x)).lane x = (m.selfPassed x).lane x := congrArg (PerLane.get · x) hlanes
  refine ⟨hprocs.trans hprocs', hproven.trans ?_⟩
  rw [hlane, show (m.selfPassed x).lane x = _ from m.lane_setLane_self x _]
  rfl
end

/-! ### A start that cannot succeed (R382, R501) -/

section
variable (m : Mod)

/-- Whether the local I/O or the bridge of a FULL variant has no image or failed its start. -/
def Mod.localLost : Bool := m.full && (!m.imageOk 3 || m.procs.lio == .failed || m.procs.bridge == .failed)

/-- Whether the running station has an element on the local I/O or the bridge. -/
def Mod.stationUsesLocal : Bool :=
  match (m.jade.img 5).running with
  | some b => b.usesLocal
  | none => false

/-- Whether a lane refused the station. -/
def Mod.stationRefused : Bool := Lane.all.any fun x => let l := m.lane x; l.test.selfOk && !l.split && !l.heldOut && !l.test.stationOk

/-- The images the start cannot do without are missing or refused (cause 0xC, assumption log 70). -/
def Mod.ImagesFail : Prop :=
  m.imageOk 2 = false ∨ m.imageOk 4 = false ∨ m.localLost = true ∧ m.stationUsesLocal = true ∨ m.stationRefused = true

/-- A module that goes on without local I/O and bridge: their domains are off, and CTLFLT is set in both (assumption log 70). -/
def Mod.withoutLocal : Mod :=
  let p := (m.power.setOn 10 false).setOn 11 false
  { m with power := { p with ports := List.replicate 8 .off, banks := List.replicate 4 .off }
           lio := { m.lio with ctlflt := true, active := false }, drp := { m.drp with ctlflt := true, active := false } }

section
variable (noLight : Bool)

theorem Mod.startCause_images (h : m.ImagesFail) : m.startCause noLight = some 0xC := by
  refine if_pos ?_
  change ((!m.imageOk 2 || !m.imageOk 4 || (m.localLost && m.stationUsesLocal)) || m.stationRefused) = true
  simpa [Mod.ImagesFail, or_assoc] using h

variable (hi : ¬m.ImagesFail)
include hi

/-- With its images in place a start fails for want of lanes, else for want of light, else not at all (R382). -/
theorem Mod.startCause_rest :
    m.startCause noLight = if (Lane.all.filter m.hopeful).length < 2 then some 0xD else if noLight = true then some 0xE else none := by
  refine if_neg ?_
  change ¬((!m.imageOk 2 || !m.imageOk 4 || (m.localLost && m.stationUsesLocal)) || m.stationRefused) = true
  simpa [Mod.ImagesFail, or_assoc] using hi

end

/-- The start-up of a module whose Jade runs. -/
def Mod.StartsUp : Prop := m.service = .starting ∧ m.power.good = true ∧ m.jade.mode = .running

/-- A HELD entered during the start-up records its cause and leaves no lane that votes (R501). -/
theorem Mod.enterHeld_voters (cause : Nat) (h : m.service ≠ .held) : (m.enterHeld cause).voters = [] := by
  obtain ⟨-, -, -, -, hlanes⟩ := m.enterHeld_first cause h
  have hvote (x : Lane) : ((m.enterHeld cause).lane x).voting = false := by
    rw [Mod.lane, hlanes, PerLane.get_map]
    exact LaneSt.hold_voting _
  exact List.filter_eq_nil_iff.mpr fun x _ => by simp [hvote x]

variable (hs : m.StartsUp) (noLight : Bool)
include hs

theorem Mod.StartsUp.goes : ¬(m.service ≠ .starting ∨ m.power.good = false ∨ m.jade.mode ≠ .running) := by
  obtain ⟨hservice, hpower, hjade⟩ := hs
  simp [hservice, hpower, hjade]

theorem Mod.startFailure_held {cause : Nat} (hc : m.startCause noLight = some cause) :
    (m.startFailure noLight).service = .held ∧ (m.startFailure noLight).heldCause = cause ∧ (m.startFailure noLight).voters = [] := by
  have hne : m.service ≠ .held := by simp [hs.1]
  have heq : m.startFailure noLight = m.enterHeld cause := by
    refine (if_neg (Mod.StartsUp.goes m hs)).trans ?_
    rw [hc]
  obtain ⟨-, hcause, -⟩ := m.enterHeld_first cause hne
  rw [heq]
  exact ⟨m.enterHeld_service cause, hcause, m.enterHeld_voters cause hne⟩

/-- With no cause to be HELD, a module that lost the local I/O and the bridge goes on without them. -/
theorem Mod.startFailure_degraded (hc : m.startCause noLight = none) (hl : m.localLost = true) : m.startFailure noLight = m.withoutLocal := by
  refine (if_neg (Mod.StartsUp.goes m hs)).trans ?_
  rw [hc]
  exact if_pos hl

theorem Mod.startFailure_none (hc : m.startCause noLight = none) (hl : m.localLost = false) : m.startFailure noLight = m := by
  refine (if_neg (Mod.StartsUp.goes m hs)).trans ?_
  rw [hc]
  exact if_neg (ne_true_of_eq_false hl)
end

/-! ### The commands -/

section
variable (t : Nat) (s : State)
theorem exec_firmwareLoad (p : Proc) (digestOk : Bool) :
    exec (.firmwareLoad p digestOk t) s = s.at t fun m => m.firmwareLoad p digestOk := rfl
theorem exec_controllerStartTest (p : Proc) (test : Nat) (pass : Bool) :
    exec (.controllerStartTest p test pass t) s = s.at t fun m => (m.controllerTest p test pass).mayListen := rfl
theorem exec_laneSelfTest (x : Lane) (fail : Option (Nat × Nat)) (findings : List Finding) :
    exec (.laneSelfTest x fail findings t) s = s.at t fun m => (m.laneSelfTest x fail findings).mayListen := rfl
theorem exec_startFailure (noLight : Bool) : exec (.startFailure noLight t) s = s.at t fun m => m.startFailure noLight := rfl
end

/-- Settles O48: each command has its branches, and each clause names the one that its premises choose. -/
theorem startUpLoadsAndTestsInOrder : Obligations.StartUpLoadsAndTestsInOrder := by
  unfold Obligations.StartUpLoadsAndTestsInOrder
  intro s t m0 act back
  refine ⟨fun sid x1 x2 hg hx => ?_, fun sid x1 x2 a b h => ?_, fun sid hg hsid => ?_, fun claim ty hc hl => ⟨fun hr => ?_, fun hr => ?_⟩,
    fun hg ho => ⟨fun hi hb r old => ?_, fun r => ?_⟩, fun hg hr => ?_, fun p hj hf hl => ?_, fun p test hp hr => ⟨?_, ?_⟩, fun x => ?_,
    fun noLight hs hg hj => ?_⟩
  · refine Completes.of_at (exec_powerGood t s sid x1 x2 true true) ?_
    obtain ⟨heq, hgood⟩ := m0.powerGood_restarts sid x1 x2 hg hx
    obtain ⟨hservice, hrole, hprocs, hjade, hsid, hboot, hlanes⟩ := ({ m0 with sid := sid % 32 } : Mod).restarted_spec
    refine ⟨hgood, ?_⟩
    rw [heq]
    exact ⟨hsid, hservice, hrole, hprocs, hjade, hboot, hlanes⟩
  · exact (exec_powerGood t s sid x1 x2 a b).trans (State.at_unchanged s t _ (m0.powerGood_unchanged sid x1 x2 a b h))
  · refine Completes.of_at (exec_slotCodingReread t s sid) ?_
    rw [m0.slotReread_changed sid hg hsid]
    exact ⟨rfl, rfl, rfl⟩
  · refine Completes.of_at (exec_dupSidDetect t s claim ty) ?_
    rw [m0.dupSid_listening claim ty hc hr hl]
    exact ⟨rfl, rfl, rfl, rfl, rfl⟩
  · exact (exec_dupSidDetect t s claim ty).trans (State.at_unchanged s t _ (m0.dupSid_active claim ty hr))
  · refine Completes.of_at (exec_jadeBoot t s r old) ?_
    rw [m0.jadeBoot_rom r old hg ho ⟨hi, hb⟩]
    exact ⟨rfl, rfl⟩
  · exact Completes.of_at (exec_jadeBoot t s r []) (m0.jadeBoot_nil r hg ho)
  · refine Completes.of_at (exec_jadeWatchdog t s) ?_
    rw [m0.jadeWatchdog_restarts hg hr]
    refine ⟨?_, rfl, rfl, rfl, rfl⟩
    simp only [Mod.put_jade, List.length_append, List.length_singleton]
    rfl
  · intro ok same
    have hload : m0.MayLoad p := ⟨hj, hf, hl⟩
    have hok : m0.imageOk p.image = ok := rfl
    clear_value ok
    refine ⟨fun hst => ?_, fun hst => ?_, fun hst => ?_⟩
    · refine Completes.of_at (exec_firmwareLoad t s p true) ?_
      rw [m0.firmwareLoad_matching p hload hst, hok]
      cases ok
      case false => exact ⟨rfl, rfl⟩
      case true => exact ⟨m0.firmwareRuns_running p, fun x hx => m0.firmwareRuns_lane p hx⟩
    · refine Completes.of_at (exec_firmwareLoad t s p false) ?_
      rw [m0.firmwareLoad_first_mismatch p hload hst, hok]
      cases ok
      case false => exact ⟨rfl, rfl⟩
      case true => exact ⟨Procs.get_set_self _ p _, rfl⟩
    · refine Completes.of_at (exec_firmwareLoad t s p false) ?_
      rw [m0.firmwareLoad_second_mismatch p hload hst, hok]
      cases ok
      case false => exact ⟨rfl, rfl⟩
      case true => exact ⟨m0.digestFailed_failed p, fun x hx => m0.digestFailed_lane p hx⟩
  · refine Completes.of_at (exec_controllerStartTest t s p test true) ?_
    rw [Mod.mayListen_procs, m0.controllerTest_procs p test true hp hr]
    exact Procs.get_set_self _ p _
  · refine Completes.of_at (exec_controllerStartTest t s p test false) ?_
    rw [Mod.mayListen_procs, m0.controllerTest_procs p test false hp hr]
    exact Procs.get_set_self _ p _
  · intro l hp hr hs hproc hrot
    have htest : m0.SelfTests x := ⟨hp, hr, hs, hproc, hrot⟩
    refine ⟨?_, fun g => ?_, fun g gs hg => ?_⟩
    · refine Completes.of_at (exec_laneSelfTest t s x none []) ?_
      obtain ⟨hprocs, hproven⟩ := Mod.laneSelfTest_passed htest
      simp only [LaneSt.proven, Prod.mk.injEq] at hproven
      obtain ⟨hmram, hself, hreleased⟩ := hproven
      rw [Mod.mayListen_lane, Mod.mayListen_procs, hprocs, Procs.get_set_self]
      exact ⟨hself, rfl, hmram, hreleased.trans hr⟩
    · refine Completes.of_at (exec_laneSelfTest t s x (some g) []) ?_
      rw [Mod.mayListen_lane, Mod.laneSelfTest_failed htest g]
      obtain ⟨hheld, hreset, hlane, -⟩ := (m0.bistFailed x g.1 g.2).laneFails_spec x
      rw [hlane, m0.bistFailed_lane]
      exact ⟨hheld, hreset, rfl, hs⟩
    · refine Completes.of_at (exec_laneSelfTest t s x none (g :: gs)) ?_
      rw [Mod.mayListen_lane, Mod.laneSelfTest_unrepaired htest g gs hg]
      obtain ⟨hheld, -, hlane, -⟩ := (m0.bistFailed x g.target 1).laneFails_spec x
      rw [hlane, m0.bistFailed_lane]
      exact ⟨hheld, rfl⟩
  · intro held few lost uses refused
    have hup : m0.StartsUp := ⟨hs, hg, hj⟩
    refine Completes.of_at (exec_startFailure t s noLight) ?_
    by_cases hi : m0.ImagesFail
    · exact (if_pos hi).mpr (m0.startFailure_held hup noLight (m0.startCause_images noLight hi))
    refine (if_neg hi).mpr ?_
    have hcause := m0.startCause_rest noLight hi
    by_cases hfew : (Lane.all.filter m0.hopeful).length < 2
    · exact (if_pos hfew).mpr (m0.startFailure_held hup noLight (hcause.trans (if_pos hfew)))
    refine (if_neg hfew).mpr ?_
    rw [if_neg hfew] at hcause
    cases noLight
    case true => exact m0.startFailure_held hup true hcause
    case false =>
      by_cases hl : m0.localLost = true
      · refine (if_pos hl).mpr ?_
        rw [m0.startFailure_degraded hup false hcause hl]
        exact ⟨hs, rfl, rfl, rfl⟩
      · exact (if_neg hl).mpr (m0.startFailure_none hup false hcause (Bool.eq_false_of_not_eq_true hl))

end Sys2Proof.Machine
end

