-- ==== Sys2Proof/Proofs/EachStep.lean ====
section
/-!
The settled statements on every step: what a command does to the clock, the variant, the SID and the instant of the last start
(13_startup_and_self_test.md R370; 19_connectors_and_ratings.md R492).
-/
namespace Sys2Proof.Machine

/-! ### Where a command may lead the core -/

/-- A core to which a command may lead `m` without power good: a clock not turned back, the same variant and SID, and the last start where
it was or at the instant the clock shows. -/
def Mod.LeadsTo (m : Mod) : Nat × Bool × Nat × PhCfg × Nat → Prop
  | (clock, full, sid, _, bootAt) => m.clock ≤ clock ∧ full = m.full ∧ sid = m.sid ∧ (bootAt = m.bootAt ∨ bootAt = clock)

section
variable {m m1 : Mod}

@[simp] theorem Mod.leadsTo_advance (m : Mod) (t : Nat) : m.LeadsTo (m.advance t).core := ⟨Nat.le_max_left .., rfl, rfl, Or.inl rfl⟩

/-- A sound module stays sound where a command leads it. -/
theorem Mod.LeadsTo.sound (h : m.LeadsTo m1.core) (hs : m.Sound) : m1.Sound := by
  obtain ⟨hclock, -, hsid, hboot⟩ := h
  obtain ⟨hslot, hpast⟩ := hs
  refine ⟨hsid ▸ hslot, ?_⟩
  rcases hboot with hboot | hboot
  · exact hboot.trans_le (hpast.trans hclock)
  · exact hboot.le

variable (h : m.LeadsTo m1.core)
include h

/-- A restart happens at this instant, which is then the one of the last start (R370). -/
theorem Mod.LeadsTo.restarted : m.LeadsTo m1.restarted.core := by
  have hcore (es : List Evt) : ((m1.puts es).setService .starting).restartLc.core = m1.core := by simp
  obtain ⟨hclock, hfull, hsid, -⟩ := h
  refine ⟨?_, ?_, ?_, Or.inr rfl⟩
  · exact hclock.trans_eq (congrArg Prod.fst (hcore _)).symm
  · exact (congrArg (fun c => c.2.1) (hcore _)).trans hfull
  · exact (congrArg (fun c => c.2.2.1) (hcore _)).trans hsid

theorem Mod.LeadsTo.restartExpire : m.LeadsTo m1.restartExpire.core := by
  unfold Mod.restartExpire
  split
  case h_2 => exact h
  case h_1 r _ =>
    split
    case h_2 => exact h
    case h_1 =>
      split
      · exact Mod.LeadsTo.restarted (m1 := { m1 with restart := { m1.restart with cold := r.kind == 2 } }) h
      · exact h

/-- The settings that Jade takes at its boot reach the phase settings and nothing else of the core (R411). -/
theorem Mod.LeadsTo.takeSettings (old : List Nat) : m.LeadsTo (m1.takeSettings old).core := by
  unfold Mod.takeSettings
  dsimp only
  rw [Mod.puts_core]
  exact h

theorem Mod.LeadsTo.jadeRuns (old : List Nat) : m.LeadsTo (m1.jadeRuns old).core := by
  have htake := Mod.LeadsTo.takeSettings (m1 := { m1 with jade := { m1.jade with mode := .running } }) h old
  unfold Mod.jadeRuns
  dsimp only
  split <;> exact htake

theorem Mod.LeadsTo.jadeBoot (running : Bool) (old : List Nat) : m.LeadsTo (m1.jadeBoot running old).core := by
  by_cases hoff : m1.power.good = true ∧ m1.jade.mode = .off
  case neg =>
    have hstays : m1.jadeBoot running old = m1 := if_pos ((not_and_or.mp hoff).imp_left Bool.eq_false_of_not_eq_true)
    rwa [hstays]
  case pos =>
    obtain ⟨hg, ho⟩ := hoff
    have hchosen : m1.activated.jadeChosen.core = m1.core := by
      unfold Mod.jadeChosen
      split <;> rfl
    by_cases hrom : m1.activated.imageOk 1 = false ∧ m1.activated.fallbackOk = false
    · rw [m1.jadeBoot_rom running old hg ho hrom]
      exact h
    · rw [m1.jadeBoot_image running old hg ho hrom]
      rw [← hchosen] at h
      split
      · exact h
      · exact Mod.LeadsTo.jadeRuns h old
end

/-- Power good restarts the module under the SID it reads, of which it takes five bits, or does nothing (R370, R492). -/
theorem Mod.powerGood_leadsTo (m : Mod) (sid x1 x2 t : Nat) (storeOk regsOk : Bool) :
    ∃ n, (n = m.sid ∨ n < 32) ∧ ({ m with sid := n } : Mod).LeadsTo ((m.advance t).powerGood sid x1 x2 storeOk regsOk).core := by
  unfold Mod.powerGood
  dsimp only
  split
  · exact ⟨m.sid, Or.inl rfl, m.leadsTo_advance t⟩
  · exact ⟨sid % 32, Or.inr (Nat.mod_lt _ (by decide)), Mod.LeadsTo.restarted (({ m with sid := sid % 32 } : Mod).leadsTo_advance t)⟩

/-! ### Every command -/

/-- A command completes, leaves the queue, and leads the core on. -/
def LeadsOn (c : Instr) (s : State) : Prop := ∃ u, exec c s = .next u ∧ u.pending = s.pending ∧ s.m.LeadsTo u.m.core

/-- Every command but power good leads the core on: two of them restart the module or boot Jade, the others leave the core as their
instant finds it. -/
theorem leadsOn_or_powerGood (c : Instr) (s : State) : LeadsOn c s ∨ ∃ sid x1 x2 a b t, c = .powerGood sid x1 x2 a b t := by
  cases c
  case powerGood sid x1 x2 a b t => exact Or.inr ⟨sid, x1, x2, a, b, t, rfl⟩
  case restartDelayExpire t => exact Or.inl ⟨_, rfl, rfl, (s.m.leadsTo_advance t).restartExpire⟩
  case jadeBoot running old t => exact Or.inl ⟨_, rfl, rfl, (s.m.leadsTo_advance t).jadeBoot running old⟩
  all_goals exact Or.inl ⟨_, rfl, rfl, by simp⟩

/-- Settles O57: the front command is the one the step takes, and an idle step moves the clock. -/
theorem stepRunsTheFrontCommand : Obligations.StepRunsTheFrontCommand := by
  unfold Obligations.StepRunsTheFrontCommand
  refine ⟨fun c rest s h => step_cons s c rest h, fun s h => (step_idle s h).trans ?_⟩
  have hclock : max s.m.clock (s.m.clock + 1) = s.m.clock + 1 := Nat.max_eq_right (Nat.le_succ _)
  rw [State.tick, Mod.advance, hclock]

/-- Settles O60: each command leads the core on, and power good, which alone may bring another SID, leads it on under that SID. -/
theorem onlyPowerGoodChangesTheSid : Obligations.OnlyPowerGoodChangesTheSid := by
  unfold Obligations.OnlyPowerGoodChangesTheSid
  intro c s
  rcases leadsOn_or_powerGood c s with ⟨u, hu, hpending, hclock, hfull, hsid, -⟩ | ⟨sid, x1, x2, a, b, t, rfl⟩
  · exact ⟨u, hu, hpending, hfull, hclock, fun _ => hsid⟩
  · obtain ⟨n, -, hclock, hfull, -⟩ := s.m.powerGood_leadsTo sid x1 x2 t a b
    exact ⟨_, exec_powerGood t s sid x1 x2 a b, rfl, hfull, hclock, fun h => absurd rfl (h sid x1 x2 a b t)⟩

/-- Settles O59: a command leads a sound module to a sound one, power good under a SID of five bits; an idle step is an instant later. -/
theorem stepKeepsTheModuleSound : Obligations.StepKeepsTheModuleSound := by
  unfold Obligations.StepKeepsTheModuleSound
  intro s u hs hstep
  cases hp : s.pending with
  | nil =>
    rw [step_idle s hp] at hstep
    cases hstep
    exact (s.m.leadsTo_advance (s.m.clock + 1)).sound hs
  | cons c rest =>
    rw [step_cons s c rest hp] at hstep
    rcases leadsOn_or_powerGood c { s with pending := rest } with ⟨v, hv, -, hleads⟩ | ⟨sid, x1, x2, a, b, t, rfl⟩
    · cases hv.symm.trans hstep
      exact hleads.sound hs
    · obtain ⟨n, hn, hleads⟩ := s.m.powerGood_leadsTo sid x1 x2 t a b
      cases (exec_powerGood t { s with pending := rest } sid x1 x2 a b).symm.trans hstep
      obtain ⟨hslot, hpast⟩ := hs
      have hsound : ({ s.m with sid := n } : Mod).Sound := ⟨by rcases hn with rfl | hn; exacts [hslot, hn], hpast⟩
      exact hleads.sound hsound

end Sys2Proof.Machine
end

