-- ==== Sys2Proof/Proofs/Recorder.lean ====
section
/-!
SUPPORT and the settled statement on Amber: how a record is written, suppressed or refused, how a window closes, where recovery ends, and
what a lane reaches through its port (17_amber_recorder.md R463 to R467, R471, R472).
-/
namespace Sys2Proof.Machine

/-! ### The recorder's operations -/

section
variable (a : Amber) (r : Rec)

/-- A record written takes the next SEQ and its slot; the rest of the recorder, but for the control block, stands (R463, R464). -/
theorem Amber.append_only :
    let n := seqNext a.newest
    a.append r = { a with store := a.store.put (n % amberSlots) ⟨n, r, r.chk n⟩, newest := n, count := a.count + 1
                          ctl0 := (a.append r).ctl0, ctl1 := (a.append r).ctl1 } := by
  unfold Amber.append
  dsimp only
  split <;> rfl

theorem Amber.append_newest : (a.append r).newest = seqNext a.newest := (congrArg Amber.newest (a.append_only r) :)
theorem Amber.append_count : (a.append r).count = a.count + 1 := (congrArg Amber.count (a.append_only r) :)
theorem Amber.append_intake : (a.append r).intake = a.intake := (congrArg Amber.intake (a.append_only r) :)
theorem Amber.append_rr : (a.append r).rr = a.rr := (congrArg Amber.rr (a.append_only r) :)
theorem Amber.append_rates : (a.append r).rates = a.rates := (congrArg Amber.rates (a.append_only r) :)
theorem Amber.append_ready : (a.append r).ready = a.ready := (congrArg Amber.ready (a.append_only r) :)
theorem Amber.append_slot :
    (a.append r).store.find (seqNext a.newest % amberSlots) = some ⟨seqNext a.newest, r, r.chk (seqNext a.newest)⟩ := by
  rw [a.append_only r]
  exact SMap.find_put_self _ _ _
end

section
variable {a : Amber} {i : Nat}

/-- The round-robin takes one of the ten intake buffers (R463). -/
theorem Amber.nextSource_lt (h : a.nextSource = some i) : i < 10 := by
  obtain ⟨k, -, rfl⟩ := List.mem_map.mp (List.mem_of_find?_eq_some h)
  exact Nat.mod_lt _ (by decide)

/-- The recorder with the record at the front of buffer `i` taken out, and the turn passed on. -/
def Amber.popped (a : Amber) (i : Nat) (rest : List Rec) : Amber :=
  { a with intake := a.intake.set i { a.intake.getD i Intake.empty with buf := rest, owed := 0 }, rr := (i + 1) % 10 }

/-- A record whose buffer owes no LOST record is taken out and passes the limit (R463, R467). -/
theorem Amber.takeOne_of_front {r : Rec} {rs : List Rec} (hn : a.nextSource = some i) (hbuf : (a.intake.getD i Intake.empty).buf = r :: rs)
    (howed : (a.intake.getD i Intake.empty).owed = 0) (t sid : Nat) : a.takeOne t sid = (a.popped i rs).limited r t sid := by
  simp only [Amber.takeOne, hn, hbuf, howed, if_true]
  rfl

theorem Mod.amberTake_front {m : Mod} {i : Nat} {r : Rec} {rs : List Rec} (hr : m.amber.ready = true) (hn : m.amber.nextSource = some i)
    (hbuf : (m.amber.intake.getD i Intake.empty).buf = r :: rs) (howed : (m.amber.intake.getD i Intake.empty).owed = 0) :
    m.amberTake = { m with amber := (m.amber.popped i rs).limited r m.now m.sid } := by
  rw [← Amber.takeOne_of_front hn hbuf howed]
  exact if_pos hr

theorem Amber.popped_buf (hlen : a.intake.length = 10) (hi : i < 10) (rs : List Rec) :
    ((a.popped i rs).intake.getD i Intake.empty).buf = rs := by
  simp [Amber.popped, List.getD_eq_getElem?_getD, hlen, hi]

/-- The record of an unlimited code is written (R467, R470). -/
theorem Amber.limited_unlimited {r : Rec} (h : recLim r.code = none) (t sid : Nat) : a.limited r t sid = a.append r := by
  simp only [Amber.limited, h]
end

/-! ### Rate windows (R467) -/

section
variable {a : Amber} {w : RateWin}

/-- A window is kept under its code and source. -/
theorem Amber.win_key {code src : Nat} (h : a.win code src = some w) : w.code = code ∧ w.src = src := by
  simpa using List.find?_some h

theorem RateWin.filtered_absent (rates : List RateWin) (w : RateWin) :
    ∀ x ∈ rates.filter fun x => !(x.code == w.code && x.src == w.src), ¬(x.code == w.code && x.src == w.src) = true := by
  simp only [List.mem_filter]
  rintro x ⟨-, hx⟩
  rwa [Bool.not_eq_true, ← Bool.not_eq_true']

theorem Amber.win_putWin (a : Amber) (w : RateWin) : (a.putWin w).win w.code w.src = some w := by
  rw [Amber.win, Amber.putWin, List.find?_append, List.find?_eq_none.mpr (RateWin.filtered_absent a.rates w)]
  simp

/-- A window with one more record suppressed: the first time and the last are kept. -/
def RateWin.suppress (w : RateWin) (r : Rec) : RateWin :=
  { w with suppressed := w.suppressed + 1, first := if w.suppressed = 0 then r.time else w.first, last := r.time }

/-- A record beyond its limit in an open window is counted there and not written. -/
theorem Amber.limited_suppressed {r : Rec} {lim t : Nat} (hl : recLim r.code = some lim) (hw : a.win r.code r.src = some w)
    (ht : t < w.start + 1000000000) (hc : lim ≤ w.count) (sid : Nat) :
    a.limited r t sid = { a.putWin (w.suppress r) with suppr := a.suppr + 1 } := by
  simp only [Amber.limited, hl, hw, if_neg (Nat.not_le.mpr ht), if_neg (Nat.not_lt.mpr hc)]
  rfl

/-- A window that closes with records suppressed leaves no window behind and writes a SUMMARY. -/
theorem Amber.closeWin_summary (hs : w.suppressed ≠ 0) (t sid : Nat) :
    ∃ r : Rec, r.code = 0xD001 ∧ r.src = 9 ∧
      a.closeWin w t sid = ({ a with rates := a.rates.filter fun x => !(x.code == w.code && x.src == w.src) } : Amber).append r :=
  ⟨_, rfl, rfl, if_neg hs⟩

theorem Amber.win_closed (a : Amber) (w : RateWin) (r : Rec) :
    (({ a with rates := a.rates.filter fun x => !(x.code == w.code && x.src == w.src) } : Amber).append r).win w.code w.src = none := by
  rw [Amber.win, Amber.append_rates]
  exact List.find?_eq_none.mpr (RateWin.filtered_absent a.rates w)

section
variable {m : Mod} {code src : Nat} (hw : m.amber.win code src = some w)
include hw

theorem Mod.rateClose_due (hr : m.amber.ready = true) (hs : w.suppressed ≠ 0) (ht : w.start + 1000000000 ≤ m.now) :
    m.rateClose code src = { m with amber := m.amber.closeWin w m.now m.sid } := by
  simp only [Mod.rateClose, hw]
  exact if_neg (by simp [hr, hs, secNs, ht])

theorem Mod.rateClose_early (ht : m.now < w.start + 1000000000) : m.rateClose code src = m := by
  simp only [Mod.rateClose, hw]
  exact if_pos (Or.inr (Or.inr ht))
end
end

/-! ### Refusals (R463, R472) -/

section
variable (a : Amber) (i code : Nat)

/-- A source that is a lane is that lane's. -/
theorem laneOfSrc_idx (y : Lane) : laneOfSrc y.idx = some y := by cases y <;> rfl

theorem Amber.refuse_store : (a.refuse i code).store = a.store := by
  unfold Amber.refuse
  dsimp only
  split <;> rfl

theorem Amber.refuse_intake :
    let k := a.intake.getD i Intake.empty
    (a.refuse i code).intake = a.intake.set i { k with lost := min 0xFFFF (k.lost + 1), owed := k.owed + 1 } := by
  unfold Amber.refuse
  dsimp only
  split <;> rfl

/-- A lane whose record is refused sees it in its port. -/
theorem Amber.refuse_port (y : Lane) :
    ((a.refuse y.idx code).port.get y) = ((a.port.get y).raise 1).error code 3 := by
  simp only [Amber.refuse, laneOfSrc_idx, PerLane.get_set_self]

/-- An error keeps every interrupt raised before. -/
theorem AmbPort.raise_error_irq (p : AmbPort) (level : Nat) : ((p.raise 1).error code level).irq.getLsbD 0 = true := by
  simp [AmbPort.raise, AmbPort.error]
end

/-- A record that its buffer does not take is refused: with code 3 while the recorder is ready, else with code 5. -/
theorem Mod.put_refused (m : Mod) (e : Evt) (h : m.amber.takes (min e.src 9) = false) :
    m.put e = { m with amber := m.amber.refuse (min e.src 9) (if m.amber.ready then 3 else 5) } := by
  have hoffer : m.amber.offer (e.toRec m.now m.cycle m.sid m.time.verified) = m.amber.refuse (min e.src 9) (if m.amber.ready then 3 else 5) :=
    if_neg (by simpa [Evt.toRec] using h)
  rw [Mod.put, hoffer]

/-! ### Recovery (R465) -/

section
variable (a : Amber) (t sid : Nat)

theorem Amber.recover_ready : (a.recover t sid).ready = true := by
  unfold Amber.recover
  extract_lets from' a0 a1 a2
  split
  · rfl
  · exact Amber.append_ready a2 _

/-- Where nothing is stored, the scan ends where it began. -/
theorem Amber.scan_nothing (n : Nat) (h : a.store = []) : Amber.scan n a = a := by
  cases n with
  | zero => rfl
  | succ n => simp only [Amber.scan, h, SMap.find]

/-- With nothing stored and the second copy of the control block invalid, recovery goes by the first. -/
theorem Amber.recover_first (hs : a.store = []) (h0 : a.ctl0.valid = true) (h1 : a.ctl1.valid = false) :
    a.recover t sid = { a with ready := true, newest := a.ctl0.newest, count := a.ctl0.count } := by
  simp only [Amber.recover, h0, h1, Bool.not_false, Bool.true_or, Bool.and_true, if_true,
    Amber.scan_nothing { a with newest := a.ctl0.newest, count := a.ctl0.count } _ hs]

/-- With nothing stored and no valid control block, the recorder is as after reset. -/
theorem Amber.recover_blank (hs : a.store = []) (h0 : a.ctl0.valid = false) (h1 : a.ctl1.valid = false) :
    a.recover t sid = { a with ready := true, newest := 0xFFFFFFFF, count := 0 } := by
  simp only [Amber.recover, h0, h1, Bool.false_and, Bool.false_eq_true, if_false, if_true,
    Amber.scan_nothing { a with newest := 0xFFFFFFFF, count := 0 } _ hs]

/-- A recorder not yet ready recovers once the power is good. -/
theorem Mod.amberRecover_goes (m : Mod) (hg : m.power.good = true) (hr : m.amber.ready = false) :
    m.amberRecover = { m with amber := m.amber.recover m.now m.sid } := if_neg (by simp [hg, hr])
end

/-! ### The window of PWEN and the error register (R466, R471, R472) -/

section
variable (m : Mod) (x : Lane)

/-- A lane with power and PWEN set writes a word of the window. -/
def Mod.MayWindow (m : Mod) (x : Lane) (off : Nat) : Prop :=
  (m.lane x).powered = true ∧ off < 0x8000 ∧ off % 4 = 0 ∧ (m.amber.port.get x).ctrl.getLsbD 1 = true

variable {off : Nat} (v : Word32)

theorem Mod.MayWindow.goes {m : Mod} {x : Lane} (h : m.MayWindow x off) :
    ¬((m.lane x).powered = false ∨ (m.amber.port.get x).ctrl.getLsbD 1 = false ∨ 0x8000 ≤ off ∨ off % 4 ≠ 0) := by
  obtain ⟨hpower, hoff, hword, hpwen⟩ := h
  simp [hpower, hpwen, hoff, hword]

theorem Mod.windowWrite_inside (h : m.MayWindow x off) (hp : (m.amber.port.get x).ppage.toNat ≤ 0x82) :
    m.windowWrite x off v =
      (m.modLane x fun l => { l with mram := l.mram.wr (0x8000 * (m.amber.port.get x).ppage.toNat + off) 4 v.toNat }).modAmbPort x
        fun p => p.raise 2 :=
  (if_neg h.goes).trans (if_neg (Nat.not_lt.mpr hp))

theorem Mod.windowWrite_outside (h : m.MayWindow x off) (hp : 0x82 < (m.amber.port.get x).ppage.toNat) :
    m.windowWrite x off v = m.modAmbPort x fun p => p.error 4 3 := (if_neg h.goes).trans (if_pos hp)

theorem Mod.windowWrite_locked (h : (m.amber.port.get x).ctrl.getLsbD 1 = false) : m.windowWrite x off v = m := if_pos (Or.inr (Or.inl h))

theorem Mod.ambReadErr_powered (h : (m.lane x).powered = true) :
    m.ambReadErr x = (m.modAmbPort x fun p => { p with errcapLr := p.errcap, errcap := 0 }).modLane x
      fun l => { l with readData := (m.amber.port.get x).errcap.toNat } := if_neg (by simp [h])

theorem Mod.modAmbPort_lane (f : AmbPort → AmbPort) (y : Lane) : (m.modAmbPort x f).lane y = m.lane y := rfl
theorem Mod.modAmbPort_self (f : AmbPort → AmbPort) : (m.modAmbPort x f).amber.port.get x = f (m.amber.port.get x) :=
  PerLane.get_set_self ..
end

/-! ### The commands -/

section
variable (t : Nat) (s : State)
theorem exec_amberRecordWrite : exec (.amberRecordWrite t) s = s.at t Mod.amberTake := rfl
theorem exec_amberIntakeRefuse (e : Evt) : exec (.amberIntakeRefuse e t) s = s.at t fun m => m.amberRefuse e := rfl
theorem exec_rateWindowClose (code src : Nat) : exec (.rateWindowClose code src t) s = s.at t fun m => m.rateClose code src := rfl
theorem exec_amberRecovery : exec (.amberRecovery t) s = s.at t Mod.amberRecover := rfl
theorem exec_amberWindowWrite (x : Lane) (off : Nat) (v : Word32) :
    exec (.amberWindowWrite x off v t) s = s.at t fun m => m.windowWrite x off v := rfl
theorem exec_ambErrcapRead (x : Lane) : exec (.ambErrcapRead x t) s = s.at t fun m => m.ambReadErr x := rfl
end

/-- Settles O54: each command of the recorder has its branches, and each clause names the one that its premises choose. -/
theorem amberWritesSuppressesAndRefuses : Obligations.AmberWritesSuppressesAndRefuses := by
  unfold Obligations.AmberWritesSuppressesAndRefuses
  intro s x t m0 a p rest slot
  refine ⟨fun hr => ?_, fun i r rs hr hlen hsrc hbuf howed => ⟨fun hl => ?_, fun lim w hl hw ht hc => ?_⟩, ?_,
    fun code src w hw => ⟨fun hr hs ht => ?_, fun ht => ?_⟩,
    fun hg hr => ⟨?_, fun hs h0 h1 => ?_, fun hs h0 h1 => ?_⟩,
    fun off v hp ho hw => ⟨fun hpwen hpage => ?_, fun hpwen hpage => ?_, fun hpwen => ?_⟩, fun hp => ?_⟩
  · exact (exec_amberRecordWrite t s).trans (State.at_unchanged s t _ (if_neg (ne_true_of_eq_false hr)))
  · refine Completes.of_at (exec_amberRecordWrite t s) ?_
    have hi : i < 10 := Amber.nextSource_lt hsrc
    rw [Mod.amberTake_front (m := m0) hr hsrc hbuf howed, Amber.limited_unlimited hl]
    refine ⟨⟨rfl, rfl, rfl, rfl⟩, rfl, Amber.append_newest _ r, Amber.append_count _ r, Amber.append_slot _ r, ?_, Amber.append_rr _ r⟩
    exact (congrArg (fun k => (k.getD i Intake.empty).buf) (Amber.append_intake _ r)).trans (Amber.popped_buf hlen hi rs)
  · refine Completes.of_at (exec_amberRecordWrite t s) ?_
    have hw' : (m0.amber.popped i rs).win r.code r.src = some w := hw
    obtain ⟨hcode, hsource⟩ := Amber.win_key hw
    rw [Mod.amberTake_front (m := m0) hr hsrc hbuf howed, Amber.limited_suppressed hl hw' ht hc]
    have hwin : ((a.popped i rs).putWin (w.suppress r)).win r.code r.src = some (w.suppress r) := by
      rw [← hcode, ← hsource]
      exact Amber.win_putWin _ (w.suppress r)
    exact ⟨⟨rfl, rfl, rfl, rfl⟩, rfl, rfl, rfl, congrArg (Option.map RateWin.suppressed) hwin⟩
  · intro e i hlen
    refine ⟨fun ht => ?_, fun ht => ?_⟩
    · refine Completes.of_at (exec_amberIntakeRefuse t s e) ?_
      have hi : i < 10 := Nat.lt_of_le_of_lt (Nat.min_le_right _ _) (by decide)
      have hrefuse : m0.amberRefuse e = { m0 with amber := a.refuse i (if a.ready then 3 else 5) } :=
        (if_neg (by simp [show m0.amber.takes (min e.src 9) = false from ht])).trans (m0.put_refused e ht)
      rw [hrefuse]
      refine ⟨⟨rfl, rfl, rfl, rfl⟩, rfl, Amber.refuse_store _ _ _, ?_, fun y hy => ?_⟩
      · refine (congrArg (fun k => k.getD i Intake.empty) (Amber.refuse_intake a i _)).trans ?_
        simp [List.getD_eq_getElem?_getD, hlen, hi]
      · have hport := Amber.refuse_port a (if a.ready then 3 else 5) y
        rw [hy] at hport
        change ((a.refuse i _).port.get y).errcap = _ ∧ ((a.refuse i _).port.get y).irq.getLsbD 0 = true
        rw [hport]
        exact ⟨rfl, AmbPort.raise_error_irq _ _ _⟩
    · exact (exec_amberIntakeRefuse t s e).trans (State.at_unchanged s t _ (if_pos ht))
  · refine Completes.of_at (exec_rateWindowClose t s code src) ?_
    obtain ⟨r, hcode, hsource, hclose⟩ := Amber.closeWin_summary (a := a) hs m0.now m0.sid
    rw [Mod.rateClose_due (m := m0) hw hr hs ht, show m0.amber.closeWin w m0.now m0.sid = _ from hclose]
    exact ⟨⟨rfl, rfl, rfl, rfl⟩, Amber.win_closed a w r, Amber.append_newest _ r, _, Amber.append_slot _ r, hcode, hsource⟩
  · exact (exec_rateWindowClose t s code src).trans (State.at_unchanged s t _ (Mod.rateClose_early (m := m0) hw ht))
  · refine Completes.of_at (exec_amberRecovery t s) ?_
    rw [m0.amberRecover_goes hg hr]
    exact ⟨⟨rfl, rfl, rfl, rfl⟩, rfl, Amber.recover_ready _ _ _⟩
  · refine Completes.of_at (exec_amberRecovery t s) ?_
    rw [m0.amberRecover_goes hg hr]
    exact Amber.recover_first _ _ _ hs h0 h1
  · refine Completes.of_at (exec_amberRecovery t s) ?_
    rw [m0.amberRecover_goes hg hr]
    exact Amber.recover_blank _ _ _ hs h0 h1
  · refine Completes.of_at (exec_amberWindowWrite t s x off v) ?_
    rw [m0.windowWrite_inside x v ⟨hp, ho, hw, hpwen⟩ hpage]
    refine ⟨⟨rfl, rfl, rfl, rfl⟩, ?_, fun y hy => ?_, Mod.modAmbPort_self _ x _⟩
    · exact (Mod.modAmbPort_lane ..).trans (m0.lane_modLane_self x _)
    · exact (Mod.modAmbPort_lane ..).trans (m0.lane_modLane_ne x y _ hy)
  · refine Completes.of_at (exec_amberWindowWrite t s x off v) ?_
    rw [m0.windowWrite_outside x v ⟨hp, ho, hw, hpwen⟩ hpage]
    exact ⟨⟨rfl, rfl, rfl, rfl⟩, rfl, congrArg AmbPort.errcap (Mod.modAmbPort_self m0 x _)⟩
  · exact (exec_amberWindowWrite t s x off v).trans (State.at_unchanged s t _ (m0.windowWrite_locked x v hpwen))
  · refine Completes.of_at (exec_ambErrcapRead t s x) ?_
    rw [m0.ambReadErr_powered x hp]
    refine ⟨⟨rfl, rfl, rfl, rfl⟩, Mod.lane_modLane_self _ x _, ?_⟩
    rw [Mod.modLane_amber]
    exact m0.modAmbPort_self x _

end Sys2Proof.Machine
end

