-- ==== Sys2Proof/Proofs/MailboxTurns.lean ====
section
/-!
SUPPORT. The mailbox transports: what changes with a connection and what stands, and what becomes of a request that finds its ring empty:
it is answered, or it runs on (14_jade_mailboxes.md R396 to R402, R405, R408).
-/
namespace Sys2Proof.Machine

/-! ### Connections -/

section
variable (j : Jade) (tr : Nat)

@[simp] theorem Jade.conn_setConn_self (c : MbConn) : (j.setConn tr c).conn tr = c := by
  unfold Jade.setConn
  split_ifs with h1 h2 <;> simp [Jade.conn, *]

@[simp] theorem Jade.setConn_setConn_self (c c' : MbConn) : (j.setConn tr c).setConn tr c' = j.setConn tr c' := by
  unfold Jade.setConn
  split_ifs <;> rfl

@[simp] theorem Jade.setConn_conn_self : j.setConn tr (j.conn tr) = j := by
  unfold Jade.setConn Jade.conn
  split_ifs <;> rfl
end

/-- The module with other connections. -/
def Mod.withConns (m : Mod) (c1 c2 c3 : MbConn) : Mod := { m with jade := { m.jade with conn1 := c1, conn2 := c2, conn3 := c3 } }

section
variable (m : Mod) (tr : Nat) (f g : MbConn → MbConn)

@[simp] theorem Mod.conn_modConn_self : (m.modConn tr f).jade.conn tr = f (m.jade.conn tr) := m.jade.conn_setConn_self tr _

theorem Mod.modConn_modConn : (m.modConn tr f).modConn tr g = m.modConn tr (g ∘ f) := by
  simp only [Mod.modConn, Jade.conn_setConn_self, Jade.setConn_setConn_self, Function.comp]

/-- A change that leaves the connection as it is changes nothing. -/
theorem Mod.modConn_unchanged (h : f (m.jade.conn tr) = m.jade.conn tr) : m.modConn tr f = m := by
  simp only [Mod.modConn, h, Jade.setConn_conn_self]

/-- A change of one connection touches nothing but the connections. -/
theorem Mod.modConn_withConns : ∃ c1 c2 c3, m.modConn tr f = m.withConns c1 c2 c3 := by
  unfold Mod.modConn Jade.setConn
  split_ifs
  · exact ⟨f (m.jade.conn tr), m.jade.conn2, m.jade.conn3, rfl⟩
  · exact ⟨m.jade.conn1, f (m.jade.conn tr), m.jade.conn3, rfl⟩
  · exact ⟨m.jade.conn1, m.jade.conn2, f (m.jade.conn tr), rfl⟩

/-- What does not look at the connections does not see them change. -/
theorem Mod.modConn_keeps {α : Type} (p : Mod → α) (h : ∀ c1 c2 c3, p (m.withConns c1 c2 c3) = p m) : p (m.modConn tr f) = p m := by
  obtain ⟨c1, c2, c3, heq⟩ := m.modConn_withConns tr f
  rw [heq, h c1 c2 c3]

@[simp] theorem Mod.modConn_lanes : (m.modConn tr f).lanes = m.lanes := rfl
@[simp] theorem Mod.modConn_clock : (m.modConn tr f).clock = m.clock := rfl
@[simp] theorem Mod.modConn_sent : (m.modConn tr f).sent = m.sent := rfl
@[simp] theorem Mod.modConn_mode : (m.modConn tr f).jade.mode = m.jade.mode := m.modConn_keeps tr f (fun m => m.jade.mode) fun _ _ _ => rfl
@[simp] theorem Mod.modConn_restart : (m.modConn tr f).jade.restart = m.jade.restart :=
  m.modConn_keeps tr f (fun m => m.jade.restart) fun _ _ _ => rfl
end

/-! ### A ring with nothing in it -/

/-- A ring with nothing in it has nothing to take a turn. -/
theorem Mod.pump_of_no_jobs (m : Mod) (tr : Nat) (h : (m.jade.conn tr).jobs = []) : m.pump tr = m := by
  have hpump : m.pump tr = (m.modConn tr fun c => { c with jobs := [] }).modConn tr fun c => { c with jobs := [] ++ c.jobs } := by
    simp only [Mod.pump, h]
    rfl
  rw [hpump, Mod.modConn_modConn]
  refine m.modConn_unchanged tr _ ?_
  simp only [Function.comp, List.nil_append]
  rw [← h]

/-! ### A request that finds its ring empty -/

/-- Jade takes requests of the transport, nothing is left in its ring, and the TAG is free. -/
def Mod.Accepts (m : Mod) (req : MbReq) : Prop :=
  m.connOpen req.tr = true ∧ (m.jade.conn req.tr).jobs = [] ∧ ∀ r ∈ (m.jade.conn req.tr).ready, r.tag ≠ req.tag

/-- The module with the request taken from its ring. -/
def Mod.consumed (m : Mod) (req : MbReq) : Mod :=
  m.modConn req.tr fun c => { c with consumed := c.consumed + 1, rspcons := req.rspcons, jobs := [] }

/-- The module with the answer to a request taken: its response waits, or the request runs on since the instant `now`. -/
def Mod.settle (m : Mod) (cmd : Nat) (req : MbReq) (now : Nat) (svc : Bool) : Ans → Mod
  | .done status detail holder payload => m.modConn req.tr fun c => { c with ready := c.ready ++ [⟨cmd, req.tag, status, detail, holder, payload⟩] }
  | .wait arg => m.modConn req.tr fun c => { c with jobs := [⟨cmd, req, true, now, req.partner, arg, svc, false⟩] ++ c.jobs }

section
variable (m : Mod) (cmd : Nat) (req : MbReq)

/-- The waiting request that `Mod.request` puts into the ring. -/
def waitingJob (fail : Option Nat) (now : Nat) : MbJob :=
  ⟨cmd, req, false, now, false, (match fail with
    | some f => f + 1
    | none => 0), false, false⟩

theorem waitingJob_fail (fail : Option Nat) (now : Nat) :
    (if (waitingJob cmd req fail now).arg = 0 then none else some ((waitingJob cmd req fail now).arg - 1)) = fail := by
  cases fail <;> rfl

/-- A request alone in its ring starts at once and settles. -/
theorem Mod.turns_alone (fail : Option Nat) (now : Nat) :
    let r := m.startCmd cmd req fail
    let q := Mod.turns [waitingJob cmd req fail now] [] m
    (q.1.modConn req.tr fun c => { c with jobs := q.2 ++ c.jobs }) = r.1.settle cmd req m.clock m.inService r.2 := by
  intro r q
  have hturn : m.turn [] (waitingJob cmd req fail now) = match r.2 with
      | .done s d h p => (r.1.respond (waitingJob cmd req fail now) s d h p, none)
      | .wait a => (r.1, some ⟨cmd, req, true, m.clock, req.partner, a, m.inService, false⟩) := by
    have hstart : mayStart [] (waitingJob cmd req fail now) = true := by simp [mayStart]
    simp only [Mod.turn, hstart, waitingJob_fail]
    rfl
  have hq : q = Mod.turns [waitingJob cmd req fail now] [] m := rfl
  rw [Mod.turns, hturn] at hq
  cases hr : r.2 with
  | done s d h p =>
    simp only [hr, Mod.turns] at hq
    rw [hq]
    exact Mod.modConn_unchanged _ _ _ rfl
  | wait a =>
    simp only [hr, Mod.turns] at hq
    rw [hq]
    rfl

/-- A request that finds its ring empty starts at once: it is answered, or it runs on. -/
theorem Mod.request_of_accepts (fail : Option Nat) (h : m.Accepts req) :
    let r := (m.consumed req).startCmd cmd req fail
    m.request cmd req fail = r.1.settle cmd req m.clock m.inService r.2 := by
  intro r
  obtain ⟨hopen, hjobs, htags⟩ := h
  let m2 := (m.modConn req.tr fun c => { c with consumed := c.consumed + 1, rspcons := req.rspcons }).modConn req.tr
    fun c => { c with jobs := (m.jade.conn req.tr).jobs ++ [waitingJob cmd req fail m.clock] }
  have hfree : ¬(((m.jade.conn req.tr).jobs.any fun k => k.req.tag == req.tag) ||
      (m.jade.conn req.tr).ready.any fun r => r.tag == req.tag) = true := by
    simpa [hjobs] using htags
  have hrequest : m.request cmd req fail = m2.pump req.tr := by
    refine (if_neg (by simp [hopen, hjobs])).trans ((if_neg hfree).trans ?_)
    simp only [m2, Mod.modConn, Jade.conn_setConn_self]
    rfl
  have hring : (m2.jade.conn req.tr).jobs = [waitingJob cmd req fail m.clock] := by simp [m2, hjobs]
  have htaken : (m2.modConn req.tr fun c => { c with jobs := [] }) = m.consumed req := by
    simp only [m2, Mod.modConn_modConn]
    rfl
  have hclock : (m.consumed req).clock = m.clock := rfl
  have hservice : (m.consumed req).inService = m.inService := rfl
  rw [hrequest, Mod.pump]
  simp only [hring, htaken]
  rw [← hclock, ← hservice]
  exact (m.consumed req).turns_alone cmd req fail m.clock

/-- A request whose TAG is in flight is answered TAG_BUSY (R401). -/
theorem Mod.request_tagBusy (fail : Option Nat) (ho : m.connOpen req.tr = true) (hj : (m.jade.conn req.tr).jobs = [])
    {r : MbResp} (hr : r ∈ (m.jade.conn req.tr).ready) (ht : r.tag = req.tag) :
    m.request cmd req fail = (m.consumed req).settle cmd req m.clock m.inService (ansBad mbTAGBUSY) := by
  have hbusy : (((m.jade.conn req.tr).jobs.any fun k => k.req.tag == req.tag) ||
      (m.jade.conn req.tr).ready.any fun r => r.tag == req.tag) = true := by
    simpa [hj] using ⟨r, hr, ht⟩
  have hconsumed : (m.modConn req.tr fun c => { c with consumed := c.consumed + 1, rspcons := req.rspcons }) = m.consumed req := by
    simp only [Mod.consumed, Mod.modConn, hj]
  refine (if_neg (by simp [ho, hj])).trans ((if_pos hbusy).trans ?_)
  rw [hconsumed]
  rfl

theorem Mod.settle_lanes (now : Nat) (svc : Bool) (a : Ans) : (m.settle cmd req now svc a).lanes = m.lanes := by
  cases a <;> rfl

/-- A response that waits is one more in its connection, and what the ring had is consumed. -/
theorem Mod.settle_answers {m' : Mod} (hc : m'.jade.conn req.tr = (m.consumed req).jade.conn req.tr) (now : Nat) (svc : Bool)
    (status detail holder : Nat) (payload : Bytes) :
    m.Answers cmd req status detail holder payload (m'.settle cmd req now svc (.done status detail holder payload)) := by
  simp only [Mod.Answers, Mod.settle, Mod.conn_modConn_self, hc, Mod.consumed, and_self]

/-- A request that runs on is the only one in its ring. -/
theorem Mod.settle_runsOn {m' : Mod} (hc : m'.jade.conn req.tr = (m.consumed req).jade.conn req.tr) (hclock : m'.clock = m.clock)
    (svc : Bool) (arg : Nat) : m.RunsOn cmd req (m'.settle cmd req m.clock svc (.wait arg)) := by
  simp only [Mod.RunsOn, Mod.settle, Mod.conn_modConn_self, hc, Mod.consumed, List.append_nil, true_and]
  exact ⟨_, rfl, rfl, rfl, rfl, hclock.symm⟩
end

/-! ### How the command of a request completes -/

section
variable {m : Mod} {code : Nat} {req : MbReq} {fail : Option Nat} (ha : m.Accepts req)
include ha

/-- A request that starts at once and is done is answered. -/
theorem Mod.request_answers {status detail holder : Nat} {payload : Bytes}
    (hr : ∀ c1 c2 c3, ∃ m', (m.withConns c1 c2 c3).startCmd code req fail = (m', .done status detail holder payload) ∧
      m'.jade.conn req.tr = (m.withConns c1 c2 c3).jade.conn req.tr) :
    m.Answers code req status detail holder payload (m.request code req fail) := by
  obtain ⟨c1, c2, c3, hconns⟩ : ∃ c1 c2 c3, m.consumed req = m.withConns c1 c2 c3 := m.modConn_withConns req.tr _
  obtain ⟨m', hstart, hconn⟩ := hr c1 c2 c3
  rw [← hconns] at hstart hconn
  rw [m.request_of_accepts code req fail ha, hstart]
  exact m.settle_answers code req hconn ..

/-- A request that starts at once and waits runs on. -/
theorem Mod.request_runsOn {arg : Nat}
    (hr : ∀ c1 c2 c3, ∃ m', (m.withConns c1 c2 c3).startCmd code req fail = (m', .wait arg) ∧
      m'.jade.conn req.tr = (m.withConns c1 c2 c3).jade.conn req.tr ∧ m'.clock = m.clock) :
    m.RunsOn code req (m.request code req fail) := by
  obtain ⟨c1, c2, c3, hconns⟩ : ∃ c1 c2 c3, m.consumed req = m.withConns c1 c2 c3 := m.modConn_withConns req.tr _
  obtain ⟨m', hstart, hconn, hclock⟩ := hr c1 c2 c3
  rw [← hconns] at hstart hconn
  rw [m.request_of_accepts code req fail ha, hstart]
  exact m.settle_runsOn code req hconn hclock ..
end

section
variable {c : Instr} {s : State} {t code : Nat} {req : MbReq} (hx : exec c s = s.at t fun m => m.request code req none) (ha : s.m.Accepts req)
include hx ha

/-- A request that Jade answers without changing anything completes with the answer. -/
theorem Completes.answers {status detail holder : Nat} {payload : Bytes}
    (hr : ∀ c1 c2 c3, let m := (s.m.advance t).withConns c1 c2 c3; m.startCmd code req none = (m, .done status detail holder payload)) :
    Completes c s ((s.m.advance t).Answers code req status detail holder payload) :=
  Completes.of_at hx (Mod.request_answers (m := s.m.advance t) ha fun c1 c2 c3 => ⟨_, hr c1 c2 c3, rfl⟩)

/-- A request that waits at once completes with the request running. -/
theorem Completes.runsOn {arg : Nat}
    (hr : ∀ c1 c2 c3, let m := (s.m.advance t).withConns c1 c2 c3; m.startCmd code req none = (m, .wait arg)) :
    Completes c s ((s.m.advance t).RunsOn code req) :=
  Completes.of_at hx (Mod.request_runsOn (m := s.m.advance t) ha fun c1 c2 c3 => ⟨_, hr c1 c2 c3, rfl, rfl⟩)
end

/-! ### Commands that Jade takes -/

theorem Mod.Takes.accepts {m : Mod} {code : Nat} {req : MbReq} (h : m.Takes code req) : m.Accepts req := by
  obtain ⟨hopen, hjobs, htags, -⟩ := h
  exact ⟨hopen, hjobs, htags⟩

/-- A command that nothing turns away is executed, whatever the connections. -/
theorem Mod.Takes.starts {m : Mod} {code : Nat} {req : MbReq} (h : m.Takes code req) (c1 c2 c3 : MbConn) (fail : Option Nat) :
    (m.withConns c1 c2 c3).startCmd code req fail = (m.withConns c1 c2 c3).runCmd code req fail := by
  obtain ⟨-, -, -, hpartner, hrsv, hsession, hturn⟩ := h
  cases hi : cmdInfo code with
  | none => simp [hi] at hturn
  | some i =>
    have haway : (m.withConns c1 c2 c3).turnAway i req.tr = 0 := by
      have hm : m.turnAway i req.tr = 0 := by simpa [hi] using hturn
      exact hm
    have hfields : ¬(req.rsv = true ∨ req.session ≠ 0 ∧ (code < 0x0302 ∨ 0x0306 < code)) := by
      simp only [hrsv, Bool.false_eq_true, false_or]
      omega
    simp only [Mod.startCmd, hi, hpartner, Bool.false_eq_true, if_false, haway, ne_eq, not_true, if_neg hfields]

section
variable {c : Instr} {s : State} {t code : Nat} {req : MbReq} (hx : exec c s = s.at t fun m => m.request code req none) (ht : s.m.Takes code req)
include hx ht

/-- A command that is done at once, and leaves its connection alone, is answered. -/
theorem Completes.replies {status detail holder : Nat} {payload : Bytes}
    (hr : ∀ c1 c2 c3, let m := (s.m.advance t).withConns c1 c2 c3
      ∃ m', m.runCmd code req none = (m', .done status detail holder payload) ∧ m'.jade.conn req.tr = m.jade.conn req.tr) :
    Completes c s ((s.m.advance t).Answers code req status detail holder payload) := by
  refine Completes.of_at hx (Mod.request_answers (m := s.m.advance t) ht.accepts fun c1 c2 c3 => ?_)
  obtain ⟨m', hrun, hconn⟩ := hr c1 c2 c3
  exact ⟨m', (Mod.Takes.starts (m := s.m.advance t) ht c1 c2 c3 none).trans hrun, hconn⟩

/-- A command that only reads, or is refused, is answered. -/
theorem Completes.reads {status detail holder : Nat} {payload : Bytes}
    (hr : ∀ c1 c2 c3, let m := (s.m.advance t).withConns c1 c2 c3; m.runCmd code req none = (m, .done status detail holder payload)) :
    Completes c s ((s.m.advance t).Answers code req status detail holder payload) :=
  Completes.replies hx ht fun c1 c2 c3 => ⟨_, hr c1 c2 c3, rfl⟩

/-- A command that has to wait before it reads runs on. -/
theorem Completes.waits {arg : Nat}
    (hr : ∀ c1 c2 c3, let m := (s.m.advance t).withConns c1 c2 c3; m.runCmd code req none = (m, .wait arg)) :
    Completes c s ((s.m.advance t).RunsOn code req) :=
  Completes.runsOn hx ht.accepts fun c1 c2 c3 => (Mod.Takes.starts (m := s.m.advance t) ht c1 c2 c3 none).trans (hr c1 c2 c3)
end

end Sys2Proof.Machine
end

