-- ==== Sys2Proof/Proofs/MailboxReads.lean ====
section
/-!
SUPPORT and the settled statement on the commands that only read: what each answers with, and what it refuses
(14_jade_mailboxes.md R409 to R413 and the tables of its groups; 15_lifecycle_identity_update.md R424; 17_amber_recorder.md R469).
-/
namespace Sys2Proof.Machine

section
variable (m : Mod) (req : MbReq)

/-! ### Commands without a payload -/

section
variable (h : req.payload = [])
include h

theorem Mod.cmdIdRead_ok : m.cmdIdRead req = (m, ansOk m.identity) := if_neg (not_not_intro h)
theorem Mod.cmdIdKey_ok : m.cmdIdKey req = (m, ansOk (leBytes 2 2592 ++ leBytes 2 0 ++ Bytes.pad Config.identityKey 2592)) :=
  if_neg (not_not_intro h)
theorem Mod.cmdImgList_ok : m.cmdImgList req = (m, ansOk m.jade.imgList) := if_neg (not_not_intro h)
theorem Mod.cmdLcRead_ok : m.cmdLcRead req = (m, ansOk (leBytes 1 m.jade.lc.code ++ leBytes 1 m.service.code ++ leBytes 1 (claimOf m.obx.claim).role
    ++ leBytes 1 m.restart.kind ++ leBytes 2 m.heldCause ++ leBytes 2 0 ++ leBytes 8 (m.clock - m.power.goodAt))) := if_neg (not_not_intro h)
theorem Mod.cmdLaneStatus_ok : m.cmdLaneStatus req = (m, ansOk (m.laneStatus .a ++ m.laneStatus .b ++ m.laneStatus .c)) := by
  simp [Mod.cmdLaneStatus, h, Lane.all]
theorem Mod.cmdRecInfo_ok : m.cmdRecInfo req = (m, ansOk (leBytes 4 m.amber.oldest ++ leBytes 4 m.amber.newest ++ leBytes 4 m.amber.stored
    ++ leBytes 4 amberSlots ++ leBytes 4 m.amber.suppr)) := if_neg (not_not_intro h)

/-- The measured power is a value without a rule; reading it uses one up (assumption log 17). -/
theorem Mod.cmdPwrStatus_ok : m.cmdPwrStatus req = ({ m with free := m.free + 1 },
    ansOk ((List.range 12).flatMap (fun d => leBytes 1 (m.power.dom m.full d)) ++ leBytes 4 0 ++ leBytes 1 m.power.x1.status
      ++ leBytes 1 m.power.x2.status ++ leBytes 2 0 ++ leBytes 4 (Config.freeValue m.free))) := if_neg (not_not_intro h)

theorem Mod.cmdLioStatus_ok (hf : m.full = true) : m.cmdLioStatus req = (m, ansOk ((List.range 96).flatMap (fun c => leBytes 4 (m.lio.chst c))
    ++ (List.range 48).flatMap (fun o => leBytes 4 (m.lio.outst m.can o)) ++ leBytes 4 m.lio.tpst ++ leBytes 4 m.lio.bankst)) :=
  (if_neg (by simp [hf])).trans (if_neg (not_not_intro h))

/-- How PTP stands in TIME_READ: inconsistent, valid, or neither. -/
def TimeKeep.ptpState (k : TimeKeep) : Nat := if k.ptpInconsistent then 2 else if k.ptpValid then 1 else 0

theorem Mod.cmdTimeRead_ok : m.cmdTimeRead req = (m, ansOk (leBytes 8 m.now ++ leBytes 1 m.time.source ++ leBytes 1 (b2n m.time.verified)
    ++ leBytes 1 m.time.ptpState ++ leBytes 1 m.time.ptpPort ++ leBytes 8 (m.time.ptpDelta % 2 ^ 64).toNat ++ leBytes 4 m.obx.syncReg.toNat
    ++ leBytes 4 m.obx.rateReg.toNat)) := if_neg (not_not_intro h)

theorem Mod.cmdPairStatus_ok {q : PairStatus} (hq : m.pair.partner = some q) :
    m.cmdPairStatus req = (m, ansOk (leBytes 8 m.obx.claim ++ leBytes 8 q.claim ++ leBytes 4 (m.lane m.reader).pcc ++ leBytes 4 q.pcc
      ++ leBytes 8 m.pair.lastChange ++ leBytes 1 (b2n m.pair.overdueAt.isSome + 2 * b2n m.pair.linkUp + 4 * b2n m.pair.heldCold)
      ++ leBytes 1 m.pairReason ++ leBytes 1 (min 255 (m.pair.divergences.filter fun d => decide (m.clock < d + dayNs)).length) ++ leBytes 1 0)) := by
  refine (if_neg (not_not_intro h)).trans ?_
  simp only [hq]

theorem Mod.cmdUpdStatus_none (hs : m.jade.session = none) : m.cmdUpdStatus req = (m, ansOk (leBytes 16 0)) := by
  refine (if_neg (not_not_intro h)).trans ?_
  simp only [hs]

/-- The types that a session holds verified, as a row of bits. -/
def Session.received (e : Session) : Nat := e.images.foldl (fun a p => if p.2.verified then a ||| 2 ^ p.1 else a) 0

/-- A status read by the holder counts as a session command, which changes the instant of the last and nothing else (R403). -/
theorem Mod.cmdUpdStatus_some {e : Session} (hs : m.jade.session = some e) :
    let m' := if e.holder = req.tr ∧ e.id = req.session then m.setSession (some { e with lastAt := m.clock }) else m
    m.cmdUpdStatus req = (m', ansOk (leBytes 1 e.holder ++ leBytes 3 0 ++ leBytes 4 e.id ++ leBytes 4 ((m.clock - e.lastAt) / 1000000000)
      ++ leBytes 4 e.received)) ∧ m'.jade.conn req.tr = m.jade.conn req.tr := by
  intro m'
  refine ⟨(if_neg (not_not_intro h)).trans ?_, ?_⟩
  · simp only [hs]
    rfl
  · unfold m'
    split <;> rfl
end

/-! ### Commands that read at a place -/

section
variable {m req}

theorem Mod.cmdAttestRead_none (hp : req.payload.length = 12) (hr : m.jade.reports.find req.tr = none) :
    m.cmdAttestRead req = (m, ansBad mbNOTFOUND) := by
  refine (if_neg (not_not_intro hp)).trans ?_
  simp only [hr]

section
variable {r : Report} (hp : req.payload.length = 12) (hr : m.jade.reports.find req.tr = some r) (hid : r.rid = Bytes.le req.payload 0 4)
  (ht : m.clock < r.at' + 600000000000)
include hp hr hid ht

/-- The report of the transport, while it is kept, is read inside its bounds and not beyond them (R424). -/
theorem Mod.cmdAttestRead_some :
    let o := Bytes.le req.payload 4 4
    let n := Bytes.le req.payload 8 2
    m.cmdAttestRead req = if 4032 < n ∨ Bytes.le req.payload 10 2 ≠ 0 ∨ 11479 < o + n then (m, ansBad mbBADARG) else (m, ansOk (Bytes.sub r.body o n)) := by
  refine (if_neg (not_not_intro hp)).trans ?_
  simp only [hr]
  exact if_neg (not_or.mpr ⟨not_not_intro hid, Nat.not_le.mpr ht⟩)

theorem Mod.cmdAttestRead_inside (hn : Bytes.le req.payload 8 2 ≤ 4032) (hrsv : Bytes.le req.payload 10 2 = 0)
    (hlen : Bytes.le req.payload 4 4 + Bytes.le req.payload 8 2 ≤ 11479) :
    m.cmdAttestRead req = (m, ansOk (Bytes.sub r.body (Bytes.le req.payload 4 4) (Bytes.le req.payload 8 2))) :=
  (Mod.cmdAttestRead_some hp hr hid ht).trans (if_neg (by omega))

theorem Mod.cmdAttestRead_outside (hn : 4032 < Bytes.le req.payload 8 2 ∨ 11479 < Bytes.le req.payload 4 4 + Bytes.le req.payload 8 2) :
    m.cmdAttestRead req = (m, ansBad mbBADARG) := (Mod.cmdAttestRead_some hp hr hid ht).trans (if_pos (by omega))
end

section
variable (hp : req.payload.length = 4) (ht : 1 ≤ Bytes.le req.payload 0 1 ∧ Bytes.le req.payload 0 1 ≤ 8) (hw : Bytes.le req.payload 1 1 = 0)
  (hrsv : Bytes.le req.payload 2 2 = 0)
include hp ht hw hrsv

theorem Mod.cmdImgInfo_running {b : Blob} (hb : (m.jade.img (Bytes.le req.payload 0 1)).running = some b) :
    m.cmdImgInfo req = (m, ansOk (b.bytes 0 4064)) := by
  refine (if_neg (not_not_intro hp)).trans ((if_neg (by omega)).trans ?_)
  simp only [hw, if_true, hb]

theorem Mod.cmdImgInfo_none (hb : (m.jade.img (Bytes.le req.payload 0 1)).running = none) : m.cmdImgInfo req = (m, ansBad mbNOTFOUND) := by
  refine (if_neg (not_not_intro hp)).trans ((if_neg (by omega)).trans ?_)
  simp only [hw, if_true, hb]
end

theorem Mod.cmdChgRead_none (hp : req.payload.length = 8) (hr : (m.lane m.reader).rt.result = none) :
    m.cmdChgRead req = (m, ansBad mbNOTFOUND) := by
  refine (if_neg (not_not_intro hp)).trans ?_
  simp only [hr]

theorem Mod.cmdChgRead_some {r : ChangeResult} (hp : req.payload.length = 8) (hr : (m.lane m.reader).rt.result = some r)
    (hn : Bytes.le req.payload 4 2 ≤ 4032) (hrsv : Bytes.le req.payload 6 2 = 0)
    (hlen : Bytes.le req.payload 0 4 + Bytes.le req.payload 4 2 ≤ r.bytes.length) :
    m.cmdChgRead req = (m, ansOk (Bytes.sub r.bytes (Bytes.le req.payload 0 4) (Bytes.le req.payload 4 2))) := by
  refine (if_neg (not_not_intro hp)).trans ?_
  simp only [hr]
  exact if_neg (by omega)

theorem Mod.cmdSetRead_known {i : Nat × Bool × List LcState} (hp : req.payload.length = 4) (hrsv : Bytes.le req.payload 2 2 = 0)
    (hi : settingInfo (Bytes.le req.payload 0 2) = some i) :
    m.cmdSetRead req = (m, ansOk (leBytes 2 (Bytes.le req.payload 0 2) ++ leBytes 2 i.1
      ++ Bytes.pad (m.jade.stored m.sid (Bytes.le req.payload 0 2)) i.1)) := by
  refine (if_neg (not_not_intro hp)).trans ?_
  simp only [hi]
  exact if_neg (not_not_intro hrsv)

theorem Mod.cmdSetRead_unknown (hp : req.payload.length = 4) (hi : settingInfo (Bytes.le req.payload 0 2) = none) :
    m.cmdSetRead req = (m, ansBad mbBADARG) := by
  refine (if_neg (not_not_intro hp)).trans ?_
  simp only [hi]

theorem Mod.cmdSpsList_ok (hf : m.full = true) (hp : req.payload.length = 4) (ho : Bytes.le req.payload 0 2 ≤ 1728)
    (hrsv : Bytes.le req.payload 2 2 = 0) :
    m.cmdSpsList req = (m, ansOk ((Bytes.pad m.lio.sps 1728).drop (Bytes.le req.payload 0 2) ++ Bytes.pad m.lio.spscv 8)) :=
  (if_neg (by simp [hf])).trans ((if_neg (not_not_intro hp)).trans (if_neg (by omega)))

theorem Mod.cmdRecRead_bad (hp : req.payload.length = 8) (hc : Bytes.le req.payload 4 1 = 0 ∨ 63 < Bytes.le req.payload 4 1) :
    m.cmdRecRead req = (m, ansBad mbBADARG) := (if_neg (not_not_intro hp)).trans (if_pos (by omega))

/-- Where nothing was written a read finds nothing and goes on where it began. -/
theorem Amber.readFrom_nothing {a : Amber} (h : a.count = 0) (mask n from' want : Nat) : a.readFrom mask n from' want = ([], from') := by
  cases n with
  | zero => rfl
  | succ n => exact if_pos (Or.inr (Or.inl h))

theorem Mod.cmdRecRead_nothing (hp : req.payload.length = 8) (hrsv : Bytes.le req.payload 5 1 = 0)
    (hc : 1 ≤ Bytes.le req.payload 4 1 ∧ Bytes.le req.payload 4 1 ≤ 63) (hn : m.amber.count = 0)
    (ho : seqLater m.amber.oldest (Bytes.le req.payload 0 4) = false) :
    m.cmdRecRead req = (m, ansOk (leBytes 4 m.amber.newest ++ leBytes 4 m.amber.oldest ++ leBytes 4 m.amber.newest
      ++ leBytes 4 (Bytes.le req.payload 0 4) ++ leBytes 2 0 ++ leBytes 2 0)) := by
  refine (if_neg (not_not_intro hp)).trans ((if_neg (by omega)).trans ?_)
  simp only [Amber.readFrom_nothing hn, ho, Bool.false_eq_true, if_false, List.length_nil, List.flatten_nil, List.append_nil]

theorem Mod.cmdSliceRead_ok {x : Lane} (hp : req.payload.length = 4) (hx : laneOf (Bytes.le req.payload 0 1) = some x)
    (hs : Bytes.le req.payload 1 1 ≤ 31) (hrsv : Bytes.le req.payload 2 2 = 0) :
    m.cmdSliceRead req =
      (m, ansOk (((m.lane x).test.slices.getD (Bytes.le req.payload 1 1) SliceRec.zero).bytes (Bytes.le req.payload 1 1))) := by
  refine (if_neg (not_not_intro hp)).trans ?_
  simp only [hx]
  exact if_neg (by omega)

theorem Mod.cmdRepairRead_none {x : Lane} (hp : req.payload.length = 4) (hx : laneOf (Bytes.le req.payload 0 1) = some x)
    (hb : repairBytes (m.lane x).mram = none) : m.cmdRepairRead req = (m, ansBad mbNOTFOUND) := by
  refine (if_neg (not_not_intro hp)).trans ?_
  simp only [hx, hb]

theorem Mod.cmdRepairRead_some {x : Lane} {b : Bytes} (hp : req.payload.length = 4) (hx : laneOf (Bytes.le req.payload 0 1) = some x)
    (hb : repairBytes (m.lane x).mram = some b) (hrsv : Bytes.le req.payload 1 1 = 0) (ho : Bytes.le req.payload 2 2 ≤ b.length) :
    m.cmdRepairRead req = (m, ansOk ((b.drop (Bytes.le req.payload 2 2)).take 4032)) := by
  refine (if_neg (not_not_intro hp)).trans ?_
  simp only [hx, hb]
  exact if_neg (by omega)

theorem Mod.cmdObxStatus_ok (hp : req.payload.length = 4) (hf : 1 ≤ Bytes.le req.payload 0 2) (hn : Bytes.le req.payload 2 2 ≤ 1000)
    (hl : Bytes.le req.payload 0 2 + Bytes.le req.payload 2 2 ≤ 1001) :
    m.cmdObxStatus req = (m, ansOk (leBytes 1 m.obx.chA.state ++ leBytes 1 m.obx.chB.state ++ leBytes 2 0
      ++ (List.range (Bytes.le req.payload 2 2)).flatMap fun i => leBytes 4 (m.obx.nodest (Bytes.le req.payload 0 2 + i)
        ((m.lane m.reader).nodeVer m.obx.bk (Bytes.le req.payload 0 2 + i))).toNat)) :=
  (if_neg (not_not_intro hp)).trans (if_neg (by omega))

/-! ### Commands that read between the phases of a cycle -/

/-- A read of lane data waits for the tail of the cycle under way. -/
theorem Mod.cmdForceList_waits (hp : req.payload.length = 4) (hrsv : Bytes.le req.payload 2 2 = 0) (hph : m.ph ≠ .idle) :
    m.cmdForceList req = (m, .wait 0) :=
  (if_neg (not_not_intro hp)).trans ((if_neg (not_not_intro hrsv)).trans (if_pos (by simpa [Mod.inTail] using hph)))

section
variable (hph : m.ph = .idle)
include hph

theorem Mod.inTail_ne_false_of_idle : ¬m.inTail = false := by simp [Mod.inTail, hph]

theorem Mod.cmdForceList_nothing (hp : req.payload.length = 4) (hrsv : Bytes.le req.payload 2 2 = 0) (hf : (m.lane m.reader).rt.forces = []) :
    m.cmdForceList req = (m, ansOk (leBytes 8 m.cycle ++ leBytes 2 0 ++ leBytes 2 0 ++ leBytes 4 0)) := by
  refine (if_neg (not_not_intro hp)).trans ((if_neg (not_not_intro hrsv)).trans ((if_neg (Mod.inTail_ne_false_of_idle hph)).trans ?_))
  simp [hf]

theorem Mod.cmdVarRead_one (hn : Bytes.le req.payload 0 2 = 1) (hp : req.payload.length = 8) (hrsv : Bytes.le req.payload 2 2 = 0) :
    m.cmdVarRead req = (m, .done 0 (b2n ((m.lane m.reader).varValue (Bytes.le req.payload 4 4)).isNone) 0
      (leBytes 8 m.cycle ++ leBytes 8 (((m.lane m.reader).varValue (Bytes.le req.payload 4 4)).getD 0xFFFFFFFFFFFFFFFF))) := by
  refine (if_neg (by omega)).trans ((if_neg (by omega)).trans ((if_neg (Mod.inTail_ne_false_of_idle hph)).trans ?_))
  rw [hn]
  cases hv : (m.lane m.reader).varValue (Bytes.le req.payload 4 4) <;> simp [hv, b2n]

theorem Mod.cmdPlaneRead_ok (hp : req.payload.length = 4) (hrsv : Bytes.le req.payload 1 3 = 0)
    (hk : Bytes.le req.payload 0 1 < 32 ∨ 0x80 ≤ Bytes.le req.payload 0 1 ∧ Bytes.le req.payload 0 1 ≤ 0x8F) :
    m.cmdPlaneRead req = (m, ansOk (leBytes 8 m.cycle ++
      if Bytes.le req.payload 0 1 < 32 then leBytes 2048 ((m.lane m.reader).beryl.el.get (Bytes.le req.payload 0 1)).toNat
      else leBytes 512 ((m.lane m.reader).beryl.rt.get (Bytes.le req.payload 0 1 - 0x80)).toNat)) :=
  (if_neg (not_not_intro hp)).trans ((if_neg (by omega)).trans (if_neg (Mod.inTail_ne_false_of_idle hph)))
end
end

/-! ### What the other variant does not have -/

section
variable (hf : m.full = false)
include hf
theorem Mod.cmdSpsList_absent : m.cmdSpsList req = (m, ansBad mbABSENT) := if_pos hf
theorem Mod.cmdLioStatus_absent : m.cmdLioStatus req = (m, ansBad mbABSENT) := if_pos hf
end

end

/-- Settles O51: each command that reads is executed at once, and its clause names the branch that its premises choose. -/
theorem readCommandsAnswerTheirRecords : Obligations.ReadCommandsAnswerTheirRecords := by
  unfold Obligations.ReadCommandsAnswerTheirRecords
  intro s req t m0 j p le ok bad rd
  refine ⟨fun hp ht => ?_, fun hp ht => ?_, fun hp ht => ?_, fun ht hp => ⟨fun hr => ?_, fun r hr hid hage => ⟨fun hn hrsv hlen => ?_, fun hn => ?_⟩⟩,
    fun hp ht => ?_, fun hp ht => ?_, fun hp ht hs => ?_, fun e hp ht hs => ?_, fun ht hp h1 h8 hw hrsv => ⟨fun b hb => ?_, fun hb => ?_⟩,
    fun ht hp => ⟨fun hr => ?_, fun r hr hn hrsv hlen => ?_⟩, fun ht hp hrsv => ⟨fun i hi => ?_, fun hi => ?_⟩,
    fun ht => ⟨fun hf => ?_, fun hf hp ho hrsv => ?_⟩, fun hp ht => ?_, fun hp ht => ?_,
    fun ht hp hrsv => ⟨fun hc => ?_, fun h1 h63 hn ho => ?_⟩, fun hp ht => ?_, fun x ht hp hx hi hrsv => ?_,
    fun x ht hp hx => ⟨fun hb => ?_, fun b hb hrsv ho => ?_⟩, fun ht hp hf hn hl => ?_, fun ht => ⟨fun hf => ?_, fun hf hp => ?_⟩,
    fun hph ht hp hrsv => ?_,
    fun hph => ⟨fun ht hp hrsv hf => ?_, fun ht hn hp hrsv => ⟨fun v hv => ?_, fun hv => ?_⟩, fun ht hp hrsv => ⟨fun hk => ?_, fun hk hk' => ?_⟩⟩,
    fun hp ht => ?_, fun q hp ht hq => ?_⟩
  · exact Completes.reads (t := t) rfl ht fun _ _ _ => Mod.cmdIdRead_ok _ req hp
  · exact Completes.reads (t := t) rfl ht fun _ _ _ => if_pos hp
  · exact Completes.reads (t := t) rfl ht fun _ _ _ => Mod.cmdIdKey_ok _ req hp
  · exact Completes.reads (t := t) rfl ht fun _ _ _ => Mod.cmdAttestRead_none hp hr
  · exact Completes.reads (t := t) rfl ht fun c1 c2 c3 => Mod.cmdAttestRead_inside (m := m0.withConns c1 c2 c3) hp hr hid hage hn hrsv hlen
  · exact Completes.reads (t := t) rfl ht fun c1 c2 c3 => Mod.cmdAttestRead_outside (m := m0.withConns c1 c2 c3) hp hr hid hage hn
  · exact Completes.reads (t := t) rfl ht fun _ _ _ => Mod.cmdImgList_ok _ req hp
  · exact Completes.reads (t := t) rfl ht fun _ _ _ => Mod.cmdLcRead_ok _ req hp
  · exact Completes.reads (t := t) rfl ht fun _ _ _ => Mod.cmdUpdStatus_none _ req hp hs
  · exact ⟨e.received, Completes.replies (t := t) rfl ht fun c1 c2 c3 => ⟨_, Mod.cmdUpdStatus_some (m0.withConns c1 c2 c3) req hp hs⟩⟩
  · exact Completes.reads (t := t) rfl ht fun c1 c2 c3 => Mod.cmdImgInfo_running (m := m0.withConns c1 c2 c3) hp ⟨h1, h8⟩ hw hrsv hb
  · exact Completes.reads (t := t) rfl ht fun c1 c2 c3 => Mod.cmdImgInfo_none (m := m0.withConns c1 c2 c3) hp ⟨h1, h8⟩ hw hrsv hb
  · exact Completes.reads (t := t) rfl ht fun c1 c2 c3 => Mod.cmdChgRead_none (m := m0.withConns c1 c2 c3) hp hr
  · exact Completes.reads (t := t) rfl ht fun c1 c2 c3 => Mod.cmdChgRead_some (m := m0.withConns c1 c2 c3) hp hr hn hrsv hlen
  · exact Completes.reads (t := t) rfl ht fun c1 c2 c3 => Mod.cmdSetRead_known hp hrsv hi
  · exact Completes.reads (t := t) rfl ht fun c1 c2 c3 => Mod.cmdSetRead_unknown hp hi
  · exact Completes.reads (t := t) rfl ht fun c1 c2 c3 => Mod.cmdSpsList_absent _ req hf
  · exact Completes.reads (t := t) rfl ht fun c1 c2 c3 => Mod.cmdSpsList_ok (m := m0.withConns c1 c2 c3) hf hp ho hrsv
  · exact ⟨Config.freeValue s.m.free, Completes.replies (t := t) rfl ht fun c1 c2 c3 => ⟨_, Mod.cmdPwrStatus_ok (m0.withConns c1 c2 c3) req hp, rfl⟩⟩
  · exact Completes.reads (t := t) rfl ht fun c1 c2 c3 => Mod.cmdRecInfo_ok _ req hp
  · exact Completes.reads (t := t) rfl ht fun c1 c2 c3 => Mod.cmdRecRead_bad hp hc
  · exact Completes.reads (t := t) rfl ht fun c1 c2 c3 => Mod.cmdRecRead_nothing (m := m0.withConns c1 c2 c3) hp hrsv ⟨h1, h63⟩ hn ho
  · exact Completes.reads (t := t) rfl ht fun c1 c2 c3 => Mod.cmdLaneStatus_ok _ req hp
  · exact Completes.reads (t := t) rfl ht fun c1 c2 c3 => Mod.cmdSliceRead_ok hp hx hi hrsv
  · exact Completes.reads (t := t) rfl ht fun c1 c2 c3 => Mod.cmdRepairRead_none (m := m0.withConns c1 c2 c3) hp hx hb
  · exact Completes.reads (t := t) rfl ht fun c1 c2 c3 => Mod.cmdRepairRead_some (m := m0.withConns c1 c2 c3) hp hx hb hrsv ho
  · exact Completes.reads (t := t) rfl ht fun c1 c2 c3 => Mod.cmdObxStatus_ok hp hf hn hl
  · exact Completes.reads (t := t) rfl ht fun c1 c2 c3 => Mod.cmdLioStatus_absent _ req hf
  · exact Completes.reads (t := t) rfl ht fun c1 c2 c3 => Mod.cmdLioStatus_ok _ req hp hf
  · exact Completes.waits (t := t) rfl ht fun c1 c2 c3 => Mod.cmdForceList_waits (m := m0.withConns c1 c2 c3) hp hrsv hph
  · exact Completes.reads (t := t) rfl ht fun c1 c2 c3 => Mod.cmdForceList_nothing (m := m0.withConns c1 c2 c3) hph hp hrsv hf
  · refine Completes.reads (t := t) rfl ht fun c1 c2 c3 => (Mod.cmdVarRead_one (m := m0.withConns c1 c2 c3) hph hn hp hrsv).trans ?_
    rw [show ((m0.withConns c1 c2 c3).lane (m0.withConns c1 c2 c3).reader).varValue (Bytes.le req.payload 4 4) = some v from hv]
    rfl
  · refine Completes.reads (t := t) rfl ht fun c1 c2 c3 => (Mod.cmdVarRead_one (m := m0.withConns c1 c2 c3) hph hn hp hrsv).trans ?_
    rw [show ((m0.withConns c1 c2 c3).lane (m0.withConns c1 c2 c3).reader).varValue (Bytes.le req.payload 4 4) = none from hv]
    rfl
  · refine Completes.reads (t := t) rfl ht fun c1 c2 c3 => (Mod.cmdPlaneRead_ok (m := m0.withConns c1 c2 c3) hph hp hrsv (Or.inl hk)).trans ?_
    rw [if_pos hk]
    rfl
  · refine Completes.reads (t := t) rfl ht fun c1 c2 c3 => (Mod.cmdPlaneRead_ok (m := m0.withConns c1 c2 c3) hph hp hrsv (Or.inr ⟨hk, hk'⟩)).trans ?_
    rw [if_neg (Nat.not_lt.mpr (Nat.le_trans (by decide) hk))]
    rfl
  · exact ⟨s.m.time.ptpState, Completes.reads (t := t) rfl ht fun c1 c2 c3 => Mod.cmdTimeRead_ok (m0.withConns c1 c2 c3) req hp⟩
  · exact Completes.reads (t := t) rfl ht fun c1 c2 c3 => Mod.cmdPairStatus_ok (m := m0.withConns c1 c2 c3) req hp hq

end Sys2Proof.Machine
end

