-- ==== Sys2Proof/Proofs/MailboxRequests.lean ====
section
/-!
SUPPORT and the settled statement on requests: connections, responses, what turns a request away, and the times that Jade keeps
(14_jade_mailboxes.md R395 to R408, R410; 15_lifecycle_identity_update.md R424, R431, R435).
-/
namespace Sys2Proof.Machine

/-! ### Connections (R396, R400) -/

section
variable {m : Mod} {tr : Nat}

theorem Mod.connectionOpen_opens (htr : tr = 1 ∨ tr = 2) (hmode : m.jade.mode ≠ .off) (hc : (m.jade.conn tr).isOpen = false)
    (hsect : m.power.sect tr = .running) (hslot : tr = 2 → m.power.slotBad = false) :
    m.connectionOpen tr = m.modConn tr fun c => { c with isOpen := true, consumed := 0, written := 0, rspcons := 0, ready := [] } := by
  refine if_neg ?_
  simp only [hmode, hc, hsect, not_or]
  refine ⟨by omega, not_false, by simp, not_not_intro rfl, fun h => ?_⟩
  simp [hslot h.1] at h

theorem Mod.connectionOpen_slotBad (h : m.power.slotBad = true) : m.connectionOpen 2 = m :=
  if_pos (Or.inr (Or.inr (Or.inr (Or.inr ⟨rfl, h⟩))))

variable (htr : tr = 1 ∨ tr = 2) (hr : m.jade.restart = none)
include htr hr

/-- What was taken from a lost connection runs on without it. -/
theorem Mod.connectionLost_closes (hc : (m.jade.conn tr).isOpen = true) :
    m.connectionLost tr =
      m.modConn tr fun c => { c with isOpen := false, ready := [], jobs := c.jobs.map fun j => { j with lost := true } } := by
  refine (if_neg (by simp [hc]; omega)).trans ?_
  simp only [Mod.modConn_restart, hr]

theorem Mod.requestError_closes (ho : m.connOpen tr = true) :
    m.requestError tr = (m.modConn tr fun c => { c with errors := c.errors + 1 }).modConn tr
      fun c => { c with isOpen := false, ready := [], jobs := c.jobs.map fun j => { j with lost := true } } := by
  have hopen : (m.jade.conn tr).isOpen = true := by
    have h3 : tr ≠ 3 := by omega
    simp only [Mod.connOpen, if_neg h3, Bool.and_eq_true] at ho
    exact ho.2.2
  exact (if_neg (by simp [ho])).trans
    (Mod.connectionLost_closes htr ((m.modConn_restart tr _).trans hr) (by rw [Mod.conn_modConn_self]; exact hopen))
end

/-! ### Responses (R397) -/

section
variable {m : Mod} {tr : Nat} {r : MbResp} {rest : List MbResp} (hj : (m.jade.conn tr).jobs = []) (hr : (m.jade.conn tr).ready = r :: rest)
include hj hr

/-- A response leaves while the ring has room. -/
theorem Mod.responseSend_room (ho : m.connOpen tr = true) (hroom : (m.jade.conn tr).written < (m.jade.conn tr).rspcons + 256)
    (hrestart : m.jade.restart = none) :
    m.responseSend tr =
      (m.send (.mailbox tr) (m.responseBytes (m.jade.conn tr) r)).modConn tr fun c => { c with ready := rest, written := c.written + 1 } := by
  unfold Mod.responseSend
  simp only [m.pump_of_no_jobs tr hj, ite_self, hr]
  refine (if_neg (by simp [ho, hroom])).trans ?_
  simp only [Mod.modConn_restart, Mod.send_jade, hrestart]

theorem Mod.responseSend_full (hfull : (m.jade.conn tr).rspcons + 256 ≤ (m.jade.conn tr).written) : m.responseSend tr = m := by
  unfold Mod.responseSend
  simp only [m.pump_of_no_jobs tr hj, ite_self, hr]
  exact if_pos (Or.inr hfull)
end

/-! ### What turns a request away (R404 to R408) -/

section
variable {m : Mod} {cmd : Nat} {req : MbReq} {fail : Option Nat}

theorem Mod.startCmd_unknown (h : cmdInfo cmd = none) : m.startCmd cmd req fail = (m, ansBad mbBADCMD) := by
  simp only [Mod.startCmd, h]

section
variable {i : CmdInfo} (hi : cmdInfo cmd = some i)
include hi

/-- A command for this module is turned away with the first status that applies. -/
theorem Mod.startCmd_turned {status : Nat} (hp : req.partner = false) (ht : m.turnAway i req.tr = status) (hs : status ≠ 0) :
    m.startCmd cmd req fail = (m, ansBad status) := by
  simp only [Mod.startCmd, hi, hp, Bool.false_eq_true, if_false, ht, if_pos hs]

variable (hp : req.partner = true) (hl : m.lifeAway i req.tr = 0)
include hp hl

theorem Mod.startCmd_forward_transport (htr : req.tr = 3) : m.startCmd cmd req fail = (m, ansBad mbTRANSPORT) := by
  simp only [Mod.startCmd, hi, hp, if_true, hl, ne_eq, not_true, if_false]
  exact if_pos (Or.inr htr)

variable (hf : forwardable cmd = true) (htr : req.tr ≠ 3)
include hf htr

theorem Mod.startCmd_forward_unlinked (hlink : m.pair.linkUp = false) : m.startCmd cmd req fail = (m, ansBad mbPARTNER) := by
  simp only [Mod.startCmd, hi, hp, if_true, hl, ne_eq, not_true, if_false]
  exact (if_neg (by simp [hf, htr])).trans (if_pos hlink)

variable (hlink : m.pair.linkUp = true)
include hlink

theorem Mod.startCmd_forward_answered {a : PeerAns} (ha : req.peer = some a) :
    m.startCmd cmd req fail = (m, .done a.status a.detail 0 a.payload) := by
  simp only [Mod.startCmd, hi, hp, if_true, hl, ha, ne_eq, not_true, if_false]
  exact (if_neg (by simp [hf, htr])).trans (if_neg (by simp [hlink]))

theorem Mod.startCmd_forward_waits (ha : req.peer = none) : m.startCmd cmd req fail = (m, .wait 0) := by
  simp only [Mod.startCmd, hi, hp, if_true, hl, ha, ne_eq, not_true, if_false]
  exact (if_neg (by simp [hf, htr])).trans (if_neg (by simp [hlink]))
end

/-- ROM service and the life-cycle state come before everything else (assumption log 73). -/
theorem Mod.turnAway_of_lifeAway {i : CmdInfo} {tr status : Nat} (hl : m.lifeAway i tr = status) (hs : status ≠ 0) :
    m.turnAway i tr = status := (if_pos (by rwa [hl])).trans hl

/-- A command of every life-cycle state is taken by Jade running, in RETIRED where R406 lists it. -/
theorem Mod.lifeAway_running {i : CmdInfo} {tr : Nat} (hm : m.jade.mode = .running) (hi : i.states = [])
    (hr : m.jade.lc ≠ .retired ∨ retiredTakes i.code = true) : m.lifeAway i tr = 0 := by
  refine (if_neg (by simp [hm])).trans (if_neg ?_)
  simp only [hi, ne_eq, not_true, false_and, false_or, not_and, Bool.not_eq_false]
  exact fun h => hr.resolve_left (not_not_intro h)
end

theorem cmdInfo_idRead : cmdInfo 0x0101 = some ⟨0x0101, [], false, false⟩ := by decide
theorem cmdInfo_lcRead : cmdInfo 0x0201 = some ⟨0x0201, [], false, false⟩ := by decide
theorem cmdInfo_laneSplit : cmdInfo 0x0707 = some ⟨0x0707, [.lab], false, false⟩ := by decide
theorem cmdInfo_forceList : cmdInfo 0x0801 = some ⟨0x0801, [], true, false⟩ := by decide

section
variable {m : Mod} {tr : Nat}

/-- Group 0x01 is taken in ROM service too, but not from the partner (R405). -/
theorem Mod.lifeAway_idRead (h : tr ≠ 3 ∨ m.jade.mode = .running) : m.lifeAway ⟨0x0101, [], false, false⟩ tr = 0 := by
  refine (if_neg ?_).trans (if_neg (by simp [retiredTakes, mbGroup]))
  rintro ⟨hrom, h3⟩
  have h3 : tr = 3 := h3.resolve_left (by decide)
  simp [h3, hrom] at h

theorem Mod.turnAway_lcRead_rom (h : m.jade.mode = .romService) : m.turnAway ⟨0x0201, [], false, false⟩ tr = mbROMSERVICE :=
  Mod.turnAway_of_lifeAway (if_pos ⟨h, Or.inl (by decide)⟩) (by decide)

theorem Mod.turnAway_lcRead_partner (h : m.jade.mode = .running) : m.turnAway ⟨0x0201, [], false, false⟩ 3 = mbTRANSPORT :=
  (if_neg (not_not_intro (Mod.lifeAway_running h rfl (Or.inr (by decide))))).trans (if_pos (by decide))

theorem Mod.turnAway_laneSplit (h : m.jade.mode = .running) (hl : m.jade.lc ≠ .lab) :
    m.turnAway ⟨0x0707, [.lab], false, false⟩ tr = mbSTATE := by
  refine Mod.turnAway_of_lifeAway ((if_neg (by simp [h])).trans (if_pos (Or.inl ⟨by simp, ?_⟩))) (by decide)
  simpa using hl

theorem Mod.turnAway_forceList (h : m.jade.mode = .running) (htr : tr ≠ 3) (hl : m.jade.lc ≠ .retired) (hs : m.inService = false) :
    m.turnAway ⟨0x0801, [], true, false⟩ tr = mbSERVICE :=
  (if_neg (not_not_intro (Mod.lifeAway_running h rfl (Or.inl hl)))).trans
    ((if_neg fun h3 => htr h3.1).trans (if_pos (Or.inl ⟨rfl, Or.inl hs⟩)))
end

/-! ### The times that Jade keeps (R403, R408, R410, R424, R431) -/

section
variable {m : Mod} {tr : Nat} {k : MbJob} (hj : (m.jade.conn tr).jobs = [k]) (hf : k.forwarded = true) (hs : k.started = true)
include hj hf hs

theorem Mod.forwarded_found :
    ((m.jade.conn tr).jobs.find? fun j => j.forwarded && j.started && j.req.tag == k.req.tag) = some k := by
  simp [hj, hf, hs]

theorem Mod.forwardTimeout_early (ht : m.clock < k.since + 2000000000) : m.forwardTimeout tr k.req.tag = m := by
  unfold Mod.forwardTimeout
  simp only [Mod.forwarded_found hj hf hs]
  exact if_pos ht

/-- A forwarded request that waits for 2 s is answered PARTNER. -/
theorem Mod.forwardTimeout_late (hk : k.req.tr = tr) (hl : k.lost = false) (ht : k.since + 2000000000 ≤ m.clock) :
    (m.forwardTimeout tr k.req.tag).jade.conn tr =
      { m.jade.conn tr with ready := (m.jade.conn tr).ready ++ [⟨k.cmd, k.req.tag, 0x14, 0, 0, []⟩], jobs := [] } := by
  let m1 := (m.modConn tr fun c => { c with jobs := c.jobs.filter fun q => q.req.tag != k.req.tag }).modConn tr
    fun c => { c with ready := c.ready ++ [⟨k.cmd, k.req.tag, 0x14, 0, 0, []⟩] }
  have hconn : m1.jade.conn tr =
      { m.jade.conn tr with ready := (m.jade.conn tr).ready ++ [⟨k.cmd, k.req.tag, 0x14, 0, 0, []⟩], jobs := [] } := by
    simp only [m1, Mod.conn_modConn_self, hj]
    simp
  have heq : m.forwardTimeout tr k.req.tag = m1.pump tr := by
    unfold Mod.forwardTimeout
    simp only [Mod.forwarded_found hj hf hs]
    refine (if_neg (Nat.not_lt.mpr ht)).trans ?_
    simp only [Mod.respond, hl, Bool.false_eq_true, if_false, hk]
    rfl
  rw [heq, Mod.pump_of_no_jobs m1 tr (by rw [hconn]), hconn]
end

section
variable {m : Mod}

theorem Mod.lockIdle_ends {e : Session} (h : m.jade.session = some e) (ht : e.lastAt + 600000000000 ≤ m.clock) :
    m.lockIdle = { m with jade := { m.jade with session := none } } := by
  simp only [Mod.lockIdle, h]
  exact if_pos ht

theorem Mod.lockIdle_stays {e : Session} (h : m.jade.session = some e) (ht : m.clock < e.lastAt + 600000000000) : m.lockIdle = m := by
  simp only [Mod.lockIdle, h]
  exact if_neg (Nat.not_le.mpr ht)

theorem Mod.reportExpire_old {tr : Nat} {r : Report} (h : m.jade.reports.find tr = some r) (ht : r.at' + 600000000000 ≤ m.clock) :
    m.reportExpire tr = { m with jade := { m.jade with reports := m.jade.reports.del tr } } := by
  simp only [Mod.reportExpire, h]
  exact if_pos ht

theorem Mod.restartExpire_due {r : RestartReq} {u : Nat} (h : m.jade.restart = some r) (hu : r.sentAt = some u) (ht : u + 100000000 ≤ m.clock) :
    m.restartExpire = ({ m with restart := { m.restart with cold := r.kind == 2 } } : Mod).restarted := by
  simp only [Mod.restartExpire, h, hu]
  exact if_pos ht

theorem Mod.restartExpire_early {r : RestartReq} {u : Nat} (h : m.jade.restart = some r) (hu : r.sentAt = some u) (ht : m.clock < u + 100000000) :
    m.restartExpire = m := by
  simp only [Mod.restartExpire, h, hu]
  exact if_neg (Nat.not_le.mpr ht)

/-- The cold option of a restart outlives it (R410). -/
theorem Mod.restarted_cold (m : Mod) : m.restarted.restart.cold = m.restart.cold := by
  have hlc (m : Mod) : m.restartLc.restart = m.restart := by
    unfold Mod.restartLc Mod.erase
    split
    · rfl
    · split <;> rfl
  have hkept (es : List Evt) : ((m.puts es).setService .starting).restartLc.restart = m.restart := by
    rw [hlc, Mod.setService_only, Mod.puts_amber_only]
  exact (congrArg RestartSt.cold (hkept _) :)

theorem Mod.lockoutEnd_due (h : m.confirm.lockUntil ≠ 0) (ht : m.confirm.lockUntil ≤ m.clock) :
    m.lockoutEnd = { m with confirm := ⟨0, 0⟩ } := if_pos ⟨h, ht⟩

theorem Mod.lockoutEnd_early (ht : m.clock < m.confirm.lockUntil) : m.lockoutEnd = m := if_neg fun h => Nat.not_le.mpr ht h.2
end

/-! ### The commands -/

/-- A command ends in the module that its action makes. -/
theorem State.at_becomes (s : State) (t : Nat) (f : Mod → Mod) {m : Mod} (h : f (s.m.advance t) = m) : s.at t f = .next { s with m := m } := by
  rw [State.at, h]

section
variable (t : Nat) (s : State)
theorem exec_connectionOpen (tr : Nat) : exec (.connectionOpen tr t) s = s.at t fun m => m.connectionOpen tr := rfl
theorem exec_connectionLost (tr : Nat) : exec (.connectionLost tr t) s = s.at t fun m => m.connectionLost tr := rfl
theorem exec_mailboxRequestError (tr : Nat) : exec (.mailboxRequestError tr t) s = s.at t fun m => m.requestError tr := rfl
theorem exec_mailboxResponseSend (tr : Nat) : exec (.mailboxResponseSend tr t) s = s.at t fun m => m.responseSend tr := rfl
theorem exec_unknownCommandCode {code : Nat} (hi : cmdInfo code = none) (req : MbReq) :
    exec (.unknownCommandCode code req t) s = s.at t fun m => m.request code req none := by
  have hall : (fun m : Mod => m.unknownCommand code req) = fun m => m.request code req none := funext fun m => if_neg (by simp [hi])
  exact congrArg (s.at t) hall
theorem exec_partnerForwardTimeout (tr tag : Nat) : exec (.partnerForwardTimeout tr tag t) s = s.at t fun m => m.forwardTimeout tr tag := rfl
theorem exec_updateLockIdle : exec (.updateLockIdle t) s = s.at t Mod.lockIdle := rfl
theorem exec_attestReportExpire (tr : Nat) : exec (.attestReportExpire tr t) s = s.at t fun m => m.reportExpire tr := rfl
theorem exec_restartDelayExpire : exec (.restartDelayExpire t) s = s.at t Mod.restartExpire := rfl
theorem exec_spsLockoutEnd : exec (.spsLockoutEnd t) s = s.at t Mod.lockoutEnd := rfl
end

/-- Settles O50: each command of a transport, each way to turn a request away and each time that Jade keeps has its branches, and each
clause names the one that its premises choose. -/
theorem requestsAreTakenOrTurnedAway : Obligations.RequestsAreTakenOrTurnedAway := by
  unfold Obligations.RequestsAreTakenOrTurnedAway
  intro s code tr t req m0 j c turned
  refine ⟨fun htr hmode hc hsect hslot => ?_, fun hslot => ?_, fun htr hc hr => ?_, fun htr ho hr => ?_,
    fun r rest ho hj hr => ⟨fun hroom hrestart => ?_, fun hfull => ?_⟩, fun ho hj hi => ⟨fun htags => ?_, fun r hr htag => ?_⟩,
    fun ho hj htags hp => ⟨fun htr hmode => ?_, fun htr hlink => ?_, fun a htr hlink ha => ?_, fun htr hlink ha => ?_⟩,
    fun ho hj htags hp => ⟨fun hmode => ?_, fun hmode hlc => ?_, fun hmode htr => ?_, fun hmode htr hlc hs => ?_⟩,
    fun k hj hf hs hk hl htr => ⟨fun ht => ?_, fun ht => ?_⟩, fun e he => ⟨fun ht => ?_, fun ht => ?_⟩, fun r hr ht => ?_, rfl,
    fun r u hr hu => ⟨fun ht => ?_, fun ht => ?_⟩, fun hlock => ⟨fun ht => ?_, fun ht => ?_⟩⟩
  · refine Completes.of_at (exec_connectionOpen t s tr) ?_
    rw [Mod.connectionOpen_opens (m := m0) htr hmode hc hsect hslot, Mod.conn_modConn_self]
    exact ⟨rfl, rfl, rfl, rfl⟩
  · exact (exec_connectionOpen t s 2).trans (State.at_unchanged s t _ (Mod.connectionOpen_slotBad hslot))
  · refine Completes.of_at (exec_connectionLost t s tr) ?_
    rw [Mod.connectionLost_closes (m := m0) htr hr hc, Mod.conn_modConn_self]
    refine ⟨rfl, rfl, List.length_map _, ?_⟩
    simp
  · refine Completes.of_at (exec_mailboxRequestError t s tr) ?_
    rw [Mod.requestError_closes (m := m0) htr hr ho]
    simp only [Mod.conn_modConn_self]
    exact ⟨trivial, rfl⟩
  · refine Completes.of_at (exec_mailboxResponseSend t s tr) ?_
    rw [Mod.responseSend_room (m := m0) hj hr ho hroom hrestart, Mod.conn_modConn_self]
    exact ⟨rfl, rfl, rfl⟩
  · refine Completes.of_at (exec_mailboxResponseSend t s tr) ?_
    rw [Mod.responseSend_full (m := m0) hj hr hfull]
    exact ⟨rfl, hr⟩
  · have hx := exec_unknownCommandCode t s hi req
    refine ⟨Completes.answers hx ⟨ho, hj, htags⟩ fun c1 c2 c3 => Mod.startCmd_unknown hi, fun u hu => ?_⟩
    cases hx.symm.trans hu
    exact (congrArg Mod.lanes (m0.request_of_accepts code req none ⟨ho, hj, htags⟩)).trans
      ((Mod.settle_lanes ..).trans (by rw [Mod.startCmd_unknown hi]; rfl))
  · have hx := exec_unknownCommandCode t s hi req
    have hbusy := m0.request_tagBusy code req none ho hj hr htag
    refine ⟨Completes.of_at hx ?_, fun u hu => ?_⟩
    · rw [hbusy]
      exact m0.settle_answers code req rfl ..
    · cases hx.symm.trans hu
      exact (congrArg Mod.lanes hbusy).trans (Mod.settle_lanes ..)
  · exact Completes.answers (t := t) rfl ⟨ho, hj, htags⟩ fun c1 c2 c3 =>
      Mod.startCmd_forward_transport cmdInfo_idRead hp (Mod.lifeAway_idRead (Or.inr hmode)) htr
  · exact Completes.answers (t := t) rfl ⟨ho, hj, htags⟩ fun c1 c2 c3 =>
      Mod.startCmd_forward_unlinked cmdInfo_idRead hp (Mod.lifeAway_idRead (Or.inl htr)) rfl htr hlink
  · exact Completes.answers (t := t) rfl ⟨ho, hj, htags⟩ fun c1 c2 c3 =>
      Mod.startCmd_forward_answered (m := m0.withConns c1 c2 c3) cmdInfo_idRead hp (Mod.lifeAway_idRead (Or.inl htr)) rfl htr hlink ha
  · exact Completes.runsOn (t := t) rfl ⟨ho, hj, htags⟩ fun c1 c2 c3 =>
      Mod.startCmd_forward_waits cmdInfo_idRead hp (Mod.lifeAway_idRead (Or.inl htr)) rfl htr hlink ha
  · exact Completes.answers (t := t) rfl ⟨ho, hj, htags⟩ fun c1 c2 c3 =>
      Mod.startCmd_turned cmdInfo_lcRead hp (Mod.turnAway_lcRead_rom hmode) (by decide)
  · exact Completes.answers (t := t) rfl ⟨ho, hj, htags⟩ fun c1 c2 c3 =>
      Mod.startCmd_turned cmdInfo_laneSplit hp (Mod.turnAway_laneSplit hmode hlc) (by decide)
  · exact Completes.answers (t := t) rfl ⟨ho, hj, htags⟩ fun c1 c2 c3 =>
      Mod.startCmd_turned cmdInfo_lcRead hp (by rw [htr]; exact Mod.turnAway_lcRead_partner hmode) (by decide)
  · exact Completes.answers (t := t) rfl ⟨ho, hj, htags⟩ fun c1 c2 c3 =>
      Mod.startCmd_turned cmdInfo_forceList hp (Mod.turnAway_forceList hmode htr hlc hs) (by decide)
  · refine Completes.of_at (exec_partnerForwardTimeout t s tr k.req.tag) ?_
    rw [Mod.forwardTimeout_late (m := m0) hj hf hs hk hl ht]
    exact ⟨rfl, rfl⟩
  · exact (exec_partnerForwardTimeout t s tr k.req.tag).trans (State.at_unchanged s t _ (Mod.forwardTimeout_early (m := m0) hj hf hs ht))
  · exact (exec_updateLockIdle t s).trans (State.at_becomes s t _ (Mod.lockIdle_ends (m := m0) he ht))
  · exact (exec_updateLockIdle t s).trans (State.at_unchanged s t _ (Mod.lockIdle_stays (m := m0) he ht))
  · exact (exec_attestReportExpire t s tr).trans (State.at_becomes s t _ (Mod.reportExpire_old (m := m0) hr ht))
  · refine Completes.of_at (exec_restartDelayExpire t s) ?_
    rw [Mod.restartExpire_due (m := m0) hr hu ht]
    let m1 : Mod := { m0 with restart := { m0.restart with cold := r.kind == 2 } }
    obtain ⟨hservice, hrole, hprocs, hjade, hsid, hboot, hlanes⟩ := m1.restarted_spec
    refine ⟨hservice, hrole, hprocs, hjade, rfl, rfl, m1.restarted_cold, hsid, hboot, ?_⟩
    refine List.filter_eq_nil_iff.mpr fun x _ => ?_
    obtain ⟨-, -, hvoting⟩ := hlanes x
    exact ne_true_of_eq_false hvoting
  · exact (exec_restartDelayExpire t s).trans (State.at_unchanged s t _ (Mod.restartExpire_early (m := m0) hr hu ht))
  · exact (exec_spsLockoutEnd t s).trans (State.at_becomes s t _ (Mod.lockoutEnd_due (m := m0) hlock ht))
  · exact (exec_spsLockoutEnd t s).trans (State.at_unchanged s t _ (Mod.lockoutEnd_early (m := m0) ht))

end Sys2Proof.Machine
end

