-- ==== Sys2Proof/Proofs/MailboxActs.lean ====
section
/-!
The settled statement on the commands that act. Its clause on LC_SET has an open update session answer BUSY_UPDATE in every life-cycle
state; in RETIRED, where Jade takes the session commands as well, LC_SET to any state but MANUFACTURE is answered STATE before the session is looked
at (14_jade_mailboxes.md R406).
-/
namespace Sys2Proof.Machine

/-- LC_SET out of RETIRED to another state than MANUFACTURE is refused before anything else is looked at. -/
theorem Mod.cmdLcSet_retired (m : Mod) (req : MbReq) (hlc : m.jade.lc = .retired)
    (htarget : Bytes.le req.payload 0 1 ≠ LcState.manufacture.code) : m.cmdLcSet req = (m, ansBad mbSTATE) :=
  if_pos ⟨hlc, htarget⟩

/-- Such an LC_SET completes with the answer STATE (R406). -/
theorem lcSet_retired_answers_state {s : State} {req : MbReq} (t : Nat) (hx : s.m.Takes 0x0202 req) (hlc : s.m.jade.lc = .retired)
    (htarget : Bytes.le req.payload 0 1 ≠ LcState.manufacture.code) :
    Completes (.lcSet req t) s ((s.m.advance t).Answers 0x0202 req mbSTATE 0 0 []) := by
  have hexec : exec (.lcSet req t) s = s.at t fun m => m.request 0x0202 req none := rfl
  exact Completes.reads hexec hx fun c1 c2 c3 => Mod.cmdLcSet_retired ((s.m.advance t).withConns c1 c2 c3) req hlc htarget

/-- The copy in force is in the state that both copies hold, or RETIRED. -/
theorem Jade.lc_of_retired (j : Jade) (h0 : j.lc0.state = .retired) (h1 : j.lc1.state = .retired) : j.lc = .retired := by
  unfold Jade.lc Jade.lcCopy
  split_ifs
  · exact h0
  · exact h1
  · rfl

/-- Two answers to one request in one module have one status. -/
theorem Mod.Answers.status_unique {m m' : Mod} {code : Nat} {req : MbReq} {status status' detail detail' holder holder' : Nat} {b b' : Bytes}
    (h : m.Answers code req status detail holder b m') (h' : m.Answers code req status' detail' holder' b' m') : status = status' := by
  obtain ⟨hready, -⟩ := h
  obtain ⟨hready', -⟩ := h'
  have hresp := List.append_cancel_left (hready.symm.trans hready')
  simp only [List.cons.injEq, MbResp.mk.injEq] at hresp
  obtain ⟨⟨-, -, hstatus, -⟩, -⟩ := hresp
  exact hstatus

/-- A command completes in one way. -/
theorem Completes.both {c : Instr} {s : State} {P Q : Mod → Prop} (hp : Completes c s P) (hq : Completes c s Q) : ∃ m, P m ∧ Q m := by
  obtain ⟨u, hu, -, hpu⟩ := hp
  obtain ⟨v, hv, -, hqv⟩ := hq
  obtain rfl : u = v := Host.Outcome.next.inj (hu.symm.trans hv)
  exact ⟨u.m, hpu, hqv⟩

/-! ### The counterexample -/

/-- A retired module in which the client of transport 1 holds an update session. -/
def retiredInSession : State :=
  ⟨[], { Mod.reset with jade := { Jade.reset with
    mode := .running, conn1 := { MbConn.reset with isOpen := true }, session := some ⟨1, 1, false, 0, []⟩
    lc0 := .of .retired 1, lc1 := .of .retired 1 } }⟩

/-- An LC_SET of 52 zero bytes, which name no state. -/
def lcSetOfZeros : MbReq :=
  { tr := 1, tag := 0, fence := false, partner := false, rsv := false, peer := none, rspcons := 0, session := 0, payload := List.replicate 52 0 }

theorem retiredInSession_lc : retiredInSession.m.jade.lc = .retired := Jade.lc_of_retired _ rfl rfl

theorem retiredInSession_takes : retiredInSession.m.Takes 0x0202 lcSetOfZeros := by
  have hinfo : cmdInfo 0x0202 = some ⟨0x0202, [], false, false⟩ := by decide
  have hlife : retiredInSession.m.lifeAway ⟨0x0202, [], false, false⟩ 1 = 0 := Mod.lifeAway_running rfl rfl (Or.inr (by decide))
  have haway : retiredInSession.m.turnAway ⟨0x0202, [], false, false⟩ 1 = 0 := by
    simp [Mod.turnAway, hlife]
  refine ⟨rfl, rfl, ?_, rfl, rfl, .inl rfl, ?_⟩
  · intro r hr
    cases hr
  · rw [hinfo, Option.any_some, beq_iff_eq]
    exact haway

/-- Refutes O52: in RETIRED, with an update session open, LC_SET to another state than MANUFACTURE is answered STATE (0x04), where the
statement has BUSY_UPDATE (0x08). -/
theorem not_actingCommandsChangeWhatTheyName : ¬ Obligations.ActingCommandsChangeWhatTheyName := by
  unfold Obligations.ActingCommandsChangeWhatTheyName
  intro h
  obtain ⟨-, hlcSet, -⟩ := h retiredInSession lcSetOfZeros 0
  obtain ⟨hsession, -⟩ := hlcSet retiredInSession_takes rfl
  have hanswer := lcSet_retired_answers_state 0 retiredInSession_takes retiredInSession_lc (by decide)
  obtain ⟨m, hstate, hbusy⟩ := hanswer.both (hsession _ rfl)
  exact absurd (hstate.status_unique hbusy) (by decide)

end Sys2Proof.Machine
end

