-- ==== Sys2Proof/Proofs/BerylRings.lean ====
section
/-!
SUPPORT and the settled statements on Beryl's registers and rings: a command of Beryl that leaves its fault bit as it stands is its action on
the lane, and so are the register writes, DESCRIPTOR_ACCEPT and RESPONSE_WRITE (03_route_admission.md R62 to R67, R86).
-/
namespace Sys2Proof.Machine

/-- A command of a powered lane's Beryl that leaves the fault bit alone changes that lane by its action and nothing else. -/
theorem exec_beryl_keep {c : Instr} {s : State} {t : Nat} {x : Lane} {f : LaneSt → LaneSt}
    (hc : exec c s = s.at t fun m => m.berylDo x f) (hp : (s.m.lane x).powered = true)
    (hf : (f (s.m.lane x)).beryl.regs.faulted = (s.m.lane x).beryl.regs.faulted) :
    exec c s = .next { s with m := (s.m.advance t).setLane x (f (s.m.lane x)) } := by
  rw [hc, State.at, Mod.berylDo_keep (s.m.advance t) x f hp hf]
  rfl

/-- The same as a completion: what holds of the lane after the action holds of it after the command. -/
theorem Completes.of_beryl_keep {c : Instr} {s : State} {t : Nat} {x : Lane} {f : LaneSt → LaneSt} {P : Mod → Prop}
    (hc : exec c s = s.at t fun m => m.berylDo x f) (hp : (s.m.lane x).powered = true)
    (hf : (f (s.m.lane x)).beryl.regs.faulted = (s.m.lane x).beryl.regs.faulted)
    (h : P ((s.m.advance t).setLane x (f (s.m.lane x)))) : Completes c s P :=
  ⟨_, exec_beryl_keep hc hp hf, rfl, h⟩

/-! ### The request ring (R63) -/

/-- DESCRIPTOR_ACCEPT takes the descriptor at the ring's read index where nothing bars it. -/
theorem Beryl.acceptNext_takes {b : Beryl} {tcm : Mem} {n : Nat} (hf : b.regs.faulted = false) (hh : b.regs.hold = false)
    (hs : ringSize b.regs.reqRing 8 = some n) (hne : idx10 b.regs.reqProd ≠ idx10 b.regs.reqCons) (hi : b.inflight < 256)
    (hr : b.rspFree = true) (ha : ringBase b.regs.reqRing + 32 * (idx10 b.regs.reqCons % n) + 32 ≤ 0x800000) :
    b.acceptNext tcm =
      ((Beryl.accept { b with regs := { b.regs with reqCons := BitVec.ofNat 32 ((idx10 b.regs.reqCons + 1) % 1024) } }
        (descAt tcm (ringBase b.regs.reqRing + 32 * (idx10 b.regs.reqCons % n)))).flushPre) := by
  unfold Beryl.acceptNext
  simp only [hs]
  exact (if_neg (by simp [hf, hh, hne, hr, hi])).trans (if_neg (Nat.not_lt.mpr ha))

/-- The descriptor a pipeline ends with after an acceptance is answered with it where it stands alone and failed. -/
theorem Beryl.flushPre_single {b : Beryl} {d : Desc} {st : Nat} (h : b.accepted = [⟨d, some st⟩]) :
    b.flushPre = (Beryl.answer { b with accepted := [] } (mkRsp d (.plain st none16) false) true
      (st != stNOTREADY && st != stTAGDUP)).countAnswer st := by
  simp [Beryl.flushPre, h]

/-- A descriptor accepted behind others to be decided waits its turn, and so does one that is itself to be decided. -/
theorem Beryl.flushPre_waits {b : Beryl} {as : List Accepted} {a : Accepted} (h : b.accepted = as ++ [a]) (hne : as ≠ [] ∨ a.pre = none)
    (hhead : ∀ q ∈ as.head?, q.pre = none) : b.flushPre = b := by
  refine b.flushPre_pass fun q hq => ?_
  rw [h] at hq
  cases as with
  | nil => cases hq; exact hne.resolve_left (not_not_intro rfl)
  | cons a' as => exact hhead q hq

/-! ### The response ring (R64) -/

/-- RESPONSE_WRITE writes the oldest response where the ring has room. -/
theorem Beryl.writeResponse_writes {b : Beryl} {tcm : Mem} {n : Nat} {a : Answer} {rest : List Answer} (hf : b.regs.faulted = false)
    (ha : b.answers = a :: rest) (hs : ringSize b.regs.rspRing 9 = some n) (hr : b.rspFree = true)
    (haddr : ringBase b.regs.rspRing + 16 * (idx10 b.regs.rspProd % n) + 16 ≤ 0x800000) :
    b.writeResponse tcm =
      ({ b with answers := rest
                tags := if a.holds then b.tags.erase a.rsp.tag else b.tags
                regs := { b.regs with rspProd := BitVec.ofNat 32 ((idx10 b.regs.rspProd + 1) % 1024)
                                      irq := b.regs.irq ||| irqRSP } },
       tcm.wr (ringBase b.regs.rspRing + 16 * (idx10 b.regs.rspProd % n)) 16 a.rsp.word) := by
  unfold Beryl.writeResponse
  simp only [ha, hs]
  exact (if_neg (by simp [hf, hr])).trans (if_neg (Nat.not_lt.mpr haddr))

/-! ### The commands -/

section
variable (x : Lane) (t : Nat) (s : State)
theorem exec_brlReqProdWrite (v : Nat) : exec (.brlReqProdWrite x v t) s = s.at t fun m => m.berylDo x fun l => l.reqProd v := rfl
theorem exec_brlRspConsWrite (v : Nat) : exec (.brlRspConsWrite x v t) s = s.at t fun m => m.berylDo x fun l => l.rspCons v := rfl
theorem exec_brlCtrlWrite (v : Word32) : exec (.brlCtrlWrite x v t) s = s.at t fun m => m.berylDo x fun l => l.brlCtrl v := rfl
theorem exec_brlErrcapRead : exec (.brlErrcapRead x t) s = s.at t fun m => m.berylDo x LaneSt.readBrlErr := rfl
theorem exec_descriptorAccept : exec (.descriptorAccept x t) s = s.at t fun m => m.berylDo x LaneSt.acceptNext := rfl
theorem exec_responseWrite : exec (.responseWrite x t) s = s.at t fun m => m.berylDo x LaneSt.writeResponse := rfl
end

/-- Settles O1: each of the four is an action on the lane that leaves the fault bit alone. -/
theorem berylRegisterCommandsChangeOneRegister : Obligations.BerylRegisterCommandsChangeOneRegister := by
  unfold Obligations.BerylRegisterCommandsChangeOneRegister
  intro s x t hp l regs next
  exact ⟨fun v => exec_beryl_keep (exec_brlReqProdWrite x t s v) hp rfl, fun v => exec_beryl_keep (exec_brlRspConsWrite x t s v) hp rfl,
    fun v => exec_beryl_keep (exec_brlCtrlWrite x t s v) hp rfl, exec_beryl_keep (exec_brlErrcapRead x t s) hp rfl⟩

/-- Settles O2: the first check that fails decides what is held, and a failed descriptor is answered with the acceptance if the pipeline was
empty, else left to its turn (assumption log 24). -/
theorem descriptorIsJudgedInTheOrderOfTheRule : Obligations.DescriptorIsJudgedInTheOrderOfTheRule := by
  unfold Obligations.DescriptorIsJudgedInTheOrderOfTheRule
  intro s x t n l b d first hp hf hh hs hne hi hr ha hhead
  let b1 : Beryl := { b with regs := { b.regs with reqCons := BitVec.ofNat 32 ((idx10 b.regs.reqCons + 1) % 1024) } }
  have hnext : b.acceptNext l.tcm = (b1.accept d).flushPre := Beryl.acceptNext_takes hf hh hs hne hi hr ha
  have hpre : b1.preStatus d = first := by
    have hsame : b1.preStatus d = b.preStatus d := rfl
    rw [hsame]
    simp only [Beryl.preStatus, first, stNOTREADY, stTAGDUP, stORDER, stBADOP, List.contains_iff_mem, Bool.or_eq_true, Bool.not_eq_true']
  have hacc := b1.accept_of d first hpre
  have hlane : l.acceptNext.beryl = (b1.accept d).flushPre := hnext
  refine Completes.of_beryl_keep (exec_descriptorAccept x t s) hp ?_ ?_
  · exact (congrArg (fun b : Beryl => b.regs.faulted) hlane).trans (Beryl.flushPre_faulted _)
  · rw [Mod.lane_setLane_self]
    intro b'
    have hb' : b' = (b1.accept d).flushPre := hlane
    clear_value b'
    subst hb'
    have hwait (h : b.accepted ≠ [] ∨ first = none) : (b1.accept d).flushPre = b1.accept d :=
      Beryl.flushPre_waits (as := b.accepted) (congrArg Beryl.accepted hacc) h hhead
    refine ⟨Beryl.flushPre_reqCons _, Beryl.flushPre_el _, Beryl.flushPre_rt _, Beryl.flushPre_ws _, fun hnone => ?_, fun st hst => ?_⟩
    · rw [hwait (Or.inr hnone), hacc, hnone]
      simp [b1]
    · have hcases := b1.preStatus_cases d st (hpre.trans hst)
      refine ⟨?_, ?_, fun hne => ?_, fun hnil => ?_⟩
      · rw [Beryl.flushPre_lastKey, hacc, hst]
        rcases hcases with rfl | rfl | rfl | rfl <;> simp [b1]
      · rw [Beryl.flushPre_tags, hacc, hst]
        simp [b1]
      · rw [hwait (Or.inl hne), hacc, hst]
        exact ⟨rfl, rfl⟩
      · have hone : (b1.accept d).accepted = [⟨d, some st⟩] := by
          rw [hacc, hst]
          simp [b1, show b.accepted = [] from hnil]
        rw [Beryl.flushPre_single hone]
        exact ⟨_, rfl, rfl, rfl, rfl, rfl⟩

/-- Settles O3: the 16 bytes of the response are the one write into the lane's memory, and the lane is the one that changes. -/
theorem responseIsWrittenIntoTheRing : Obligations.ResponseIsWrittenIntoTheRing := by
  unfold Obligations.ResponseIsWrittenIntoTheRing
  intro s x t n a rest l b addr hp hf ha hs hr haddr
  have hwrite : b.writeResponse l.tcm = _ := Beryl.writeResponse_writes hf ha hs hr haddr
  refine Completes.of_beryl_keep (exec_responseWrite x t s) hp ?_ ?_
  · exact (congrArg (fun r : Beryl × Mem => r.1.regs.faulted) hwrite :)
  · have hlane : l.writeResponse = { l with beryl := (b.writeResponse l.tcm).1, tcm := (b.writeResponse l.tcm).2 } := rfl
    rw [hwrite] at hlane
    rw [Mod.lane_setLane_self, hlane]
    exact ⟨fun i hi => Mem.getB_wr_in l.tcm addr 16 _ i hi, fun k hk => Mem.getB_wr_out l.tcm addr 16 _ k hk, rfl, rfl, rfl, rfl, rfl, rfl, rfl,
      fun y hy => Mod.lane_setLane_ne _ x y _ hy⟩

end Sys2Proof.Machine
end

