-- ==== Sys2Proof/Proofs/BerylAdmission.lean ====
section
/-!
SUPPORT and the settled statement on the admission conditions: a condition that finds nothing has nothing in any of its intersections
(03_route_admission.md R69).
-/
namespace Sys2Proof.Machine

theorem foldl_or_eq_zero {n : Nat} {α : Type} (g : α → BitVec n) (l : List α) (a : BitVec n) :
    l.foldl (fun acc p => acc ||| g p) a = 0#n ↔ a = 0#n ∧ ∀ p ∈ l, g p = 0#n := by
  induction l generalizing a with
  | nil => simp
  | cons p l ih =>
    rw [List.foldl_cons, ih, List.forall_mem_cons, BitVec.or_eq_zero_iff]
    exact and_assoc

theorem lowestBit_eq_none {n : Nat} : lowestBit n = none ↔ n = 0 := by
  unfold lowestBit
  split <;> simp_all

/-- A condition holds of no route where every intersection of its terms is empty. -/
theorem judge_eq_none {n st : Nat} {ts : List (Term n)} (h : judge st ts = none) : ∀ t ∈ ts, t.hit = 0 := by
  unfold judge at h
  split at h
  case h_1 hlow =>
    have hzero := BitVec.eq_of_toNat_eq (y := (0 : BitVec n)) (by simpa using lowestBit_eq_none.mp hlow)
    exact ((foldl_or_eq_zero (fun t : Term n => t.hit) ts 0).mp hzero).2
  case h_2 => split at h <;> cases h

/-- A condition that holds answers its own status. -/
theorem judge_status {n st : Nat} {ts : List (Term n)} {x : Verdict} (h : judge st ts = some x) : x.status = st := by
  unfold judge at h
  split at h
  · cases h
  · split at h <;> (cases h; rfl)

/-- No condition answers OK. -/
theorem conditions_status_ne_ok (d : Stn) (v : View) (cls r : Nat) (pa : RRow) :
    ∀ c ∈ conditions d v cls r pa, ∀ x ∈ c, x.status ≠ stOK := by
  have hguard (p : Prop) [Decidable p] (y : Verdict) (hy : y.status ≠ stOK) : ∀ x ∈ (if p then some y else none), x.status ≠ stOK := by
    intro x hx
    split at hx
    · cases hx; exact hy
    · cases hx
  have hjudge (n st : Nat) (ts : List (Term n)) (hst : st ≠ stOK) : ∀ x ∈ judge st ts, x.status ≠ stOK :=
    fun x hx => by rwa [judge_status hx]
  simp only [conditions, List.forall_mem_cons, List.not_mem_nil, false_imp_iff, implies_true, and_true]
  exact ⟨hguard _ _ (by decide), hguard _ _ (by decide : stNOROUTE ≠ stOK), hguard _ _ (by decide : stBARRED ≠ stOK),
    hguard _ _ (by decide : stARSREFUSED ≠ stOK), hjudge _ _ _ (by decide), hjudge _ _ _ (by decide),
    hguard _ _ (by decide : stOVERLAP ≠ stOK), hjudge _ _ _ (by decide), hjudge _ _ _ (by decide), hjudge _ _ _ (by decide),
    hjudge _ _ _ (by decide), hjudge _ _ _ (by decide), hjudge _ _ _ (by decide)⟩

/-- A route is found admissible only where no condition holds. -/
theorem conditions_none_of_ok {d : Stn} {v : View} {cls r : Nat} {pa : RRow} (h : (routeVerdict d v cls r pa).status = stOK) :
    ∀ c ∈ conditions d v cls r pa, c = none := by
  unfold routeVerdict at h
  split at h
  case h_1 x hx => exact absurd h (conditions_status_ne_ok d v cls r pa _ (List.mem_of_find?_eq_some hx) x rfl)
  case h_2 hno =>
    intro c hc
    cases hfind : (conditions d v cls r pa).find? Option.isSome with
    | none => simpa using List.find?_eq_none.mp hfind c hc
    | some y =>
      obtain ⟨x, rfl⟩ := Option.isSome_iff_exists.mp (List.find?_some hfind)
      exact absurd hfind (hno x)

/-- Settles O4: none of the thirteen conditions holds of an admissible route, and each clause is the emptiness of one of their terms. -/
theorem admissionExcludesConflicts : Obligations.AdmissionExcludesConflicts := by
  unfold Obligations.AdmissionExcludesConflicts
  intro d v cls r pa hok
  have hnone := conditions_none_of_ok hok
  simp only [conditions, List.forall_mem_cons, List.not_mem_nil, false_imp_iff, implies_true, and_true, ite_eq_right_iff, reduceCtorEq, imp_false] at hnone
  obtain ⟨hrange, hkind, hbar, -, hset, hpend, -, hlck, hflank, -, hfail, hsig, haux⟩ := hnone
  have hlck := judge_eq_none hlck
  have hflank := judge_eq_none hflank
  have hfail := judge_eq_none hfail
  simp only [List.forall_mem_cons, List.not_mem_nil, false_imp_iff, implies_true, and_true, Term.hit, List.foldl_cons, List.foldl_nil,
    BitVec.ofNat_eq_ofNat, BitVec.zero_or] at hlck hflank hfail
  have hone {n st : Nat} {a b : BitVec n} {i j : Nat} (h : judge st [⟨[(i, a)], [(j, b)]⟩] = none) : a &&& b = 0#n := by
    simpa [Term.hit] using judge_eq_none h
  obtain ⟨hpr, hpn, hfn, hfr⟩ := hflank
  obtain ⟨hfailed, hdist⟩ := hfail
  rw [BitVec.and_or_distrib_left, BitVec.or_eq_zero_iff] at hlck
  exact ⟨Nat.not_lt.mp hrange, hkind, eq_false_of_ne_true hbar, hone hset, hone hpend, hlck.1, hpr, hpn, hfn, hfr, hfailed, hdist,
    hone hsig, hone haux⟩

end Sys2Proof.Machine
end

