-- ==== Sys2Proof/Proofs/BerylPlanes.lean ====
section
/-!
SUPPORT. What Beryl's shared operations make of the planes: bit rows, commit, release, and the retries, which touch neither the
registers nor the latched time (03_route_admission.md R70, R74, R79, R81).
-/
namespace Sys2Proof.Machine

/-! ### Bit rows (R42) -/

theorem bitR_getLsbD {r : Nat} (h : r < 4096) (k : Nat) : (bitR r).getLsbD k = decide (k = r) := by
  simp only [bitR, if_pos h, BitVec.getLsbD_ofNat, Nat.one_shiftLeft, Nat.testBit_two_pow]
  by_cases hk : k = r
  · subst hk; simp [h]
  · simp [hk, Ne.symm hk]

theorem getLsbD_and_not_bitR (a : RRow) {r : Nat} (h : r < 4096) : (a &&& ~~~bitR r).getLsbD r = false := by
  simp [BitVec.getLsbD_and, BitVec.getLsbD_not, bitR_getLsbD h]

theorem lt_of_getLsbD {n : Nat} {a : BitVec n} {r : Nat} (h : a.getLsbD r = true) : r < n := by
  by_contra hge
  rw [BitVec.getLsbD_of_ge a r (Nat.not_lt.mp hge)] at h
  cases h

theorem testBit_foldl_setBits (n : Nat) (l : List Nat) (a k : Nat) :
    (l.foldl (fun a k => if k < n then a ||| (1 <<< k) else a) a).testBit k = (a.testBit k || (decide (k < n) && decide (k ∈ l))) := by
  induction l generalizing a with
  | nil => simp
  | cons j l ih =>
    rw [List.foldl_cons, ih]
    by_cases hkj : k = j
    · subst hkj
      by_cases hk : k < n <;> simp [hk, Nat.one_shiftLeft]
    · by_cases hj : j < n <;> simp [hj, hkj, Ne.symm hkj, Nat.one_shiftLeft]

/-- The row of a list of indices has the bits of that list. -/
theorem erowOf_getLsbD (l : List Nat) (k : Nat) : (erowOf l).getLsbD k = (decide (k < 16384) && decide (k ∈ l)) := by
  simp [erowOf, BitVec.getLsbD_ofNat, testBit_foldl_setBits]

/-! ### The lowest set bit -/

theorem log2_two_mul_add_one {n : Nat} (h : n ≠ 0) : Nat.log2 (2 * n + 1) = Nat.log2 n + 1 := by
  rw [Nat.log2_def, if_pos (by omega)]
  congr 2
  omega

/-- `n ^^^ (n - 1)` is all ones up to the lowest set bit of `n`. -/
theorem log2_xor_pred (n : Nat) (h : n ≠ 0) :
    n.testBit (Nat.log2 (n ^^^ (n - 1))) = true ∧ ∀ j < Nat.log2 (n ^^^ (n - 1)), n.testBit j = false := by
  induction n using Nat.strongRecOn with
  | ind n ih =>
    rcases Nat.even_or_odd' n with ⟨m, rfl | rfl⟩
    · have hm : m ≠ 0 := by omega
      have hxor : 2 * m ^^^ (2 * m - 1) = 2 * (m ^^^ (m - 1)) + 1 := by
        refine Nat.eq_of_testBit_eq fun i => ?_
        cases i with
        | zero => simp [Nat.testBit_zero]; omega
        | succ i =>
          have h1 : (2 * m - 1) / 2 = m - 1 := by omega
          have h2 : (2 * (m ^^^ (m - 1)) + 1) / 2 = m ^^^ (m - 1) := by omega
          rw [Nat.testBit_xor, Nat.testBit_succ, Nat.testBit_succ, Nat.testBit_succ, h1, h2, Nat.mul_div_cancel_left m (by decide),
            Nat.testBit_xor]
      have hne : m ^^^ (m - 1) ≠ 0 := by
        rw [Ne, Nat.xor_eq_zero_iff]
        omega
      obtain ⟨hset, hbelow⟩ := ih m (by omega) hm
      rw [hxor, log2_two_mul_add_one hne]
      have hsucc (i : Nat) : (2 * m).testBit (i + 1) = m.testBit i := by
        rw [Nat.testBit_succ, Nat.mul_div_cancel_left m (by decide)]
      refine ⟨(hsucc _).trans hset, fun j hj => ?_⟩
      cases j with
      | zero => simp
      | succ j => exact (hsucc j).trans (hbelow j (by omega))
    · have hone : (2 * m + 1) ^^^ (2 * m + 1 - 1) = 1 := by
        refine Nat.eq_of_testBit_eq fun i => ?_
        cases i with
        | zero => simp [Nat.testBit_zero]
        | succ i =>
          rw [Nat.testBit_xor, Nat.testBit_succ, Nat.testBit_succ, Nat.testBit_succ, Nat.add_sub_cancel,
            show (2 * m + 1) / 2 = 2 * m / 2 by omega]
          simp
      rw [hone, show Nat.log2 1 = 0 by decide]
      exact ⟨by simp, fun j hj => absurd hj (Nat.not_lt_zero j)⟩

theorem lowestBit_spec {n k : Nat} (h : lowestBit n = some k) : n.testBit k = true ∧ ∀ j < k, n.testBit j = false := by
  unfold lowestBit at h
  split at h
  · cases h
  · cases h
    exact log2_xor_pred n ‹_›

theorem lowestBit_isSome {n k : Nat} (h : n.testBit k = true) : ∃ j, lowestBit n = some j ∧ j ≤ k := by
  have hn : n ≠ 0 := by
    rintro rfl
    simp at h
  refine ⟨_, if_neg hn, Nat.le_of_not_lt fun hlt => ?_⟩
  rw [(log2_xor_pred n hn).2 k hlt] at h
  cases h

/-! ### What no commit, release or retry touches -/

/-- The registers and the latched time of a Beryl. -/
def Beryl.standing (b : Beryl) : BerylRegs × Nat := (b.regs, b.latched)

@[simp] theorem Beryl.dropOverlap_standing (b : Beryl) (d : Stn) (o q : Nat) : (b.dropOverlap d o q).standing = b.standing := rfl
@[simp] theorem Beryl.dropRoute_standing (b : Beryl) (d : Stn) (r : Nat) : (b.dropRoute d r).standing = b.standing := rfl
@[simp] theorem Beryl.unlock_standing (b : Beryl) (m : ERow) : (b.unlock m).standing = b.standing := rfl
@[simp] theorem Beryl.unsol_standing (b : Beryl) (x : Desc) (v : Verdict) : (b.unsol x v).standing = b.standing := rfl
@[simp] theorem Beryl.tell_standing (b : Beryl) (x : Desc) (v : Verdict) : (b.tell x v).standing = b.standing := rfl
@[simp] theorem Beryl.removePend_standing (b : Beryl) (e : PendEntry) : (b.removePend e).standing = b.standing := rfl
@[simp] theorem Beryl.tickOrd_standing (b : Beryl) : b.tickOrd.standing = b.standing := rfl

/-! ### The commit of an admitted route, in its stages (R70) -/

/-- The path locked and its flank demands counted; what it takes over is no longer an overlap element. -/
def Beryl.commitPath (b : Beryl) (d : Stn) (r : Nat) : Beryl :=
  Beryl.rewriteFlank
    { b with
      el := { b.el with
        locked := b.el.locked ||| (d.rel r 5 &&& ~~~d.oRow (d.rOvl r))
        dirUp := if d.rDir r then b.el.dirUp ||| (d.rel r 0 &&& ~~~d.oRow (d.rOvl r)) else b.el.dirUp
        dirDn := if d.rDir r then b.el.dirDn else b.el.dirDn ||| (d.rel r 0 &&& ~~~d.oRow (d.rOvl r))
        ovlk := b.el.ovlk &&& ~~~takeOf d b.view r }
      ws := { (b.ws.flankUp (d.rel r 3) (d.rel r 4)) with lkn := b.ws.lkn ||| d.rel r 1, lkr := b.ws.lkr ||| d.rel r 2 } }

/-- Then the overlap taken over is released. -/
def Beryl.commitTake (b : Beryl) (d : Stn) (r : Nat) : Beryl :=
  if takeOf d b.view r = 0 then b.commitPath d r
  else (b.commitPath d r).dropOverlap d (b.ws.sigov (d.rEntry r)) (b.ws.owner (b.ws.sigov (d.rEntry r)))

/-- Then the route's own overlap is set. -/
def Beryl.ownOverlap (b : Beryl) (d : Stn) (r : Nat) : Beryl :=
  if d.rOvl r = none16 then b
  else
    { b with
      el := { b.el with ovlk := b.el.ovlk ||| d.oRow (d.rOvl r) }
      rt := { b.rt with ovlSet := b.rt.ovlSet ||| bitR r }
      ws := { b.ws with sigovl := SMap.set none16 b.ws.sigovl (d.rExit r) (d.rOvl r)
                        ovown := SMap.set none16 b.ws.ovown (d.rOvl r) r } }

/-- Then the route is SET. -/
def Beryl.markSet (b : Beryl) (cls r : Nat) : Beryl :=
  { b with
    rt := { b.rt with set := b.rt.set ||| bitR r, ars := if cls = 6 then b.rt.ars ||| bitR r else b.rt.ars }
    ws := { b.ws with progress := SMap.set 0 b.ws.progress r 0 } }

theorem Beryl.commit_eq (b : Beryl) (d : Stn) (cls r : Nat) : b.commit d cls r = ((b.commitTake d r).ownOverlap d r).markSet cls r := rfl

/-- A stage with two branches is read off branch by branch. -/
theorem Beryl.commitTake_congr {α : Type} (g : Beryl → α) (b : Beryl) (d : Stn) (r : Nat)
    (h : ∀ o q, g ((b.commitPath d r).dropOverlap d o q) = g (b.commitPath d r)) : g (b.commitTake d r) = g (b.commitPath d r) := by
  unfold Beryl.commitTake
  split
  · rfl
  · exact h _ _

theorem Beryl.ownOverlap_congr {α : Type} (g : Beryl → α) (b : Beryl) (d : Stn) (r : Nat)
    (h : ∀ o s w e, g { b with el := { b.el with ovlk := o }, rt := { b.rt with ovlSet := s }, ws := { b.ws with sigovl := w, ovown := e } } = g b) :
    g (b.ownOverlap d r) = g b := by
  unfold Beryl.ownOverlap
  split
  · rfl
  · exact h _ _ _ _

/-- What neither overlap changes is as the path leaves it. -/
theorem Beryl.commit_congr {α : Type} (g : Beryl → α) (b : Beryl) (d : Stn) (cls r : Nat)
    (hset : ∀ c : Beryl, g (c.markSet cls r) = g c)
    (hovl : ∀ (c : Beryl) o s w e, g { c with el := { c.el with ovlk := o }, rt := { c.rt with ovlSet := s }, ws := { c.ws with sigovl := w, ovown := e } } = g c)
    (hdrop : ∀ (c : Beryl) o q, g (c.dropOverlap d o q) = g c) : g (b.commit d cls r) = g (b.commitPath d r) := by
  rw [Beryl.commit_eq, hset, Beryl.ownOverlap_congr g _ d r (hovl _), Beryl.commitTake_congr g b d r (hdrop _)]

@[simp] theorem Beryl.commit_standing (b : Beryl) (d : Stn) (cls r : Nat) : (b.commit d cls r).standing = b.standing :=
  Beryl.commit_congr Beryl.standing b d cls r (fun _ => rfl) (fun _ _ _ _ _ => rfl) (fun _ _ _ => rfl)

/-! ### The retries (R74) -/

theorem Beryl.retryOne_standing {d : Stn} {k : List PendEntry → Beryl → Beryl} (hk : ∀ l b, (k l b).standing = b.standing)
    (b : Beryl) (e : PendEntry) : (Beryl.retryOne d k b e).standing = b.standing := by
  unfold Beryl.retryOne
  split_ifs
  · rfl
  · simp only []
    split_ifs
    · rfl
    · simp [hk]
    · simp [hk]

@[simp] theorem Beryl.retryAll_standing (d : Stn) (n : Nat) (l : List PendEntry) (b : Beryl) :
    (Beryl.retryAll d n l b).standing = b.standing := by
  induction n generalizing l b with
  | zero => rfl
  | succ n ih => exact foldl_keeps Beryl.standing _ l b fun b e => Beryl.retryOne_standing (fun l b => ih l b) b e

@[simp] theorem Beryl.retry_standing (b : Beryl) (d : Stn) (trig : RRow) : (b.retry d trig).standing = b.standing :=
  Beryl.retryAll_standing ..

@[simp] theorem Beryl.leavePend_standing (b : Beryl) (d : Stn) (e : PendEntry) (v : Verdict) : (b.leavePend d e v).standing = b.standing := by
  simp [Beryl.leavePend]

theorem Beryl.faulted_of_standing {b b' : Beryl} (h : b'.standing = b.standing) : b'.regs.faulted = b.regs.faulted :=
  congrArg (fun p : BerylRegs × Nat => p.1.faulted) h

/-! ### The commit of an admitted route (R70) -/

section
variable (b : Beryl) (d : Stn) (cls r : Nat)

/-- Without an overlap to take over, a commit triggers no retries. -/
theorem Beryl.takenFrom_none (h : takeOf d b.view r = 0) : b.takenFrom d r = 0 := if_pos h

@[simp] theorem Beryl.commit_locked : (b.commit d cls r).el.locked = b.el.locked ||| (d.rel r 5 &&& ~~~d.oRow (d.rOvl r)) :=
  Beryl.commit_congr (·.el.locked) b d cls r (fun _ => rfl) (fun _ _ _ _ _ => rfl) (fun _ _ _ => rfl)
@[simp] theorem Beryl.commit_lkn : (b.commit d cls r).ws.lkn = b.ws.lkn ||| d.rel r 1 :=
  Beryl.commit_congr (·.ws.lkn) b d cls r (fun _ => rfl) (fun _ _ _ _ _ => rfl) (fun _ _ _ => rfl)
@[simp] theorem Beryl.commit_lkr : (b.commit d cls r).ws.lkr = b.ws.lkr ||| d.rel r 2 :=
  Beryl.commit_congr (·.ws.lkr) b d cls r (fun _ => rfl) (fun _ _ _ _ _ => rfl) (fun _ _ _ => rfl)
@[simp] theorem Beryl.commit_pend : (b.commit d cls r).ws.pend = b.ws.pend :=
  Beryl.commit_congr (·.ws.pend) b d cls r (fun _ => rfl) (fun _ _ _ _ _ => rfl) (fun _ _ _ => rfl)
@[simp] theorem Beryl.commit_prog : (b.commit d cls r).ws.prog r = 0 := SMap.get_set_self ..
@[simp] theorem Beryl.commit_set : (b.commit d cls r).rt.set = b.rt.set ||| bitR r := by
  have hset : ((b.commitTake d r).ownOverlap d r).rt.set = b.rt.set :=
    (Beryl.ownOverlap_congr (·.rt.set) _ d r fun _ _ _ _ => rfl).trans (Beryl.commitTake_congr (·.rt.set) b d r fun _ _ => rfl)
  exact congrArg (· ||| bitR r) hset

theorem Beryl.commit_ovlk (h : takeOf d b.view r = 0) :
    (b.commit d cls r).el.ovlk = if d.rOvl r = none16 then b.el.ovlk else b.el.ovlk ||| d.oRow (d.rOvl r) := by
  have hpath : (b.commitTake d r).el.ovlk = b.el.ovlk := by
    have hand : b.el.ovlk &&& ~~~(0 : ERow) = b.el.ovlk := by
      rw [BitVec.ofNat_eq_ofNat, BitVec.not_zero, BitVec.and_allOnes]
    rw [Beryl.commitTake, if_pos h]
    exact (congrArg (fun x => b.el.ovlk &&& ~~~x) h).trans hand
  have hstage : (b.commit d cls r).el.ovlk = ((b.commitTake d r).ownOverlap d r).el.ovlk := rfl
  rw [hstage, Beryl.ownOverlap]
  split
  · exact hpath
  · exact congrArg (· ||| d.oRow (d.rOvl r)) hpath

variable {b d r} (ho : d.rOvl r ≠ none16)
include ho

theorem Beryl.commit_owner : (b.commit d cls r).ws.owner (d.rOvl r) = r := by
  rw [Beryl.commit_eq, Beryl.ownOverlap, if_neg ho]
  exact SMap.get_set_self ..

theorem Beryl.commit_sigov : (b.commit d cls r).ws.sigov (d.rExit r) = d.rOvl r := by
  rw [Beryl.commit_eq, Beryl.ownOverlap, if_neg ho]
  exact SMap.get_set_self ..
end

/-! ### Release of a route with its overlap (R77, R81) -/

/-- Route and overlap released, before the retries. -/
def Beryl.dropBoth (b : Beryl) (d : Stn) (r : Nat) : Beryl :=
  if (b.dropRoute d r).rt.ovlSet.getLsbD r then (b.dropRoute d r).dropOverlap d (d.rOvl r) r else b.dropRoute d r

theorem Beryl.releaseBoth_eq (b : Beryl) (d : Stn) (r : Nat) : b.releaseBoth d r = (b.dropBoth d r).retry d (bitR r) := rfl

section
variable (b : Beryl) (d : Stn) (r : Nat)

theorem Beryl.dropBoth_congr {α : Type} (g : Beryl → α) (h : ∀ (c : Beryl) o q, g (c.dropOverlap d o q) = g c) :
    g (b.dropBoth d r) = g (b.dropRoute d r) := by
  unfold Beryl.dropBoth
  split
  · exact h _ _ _
  · rfl

@[simp] theorem Beryl.dropBoth_set : (b.dropBoth d r).rt.set = b.rt.set &&& ~~~bitR r := b.dropBoth_congr d r (·.rt.set) fun _ _ _ => rfl
@[simp] theorem Beryl.dropBoth_trel : (b.dropBoth d r).rt.trel = b.rt.trel &&& ~~~bitR r := b.dropBoth_congr d r (·.rt.trel) fun _ _ _ => rfl
@[simp] theorem Beryl.dropBoth_locked : (b.dropBoth d r).el.locked = b.el.locked &&& ~~~b.held d r :=
  b.dropBoth_congr d r (·.el.locked) fun _ _ _ => rfl
@[simp] theorem Beryl.dropBoth_pend : (b.dropBoth d r).ws.pend = b.ws.pend := b.dropBoth_congr d r (·.ws.pend) fun _ _ _ => rfl
@[simp] theorem Beryl.dropBoth_standing : (b.dropBoth d r).standing = b.standing := b.dropBoth_congr d r Beryl.standing fun _ _ _ => rfl

theorem Beryl.dropBoth_ovlSet {r : Nat} (h : r < 4096) : (b.dropBoth d r).rt.ovlSet.getLsbD r = false := by
  unfold Beryl.dropBoth
  split
  · exact getLsbD_and_not_bitR _ h
  · exact eq_false_of_ne_true ‹_›

@[simp] theorem Beryl.releaseBoth_standing : (b.releaseBoth d r).standing = b.standing := by
  rw [Beryl.releaseBoth_eq, Beryl.retry_standing, Beryl.dropBoth_standing]

/-- With nothing pending a release retries nothing. -/
theorem Beryl.releaseBoth_of_no_pend (h : b.ws.pend = []) : b.releaseBoth d r = b.dropBoth d r := by
  rw [Beryl.releaseBoth_eq, Beryl.retry_none _ _ _ ((b.dropBoth_pend d r).trans h)]
end

end Sys2Proof.Machine
end

