-- ==== Sys2Proof/Proofs/BerylDecisions.lean ====
section
/-!
SUPPORT and the settled statements on the descriptor at the head of Beryl's pipeline: SET and PROBE, TREL, AREL and PLANE_WRITE
(03_route_admission.md R69, R70, R73, R76, R78, R82, R131, R132).
-/
namespace Sys2Proof.Machine

/-- The descriptor `d` of Beryl `b` was decided with the outcome `o` and answered: the planes are the outcome's, and the answer is the first of
those added. -/
def Beryl.Decided (b : Beryl) (d : Desc) (o : Beryl × Verdict) (b' : Beryl) : Prop :=
  b'.el = o.1.el ∧ b'.rt = o.1.rt ∧ b'.ws = o.1.ws ∧
    ∃ a more, b'.answers = b.answers ++ a :: more ∧ a.rsp.status = o.2.status ∧ a.rsp.who = o.2.who ∧ a.rsp.splane = o.2.splane ∧
      a.rsp.rplane = o.2.rplane ∧ a.rsp.tag = d.tag ∧ a.rsp.unsol = false

/-- A command that decides the head of the pipeline completes with its outcome. -/
theorem Completes.of_decision {c : Instr} {s : State} {t : Nat} {x : Lane} {op : Nat} {d : Desc} {rest : List Accepted}
    {o : Beryl × Verdict} {P : Mod → Prop} (hc : exec c s = s.at t fun m => m.berylDo x fun l => l.decideOp op)
    (hp : (s.m.lane x).powered = true) (hf : (s.m.lane x).beryl.regs.faulted = false)
    (ha : (s.m.lane x).beryl.accepted = ⟨d, none⟩ :: rest) (hop : d.op = op)
    (ho : o.1.standing = (s.m.lane x).beryl.standing)
    (h : Beryl.decideOne { (s.m.lane x).beryl with accepted := rest } ((s.m.lane x).beryl.stn (s.m.lane x).dram) (s.m.lane x).tcm d =
      (Beryl.conclude { (s.m.lane x).beryl with accepted := rest } d o, (s.m.lane x).tcm))
    (hP : ∀ m : Mod, (s.m.lane x).beryl.Decided d o (m.lane x).beryl → P m) : Completes c s P :=
  Completes.of_at hc (hP _ (Mod.berylDo_decide (s.m.advance t) x op d rest o hp hf ha hop ((Beryl.faulted_of_standing ho).trans hf) h))

/-! ### Which operation decides (R63) -/

section
variable (b : Beryl) (st : Stn) (tcm : Mem) {d : Desc}
theorem Beryl.decideOne_set (h : d.op = 1) : b.decideOne st tcm d = (b.conclude d (b.opSet st d), tcm) := if_pos h
theorem Beryl.decideOne_probe (h : d.op = 7) : b.decideOne st tcm d = (b.conclude d (b.opProbe st d), tcm) := by
  simp [Beryl.decideOne, h, opSET, opPROBE]
theorem Beryl.decideOne_trel (h : d.op = 3) : b.decideOne st tcm d = (b.conclude d (b.opTrel st d), tcm) := by
  simp [Beryl.decideOne, h, opSET, opPROBE, opCANCEL, opTREL]
theorem Beryl.decideOne_arel (h : d.op = 5) : b.decideOne st tcm d = (b.conclude d (b.opArel d), tcm) := by
  simp [Beryl.decideOne, h, opSET, opPROBE, opCANCEL, opTREL, opDEQUEUE, opAREL]
theorem Beryl.decideOne_planeWrite (h : d.op = 0x10) : b.decideOne st tcm d = (b.conclude d (b.opPlaneWrite st d), tcm) := by
  simp [Beryl.decideOne, h, opSET, opPROBE, opCANCEL, opTREL, opDEQUEUE, opAREL, opPLANEWRITE]
end

/-! ### SET (R69, R70, R73, R74) -/

section
variable (b : Beryl) (st : Stn) (d : Desc) (hr : d.arg0 ≤ 3600)
include hr

/-- One found admissible is committed; without an overlap taken over nothing is retried. -/
theorem Beryl.opSet_commits (hok : (routeVerdict st b.view d.cls d.route b.rt.pending).status = stOK)
    (ht : takeOf st b.view d.route = 0) :
    b.opSet st d = (b.commit st d.cls d.route, routeVerdict st b.view d.cls d.route b.rt.pending) := by
  refine (if_neg (Nat.not_lt.mpr hr)).trans ((if_pos hok).trans ?_)
  simp only [Beryl.takenFrom_none b st d.route ht, Beryl.retry_zero]

theorem Beryl.opSet_refuses (hno : (routeVerdict st b.view d.cls d.route b.rt.pending).status ≠ stOK)
    (hq : (routeVerdict st b.view d.cls d.route b.rt.pending).status = stCONFLICT ∨
      (routeVerdict st b.view d.cls d.route b.rt.pending).status = stCONFLICTPENDING → d.queue = false) :
    b.opSet st d = (b, routeVerdict st b.view d.cls d.route b.rt.pending) := by
  refine (if_neg (Nat.not_lt.mpr hr)).trans ((if_neg hno).trans (if_neg ?_))
  rintro ⟨hc, hqueue, -⟩
  rw [hq hc] at hqueue
  cases hqueue

/-- One that may wait does so while the pending set has room. -/
theorem Beryl.opSet_queues (hc : (routeVerdict st b.view d.cls d.route b.rt.pending).status = stCONFLICT ∨
      (routeVerdict st b.view d.cls d.route b.rt.pending).status = stCONFLICTPENDING) (hq : d.queue = true)
    (hok : st.rQueueOk d.route = true) (hw : (routeVerdict st b.view d.cls d.route b.rt.pending).who ≠ d.route) :
    b.opSet st d =
      if b.ws.pend.length < 256 then
        ({ b with ws := { b.ws with pend := b.ws.pend ++ [⟨d, (b.nowMs + 1000 * (if d.arg0 = 0 then 600 else d.arg0)) % 2 ^ 32⟩] }
                  rt := { b.rt with pending := b.rt.pending ||| bitR d.route } },
         { routeVerdict st b.view d.cls d.route b.rt.pending with status := stQUEUED })
      else (b, { routeVerdict st b.view d.cls d.route b.rt.pending with status := stQUEUEFULL }) := by
  refine (if_neg (Nat.not_lt.mpr hr)).trans ((if_neg ?_).trans (if_pos ⟨hc, hq, hok, hw⟩))
  rcases hc with h | h <;> rw [h] <;> decide
end

/-! ### TREL (R78) -/

section
variable (b : Beryl) (st : Stn) (d : Desc)

theorem Beryl.opTrel_range (h : 4095 < d.route) : b.opTrel st d = (b, .plain stRANGE none16) := if_pos h

variable (hr : d.route ≤ 4095)
include hr

theorem Beryl.opTrel_noRoute (hk : st.rKind d.route = 0) : b.opTrel st d = (b, .plain stNOROUTE d.route) :=
  (if_neg (Nat.not_lt.mpr hr)).trans (if_pos hk)

variable (hk : st.rKind d.route ≠ 0)
include hk

theorem Beryl.opTrel_notSet (hs : b.rt.set.getLsbD d.route = false) : b.opTrel st d = (b, .plain stNOTSET d.route) :=
  (if_neg (Nat.not_lt.mpr hr)).trans ((if_neg hk).trans (if_pos (by simp [hs])))

variable (hs : b.rt.set.getLsbD d.route = true)
include hs

theorem Beryl.opTrel_set : b.opTrel st d =
    if b.rt.sigClear.getLsbD d.route then (b, .plain stSIGCLEAR d.route)
    else if !b.rt.locked.getLsbD d.route && !b.rt.lockSafe.getLsbD d.route then (b.releaseBoth st d.route, verdictOK)
    else
      ({ b with rt := { b.rt with trel := b.rt.trel ||| bitR d.route }
                ws := { b.ws with rdl := SMap.set 0 b.ws.rdl d.route ((b.nowMs + st.rTrel d.route) % 2 ^ 32) } }, .plain stTIMING d.route) :=
  (if_neg (Nat.not_lt.mpr hr)).trans ((if_neg hk).trans (if_neg (by simp [hs])))

theorem Beryl.opTrel_sigClear (hc : b.rt.sigClear.getLsbD d.route = true) : b.opTrel st d = (b, .plain stSIGCLEAR d.route) :=
  (b.opTrel_set st d hr hk hs).trans (if_pos hc)

variable (hc : b.rt.sigClear.getLsbD d.route = false)
include hc

theorem Beryl.opTrel_releases (hl : b.rt.locked.getLsbD d.route = false) (hls : b.rt.lockSafe.getLsbD d.route = false) :
    b.opTrel st d = (b.releaseBoth st d.route, verdictOK) :=
  (b.opTrel_set st d hr hk hs).trans ((if_neg (by simp [hc])).trans (if_pos (by simp [hl, hls])))

theorem Beryl.opTrel_times (hl : b.rt.locked.getLsbD d.route = true ∨ b.rt.lockSafe.getLsbD d.route = true) :
    b.opTrel st d =
      ({ b with rt := { b.rt with trel := b.rt.trel ||| bitR d.route }
                ws := { b.ws with rdl := SMap.set 0 b.ws.rdl d.route ((b.nowMs + st.rTrel d.route) % 2 ^ 32) } }, .plain stTIMING d.route) :=
  (b.opTrel_set st d hr hk hs).trans ((if_neg (by simp [hc])).trans (if_neg (by
    rw [Bool.and_eq_true, Bool.not_eq_true', Bool.not_eq_true']
    rcases hl with h | h <;> simp [h])))
end

/-! ### AREL (R82, R131) -/

section
variable (b : Beryl) (d : Desc)

theorem Beryl.opArel_range (h : 255 < d.arg0 ∨ d.arg1 < 60000 ∨ 3600000 < d.arg1) : b.opArel d = (b, .plain stRANGE none16) := if_pos h

theorem Beryl.opArel_starts (h0 : d.arg0 ≤ 255) (h1 : 60000 ≤ d.arg1) (h2 : d.arg1 ≤ 3600000) :
    b.opArel d =
      ({ b with ws := { b.ws with arun := b.ws.arun ||| (1#256 <<< d.arg0)
                                  adl := SMap.set 0 b.ws.adl d.arg0 ((b.nowMs + d.arg1) % 2 ^ 32) } }, .plain stTIMING none16) :=
  if_neg (by omega)
end

/-! ### PLANE_WRITE of a point end (R76, R132) -/

/-- The bits that a PLANE_WRITE sets: those of word `w` that mask and value have both set. -/
theorem setNat_testBit (v w k : Nat) :
    ((v % 2 ^ 32) <<< (32 * w)).testBit k = (decide (k / 32 = w) && v.testBit (k % 32)) := by
  rw [Nat.testBit_shiftLeft, Nat.testBit_mod_two_pow]
  by_cases hk : k / 32 = w
  · have hle : 32 * w ≤ k := by omega
    have hsub : k - 32 * w = k % 32 := by omega
    have hlt : k % 32 < 32 := by omega
    simp [hk, hle, hsub, hlt]
  · by_cases hle : k ≥ 32 * w
    · have hge : ¬ (k - 32 * w < 32) := by omega
      simp [hk, hge]
    · simp [hk, hle]

/-- A condition of one term that some element meets is answered, with the lowest element that meets it. -/
theorem judge_lowest {n st : Nat} (t : Term n) {e : Nat} (he : t.hit.getLsbD e = true) :
    ∃ v, judge st [t] = some v ∧ v.status = st ∧ v.who ≤ e ∧ t.hit.getLsbD v.who = true := by
  obtain ⟨w, hw, hle⟩ := lowestBit_isSome (n := t.hit.toNat) he
  have hbit : t.hit.getLsbD w = true := (lowestBit_spec hw).1
  refine ⟨⟨st, w, firstPlane t.sts w, firstPlane t.rels w⟩, ?_, rfl, hle, hbit⟩
  simp [judge, hw, hbit]

/-- The bits of word `w` that a PLANE_WRITE sets, as a row. -/
def setRow (d : Desc) : ERow := BitVec.ofNat 16384 (((d.arg1 &&& d.arg2) % 2 ^ 32) <<< (32 * bits d.arg0 23 8))

theorem setRow_getLsbD (d : Desc) (k : Nat) :
    (setRow d).getLsbD k = (decide (k < 16384) && (decide (k / 32 = bits d.arg0 23 8) && (d.arg1 &&& d.arg2).testBit (k % 32))) := by
  rw [setRow, BitVec.getLsbD_ofNat, setNat_testBit]

/-- The term of R132: what stands against a command bit of plane `p` in the word that `d` addresses. -/
def pointTerm (b : Beryl) (st : Stn) (d : Desc) (p : Nat) : Term 16384 :=
  ⟨[(0xFF, setRow d)],
    (if p = 7 then [(0x91, b.ws.lkr), (0x93, b.ws.flr)] else [(0x90, b.ws.lkn), (0x92, b.ws.fln)])
      ++ [(21, b.el.lockSafe &&& erowOf (((List.range 32).map (· + 32 * bits d.arg0 23 8)).filter fun e => isPoint (st.eType e)))]⟩

theorem Term.hit_rels {n : Nat} {t : Term n} {p : Nat × BitVec n} (h : t.rels = [p]) (k : Nat) (hk : t.hit.getLsbD k = true) :
    p.2.getLsbD k = true := by
  simp only [Term.hit, h, BitVec.getLsbD_and, List.foldl_cons, List.foldl_nil, BitVec.ofNat_eq_ofNat, BitVec.zero_or, Bool.and_eq_true] at hk
  exact hk.1

/-- A point end in LOCK-SAFE stands against a command bit that is set for it. -/
theorem pointTerm_hit {b : Beryl} {st : Stn} {d : Desc} {p e : Nat} (hset : (setRow d).getLsbD e = true) (hw : e / 32 = bits d.arg0 23 8)
    (hpt : isPoint (st.eType e) = true) (hls : b.el.lockSafe.getLsbD e = true) : (pointTerm b st d p).hit.getLsbD e = true := by
  have hpts : (erowOf (((List.range 32).map (· + 32 * bits d.arg0 23 8)).filter fun e => isPoint (st.eType e))).getLsbD e = true := by
    rw [erowOf_getLsbD]
    simp only [Bool.and_eq_true, decide_eq_true_eq, List.mem_filter, List.mem_map, List.mem_range]
    exact ⟨lt_of_getLsbD hset, ⟨e % 32, by omega, by omega⟩, hpt⟩
  simp only [Term.hit, pointTerm, BitVec.getLsbD_and, List.foldl_cons, List.foldl_nil, List.foldl_append, BitVec.ofNat_eq_ofNat,
    BitVec.zero_or, BitVec.getLsbD_or, hset, hls, hpts, Bool.and_self, Bool.or_true]

/-- A PLANE_WRITE of CMD-N or CMD-R that its term stands against changes nothing. -/
theorem Beryl.opPlaneWrite_locked (b : Beryl) (st : Stn) (d : Desc) {v : Verdict} (hp : bits d.arg0 7 0 = 7 ∨ bits d.arg0 7 0 = 8)
    (hw : bits d.arg0 23 8 < 512) (hv : judge stLOCKED [pointTerm b st d (bits d.arg0 7 0)] = some v) : b.opPlaneWrite st d = (b, v) := by
  have hlow : ¬ bits d.arg0 7 0 ≥ 0x80 := by omega
  have hok : (!planeWriteE (bits d.arg0 7 0) || decide (bits d.arg0 23 8 ≥ 512)) = false := by
    rcases hp with h | h <;> simp [h, planeWriteE, hw]
  unfold Beryl.opPlaneWrite
  simp only [if_neg hlow, hok, Bool.false_eq_true, if_false, if_pos hp]
  split
  case h_1 v' hv' => rw [Option.some.inj (hv'.symm.trans hv)]
  case h_2 hnone => exact nomatch hnone.symm.trans hv

/-! ### The commands -/

section
variable (x : Lane) (t : Nat) (s : State)
theorem exec_set : exec (.set x t) s = s.at t fun m => m.berylDo x fun l => l.decideOp 1 := rfl
theorem exec_probe : exec (.probe x t) s = s.at t fun m => m.berylDo x fun l => l.decideOp 7 := rfl
theorem exec_trel : exec (.trel x t) s = s.at t fun m => m.berylDo x fun l => l.decideOp 3 := rfl
theorem exec_arel : exec (.arel x t) s = s.at t fun m => m.berylDo x fun l => l.decideOp 5 := rfl
theorem exec_planeWrite : exec (.planeWrite x t) s = s.at t fun m => m.berylDo x fun l => l.decideOp 0x10 := rfl
end

/-- Settles O5: the outcome of a SET is one of three, and each clause reads the planes of its outcome. -/
theorem setCommitsOrQueuesOrRefuses : Obligations.SetCommitsOrQueuesOrRefuses := by
  unfold Obligations.SetCommitsOrQueuesOrRefuses
  intro s x t d rest l b st v hp hf ha
  let b0 : Beryl := { b with accepted := rest }
  refine ⟨fun hop hr hok ht => ?_, fun hop hr hno hq => ?_, fun hop hr hc hq hqok hw => ?_, fun hop => ?_⟩
  · have hset : b0.opSet st d = (b0.commit st d.cls d.route, v) := b0.opSet_commits st d hr hok ht
    refine Completes.of_decision (exec_set x t s) hp hf ha hop (b0.commit_standing st d.cls d.route)
      ((Beryl.decideOne_set b0 st l.tcm hop).trans (by rw [hset])) fun m hm => ?_
    obtain ⟨hel, hrt, hws, a, more, hans, hstatus, -, -, -, htag, hunsol⟩ := hm
    intro b' own
    have hel : b'.el = (b0.commit st d.cls d.route).el := hel
    have hrt : b'.rt = (b0.commit st d.cls d.route).rt := hrt
    have hws : b'.ws = (b0.commit st d.cls d.route).ws := hws
    rw [hel, hrt, hws]
    exact ⟨b0.commit_set .., b0.commit_locked .., b0.commit_lkn .., b0.commit_lkr .., b0.commit_ovlk _ _ _ ht,
      fun ho => ⟨Beryl.commit_owner _ ho, Beryl.commit_sigov _ ho⟩, b0.commit_prog .., b0.commit_pend .., a, more, hans,
      hstatus.trans hok, htag, hunsol⟩
  · have hset : b0.opSet st d = (b0, v) := b0.opSet_refuses st d hr hno hq
    refine Completes.of_decision (exec_set x t s) hp hf ha hop (o := (b0, v)) rfl
      ((Beryl.decideOne_set b0 st l.tcm hop).trans (by rw [hset])) fun m hm => ?_
    obtain ⟨hel, hrt, hws, a, more, hans, hstatus, hwho, -, -, htag, -⟩ := hm
    exact ⟨hel, hrt, hws, a, more, hans, hstatus, hwho, htag⟩
  · have hset := b0.opSet_queues st d hr hc hq hqok hw
    by_cases hroom : b.ws.pend.length < 256
    · rw [if_pos (show b0.ws.pend.length < 256 from hroom)] at hset
      refine Completes.of_decision (exec_set x t s) hp hf ha hop ?_
        ((Beryl.decideOne_set b0 st l.tcm hop).trans (by rw [hset])) fun m hm => ?_
      · rfl
      · obtain ⟨hel, hrt, hws, a, more, hans, hstatus, hwho, -⟩ := hm
        intro b' room life
        have hr' : room := hroom
        rw [if_pos hr', if_pos hr', if_pos hr']
        exact ⟨hel, (congrArg RPlanes.set hrt :), (congrArg BerylStore.pend hws :), (congrArg RPlanes.pending hrt :), a, more, hans, hstatus, hwho⟩
    · rw [if_neg (show ¬ b0.ws.pend.length < 256 from hroom)] at hset
      refine Completes.of_decision (exec_set x t s) hp hf ha hop ?_
        ((Beryl.decideOne_set b0 st l.tcm hop).trans (by rw [hset])) fun m hm => ?_
      · rfl
      · obtain ⟨hel, hrt, hws, a, more, hans, hstatus, hwho, -⟩ := hm
        intro b' room life
        have hr' : ¬ room := hroom
        rw [if_neg hr', if_neg hr', if_neg hr']
        exact ⟨hel, (congrArg RPlanes.set hrt :), (congrArg BerylStore.pend hws :), (congrArg RPlanes.pending hrt :), a, more, hans, hstatus, hwho⟩
  · refine Completes.of_decision (exec_probe x t s) hp hf ha hop (o := (b0, v)) rfl (Beryl.decideOne_probe b0 st l.tcm hop) fun m hm => ?_
    obtain ⟨hel, hrt, hws, a, more, hans, hstatus, hwho, hsplane, hrplane, -⟩ := hm
    exact ⟨hel, hrt, hws, a, more, hans, hstatus, hwho, hsplane, hrplane⟩

/-- Settles O6: each row of the rule is one branch of the operation, and a release drops route and overlap before anything is retried. -/
theorem timedReleaseFollowsItsRule : Obligations.TimedReleaseFollowsItsRule := by
  unfold Obligations.TimedReleaseFollowsItsRule
  intro s x t d rest l b st r refused hp hf ha hop
  let b0 : Beryl := { b with accepted := rest }
  have hdecide {o : Beryl × Verdict} (h : b0.opTrel st d = o) :
      b0.decideOne st l.tcm d = (b0.conclude d o, l.tcm) := h ▸ Beryl.decideOne_trel b0 st l.tcm hop
  have hrefused {code who : Nat} (h : b0.opTrel st d = (b0, .plain code who)) : refused code who := by
    refine Completes.of_decision (exec_trel x t s) hp hf ha hop (o := (b0, .plain code who)) rfl (hdecide h) fun m hm => ?_
    obtain ⟨hel, hrt, hws, a, more, hans, hstatus, hwho, -, -, htag, -⟩ := hm
    exact ⟨hel, hrt, hws, a, more, hans, hstatus, hwho, htag⟩
  refine ⟨fun hr => hrefused (b0.opTrel_range st d hr), fun hr hk => hrefused (b0.opTrel_noRoute st d hr hk),
    fun hr hk hs => hrefused (b0.opTrel_notSet st d hr hk hs), fun hr hk hs hc => hrefused (b0.opTrel_sigClear st d hr hk hs hc),
    fun hr hk hs hc hl hls => ?_, fun hr hk hs hc hl => ?_⟩
  · refine Completes.of_decision (exec_trel x t s) hp hf ha hop (b0.releaseBoth_standing st r)
      (hdecide (b0.opTrel_releases st d hr hk hs hc hl hls)) fun m hm => ?_
    obtain ⟨hel, hrt, hws, a, more, hans, hstatus, -⟩ := hm
    refine ⟨⟨b0.dropBoth st r, b0.dropBoth_set st r, b0.dropBoth_locked st r, b0.dropBoth_ovlSet st (by omega), b0.dropBoth_pend st r,
      hrt, hel, hws⟩, fun hpend => ?_, a, more, hans, hstatus⟩
    have hdrop := b0.releaseBoth_of_no_pend st r hpend
    exact ⟨(congrArg RPlanes.set hrt).trans ((congrArg (·.rt.set) hdrop).trans (b0.dropBoth_set st r)),
      (congrArg EPlanes.locked hel).trans ((congrArg (·.el.locked) hdrop).trans (b0.dropBoth_locked st r))⟩
  · refine Completes.of_decision (exec_trel x t s) hp hf ha hop ?_ (hdecide (b0.opTrel_times st d hr hk hs hc hl)) fun m hm => ?_
    · rfl
    · obtain ⟨hel, hrt, hws, a, more, hans, hstatus, -⟩ := hm
      refine ⟨hrt, hel, ?_, a, more, hans, hstatus⟩
      exact (congrArg (fun w : BerylStore => SMap.get 0 w.rdl r) hws).trans (SMap.get_set_self ..)

/-- Settles O8: an AREL is out of range or starts its timer, and LOCK-SAFE of a point end is among what stands against its command bits, so the
lowest element that something stands against is answered. -/
theorem areaTimersAndLockSafePointEnds : Obligations.AreaTimersAndLockSafePointEnds := by
  unfold Obligations.AreaTimersAndLockSafePointEnds
  intro s x t d rest l b st answered hp hf ha
  let b0 : Beryl := { b with accepted := rest }
  refine ⟨fun hop h0 h1 h2 => ?_, fun hop hrange => ?_, fun e => ?_⟩
  · refine Completes.of_decision (exec_arel x t s) hp hf ha hop ?_
      ((Beryl.decideOne_arel b0 st l.tcm hop).trans (by rw [b0.opArel_starts d h0 h1 h2])) fun m hm => ?_
    · rfl
    · obtain ⟨hel, hrt, hws, a, more, hans, hstatus, -, -, -, htag, hunsol⟩ := hm
      have hadl : (m.lane x).beryl.ws.adl = SMap.set 0 b.ws.adl d.arg0 ((b.nowMs + d.arg1) % 2 ^ 32) := congrArg BerylStore.adl hws
      intro w
      have hw : w.adl = _ := hadl
      rw [hw]
      exact ⟨congrArg BerylStore.arun hws, SMap.get_set_self .., fun k hk => SMap.get_set_ne _ _ _ _ _ hk, hel, hrt, a, more, hans, hstatus,
        htag, hunsol, trivial⟩
  · refine Completes.of_decision (exec_arel x t s) hp hf ha hop (o := (b0, .plain stRANGE none16)) rfl
      ((Beryl.decideOne_arel b0 st l.tcm hop).trans (by rw [b0.opArel_range d hrange])) fun m hm => ?_
    obtain ⟨hel, hrt, hws, a, more, hans, hstatus, -, -, -, htag, hunsol⟩ := hm
    exact ⟨hel, hrt, hws, a, more, hans, hstatus, htag, hunsol, trivial⟩
  · intro p w sets hop hpl hw hset hpt hls
    have hbit (k : Nat) (hk : (setRow d).getLsbD k = true) : sets k := by
      simp only [setRow_getLsbD, Bool.and_eq_true, decide_eq_true_eq] at hk
      exact hk.2
    obtain ⟨hword, hmask⟩ := hset
    have hrow : (setRow d).getLsbD e = true := by
      rw [setRow_getLsbD, hmask]
      simp only [Bool.and_true, Bool.and_eq_true, decide_eq_true_eq]
      exact ⟨by omega, hword⟩
    obtain ⟨v, hv, hstatus, hle, hhit⟩ := judge_lowest (st := stLOCKED) (pointTerm b0 st d p) (pointTerm_hit hrow hword hpt hls)
    have hwho : sets v.who := hbit _ (Term.hit_rels (t := pointTerm b0 st d p) rfl v.who hhit)
    refine Completes.of_decision (exec_planeWrite x t s) hp hf ha hop (o := (b0, v)) rfl
      ((Beryl.decideOne_planeWrite b0 st l.tcm hop).trans (by rw [b0.opPlaneWrite_locked st d hpl hw hv])) fun m hm => ?_
    obtain ⟨hel, hrt, hws, a, more, hans, hst, hq, -, -, htag, hunsol⟩ := hm
    have hq : a.rsp.who = v.who := hq
    refine ⟨hel, hrt, hws, a, more, hans, hst.trans hstatus, htag, hunsol, ?_⟩
    simp only [hq]
    exact ⟨hle, hwho, fun hbelow => Nat.le_antisymm hle (Nat.le_of_not_lt fun hlt => hbelow _ hlt hwho)⟩

end Sys2Proof.Machine
end

