-- ==== Sys2Proof/Proofs/BerylTimers.lean ====
section
/-!
SUPPORT and the settled statement on Beryl's commands and timers: LOAD, CLEAR, STEP, SWEEP, a row fetch that times out, and what is due
(03_route_admission.md R60, R74, R79, R80, R82, R83, R88).
-/
namespace Sys2Proof.Machine

@[simp] theorem Beryl.raise_ws (b : Beryl) (m : Word32) : (b.raise m).ws = b.ws := rfl
@[simp] theorem Beryl.raise_latched (b : Beryl) (m : Word32) : (b.raise m).latched = b.latched := rfl
@[simp] theorem Beryl.raise_faulted (b : Beryl) (m : Word32) : (b.raise m).regs.faulted = b.regs.faulted := rfl

/-! ### LOAD (R60, R61, R128) -/

/-- What the restart record leaves alone: the registers and the pending set. -/
def Beryl.loadFrame (b : Beryl) : BerylRegs × List PendEntry := (b.regs, b.ws.pend)

theorem Beryl.restoreRoute_loadFrame (b : Beryl) (d : Stn) (prog r : Nat) : (b.restoreRoute d prog r).loadFrame = b.loadFrame := by
  unfold Beryl.restoreRoute Beryl.loadFrame
  rfl

theorem Beryl.restoreOverlap_loadFrame (b : Beryl) (d : Stn) (r : Nat) : (b.restoreOverlap d r).loadFrame = b.loadFrame := by
  unfold Beryl.restoreOverlap
  extract_lets o _ _ _ b1
  split <;> rfl

theorem Beryl.applyRestart_loadFrame (b : Beryl) (d : Stn) : (b.applyRestart d).loadFrame = b.loadFrame := by
  unfold Beryl.applyRestart
  extract_lets rec0 mode _ rlock rovl b0 b1 b2
  split
  · rw [Beryl.loadFrame, Beryl.loadFrame]
  split
  · have h0 : b0.loadFrame = b.loadFrame := by rw [Beryl.loadFrame, Beryl.loadFrame]
    have h1 : b1.loadFrame = b.loadFrame := (foldl_keeps Beryl.loadFrame _ _ b0 fun c r => c.restoreRoute_loadFrame d _ r).trans h0
    have h2 : b2.loadFrame = b.loadFrame := (foldl_keeps Beryl.loadFrame _ _ b1 fun c r => c.restoreOverlap_loadFrame d r).trans h1
    clear_value b2
    exact h2
  · rfl

theorem Beryl.applyRestart_regs (b : Beryl) (d : Stn) : (b.applyRestart d).regs = b.regs := by
  have h : (b.applyRestart d).loadFrame.1 = b.loadFrame.1 := by rw [Beryl.applyRestart_loadFrame]
  rwa [Beryl.loadFrame, Beryl.loadFrame] at h

theorem Beryl.applyRestart_pend (b : Beryl) (d : Stn) : (b.applyRestart d).ws.pend = b.ws.pend := by
  have h : (b.applyRestart d).loadFrame.2 = b.loadFrame.2 := by rw [Beryl.applyRestart_loadFrame]
  rwa [Beryl.loadFrame, Beryl.loadFrame] at h

section
variable {b : Beryl} (dram : Mem) (hf : b.regs.faulted = false)
include hf

theorem Beryl.load_barred (h : b.regs.hold = false ∨ b.idle = false) : b.load dram = (b.raise irqCMDERR, dram) :=
  (if_neg (by simp [hf])).trans (if_pos (by simpa using h))

theorem Beryl.clear_barred (h : b.regs.hold = false ∨ b.idle = false) : b.clear = b.raise irqCMDERR :=
  (if_neg (by simp [hf])).trans (if_pos (by simpa using h))

variable (hh : b.regs.hold = true) (hi : b.idle = true)
include hh hi

theorem Beryl.clear_clears :
    b.clear = { b with el := EPlanes.zero, rt := RPlanes.zero, ws := BerylStore.zero, sweepRun := none, sweepReady := [] } :=
  (if_neg (by simp [hf])).trans (if_neg (by simp [hh, hi]))

/-- A LOAD ends with the restart record used up and its interrupt raised. -/
theorem Beryl.load_loads :
    (b.load dram).1.regs = { b.regs with loaded := true, irq := b.regs.irq ||| irqLOAD } ∧ (b.load dram).1.ws.pend = [] ∧
      ∃ m, (b.load dram).2 = Mem.clear m (b.regs.wrkBase + 0x03000000) 4 := by
  let b1 : Beryl := { b with ws := BerylStore.zero, sweepRun := none, sweepReady := [], regs := { b.regs with loaded := true } }
  have hload : b.load dram = ((b1.applyRestart (b1.stn (b.stn dram).buildWork)).raise irqLOAD,
      (b.stn dram).buildWork.clear (b.regs.wrkBase + 0x03000000) 4) :=
    (if_neg (by simp [hf])).trans (if_neg (by simp [hh, hi]))
  have hregs := b1.applyRestart_regs (b1.stn (b.stn dram).buildWork)
  have hpend := b1.applyRestart_pend (b1.stn (b.stn dram).buildWork)
  rw [hload]
  refine ⟨?_, ?_, _, rfl⟩
  · simp only [Beryl.raise, hregs]
    rfl
  · rw [Beryl.raise_ws, hpend]
    rfl
end

/-! ### STEP (R75, R79 to R81, R84) -/

theorem Beryl.releaseRoute_standing (b : Beryl) (d : Stn) (r : Nat) : (b.releaseRoute d r).standing = b.standing := by
  simp [Beryl.releaseRoute]

theorem Beryl.releaseOverlap_standing (b : Beryl) (d : Stn) (o q : Nat) : (b.releaseOverlap d o q).standing = b.standing := by
  simp [Beryl.releaseOverlap]

theorem Beryl.releaseGroup_standing (b : Beryl) (d : Stn) (r : Nat) (g : List Nat) : (b.releaseGroup d r g).standing = b.standing := by
  unfold Beryl.releaseGroup
  extract_lets own m p b1 _ _ b2
  split
  · exact b2.releaseRoute_standing d r
  · rfl

theorem Beryl.visitSet_standing (b : Beryl) (d : Stn) (r : Nat) : (b.visitSet d r).standing = b.standing := by
  unfold Beryl.visitSet
  extract_lets proven _ b1 rel prog rest locked _ b2 g ready b3 first
  have h2 : b2.standing = b.standing := by
    simp only [b2]
    split <;> rfl
  have h3 : b3.standing = b.standing := by
    simp only [b3]
    split
    · exact (b2.releaseGroup_standing d r g).trans h2
    · exact h2
  split
  · exact h3
  split
  · exact (b3.releaseBoth_standing d r).trans h3
  · exact h3

theorem Beryl.visitOvl_standing (b : Beryl) (d : Stn) (r : Nat) : (b.visitOvl d r).standing = b.standing := by
  unfold Beryl.visitOvl
  extract_lets o _ _ b1
  have h1 : b1.standing = b.standing := by
    simp only [b1]
    split <;> rfl
  split
  · exact (b1.releaseOverlap_standing d o r).trans h1
  · exact h1

theorem Beryl.visit_standing (b : Beryl) (d : Stn) (r : Nat) : (b.visit d r).standing = b.standing := by
  unfold Beryl.visit
  extract_lets b1
  have h1 : b1.standing = b.standing := by
    simp only [b1]
    split
    · exact b.visitSet_standing d r
    · rfl
  split
  · exact (b1.visitOvl_standing d r).trans h1
  · exact h1

theorem Beryl.expire_standing (b : Beryl) (d : Stn) (e : PendEntry) : (b.expire d e).standing = b.standing := by
  unfold Beryl.expire
  split
  · exact b.leavePend_standing d e _
  · rfl

theorem Beryl.areaDue_standing (b : Beryl) (d : Stn) (a : Nat) : (b.areaDue d a).standing = b.standing := by
  unfold Beryl.areaDue
  split <;> rfl

/-- What a publication leaves alone besides the planes: the latched time and the fault bit. -/
def Beryl.pulse (b : Beryl) : Nat × Bool := (b.latched, b.regs.faulted)

theorem Beryl.pulse_of_standing {b b' : Beryl} (h : b'.standing = b.standing) : b'.pulse = b.pulse :=
  congrArg (fun p : BerylRegs × Nat => (p.2, p.1.faulted)) h

theorem Beryl.finishSweep_pulse (b : Beryl) (d : Stn) : (b.finishSweep d).pulse = b.pulse := by
  unfold Beryl.finishSweep
  split
  · rfl
  · split <;> rfl

theorem Beryl.publish_pulse (b : Beryl) (d : Stn) : (b.publish d).pulse = b.pulse := by
  unfold Beryl.publish
  extract_lets b1 b2
  have h2 : b2.pulse = b.pulse := by
    simp only [b2]
    split
    · split
      · exact b1.finishSweep_pulse d
      · rfl
    · rfl
  split
  · split <;> exact h2
  · exact h2

/-- A STEP latches the time, clears the counts of the last one and raises its interrupt (R79). -/
theorem Beryl.step_spec {b : Beryl} (d : Stn) (hf : b.regs.faulted = false) :
    (b.step d).latched = b.regs.nowLo.toNat + b.regs.nowHi.toNat * 2 ^ 32 ∧ (b.step d).regs.faulted = false ∧ (b.step d).lastKey = Key.zero ∧
      (b.step d).regs.adm = 0 ∧ (b.step d).regs.ref = 0 ∧ (b.step d).regs.irq.getLsbD 1 = true := by
  have hone : irqSTEP.getLsbD 1 = true := by decide
  unfold Beryl.step
  rw [if_neg (by simp [hf])]
  extract_lets now b0 b1 b2 b3 b4 b5
  have h1 : b1.pulse = b0.pulse := Beryl.pulse_of_standing (foldl_keeps Beryl.standing _ _ b0 fun _ _ => rfl)
  have h2 : b2.pulse = b0.pulse := (b1.publish_pulse d).trans h1
  have h3 : b3.pulse = b0.pulse :=
    (Beryl.pulse_of_standing (foldl_keeps Beryl.standing _ _ b2 fun c e => c.expire_standing d e)).trans h2
  have h4 : b4.pulse = b0.pulse :=
    (Beryl.pulse_of_standing (foldl_keeps Beryl.standing _ _ b3 fun c a => c.areaDue_standing d a)).trans h3
  have h5 : b5.pulse = b0.pulse :=
    (Beryl.pulse_of_standing (foldl_keeps Beryl.standing _ _ b4 fun c r => c.visit_standing d r)).trans h4
  have h0 : b5.pulse = (now, false) := h5.trans (congrArg (Prod.mk now) hf)
  clear_value b5
  obtain ⟨hnow, hfault⟩ := Prod.mk.inj h0
  refine ⟨?_, ?_, rfl, rfl, rfl, ?_⟩
  · rw [Beryl.raise_latched]
    exact hnow
  · rw [Beryl.raise_faulted]
    exact hfault
  · simp [Beryl.raise, hone]

theorem LaneSt.brlStep_beryl (l : LaneSt) : l.brlStep.beryl = l.beryl.step (l.beryl.stn l.dram) := by
  rw [LaneSt.brlStep, LaneSt.onBeryl]

/-! ### The sweep (R83, R84) -/

theorem Beryl.startSweep_starts {b : Beryl} {p : Nat} (hf : b.regs.faulted = false) (hr : b.sweepRun = none) (hp : b.freeStage = some p) :
    b.startSweep = { b with sweepRun := some ⟨p, 0⟩, ws := { b.ws with snap := b.view } } := by
  simp [Beryl.startSweep, hf, hr, hp]

theorem Beryl.finishSweep_finishes {b : Beryl} {w : SweepRun} (d : Stn) (hf : b.regs.faulted = false) (hr : b.sweepRun = some w) :
    b.finishSweep d =
      Beryl.raise { b with sweepRun := none, sweepReady := b.sweepReady ++ [w]
                           ws := if w.plane = 0 then { b.ws with stg0 := sweepResult d b.ws.snap }
                             else { b.ws with stg1 := sweepResult d b.ws.snap } } irqSWEEP := by
  simp [Beryl.finishSweep, hf, hr]

/-! ### A fault of Beryl silences its lane (R88, R154) -/

theorem LaneSt.hold_beryl (l : LaneSt) : l.hold.beryl = l.beryl := by
  unfold LaneSt.hold LaneSt.abortChange
  split <;> rfl
theorem LaneSt.leave_beryl (l : LaneSt) (c : Nat) : (l.leave c).beryl = l.beryl := by
  unfold LaneSt.leave
  split <;> rfl
theorem LaneSt.silenced_beryl (l : LaneSt) (c level unitNo : Nat) : (l.silenced c level unitNo).beryl = l.beryl := by
  unfold LaneSt.silenced LaneSt.quiet LaneSt.noteFault
  split <;> rfl

theorem Mod.shadowFail_beryl (m : Mod) (x : Lane) : ((m.shadowFail x).lane x).beryl = (m.lane x).beryl := by
  unfold Mod.shadowFail
  split
  case h_1 => rfl
  case h_2 c _ =>
    split
    · rfl
    extract_lets m1 day l exits m2
    have h1 : (m1.lane x).beryl = (m.lane x).beryl := by
      rw [show m1.lane x = _ from m.lane_modLane_self x _]
      rfl
    have h2 : (m2.lane x).beryl = (m.lane x).beryl := by
      rw [show m2.lane x = _ from m1.lane_setLane_self x _]
      exact h1
    split
    · exact h1
    split
    · split <;> exact h2
    · exact h2

/-- Silence leaves the lane's Beryl as it is. -/
theorem Mod.silence_beryl (m : Mod) (x : Lane) (c level unitNo : Nat) : ((m.silence x c level unitNo).lane x).beryl = (m.lane x).beryl := by
  obtain h | h | ⟨-, h⟩ := m.silence_cases x c level unitNo <;> rw [h]
  · rw [Mod.gates_lane, Mod.lane_setLane_self, LaneSt.silenced_beryl]
  · obtain h | h := Mod.tooFew_lane (m.setLane x (((m.lane x).silenced c level unitNo).leave c)).gates x <;> rw [h]
    · rw [Mod.gates_lane, Mod.lane_setLane_self, LaneSt.leave_beryl, LaneSt.silenced_beryl]
    · rw [LaneSt.hold_beryl, Mod.gates_lane, Mod.lane_setLane_self, LaneSt.leave_beryl, LaneSt.silenced_beryl]
  · rw [Mod.shadowFail_beryl, Mod.gates_lane, Mod.lane_setLane_self, LaneSt.silenced_beryl]

/-- An action that sets the fault bit leaves Beryl as the action makes it, and the lane drives no gate. -/
theorem Mod.berylDo_faults (m : Mod) (x : Lane) (f : LaneSt → LaneSt) (hp : (m.lane x).powered = true)
    (hf : (m.lane x).beryl.regs.faulted = false) (h : (f (m.lane x)).beryl.regs.faulted = true) :
    ((m.berylDo x f).lane x).beryl = (f (m.lane x)).beryl ∧ (m.berylDo x f).can.get x = false := by
  unfold Mod.berylDo
  extract_lets l l1
  rw [if_neg (by simp [l, hp]), if_pos ⟨h, hf⟩]
  refine ⟨?_, Mod.silence_can ..⟩
  rw [Mod.silence_beryl, Mod.lane_put, Mod.lane_setLane_self]

/-! ### What is due (R74, R79, R80, R82) -/

section
variable {b : Beryl} (d : Stn)

theorem Beryl.areaDue_due {a : Nat} (hr : b.ws.arun.getLsbD a = true) (hd : isDue b.nowMs (SMap.get 0 b.ws.adl a) = true) :
    b.areaDue d a = { b with el := { b.el with lockSafe := b.el.lockSafe &&& ~~~d.areaRow a }
                             ws := { b.ws with arun := b.ws.arun &&& ~~~(1#256 <<< a) } } :=
  if_pos (by simp [hr, hd])

theorem Beryl.areaDue_waits {a : Nat} (h : b.ws.arun.getLsbD a = false ∨ isDue b.nowMs (SMap.get 0 b.ws.adl a) = false) :
    b.areaDue d a = b :=
  if_neg (by rw [Bool.and_eq_true]; rintro ⟨hr, hd⟩; simp [hr, hd] at h)

/-- The one entry there is expires: it leaves with its answer, and nothing is left to retry. -/
theorem Beryl.expireOne_last {e : PendEntry} (hp : b.ws.pend = [e]) (hd : isDue b.nowMs e.deadline = true) :
    b.expireOne d e.desc.route = (b.removePend e).tell e.desc (.plain stEXPIRED e.desc.route) := by
  have hbehind : b.behind d e = [] := by simp [Beryl.behind, hp]
  simp [Beryl.expireOne, Beryl.expire, Beryl.leavePend, hp, hd, hbehind]
end

theorem LaneSt.due_eq {l : LaneSt} (f : Beryl → Stn → Beryl) (hf : l.beryl.regs.faulted = false) :
    l.due f = { l with beryl := f l.beryl (l.beryl.stn l.dram) } := if_neg (by simp [hf])

/-! ### The commands -/

section
variable (x : Lane) (t : Nat) (s : State)
theorem exec_load : exec (.load x t) s = s.at t fun m => m.berylDo x LaneSt.brlLoad := rfl
theorem exec_clear : exec (.clear x t) s = s.at t fun m => m.berylDo x LaneSt.brlClear := rfl
theorem exec_step : exec (.step x t) s = s.at t fun m => m.berylDo x LaneSt.brlStep := rfl
theorem exec_sweep : exec (.sweep x t) s = s.at t fun m => m.berylDo x LaneSt.brlSweep := rfl
theorem exec_sweepComplete : exec (.sweepComplete x t) s = s.at t fun m => m.berylDo x LaneSt.sweepDone := rfl
theorem exec_fetchTimeout : exec (.fetchTimeout x t) s = s.at t fun m => m.berylDo x LaneSt.fetchTimeout := rfl
theorem exec_areaTimerDue (a : Nat) : exec (.areaTimerDue x a t) s = s.at t fun m => m.berylDo x fun l => l.areaTimer a := rfl
theorem exec_pendingExpire (r : Nat) : exec (.pendingExpire x r t) s = s.at t fun m => m.berylDo x fun l => l.pendingExpire r := rfl
theorem exec_routeTrelDue (r : Nat) : exec (.routeTrelDue x r t) s = s.at t fun m => m.berylDo x fun l => l.routeTrel r := rfl
theorem exec_overlapTrelDue (r : Nat) : exec (.overlapTrelDue x r t) s = s.at t fun m => m.berylDo x fun l => l.overlapTrel r := rfl
end

/-- A command whose action leaves the lane with the Beryl `b'`, its fault bit as it was, completes with that Beryl. -/
theorem Completes.of_beryl_eq {c : Instr} {s : State} {t : Nat} {x : Lane} {f : LaneSt → LaneSt} {P : Mod → Prop} (b' : Beryl)
    (hc : exec c s = s.at t fun m => m.berylDo x f) (hp : (s.m.lane x).powered = true) (hb : (f (s.m.lane x)).beryl = b')
    (hf : b'.regs.faulted = (s.m.lane x).beryl.regs.faulted) (h : ∀ m : Mod, (m.lane x).beryl = b' → P m) : Completes c s P :=
  Completes.of_beryl_keep hc hp (by rw [hb, hf]) (h _ (by rw [Mod.lane_setLane_self, hb]))

/-- Settles O9: each command and each thing due is one action on the lane's Beryl, and its conditions choose the branch. -/
theorem berylCommandsAndTimersTakeEffect : Obligations.BerylCommandsAndTimersTakeEffect := by
  unfold Obligations.BerylCommandsAndTimersTakeEffect
  intro s x t r l b st hp hf
  refine ⟨fun hh hi => ?_, fun hh hi => ?_, fun hno => ⟨?_, ?_⟩, ?_, fun p hr hfree => ?_, fun w hr => ?_, ?_, fun hr hd => ?_, fun hno => ?_,
    fun e hpend hroute hd => ?_, fun hpend hset htrel hd => ?_, fun hpend hset htrel hd => ?_⟩
  · obtain ⟨hregs, hpend, m1, hdram⟩ := Beryl.load_loads (b := b) l.dram hf hh hi
    refine Completes.of_beryl_keep (exec_load x t s) hp (congrArg BerylRegs.faulted hregs :) ?_
    rw [Mod.lane_setLane_self]
    refine ⟨congrArg BerylRegs.loaded hregs, congrArg BerylRegs.irq hregs, hpend, fun i hi => ?_⟩
    exact (congrArg (Mem.getB · _) hdram).trans (Mem.getB_clear_in m1 _ 4 i hi)
  · refine Completes.of_beryl_eq _ (exec_clear x t s) hp (Beryl.clear_clears (b := b) hf hh hi) rfl fun m hm => ?_
    rw [hm]
    exact ⟨rfl, rfl, rfl⟩
  · have hload : l.brlLoad = { l with beryl := b.raise irqCMDERR } := by
      rw [LaneSt.brlLoad, Beryl.load_barred (b := b) l.dram hf hno]
    exact Completes.of_beryl_keep (exec_load x t s) hp (congrArg (·.beryl.regs.faulted) hload :) (by rw [hload])
  · have hclear : l.brlClear = { l with beryl := b.raise irqCMDERR } :=
      congrArg (fun b => { l with beryl := b }) (Beryl.clear_barred (b := b) hf hno)
    exact Completes.of_beryl_keep (exec_clear x t s) hp (congrArg (·.beryl.regs.faulted) hclear :) (by rw [hclear])
  · obtain ⟨hnow, hfault, hkey, hadm, href, hirq⟩ := Beryl.step_spec (b := b) st hf
    refine Completes.of_beryl_eq (b.step st) (exec_step x t s) hp l.brlStep_beryl (hfault.trans hf.symm) fun m hm => ?_
    rw [hm]
    exact ⟨hnow, hkey, hadm, href, hirq⟩
  · have hsweep : l.brlSweep = { l with beryl := { b with sweepRun := some ⟨p, 0⟩, ws := { b.ws with snap := b.view } } } :=
      congrArg (fun b => { l with beryl := b }) (Beryl.startSweep_starts hf hr hfree)
    exact Completes.of_beryl_keep (exec_sweep x t s) hp (by rw [hsweep]) (by rw [hsweep])
  · refine Completes.of_beryl_eq _ (exec_sweepComplete x t s) hp (Beryl.finishSweep_finishes (b := b) st hf hr) rfl fun m hm => ?_
    rw [hm]
    refine ⟨rfl, rfl, rfl, ?_⟩
    by_cases hplane : w.plane = 0 <;> simp [Beryl.raise, hplane, st]
  · have hfetch : l.fetchTimeout = { l with beryl := b.error 4 2 } := if_neg (by simp [show l.beryl.regs.faulted = false from hf])
    have hfault : l.fetchTimeout.beryl.regs.faulted = true := by rw [hfetch]; rfl
    obtain ⟨hb, hcan⟩ := (s.m.advance t).berylDo_faults x LaneSt.fetchTimeout hp hf hfault
    refine Completes.of_at (exec_fetchTimeout x t s) ⟨?_, ?_, ?_, hcan⟩ <;> rw [hb]
    · exact hfault
    · exact congrArg (·.beryl.regs.irq) hfetch
    · exact congrArg (·.beryl.el) hfetch
  · have harea : (l.areaTimer r).beryl = b.areaDue st r := congrArg LaneSt.beryl (LaneSt.due_eq _ hf)
    refine Completes.of_beryl_eq _ (exec_areaTimerDue x t s r) hp (harea.trans (Beryl.areaDue_due st hr hd)) rfl fun m hm => ?_
    rw [hm]
    exact ⟨rfl, rfl, rfl⟩
  · have harea : l.areaTimer r = l := by
      refine (LaneSt.due_eq _ hf).trans ?_
      exact (congrArg (fun b => { l with beryl := b }) (Beryl.areaDue_waits (b := b) st hno) :)
    have hexec := exec_beryl_keep (exec_areaTimerDue x t s r) hp (by rw [show (s.m.lane x).areaTimer r = l from harea])
    rwa [show (s.m.lane x).areaTimer r = l from harea] at hexec
  · subst hroute
    have hexpire : (l.pendingExpire e.desc.route).beryl = b.expireOne st e.desc.route := congrArg LaneSt.beryl (LaneSt.due_eq _ hf)
    refine Completes.of_beryl_eq _ (exec_pendingExpire x t s _) hp (hexpire.trans (Beryl.expireOne_last st hpend hd)) rfl fun m hm => ?_
    rw [hm]
    refine ⟨?_, rfl, rfl, _, rfl, rfl, rfl, rfl⟩
    exact (congrArg (List.erase · e) hpend).trans (by simp)
  · have hroute : (l.routeTrel r).beryl = b.dropBoth st r := by
      refine (congrArg LaneSt.beryl (LaneSt.due_eq _ hf)).trans ((if_pos ?_).trans (b.releaseBoth_of_no_pend st r hpend))
      rw [Bool.and_eq_true, Bool.and_eq_true]
      exact ⟨⟨hset, htrel⟩, hd⟩
    refine Completes.of_beryl_eq _ (exec_routeTrelDue x t s r) hp hroute (Beryl.faulted_of_standing (b.dropBoth_standing st r)) fun m hm => ?_
    rw [hm]
    exact ⟨b.dropBoth_set st r, b.dropBoth_trel st r, b.dropBoth_ovlSet st (lt_of_getLsbD hset)⟩
  · have hovl : (l.overlapTrel r).beryl = b.dropOverlap st (st.rOvl r) r := by
      refine (congrArg LaneSt.beryl (LaneSt.due_eq _ hf)).trans ((if_pos ?_).trans (Beryl.retry_none _ _ _ hpend))
      rw [Bool.and_eq_true, Bool.and_eq_true]
      exact ⟨⟨hset, htrel⟩, hd⟩
    refine Completes.of_beryl_eq _ (exec_overlapTrelDue x t s r) hp hovl rfl fun m hm => ?_
    rw [hm]
    exact ⟨rfl, SMap.get_set_self .., rfl⟩

end Sys2Proof.Machine
end

