-- ==== Sys2Proof/Proofs/FarEnds.lean ====
section
/-!
SUPPORT. What an action of an object controller or of a star leaves of the module: everything but that node or star and the frames it sends.
-/
namespace Sys2Proof.Machine

/-! ### Nodes -/

@[simp] theorem Mod.node_setNode_self (m : Mod) (k : Nat) (n : Node) : (m.setNode k n).node k = n := SMap.get_set_self ..
theorem Mod.node_setNode_ne (m : Mod) {j k : Nat} (n : Node) (h : j ≠ k) : (m.setNode k n).node j = m.node j := SMap.get_set_ne _ _ _ _ _ h
@[simp] theorem Mod.node_send (m : Mod) (d : Dest) (b : Bytes) (k : Nat) : (m.send d b).node k = m.node k := rfl

/-- A node that takes its own state again is as it was, and so is every other node. -/
theorem Mod.node_setNode_same (m : Mod) (k j : Nat) : (m.setNode k (m.node k)).node j = m.node j := by
  by_cases h : j = k
  · rw [h, Mod.node_setNode_self]
  · exact m.node_setNode_ne _ h

/-- A node that sends one frame. -/
theorem Mod.nodeDo_send (m : Mod) (k : Nat) (n : Node) (d : Dest) (b : Bytes) : m.nodeDo k (n, [.send d b]) = (m.setNode k n).send d b := rfl

/-! ### Stars -/

@[simp] theorem Mod.star_setStar_self (m : Mod) (ch : Chan) (s : Star) : (m.setStar ch s).star ch = s := PerChan.get_set_self ..
theorem Chan.other_ne (ch : Chan) : ch.other ≠ ch := by cases ch <;> decide
@[simp] theorem Mod.star_setStar_other (m : Mod) (ch : Chan) (s : Star) : (m.setStar ch s).star ch.other = m.star ch.other :=
  PerChan.get_set_ne _ _ _ _ (Chan.other_ne ch)
@[simp] theorem Mod.star_advance (m : Mod) (t : Nat) (ch : Chan) : (m.advance t).star ch = m.star ch := rfl
@[simp] theorem Mod.star_send (m : Mod) (d : Dest) (b : Bytes) (ch : Chan) : (m.send d b).star ch = m.star ch := rfl

/-- A star that sends one frame. -/
theorem Mod.starDo_send (m : Mod) (ch : Chan) (s : Star) (d : Dest) (b : Bytes) : m.starDo ch (s, [.send d b]) = (m.setStar ch s).send d b := rfl

/-- A star that takes its own state again leaves the module as it was. -/
theorem Mod.starDo_nothing (m : Mod) (ch : Chan) : m.starDo ch (m.star ch, []) = m := by
  have h : m.stars.set ch (m.stars.get ch) = m.stars := by cases ch <;> rfl
  exact (congrArg (fun q => ({ m with stars := q } : Mod)) h :)

end Sys2Proof.Machine
end

