-- ==== Sys2Proof/Proofs/StarWindows.lean ====
section
/-!
SUPPORT and the settled statement on star couplers: which frames a star forwards, how it counts violations, grants, arbitrates cold frames and
answers management and echo frames (07_opbex.md R197, R219 to R222).
-/
namespace Sys2Proof.Machine

/-! ### Ports -/

@[simp] theorem Star.port_setPort_self (s : Star) (p : SPort) (x : StarPort) : (s.setPort p x).port p = x := SMap.get_set_self ..
theorem Star.nodePort_setPort_ne (s : Star) {j k : Nat} (x : StarPort) (h : k ≠ j) :
    (s.setPort (.nodePort j) x).port (.nodePort k) = s.port (.nodePort k) :=
  SMap.get_set_ne _ _ _ _ _ fun e => h (Nat.succ.inj e)

/-- A violation counts one more at its port, and the third in a row disables it (R221). -/
theorem Star.violation_verdict (s : Star) (p : SPort) (v : StarVerdict) : (s.violation p v).verdict = v := by
  cases p with
  | nodePort k => exact (apply_ite Star.verdict _ _ _).trans (ite_self v)
  | modPort q => rfl
theorem Star.violation_port (s : Star) (p : SPort) (v : StarVerdict) :
    (s.violation p v).port p = ⟨(s.port p).viol + 1, (s.port p).disabled || decide (3 ≤ (s.port p).viol + 1)⟩ := by
  cases p with
  | nodePort k => exact (apply_ite (Star.port · (.nodePort k)) _ _ _).trans ((ite_self _).trans (Star.port_setPort_self ..))
  | modPort q => exact Star.port_setPort_self ..

/-! ### A frame at a node port (R219) -/

section
variable {s : Star} {bk : ObxBank} {k t off : Nat} {f : Frame}

theorem Star.filter_disabled (p : SPort) (h : (s.port p).disabled = true) : s.filter bk p t f = { s with verdict := .blocked } := if_pos h

theorem Star.filter_unbased (h : s.base = none) : s.filter bk (.nodePort k) t f = { s with verdict := .blocked } := by
  have hn : s.now t = none := by rw [Star.now, h]
  unfold Star.filter
  simp only [hn]
  exact ite_self _

/-- What becomes of a frame at node port `k` in a window that closes at `close`, if it starts in one. -/
def Star.inWindow (s : Star) (k off : Nat) (f : Frame) : Option Nat → Star
  | none => s.violation (.nodePort k) .blocked
  | some c =>
    if c < off + (f.body.length + 12) * 8 then s.violation (.nodePort k) .truncated
    else { (if f.ok && flenOk f.body then s.setPort (.nodePort k) { s.port (.nodePort k) with viol := 0 } else s) with
           verdict := .forwarded }

/-- Where the frame starts in the star's present minor cycle, the windows of the node decide. -/
theorem Star.filter_windows (hd : (s.port (.nodePort k)).disabled = false) (hn : s.now t = some (s.mcn, off)) :
    s.filter bk (.nodePort k) t f =
      s.inWindow k off f (((s.nodeWindows bk k).find? fun w => decide (w.1 ≤ off ∧ off < w.2)).map (·.2)) := by
  unfold Star.filter
  rw [if_neg (by simp [hd])]
  simp only [hn, if_pos]
  rfl

/-- A frame that starts outside every window of its node is blocked, and its port has a violation. -/
theorem Star.filter_outside (hd : (s.port (.nodePort k)).disabled = false) (hn : s.now t = some (s.mcn, off))
    (hw : ∀ w ∈ s.nodeWindows bk k, off < w.1 ∨ w.2 ≤ off) : s.filter bk (.nodePort k) t f = s.violation (.nodePort k) .blocked := by
  have hnone : (s.nodeWindows bk k).find? (fun w => decide (w.1 ≤ off ∧ off < w.2)) = none :=
    List.find?_eq_none.mpr fun w h => by
      have := hw w h
      simp only [decide_eq_true_eq]
      omega
  rw [Star.filter_windows hd hn, hnone]
  rfl

/-- A good frame inside the reply window of a polled node is forwarded, and the count of its port is cleared. -/
theorem Star.filter_inside (hd : (s.port (.nodePort k)).disabled = false) (hn : s.now t = some (s.mcn, off)) (hk : k ∈ s.polled)
    (ho : bk.open' k ≤ off) (hc : off + (f.body.length + 12) * 8 ≤ bk.open' k + 2500) (hok : f.ok = true) (hl : flenOk f.body = true) :
    s.filter bk (.nodePort k) t f =
      { s.setPort (.nodePort k) { s.port (.nodePort k) with viol := 0 } with verdict := .forwarded } := by
  have hpoll : s.polled.contains k = true := List.contains_iff_mem.mpr hk
  have hin : bk.open' k ≤ off ∧ off < bk.open' k + 2500 := ⟨ho, by omega⟩
  have hfind : (s.nodeWindows bk k).find? (fun w => decide (w.1 ≤ off ∧ off < w.2)) = some (bk.open' k, bk.open' k + 2500) := by
    rw [Star.nodeWindows, if_pos hpoll, List.append_assoc, List.append_assoc, List.cons_append]
    exact List.find?_cons_of_pos (decide_eq_true hin)
  rw [Star.filter_windows hd hn, hfind]
  exact (if_neg (Nat.not_lt.mpr hc)).trans (by rw [hok, hl]; rfl)
end

/-! ### Grants and cold frames (R220, R222) -/

section
variable {s : Star} {ch : Chan} {t mc off claim q last : Nat}

theorem Star.grant_cond (hn : s.now t = some (mc, off)) (hs : s.stby = some (claim, q)) (hl : s.lastCyc = some last) :
    s.grant ch t =
      if 2 ≤ mc - last ∧ 2800000 + 20000 * ch.idx ≤ off then
        ({ s with granted := true, owner := q },
         [.send (.starTx ch) (claimFrame 0x31 (starAddr ch) claim (mc % 4294967296) (mc - last)
            ((claimOf s.hclaim).epoch % 4294967296) (Config.farLinkKey (starAddr ch)))])
      else (s, []) := by
  unfold Star.grant
  simp only [hn, hs, hl]
end

/-- A COLD or CYC without errors. -/
def Frame.coldStart (f : Frame) : Bool := f.ok && flenOk f.body && (ftype f.body == 0x01 || ftype f.body == 0x32)
theorem Frame.coldStart_of {f : Frame} (hok : f.ok = true) (hl : flenOk f.body = true) (ht : ftype f.body = 0x01 ∨ ftype f.body = 0x32) :
    f.coldStart = true := by
  rw [Frame.coldStart, hok, hl]
  simpa using ht

/-- The star forwards a cold frame of port `p` from `t` on. -/
def Star.forwardCold (s : Star) (p t : Nat) (f : Frame) : Star :=
  { s.note p (cycMcn f.body) 0 t f.body with
    verdict := .forwarded, receiving := some (p, coldClaim f.body, t + (f.body.length + 12) * 8, t) }

/-- Of two overlapping cold frames, the second not the earlier, the first is forwarded where it came first or its claim is the higher. -/
theorem Star.arbitrate_overlap {s : Star} {p1 t1 t2 : Nat} {f g : Frame} (hs : s.first = false) (hf : f.coldStart = true)
    (hg : g.coldStart = true) (hle : t1 ≤ t2) (ho : t2 < t1 + (f.body.length + 12) * 8) :
    s.arbitrate p1 t1 f t2 g =
      if decide (t1 < t2) || (t1 == t2 && decide (coldClaim g.body < coldClaim f.body)) then s.forwardCold p1 t1 f
      else s.forwardCold (1 - p1) t2 g := by
  unfold Frame.coldStart at hf hg
  unfold Star.arbitrate
  rw [if_neg (by simp [hs, hf, hg])]
  simp only [if_pos hle, decide_eq_true ho, if_true]
  rfl

/-! ### Management and echoes (R197, R198, R221) -/

/-- Enabling ports resets each of them and no other, and changes nothing else of the star. -/
def Star.enablePorts (s : Star) (ks : List Nat) : Star := ks.foldl (fun (a : Star) k => a.setPort (.nodePort k) StarPort.reset) s
theorem Star.enablePorts_port (s : Star) (ks : List Nat) (k : Nat) :
    (s.enablePorts ks).port (.nodePort k) = if k ∈ ks then StarPort.reset else s.port (.nodePort k) := by
  induction ks generalizing s with
  | nil => rfl
  | cons j ks ih =>
    rw [Star.enablePorts, List.foldl_cons]
    refine (ih _).trans ?_
    by_cases hj : k = j
    · subst hj
      simp
    · simp [Star.nodePort_setPort_ne s StarPort.reset hj, hj]
theorem Star.enablePorts_owner (s : Star) (ks : List Nat) : (s.enablePorts ks).owner = s.owner := foldl_keeps Star.owner _ ks s fun _ _ => rfl

/-- The star after an SMGT it takes. -/
def Star.managed (s : Star) (g : Smgt) : Star :=
  { s.enablePorts g.enables with
    reports := (s.enablePorts g.enables).reports.filter fun k => !(g.enables.contains k), viols := 0,
    owner := if g.handover then 1 - (s.enablePorts g.enables).owner else (s.enablePorts g.enables).owner }
theorem Star.smgt_taken {s : Star} {ch : Chan} {f : Frame} (g : Smgt) (hg : f.good 0x50 = true)
    (hk : linkOk (Config.farLinkKey (faddr f.body)) f.body = true) (hs : s.first = true) :
    s.smgt ch f g =
      (s.managed g, [.send (.starTx ch) (srptBytes ch ⟨(s.managed g).reports, (s.enablePorts g.enables).viols, g.handover⟩)]) := by
  unfold Star.smgt
  rw [if_neg (by simp [hg, hk, hs])]
  rfl

theorem Star.echo_answered {s : Star} {ch : Chan} {f : Frame} (hg : f.good 0x40 = true)
    (hk : linkOk (Config.farLinkKey (faddr f.body)) f.body = true) (hs : s.first = true) :
    s.echo ch f = [.send (.starTx ch) (echoFrame 0x41 (starAddr ch) (Bytes.le f.body 4 4) (Bytes.le f.body 8 4) (Bytes.le f.body 0xC 4)
      (echoWin f.body) (Config.farLinkKey (starAddr ch)))] := if_neg (by simp [hg, hk, hs])

/-! ### The commands -/

section
variable (t : Nat) (s : State) (ch : Chan) (f : Frame)
theorem exec_starFrameFilter (p : SPort) : exec (.starFrameFilter ch p f t) s = s.at t fun m => m.starFilter ch p f := rfl
theorem exec_starGrant : exec (.starGrant ch t) s = s.at t fun m => m.starGrant ch := rfl
theorem exec_starColdArbitrate (p1 t1 t2 : Nat) (g : Frame) :
    exec (.starColdArbitrate ch p1 t1 f t2 g t) s = s.at t fun m => m.starCold ch p1 t1 f t2 g := rfl
theorem exec_smgt (g : Smgt) : exec (.smgt ch f g t) s = s.at t fun m => m.starSmgt ch f g := rfl
theorem exec_echo (w : Who) : exec (.echo w ch f t) s = s.at t fun m => m.echoAt w ch f := rfl
theorem exec_starPowerUp : exec (.starPowerUp ch t) s = s.at t fun m => m.starPower ch := rfl
end

/-- A frame at a node port of a star changes that star by its filter and nothing else. -/
theorem Mod.starFilter_nodePort (m : Mod) (ch : Chan) (k : Nat) (f : Frame) :
    m.starFilter ch (.nodePort k) f = m.setStar ch ((m.star ch).filter m.obx.bk (.nodePort k) m.clock f) := rfl

/-- Settles O32: each event's effect on the star is what its own rule makes of it, and the rest of the module stands. -/
theorem starKeepsTheWindows : Obligations.StarKeepsTheWindows := by
  unfold Obligations.StarKeepsTheWindows
  intro s ch k t f
  refine ⟨?_, ?_, ?_, ?_, ?_, ?_, ?_, exec_starPowerUp t s ch⟩
  · intro h
    have hb : ((s.m.advance t).star ch).filter s.m.obx.bk (.nodePort k) (s.m.advance t).clock f
        = { s.m.star ch with verdict := .blocked } := h.elim (Star.filter_disabled _) Star.filter_unbased
    exact (exec_starFrameFilter t s ch f _).trans
      (State.at_becomes s t _ ((Mod.starFilter_nodePort ..).trans (congrArg ((s.m.advance t).setStar ch) hb)))
  · intro off hd hn hw
    refine Completes.of_at (exec_starFrameFilter t s ch f _) ?_
    rw [Mod.starFilter_nodePort, Mod.star_advance, Mod.advance_obx, Star.filter_outside hd hn hw, Mod.star_setStar_self, Star.violation_port]
    exact ⟨⟨rfl, rfl, rfl, Mod.star_setStar_other ..⟩, Star.violation_verdict .., rfl, by rw [hd, Bool.false_or]⟩
  · intro off hd hn hk ho hc hok hl
    refine Completes.of_at (exec_starFrameFilter t s ch f _) ?_
    rw [Mod.starFilter_nodePort, Mod.star_advance, Mod.advance_obx, Star.filter_inside hd hn hk ho hc hok hl, Mod.star_setStar_self]
    exact ⟨⟨rfl, rfl, rfl, Mod.star_setStar_other ..⟩, rfl, congrArg StarPort.viol (Star.port_setPort_self ..)⟩
  · intro mc off claim q last hn hs hl
    have hgrant := Star.grant_cond (ch := ch) hn hs hl
    refine ⟨fun h2 hoff => Completes.of_at (exec_starGrant t s ch) ?_, fun h1 => (exec_starGrant t s ch).trans (State.at_unchanged s t _ ?_)⟩
    · rw [Mod.starGrant, Mod.star_advance, hgrant, if_pos ⟨h2, hoff⟩, Mod.starDo_send, Mod.star_send, Mod.star_setStar_self]
      exact ⟨⟨rfl, rfl, rfl, Mod.star_setStar_other ..⟩, rfl, rfl, _, rfl, rfl⟩
    · rw [Mod.starGrant, Mod.star_advance, hgrant, if_neg fun h => Nat.not_lt.mpr h.1 h1]
      exact Mod.starDo_nothing (s.m.advance t) ch
  · intro p1 t1 t2 g hfirst hfok hgok hfl hgl hft hgt
    have harb := Star.arbitrate_overlap (p1 := p1 % 2) (t1 := t1) (t2 := t2) hfirst
      (Frame.coldStart_of hfok hfl hft) (Frame.coldStart_of hgok hgl hgt)
    refine ⟨fun hlt hov => Completes.of_at (exec_starColdArbitrate ..) ?_, fun heq hlow => Completes.of_at (exec_starColdArbitrate ..) ?_⟩
    · rw [Mod.starCold, Mod.star_advance, harb hlt.le hov, if_pos (by simp [hlt]), Mod.star_setStar_self]
      exact ⟨⟨rfl, rfl, rfl, Mod.star_setStar_other ..⟩, rfl, rfl⟩
    · rw [Mod.starCold, Mod.star_advance, harb heq.le (by omega), if_neg (by simp [heq, hlow.le]), Mod.star_setStar_self]
      rfl
  · intro g hg hk hfirst
    refine Completes.of_at (exec_smgt t s ch f g) ?_
    rw [Mod.starSmgt, Mod.star_advance, Star.smgt_taken g hg hk hfirst, Mod.starDo_send, Mod.star_send, Mod.star_setStar_self]
    have hport := (s.m.star ch).enablePorts_port g.enables k
    have howner := (s.m.star ch).enablePorts_owner g.enables
    refine ⟨⟨rfl, rfl, rfl, Mod.star_setStar_other ..⟩, fun hin => ⟨hport.trans (if_pos hin), ?_⟩, fun hout => hport.trans (if_neg hout),
      ?_, ?_⟩
    · simp [Star.managed, hin]
    · simp [Star.managed, howner]
    · exact List.length_append
  · intro hg hk hfirst
    refine (exec_echo t s ch f _).trans (State.at_becomes s t _ ?_)
    rw [Mod.echoAt, Mod.star_advance, Star.echo_answered hg hk hfirst]
    rfl

end Sys2Proof.Machine
end

