-- ==== Sys2Proof/Proofs/NodePolls.lean ====
section
/-!
SUPPORT and the settled statement on polls at an object controller: which part of a node each stage of a poll changes (07_opbex.md R206 to
R210).
-/
namespace Sys2Proof.Machine

/-! ### What each stage changes -/

section
variable (nd : Node) (bk : ObxBank) (k m : Nat) (ch : Chan)

/-- The latch changes the reply, its number and the waiting events alone (R210). -/
theorem Node.latch_only (off ver : Nat) (i : NodeIn) : ∃ nseq latMcn nulled body nevt,
    nd.latch bk k m off ver i = { nd with nseq := nseq, latMcn := latMcn, nulled := nulled, body := body, nevt := nevt } := by
  unfold Node.latch
  split
  · exact ⟨_, _, _, _, _, rfl⟩
  · exact ⟨_, _, _, _, _, rfl⟩

/-- A poll that passes check 1 begins with the marks of its minor cycle and its version. -/
def Node.entered (ver : Nat) : Node := { nd.enter m with ver := ver }

theorem Node.entered_only (ver : Nat) : ∃ a b, nd.entered m ver = { nd with passA := a, passB := b, ver := ver } := by
  unfold Node.entered Node.enter
  split
  · exact ⟨_, _, rfl⟩
  · exact ⟨_, _, rfl⟩

theorem Node.passed_only : ∃ a b, nd.passed ch = { nd with passA := a, passB := b } := by
  cases ch
  · exact ⟨_, _, rfl⟩
  · exact ⟨_, _, rfl⟩

/-- A reference poll moves the phase alone (R252). -/
theorem Node.reference_only (freq t : Nat) (b : Bytes) : ∃ badRefs aligned nevt psi,
    nd.reference freq t b = { nd with badRefs := badRefs, aligned := aligned, nevt := nevt, psi := psi } := by
  unfold Node.reference
  extract_lets psi a new new'
  split
  · exact ⟨_, _, _, _, rfl⟩
  · split
    · exact ⟨_, _, _, _, rfl⟩
    · exact ⟨_, _, _, _, rfl⟩

/-! ### An accepted poll (R206 to R208) -/

/-- What an accepted poll moves before its commands: HCLAIM and CYC, and with a greater CYC the freshness. -/
def Node.acceptedMarks (b : Bytes) : Node :=
  let n1 : Node := { nd with hclaim := pollClaim b, lastCyc := some (pollCyc b), sfail := false }
  if nd.newer b then { n1 with missed := 0, freshAt := m, fout := false, hsafe := false } else n1

/-- The same after the phase of a reference poll. -/
def Node.acceptedPhase (freq t : Nat) (b : Bytes) : Node :=
  if nd.newer b && bk.phaseNode k && !(pollPhv b) then (nd.acceptedMarks m b).reference freq t b else nd.acceptedMarks m b

theorem Node.accept_stages (freq t : Nat) (b : Bytes) :
    nd.accept bk k freq t m b =
      if (nd.acceptedPhase bk k m freq t b).fout || (nd.acceptedPhase bk k m freq t b).hsafe then nd.acceptedPhase bk k m freq t b
      else (nd.acceptedPhase bk k m freq t b).commands bk k t b := rfl

/-- An accepted poll moves HCLAIM and CYC, and one with a greater CYC ends what its absence brought. -/
theorem Node.acceptedMarks_spec (b : Bytes) :
    (nd.acceptedMarks m b).hclaim = pollClaim b ∧ (nd.acceptedMarks m b).lastCyc = some (pollCyc b) ∧ (nd.acceptedMarks m b).sfail = false ∧
      (nd.newer b = true → (nd.acceptedMarks m b).missed = 0 ∧ (nd.acceptedMarks m b).freshAt = m ∧ (nd.acceptedMarks m b).fout = false ∧
        (nd.acceptedMarks m b).hsafe = false) := by
  by_cases h : nd.newer b = true
  · rw [Node.acceptedMarks, if_pos h]
    exact ⟨rfl, rfl, rfl, fun _ => ⟨rfl, rfl, rfl, rfl⟩⟩
  · rw [Node.acceptedMarks, if_neg h]
    exact ⟨rfl, rfl, rfl, fun hn => absurd hn h⟩

/-- Neither the phase nor the commands change what the poll moved before them. -/
theorem Node.accept_keeps_marks (freq t : Nat) (b : Bytes) : ∃ chans badRefs aligned nevt psi told,
    nd.accept bk k freq t m b = { nd.acceptedMarks m b with
      chans := chans, badRefs := badRefs, aligned := aligned, nevt := nevt, psi := psi, noAlignTold := told } := by
  have hphase : ∃ badRefs aligned nevt psi, nd.acceptedPhase bk k m freq t b =
      { nd.acceptedMarks m b with badRefs := badRefs, aligned := aligned, nevt := nevt, psi := psi } := by
    unfold Node.acceptedPhase
    split
    · exact Node.reference_only ..
    · exact ⟨_, _, _, _, rfl⟩
  obtain ⟨_, _, _, _, hphase⟩ := hphase
  rw [Node.accept_stages]
  split
  · exact ⟨_, _, _, _, _, _, hphase⟩
  · rw [hphase]
    exact ⟨_, _, _, _, _, _, rfl⟩

/-- A command of a node without a phase takes effect at once. -/
theorem Node.commands_channel {t n : Nat} {b : Bytes} (hp : bk.phaseNode k = false) (hn : n < nd.chans.length) :
    (nd.commands bk k t b).chans.getD n NodeChan.reset =
      (let cmd := Bytes.le b (0x1A + n) 1
       let old := nd.chans.getD n NodeChan.reset
       if cmd / 16 % 8 = 0 ∨ old.last = some cmd then old else ⟨some cmd, cmd, none, true⟩) := by
  have hindexed (q : Bool) : (bk.phaseNode k && pollPhv b && q) = false := by rw [hp, Bool.false_and, Bool.false_and]
  simp only [Node.commands, List.map_map, List.getD_eq_getElem?_getD, List.getElem?_map, List.getElem?_range hn, Option.map_some,
    Option.getD_some, Function.comp_apply, hindexed, takeCommand, if_true, apply_ite Prod.fst]

theorem Node.acceptedMarks_chans (b : Bytes) : (nd.acceptedMarks m b).chans = nd.chans :=
  (apply_ite Node.chans _ _ _).trans (ite_self _)

/-- A poll with a greater CYC gives a node without a phase its commands. -/
theorem Node.accept_commands {freq t : Nat} {b : Bytes} (hnew : nd.newer b = true) (hp : bk.phaseNode k = false) :
    nd.accept bk k freq t m b = (nd.acceptedMarks m b).commands bk k t b := by
  have hphase : nd.acceptedPhase bk k m freq t b = nd.acceptedMarks m b := if_neg (by simp [hp])
  obtain ⟨-, -, -, hfresh⟩ := nd.acceptedMarks_spec m b
  obtain ⟨-, -, hfout, hhsafe⟩ := hfresh hnew
  rw [Node.accept_stages, hphase, if_neg (by simp [hfout, hhsafe])]
end

/-! ### The three polls -/

/-- The checks of a poll look at neither the marks nor the version. -/
theorem Node.entered_checks (nd : Node) (m ver mc : Nat) (b : Bytes) :
    (nd.entered m ver).check23 mc b = nd.check23 mc b ∧ (nd.entered m ver).pollOk mc b = nd.pollOk mc b ∧
      (nd.entered m ver).newer b = nd.newer b ∧ (nd.entered m ver).chans = nd.chans := by
  obtain ⟨_, _, h⟩ := nd.entered_only m ver
  rw [h]
  exact ⟨rfl, rfl, rfl, rfl⟩

section
variable (nd : Node) (bk : ObxBank) (k freq t mc off : Nat) (ch : Chan) (f : Frame) (i : NodeIn)

/-- The node between a POLL that passes check 1 and the latch. -/
def Node.polled : Node :=
  if (nd.entered mc (fver f.body)).pollOk mc f.body then ((nd.entered mc (fver f.body)).accept bk k freq t mc f.body).passed ch
  else { nd.entered mc (fver f.body) with sfail := true }
/-- The same of an NPOLL. -/
def Node.npolled : Node := { nd.entered mc (fver f.body) with sfail := !((nd.entered mc (fver f.body)).check23 mc f.body) }
/-- The same of an HPOLL. -/
def Node.hpolled : Node :=
  if (nd.entered mc (fver f.body)).check23 mc f.body then { (nd.entered mc (fver f.body)).safe with hsafe := true, sfail := false }
  else { nd.entered mc (fver f.body) with sfail := true }
/-- A node that latches and answers (R210). -/
def Node.answered : Node × List ObxOut :=
  (nd.latch bk k mc off (fver f.body) i, [.send (.nodeTx k ch) ((nd.latch bk k mc off (fver f.body) i).replyFrame bk k)])

variable {nd bk k freq t mc off ch f i}

theorem Node.poll_passes (hn : nd.now t = some (mc, off)) (h : nd.check1 bk k 0x02 f = true) :
    nd.poll bk k freq ch t f i = (nd.polled bk k freq t mc ch f).answered bk k mc off ch f i := by
  unfold Node.poll
  simp only [hn, h, Bool.true_eq_false, if_false]
  rfl

theorem Node.poll_stopped (hn : nd.now t = some (mc, off)) (h : nd.check1 bk k 0x02 f = false) : nd.poll bk k freq ch t f i = (nd, []) := by
  unfold Node.poll
  simp only [hn, h, if_true]

theorem Node.npoll_passes (hn : nd.now t = some (mc, off)) (h : nd.check1 bk k 0x03 f = true) :
    nd.npoll bk k ch t f i = (nd.npolled mc f).answered bk k mc off ch f i := by
  unfold Node.npoll
  simp only [hn, h, Bool.true_eq_false, if_false]
  rfl

theorem Node.hpoll_passes (hn : nd.now t = some (mc, off)) (h : nd.check1 bk k 0x04 f = true) :
    nd.hpoll bk k ch t f i = (nd.hpolled mc f).answered bk k mc off ch f i := by
  unfold Node.hpoll
  simp only [hn, h, Bool.true_eq_false, if_false]
  rfl

/-- A POLL that fails a later check leaves the node's commands, claim and freshness (R206). -/
theorem Node.polled_refused (h : nd.pollOk mc f.body = false) :
    (nd.polled bk k freq t mc ch f).chans = nd.chans ∧ (nd.polled bk k freq t mc ch f).hclaim = nd.hclaim ∧
      (nd.polled bk k freq t mc ch f).lastCyc = nd.lastCyc ∧ (nd.polled bk k freq t mc ch f).missed = nd.missed ∧
      (nd.polled bk k freq t mc ch f).sfail = true := by
  obtain ⟨-, hpollOk, -, -⟩ := nd.entered_checks mc (fver f.body) mc f.body
  obtain ⟨_, _, henter⟩ := nd.entered_only mc (fver f.body)
  rw [Node.polled, if_neg (by rw [hpollOk, h]; decide), henter]
  exact ⟨rfl, rfl, rfl, rfl, rfl⟩

/-- A POLL that passes moves claim, CYC and freshness. -/
theorem Node.polled_marks (h : nd.pollOk mc f.body = true) :
    let n := nd.polled bk k freq t mc ch f
    n.hclaim = pollClaim f.body ∧ n.lastCyc = some (pollCyc f.body) ∧ n.sfail = false ∧
      (nd.newer f.body = true → n.missed = 0 ∧ n.freshAt = mc ∧ n.fout = false ∧ n.hsafe = false) := by
  obtain ⟨-, hpollOk, hnewer, -⟩ := nd.entered_checks mc (fver f.body) mc f.body
  obtain ⟨_, _, hpassed⟩ := ((nd.entered mc (fver f.body)).accept bk k freq t mc f.body).passed_only ch
  obtain ⟨_, _, _, _, _, _, hmarks⟩ := (nd.entered mc (fver f.body)).accept_keeps_marks bk k mc freq t f.body
  rw [Node.polled, if_pos (hpollOk.trans h), hpassed, hmarks, ← hnewer]
  exact (nd.entered mc (fver f.body)).acceptedMarks_spec mc f.body

/-- It gives the channels of a node without a phase their commands. -/
theorem Node.polled_channel {n : Nat} (h : nd.pollOk mc f.body = true) (hnew : nd.newer f.body = true) (hp : bk.phaseNode k = false)
    (hn : n < nd.chans.length) :
    (nd.polled bk k freq t mc ch f).chans.getD n NodeChan.reset =
      (let cmd := Bytes.le f.body (0x1A + n) 1
       let old := nd.chans.getD n NodeChan.reset
       if cmd / 16 % 8 = 0 ∨ old.last = some cmd then old else ⟨some cmd, cmd, none, true⟩) := by
  obtain ⟨-, hpollOk, hnewer, hchans⟩ := nd.entered_checks mc (fver f.body) mc f.body
  obtain ⟨_, _, hpassed⟩ := ((nd.entered mc (fver f.body)).accept bk k freq t mc f.body).passed_only ch
  have hold := ((nd.entered mc (fver f.body)).acceptedMarks_chans mc f.body).trans hchans
  rw [Node.polled, if_pos (hpollOk.trans h), hpassed, Node.accept_commands _ _ _ _ (hnewer.trans hnew) hp, ← hold]
  exact Node.commands_channel _ bk k hp (hold.symm ▸ hn)

theorem Node.npolled_keeps :
    (nd.npolled mc f).chans = nd.chans ∧ (nd.npolled mc f).hclaim = nd.hclaim ∧ (nd.npolled mc f).missed = nd.missed := by
  obtain ⟨_, _, henter⟩ := nd.entered_only mc (fver f.body)
  rw [Node.npolled, henter]
  exact ⟨rfl, rfl, rfl⟩

theorem Node.hpolled_safe (h : nd.check23 mc f.body = true) :
    (nd.hpolled mc f).hsafe = true ∧ ∀ c ∈ (nd.hpolled mc f).chans, c.applied = 0x70 ∧ c.last = none ∧ c.pend = none := by
  obtain ⟨h23, -, -, -⟩ := nd.entered_checks mc (fver f.body) mc f.body
  rw [Node.hpolled, if_pos (h23.trans h)]
  refine ⟨rfl, fun c hc => ?_⟩
  obtain ⟨_, -, rfl⟩ := List.mem_map.mp hc
  exact ⟨rfl, rfl, rfl⟩

theorem Node.hpolled_refused (h : nd.check23 mc f.body = false) : (nd.hpolled mc f).chans = nd.chans ∧ (nd.hpolled mc f).sfail = true := by
  obtain ⟨h23, -, -, hchans⟩ := nd.entered_checks mc (fver f.body) mc f.body
  rw [Node.hpolled, if_neg (by rw [h23, h]; decide)]
  exact ⟨hchans, rfl⟩
end

/-! ### The commands -/

section
variable (t : Nat) (s : State) (k : Nat) (ch : Chan) (f : Frame) (i : NodeIn)
theorem exec_nodePollAccept : exec (.nodePollAccept k ch f i t) s = s.at t fun m => m.nodePoll k ch f i := rfl
theorem exec_nodeNpoll : exec (.nodeNpoll k ch f i t) s = s.at t fun m => m.nodeNpoll k ch f i := rfl
theorem exec_nodeHpoll : exec (.nodeHpoll k ch f i t) s = s.at t fun m => m.nodeHpoll k ch f i := rfl
end

/-- A node that latches and answers changes itself alone, and its reply is all that leaves the module. -/
theorem Mod.nodeDo_answered (m : Mod) (n : Node) (bk : ObxBank) (k mc off : Nat) (ch : Chan) (f : Frame) (i : NodeIn) :
    let m1 := m.nodeDo k (n.answered bk k mc off ch f i)
    m1.lanes = m.lanes ∧ m1.obx = m.obx ∧ m1.sent = m.sent ++ [⟨m.clock, .nodeTx k ch, (m1.node k).replyFrame bk k⟩] ∧
      ∀ j, j ≠ k → m1.node j = m.node j := by
  intro m1
  have hk : m1.node k = n.latch bk k mc off (fver f.body) i := m.node_setNode_self k _
  exact ⟨rfl, rfl, by rw [hk]; rfl, fun j hj => m.node_setNode_ne _ hj⟩

/-- The node after it: the latch changed the reply alone. -/
theorem Mod.node_nodeDo_answered (m : Mod) (n : Node) (bk : ObxBank) (k mc off : Nat) (ch : Chan) (f : Frame) (i : NodeIn) :
    ∃ nseq latMcn nulled body nevt, (m.nodeDo k (n.answered bk k mc off ch f i)).node k =
      { n with nseq := nseq, latMcn := latMcn, nulled := nulled, body := body, nevt := nevt } := by
  obtain ⟨_, _, _, _, _, h⟩ := n.latch_only bk k mc off (fver f.body) i
  exact ⟨_, _, _, _, _, (m.node_setNode_self k _).trans h⟩

/-- Settles O30: each poll goes through its stages, and the lemma of each stage says which part of the node it may change. -/
theorem nodeObeysOnlyPollsThatPass : Obligations.NodeObeysOnlyPollsThatPass := by
  unfold Obligations.NodeObeysOnlyPollsThatPass
  intro s k ch f i t mc off m0 bk nd answers hnow
  refine ⟨fun h1 => ?_, fun h1 => ?_, fun h1 => ?_, fun h1 hc => ?_, fun h1 hc => ?_⟩
  · refine Completes.of_at (exec_nodePollAccept t s k ch f i) ?_
    rw [Mod.nodePoll, show (m0.node k).poll m0.obx.bk k m0.phcfg.freq ch m0.clock f i = _ from Node.poll_passes hnow h1]
    refine ⟨Mod.nodeDo_answered m0 _ bk k mc off ch f i, ?_⟩
    obtain ⟨_, _, _, _, _, hnode⟩ := m0.node_nodeDo_answered
      ((m0.node k).polled m0.obx.bk k m0.phcfg.freq m0.clock mc ch f) m0.obx.bk k mc off ch f i
    rw [show ((s.m.advance t).nodeDo k _).node k = _ from hnode]
    refine ⟨fun hno => Node.polled_refused hno, fun hok => ?_⟩
    obtain ⟨hclaim, hcyc, hsfail, hfresh⟩ := Node.polled_marks (bk := bk) (k := k) (freq := m0.phcfg.freq) (t := m0.clock) (ch := ch) hok
    refine ⟨hclaim, hcyc, hsfail, fun hnew => ?_⟩
    obtain ⟨hmissed, hat, hfout, hhsafe⟩ := hfresh hnew
    exact ⟨hmissed, hat, hfout, hhsafe, fun hp n hn => Node.polled_channel hok hnew hp hn⟩
  · refine Completes.of_at (exec_nodePollAccept t s k ch f i) ?_
    rw [Mod.nodePoll, show (m0.node k).poll m0.obx.bk k m0.phcfg.freq ch m0.clock f i = _ from Node.poll_stopped hnow h1]
    exact ⟨rfl, fun j => m0.node_setNode_same k j⟩
  · refine Completes.of_at (exec_nodeNpoll t s k ch f i) ?_
    rw [Mod.nodeNpoll, show (m0.node k).npoll m0.obx.bk k ch m0.clock f i = _ from Node.npoll_passes hnow h1]
    refine ⟨Mod.nodeDo_answered m0 _ bk k mc off ch f i, ?_⟩
    obtain ⟨_, _, _, _, _, hnode⟩ := m0.node_nodeDo_answered ((m0.node k).npolled mc f) m0.obx.bk k mc off ch f i
    rw [show ((s.m.advance t).nodeDo k _).node k = _ from hnode]
    exact Node.npolled_keeps (f := f)
  · refine Completes.of_at (exec_nodeHpoll t s k ch f i) ?_
    rw [Mod.nodeHpoll, show (m0.node k).hpoll m0.obx.bk k ch m0.clock f i = _ from Node.hpoll_passes hnow h1]
    refine ⟨Mod.nodeDo_answered m0 _ bk k mc off ch f i, ?_⟩
    obtain ⟨_, _, _, _, _, hnode⟩ := m0.node_nodeDo_answered ((m0.node k).hpolled mc f) m0.obx.bk k mc off ch f i
    rw [show ((s.m.advance t).nodeDo k _).node k = _ from hnode]
    exact Node.hpolled_safe hc
  · refine Completes.of_at (exec_nodeHpoll t s k ch f i) ?_
    rw [Mod.nodeHpoll, show (m0.node k).hpoll m0.obx.bk k ch m0.clock f i = _ from Node.hpoll_passes hnow h1]
    refine ⟨Mod.nodeDo_answered m0 _ bk k mc off ch f i, ?_⟩
    obtain ⟨_, _, _, _, _, hnode⟩ := m0.node_nodeDo_answered ((m0.node k).hpolled mc f) m0.obx.bk k mc off ch f i
    rw [show ((s.m.advance t).nodeDo k _).node k = _ from hnode]
    exact Node.hpolled_refused hc

end Sys2Proof.Machine
end

