-- ==== Sys2Proof/Proofs/NodeTimers.lean ====
section
/-!
SUPPORT and the settled statement on an object controller's timers and other frames: freshness, CYC, commit indices, echoes, the sense input and
the reset (07_opbex.md R197, R198, R208, R230; 08_phase_and_time.md R252, R253).
-/
namespace Sys2Proof.Machine

section
variable {nd : Node} {bk : ObxBank} {k t : Nat} {ch : Chan} {f : Frame}

/-! ### Freshness (R208) -/

theorem Node.expire_due {p : Nat × Nat} (hn : nd.now t = some p) (hc : bk.cls k ≠ 0) (hf : bk.fto k ≤ nd.count bk k t) :
    nd.expire bk k t = { nd.safe with fout := true } := by
  unfold Node.expire
  simp only [hn]
  exact if_pos ⟨hc, hf⟩

theorem Node.expire_early (hf : nd.count bk k t < bk.fto k) : nd.expire bk k t = nd := by
  unfold Node.expire
  split
  · rfl
  · exact if_neg fun h => Nat.not_lt.mpr h.2 hf

/-! ### CYC (R230) -/

theorem Node.now_of_unbased (h : nd.base = none) : nd.now t = none := by rw [Node.now, h]
theorem Node.now_of_based (h : nd.base.isSome = true) : ∃ m off, nd.now t = some (m, off) := by
  obtain ⟨b, hb⟩ := Option.isSome_iff_exists.mp h
  exact ⟨_, _, by rw [Node.now, hb]⟩

/-- The first CYC after a reset sets the time base. -/
theorem Node.cyc_first (freq : Nat) (hg : f.good 0x01 = true) (hb : nd.base = none) :
    nd.cyc bk k freq ch t f =
      { nd with base := some (t - bk.dkNom k ch), mcn := cycMcn f.body, l8 := cycL f.body == 8, cycAt := t, freshAt := cycMcn f.body,
                latMcn := none, psi := if nd.sense then nd.psi else Phi.synthetic freq (nominalTicks freq (cycInst f.body)) t } := by
  unfold Node.cyc
  simp only [hg, Bool.true_eq_false, if_false, Node.now_of_unbased hb]

/-- A later one without FLAGS.FIRST changes the cycle length and the count of missed polls at most. -/
theorem Node.cyc_later (freq : Nat) (hg : f.good 0x01 = true) (hfl : (cycFlags f.body).testBit 1 = false) (hb : nd.base.isSome = true) :
    ∃ l8 missed freshAt, nd.cyc bk k freq ch t f = { nd with cycAt := t, l8 := l8, missed := missed, freshAt := freshAt } := by
  obtain ⟨m, off, hn⟩ := Node.now_of_based (t := t) hb
  unfold Node.cyc
  simp only [hg, Bool.true_eq_false, Bool.false_eq_true, if_false, hn, hfl]
  split
  · exact ⟨_, _, _, rfl⟩
  · exact ⟨_, _, _, rfl⟩

/-- 1 s without a CYC clears the claim. -/
theorem Node.clearClaim_due (hb : nd.base.isSome = true) (ht : nd.cycAt + 1000000000 ≤ t) :
    nd.clearClaim t = { nd with hclaim := 0, lastCyc := none } := if_pos ⟨hb, ht⟩
theorem Node.clearClaim_early (ht : t < nd.cycAt + 1000000000) : nd.clearClaim t = nd := if_neg fun h => Nat.not_lt.mpr h.2 ht

/-! ### Commit indices (R253) -/

/-- A channel at phase index `p`: a pending command that it has reached is applied. -/
def NodeChan.commitAt (p : Nat) (c : NodeChan) : NodeChan :=
  match c.pend with
  | some (target, cmd) => if target ≤ p then ⟨c.last, cmd, none, true⟩ else c
  | none => c
theorem Node.commit_chans : (nd.commit t).chans = nd.chans.map (NodeChan.commitAt (nd.psi.at t)) := rfl

theorem NodeChan.commitAt_pending {p target cmd : Nat} {c : NodeChan} (h : c.pend = some (target, cmd)) :
    c.commitAt p = if target ≤ p then ⟨c.last, cmd, none, true⟩ else c := by
  unfold NodeChan.commitAt
  rw [h]

/-- A channel that waits does so alone. -/
theorem Node.commit_channel {n target cmd : Nat} (hn : n < nd.chans.length)
    (h : (nd.chans.getD n NodeChan.reset).pend = some (target, cmd)) :
    (nd.commit t).chans.getD n NodeChan.reset =
      if target ≤ nd.psi.at t then ⟨(nd.chans.getD n NodeChan.reset).last, cmd, none, true⟩ else nd.chans.getD n NodeChan.reset := by
  rw [← NodeChan.commitAt_pending h, Node.commit_chans]
  simp [List.getD_eq_getElem?_getD, hn]

/-! ### Echoes, management and the sense input (R197, R198, R252) -/

section
variable (hb : nd.base.isSome = true) (hm : fromModule bk f.body = true) (hk : faddr f.body = k)
include hb hm hk

/-- An ECHO for the node under a module's key gives it its delays and is answered. -/
theorem Node.echo_taken (hg : f.good 0x40 = true) :
    nd.echo bk k ch f = ({ nd with dlyA := Bytes.le f.body 8 4, dlyB := Bytes.le f.body 0xC 4 },
      [.send (.nodeTx k ch) (echoFrame 0x41 k (Bytes.le f.body 4 4) (Bytes.le f.body 8 4) (Bytes.le f.body 0xC 4) (echoWin f.body)
        (Config.farLinkKey k))]) := by
  obtain ⟨b, hb⟩ := Option.isSome_iff_exists.mp hb
  exact if_neg (by simp [hb, hm, hk, hg])

theorem Node.acyc_taken (content : Bytes) (hg : f.good 0x60 = true) :
    nd.acyc bk k ch f content =
      [.send (.nodeTx k ch) (linkSealed (Config.farLinkKey k) (fhead 0x61 (fver f.body) k ++ content.take 180))] := by
  obtain ⟨b, hb⟩ := Option.isSome_iff_exists.mp hb
  exact if_neg (by simp [hb, hm, hk, hg])
end

/-- A change of the sense input moves the phase, and its loss is reported. -/
theorem Node.senseChange_gained (freq tick mhz : Nat) (h : nd.sense = false) :
    ∃ psi, nd.senseChange freq t true tick mhz = { nd with sense := true, psi := psi } :=
  ⟨_, if_neg (by rw [h]; decide)⟩
theorem Node.senseChange_lost (freq tick mhz : Nat) (h : nd.sense = true) :
    nd.senseChange freq t false tick mhz =
      { nd with sense := false, psi := Phi.synthetic freq (nd.psi.at t) t, nevt := nd.nevt ++ [0x0303] } :=
  if_neg (by rw [h]; decide)
end

/-! ### The commands -/

section
variable (t : Nat) (s : State) (k : Nat) (ch : Chan) (f : Frame)
theorem exec_nodeFreshnessExpire : exec (.nodeFreshnessExpire k t) s = s.at t fun m => m.setNode k ((m.node k).expire m.obx.bk k m.clock) := rfl
theorem exec_nodeCycReceive :
    exec (.nodeCycReceive k ch f t) s = s.at t fun m => m.setNode k ((m.node k).cyc m.obx.bk k m.phcfg.freq ch m.clock f) := rfl
theorem exec_nodeHclaimClear : exec (.nodeHclaimClear k t) s = s.at t fun m => m.setNode k ((m.node k).clearClaim m.clock) := rfl
theorem exec_nodeCommitReached : exec (.nodeCommitReached k t) s = s.at t fun m => m.setNode k ((m.node k).commit m.clock) := rfl
theorem exec_acyc (content : Bytes) : exec (.acyc k ch f content t) s = s.at t fun m => m.nodeAcyc k ch f content := rfl
theorem exec_nodeSenseInputChange (valid : Bool) (tick mhz : Nat) :
    exec (.nodeSenseInputChange k valid tick mhz t) s =
      s.at t fun m => m.setNode k ((m.node k).senseChange m.phcfg.freq m.clock valid tick mhz) := rfl
theorem exec_nodeReset : exec (.nodeReset k t) s = s.at t fun m => m.setNode k Node.reset := rfl
end

/-- A command that sets a node completes with what holds of the module with the node so set. -/
theorem Completes.of_setNode {c : Instr} {s : State} {t k : Nat} {g : Mod → Node} {n : Node} {P : Mod → Prop}
    (hc : exec c s = s.at t fun m => m.setNode k (g m)) (hn : g (s.m.advance t) = n) (hp : P ((s.m.advance t).setNode k n)) :
    Completes c s P := Completes.of_at hc (by rw [hn]; exact hp)

/-- A node that stands leaves every node. -/
theorem Completes.of_node_same {c : Instr} {s : State} {t k : Nat} {g : Mod → Node} (hc : exec c s = s.at t fun m => m.setNode k (g m))
    (hn : g (s.m.advance t) = s.m.node k) : Completes c s fun m => ∀ j, m.node j = s.m.node j :=
  Completes.of_setNode hc hn fun j => (s.m.advance t).node_setNode_same k j

/-- Settles O31: each event is one branch of its rule at the node. -/
theorem nodeTimersAndFramesTakeEffect : Obligations.NodeTimersAndFramesTakeEffect := by
  unfold Obligations.NodeTimersAndFramesTakeEffect
  intro s k ch f t m0 bk nd now
  refine ⟨fun p hn hc hf => ?_, fun hf => ?_, fun hg hb => ?_, fun hg hfl hb => ?_, fun hb ht => ?_, fun ht => ?_, fun n target cmd hn hp => ?_,
    fun hg hk hm hb => ?_, fun content hg hk hm hb => ?_, fun tick mhz hs => ?_, fun tick mhz hs => ?_, ?_⟩
  · refine Completes.of_setNode (exec_nodeFreshnessExpire t s k) (Node.expire_due hn hc hf) ?_
    rw [Mod.node_setNode_self]
    refine ⟨rfl, fun c hc => ?_⟩
    obtain ⟨_, -, rfl⟩ := List.mem_map.mp hc
    exact ⟨rfl, rfl⟩
  · exact Completes.of_node_same (exec_nodeFreshnessExpire t s k) (Node.expire_early hf)
  · refine Completes.of_setNode (exec_nodeCycReceive t s k ch f) (Node.cyc_first _ hg hb) ?_
    rw [Mod.node_setNode_self]
    exact ⟨rfl, rfl, rfl, rfl, rfl⟩
  · obtain ⟨_, _, _, hcyc⟩ := Node.cyc_later (bk := bk) (k := k) (t := now) (ch := ch) m0.phcfg.freq hg hfl hb
    refine Completes.of_setNode (exec_nodeCycReceive t s k ch f) hcyc ?_
    rw [Mod.node_setNode_self]
    exact ⟨rfl, rfl, rfl, rfl, rfl⟩
  · refine Completes.of_setNode (exec_nodeHclaimClear t s k) (Node.clearClaim_due hb ht) ?_
    rw [Mod.node_setNode_self]
    exact ⟨rfl, rfl⟩
  · exact Completes.of_node_same (exec_nodeHclaimClear t s k) (Node.clearClaim_early ht)
  · refine Completes.of_setNode (exec_nodeCommitReached t s k) rfl ?_
    have hcommit := Node.commit_channel (t := now) hn hp
    rw [Mod.node_setNode_self]
    refine ⟨fun hle => ?_, fun hlt => hcommit.trans (if_neg (Nat.not_le.mpr hlt))⟩
    rw [show ((m0.node k).commit m0.clock).chans.getD n NodeChan.reset = _ from hcommit.trans (if_pos hle)]
    exact ⟨rfl, rfl⟩
  · refine Completes.of_at (exec_echo t s ch f (.node k)) ?_
    rw [Mod.echoAt, show (m0.node k).echo m0.obx.bk k ch f = _ from Node.echo_taken hb hm hk hg, Mod.nodeDo_send, Mod.node_send,
      Mod.node_setNode_self]
    exact ⟨rfl, rfl, rfl, List.length_append⟩
  · exact (exec_acyc t s k ch f content).trans
      (State.at_becomes s t _ (congrArg (s.m.advance t).obxOuts (Node.acyc_taken hb hm hk content hg)))
  · obtain ⟨_, hgain⟩ := Node.senseChange_gained (t := now) m0.phcfg.freq tick mhz hs
    refine Completes.of_setNode (exec_nodeSenseInputChange t s k true tick mhz) hgain ?_
    rw [Mod.node_setNode_self]
    exact ⟨rfl, rfl, rfl⟩
  · refine Completes.of_setNode (exec_nodeSenseInputChange t s k false tick mhz) (Node.senseChange_lost _ tick mhz hs) ?_
    rw [Mod.node_setNode_self]
    exact ⟨rfl, rfl, rfl⟩
  · refine Completes.of_setNode (exec_nodeReset t s k) rfl ?_
    rw [Mod.node_setNode_self]
    exact ⟨rfl, rfl, rfl, fun j hj => m0.node_setNode_ne _ hj⟩

end Sys2Proof.Machine
end

