-- ==== Sys2Proof/Proofs/ObxOutputs.lean ====
section
/-!
SUPPORT. What the outputs of the channel controllers do to the module: they reach the lanes, Amber and the lines, and change nothing else; and
only an item that is delivered reaches a lane beyond its view registers (07_opbex.md R211, R234).
-/
namespace Sys2Proof.Machine

/-! ### What stands -/

theorem Mod.obxOut_only (m : Mod) (o : ObxOut) : ∃ lanes amber sent, m.obxOut o = { m with lanes := lanes, amber := amber, sent := sent } := by
  cases o with
  | item ch i => exact ⟨_, _, _, m.deliver_lanes_only _ i⟩
  | _ => exact ⟨_, _, _, rfl⟩

theorem Mod.obxOuts_only (m : Mod) (os : List ObxOut) :
    ∃ lanes amber sent, m.obxOuts os = { m with lanes := lanes, amber := amber, sent := sent } := by
  induction os generalizing m with
  | nil => exact ⟨_, _, _, rfl⟩
  | cons o os ih =>
    obtain ⟨_, _, _, hos⟩ := ih (m.obxOut o)
    obtain ⟨_, _, _, ho⟩ := m.obxOut_only o
    rw [ho] at hos
    exact ⟨_, _, _, (congrArg (Mod.obxOuts · os) ho).trans hos⟩

@[simp] theorem Mod.obxOuts_obx (m : Mod) (os : List ObxOut) : (m.obxOuts os).obx = m.obx := by
  obtain ⟨_, _, _, h⟩ := m.obxOuts_only os
  rw [h]

@[simp] theorem Mod.obxDo_obx (m : Mod) (r : Obx × List ObxOut) : (m.obxDo r).obx = r.1 := Mod.obxOuts_obx ..
theorem Mod.obxOuts_append (m : Mod) (xs ys : List ObxOut) : m.obxOuts (xs ++ ys) = (m.obxOuts xs).obxOuts ys := List.foldl_append ..

/-! ### The lanes -/

/-- What an output other than an item does to a lane's view registers. -/
def ObxOut.onView : ObxOut → ObxLane → ObxLane
  | .irq w, v => { v with irq := v.irq ||| w }
  | .err code level, v => v.error code level
  | .viol .a n, v => { v with violA := min 0xFFFF (v.violA + n) }
  | .viol .b n, v => { v with violB := min 0xFFFF (v.violB + n) }
  | _, v => v

/-- Whether an output delivers nothing. -/
def ObxOut.quiet : ObxOut → Bool
  | .item _ _ => false
  | _ => true

theorem Mod.lane_map_view (m : Mod) (g : ObxLane → ObxLane) (x : Lane) :
    ({ m with lanes := m.lanes.map fun l => { l with obx := g l.obx } } : Mod).lane x = { m.lane x with obx := g (m.lane x).obx } :=
  PerLane.get_map ..

theorem Mod.obxOut_lane (m : Mod) (o : ObxOut) (x : Lane) (h : o.quiet = true) :
    (m.obxOut o).lane x = { m.lane x with obx := o.onView (m.lane x).obx } := by
  cases o with
  | item ch i => cases h
  | send d b => rfl
  | evt e => rfl
  | irq w => exact m.lane_map_view (ObxOut.irq w).onView x
  | err c l => exact m.lane_map_view (ObxOut.err c l).onView x
  | viol ch n =>
    cases ch
    · exact m.lane_map_view (ObxOut.viol .a n).onView x
    · exact m.lane_map_view (ObxOut.viol .b n).onView x

/-- Outputs that deliver nothing change the view registers of each lane one after the other, and nothing else of it. -/
theorem Mod.obxOuts_lane (m : Mod) (os : List ObxOut) (x : Lane) (h : ∀ o ∈ os, o.quiet = true) :
    (m.obxOuts os).lane x = { m.lane x with obx := os.foldl (fun v o => o.onView v) (m.lane x).obx } := by
  induction os generalizing m with
  | nil => rfl
  | cons o os ih =>
    refine (ih (m.obxOut o) fun q hq => h q (List.mem_cons_of_mem o hq)).trans ?_
    rw [m.obxOut_lane o x (h o List.mem_cons_self)]
    rfl

/-- The state of the controllers is none of the lanes. -/
theorem Mod.obxDo_lane (m : Mod) (r : Obx × List ObxOut) (x : Lane) (h : ∀ o ∈ r.2, o.quiet = true) :
    (m.obxDo r).lane x = { m.lane x with obx := r.2.foldl (fun v o => o.onView v) (m.lane x).obx } :=
  Mod.obxOuts_lane _ r.2 x h

/-! ### The two channels -/

theorem Obx.ch_setCh_other (o : Obx) (ch : Chan) (c : ObxCh) : (o.setCh ch c).ch ch.other = o.ch ch.other := by cases ch <;> rfl
/-- A channel controller's own state is all that `setCh` changes. -/
theorem Obx.setCh_only (o : Obx) (ch : Chan) (c : ObxCh) : ∃ a b, o.setCh ch c = { o with chA := a, chB := b } := by
  cases ch
  · exact ⟨_, _, rfl⟩
  · exact ⟨_, _, rfl⟩

end Sys2Proof.Machine
end

