-- ==== Sys2Proof/Proofs/MinorCycle.lean ====
section
/-!
SUPPORT and the settled statement on the master's minor cycle: its start, polls, marker, management and echo (07_opbex.md R190 to R202, R211,
R215, R218).
-/
namespace Sys2Proof.Machine

section
variable (o : Obx) (t sid : Nat) (full : Bool)

/-! ### The start of a minor cycle (R190, R202, R218) -/

/-- Whether the boundary of the switch that waits has come by minor cycle `n`. -/
def Obx.switchDue (n : Nat) : Bool :=
  match o.swAt with
  | some b => decide (b ≤ n)
  | none => false

theorem Obx.doSwitch_cond (n : Nat) :
    o.doSwitch n = if o.switchDue n then ({ o with bank := !o.bank, swAt := none }, true) else (o, false) := by
  cases h : o.swAt with
  | none => simp [Obx.doSwitch, Obx.switchDue, h]
  | some b => simp [Obx.doSwitch, Obx.switchDue, h]

/-- A bank switch changes the bank in force and the switch that waits alone. -/
theorem Obx.doSwitch_only (n : Nat) : ∃ swAt, (o.doSwitch n).1 = { o with bank := if o.switchDue n then !o.bank else o.bank, swAt := swAt } := by
  rw [Obx.doSwitch_cond]
  split
  · exact ⟨_, rfl⟩
  · exact ⟨_, rfl⟩

/-- The controllers at the beginning of minor cycle `n`, with their bank in force. -/
def Obx.beginAt (n : Nat) : Obx :=
  let l8 := if n % 8 = 0 ∧ o.master = true then !full else o.majL8
  let major := n % (if l8 then 8 else 4) == 0
  { o with mcn := n, started := true, majL8 := l8, passed := [], ages := o.agedNodes,
           chA := o.chA.newCycle major, chB := o.chB.newCycle major, sync := { o.sync with ds := [] } }
/-- The controllers in the minor cycle that begins. -/
def Obx.begun : Obx := (o.doSwitch o.nextN).1.beginAt full o.nextN

/-- The CYC of the minor cycle that begins. -/
def Obx.begunCyc : Bytes :=
  let b := o.begun full
  cycFrame sid o.nextN b.claim b.majL (b2n b.bank) (b2n b.hpoll + 2 * b2n (b.first && o.nextN == 0)) (b.mcs o.nextN)

theorem Obx.minorStart_due (hr : o.running = true) (ht : o.mcs o.nextN ≤ o.net t) :
    o.minorStart t sid full =
      (o.begun full, (if (o.begun full).master then bothCh (o.begunCyc sid full) else [])
        ++ if (o.doSwitch o.nextN).2 then [.irq irqSWITCH] else []) :=
  if_neg (by simp [hr, Nat.not_lt.mpr ht])

theorem Obx.minorStart_early (ht : o.net t < o.mcs o.nextN) : o.minorStart t sid full = (o, []) := if_pos (Or.inr ht)

/-- What the beginning leaves and what it makes. -/
theorem Obx.begun_spec :
    (o.begun full).master = o.master ∧ (o.begun full).claim = o.claim ∧ (o.begun full).hpoll = o.hpoll ∧ (o.begun full).first = o.first ∧
      (o.begun full).t0 = o.t0 ∧ (o.begun full).bank = (if o.switchDue o.nextN then !o.bank else o.bank) ∧
      (o.begun full).majL8 = (if o.nextN % 8 = 0 ∧ o.master = true then !full else o.majL8) := by
  obtain ⟨_, h⟩ := o.doSwitch_only o.nextN
  rw [Obx.begun, h]
  exact ⟨rfl, rfl, rfl, rfl, rfl, rfl, rfl⟩

theorem Obx.begun_mcn : (o.begun full).mcn = o.nextN := rfl

/-- Either the number or the mark that minor cycles run changes. -/
theorem Obx.begun_differs : ¬ ((o.begun full).mcn = o.mcn ∧ (o.begun full).started = o.started) := by
  rintro ⟨hmcn, hstarted⟩
  rw [Obx.begun_mcn, Obx.nextN, if_pos (show o.started = true from hstarted.symm)] at hmcn
  omega

theorem Obx.begunCyc_eq :
    o.begunCyc sid full =
      cycFrame sid o.nextN o.claim (o.begun full).majL (b2n (o.begun full).bank) (b2n o.hpoll + 2 * b2n (o.first && o.nextN == 0))
        (o.t0 + 4000000 * o.nextN) := by
  obtain ⟨-, hclaim, hhpoll, hfirst, ht0, -, -⟩ := o.begun_spec full
  rw [Obx.begunCyc, hclaim, hhpoll, hfirst, Obx.mcs, ht0]
end

/-! ### The module in the minor cycle that begins -/

@[simp] theorem Mod.switched_obx (m : Mod) (bank : Bool) : (m.switched bank).obx = m.obx := by
  unfold Mod.switched
  split <;> rfl
@[simp] theorem Mod.switched_sent (m : Mod) (bank : Bool) : (m.switched bank).sent = m.sent := by
  unfold Mod.switched
  split <;> rfl

theorem Mod.switched_lane (m : Mod) (bank : Bool) (x : Lane) :
    (m.switched bank).lane x = if m.obx.bank = bank then m.lane x else (m.lane x).afterSwitch m.obx.bk := by
  unfold Mod.switched
  split
  · rfl
  · exact PerLane.get_map ..

/-- A bank switch keeps the cycle points. -/
theorem Mod.switched_cps (m : Mod) (bank : Bool) (x : Lane) : ((m.switched bank).lane x).obx.cps = (m.lane x).obx.cps := by
  rw [m.switched_lane]
  split <;> rfl

/-- The cycle points of every lane take their new definitions. -/
def Mod.newPoints (m : Mod) : Mod := { m with lanes := m.lanes.map fun l => { l with obx := l.obx.newCycle } }
theorem Mod.newPoints_lane (m : Mod) (x : Lane) : m.newPoints.lane x = { m.lane x with obx := (m.lane x).obx.newCycle } := PerLane.get_map ..

theorem Mod.minorStart_due (m : Mod) (hr : m.obx.running = true) (ht : m.obx.mcs m.obx.nextN ≤ m.obx.net m.clock) :
    m.minorStart = ((m.obxDo (m.obx.minorStart m.clock m.sid (m.service == .full))).newPoints).switched m.obx.bank := by
  refine if_neg ?_
  rw [Mod.obxDo_obx, m.obx.minorStart_due _ _ _ hr ht]
  exact m.obx.begun_differs _

theorem Mod.minorStart_early (m : Mod) (ht : m.obx.net m.clock < m.obx.mcs m.obx.nextN) : m.minorStart = m := by
  have hr : m.obx.minorStart m.clock m.sid (m.service == .full) = (m.obx, []) := m.obx.minorStart_early _ _ _ ht
  unfold Mod.minorStart
  rw [hr]
  exact if_pos ⟨rfl, rfl⟩

/-- The switch interrupt of a minor cycle that begins leaves what has been sent, and no view of the points. -/
theorem Mod.obxOuts_switch (m : Mod) (sw : Bool) :
    (m.obxOuts (if sw then [.irq irqSWITCH] else [])).sent = m.sent ∧
      ∀ x, ((m.obxOuts (if sw then [.irq irqSWITCH] else [])).lane x).obx.cpNext = (m.lane x).obx.cpNext := by
  cases sw with
  | false => exact ⟨rfl, fun _ => rfl⟩
  | true => exact ⟨rfl, fun x => (congrArg (fun l : LaneSt => l.obx.cpNext) (m.obxOut_lane (.irq irqSWITCH) x rfl) :)⟩

/-- The frame and the interrupt of a minor cycle that begins: on the lines the CYC of a master, on the lanes nothing of the points. -/
theorem Mod.obxDo_begun (m : Mod) (o1 : Obx) (master sw : Bool) (b : Bytes) :
    let m1 := m.obxDo (o1, (if master then bothCh b else []) ++ if sw then [.irq irqSWITCH] else [])
    m1.sent = m.sent ++ (if master then [⟨m.clock, .opbex .a, b⟩, ⟨m.clock, .opbex .b, b⟩] else []) ∧
      ∀ x, (m1.lane x).obx.cpNext = (m.lane x).obx.cpNext := by
  intro m1
  have hm1 : m1 = (({ m with obx := o1 } : Mod).obxOuts (if master then bothCh b else [])).obxOuts (if sw then [.irq irqSWITCH] else []) :=
    Mod.obxOuts_append ..
  obtain ⟨hsent, hlane⟩ := (({ m with obx := o1 } : Mod).obxOuts (if master then bothCh b else [])).obxOuts_switch sw
  rw [hm1, hsent]
  cases master with
  | false => exact ⟨(List.append_nil _).symm, hlane⟩
  | true => exact ⟨List.append_assoc .., hlane⟩

/-- The module in the minor cycle that begins: its controllers, its cycle points and what has been sent. -/
theorem Mod.minorStart_spec (m : Mod) (hr : m.obx.running = true) (ht : m.obx.mcs m.obx.nextN ≤ m.obx.net m.clock) :
    m.minorStart.obx = m.obx.begun (m.service == .full) ∧ (∀ x, (m.minorStart.lane x).obx.cps = (m.lane x).obx.cpNext) ∧
      m.minorStart.sent = m.sent ++ (if (m.obx.begun (m.service == .full)).master then
        [⟨m.clock, .opbex .a, m.obx.begunCyc m.sid (m.service == .full)⟩, ⟨m.clock, .opbex .b, m.obx.begunCyc m.sid (m.service == .full)⟩]
        else []) := by
  rw [m.minorStart_due hr ht, m.obx.minorStart_due _ _ _ hr ht]
  obtain ⟨hsent, hpoints⟩ := m.obxDo_begun (m.obx.begun (m.service == .full)) (m.obx.begun (m.service == .full)).master
    (m.obx.doSwitch m.obx.nextN).2 (m.obx.begunCyc m.sid (m.service == .full))
  refine ⟨(Mod.switched_obx ..).trans (Mod.obxDo_obx ..), fun x => ?_, (Mod.switched_sent ..).trans hsent⟩
  rw [Mod.switched_cps, Mod.newPoints_lane]
  exact hpoints x

/-! ### Polls, the marker, management and echoes -/

section
variable {o : Obx} {ch : Chan} {k t : Nat}

theorem Obx.assemble_due {ver : Nat} (hp : o.polls ch k = true) (ht : o.pollOff ch k - 5000 ≤ o.off t) :
    o.assemble ch k t ver = o.setCh ch { o.ch ch with polls := (o.ch ch).polls.put k (o.pollFrame k ver) } := if_pos ⟨hp, ht⟩

theorem Obx.sendPoll_due {f : Bytes} (hf : (o.ch ch).polls.find k = some f) (hm : o.master = true) (ht : o.pollOff ch k ≤ o.off t) :
    o.sendPoll ch k t =
      (o.setCh ch { o.ch ch with polls := (o.ch ch).polls.del k, expected := (o.ch ch).expected ++ [k] }, [.send (.opbex ch) f]) := by
  unfold Obx.sendPoll
  simp only [hf]
  exact if_pos ⟨hm, ht⟩

theorem Obx.marker_due (hs : o.started = true) (ht : 3880000 ≤ o.off t) :
    o.marker ch t = [.item ch ⟨o.mcn, 7, 0, o.mcn % 4294967296, .marker,
      leBytes 8 o.mcn ++ leBytes 2 (((o.ch ch).expected.filter fun k => !((o.ch ch).replied.contains k)).length)⟩] :=
  if_neg (by simp [hs, Int.not_lt.mpr ht])

theorem Obx.sendSmgt_master (sid : Nat) (key : Bytes) (hm : o.master = true) (hs : o.started = true) :
    o.sendSmgt ch sid key =
      (o.setCh ch { o.ch ch with enables := (o.ch ch).enables.drop 20 },
       [.send (.opbex ch) (smgtFrame sid (o.mcn % 4294967296) ⟨(o.ch ch).enables.take 20, o.handover.isSome⟩ key)]) :=
  if_neg (by simp [hm, hs])

/-- In echo window 0 the master measures its star. -/
theorem Obx.sendEcho_star (sid : Nat) (key : Bytes) (hm : o.master = true) (hs : o.started = true) :
    o.sendEcho ch 0 t sid key =
      (o.setCh ch { o.ch ch with echoes := (o.ch ch).echoes.put 0 (0, t) },
       [.send (.opbex ch) (echoFrame 0x40 (modAddr sid) (o.mcn % 4294967296) (o.dm .a).toNat (o.dm .b).toNat 0 key)]) :=
  if_neg (by simp [hm, hs])
end

/-! ### The commands -/

section
variable (t : Nat) (s : State) (ch : Chan) (k : Nat)
theorem exec_minorCycleStart : exec (.minorCycleStart t) s = s.at t Mod.minorStart := rfl
theorem exec_pollAssemble : exec (.pollAssemble ch k t) s = s.at t fun m => m.pollAssemble ch k := rfl
theorem exec_pollSend : exec (.pollSend ch k t) s = s.at t fun m => m.pollSend ch k := rfl
theorem exec_markerItem : exec (.markerItem ch t) s = s.at t fun m => m.markerItem ch := rfl
theorem exec_smgtSend : exec (.smgtSend ch t) s = s.at t fun m => m.smgtSend ch := rfl
theorem exec_echoSend (w : Nat) : exec (.echoSend ch w t) s = s.at t fun m => m.echoSend ch w := rfl
end

/-- Settles O24: the minor cycle begins as `Obx.begun` says, and each of its other steps is what it puts on its channel. -/
theorem masterRunsTheMinorCycle : Obligations.MasterRunsTheMinorCycle := by
  unfold Obligations.MasterRunsTheMinorCycle
  intro s ch k t m0 o off n
  refine ⟨fun hr ht => ?_, fun hr ht => ?_, fun hp ht => ?_, fun f hf hm ht => ?_, fun hs ht => ?_, fun hm hs => ?_, fun hm hs => ?_⟩
  · refine Completes.of_at (exec_minorCycleStart t s) ?_
    obtain ⟨hobx, hpoints, hsent⟩ := m0.minorStart_spec hr ht
    obtain ⟨hmaster, -, -, -, -, hbank, hmaj⟩ := o.begun_spec (m0.service == .full)
    rw [show (s.m.advance t).minorStart.obx = o.begun (m0.service == .full) from hobx,
      show (s.m.advance t).minorStart.sent = _ from hsent, show (m0.obx.begun (m0.service == .full)).master = o.master from hmaster]
    refine ⟨rfl, rfl, rfl, hbank, hpoints, fun hno => ?_, fun hyes => ?_⟩
    · rw [hno]
      exact ⟨List.append_nil _, hmaj.trans (if_neg fun h => absurd (hno.symm.trans h.2) Bool.false_ne_true)⟩
    · rw [hyes]
      refine ⟨?_, _, o.begunCyc_eq _ _, rfl⟩
      simp only [hmaj, hyes, and_true]
      rfl
  · exact (exec_minorCycleStart t s).trans (State.at_unchanged s t _ (Mod.minorStart_early m0 ht))
  · refine Completes.of_at (exec_pollAssemble t s ch k) ?_
    rw [Mod.pollAssemble, show m0.obx.assemble ch k m0.clock (m0.nodeVer k) = _ from Obx.assemble_due hp ht]
    refine ⟨?_, Obx.ch_setCh_other .., rfl⟩
    rw [Obx.ch_setCh]
    exact SMap.find_put_self ..
  · refine Completes.of_at (exec_pollSend t s ch k) ?_
    rw [Mod.pollSend, show m0.obx.sendPoll ch k m0.clock = _ from Obx.sendPoll_due hf hm ht, Mod.obxDo_obx, Obx.ch_setCh]
    exact ⟨rfl, SMap.find_del_self .., List.mem_append_right _ List.mem_cons_self⟩
  · refine (exec_markerItem t s ch).trans (State.at_becomes s t _ ?_)
    rw [Mod.markerItem, show m0.obx.marker ch m0.clock = _ from Obx.marker_due hs ht]
    rfl
  · refine Completes.of_at (exec_smgtSend t s ch) ?_
    rw [Mod.smgtSend, show m0.obx.sendSmgt ch m0.sid m0.linkKey = _ from Obx.sendSmgt_master _ _ hm hs, Mod.obxDo_obx, Obx.ch_setCh]
    exact ⟨rfl, rfl⟩
  · refine Completes.of_at (exec_echoSend t s ch 0) ?_
    rw [Mod.echoSend, show m0.obx.sendEcho ch 0 m0.clock m0.sid m0.linkKey = _ from Obx.sendEcho_star _ _ hm hs, Mod.obxDo_obx, Obx.ch_setCh]
    exact ⟨rfl, SMap.find_put_self ..⟩

end Sys2Proof.Machine
end

