-- ==== Sys2Proof/Proofs/Replies.lean ====
section
/-!
SUPPORT and the settled statement on replies: the checks, the trim of the poll instant and the arbiter's pass of the first good copy to the lanes
(07_opbex.md R189, R196, R211).
-/
namespace Sys2Proof.Machine

/-! ### The trim (R196) -/

section
variable (o : Obx) (ch : Chan) (k t : Nat)

/-- How far a reply that started at `t` lies from its place. -/
def Obx.trimError : Int := o.off t - o.dm ch - (o.bk.open' k : Int) - 400

/-- The node's record once an edge reply is counted. -/
def Obx.edgeCounted : NodeCh :=
  if decide (o.off t - o.dm ch - (o.bk.open' k : Int) < 150 ∨ 718 < o.off t - o.dm ch - (o.bk.open' k : Int)) then
    { (o.ch ch).node k with edge := ((o.ch ch).node k).edge + 1 } else (o.ch ch).node k
theorem Obx.edgeCounted_keeps : (o.edgeCounted ch k t).tau = ((o.ch ch).node k).tau ∧ (o.edgeCounted ch k t).dev = ((o.ch ch).node k).dev := by
  unfold Obx.edgeCounted
  split
  · exact ⟨rfl, rfl⟩
  · exact ⟨rfl, rfl⟩

/-- The node's record after the trim. -/
def Obx.trimmed : NodeCh :=
  let n := o.edgeCounted ch k t
  if (o.trimError ch k t).natAbs ≤ 100 then n
  else if (n.tau - o.trimError ch k t).natAbs ≤ 900 then { n with tau := n.tau - o.trimError ch k t }
  else { n with dev := true }

/-- The trim changes that record alone, and what it reports delivers nothing. -/
theorem Obx.trim_spec :
    (o.trim ch k t).1 = o.setCh ch ((o.ch ch).setNode k (o.trimmed ch k t)) ∧ ∀ q ∈ (o.trim ch k t).2, q.quiet = true := by
  have hout1 (p : Prop) [Decidable p] (c l : Nat) (e : Evt) :
      ∀ q ∈ (if p then [.err c l, .evt e] else [] : List ObxOut), q.quiet = true := by
    split
    · exact List.all_eq_true.mp rfl
    · exact List.all_eq_true.mp rfl
  unfold Obx.trim Obx.trimmed
  extract_lets c n pos e edge n1 out1 tau n'
  have hquiet : ∀ q ∈ out1, q.quiet = true := hout1 _ _ _ _
  split
  · exact ⟨by rw [if_pos ‹_›]; rfl, hquiet⟩
  · split
    · exact ⟨by rw [if_neg ‹_›, if_pos ‹_›]; rfl, hquiet⟩
    · refine ⟨by rw [if_neg ‹_›, if_neg ‹_›]; rfl, fun q hq => ?_⟩
      rcases List.mem_append.mp hq with hq | hq
      · exact hquiet q hq
      · exact List.all_eq_true.mp (show List.all [.err 4 7, .evt _] ObxOut.quiet = true from rfl) q hq

/-- The trim moves by the negative error within ±900 ns, beyond which the node is in delay deviation. -/
theorem Obx.trimmed_spec :
    let e := o.trimError ch k t
    let n := o.trimmed ch k t
    let nd := (o.ch ch).node k
    (e.natAbs ≤ 100 → n.tau = nd.tau ∧ n.dev = nd.dev) ∧
      (100 < e.natAbs → (nd.tau - e).natAbs ≤ 900 → n.tau = nd.tau - e ∧ n.dev = nd.dev) ∧
      (100 < e.natAbs → 900 < (nd.tau - e).natAbs → n.tau = nd.tau ∧ n.dev = true) := by
  intro e n nd
  obtain ⟨htau, hdev⟩ := o.edgeCounted_keeps ch k t
  refine ⟨fun h => ?_, fun h hin => ?_, fun h hout => ?_⟩
  · rw [show n = o.edgeCounted ch k t from if_pos h]
    exact ⟨htau, hdev⟩
  · rw [← htau] at hin
    rw [show n = _ from (if_neg (Nat.not_le.mpr h)).trans (if_pos hin)]
    exact ⟨by rw [htau], hdev⟩
  · rw [← htau] at hout
    rw [show n = _ from (if_neg (Nat.not_le.mpr h)).trans (if_neg (Nat.not_le.mpr hout))]
    exact ⟨htau, rfl⟩
end

/-! ### A reply (R211) -/

section
variable (o : Obx) (ch : Chan) (k t : Nat)

/-- The channel's books with the reply of node `k` noted. -/
def Obx.noted : Obx :=
  o.setCh ch { o.ch ch with
    replied := if (o.ch ch).expected.contains k && !((o.ch ch).replied.contains k) then (o.ch ch).replied ++ [k] else (o.ch ch).replied }

/-- The controllers before the arbiter, with what the trim reports: only the master trims. -/
def Obx.heard : Obx × List ObxOut := if (o.noted ch k).master then (o.noted ch k).trim ch k t else (o.noted ch k, [])

theorem Obx.noted_only : ∃ a b, o.noted ch k = { o with chA := a, chB := b } := Obx.setCh_only ..

theorem Obx.heard_only : ∃ a b, (o.heard ch k t).1 = { o with chA := a, chB := b } := by
  obtain ⟨_, _, hnoted⟩ := o.noted_only ch k
  unfold Obx.heard
  split
  · rw [(Obx.trim_spec ..).1]
    obtain ⟨_, _, htrim⟩ := (o.noted ch k).setCh_only ch (((o.noted ch k).ch ch).setNode k ((o.noted ch k).trimmed ch k t))
    exact ⟨_, _, htrim.trans (by rw [hnoted])⟩
  · exact ⟨_, _, hnoted⟩

theorem Obx.heard_quiet : ∀ q ∈ (o.heard ch k t).2, q.quiet = true := by
  unfold Obx.heard
  split
  · exact (Obx.trim_spec ..).2
  · exact fun _ h => nomatch h

/-- Noting a reply leaves what the trim starts from. -/
theorem Obx.noted_trim :
    ((o.noted ch k).ch ch).node k = (o.ch ch).node k ∧ (o.noted ch k).trimError ch k t = o.trimError ch k t := by
  cases ch
  · exact ⟨rfl, rfl⟩
  · exact ⟨rfl, rfl⟩

theorem Obx.heard_master (hm : o.master = true) : (((o.heard ch k t).1).ch ch).node k = (o.noted ch k).trimmed ch k t := by
  obtain ⟨_, _, hnoted⟩ := o.noted_only ch k
  rw [Obx.heard, if_pos (by rw [hnoted]; exact hm), (Obx.trim_spec ..).1, Obx.ch_setCh]
  exact ObxCh.node_setNode_self ..
end

section
variable {o : Obx} {ch : Chan} {t : Nat} {f : Frame}

theorem Obx.reply_bad (h : (f.good 0x10 || f.good 0x11) = false) : o.reply ch t f = (o, [.err 1 7]) := if_pos h

theorem Obx.reply_refused (hg : (f.good 0x10 || f.good 0x11) = true) (h : o.replyOk f.body = false) : o.reply ch t f = (o, [.err 2 7]) :=
  (if_neg (by rw [hg]; decide)).trans (if_pos h)

/-- A copy that passes the checks is passed on if it is the first. -/
theorem Obx.reply_good (hg : (f.good 0x10 || f.good 0x11) = true) (h : o.replyOk f.body = true) :
    o.reply ch t f =
      (let h := o.heard ch (faddr f.body) t
       if h.1.passed.contains (faddr f.body) then h
       else
         ({ h.1 with passed := h.1.passed ++ [faddr f.body], ages := SMap.put h.1.ages (faddr f.body) 0 },
          h.2 ++ [.item ch ⟨h.1.mcn, 7, faddr f.body, replyNseq f.body, .reply, f.body⟩])) :=
  (if_neg (by rw [hg]; decide)).trans (if_neg (by rw [h]; decide))

theorem Obx.reply_again (hg : (f.good 0x10 || f.good 0x11) = true) (h : o.replyOk f.body = true) (hp : faddr f.body ∈ o.passed) :
    o.reply ch t f = o.heard ch (faddr f.body) t := by
  obtain ⟨_, _, hheard⟩ := o.heard_only ch (faddr f.body) t
  rw [Obx.reply_good hg h]
  exact if_pos (by rw [hheard]; exact List.contains_iff_mem.mpr hp)

theorem Obx.reply_first (hg : (f.good 0x10 || f.good 0x11) = true) (h : o.replyOk f.body = true) (hp : faddr f.body ∉ o.passed) :
    o.reply ch t f =
      ({ (o.heard ch (faddr f.body) t).1 with passed := o.passed ++ [faddr f.body], ages := SMap.put o.ages (faddr f.body) 0 },
       (o.heard ch (faddr f.body) t).2 ++ [.item ch ⟨o.mcn, 7, faddr f.body, replyNseq f.body, .reply, f.body⟩]) := by
  obtain ⟨_, _, hheard⟩ := o.heard_only ch (faddr f.body) t
  rw [Obx.reply_good hg h]
  refine (if_neg ?_).trans (by rw [hheard])
  rw [hheard]
  exact fun hc => hp (List.contains_iff_mem.mp hc)
end

/-! ### The item of a reply at the lanes -/

/-- Whether a lane takes a channel's items rests on its power and its view's EN bit. -/
theorem Mod.takes_chPath (m : Mod) (ch : Chan) (x : Lane) :
    m.takes (chPath ch) x = ((m.lane x).powered && (m.lane x).obx.ctrl.getLsbD 0) := by cases ch <;> rfl

/-- No report of the controllers moves the EN bit. -/
theorem ObxOut.onView_ctrl (o : ObxOut) (v : ObxLane) : (o.onView v).ctrl = v.ctrl := by
  cases o with
  | viol ch n => cases ch <;> rfl
  | _ => rfl

/-- An item behind reports joins the ring of a lane that takes it. -/
theorem Mod.obxOuts_item_rings (m : Mod) (os : List ObxOut) (ch : Chan) (i : Item) (x : Lane) (hq : ∀ o ∈ os, o.quiet = true)
    (ht : m.takes (chPath ch) x = true) (hh : (m.lane x).tdm.portHeld (chPath ch).port = false) :
    (((m.obxOuts (os ++ [.item ch i])).lane x).rings.get (chPath ch)).items = ((m.lane x).rings.get (chPath ch)).items ++ [i] := by
  have hlane := m.obxOuts_lane os x hq
  have hctrl := foldl_keeps ObxLane.ctrl (fun v (o : ObxOut) => o.onView v) os (m.lane x).obx fun v o => o.onView_ctrl v
  have htakes : (m.obxOuts os).takes (chPath ch) x = true := by
    rw [Mod.takes_chPath, hlane, hctrl, ← Mod.takes_chPath]
    exact ht
  have hheld : ((m.obxOuts os).lane x).tdm.portHeld (chPath ch).port = false := by
    rw [hlane]
    exact hh
  have hrings : ((m.obxOuts os).lane x).rings = (m.lane x).rings := by rw [hlane]
  rw [Mod.obxOuts_append, show (m.obxOuts os).obxOuts [.item ch i] = (m.obxOuts os).deliver (chPath ch) i from rfl, Mod.deliver_lane,
    if_pos htakes, LaneSt.take_rings _ _ _ hheld, hrings]
  exact congrArg Ring.items (Rings.get_set_self ..)

/-! ### The command -/

theorem exec_replyReceive (ch : Chan) (f : Frame) (t : Nat) (s : State) :
    exec (.replyReceive ch f none t) s = s.at t fun m => m.obxDo (m.obx.reply ch m.clock f) := rfl

/-- Settles O25: a reply is noted and trimmed, and the first good copy alone goes on to the lanes. -/
theorem firstGoodReplyReachesTheLanes : Obligations.FirstGoodReplyReachesTheLanes := by
  unfold Obligations.FirstGoodReplyReachesTheLanes
  intro s ch f t m0 o k good e nd
  obtain ⟨_, _, hheard⟩ := o.heard_only ch k m0.clock
  have hquiet := o.heard_quiet ch k m0.clock
  refine ⟨fun hg hr hp => ?_, fun hg hr hp => ?_, fun hg => ?_, fun hg hr => ?_, fun hg hr hm => ?_⟩
  · refine Completes.of_at (exec_replyReceive ch f t s) ?_
    rw [show (s.m.advance t).obx.reply ch (s.m.advance t).clock f = _ from Obx.reply_first hg hr hp, Mod.obxDo_obx]
    exact ⟨List.mem_append_right _ List.mem_cons_self, SMap.find_put_self .., fun x ht hh => Mod.obxOuts_item_rings _ _ ch _ x hquiet ht hh⟩
  · refine Completes.of_at (exec_replyReceive ch f t s) ?_
    rw [show (s.m.advance t).obx.reply ch (s.m.advance t).clock f = _ from Obx.reply_again hg hr hp, Mod.obxDo_obx]
    exact ⟨(congrArg Obx.passed hheard :), fun x => (congrArg LaneSt.rings (m0.obxDo_lane (o.heard ch k m0.clock) x hquiet) :)⟩
  · refine Completes.of_at (exec_replyReceive ch f t s) ?_
    rw [show (s.m.advance t).obx.reply ch (s.m.advance t).clock f = _ from Obx.reply_bad hg, Mod.obxDo_obx]
    exact ⟨rfl, fun x => m0.obxDo_lane (o, [.err 1 7]) x (List.all_eq_true.mp rfl)⟩
  · refine Completes.of_at (exec_replyReceive ch f t s) ?_
    rw [show (s.m.advance t).obx.reply ch (s.m.advance t).clock f = _ from Obx.reply_refused hg hr, Mod.obxDo_obx]
    exact ⟨rfl, fun x => m0.obxDo_lane (o, [.err 2 7]) x (List.all_eq_true.mp rfl)⟩
  · refine Completes.of_at (exec_replyReceive ch f t s) ?_
    obtain ⟨hnd, herr⟩ := o.noted_trim ch k m0.clock
    have htrim := (o.noted ch k).trimmed_spec ch k m0.clock
    simp only [hnd, herr, ← o.heard_master ch k m0.clock hm] at htrim
    have hnode : ((((s.m.advance t).obx.reply ch (s.m.advance t).clock f).1).ch ch).node k = (((o.heard ch k m0.clock).1).ch ch).node k := by
      by_cases hp : k ∈ o.passed
      · rw [show (s.m.advance t).obx.reply ch (s.m.advance t).clock f = _ from Obx.reply_again hg hr hp]
        rfl
      · rw [show (s.m.advance t).obx.reply ch (s.m.advance t).clock f = _ from Obx.reply_first hg hr hp]
        cases ch <;> rfl
    rw [Mod.obxDo_obx, hnode]
    exact htrim

end Sys2Proof.Machine
end

