-- ==== Sys2Proof/Proofs/ChannelsAndPorts.lean ====
section
/-!
SUPPORT and the settled statement on what the master learns of its channels and of the stars' ports: echoes, port reports, re-enables and the
judgement of a channel (07_opbex.md R197, R214, R221).
-/
namespace Sys2Proof.Machine

/-! ### Echoes (R197) -/

section
variable {o : Obx} {ch : Chan} {t k sent : Nat} {f : Frame} {key : Bytes}

theorem Obx.echor_star (hg : f.good 0x41 = true) (hk : linkOk key f.body = true)
    (he : (o.ch ch).echoes.find (echoWin f.body) = some (0, sent)) (ha : faddr f.body = starAddr ch) :
    o.echor ch t f key =
      (o.setCh ch { o.ch ch with
        dm := ((t : Int) - sent - 652) / 2, dmKnown := true, echo0 := (o.ch ch).echo0 || echoWin f.body == 0,
        echoes := (o.ch ch).echoes.del (echoWin f.body) }, []) := by
  unfold Obx.echor
  simp only [hg, hk, he, ha, Bool.true_eq_false, if_false, if_true]

theorem Obx.echor_node (hg : f.good 0x41 = true) (hk : linkOk key f.body = true)
    (he : (o.ch ch).echoes.find (echoWin f.body) = some (k, sent)) (h0 : k ≠ 0) (ha : faddr f.body = k) :
    ∃ dev, o.echor ch t f key =
      (o.setCh ch (({ o.ch ch with echoes := (o.ch ch).echoes.del (echoWin f.body) } : ObxCh).setNode k
        { (o.ch ch).node k with dk := ((t : Int) - sent - 652) / 2 - o.dm ch, known := true, dev := dev }), []) := by
  unfold Obx.echor
  simp only [hg, hk, he, h0, ha, Bool.true_eq_false, if_false, if_true]
  exact ⟨_, rfl⟩

theorem Obx.dm_known (h : (o.ch ch).dmKnown = true) : o.dm ch = (o.ch ch).dm := if_pos h
theorem Obx.dk_known (h : ((o.ch ch).node k).known = true) : o.dk ch k = ((o.ch ch).node k).dk := if_pos h
end

/-! ### Port reports (R221) -/

section
variable (t : Nat) (r : Srpt)

/-- A node's record after a report on its port. -/
def NodeCh.reported (k : Nat) (n : NodeCh) : NodeCh :=
  if r.disabled.contains k then (if n.portOff.isNone then { n with portOff := some t, ordered := false } else n)
  else if n.portOff.isSome then { n with portOff := none, ordered := false } else n

theorem NodeCh.reported_off {k : Nat} (n : NodeCh) (h : k ∈ r.disabled) : (n.reported t r k).portOff.isSome = true := by
  rw [NodeCh.reported, if_pos (List.contains_iff_mem.mpr h)]
  cases hp : n.portOff with
  | none => rfl
  | some w => exact congrArg Option.isSome hp

theorem NodeCh.reported_on {k : Nat} (n : NodeCh) (h : k ∉ r.disabled) : (n.reported t r k).portOff = none := by
  rw [NodeCh.reported, if_neg fun hc => h (List.contains_iff_mem.mp hc)]
  cases hp : n.portOff with
  | none => exact hp
  | some w => rfl

/-- A second report of the same content changes nothing more. -/
theorem NodeCh.reported_twice (k : Nat) (n : NodeCh) : (n.reported t r k).reported t r k = n.reported t r k := by
  by_cases h : k ∈ r.disabled
  · have hs := n.reported_off t r h
    have hn : (n.reported t r k).portOff.isNone = false := by rw [Option.isNone_eq_false_iff, hs]
    conv_lhs => rw [NodeCh.reported, if_pos (List.contains_iff_mem.mpr h), hn]
    rfl
  · conv_lhs => rw [NodeCh.reported, if_neg fun hc => h (List.contains_iff_mem.mp hc), n.reported_on t r h]
    rfl

/-- The report on one port at the channel controller. -/
def ObxCh.reportOne (c : ObxCh) (k : Nat) : ObxCh :=
  let n := c.node k
  if r.disabled.contains k then (if n.portOff.isNone then c.setNode k { n with portOff := some t, ordered := false } else c)
  else if n.portOff.isSome then c.setNode k { n with portOff := none, ordered := false } else c

theorem ObxCh.reportOne_self (c : ObxCh) (k : Nat) : (c.reportOne t r k).node k = (c.node k).reported t r k := by
  unfold ObxCh.reportOne NodeCh.reported
  simp only [apply_ite (ObxCh.node · k), ObxCh.node_setNode_self]

theorem ObxCh.reportOne_ne (c : ObxCh) {j k : Nat} (h : j ≠ k) : (c.reportOne t r k).node j = c.node j := by
  unfold ObxCh.reportOne
  simp only [apply_ite (ObxCh.node · j), ObxCh.node_setNode_ne _ _ h, ite_self]

/-- Each port that is gone through takes its report. -/
theorem ObxCh.foldl_report (ks : List Nat) (c : ObxCh) (j : Nat) :
    (ks.foldl (ObxCh.reportOne t r) c).node j = if j ∈ ks then (c.node j).reported t r j else c.node j := by
  induction ks generalizing c with
  | nil => rfl
  | cons k ks ih =>
    rw [List.foldl_cons, ih]
    by_cases hj : j = k
    · subst hj
      rw [c.reportOne_self, NodeCh.reported_twice, ite_self, if_pos List.mem_cons_self]
    · rw [c.reportOne_ne t r hj]
      simp [hj]

theorem ObxCh.report_foldl (c : ObxCh) :
    c.report t r = ((c.nodes.map (·.1)) ++ r.disabled.filter fun k => !((c.nodes.map (·.1)).contains k)).foldl (ObxCh.reportOne t r) c := rfl

/-- After a report exactly the ports it names are off. -/
theorem ObxCh.report_ports (c : ObxCh) (k : Nat) :
    (k ∈ r.disabled → ((c.report t r).node k).portOff.isSome = true) ∧ (k ∉ r.disabled → ((c.report t r).node k).portOff = none) := by
  rw [ObxCh.report_foldl, ObxCh.foldl_report]
  refine ⟨fun h => ?_, fun h => ?_⟩
  · rw [if_pos]
    · exact NodeCh.reported_off t r _ h
    · by_cases hk : k ∈ c.nodes.map (·.1)
      · exact List.mem_append_left _ hk
      · exact List.mem_append_right _ (List.mem_filter.mpr ⟨h, by rw [Bool.not_eq_true', ← Bool.not_eq_true, List.contains_iff_mem]; exact hk⟩)
  · split
    · exact NodeCh.reported_on t r _ h
    · next hk =>
      have habsent : c.node k = NodeCh.reset :=
        SMap.get_absent _ _ _ fun p hp he => hk (List.mem_append_left _ (List.mem_map.mpr ⟨p, hp, he⟩))
      rw [habsent]
      rfl

/-- A valid SRPT at the controllers: evidence of the channel, its ports and its acknowledgement. -/
theorem Obx.srpt_taken {o : Obx} {ch : Chan} {f : Frame} {key : Bytes} (hg : f.good 0x51 = true) (hk : linkOk key f.body = true)
    (ha : faddr f.body = starAddr ch) :
    ∃ outs, o.srpt ch t f r key =
      ({ o.setCh ch { (o.ch ch).report t r with srpt := true } with acks := if r.ack then o.acks.set ch true else o.acks }, outs) := by
  have hacks : (o.setCh ch { (o.ch ch).report t r with srpt := true }).acks = o.acks := by
    obtain ⟨_, _, h⟩ := o.setCh_only ch { (o.ch ch).report t r with srpt := true }
    rw [h]
  unfold Obx.srpt
  simp only [hg, hk, ha, hacks, Bool.true_and, beq_self_eq_true, Bool.true_eq_false, if_false]
  exact ⟨_, rfl⟩
end

/-- A port that is off is not polled. -/
theorem Obx.polls_off (o : Obx) {ch : Chan} {k : Nat} (h : ((o.ch ch).node k).portOff.isSome = true) : o.polls ch k = false := by
  have hn : ((o.ch ch).node k).portOff.isNone = false := by rw [Option.isNone_eq_false_iff, h]
  simp [Obx.polls, hn]

@[simp] theorem Mod.swapCommit_obx (m : Mod) : m.swapCommit.obx = m.obx := by
  unfold Mod.swapCommit
  split
  · exact (apply_ite Mod.obx _ _ _).trans (ite_self _)
  · rfl

/-! ### Re-enables (R221) -/

section
variable {o : Obx} {ch : Chan} {k t : Nat}

/-- The re-enables of the last hour. -/
def NodeCh.recent (n : NodeCh) (t : Nat) : List Nat := n.reenabled.filter fun x => decide (t < x + 3600000000000)

theorem Obx.reenable_due {w : Nat} (hp : ((o.ch ch).node k).portOff = some w) (ho : ((o.ch ch).node k).ordered = false)
    (hm : o.master = true) (ht : w + 10000000000 ≤ t) (hr : (((o.ch ch).node k).recent t).length < 3) :
    o.reenable ch k t =
      o.setCh ch (({ o.ch ch with enables := (o.ch ch).enables ++ [k] } : ObxCh).setNode k
        { (o.ch ch).node k with ordered := true, reenabled := ((o.ch ch).node k).recent t ++ [t] }) := by
  unfold Obx.reenable
  simp only [hp]
  exact if_pos ⟨hm, ho, ht, hr⟩

/-- The fourth within an hour is not given. -/
theorem Obx.reenable_exhausted (hr : 3 ≤ (((o.ch ch).node k).recent t).length) : o.reenable ch k t = o := by
  unfold Obx.reenable
  extract_lets c n recent
  split
  · rfl
  · exact if_neg fun h => Nat.not_lt.mpr hr h.2.2.2
end

/-! ### The judgement of a channel (R214) -/

section
variable {o : Obx} {ch : Chan} {light : Bool}

theorem Obx.judge_fails (hm : o.master = true) (hs : (o.ch ch).state = 2)
    (h : (o.ch ch).srpt = false ∧ (o.ch ch).echo0 = false ∨ light = true) :
    ∃ miss, o.judge ch light = (o.setCh ch { o.ch ch with miss := miss, state := 3 }, some 3) := by
  have hbad : ((!(o.ch ch).srpt && !(o.ch ch).echo0) || light) = true := by
    rcases h with ⟨h1, h2⟩ | h
    · rw [h1, h2]
      rfl
    · rw [h, Bool.or_true]
  unfold Obx.judge
  simp only [hm, hs, hbad, Bool.true_or, Bool.true_eq_false, if_false, if_true]
  exact ⟨_, rfl⟩

theorem Obx.judge_returns (hm : o.master = true) (hs : (o.ch ch).state = 3) (h1 : (o.ch ch).srpt = true)
    (h2 : 9 * (o.ch ch).expected.length ≤ 10 * (o.ch ch).replied.length) :
    ∃ miss, o.judge ch light = (o.setCh ch { o.ch ch with miss := miss, state := 2 }, some 2) := by
  unfold Obx.judge
  simp only [hm, hs, h1, h2, decide_true, Bool.true_and, Bool.true_eq_false, if_false, if_true, Nat.succ_ne_self]
  exact ⟨_, rfl⟩
end

/-- A channel that changes its state raises CHAN at every lane. -/
theorem Mod.channelJudge_changes (m : Mod) {ch : Chan} {light : Bool} {o : Obx} {st : Nat} (h : m.obx.judge ch light = (o, some st)) :
    (m.channelJudge ch light).obx = o ∧ ∀ x, ((m.channelJudge ch light).lane x).obx.irq = (m.lane x).obx.irq ||| irqCHAN := by
  let outs : List ObxOut := [.irq irqCHAN] ++ if st = 3 then [.err 6 7] else []
  have hm : m.channelJudge ch light =
      (({ m with obx := o } : Mod).obxOuts outs).put (mkEvt 0x4001 (obxSrc ch) 7 0 (leBytes 1 ch.idx ++ leBytes 1 st)) := by
    unfold Mod.channelJudge
    rw [h]
  have hquiet : ∀ q ∈ outs, q.quiet = true := by
    unfold outs
    split
    · exact List.all_eq_true.mp rfl
    · exact List.all_eq_true.mp rfl
  rw [hm]
  refine ⟨Mod.obxOuts_obx .., fun x => ?_⟩
  rw [Mod.lane_put, Mod.obxOuts_lane _ _ x hquiet]
  unfold outs
  split <;> rfl

/-! ### The commands -/

section
variable (t : Nat) (s : State) (ch : Chan)
theorem exec_echorReceive (f : Frame) :
    exec (.echorReceive ch f t) s = s.at t fun m => m.obxDo (m.obx.echor ch m.clock f (Config.farLinkKey (faddr f.body))) := rfl
theorem exec_srptReceive (f : Frame) (r : Srpt) :
    exec (.srptReceive ch f r t) s = s.at t fun m => (m.obxDo (m.obx.srpt ch m.clock f r (Config.farLinkKey (faddr f.body)))).swapCommit := rfl
theorem exec_portReenable (k : Nat) :
    exec (.portReenable ch k t) s = s.at t fun m => { m with obx := m.obx.reenable ch k m.clock } := rfl
theorem exec_channelFail (light : Bool) : exec (.channelFail ch light t) s = s.at t fun m => m.channelJudge ch light := rfl
end

/-- Settles O26: each event's effect on the channel's books is what its own rule makes of them. -/
theorem channelsAndPortsAreJudged : Obligations.ChannelsAndPortsAreJudged := by
  unfold Obligations.ChannelsAndPortsAreJudged
  intro s ch f t k m0 o c key
  refine ⟨fun sent hg hk he ha => ?_, fun sent hg hk he h0 ha => ?_, fun r hg hk ha => ?_, fun w hp ho hm ht hr => ?_, fun hr => ?_,
    fun light hm hs h => ?_, fun light hm hs h1 h2 => ?_⟩
  · refine Completes.of_at (exec_echorReceive t s ch f) ?_
    rw [show (s.m.advance t).obx.echor ch (s.m.advance t).clock f _ = _ from Obx.echor_star hg hk he ha, Mod.obxDo_obx]
    refine ⟨?_, ?_, rfl⟩
    · rw [Obx.dm_known (by rw [Obx.ch_setCh]), Obx.ch_setCh]
    · rw [Obx.ch_setCh]
      exact SMap.find_del_self ..
  · refine Completes.of_at (exec_echorReceive t s ch f) ?_
    obtain ⟨_, hechor⟩ := Obx.echor_node (t := m0.clock) hg hk he h0 ha
    rw [show (s.m.advance t).obx.echor ch (s.m.advance t).clock f _ = _ from hechor, Mod.obxDo_obx]
    refine ⟨?_, rfl⟩
    rw [Obx.dk_known (by rw [Obx.ch_setCh, ObxCh.node_setNode_self]), Obx.ch_setCh, ObxCh.node_setNode_self]
  · refine Completes.of_at (exec_srptReceive t s ch f r) ?_
    obtain ⟨_, hsrpt⟩ := Obx.srpt_taken (o := o) m0.clock r hg hk ha
    rw [Mod.swapCommit_obx, show (s.m.advance t).obx.srpt ch (s.m.advance t).clock f r _ = _ from hsrpt, Mod.obxDo_obx]
    have hch (o1 : Obx) (acks : PerChan Bool) : ({ o1 with acks := acks } : Obx).ch ch = o1.ch ch := by cases ch <;> rfl
    obtain ⟨hoff, hon⟩ := c.report_ports m0.clock r k
    refine ⟨?_, fun h => ⟨?_, Obx.polls_off _ ?_⟩, fun h => ?_, fun h => ?_⟩
    · rw [hch, Obx.ch_setCh]
    · rw [hch, Obx.ch_setCh]
      exact hoff h
    · rw [hch, Obx.ch_setCh]
      exact hoff h
    · rw [hch, Obx.ch_setCh]
      exact hon h
    · rw [show (if r.ack = true then _ else _) = o.acks.set ch true from if_pos h]
      exact PerChan.get_set_self ..
  · refine Completes.of_at (exec_portReenable t s ch k) ?_
    rw [show (s.m.advance t).obx.reenable ch k (s.m.advance t).clock = _ from Obx.reenable_due hp ho hm ht hr, Obx.ch_setCh,
      ObxCh.node_setNode_self]
    exact ⟨List.mem_append_right _ List.mem_cons_self, rfl⟩
  · exact (exec_portReenable t s ch k).trans
      (State.at_becomes s t _ (congrArg (fun q => ({ m0 with obx := q } : Mod)) (Obx.reenable_exhausted hr) :))
  · refine Completes.of_at (exec_channelFail t s ch light) ?_
    obtain ⟨_, hjudge⟩ := Obx.judge_fails hm hs h
    obtain ⟨hobx, hirq⟩ := m0.channelJudge_changes hjudge
    rw [hobx, Obx.ch_setCh]
    exact ⟨rfl, hirq⟩
  · refine Completes.of_at (exec_channelFail t s ch light) ?_
    obtain ⟨_, hjudge⟩ := Obx.judge_returns (light := light) hm hs h1 h2
    rw [(m0.channelJudge_changes hjudge).1, Obx.ch_setCh]

end Sys2Proof.Machine
end

