-- ==== Sys2Proof/Proofs/BanksAndPoints.lean ====
section
/-!
SUPPORT and the settled statement on bank switches, node versions, the reports of a major cycle and cycle points (07_opbex.md R218, R232 to R236).
-/
namespace Sys2Proof.Machine

/-! ### Bank switches (R218) -/

theorem Mod.bankRequests_cond (m : Mod) :
    m.bankRequests.lanes = m.lanes ∧ m.bankRequests.obx.bank = m.obx.bank ∧
      m.bankRequests.obx.swAt =
        if m.obx.swAt = none ∧ 2 ≤ (m.voters.filter fun y => (m.lane y).obx.req).length then some (m.obx.switchAt m.clock) else m.obx.swAt := by
  by_cases h : m.obx.swAt = none ∧ 2 ≤ (m.voters.filter fun y => (m.lane y).obx.req).length
  · have hm : m.bankRequests = { m with obx := { m.obx with swAt := some (m.obx.switchAt m.clock) } } :=
      if_neg fun hc => hc.elim (fun hs => by rw [h.1] at hs; cases hs) (Nat.not_lt.mpr h.2)
    rw [hm, if_pos h]
    exact ⟨rfl, rfl, rfl⟩
  · have hm : m.bankRequests = m := by
      refine if_pos (or_iff_not_imp_left.mpr fun hs => Nat.lt_of_not_le fun h2 => h ⟨?_, h2⟩)
      exact Option.not_isSome_iff_eq_none.mp hs
    rw [hm, if_neg h]
    exact ⟨rfl, rfl, rfl⟩

/-- A switch whose boundary has come toggles the bank, lets every request fall and raises SWITCH. -/
theorem Mod.bankSwitch_due (m : Mod) {b : Nat} (hr : m.obx.running = true) (ht : m.obx.mcs m.obx.nextN ≤ m.obx.net m.clock)
    (hb : m.obx.swAt = some b) (hn : b ≤ m.obx.nextN) :
    m.bankSwitch.obx = { m.obx with bank := !m.obx.bank, swAt := none } ∧
      ∀ y, (m.bankSwitch.lane y).obx.req = false ∧ (m.bankSwitch.lane y).obx.irq = (m.lane y).obx.irq ||| irqSWITCH := by
  have hsw : m.obx.doSwitch m.obx.nextN = ({ m.obx with bank := !m.obx.bank, swAt := none }, true) := by
    rw [Obx.doSwitch_cond, if_pos]
    simp [Obx.switchDue, hb, hn]
  have hm : m.bankSwitch = (m.obxDo ({ m.obx with bank := !m.obx.bank, swAt := none }, [.irq irqSWITCH])).switched m.obx.bank := by
    unfold Mod.bankSwitch
    rw [if_neg (by simp [hr, Nat.not_lt.mpr ht]), hsw]
    rfl
  have hne : ¬ (m.obxDo ({ m.obx with bank := !m.obx.bank, swAt := none }, [.irq irqSWITCH])).obx.bank = m.obx.bank := by
    rw [Mod.obxDo_obx]
    exact Bool.not_ne_self _
  rw [hm]
  refine ⟨(Mod.switched_obx ..).trans (Mod.obxDo_obx ..), fun y => ?_⟩
  rw [Mod.switched_lane, if_neg hne]
  refine ⟨rfl, ?_⟩
  exact (congrArg (fun l : LaneSt => l.obx.irq)
    (m.obxDo_lane ({ m.obx with bank := !m.obx.bank, swAt := none }, [.irq irqSWITCH]) y (List.all_eq_true.mp rfl)) :)

/-! ### What is done at every running lane (R232, R233) -/

/-- An action at each lane that looks at the controllers sees them as they were. -/
theorem Mod.foldl_modLane_obx (g : Obx → Lane → LaneSt → LaneSt) (xs : List Lane) (m : Mod) :
    xs.foldl (fun n x => n.modLane x (g n.obx x)) m = xs.foldl (fun n x => n.modLane x (g m.obx x)) m := by
  induction xs generalizing m with
  | nil => rfl
  | cons x xs ih => exact ih (m.modLane x (g m.obx x))

theorem Mod.versionMove_lane (m : Mod) (k : Nat) {x : Lane} (hx : x ∈ m.running) :
    (m.versionMove k).lane x = (m.lane x).versionMove m.cycleIn k m.obx.mcn := by
  have hfold := m.foldl_modLane_obx (fun o _ l => l.versionMove m.cycleIn k o.mcn) m.running
  have hlane := Mod.foldl_modLane_lane (fun _ l => l.versionMove m.cycleIn k m.obx.mcn) x m.running m m.running_nodup
  exact (congrArg (Mod.lane · x) hfold).trans (hlane.trans (if_pos hx))

theorem Mod.aggregate_lane (m : Mod) {x : Lane} (hx : x ∈ m.running) :
    m.aggregate.lane x = (m.lane x).majorTo m.cycleIn x.idx m.obx.mcn := by
  have hfold := m.foldl_modLane_obx (fun o y l => l.majorTo m.cycleIn y.idx o.mcn) m.running
  have hlane := Mod.foldl_modLane_lane (fun y l => l.majorTo m.cycleIn y.idx m.obx.mcn) x m.running m m.running_nodup
  exact (congrArg (Mod.lane · x) hfold).trans (hlane.trans (if_pos hx))

/-- With the major cycle a node takes the version it was raised to. -/
theorem LaneSt.versionMove_due (l : LaneSt) (c : CycleIn) {k mcn w : Nat} (hw : l.rt.verNext.find k = some w)
    (hm : l.rt.nevtFrom < mcn - mcn % c.majL) :
    (l.versionMove c k mcn).rt = { l.rt with ver := l.rt.ver.put k w, verNext := l.rt.verNext.del k } := by
  unfold LaneSt.versionMove
  simp only [hw, if_neg (Nat.not_le.mpr hm)]

/-- The reports of the major cycle that has ended are closed. -/
theorem LaneSt.majorTo_due (l : LaneSt) (c : CycleIn) {me mcn : Nat} (hm : l.rt.nevtFrom < mcn - mcn % c.majL) :
    (l.majorTo c me mcn).rt.nevt = [] ∧ (l.majorTo c me mcn).rt.nevtFrom = mcn - mcn % c.majL ∧
      (l.majorTo c me mcn).rt.recs = l.rt.recs ++ if c.role = 1 then neventRecords me l.rt.nevtFrom l.rt.nevt else [] := by
  unfold LaneSt.majorTo
  extract_lets s recs moved
  rw [if_neg (Nat.not_le.mpr hm)]
  exact ⟨rfl, rfl, rfl⟩

/-- The master's lanes are those that record. -/
theorem Mod.cycleIn_role (m : Mod) : m.cycleIn.role = 1 ↔ m.role = roleACTIVE := by
  show (if m.role = roleACTIVE then 1 else 2) = 1 ↔ m.role = roleACTIVE
  split <;> simp_all

/-! ### Nibbles of a counter -/

/-- Nibble `k` of a number, counted from the lowest. -/
def nibble (v k : Nat) : Nat := v / 16 ^ k % 16

theorem bits_nibble (v k : Nat) : bits v (4 * k + 3) (4 * k) = nibble v k := by
  rw [bits, nibble, Nat.shiftRight_eq_div_pow, pow_mul, show 4 * k + 3 + 1 - 4 * k = 4 by omega]
  rfl

/-- A number with its nibble `k` replaced. -/
def setNibble (v k d : Nat) : Nat := v / 16 ^ (k + 1) * 16 ^ (k + 1) + d * 16 ^ k + v % 16 ^ k

theorem setNibble_own (v k : Nat) : setNibble v k (nibble v k) = v := by
  have hhigh : v / 16 ^ (k + 1) = v / 16 ^ k / 16 := by rw [pow_succ, Nat.div_div_eq_div_mul]
  have hdigits := Nat.div_add_mod (v / 16 ^ k) 16
  calc setNibble v k (nibble v k)
      = 16 ^ k * (16 * (v / 16 ^ k / 16) + v / 16 ^ k % 16) + v % 16 ^ k := by
        rw [setNibble, nibble, hhigh]
        ring
    _ = 16 ^ k * (v / 16 ^ k) + v % 16 ^ k := by rw [hdigits]
    _ = v := Nat.div_add_mod ..

theorem setNibble_div (v k d : Nat) : setNibble v k d / 16 ^ k = 16 * (v / 16 ^ (k + 1)) + d := by
  have hlow : v % 16 ^ k / 16 ^ k = 0 := Nat.div_eq_of_lt (Nat.mod_lt _ (by positivity))
  have hsum : setNibble v k d = v % 16 ^ k + 16 ^ k * (16 * (v / 16 ^ (k + 1)) + d) := by
    rw [setNibble]
    ring
  rw [hsum, Nat.add_mul_div_left _ _ (by positivity), hlow, Nat.zero_add]

section
variable {v k d : Nat} (hd : d < 16)
include hd

theorem nibble_setNibble_self : nibble (setNibble v k d) k = d := by
  rw [nibble, setNibble_div]
  omega

theorem nibble_setNibble_ne {j : Nat} (hj : j ≠ k) : nibble (setNibble v k d) j = nibble v j := by
  rcases Nat.lt_or_gt_of_ne hj with hlt | hgt
  · have hdvd : 16 ^ j * 16 ∣ 16 ^ k := by
      rw [← pow_succ]
      exact pow_dvd_pow 16 hlt
    have hlow : setNibble v k d % 16 ^ k = v % 16 ^ k := by
      have hsum : setNibble v k d = v % 16 ^ k + 16 ^ k * (16 * (v / 16 ^ (k + 1)) + d) := by
        rw [setNibble]
        ring
      rw [hsum, Nat.add_mul_mod_self_left, Nat.mod_mod]
    rw [nibble, nibble, ← Nat.mod_mul_right_div_self, ← Nat.mod_mul_right_div_self, ← Nat.mod_mod_of_dvd _ hdvd, hlow,
      Nat.mod_mod_of_dvd _ hdvd]
  · have hhigh : setNibble v k d / 16 ^ (k + 1) = v / 16 ^ (k + 1) := by
      rw [pow_succ, ← Nat.div_div_eq_div_mul, setNibble_div, ← pow_succ]
      omega
    have hsplit (x : Nat) : x / 16 ^ j = x / 16 ^ (k + 1) / 16 ^ (j - (k + 1)) := by
      rw [Nat.div_div_eq_div_mul, ← pow_add, Nat.add_sub_cancel' hgt]
    rw [nibble, nibble, hsplit, hhigh, ← hsplit]

theorem setNibble_lt (hv : v < 16 ^ 8) (hk : k < 8) : setNibble v k d < 16 ^ 8 := by
  have hpow : 16 ^ 8 = 16 ^ k * (16 * 16 ^ (7 - k)) := by
    rw [← pow_succ', ← pow_add]
    congr 1
    omega
  have hhigh : v / 16 ^ (k + 1) < 16 ^ (7 - k) := by
    refine Nat.div_lt_of_lt_mul ?_
    rw [← pow_add, show k + 1 + (7 - k) = 8 by omega]
    exact hv
  rw [hpow]
  refine (Nat.div_lt_iff_lt_mul (by positivity)).mp ?_ |>.trans_eq (Nat.mul_comm ..)
  rw [setNibble_div]
  omega
end

/-! ### Cycle points (R235) -/

/-- A firing counts modulo 16 at its own point and at no other. -/
theorem ObxLane.fire_nibble (l : ObxLane) {k : Nat} (hk : k < 8) :
    (l.fire k).cpcnt.toNat = setNibble l.cpcnt.toNat k ((nibble l.cpcnt.toNat k + 1) % 16) := by
  have hcount : (l.fire k).cpcnt.toNat = (l.cpcnt.toNat - nibble l.cpcnt.toNat k * 16 ^ k + (nibble l.cpcnt.toNat k + 1) % 16 * 16 ^ k) % 16 ^ 8 := by
    rw [ObxLane.fire, bits_nibble, pow_mul]
    exact BitVec.toNat_ofNat ..
  have hown := setNibble_own l.cpcnt.toNat k
  have hreplaced : l.cpcnt.toNat - nibble l.cpcnt.toNat k * 16 ^ k + (nibble l.cpcnt.toNat k + 1) % 16 * 16 ^ k
      = setNibble l.cpcnt.toNat k ((nibble l.cpcnt.toNat k + 1) % 16) := by
    unfold setNibble at hown ⊢
    omega
  rw [hcount, hreplaced]
  exact Nat.mod_eq_of_lt (setNibble_lt (Nat.mod_lt _ (by decide)) l.cpcnt.isLt hk)

theorem Mod.cyclePoint_fires (m : Mod) {x : Lane} {k : Nat} (hs : m.obx.started = true) (ho : 0 ≤ m.obx.off m.clock) (hk : k < 8)
    (hp : (m.lane x).powered = true)
    (hf : (m.lane x).obx.fires k m.obx.mcn m.obx.majL ((m.obx.off m.clock).toNat / 1000) = true) :
    m.cyclePoint x k = m.setLane x { m.lane x with obx := (m.lane x).obx.fire k } := by
  unfold Mod.cyclePoint
  exact if_neg (by simp [hs, ho, hk, hp, hf])

/-! ### The commands -/

section
variable (t : Nat) (s : State) (x : Lane) (k : Nat) (v : Word32)
theorem exec_obxBankswWrite : exec (.obxBankswWrite x v t) s = s.at t fun m => m.bankSwWrite x v := rfl
theorem exec_bankSwitch : exec (.bankSwitch t) s = s.at t Mod.bankSwitch := rfl
theorem exec_nodeVersionMove : exec (.nodeVersionMove k t) s = s.at t fun m => m.versionMove k := rfl
theorem exec_aggregateReport : exec (.aggregateReport t) s = s.at t Mod.aggregate := rfl
theorem exec_cyclePoint : exec (.cyclePoint x k t) s = s.at t fun m => m.cyclePoint x k := rfl
theorem exec_obxCpWrite : exec (.obxCpWrite x k v t) s = s.at t fun m => m.laneDo x fun l => l.cpWrite k v := rfl
theorem exec_obxErrcapRead : exec (.obxErrcapRead x t) s = s.at t fun m => m.laneDo x LaneSt.readObxErr := rfl
end

/-- Settles O27: each event is its rule at the controllers, at every running lane, or at the lane that it names. -/
theorem banksVersionsAndCyclePoints : Obligations.BanksVersionsAndCyclePoints := by
  unfold Obligations.BanksVersionsAndCyclePoints
  intro s x t k v m0 o l major
  refine ⟨fun hp => ?_, fun b hr ht hb hn => ?_, fun w hx hw hm => ?_, fun hx hm => ?_, fun hs ho hk hp hf => ?_, fun hp => ?_⟩
  · refine Completes.of_at (exec_obxBankswWrite t s x v) ?_
    rw [Mod.bankSwWrite, if_neg (by rw [Mod.lane_advance, hp]; decide)]
    exact Mod.bankRequests_cond _
  · refine Completes.of_at (exec_bankSwitch t s) ?_
    obtain ⟨hobx, hlane⟩ := m0.bankSwitch_due hr ht hb hn
    rw [hobx]
    exact ⟨rfl, rfl, fun c => by cases c <;> rfl, hlane⟩
  · refine Completes.of_at (exec_nodeVersionMove t s k) ?_
    rw [Mod.versionMove_lane m0 k hx, LaneSt.versionMove_due (mcn := m0.obx.mcn) (m0.lane x) m0.cycleIn hw hm]
    exact ⟨SMap.find_put_self .., SMap.find_del_self ..⟩
  · refine Completes.of_at (exec_aggregateReport t s) ?_
    obtain ⟨hnevt, hfrom, hrecs⟩ := LaneSt.majorTo_due (m0.lane x) m0.cycleIn (me := x.idx) hm
    rw [Mod.aggregate_lane m0 hx]
    refine ⟨hnevt, hfrom, hrecs.trans ?_⟩
    simp only [m0.cycleIn_role]
    rfl
  · refine Completes.of_at (exec_cyclePoint t s x k) ?_
    have hcount := l.obx.fire_nibble hk
    have hd : (nibble l.obx.cpcnt.toNat k + 1) % 16 < 16 := Nat.mod_lt _ (by decide)
    rw [Mod.cyclePoint_fires m0 hs ho hk hp hf, Mod.lane_setLane_self]
    simp only [bits_nibble]
    rw [show ((m0.lane x).obx.fire k).cpcnt.toNat = _ from hcount]
    exact ⟨nibble_setNibble_self hd, rfl, fun j _ hj => nibble_setNibble_ne hd hj⟩
  · exact ⟨(exec_obxCpWrite t s x k v).trans (State.at_becomes s t _ (Mod.laneDo_of_powered m0 x _ hp)),
      (exec_obxErrcapRead t s x).trans (State.at_becomes s t _ (Mod.laneDo_of_powered m0 x _ hp))⟩

end Sys2Proof.Machine
end

