-- ==== Sys2Proof/Proofs/ClockSync.lean ====
section
/-!
SUPPORT and the settled statement on clock synchronisation: SYNC frames, the measured deviations, the fault-tolerant average and the rate
(07_opbex.md R223 to R226; 08_phase_and_time.md R241).
-/
namespace Sys2Proof.Machine

/-! ### A participant's synchronisation in the module -/

theorem Mod.whoSync_setWhoSync (m : Mod) (w : Who) (s : Sync) : (m.setWhoSync w s).whoSync w = s := by
  cases w with
  | mod => rfl
  | node k => exact congrArg Node.sync (m.node_setNode_self k _)
  | star c => exact congrArg Star.sync (m.star_setStar_self c _)

/-- To hear the active module's frame leaves controllers and lanes. -/
theorem Mod.hear_keeps (m : Mod) (ch : Chan) (a : Nat) :
    (m.hear ch a).obx = m.obx ∧ (m.hear ch a).lanes = m.lanes ∧ (m.hear ch a).role = m.role ∧ (m.hear ch a).time = m.time := by
  unfold Mod.hear
  split
  · exact ⟨rfl, rfl, rfl, rfl⟩
  · cases ch <;> exact ⟨rfl, rfl, rfl, rfl⟩

/-! ### SYNC frames (R223, R224) -/

section
variable (m : Mod) {w : Who} {n j : Nat} {off : Int}

/-- The channels on which a source sends: a star on its own. -/
def Who.lines : Who → List Chan
  | .star c => [c]
  | _ => [.a, .b]

/-- The SYNC of source `j` on a channel in minor cycle `n`, at offset `off`. -/
def Mod.syncBytes (w : Who) (n j : Nat) (off : Int) (ch : Chan) : Bytes :=
  syncFrame (m.whoAddr w) (n % 4294967296) j (off - ((syncOff j : Int) - m.whoDelay ch w)) (m.whoSync w).c (m.whoSync w).rate
    (Config.farLinkKey (m.whoAddr w))

theorem Mod.syncSend_due (hn : m.whoAt w = some (n, off)) (hj : m.obx.bk.syncIdx (m.whoAddr w) = some j)
    (hd : ∀ c, (syncOff j : Int) - m.whoDelay c w ≤ off) :
    (m.syncSend w).lanes = m.lanes ∧
      (m.syncSend w).sent = m.sent ++ w.lines.map fun c => ⟨m.clock, whoDest w c, m.syncBytes w n j off c⟩ := by
  have hnone (cs : List Chan) : ¬ (cs.any fun c => decide (off < (syncOff j : Int) - m.whoDelay c w)) = true := by
    simp [fun c => Int.not_lt.mpr (hd c)]
  unfold Mod.syncSend
  simp only [hn, hj, if_neg (hnone _)]
  cases w with
  | star c => exact ⟨rfl, rfl⟩
  | mod => exact ⟨rfl, List.append_assoc ..⟩
  | node k => exact ⟨rfl, List.append_assoc ..⟩

/-- A SYNC of another source that the schedule names gives its deviation. -/
theorem Mod.syncReceive_taken {ch : Chan} {f : Frame} (hn : m.whoAt w = some (n, off)) (hg : f.good 0x20 = true)
    (hk : linkOk (Config.farLinkKey (faddr f.body)) f.body = true) (hj : Bytes.le f.body 8 1 ≤ 7)
    (hs : m.obx.bk.syncSrc (Bytes.le f.body 8 1) = faddr f.body) (h0 : faddr f.body ≠ 0) (ha : faddr f.body ≠ m.whoAddr w) :
    (m.syncReceive w ch f).lanes = m.lanes ∧
      (m.syncReceive w ch f).whoSync w =
        (m.whoSync w).take (Bytes.le f.body 8 1) ch (off - (syncOff (Bytes.le f.body 8 1) : Int) - m.whoDelay ch w) := by
  unfold Mod.syncReceive
  simp only [hn]
  rw [if_neg (by simp [hg, hk, hj, hs, h0, ha])]
  cases w with
  | mod =>
    obtain ⟨hobx, hlanes, -, -⟩ := (m.setWhoSync .mod ((m.whoSync .mod).take (Bytes.le f.body 8 1) ch
      (off - (syncOff (Bytes.le f.body 8 1) : Int) - m.whoDelay ch .mod))).hear_keeps ch (faddr f.body)
    exact ⟨hlanes, congrArg Obx.sync hobx⟩
  | node k => exact ⟨rfl, Mod.whoSync_setWhoSync ..⟩
  | star c => exact ⟨rfl, Mod.whoSync_setWhoSync ..⟩
end

section
variable (s : Sync) {j : Nat} {ch : Chan} {d : Int}

theorem Sync.take_far (h : 20000 < d.natAbs) : s.take j ch d = s := if_pos h

theorem Sync.take_kept {d' : Int} (h : s.ds.find j = some (d', .a)) : s.take j ch d = s := by
  unfold Sync.take
  split
  · rfl
  · simp only [h]

/-- A near value of channel A is taken where there is none of channel A yet, one of channel B where there is none at all. -/
theorem Sync.take_new (hd : d.natAbs ≤ 20000) (hc : ch = .a ∨ s.ds.find j = none) (h : ∀ d', s.ds.find j ≠ some (d', .a)) :
    s.take j ch d = { s with ds := s.ds.put j (d, ch) } := by
  unfold Sync.take
  rw [if_neg (Nat.not_lt.mpr hd)]
  split
  · exact absurd ‹_› (h _)
  · exact if_pos (hc.imp_right fun hn => by rw [hn]; rfl)

theorem Sync.take_total : (s.take j ch d).total = s.total := by
  unfold Sync.take
  split
  · rfl
  · split
    · rfl
    · exact (apply_ite Sync.total _ _ _).trans (ite_self _)
end

/-! ### The offset correction (R225, R241) -/

theorem Mod.puts_obx (m : Mod) (es : List Evt) : (m.puts es).obx = m.obx := (congrArg Mod.obx (m.puts_amber_only es) :)

section
variable (m : Mod) (w : Who)

/-- The steering term of a participant after an average. -/
def Mod.steerOf (r : Sync) : Int :=
  match w with
  | .mod => if r.loss = 0 then m.steer else 0
  | _ => 0

/-- The average of a participant's present values. -/
def Mod.averaged : Sync := ((m.whoSync w).correct (m.obx.bk.syncIdx (m.whoAddr w))).1

/-- A participant's synchronisation after the correction. -/
def Mod.corrected : Sync :=
  { m.averaged w with ds := [], c := (m.averaged w).c + m.steerOf w (m.averaged w), csum := (m.averaged w).csum + m.steerOf w (m.averaged w),
                      total := (m.averaged w).total + m.steerOf w (m.averaged w) }

/-- The module takes its own correction: deviating sources are recorded, and so is a change of the synchronisation. -/
def Mod.takeCorrection (s1 : Sync) (es : List Evt) : Mod :=
  let m1 := (m.setWhoSync .mod s1).puts es
  if s1.ok = m.obx.sync.ok then m1
  else
    let m2 := m1.obxOuts ([.irq irqSYNC] ++ if s1.ok then [] else [.err 7 7])
    if s1.ok then m2 else m2.put (mkEvt (Config.otherCode 4 1) 7 7 0 (leBytes 1 s1.loss))

theorem Mod.takeCorrection_obx (s1 : Sync) (es : List Evt) : (m.takeCorrection s1 es).obx = { m.obx with sync := s1 } := by
  unfold Mod.takeCorrection
  extract_lets m1 m2
  have h1 : m1.obx = { m.obx with sync := s1 } := Mod.puts_obx ..
  have h2 : m2.obx = { m.obx with sync := s1 } := (Mod.obxOuts_obx ..).trans h1
  split
  · exact h1
  · split
    · exact h2
    · exact h2

theorem Mod.offsetCorrect_sync {n : Nat} {off : Int} (hn : m.whoAt w = some (n, off)) (ho : 3940000 ≤ off) :
    (m.offsetCorrect w).whoSync w = m.corrected w := by
  unfold Mod.offsetCorrect
  simp only [hn, if_neg (Int.not_lt.mpr ho)]
  cases w with
  | mod =>
    exact congrArg Obx.sync (m.takeCorrection_obx (m.corrected .mod) _)
  | node k => exact congrArg Node.sync (m.node_setNode_self k _)
  | star c => exact congrArg Star.sync (m.star_setStar_self c _)
end

section
variable (s : Sync) (own : Option Nat)

/-- Fewer than three values correct nothing and count a minor cycle without correction. -/
theorem Sync.correct_few (h : ((s.values own).map (·.2)).length < 3) :
    (s.correct own).1 = { s with loss := min 15 (s.loss + 1), nval := (s.values own).length, ok := s.ok && decide (min 15 (s.loss + 1) < 8) } := by
  have havg : ftAverage ((s.values own).map (·.2)) = none := if_pos h
  unfold Sync.correct
  simp only [havg]

/-- An average steps the offset by its negative, limited to 5 µs. -/
theorem Sync.correct_average {avg : Int} (h : ftAverage ((s.values own).map (·.2)) = some avg) :
    (s.correct own).1.loss = 0 ∧ (s.correct own).1.ok = true ∧ (s.correct own).1.total = s.total + clampI 5000 (-avg) := by
  unfold Sync.correct
  simp only [h, and_self]
end

/-- The module alone is steered, and only after an average. -/
theorem Mod.steerOf_lossy (m : Mod) (w : Who) {r : Sync} (h : r.loss ≠ 0) : m.steerOf w r = 0 := by
  cases w with
  | mod => exact if_neg h
  | _ => rfl
theorem Mod.steerOf_averaged (m : Mod) (w : Who) {r : Sync} (h : r.loss = 0) : m.steerOf w r = if w = .mod then m.steer else 0 := by
  cases w with
  | mod => exact (if_pos h).trans (if_pos rfl).symm
  | _ => exact (if_neg nofun).symm

/-! ### The commands -/

section
variable (t : Nat) (s : State) (w : Who)
theorem exec_syncSend : exec (.syncSend w t) s = s.at t fun m => m.syncSend w := rfl
theorem exec_syncReceive (ch : Chan) (f : Frame) : exec (.syncReceive w ch f t) s = s.at t fun m => m.syncReceive w ch f := rfl
theorem exec_offsetCorrection : exec (.offsetCorrection w t) s = s.at t fun m => m.offsetCorrect w := rfl
theorem exec_rateCorrection : exec (.rateCorrection w t) s = s.at t fun m => m.rateCorrect w := rfl
end

/-- Settles O28: each event is one operation on the participant's synchronisation, whoever the participant is. -/
theorem clocksFollowTheFaultTolerantAverage : Obligations.ClocksFollowTheFaultTolerantAverage := by
  unfold Obligations.ClocksFollowTheFaultTolerantAverage
  intro s w ch t m0 sy
  refine ⟨fun n off j hn hj hd => ?_, fun n off f hn hg hk => ?_, fun n off hn ho => ?_, ?_⟩
  · refine Completes.of_at (exec_syncSend t s w) ?_
    have hsend := m0.syncSend_due hn hj hd
    cases w with
    | mod => exact hsend
    | node k => exact hsend
    | star c => exact hsend
  · intro j d hj hs h0 ha
    refine Completes.of_at (exec_syncReceive t s w ch f) ?_
    obtain ⟨hlanes, hsync⟩ := m0.syncReceive_taken (ch := ch) hn hg hk hj hs h0 ha
    rw [show ((s.m.advance t).syncReceive w ch f).whoSync w = sy.take j ch d from hsync]
    refine ⟨hlanes, sy.take_total, fun hd hnone => ?_, fun hd hch hnew => ?_, fun d' hold => sy.take_kept hold, fun hd => sy.take_far hd⟩
    · rw [sy.take_new hd (Or.inr hnone) (by rw [hnone]; nofun)]
      exact SMap.find_put_self ..
    · subst hch
      rw [sy.take_new hd (Or.inl rfl) hnew]
      exact SMap.find_put_self ..
  · intro vs
    refine Completes.of_at (exec_offsetCorrection t s w) ?_
    rw [show ((s.m.advance t).offsetCorrect w).whoSync w = m0.corrected w from m0.offsetCorrect_sync w hn ho]
    refine ⟨rfl, fun hfew => ?_, fun avg havg => ?_⟩
    · have hmean : m0.averaged w = _ := sy.correct_few (s.m.obx.bk.syncIdx (s.m.whoAddr w)) hfew
      have hloss : (m0.averaged w).loss = min 15 (sy.loss + 1) := by rw [hmean]
      have hsteer : m0.steerOf w (m0.averaged w) = 0 := m0.steerOf_lossy w (by rw [hloss]; omega)
      refine ⟨?_, hloss, fun h8 => ?_⟩
      · rw [Mod.corrected, hsteer, hmean]
        exact Int.add_zero _
      · rw [Mod.corrected, hmean]
        simp only [Bool.and_eq_false_iff, decide_eq_false_iff_not]
        exact Or.inr (by omega)
    · obtain ⟨hloss, hok, htotal⟩ := sy.correct_average (s.m.obx.bk.syncIdx (s.m.whoAddr w)) havg
      have hsteer : m0.steerOf w (m0.averaged w) = if w = .mod then s.m.steer else 0 := m0.steerOf_averaged w hloss
      refine ⟨hloss, hok, ?_⟩
      rw [Mod.corrected, hsteer, show (m0.averaged w).total = _ from htotal]
  · refine Completes.of_at (exec_rateCorrection t s w) ?_
    rw [show ((s.m.advance t).rateCorrect w).whoSync w = _ from Mod.whoSync_setWhoSync ..]
    cases w with
    | mod => exact ⟨rfl, rfl, rfl⟩
    | node k => exact ⟨rfl, rfl, rfl⟩
    | star c => exact ⟨rfl, rfl, rfl⟩

end Sys2Proof.Machine
end

