-- ==== Sys2Proof/Proofs/ColdStart.lean ====
section
/-!
SUPPORT and the settled statement on the cold start: listening, COLD frames, yielding, mastership and the first CYC heard (07_opbex.md R227 to
R229; 08_phase_and_time.md R238).
-/
namespace Sys2Proof.Machine

/-! ### Claims and epochs (R329) -/

theorem claimOf_num {e r i : Nat} (hr : r < 256) (hi : i < 256) : claimOf (⟨e, r, i⟩ : Claim).num = ⟨e, r, i⟩ := by
  simp only [claimOf, Claim.num, Claim.mk.injEq]
  omega

@[simp] theorem EpochCopy.of_valid (e : Nat) : (EpochCopy.of e).valid = true := beq_self_eq_true _
theorem Pair.epoch_store (p : Pair) (e : Nat) : (p.store e).epoch = e := by
  rw [Pair.epoch, show (p.store e).epoch0 = .of e from rfl, show (p.store e).epoch1 = .of e from rfl, EpochCopy.of_valid]
  exact max_self e

/-! ### Time at the end of listening (R238) -/

/-- Setting the time leaves the claim's parts and gives the module a source of time. -/
theorem Mod.setTime_spec (m : Mod) : m.setTime.pair = m.pair ∧ m.setTime.sid = m.sid ∧ m.setTime.time.source ≠ 0 := by
  unfold Mod.setTime
  split
  · next h => exact ⟨rfl, rfl, h⟩
  · refine ⟨rfl, rfl, ?_⟩
    extract_lets tk q
    show q.1 ≠ 0
    unfold q
    split
    · exact nofun
    · split
      · exact nofun
      · exact nofun

/-! ### Listening and the cold start (R227, R228) -/

section
variable (m : Mod)

theorem Mod.listenTimeout_due {u : Nat} (hl : m.obx.listenSince = some u) (ht : u + 40000000 ≤ m.clock) (hs : m.service = .starting) :
    m.listenTimeout =
      { m.setTime with
        obx := { m.setTime.obx with listenSince := none, cold := some ⟨m.clock, 0, m.clock⟩, claim := m.setTime.coldClaim } } := by
  unfold Mod.listenTimeout
  simp only [hl]
  exact if_neg (by simp [hs, ht])

theorem Mod.listenTimeout_early {u : Nat} (hl : m.obx.listenSince = some u) (ht : m.clock < u + 40000000) : m.listenTimeout = m := by
  unfold Mod.listenTimeout
  simp only [hl]
  exact if_pos (Or.inl ht)

theorem Mod.coldSend_due {c : Cold} (hc : m.obx.cold = some c) (hd : c.sent = 0 ∨ c.lastAt + 1000 * coldPeriod m.sid ≤ m.clock) :
    m.coldSend =
      ({ m with obx := { m.obx with cold := some { c with sent := c.sent + 1, lastAt := m.clock } } } : Mod).obxOuts
        (bothCh (claimFrame 0x32 (modAddr m.sid) m.obx.claim 0 (coldPeriod m.sid) 0 m.linkKey)) := by
  unfold Mod.coldSend
  simp only [hc]
  exact if_neg fun h => hd.elim h.1 (Nat.not_le.mpr h.2)

section
variable {f : Frame} {c : Cold} (hc : m.obx.cold = some c) (hg : f.good 0x32 = true)
  (hk : linkOk (Config.farLinkKey (faddr f.body)) f.body = true) (hs : (claimOf (cfClaim f.body)).sid ≠ m.sid)
include hc hg hk hs

/-- A higher claim makes the module yield and listen again. -/
theorem Mod.coldReceive_yields (h : m.obx.claim < cfClaim f.body) :
    m.coldReceive f =
      { m with pair := m.pair.see (cfClaim f.body), obx := ({ m.obx with cold := none, yielded := true } : Obx).listen m.clock } := by
  unfold Mod.coldReceive
  rw [if_neg (by simp [hg, hk, hs])]
  simp only [hc]
  exact if_pos h

/-- Any other leaves the cold start, and its epoch is seen. -/
theorem Mod.coldReceive_stands (h : cfClaim f.body ≤ m.obx.claim) : m.coldReceive f = { m with pair := m.pair.see (cfClaim f.body) } := by
  unfold Mod.coldReceive
  rw [if_neg (by simp [hg, hk, hs])]
  simp only [hc]
  exact if_neg (Nat.not_lt.mpr h)
end

/-! ### Mastership (R229) -/

theorem firstT0_spec (n : Nat) : firstT0 n % 4000000 = 0 ∧ n + 4000000 ≤ firstT0 n ∧ firstT0 n < n + 8000000 := by
  unfold firstT0
  omega

theorem Mod.becomeMaster_due {c : Cold} (hc : m.obx.cold = some c) (hn : 16 ≤ c.sent) (ht : c.since + 20000000 ≤ m.clock) :
    m.becomeMaster =
      ({ m with obx := m.obx.lead (⟨(claimOf m.obx.claim).epoch, roleACTIVE, m.sid⟩ : Claim).num m.clock,
                pair := m.pair.store (claimOf m.obx.claim).epoch } : Mod).setRole roleACTIVE := by
  unfold Mod.becomeMaster
  simp only [hc]
  exact if_neg fun h => h.elim (Nat.not_lt.mpr hn) (Nat.not_lt.mpr ht)

theorem Mod.becomeMaster_early {c : Cold} (hc : m.obx.cold = some c) (h : c.sent < 16 ∨ m.clock < c.since + 20000000) :
    m.becomeMaster = m := by
  unfold Mod.becomeMaster
  simp only [hc]
  exact if_pos h

/-! ### A CYC heard (R227, R238) -/

/-- The module that adopts a CYC: its controllers follow it, and its time has a source. -/
def Mod.adopted (ch : Chan) (b : Bytes) : Mod :=
  let m2 : Mod := { m with pair := m.pair.see (cycClaim b), obx := m.obx.adopt ch m.clock b }
  let first := m2.time.source == 0
  let m3 : Mod := { m2 with time := if first then { m2.time with source := 1, verified := true } else m2.time
                            lanes := if first then m2.lanes.map fun l => { l with tOff := m2.obx.sync.total, slew := 0 } else m2.lanes }
  let m4 := m3.setRole roleCOLD
  { m4 with obx := { m4.obx with claim := m4.claimNum roleCOLD } }

theorem Mod.cycReceive_adopts {ch : Chan} {f : Frame} (hg : f.good 0x01 = true) (hs : (claimOf (cycClaim f.body)).sid ≠ m.sid)
    (hr : m.role ≠ roleACTIVE) (hl : m.obx.listenSince.isSome = true ∨ m.obx.cold.isSome = true) :
    m.cycReceive ch f = (m.adopted ch f.body).hear ch (modAddr (claimOf (cycClaim f.body)).sid) := by
  unfold Mod.cycReceive
  exact (if_neg fun h => h.elim (fun hb => by rw [hg] at hb; cases hb) hs).trans ((if_neg hr).trans (if_pos hl))

theorem Mod.adopted_source (ch : Chan) (b : Bytes) : (m.adopted ch b).time.source ≠ 0 := by
  show (if m.time.source == 0 then { m.time with source := 1, verified := true } else m.time).source ≠ 0
  split
  · exact Nat.one_ne_zero
  · next h => exact fun h0 => h (beq_iff_eq.mpr h0)
end

/-! ### The commands -/

section
variable (t : Nat) (s : State) (f : Frame)
theorem exec_listenTimeout : exec (.listenTimeout t) s = s.at t Mod.listenTimeout := rfl
theorem exec_coldSend : exec (.coldSend t) s = s.at t Mod.coldSend := rfl
theorem exec_coldReceive : exec (.coldReceive f t) s = s.at t fun m => m.coldReceive f := rfl
theorem exec_becomeMaster : exec (.becomeMaster t) s = s.at t Mod.becomeMaster := rfl
theorem exec_cycReceive (ch : Chan) : exec (.cycReceive ch f t) s = s.at t fun m => m.cycReceive ch f := rfl
end

/-- Settles O29: each event of the cold start is one branch of its rule, with the claim, the epoch and T0 computed from the state. -/
theorem coldStartEndsWithOneMaster : Obligations.ColdStartEndsWithOneMaster := by
  unfold Obligations.ColdStartEndsWithOneMaster
  intro s t f m0 o from'
  refine ⟨fun u hl ht hs hsid => ?_, fun u hl ht => ?_, fun c hc hd => ?_, fun c hc hg hk hs => ⟨fun hhigh => ?_, fun hlow => ?_⟩,
    fun c hc hn ht => ?_, fun c hc h => ?_, fun ch hg hs hr hl => ?_⟩
  · refine Completes.of_at (exec_listenTimeout t s) ?_
    obtain ⟨hpair, hid, hsource⟩ := m0.setTime_spec
    rw [Mod.listenTimeout_due m0 hl ht hs]
    refine ⟨rfl, rfl, ?_, hsource⟩
    show claimOf (⟨m0.setTime.pair.nextEpoch, 1, m0.setTime.sid⟩ : Claim).num = _
    rw [hpair, hid]
    exact claimOf_num (by decide) (Nat.lt_trans hsid (by decide))
  · exact (exec_listenTimeout t s).trans (State.at_unchanged s t _ (Mod.listenTimeout_early m0 hl ht))
  · refine Completes.of_at (exec_coldSend t s) ?_
    rw [Mod.coldSend_due m0 hc hd]
    exact ⟨rfl, _, rfl, List.append_assoc ..⟩
  · refine Completes.of_at (exec_coldReceive t s f) ?_
    rw [Mod.coldReceive_yields m0 hc hg hk hs hhigh]
    exact ⟨rfl, rfl, rfl⟩
  · refine Completes.of_at (exec_coldReceive t s f) ?_
    rw [Mod.coldReceive_stands m0 hc hg hk hs hlow]
    exact ⟨rfl, rfl⟩
  · refine Completes.of_at (exec_becomeMaster t s) ?_
    rw [Mod.becomeMaster_due m0 hc hn ht]
    obtain ⟨hgrid, hlow, hhigh⟩ := firstT0_spec (o.net m0.clock)
    exact ⟨rfl, rfl, rfl, rfl, rfl, rfl, hgrid, hlow, hhigh, Pair.epoch_store ..⟩
  · exact (exec_becomeMaster t s).trans (State.at_unchanged s t _ (Mod.becomeMaster_early m0 hc h))
  · refine Completes.of_at (exec_cycReceive t s f ch) ?_
    obtain ⟨hobx, -, hrole, htime⟩ := (m0.adopted ch f.body).hear_keeps ch (modAddr (claimOf (cycClaim f.body)).sid)
    rw [Mod.cycReceive_adopts m0 hg hs hr hl, show ((s.m.advance t).adopted ch f.body |>.hear ch _).obx = _ from hobx,
      show ((s.m.advance t).adopted ch f.body |>.hear ch _).role = _ from hrole,
      show ((s.m.advance t).adopted ch f.body |>.hear ch _).time = _ from htime]
    exact ⟨rfl, rfl, rfl, rfl, rfl, rfl, m0.adopted_source ch f.body⟩

end Sys2Proof.Machine
end
